-- ==== Sys2Proof/Word.lean ====
section
/-!
DEFINITION. The words of the Colmunas V8 block model: bytes, little-endian byte strings (R3), FP32 bit patterns,
and the one form in which State holds sparse data (a list of key and value pairs).
-/

namespace Sys2Proof

/-- A byte. -/
abbrev Byte := BitVec 8

/-- A string of bytes, lowest address first (R3). -/
abbrev Bytes := List Byte

/-- The bit pattern of an FP32 value (chapter 3). -/
abbrev F32 := BitVec 32

/-- Sparse data by key: pairs with strictly rising keys, none equal to what an unlisted key reads as.
The operations and the form's invariant are in Machine/Tab.lean. -/
abbrev Tab (α : Type) := List (Nat × α)

end Sys2Proof
end

