-- ==== Sys2Proof/Syntax.lean ====
section
/-!
DEFINITION. The commands the block takes: one constructor of `Instr` per row of spec/opcode_table.json, and the
types of their operands. What the outside world supplies with a command (a received symbol, what a read of host
memory returned, what a crypto check answered, a measured value) is an operand of it.
-/

namespace Sys2Proof

/-- Where a mailbox entry comes from (Table 18-1): the PF mailbox of host port `x`, the VF mailbox of partition `p`, or
the management mailbox (a datagram from source address `a` with its XID and inline data). -/
inductive Src where
  | pf (x : Nat)
  | vf (p : Nat)
  | mgmt (a : Nat) (xid : Nat) (inl : Bytes)
  deriving DecidableEq, Repr

/-- A submission entry (Table 18-6) without its OPCODE, and the mailbox it stands in. `resv4` is bits 7:1 of byte 4,
`flags` is F8–F15, `resv7` is byte 7, `args` is bytes 8–63. -/
structure Entry where
  src : Src
  tag : Nat
  noInt : Bool
  resv4 : Nat
  flags : Nat
  part : Nat
  resv7 : Nat
  args : Bytes
  deriving DecidableEq, Repr

/-- What the outside world answers a command with: `rd` is what the read of the command's input buffer returned
(none: the read failed, R545), `wrOk` says whether a posted write to its output buffer was accepted, `crypt` is the plain
text that the crypto engine recovered (none: its check failed). -/
structure HostIo where
  rd : Option Bytes
  wrOk : Bool
  crypt : Option Bytes
  deriving DecidableEq, Repr

/-- An election candidate's message (R533): package, tray, MASTER_PRIO, eligible, map digest, its frame counter, the
last GEN it accepted, whether it has accepted a tick symbol since HUB_UP. -/
structure Candidate where
  pkg : Nat
  tray : Nat
  prio : Nat
  eligible : Bool
  mapDigest : Nat
  frame : Nat
  gen : Nat
  ticked : Bool
  deriving DecidableEq, Repr

/-- A firmware image as the boot flash holds it (R526): version, security version, the ROLLBACK_COMMIT flag of its
signed header, and whether its signature verifies against the Amtia key (what the boot ROM's check answers). -/
structure FwImage where
  version : Nat
  security : Nat
  rollbackCommit : Bool
  signed : Bool
  deriving DecidableEq, Repr

/-- What a PLDM firmware update writes (R527, R551). -/
inductive FwTarget where
  | kaolin
  | caliche
  deriving DecidableEq, Repr

/-- An error that a source detects (R475): event source and code (Tables 18-9, 18-19), the unit it names, its severity
without the leaky counter (0 corrected, 1 a frame or operation failed, 3 fatal), the operation, the partition, the address
and syndrome it latches, whether its record feeds the leaky counter, and the frame condition it raises (stop status, one
replay only). -/
structure ErrIn where
  source : Nat
  code : Nat
  unitType : Nat
  unit : Nat
  severity : Nat
  op : Nat
  part : Nat
  addr : Nat
  synd : Bytes
  feeds : Bool
  cond : Option (Nat × Bool)
  deriving DecidableEq, Repr

/-- An open flit (Table 11-7). -/
structure Flit where
  type : Nat
  rsp : Bool
  vc : Nat
  dest : Nat
  src : Nat
  spart : Nat
  flow : Nat
  first : Bool
  last : Bool
  pay : Bytes
  deriving DecidableEq, Repr

/-- A slot as a receiver sees it (R264, Table 11-5): the arrival of its marker against the expected time in 0.125 ns
(none: no marker), whether the header CRC and the trailer CRC pass, whether the trailer is stomped, the header's fields,
the flits of an open slot and the 4,096 payload bytes of a scheduled one. -/
structure SlotRx where
  slot : Nat
  offset : Option Int
  headerOk : Bool
  trailerOk : Bool
  stomped : Bool
  kind : Nat
  empty : Bool
  lost : Bool
  frame : Nat
  hop : Nat
  nhop : Nat
  route : List Nat
  slice : Nat
  src : Nat
  dest : Nat
  stream : Nat
  ackSeq : Nat
  nak : Bool
  crd : List Nat
  flits : List Flit
  payload : Bytes
  deriving DecidableEq, Repr

/-- A TICK symbol (Table 2-2). -/
structure TickSym where
  frame : Nat
  lenNext : Nat
  base : Nat
  master : Nat
  standby : Nat
  fence : Nat
  gen : Nat
  deriving DecidableEq, Repr

/-- An IDENT symbol (Table 11-6). -/
structure IdentSym where
  pkg : Nat
  link : Nat
  bundle : Nat
  pos : Nat
  stepping : Nat
  seq : Nat
  digest : Nat
  deriving DecidableEq, Repr

/-- The header of a CTL message as its receiver holds it (Table 11-19), with the package that sent it. -/
structure CtlHdr where
  srcPkg : Nat
  srcPart : Nat
  dstPart : Nat
  slice : Nat
  role : Nat
  epoch : Nat
  mseq : Nat
  replyTo : Nat
  frame : Nat
  deriving DecidableEq, Repr

/-- What the tick's memory compare finds (R478): hardened words whose three stored copies differ, as (offset in PF BAR0,
the three copies). -/
structure Upset where
  off : Nat
  a : BitVec 32
  b : BitVec 32
  c : BitVec 32
  deriving DecidableEq, Repr

/-- What a BDU command meets on its way (Table 5-7): a TSV transfer of local die `d` that fails its CRC once, or twice with
the result (for a load: the slot) it carries, and a parity error found in slot `v` of the BDU of die `d`, local bank group
`j`. -/
inductive BduFault where
  | tsvRetry (d : Nat)
  | tsvFail (d : Nat) (idx : Nat)
  | arfParity (d : Nat) (j : Nat) (v : Nat)
  deriving DecidableEq, Repr

/-- A remote request as its receiver holds it (Table 12-4): its header fields, whether a reserved field is nonzero, the
data of a STORE, and from the flits the package it comes from and the partition in SPART. -/
structure RmtReq where
  op : Nat
  size : Nat
  tag : Nat
  reqid : Nat
  dom : Nat
  comb : Bool
  defer : Bool
  resv : Bool
  addr : Nat
  a : Nat
  b : Nat
  data : Bytes
  src : Nat
  spart : Nat
  deriving DecidableEq, Repr

/-- A remote response (Table 12-5), with the package it comes from. -/
structure RmtRsp where
  op : Nat
  code : Nat
  tag : Nat
  reqid : Nat
  data : Bytes
  src : Nat
  deriving DecidableEq, Repr

/-- What a control-core access is: a load, a store, an AMO or AMOCAS (by its OP of Table 12-3), an LR or SC, or a vector
access (R301). -/
inductive CcOp where
  | load
  | store
  | amo (op : Nat)
  | lrsc
  | vector
  deriving DecidableEq, Repr

/-- An access by a control-core thread (0–255) or a Kaolin core (256, 257): its 64-bit address, 2^size bytes, the AMO
operands and the data stored. -/
structure CcAccess where
  thread : Nat
  op : CcOp
  addr : Nat
  size : Nat
  a : Nat
  b : Nat
  data : Bytes
  deriving DecidableEq, Repr

/-- What a package has read for a thaw (R384): the partition and slot index it goes to, the image, and where the package does
not have them itself its header segment and units as stored; the status of a failed read. -/
structure ThawIn where
  part : Nat
  jidx : Nat
  image : Nat
  hdr : Bytes
  units : List (Nat × Bytes)
  st : Nat
  deriving DecidableEq, Repr

/-- What a poll of a regulator reads: VOUT in mV, IOUT in mA, STATUS_WORD; none where every try failed (R553). -/
abbrev RailRead := Option (Nat × Nat × Nat)

/-- An SPDM request over a transport: port 0 or 1 (the DOE mailbox of H0 or H1) or 2 (MCTP on I3C) (R395): a session is
established with an ID, a session ends, the measurement block of an index is asked for, or anything else that changes nothing
here (certificates, challenges, keys of a session). -/
inductive SpdmReq where
  | establish (port : Nat) (id : Nat)
  | endSession (port : Nat) (id : Nat)
  | measurements (port : Nat) (index : Nat)
  | other (port : Nat)
  deriving DecidableEq, Repr

/-- A PLDM request (Table 22-5): the reading of a numeric sensor, or anything else. -/
inductive PldmReq where
  | sensor (id : Nat)
  | other
  deriving DecidableEq, Repr

/-- An MCTP control request: Set Endpoint ID, Get Endpoint ID, or anything else. -/
inductive MctpReq where
  | setEid (eid : Nat)
  | getEid
  | other
  deriving DecidableEq, Repr

/-- What a host port's error report names (Table 22-4): a completion timeout, a UR, CA or poisoned completion, another
uncorrectable error, or a correctable one. -/
inductive PortError where
  | timeout
  | badCompletion
  | uncorrectable
  | correctable
  deriving DecidableEq, Repr

/-- A request to a BAR that is not served (Table 22-4): poisoned or malformed, or with a PASID prefix or to an unimplemented
offset. -/
inductive BarError where
  | poisoned
  | unsupported
  deriving DecidableEq, Repr

/-- The commands of the block: one constructor per row of spec/opcode_table.json, in the table's order. -/
inductive Instr where
  /-- DEV_IDENTIFY (R461): Mailbox command that returns stepping, numerics revision, package ID, power state, serial number and firmware versions. -/
  | devIdentify (e : Entry) (io : HostIo)
  /-- DEV_GET_STATE (R461): Mailbox command that returns the power state, map state, tick role, fence state, frame counter and partition bitmaps. -/
  | devGetState (e : Entry) (io : HostIo)
  /-- DEV_SET_POWER_STATE (R523): Mailbox command that sets a power-state target and optionally FALLOW_FRAMES; it completes OK_PENDING and reports later through DEV_POWER_STATE. -/
  | devSetPowerState (e : Entry) (io : HostIo)
  /-- DEV_GET_TELEMETRY (R519): Mailbox command that writes the 608-byte telemetry block of one sampling interval to a host buffer. -/
  | devGetTelemetry (e : Entry) (io : HostIo)
  /-- DEV_SET_TIME (R482): Management command that sets Caliche UTC time, which is used only in the TIME field of later records. -/
  | devSetTime (e : Entry) (io : HostIo)
  /-- PART_CREATE (R416): Creates partition p on a host port and enables VF p of that port. -/
  | partCreate (e : Entry) (io : HostIo)
  /-- PART_DESTROY (R421): Destroys an idle partition: releases and zeroes its resources, frees its slots, zeroises its keys and disables its VF. -/
  | partDestroy (e : Entry) (io : HostIo)
  /-- PART_ASSIGN (R418): Sets absolute targets for quadrants, threads, request slots, tier-2 quota and slot budget, all-or-nothing, and rebuilds the tier map. -/
  | partAssign (e : Entry) (io : HostIo)
  /-- JOB_START (R429): Reads and validates a frame-image part, reserves its shares and enters STARTING, then sends READY to the lead. -/
  | jobStart (e : Entry) (io : HostIo) (kat : List Nat)
  /-- JOB_RESUME (R437): JOB_START with the RESUME flag, which makes the lead send GO so that a paused job resumes at frame F. -/
  | jobResume (e : Entry) (io : HostIo)
  /-- JOB_STOP_IMMEDIATE (R434): JOB_STOP MODE 0 (STOP): places a STOP entry in the next frame plan, and the job stops with JOB_STOPPED. -/
  | jobStopImmediate (e : Entry) (io : HostIo)
  /-- JOB_STOP_CHEAP (R434): JOB_STOP MODE 1 (STOP_CHEAP): places a STOP entry at the next cheap point, or once MAX_WAIT frames have passed. -/
  | jobStopCheap (e : Entry) (io : HostIo)
  /-- JOB_PAUSE (R434): JOB_STOP MODE 2 (PAUSE): places a PAUSE entry in the next frame plan. -/
  | jobPause (e : Entry) (io : HostIo)
  /-- JOB_PAUSE_CHEAP (R434): JOB_STOP MODE 3 (PAUSE_CHEAP): pauses the job at the next cheap point, or once MAX_WAIT frames have passed. -/
  | jobPauseCheap (e : Entry) (io : HostIo)
  /-- JOB_QUERY (R438): Returns the job state, identity, frame epoch, phase and stop information. -/
  | jobQuery (e : Entry) (io : HostIo)
  /-- PART_ACCOUNTING (R443): Writes the partition's counter set and the sets of its queues, taken between two commits, to a host buffer. -/
  | partAccounting (e : Entry) (io : HostIo)
  /-- MODEL_DECLARE (R393): Binds a model declaration and an initial model epoch to an idle partition and discards its shard records. -/
  | modelDeclare (e : Entry) (io : HostIo)
  /-- WEIGHT_LOAD_SHARD (R400): Accepts a shard load into the tiered range; it completes OK_PENDING and reports through WEIGHT_SHARD_DONE. -/
  | weightLoadShard (e : Entry) (io : HostIo)
  /-- WEIGHT_VERIFY (R403): Starts an immediate V6 recheck and a Vexsum reference pass on the named units. -/
  | weightVerify (e : Entry) (io : HostIo)
  /-- REPLACE_BEGIN (R408): Starts a weight replacement to a new epoch: reserves fallow space and stops admission. -/
  | replaceBegin (e : Entry) (io : HostIo)
  /-- REPLACE_LAYER (R410): Loads one shard of the new epoch into pinned pages once the barrier has taken effect. -/
  | replaceLayer (e : Entry) (io : HostIo)
  /-- REPLACE_END (R411): Commits the new epoch on every package at the lead's next commit if every unit is complete. -/
  | replaceEnd (e : Entry) (io : HostIo)
  /-- REPLACE_ABORT (R411): REPLACE_END with ABORT, which stops the job with REPLACE_ABORTED and discards new-epoch records. -/
  | replaceAbort (e : Entry) (io : HostIo)
  /-- KEY_INSTALL (R397): Unwraps a MODEL or FALLOW key under the SPDM session, or stores a map public key in the key store. -/
  | keyInstall (e : Entry) (io : HostIo)
  /-- KEY_DELETE (R397): KEY_INSTALL with class 0, which deletes the named key. -/
  | keyDelete (e : Entry) (io : HostIo)
  /-- REQ_SUBMIT (R353): Submits a new request on the slice lead; if no check rejects it, a FREE slot becomes QUEUED at once. -/
  | reqSubmit (e : Entry) (io : HostIo)
  /-- REQ_CONTINUE (R345): REQ_SUBMIT with CONTINUE, which queues a continuation turn for a session held with cause TURN. -/
  | reqContinue (e : Entry) (io : HostIo)
  /-- REQ_CANCEL (R346): Requests that a request move to DRAIN or DONE at the next commit. -/
  | reqCancel (e : Entry) (io : HostIo)
  /-- REQ_QUERY (R464): Returns the committed state, status, image state and statistics of a request. -/
  | reqQuery (e : Entry) (io : HostIo)
  /-- REQ_RELEASE (R343): REQ_QUERY with RELEASE, which frees a DONE or FAULT slot at the next commit. -/
  | reqRelease (e : Entry) (io : HostIo)
  /-- QUEUE_CONFIG (R347): Sets the owner, weight and depth limit of a tenant queue, effective at the next tick. -/
  | queueConfig (e : Entry) (io : HostIo)
  /-- QUEUE_REMOVE (R464): QUEUE_CONFIG with REMOVE, which unconfigures an empty queue. -/
  | queueRemove (e : Entry) (io : HostIo)
  /-- STREAM_BIND (R362): Binds a stream ring and its tail to host IOVAs and resets its counts. -/
  | streamBind (e : Entry) (io : HostIo)
  /-- STREAM_UNBIND (R362): STREAM_BIND with UNBIND, which removes a ring binding. -/
  | streamUnbind (e : Entry) (io : HostIo)
  /-- ADMISSION_CONFIG (R354): Sets admission parameters, decode targets, accepted sources and credit sizes. -/
  | admissionConfig (e : Entry) (io : HostIo)
  /-- SESSION_FALLOW (R379): Accepts a fallow of a DECODE or HOLD session, reserves image space on every holder and returns the IMAGE_ID. -/
  | sessionFallow (e : Entry) (io : HostIo)
  /-- SESSION_THAW_OWN (R383): Starts a thaw of an image back into its own FALLOW slot, after checks and a KV reservation. -/
  | sessionThawOwn (e : Entry) (io : HostIo)
  /-- SESSION_THAW_NEW (R383): SESSION_THAW with NEW_SLOT, which starts a thaw of an image into a new slot of a DECODE or MIXED job. -/
  | sessionThawNew (e : Entry) (io : HostIo)
  /-- SESSION_EXPORT (R387): Writes the export form of a COMPLETE image to a host buffer. -/
  | sessionExport (e : Entry) (io : HostIo)
  /-- SESSION_IMPORT (R387): Reads an export form, verifies it, and writes segments under a new IMAGE_ID. -/
  | sessionImport (e : Entry) (io : HostIo)
  /-- SESSION_DISCARD (R388): Frees a FALLOW slot and, with DELETE, removes the image's segments. -/
  | sessionDiscard (e : Entry) (io : HostIo)
  /-- TOPO_LOAD_MAP (R284): Verifies and loads a signed installed or bring-up map, then rewrites the tick configuration and compares links. -/
  | topoLoadMap (e : Entry) (io : HostIo)
  /-- TOPO_VERIFY (R286): Checks the cabling against the loaded map and returns a bitmap of failing links. -/
  | topoVerify (e : Entry) (io : HostIo)
  /-- LINK_QUERY (R466): Returns the status, delay, far identity and counters of one link. -/
  | linkQuery (e : Entry) (io : HostIo)
  /-- GROUP_WRITE (R316): Stages a group-table entry, which takes effect at the next tick. -/
  | groupWrite (e : Entry) (io : HostIo)
  /-- TICK_CONFIG (R466): Writes the hardened TICK_CONFIG register while no job runs. -/
  | tickConfig (e : Entry) (io : HostIo)
  /-- SLICE_BIND (R426): Binds or removes a partition's slice ID, rank and member list. -/
  | sliceBind (e : Entry) (io : HostIo)
  /-- PWR_SET_CAP (R506): Sets the power cap in force from the next control period. -/
  | pwrSetCap (e : Entry) (io : HostIo)
  /-- PWR_SET_MODE (R504): Selects fixed-frequency or boost mode on an idle package that is not in SERVICE. -/
  | pwrSetMode (e : Entry) (io : HostIo)
  /-- PWR_DOMAIN (R501): Switches one power domain on or off and completes when the ramp ends. -/
  | pwrDomain (e : Entry) (io : HostIo)
  /-- ENERGY_READ (R518): Returns the energy of the package, a partition or a queue, with the frame number. -/
  | energyRead (e : Entry) (io : HostIo)
  /-- FAULT_LOG_READ (R493): Returns error records from Caliche's fault log, starting at a given index. -/
  | faultLogRead (e : Entry) (io : HostIo)
  /-- FAULT_POLICY_SET (R487): Writes the ACTION and THRESHOLD of one unit type in the hardened policy table. -/
  | faultPolicySet (e : Entry) (io : HostIo)
  /-- SCRUB_CONFIG (R467): Sets the enable and period of scratchpad scrubbing or of the tier-2 patrol. -/
  | scrubConfig (e : Entry) (io : HostIo)
  /-- REPLICA_COMPARE_CONFIG (R407): Sets Vexsum enable, action, window, fill limit and peer replicas. -/
  | replicaCompareConfig (e : Entry) (io : HostIo)
  /-- UNIT_FENCE (R489): Enters a unit in the fence table; the command completes at the tick at which the fence takes effect. -/
  | unitFence (e : Entry) (io : HostIo)
  /-- UNIT_UNFENCE (R490): Removes a unit's fence entry and clears its leaky counter from the next tick. -/
  | unitUnfence (e : Entry) (io : HostIo)
  /-- FREEZE (R556): Management command that freezes the package: DRAM enters self-refresh and every clock except Caliche's stops. -/
  | freeze (e : Entry) (io : HostIo)
  /-- CLOCK_RELEASE (R558): Restarts the clocks of a frozen package, stops its jobs with DEBUG_FREEZE and returns it to LINKS_TRAIN. -/
  | clockRelease (e : Entry) (io : HostIo) (freezeN : Bool)
  /-- SCAN_READ (R560): Returns bits of a scan chain of a frozen package. -/
  | scanRead (e : Entry) (io : HostIo)
  /-- DIAG_RUN (R467): Starts a diagnostic test on a unit; the outcome arrives as DIAG_DONE. -/
  | diagRun (e : Entry) (io : HostIo)
  /-- MB_SQ_TAIL_WRITE (R449): Submission doorbell write, which makes new entries fetchable or is rejected and sets SQ_TAIL_BAD. -/
  | mbSqTailWrite (mb : Nat) (tail : Nat) (entries : List Bytes)
  /-- MB_CQ_HEAD_WRITE (R448): Write of the completion consumer count, checked against the range up to MB_CQ_TAIL. -/
  | mbCqHeadWrite (mb : Nat) (v : Nat)
  /-- MB_EV_HEAD_WRITE (R448): Write of the event consumer count, checked against the range up to MB_EV_TAIL. -/
  | mbEvHeadWrite (mb : Nat) (v : Nat)
  /-- SRV_RING_HEAD (R364): VF doorbell write that advances a stream ring's head count. -/
  | srvRingHead (p : Nat) (ring : Nat) (head : Nat)
  /-- MAILBOX_FETCH (R449): Kaolin fetches the next entry in round robin once INFLIGHT and completion-ring room allow, then sequences its checks. -/
  | mailboxFetch (io : HostIo)
  /-- MANAGEMENT_DATAGRAM (R453): A UDP datagram arrives on port 7140; it is checked, deduplicated by XID, subscribed and executed as one command. -/
  | managementDatagram (src : Nat) (d : Bytes) (io : HostIo)
  /-- TIER_PROBE_WRITE (R255): A write to offset 0x200 of the TIER block latches both halves of a tier-map entry. -/
  | tierProbeWrite (p : Nat) (page : Nat)
  /-- LINK_OUT (R261): A write to LINK_CTRL.OUT takes an UP link out of service. -/
  | linkOut (l : Nat)
  /-- LINK_RETRAIN (R262): A write to LINK_CTRL.RETRAIN starts retraining of a FAULT link at once. -/
  | linkRetrain (l : Nat)
  /-- LINK_DISABLE (R259): A write to LINK_CTRL.DISABLE holds a link in DOWN or releases it. -/
  | linkDisable (l : Nat) (on : Bool)
  /-- COUNTER_LOW_READ (R21): A 32-bit read of a counter's low half latches the high half into the access path's shadow. -/
  | counterLowRead (path : Nat) (off : Nat)
  /-- RC_FIELD_READ (R18): A read of an RC field returns its value and resets it. -/
  | rcFieldRead (path : Nat) (off : Nat)
  /-- REGISTER_WRITE (R18): A write to a register with no row of its own, applied by its access type; writes to RWH fields, the CALICHE block and reserved offsets have no effect. -/
  | registerWrite (path : Nat) (off : Nat) (w : BitVec 32)
  /-- SPDM_REQUEST (R395): An SPDM request over DOE or MCTP, served by Kaolin as responder. -/
  | spdmRequest (r : SpdmReq)
  /-- IDE_KM_REQUEST (R544): An IDE_KM request over the SPDM session, which keys IDE streams. -/
  | ideKmRequest (x : Nat) (session : Nat) (stream : Nat)
  /-- STAEM_GET (R496): MCTP request that returns the Staem record of a given index. -/
  | staemGet (idx : Nat)
  /-- STAEM_SET_COLLECTOR (R496): MCTP request that sets or clears the Staem collector address and port. -/
  | staemSetCollector (addr : Nat) (port : Nat)
  /-- STAEM_ACK (R496): MCTP request that marks Staem records below an index as delivered. -/
  | staemAck (idx : Nat)
  /-- CALICHE_STATUS (R496): MCTP request that returns CAL_STATUS and the log indices. -/
  | calicheStatus
  /-- STAEM_COLLECTOR_ACK (R495): A cumulative acknowledgement from the collector to UDP port 7141 marks records as delivered. -/
  | staemCollectorAck (addr : Nat) (first : Nat)
  /-- STAEM_RESEND_TIMER (R495): When delivery has not advanced for 1 s, Caliche resends from the oldest undelivered record. -/
  | staemResendTimer
  /-- STAEM_SEND (R495): Caliche sends newly written records to the collector within 1 s. -/
  | staemSend
  /-- PLDM_FIRMWARE_UPDATE (R551): A PLDM firmware-update transfer writes the inactive Kaolin slot or the Caliche image. -/
  | pldmFirmwareUpdate (t : FwTarget) (img : FwImage)
  /-- PLDM_REQUEST (R551): A PLDM base or platform-monitoring request served by Caliche. -/
  | pldmRequest (r : PldmReq)
  /-- MCTP_CONTROL_REQUEST (R551): An MCTP control message, such as Set Endpoint ID, served by Caliche. -/
  | mctpControlRequest (r : MctpReq)
  /-- PWR_EN_RISE (R523): A rising PWR_EN is an on request towards AUTO_TARGET. -/
  | pwrEnRise
  /-- PWR_EN_FALL (R528): A falling PWR_EN is a forced off request: jobs stop with FORCED_POWER_DOWN and the package goes down to STANDBY. -/
  | pwrEnFall
  /-- RESET_N_ASSERT (R529): RESET_N low for 1 µs turns every rail off at once and rests the package in STANDBY. -/
  | resetNAssert
  /-- RESET_N_RELEASE (R529): RESET_N rising while PWR_EN is high starts the package up towards AUTO_TARGET. -/
  | resetNRelease
  /-- CALICHE_SUPPLY_ON (R524): The Caliche supply and crystal become valid; Caliche resets on power-up and the package enters STANDBY. -/
  | calicheSupplyOn (pwrEn : Bool)
  /-- FREEZE_N_FALL (R556): A falling FREEZE_N freezes the package, as the FREEZE command does. -/
  | freezeNFall
  /-- VR_ALERT (R510): An unmasked VR_ALERT_N low for 100 ns puts the package in the floor state and fails incomplete frames. -/
  | vrAlert (r : Nat) (statusWord : Nat)
  /-- TICK_SYNC_IN_EDGE (R33): A TICK_SYNC_IN rising edge aligns the master's ticks; a missing or misplaced pulse sets SYNC_IN_LOST. -/
  | tickSyncInEdge (inTime : Bool)
  /-- SENSOR_SAMPLE (R513): Every 10 µs the 208 temperature sensors are sampled and compared with their thresholds. -/
  | sensorSample (temps : List Int)
  /-- REFCLK100_LOSS (R568): REFCLK100 absent for 1 µs above STANDBY causes a FATAL record and a forced off request. -/
  | refclk100Loss
  /-- SERDES_REF_LOSS (R568): Loss of a SerDes reference takes every link of that die out of service. -/
  | serdesRefLoss (n : Nat)
  /-- XTAL_LOSS (R568): Loss of the 25 MHz input switches Caliche to its internal oscillator and clears XTAL_OK. -/
  | xtalLoss
  /-- TRST_N_ASSERT (R559): TRST_N resets the JTAG TAP asynchronously. -/
  | trstNAssert
  /-- JTAG_BYPASS (R559): The JTAG BYPASS instruction. -/
  | jtagBypass (tdi : List Bool)
  /-- JTAG_IDCODE (R559): The JTAG IDCODE instruction, which reads 0xBC00_8C77. -/
  | jtagIdcode (tdi : List Bool)
  /-- JTAG_SAMPLE_PRELOAD (R559): The JTAG SAMPLE/PRELOAD boundary instruction, from HUB_UP onward. -/
  | jtagSamplePreload (tdi : List Bool)
  /-- JTAG_EXTEST (R559): The JTAG EXTEST instruction, in HUB_UP with no partition. -/
  | jtagExtest (tdi : List Bool)
  /-- JTAG_CLAMP (R559): The JTAG CLAMP instruction, in HUB_UP with no partition. -/
  | jtagClamp (tdi : List Bool)
  /-- JTAG_HIGHZ (R559): The JTAG HIGHZ instruction, in HUB_UP with no partition. -/
  | jtagHighz (tdi : List Bool)
  /-- SCAN_SEL (R560): The JTAG instruction that selects a scan chain while the package is frozen. -/
  | scanSel (chain : Nat)
  /-- SCAN_SHIFT (R560): The JTAG instruction that shifts the selected chain out on TDO. -/
  | scanShift (tdi : List Bool)
  /-- TICK (R26): Tick timer expiry, which opens a frame: the verdict closes, frames commit or replay, state switches, and sequencer contexts start their programs. -/
  | tick (upsets : List Upset)
  /-- COMMIT_DEADLINE (R27): At slot N−8 the verdict window opens; any context not at its commit command has missed the deadline and its frame fails. -/
  | commitDeadline
  /-- TICK_SYMBOL_RECEIVE (R32): A follower accepts a tick symbol, checks FRAME, GEN and fence, disciplines its timer and relays the symbol downstream. -/
  | tickSymbolReceive (l : Nat) (crcOk : Bool) (sym : TickSym) (offset : Int)
  /-- MISSING_TICK (R39): A tick arrives without a master symbol; the package runs on holdover and the standby takes over at the second miss. -/
  | missingTick
  /-- TICK_LOSS_SELF_FENCE (R481): After three consecutive ticks with no accepted symbol, the follower writes a FATAL record and fences itself. -/
  | tickLossSelfFence
  /-- SLOT_RECEIVE (R264): A slot arrives on a link; its marker, header and trailer are checked, and it is accepted, rejected, stomped or lost. -/
  | slotReceive (l : Nat) (rx : SlotRx)
  /-- SLOT_SEND (R270): In each egress slot the package sends its scheduled slot, a LOST stomped slot, an EMPTY slot, or open flits. -/
  | slotSend (l : Nat) (slot : Nat)
  /-- OPEN_RETRY_TIMEOUT (R274): 32 slots with no advance of ACK_SEQ make the transmitter resend from ACK_SEQ. -/
  | openRetryTimeout (l : Nat)
  /-- ABORT_SYMBOL_RECEIVE (R44): An ABORT symbol arrives; it is merged into the bitmap of its KIND and relayed on all links, or counted as late. -/
  | abortSymbolReceive (l : Nat) (crcOk : Bool) (kind : Nat) (frame : Nat) (slices : List Nat)
  /-- LINK_DOWN_SYMBOL (R279): A LINK_DOWN symbol arrives; the bundle's substitution takes effect at the EFFECTIVE tick. -/
  | linkDownSymbol (l : Nat) (crcOk : Bool) (pos : Nat) (effective : Nat)
  /-- FAULT_RPT_SYMBOL (R37): A FAULT_RPT symbol arrives; it is flooded, and the master fences the reported package. -/
  | faultRptSymbol (l : Nat) (crcOk : Bool) (reporter : Nat) (accused : Nat) (frame : Nat)
  /-- ECHO_SYMBOL (R260): An ECHO symbol arrives during ALIGN; it is used to measure the link delay. -/
  | echoSymbol (l : Nat) (crcOk : Bool) (response : Bool) (roundTrip : Nat) (turnaround : Nat)
  /-- IDENT_SYMBOL (R285): An IDENT symbol arrives; the far identity is recorded and compared with the map, possibly sending the link to MISMATCH. -/
  | identSymbol (l : Nat) (crcOk : Bool) (sym : IdentSym)
  /-- LANE_LOCK_LOSS (R261): A lane loses lock or FEC alignment is lost; the link enters FAULT and LINK_DOWN is sent. -/
  | laneLockLoss (l : Nat) (lane : Nat) (fecAlign : Bool)
  /-- FEC_UE_LIMIT (R261): More than UE_LIMIT uncorrectable codewords within 1 s take the link out of service. -/
  | fecUeLimit (l : Nat) (count : Nat)
  /-- TRAINING_STEP_DONE (R260): A link passes a training step and moves to ALIGN, IDENT, VERIFY or UP. -/
  | trainingStepDone (l : Nat)
  /-- TRAINING_STEP_TIMEOUT (R260): A training step misses its limit and the link enters FAULT with a reason. -/
  | trainingStepTimeout (l : Nat)
  /-- RETRAIN_TIMER (R262): RETRAIN_MS after entering FAULT, a link retrains, up to RETRAIN_MAX times. -/
  | retrainTimer (l : Nat)
  /-- DETOUR_TABLE_REBUILD (R276): Kaolin rebuilds the detour table from link and fence state, effective at a tick. -/
  | detourTableRebuild
  /-- REMOTE_REQUEST_HOME (R297): A request packet reaches its home; it is checked and performed in the atomic unit, or refused, and answered. -/
  | remoteRequestHome (q : RmtReq) (ue : List Nat)
  /-- REMOTE_RESPONSE (R299): A response packet reaches the requester or a combining entry, which splits it among members. -/
  | remoteResponse (r : RmtRsp)
  /-- REMOTE_TIMEOUT (R300): No response within TIMEOUT_US; the requester receives TIMEOUT. -/
  | remoteTimeout (reqid : Nat) (tag : Nat)
  /-- COMBINE_WINDOW_EXPIRY (R305): A request held for combining is sent once COMB_WINDOW ns have passed. -/
  | combineWindowExpiry (entry : Nat)
  /-- CC_REMOTE_ACCESS (R301): A control-core load, store or AMO in the global window issues a remote request. -/
  | ccRemoteAccess (a : CcAccess)
  /-- CC_FENCE (R304): A control-core FENCE completes once every earlier remote access of the thread has completed. -/
  | ccFence (thread : Nat)
  /-- DEFERRED_ATOMIC_RESPONSE (R311): A deferred atomic's response frees its entry; an error raises RMT_DEFER_FAIL. -/
  | deferredAtomicResponse (tag : Nat) (code : Nat)
  /-- CTL_ACK (R292): An ACK message ends the repetition of the message it answers. -/
  | ctlAck (h : CtlHdr) (st : Nat)
  /-- STRETCH_REQ (R47): The master or standby records a package's stretch request; the stretch takes effect two frames later. -/
  | stretchReq (h : CtlHdr) (k : Nat)
  /-- CANDIDATE (R533): An election candidate's message is collected when its map digest matches. -/
  | candidate (h : CtlHdr) (c : Candidate)
  /-- JOIN (R534): The master records a joining follower's eligibility and priority. -/
  | ctlJoin (h : CtlHdr) (elig : Bool) (prio : Nat) (tray : Nat)
  /-- READY (R430): The lead records a member's READY and checks its IMAGE_ID, slice digest and SLOT_COUNT. -/
  | ctlReady (h : CtlHdr) (imageId : Nat) (digest : Nat) (rank : Nat) (slotCount : Nat)
  /-- TRANSIT_INSTALL (R430): A transit package installs a job's SCHED entries if they are OPEN, and answers ACCEPT or REFUSE. -/
  | transitInstall (h : CtlHdr) (imageId : Nat) (slice : Nat) (entries : Bytes)
  /-- TRANSIT_REPLY (R430): The lead records a transit package's ACCEPT or REFUSE. -/
  | transitReply (h : CtlHdr) (imageId : Nat) (result : Nat)
  /-- GO (R430): A member records start frame F and begins phase 0, or resumes, at the tick of F. -/
  | ctlGo (h : CtlHdr) (imageId : Nat) (frame : Nat) (resume : Bool)
  /-- ABANDON (R430): A member releases its reservations and returns to its previous job state with SLICE_START_FAILED. -/
  | ctlAbandon (h : CtlHdr) (imageId : Nat) (status : Nat)
  /-- TRANSIT_RELEASE (R431): A transit package reverts a job's entries to OPEN at the next tick. -/
  | transitRelease (h : CtlHdr) (imageId : Nat) (slice : Nat)
  /-- CREDIT_GRANT (R354): A prefill lead adds granted slot and page credits for a target. -/
  | creditGrant (h : CtlHdr) (slots : Nat) (pages : Nat)
  /-- CREDIT_RETURN (R354): A target lead takes back unused credits. -/
  | creditReturn (h : CtlHdr) (slots : Nat) (pages : Nat)
  /-- ASSIGN (R354): A target lead installs a shipped request in SHIP through its frame plan and answers INSTALLED. -/
  | ctlAssign (h : CtlHdr) (req : Bytes) (ctl : Bytes) (jidx : Nat) (gen : Nat)
  /-- INSTALLED (R354): A prefill lead records the target's JIDX and GEN, and the request joins the ship order. -/
  | installed (h : CtlHdr) (jidx : Nat) (gen : Nat) (tjidx : Nat) (tgen : Nat)
  /-- FILL (R508): A lead records a member's FILL and limits admission to the smallest FILL it holds. -/
  | ctlFill (h : CtlHdr) (v : Nat)
  /-- PKG_DIGEST (R406): A lead adds a package's Vexsum digest into the slice digest. -/
  | pkgDigest (h : CtlHdr) (unit : Nat) (window : Nat) (void : Bool) (digest : Nat)
  /-- SLICE_DIGEST (R407): A lead receives a peer replica's slice digest for comparison. -/
  | sliceDigest (h : CtlHdr) (unit : Nat) (window : Nat) (void : Bool) (modelId : Nat) (epoch : Nat) (digest : Nat)
  /-- UNIT_DONE (R410): A lead records that a unit is complete under the new epoch on a package. -/
  | unitDone (h : CtlHdr) (unit : Nat) (epoch : Nat)
  /-- SEG_REPORT (R380): A lead receives a segment's unit headers, from which it computes the digest and writes the header segment. -/
  | segReport (h : CtlHdr) (image : Nat) (last : Bool) (medium : Nat) (bytes : Nat) (units : Nat) (uhs : List (Nat × BitVec 256))
  /-- UNIT_FETCH (R384): A segment holder reads the requested bytes of a unit and answers UNIT_DATA. -/
  | unitFetch (h : CtlHdr) (image : Nat) (index : Nat) (offset : Nat) (want : Nat)
  /-- UNIT_DATA (R384): A package receives fetched unit bytes for a thaw, export or import. -/
  | unitData (h : CtlHdr) (image : Nat) (index : Nat) (offset : Nat) (st : Nat) (data : Bytes)
  /-- THAW_REPORT (R384): A lead records a member's thaw result. -/
  | thawReport (h : CtlHdr) (image : Nat) (st : Nat) (units : Nat)
  /-- SEG_DELETE (R388): A package removes its segment of an image. -/
  | segDelete (h : CtlHdr) (image : Nat)
  /-- CTL_MESSAGE_RECEIVE (R291): Kaolin takes a CTL message from its fabric ring and checks it before applying it once by MTYPE. -/
  | ctlMessageReceive
  /-- MESSAGE_RETRY (R354): Every RETRY_FRAMES frames an unanswered message is repeated; after 16 repeats its operation fails. -/
  | messageRetry
  /-- SYN_NOP (R49): Frame command NOP, often carrying the commit flag. -/
  | synNop (G : Nat) (fl : BitVec 4) (a : BitVec 112)
  /-- SYN_WAIT (R49): Frame command that waits for earlier commands of the selected classes. -/
  | synWait (G : Nat) (fl : BitVec 4) (a : BitVec 112)
  /-- SYN_BARRIER (R577): Frame command that registers a context's k-th arrival at a barrier. -/
  | synBarrier (G : Nat) (fl : BitVec 4) (a : BitVec 112)
  /-- BARRIER_RELEASE (R577): COUNT contexts have made their k-th arrival, and the waiting contexts continue. -/
  | barrierRelease (p : Nat) (id : Nat)
  /-- SYN_SLOT_WAIT (R49): Frame command that waits until a given slot begins. -/
  | synSlotWait (G : Nat) (fl : BitVec 4) (a : BitVec 112)
  /-- SYN_LOOP (R50): Frame command that reads a trip count and begins a loop, failing the frame if the count exceeds MAX_TRIPS. -/
  | synLoop (G : Nat) (fl : BitVec 4) (a : BitVec 112) (ue : List Nat)
  /-- SYN_LOOP_END (R50): Frame command that ends a loop body and repeats it or exits. -/
  | synLoopEnd (G : Nat) (fl : BitVec 4) (a : BitVec 112)
  /-- BDU_LOAD (R109): Frame command that copies int8 activation vectors into ARF slots of the selected BDUs. -/
  | bduLoad (G : Nat) (fl : BitVec 4) (a : BitVec 112) (ue : List Nat) (flt : List BduFault)
  /-- BDU_GEMV (R111): Frame command that streams weight rows and writes exact dot products in RAW or KSUM mode. -/
  | bduGemv (G : Nat) (fl : BitVec 4) (a : BitVec 112) (ue : List Nat) (flt : List BduFault)
  /-- MXA_CFG (R132): Frame command that loads the context's MXA parameters. -/
  | mxaCfg (G : Nat) (fl : BitVec 4) (a : BitVec 112) (ue : List Nat)
  /-- MXA_GEMM (R130): Frame command that computes a matrix product on the arrays, in passes that may wait on an arrival counter. -/
  | mxaGemm (G : Nat) (fl : BitVec 4) (a : BitVec 112) (ue : List Nat) (par : List (Nat × Nat))
  /-- ARRIVAL_THRESHOLD_REACHED (R135): An arrival counter reaches a waiting pass's threshold and the pass starts. -/
  | arrivalThresholdReached (G : Nat) (k : Nat) (par : List (Nat × Nat))
  /-- VEC_CFG (R140): Frame command that sets the canonical tile, NTOTAL and EPS. -/
  | vecCfg (G : Nat) (fl : BitVec 4) (a : BitVec 112) (ue : List Nat)
  /-- VADD (R140): Frame command for elementwise FP32 add. -/
  | vadd (G : Nat) (fl : BitVec 4) (a : BitVec 112) (ue : List Nat)
  /-- VMUL (R140): Frame command for elementwise FP32 multiply. -/
  | vmul (G : Nat) (fl : BitVec 4) (a : BitVec 112) (ue : List Nat)
  /-- VSCALE (R140): Frame command that multiplies each vector by its scale. -/
  | vscale (G : Nat) (fl : BitVec 4) (a : BitVec 112) (ue : List Nat)
  /-- VFUNC (R140): Frame command that evaluates a nonlinear function chosen by SUB. -/
  | vfunc (G : Nat) (fl : BitVec 4) (a : BitVec 112) (ue : List Nat)
  /-- VGLU (R140): Frame command that computes silu(gate) times up. -/
  | vglu (G : Nat) (fl : BitVec 4) (a : BitVec 112) (ue : List Nat)
  /-- VRED (R140): Frame command for a per-vector sum, sum of squares, max, max of abs or min. -/
  | vred (G : Nat) (fl : BitVec 4) (a : BitVec 112) (ue : List Nat)
  /-- VNORM (R140): Frame command for RMS normalisation with a gain. -/
  | vnorm (G : Nat) (fl : BitVec 4) (a : BitVec 112) (ue : List Nat)
  /-- VQUANT (R143): Frame command that quantises to int8 with a dynamic or static scale. -/
  | vquant (G : Nat) (fl : BitVec 4) (a : BitVec 112) (ue : List Nat)
  /-- VI64R (R140): Frame command that rounds int64 sums once to FP32. -/
  | vi64r (G : Nat) (fl : BitVec 4) (a : BitVec 112) (ue : List Nat)
  /-- VI64ADD (R140): Frame command for exact int64 addition. -/
  | vi64add (G : Nat) (fl : BitVec 4) (a : BitVec 112) (ue : List Nat)
  /-- VCVT (R140): Frame command for FP32, BF16 and int8 conversions. -/
  | vcvt (G : Nat) (fl : BitVec 4) (a : BitVec 112) (ue : List Nat)
  /-- GUARD_EVALUATION (R146): When a guard group completes, its guards run on the vector units, and a violation fails the frame. -/
  | guardEvaluation (G : Nat) (ue : List Nat)
  /-- ROT_FWD (R82): Frame command for the forward Walsh–Hadamard rotation with Philox signs. -/
  | rotFwd (G : Nat) (fl : BitVec 4) (a : BitVec 112) (ue : List Nat)
  /-- ROT_FWD_Q (R88): Frame command for the forward rotation followed by int8 quantisation. -/
  | rotFwdQ (G : Nat) (fl : BitVec 4) (a : BitVec 112) (ue : List Nat)
  /-- ROT_INV (R83): Frame command for the inverse rotation. -/
  | rotInv (G : Nat) (fl : BitVec 4) (a : BitVec 112) (ue : List Nat)
  /-- ATT_CFG (R197): Frame command that loads the context's ATT parameters. -/
  | attCfg (G : Nat) (fl : BitVec 4) (a : BitVec 112) (ue : List Nat)
  /-- ATT_KVQ (R198): Frame command that converts FP32 rows to stored latent rows. -/
  | attKvq (G : Nat) (fl : BitVec 4) (a : BitVec 112) (ue : List Nat)
  /-- ATT_RUN (R199): Frame command that computes attention states or final outputs over a chunk range from the descriptor list. -/
  | attRun (G : Nat) (fl : BitVec 4) (a : BitVec 112) (ue : List Nat) (flt : List BduFault)
  /-- ATT_MERGE (R200): Frame command that merges 2^J state sets and optionally finalises. -/
  | attMerge (G : Nat) (fl : BitVec 4) (a : BitVec 112) (ue : List Nat)
  /-- KV_PUT (R203): Frame command that writes fresh latent rows to their pages in tier 1. -/
  | kvPut (G : Nat) (fl : BitVec 4) (a : BitVec 112) (ue : List Nat)
  /-- MOV_FILL (R170): Frame command that fills words with a pattern. -/
  | movFill (G : Nat) (fl : BitVec 4) (a : BitVec 112) (ue : List Nat)
  /-- MOV_COPY (R171): Frame command for a strided copy within the quadrant. -/
  | movCopy (G : Nat) (fl : BitVec 4) (a : BitVec 112) (ue : List Nat)
  /-- MOV_HCOPY (R172): Frame command that copies between the quadrant and the hub allotment. -/
  | movHcopy (G : Nat) (fl : BitVec 4) (a : BitVec 112) (ue : List Nat)
  /-- LOESS_STEP (R151): Frame command that streams one step's weight descriptors into a Loess buffer and raises arrival counters. -/
  | loessStep (G : Nat) (fl : BitVec 4) (a : BitVec 112) (ue : List Nat) (crc : List (Nat × Bool))
  /-- SRT_CFG (R214): Frame command that loads the routing parameters. -/
  | srtCfg (G : Nat) (fl : BitVec 4) (a : BitVec 112) (ue : List Nat)
  /-- SRT_TOPK (R211): Frame command that selects experts and computes gates. -/
  | srtTopk (G : Nat) (fl : BitVec 4) (a : BitVec 112) (ue : List Nat)
  /-- SRT_ROUTE (R217): Frame command that sorts send rows by destination and writes the route table. -/
  | srtRoute (G : Nat) (fl : BitVec 4) (a : BitVec 112) (ue : List Nat)
  /-- SRT_BIN (R220): Frame command that gathers received rows per local expert and writes trip words and the return map. -/
  | srtBin (G : Nat) (fl : BitVec 4) (a : BitVec 112) (ue : List Nat)
  /-- SRT_RETURN (R224): Frame command that packs expert outputs by source member. -/
  | srtReturn (G : Nat) (fl : BitVec 4) (a : BitVec 112) (ue : List Nat)
  /-- SRT_COMBINE (R225): Frame command that forms each token's gated canonical sum of expert results. -/
  | srtCombine (G : Nat) (fl : BitVec 4) (a : BitVec 112) (ue : List Nat)
  /-- COL_A2A (R319): Frame command for an equal all-to-all. -/
  | colA2a (G : Nat) (fl : BitVec 4) (a : BitVec 112) (ue : List Nat)
  /-- COL_A2AV (R321): Frame command for an unequal all-to-all by counts. -/
  | colA2av (G : Nat) (fl : BitVec 4) (a : BitVec 112) (ue : List Nat)
  /-- COL_GATHER (R319): Frame command for a gather to a root or to all members. -/
  | colGather (G : Nat) (fl : BitVec 4) (a : BitVec 112) (ue : List Nat)
  /-- COL_BCAST (R319): Frame command for a broadcast from a root. -/
  | colBcast (G : Nat) (fl : BitVec 4) (a : BitVec 112) (ue : List Nat)
  /-- COL_REDSCAT (R323): Frame command for a reduce-scatter. -/
  | colRedscat (G : Nat) (fl : BitVec 4) (a : BitVec 112) (ue : List Nat)
  /-- COL_ALLRED (R323): Frame command for an all-reduce. -/
  | colAllred (G : Nat) (fl : BitVec 4) (a : BitVec 112) (ue : List Nat)
  /-- RMT_ATOMIC (R310): Frame command that stages valid deferred-atomic records for commit. -/
  | rmtAtomic (G : Nat) (fl : BitVec 4) (a : BitVec 112) (ue : List Nat)
  /-- TIER_LOAD (R249): Frame command that copies from the tiered range to scratchpad. -/
  | tierLoad (G : Nat) (fl : BitVec 4) (a : BitVec 112) (ue : List Nat)
  /-- TIER_STORE (R249): Frame command that copies from scratchpad to the tiered range. -/
  | tierStore (G : Nat) (fl : BitVec 4) (a : BitVec 112) (ue : List Nat)
  /-- TIER_MIGRATE (R250): Frame command that stages page-move requests for commit. -/
  | tierMigrate (G : Nat) (fl : BitVec 4) (a : BitVec 112) (ue : List Nat)
  /-- FRAME_COMMAND_COMPLETE (R42): An engine command completes; waiting commands may start, and a completed commit command makes its context reach the commit point. -/
  | frameCommandComplete (G : Nat) (k : Nat) (ns : Nat)
  /-- ENGINE_WATCHDOG_EXPIRY (R126): A command's watchdog expires; the command is aborted and the frame fails. -/
  | engineWatchdogExpiry (G : Nat) (k : Nat)
  /-- DRAM_REFRESH_WINDOW (R101): A die's 160 ns refresh window opens on its 3,200 ns period and blocks reads. -/
  | dramRefreshWindow (n : Nat) (d : Nat)
  /-- HELD_ACCESS_SERVE (R163): Held outside scratchpad accesses are served once the partition's frame is complete or the commit deadline passes. -/
  | heldAccessServe (p : Nat) (ue : List Nat)
  /-- SCRUB_ROW (R178): Every SCRUB_ROW_US a bank scrubs one row, correcting or poisoning words. -/
  | scrubRow (n : Nat) (hits : List (Nat × Nat × Bool))
  /-- TIER2_PATROL (R246): The tier-2 patrol reads every unit once per T2_SCRUB_HOURS. -/
  | tier2Patrol (hits : List (Nat × Bool))
  /-- MOVE_COPY_DONE (R240): The last unit of a move is copied and its mirrored writes are acknowledged; the move is Ready. -/
  | moveCopyDone (p : Nat) (page : Nat)
  /-- MOVE_ABORT (R243): A move is aborted by destruction, pinning, fence or cancellation. -/
  | moveAbort (p : Nat) (page : Nat) (cause : Nat)
  /-- FRAME_ZEROING_DONE (R242): A released page frame has been zeroed and returns free. -/
  | frameZeroingDone (f : Nat)
  /-- POLICY_PASS (R244): Every POLICY_FRAMES frames Kaolin issues HEAT-based promotions and demotions. -/
  | policyPass
  /-- REQUEST_LINGER_EXPIRY (R343): A DONE or FAULT slot is freed after LINGER frames. -/
  | requestLingerExpiry (p : Nat) (jidx : Nat)
  /-- PROMPT_FETCH_DONE (R361): The admitted prompt has been read into the prompt region; a failed read sends the request to FAULT. -/
  | promptFetchDone (p : Nat) (jidx : Nat) (data : Option Bytes)
  /-- REPLACE_BARRIER_TIMEOUT (R409): BARRIER_FRAMES pass; requests still in PREFILL or SHIP drain and the barrier takes effect. -/
  | replaceBarrierTimeout (p : Nat)
  /-- FALLOW_SEGMENT_DONE (R380): A holding package finishes writing its segment and reports it to the lead. -/
  | fallowSegmentDone (p : Nat) (jidx : Nat) (hdr : Bytes) (medium : Nat) (ok : Bool)
  /-- FALLOW_IMAGE_COMPLETE (R380): The header segment is written; at the next commit the image is COMPLETE and its pages are released. -/
  | fallowImageComplete (image : Nat)
  /-- FALLOW_IMAGE_FAILED (R381): A fallow fails, its space is released and SESSION_IMAGE_DONE reports the status. -/
  | fallowImageFailed (image : Nat) (st : Nat)
  /-- THAW_READ_DONE (R384): Every package has written its units; at the lead's commit the pages are linked and the slot enters HOLD or QUEUED. -/
  | thawReadDone (t : ThawIn)
  /-- SESSION_XFER_DONE (R387): An export or import transfer completes and its event is raised. -/
  | sessionXferDone (op : Nat) (st : Nat) (data : Option Bytes)
  /-- SHARD_INGRESS_DONE (R401): A shard's stream ends; the tag and digest are checked and a VERIFIED record is made or the range is zeroed. -/
  | shardIngressDone (op : Nat) (body : Option Bytes)
  /-- V6_RECHECK_TIMER (R403): Every V6_RECHECK_S seconds Kaolin rehashes verified records, and a mismatch stops the job. -/
  | v6RecheckTimer (ue : List Nat)
  /-- VEXSUM_WINDOW_END (R406): A Vexsum window ends and its fill of unseen groups begins. -/
  | vexsumWindowEnd (p : Nat)
  /-- VEXSUM_FILL_DONE (R406): A stack's fill completes and the package digest is sent to the lead. -/
  | vexsumFillDone (p : Nat) (stack : Nat) (ue : List Nat)
  /-- VEXSUM_COMPARE (R407): A complete slice digest is compared with the reference and with peers, and a mismatch is reported. -/
  | vexsumCompare (p : Nat) (w : Nat)
  /-- SLICE_START_TIMEOUT (R430): READY is incomplete, a GO acknowledgement is missing, or STARTING has lasted 131,072 frames; the start is abandoned. -/
  | sliceStartTimeout (p : Nat)
  /-- ERROR_LATCH_RAISE (R475): An error source latches its event and raises a line in Caliche's error tree. -/
  | errorLatchRaise (x : ErrIn)
  /-- LEAKY_LEAK (R485): At each 15 s boundary every leaky counter above 0 loses 1. -/
  | leakyLeak
  /-- CE_RATE_SECOND (R485): Each second's corrected-error count starts afresh for the rate gain. -/
  | ceRateSecond
  /-- CALICHE_LOCKSTEP_MISMATCH (R483): A lockstep mismatch writes a FATAL record in hardware and resets Caliche. -/
  | calicheLockstepMismatch
  /-- CALICHE_RESTART_DONE (R483): Caliche runs again and collects latched sources, marking them LATE. -/
  | calicheRestartDone
  /-- KAOLIN_HEARTBEAT (R484): Kaolin writes Caliche's heartbeat. -/
  | kaolinHeartbeat
  /-- KAOLIN_HEARTBEAT_LOST (R484): No heartbeat for 1 ms: Caliche records the loss and resets Kaolin's cores. -/
  | kaolinHeartbeatLost
  /-- KAOLIN_RECOVERED (R484): Kaolin runs again and completes interrupted commands with COMMAND_INTERRUPTED. -/
  | kaolinRecovered
  /-- HUB_FAIL_TIMEOUT (R484): Kaolin has not returned within 2 s, or was reset three times in 60 s; the hub is declared failed. -/
  | hubFailTimeout
  /-- PMBUS_SAMPLE (R505): Every 100 µs the regulators' VOUT, IOUT and STATUS_WORD are read and energy is integrated. -/
  | pmbusSample (reads : List RailRead)
  /-- CONTROL_PERIOD_END (R507): At the end of a control period the cap response moves by at most one increment. -/
  | controlPeriodEnd (minCap : Nat)
  /-- BOOST_STEP (R504): Every 100 µs in boost the clocks rise or fall one step. -/
  | boostStep
  /-- DOMAIN_RAMP_DONE (R501): A domain's ramp ends and it reaches ON or OFF. -/
  | domainRampDone (d : Nat)
  /-- POWER_STAGE_EXIT (R524): A stage reaches its exit condition and the sequence moves to the next state. -/
  | powerStageExit (strap : Nat) (failed : List (Nat × Nat)) (untrained : List Nat)
  /-- POWER_STAGE_TIMEOUT (R528): A stage misses its limit or a rail faults; a FATAL record is written and the package goes down to STANDBY. -/
  | powerStageTimeout (rail : Nat)
  /-- DOWN_STEP_DONE (R530): A down-sequence step completes and the next lower state is reached. -/
  | downStepDone
  /-- TRAIN_WAIT_EXPIRY (R524): After TRAIN_WAIT_S, LINKS_TRAIN exits with the links still training. -/
  | trainWaitExpiry
  /-- ELECT_LISTEN_EXPIRY (R533): The listen window ends with no tick and the package becomes a candidate. -/
  | electListenExpiry
  /-- CANDIDATE_FLOOD_TIMER (R533): Every 10 ms an eligible candidate floods CANDIDATE. -/
  | candidateFloodTimer
  /-- ELECTION_CLOSE (R533): The election closes; the best eligible candidate becomes master, or NO_TICK_MASTER is reported. -/
  | electionClose
  /-- TICK_LOCKED (R534): The tick timer has been locked for 1 s and the package reaches READY. -/
  | tickLocked
  /-- HOST_HOT_RESET (R546): A hot reset or link disable resets the port's configuration space and mailboxes. -/
  | hostHotReset (x : Nat)
  /-- VF_FLR (R452): A VF Function Level Reset discards its unfetched entries and zeroes its counts. -/
  | vfFlr (p : Nat)
  /-- PF_FLR (R546): A PF FLR acts as a hot reset of the port while the link stays up. -/
  | pfFlr (x : Nat)
  /-- VF_ENABLE_CHANGE (R541): The host sets or clears VF Enable, which enables or disables the VF windows. -/
  | vfEnableChange (x : Nat) (on : Bool)
  /-- HOST_PORT_L0_CHANGE (R546): A host port leaves or enters L0, which holds or resumes its rings. -/
  | hostPortL0Change (x : Nat) (ltssm : Nat) (rate : Nat) (width : Nat) (flit : Bool)
  /-- IDE_STREAM_INSECURE (R544): An IDE stream leaves Secure; the port's DMA fails until it is re-keyed. -/
  | ideStreamInsecure (x : Nat) (stream : Nat)
  /-- HOST_DMA_ERROR (R545): A package read completes with an error or times out, and the command fails. -/
  | hostDmaError (x : Nat) (k : PortError) (cmd : Option (Nat × Entry))
  /-- HOST_BAR_REQUEST (R545): A poisoned, malformed or unsupported request to a BAR is dropped or completed with UR. -/
  | hostBarRequest (x : Nat) (k : BarError)
  /-- NVME_DRIVE_LOSS (R549): A storage drive leaves or fails; operations in flight fail. -/
  | nvmeDriveLoss (x : Nat)
  /-- NVME_DRIVE_RETURN (R549): A storage link returns; Kaolin reinitialises the controller and rebuilds the catalog. -/
  | nvmeDriveReturn (x : Nat)
  /-- MGMT_LINK_CHANGE (R550): The management link changes state. -/
  | mgmtLinkChange (up : Bool)
  /-- CC_LOCAL_ACCESS (R424): A control-core thread load or store to a local address is translated through the partition's tier map or reaches quadrant or hub scratchpad, may be held under R163, and raises an access-fault trap outside the partition. -/
  | ccLocalAccess (a : CcAccess) (ue : List Nat)
  /-- CALICHE_SUPPLY_OFF (R482): Removal or loss of the Caliche supply takes the package to OFF and loses the fault log, leaky counters, fence table, FALLOW_FRAMES and all keys. -/
  | calicheSupplyOff
  /-- VR_ALERT_RELEASE (R512): A VR_ALERT_N pin rises, which updates PWR_VR.PIN and starts the FLOOR_HOLD_US hold time that the floor end waits for. -/
  | vrAlertRelease (r : Nat)
  /-- XTAL_RETURN (R568): The 25 MHz input returns within limits, which sets CAL_STATUS.XTAL_OK and takes Caliche off its internal oscillator. -/
  | xtalReturn
  /-- SERDES_REF_RETURN (R568): A lost SerDes reference returns and LD_STATUS.REFCLK_LOCK sets again, so the links of that die can retrain. -/
  | serdesRefReturn (n : Nat)
  /-- BUS_MASTER_ENABLE_CHANGE (R364): The host sets or clears Bus Master Enable of a PF or VF, which holds or releases the partition's stream rings with cause RING and blocks or allows package DMA. -/
  | busMasterEnableChange (fn : Nat) (on : Bool)
  /-- RTR_PROBE_WRITE (R289): A write to offset 0x200 of the RTR block latches the slot-map entry of a link, direction and slot into VALID, SLICE and KIND. -/
  | rtrProbeWrite (link : Nat) (ingress : Bool) (slot : Nat)
  /-- MGMT_ICMPV6_PACKET (R550): An ICMPv6 packet arrives on the management port (Neighbor Discovery, router advertisement for SLAAC, MLDv2 or echo); it is answered or configures addresses and MGMT_ADDR. -/
  | mgmtIcmpv6Packet (type : Nat) (slaac : Bool) (body : Bytes)
  /-- I3C_SETDASA (R551): The tray controller's SETDASA command on I3C gives the package's target its dynamic address. -/
  | i3cSetdasa (dyn : Nat)
  deriving DecidableEq, Repr

end Sys2Proof
end

