-- ==== Sys2Proof/Config.lean ====
section
/-!
DEFINITION. What an implementation fixes and the spec does not state (R461 serial number and boot ROM version; R560 scan chain lengths), the
free values (an undefined or unstated value is `Config.freeValue` at a counter of State), and the choices the spec leaves to an
implementation. None has a body: no proof can see what they are.
-/

namespace Sys2Proof

/-- The n-th value that the spec leaves open, as `w` bits. -/
opaque Config.freeValue (w : Nat) : Nat → BitVec w

/-- Serial number (DEV_IDENTIFY bytes 8–15, R461). -/
opaque Config.serial : BitVec 64

/-- Boot ROM version (R461). -/
opaque Config.bootRomVersion : BitVec 32

/-- Length in bits of a scan chain (R560), which only the chain description of a firmware release gives. -/
opaque Config.chainLength : Nat → Nat

/-- The link choice of R277 among equal open links, which the spec does not define. -/
opaque Config.spread : Nat → Nat → Nat

/-- The package and partition of a slice's lead, which credits and assignments go to (R354); the spec names no directory. -/
opaque Config.sliceLead : Nat → Nat × Nat

/-- Which of a package's ship streams carries a page of a layer group to a target slice (R359), which the spec leaves to the
images: slice, layer group, logical page. -/
opaque Config.shipStream : Nat → Nat → Nat → Nat

end Sys2Proof
end

