-- ==== Sys2Proof/Machine/Bytes.lean ====
section
/-!
DEFINITION. Bytes and bit fields: little-endian numbers in byte strings (R3), bit fields of numbers and of the 112
argument bits of a frame command, two's complement reading, and the integer helpers the meanings share.
-/

namespace Sys2Proof.Machine

/-- The number a byte string spells, first byte least significant (R3). -/
def leNat : Bytes → Nat
  | [] => 0
  | b :: r => b.toNat + 256 * leNat r

/-- The `n` low bytes of a number, least significant first (R3). -/
def leBytes : Nat → Nat → Bytes
  | 0, _ => []
  | n + 1, k => BitVec.ofNat 8 k :: leBytes n (k / 256)

/-- `n` bytes from offset `o`; bytes beyond the end are absent. -/
def bytesAt (b : Bytes) (o n : Nat) : Bytes := (b.drop o).take n

/-- The little-endian number in bytes `o` to `o + n − 1`. -/
def numAt (b : Bytes) (o n : Nat) : Nat := leNat (bytesAt b o n)

/-- `b` cut or filled with zero bytes to `n` bytes. -/
def padTo (n : Nat) (b : Bytes) : Bytes := (b ++ List.replicate (n - b.length) 0).take n

/-- Bits `lo` to `lo + w − 1` of a number. -/
def bits (k lo w : Nat) : Nat := (k >>> lo) % 2 ^ w

/-- Bit `i` of a number. -/
def bit (k i : Nat) : Bool := k.testBit i

/-- The number with bits `lo` to `lo + w − 1` replaced by `v`. -/
def setBits (k lo w v : Nat) : Nat :=
  k - (bits k lo w) * 2 ^ lo + (v % 2 ^ w) * 2 ^ lo

/-- Bits `hi : lo` of the argument field of a frame command. -/
def fld (a : BitVec 112) (hi lo : Nat) : Nat := (a.toNat >>> lo) % 2 ^ (hi - lo + 1)

/-- A `w`-bit number read in two's complement. -/
def signed (w k : Nat) : Int := if k % 2 ^ w < 2 ^ (w - 1) then (k % 2 ^ w : Nat) else (k % 2 ^ w : Nat) - (2 ^ w : Nat)

/-- An integer as a `w`-bit two's complement number. -/
def unsigned (w : Nat) (i : Int) : Nat := (i % (2 ^ w : Nat)).toNat

/-- ceil(a / b). -/
def ceilDiv (a b : Nat) : Nat := (a + b - 1) / b

/-- (a − b) mod 2^w. -/
def subMod (w a b : Nat) : Nat := (a + 2 ^ w - b % 2 ^ w) % 2 ^ w

/-- 1 for true. -/
def bnat (b : Bool) : Nat := if b then 1 else 0

/-- The first index at which `p` holds. -/
def findIdx? {α : Type} (p : α → Bool) : List α → Option Nat
  | [] => none
  | x :: r => if p x then some 0 else (findIdx? p r).map (· + 1)

/-- The number whose bit `i` is set exactly for the `i` of the list. -/
def bitmap (l : List Nat) : Nat := l.eraseDups.foldl (fun k i => k + 2 ^ i) 0

/-- The positions below `n` of the bits set in `k`, ascending. -/
def bitsSet (n k : Nat) : List Nat := (List.range n).filter (fun i => k.testBit i)

/-- Insert into an ascending list without repeats. -/
def insertAsc (x : Nat) : List Nat → List Nat
  | [] => [x]
  | y :: r => if x < y then x :: y :: r else if x = y then y :: r else y :: insertAsc x r

/-- Two lists of byte strings joined. -/
def joinBytes (l : List Bytes) : Bytes := l.foldr (· ++ ·) []

end Sys2Proof.Machine
end

