-- ==== Sys2Proof/Machine/Arith.lean ====
section
/-!
DEFINITION. Number formats and exact arithmetic (chapter 3): exact dyadic values and their one rounding to FP32
(R61, R63), FP32 arithmetic, BF16 (R64), canonical sums (R65), weight groups and scale words (R53–R58), quantisation (R68),
the nonlinear functions (R69–R74), Philox-4x32-10 (R75) and the sampler (R77, R78).
-/

namespace Sys2Proof.Machine

/-! ### FP32 values -/

/-- The canonical NaN (R63). -/
def nanF : F32 := 0x7FC00000

/-- +Inf. -/
def infF : F32 := 0x7F800000

/-- 1.0. -/
def oneF : F32 := 0x3F800000

/-- The sign bit. -/
def f32Neg (x : F32) : Bool := x.toNat / 2 ^ 31 == 1

/-- The exponent field. -/
def f32Exp (x : F32) : Nat := x.toNat / 2 ^ 23 % 256

/-- The fraction field. -/
def f32Frac (x : F32) : Nat := x.toNat % 2 ^ 23

/-- A NaN. -/
def isNaN (x : F32) : Bool := f32Exp x == 255 && f32Frac x != 0

/-- ±Inf. -/
def isInf (x : F32) : Bool := f32Exp x == 255 && f32Frac x == 0

/-- Neither NaN nor infinite. -/
def isFinite (x : F32) : Bool := f32Exp x != 255

/-- ±0. -/
def isZeroF (x : F32) : Bool := x.toNat % 2 ^ 31 == 0

/-- The sign flipped: exact. -/
def fneg (x : F32) : F32 := x ^^^ 0x80000000

/-- The sign cleared. -/
def fabs (x : F32) : F32 := x &&& 0x7FFFFFFF

/-- The signed integer significand of a finite value. -/
def f32Int (x : F32) : Int :=
  let m := if f32Exp x = 0 then f32Frac x else 2 ^ 23 + f32Frac x
  if f32Neg x then -(m : Int) else m

/-- The power of two of a finite value: x = `f32Int x` × 2^`f32Scale x`. -/
def f32Scale (x : F32) : Int := if f32Exp x = 0 then -149 else (f32Exp x : Int) - 150

/-- An infinity or zero of a sign. -/
def signedF (neg : Bool) (mag : F32) : F32 := if neg then mag ||| 0x80000000 else mag

/-- m / 2^k rounded to an integer, ties to even. -/
def rneShift (m k : Nat) : Nat :=
  let d := 2 ^ k
  let q := m / d
  let r := m % d
  if d < 2 * r ∨ (2 * r = d ∧ q % 2 = 1) then q + 1 else q

/-- RNE_fp32 of n × 2^e: the nearest FP32 value, ties to even, with gradual underflow; beyond the largest finite value ±Inf
(R61). `zneg` is the sign of an exact zero. -/
def roundDy (zneg : Bool) (n e : Int) : F32 :=
  if n = 0 then signedF zneg 0
  else
    let m := n.natAbs
    let q := max ((m.log2 : Int) + e - 23) (-149)
    let r := if q ≤ e then m * 2 ^ (e - q).toNat else rneShift m (q - e).toNat
    let b := (q + 149).toNat * 2 ^ 23 + r
    signedF (n < 0) (if 0x7F800000 ≤ b then infF else BitVec.ofNat 32 b)

/-- n × 2^e rounded to an integer, ties to even. -/
def roundInt (n e : Int) : Int :=
  if 0 ≤ e then n * 2 ^ e.toNat
  else
    let r := rneShift n.natAbs (-e).toNat
    if n < 0 then -(r : Int) else r

/-- An integer as FP32 (R63). -/
def intF (n : Int) : F32 := roundDy false n 0

/-- An exact value n × 2^e times FP32 scales, rounded once (R61). -/
def exactOut (n e : Int) (ss : List F32) : F32 :=
  roundDy false (ss.foldl (fun a s => a * f32Int s) n) (ss.foldl (fun a s => a + f32Scale s) e)

/-! ### FP32 arithmetic (R63) -/

/-- Addition. -/
def fadd (x y : F32) : F32 :=
  if isNaN x || isNaN y then nanF
  else if isInf x then (if isInf y && f32Neg x != f32Neg y then nanF else x)
  else if isInf y then y
  else
    let e := min (f32Scale x) (f32Scale y)
    roundDy (f32Neg x && f32Neg y)
      (f32Int x * 2 ^ (f32Scale x - e).toNat + f32Int y * 2 ^ (f32Scale y - e).toNat) e

/-- Subtraction. -/
def fsub (x y : F32) : F32 := fadd x (fneg y)

/-- Multiplication. -/
def fmul (x y : F32) : F32 :=
  let neg := f32Neg x != f32Neg y
  if isNaN x || isNaN y then nanF
  else if isInf x || isInf y then (if isZeroF x || isZeroF y then nanF else signedF neg infF)
  else roundDy neg (f32Int x * f32Int y) (f32Scale x + f32Scale y)

/-- Fused multiply-add of finite values: one rounding (R71). -/
def fma (x y z : F32) : F32 :=
  let p := f32Int x * f32Int y
  let ep := f32Scale x + f32Scale y
  let e := min ep (f32Scale z)
  roundDy (f32Neg z && f32Neg x != f32Neg y) (p * 2 ^ (ep - e).toNat + f32Int z * 2 ^ (f32Scale z - e).toNat) e

/-- The order of values that are no NaN: −0 and +0 are equal. -/
def fkey (x : F32) : Int := if f32Neg x then -((x.toNat % 2 ^ 31 : Nat) : Int) else (x.toNat : Int)

/-- Maximum: of +0 and −0 it is +0, and a NaN operand gives the canonical NaN. -/
def fmax (x y : F32) : F32 :=
  if isNaN x || isNaN y then nanF
  else if fkey x < fkey y then y
  else if fkey y < fkey x then x
  else if f32Neg x then y else x

/-- Minimum: of +0 and −0 it is −0, and a NaN operand gives the canonical NaN. -/
def fmin (x y : F32) : F32 :=
  if isNaN x || isNaN y then nanF
  else if fkey x < fkey y then x
  else if fkey y < fkey x then y
  else if f32Neg x then x else y

/-- Scaling by 2^n: exact, or rounded once. -/
def scaleF (x : F32) (n : Int) : F32 :=
  if isFinite x then roundDy (f32Neg x) (f32Int x) (f32Scale x + n) else x

/-- FP32 to BF16: bit 16 rounded to nearest, ties to even; NaN gives 0x7FC0 (R64). -/
def toBf16 (x : F32) : Nat :=
  if isNaN x then 0x7FC0 else (x.toNat + 0x7FFF + x.toNat / 65536 % 2) / 65536 % 65536

/-- BF16 to FP32, exact (R64). -/
def ofBf16 (h : Nat) : F32 := BitVec.ofNat 32 (h % 65536 * 65536)

/-- A scale of R59: positive and finite. -/
def goodScale (s : F32) : Bool := isFinite s && !f32Neg s && !isZeroF s

/-! ### Canonical sums (R65) -/

/-- One level of the tree. -/
def pairUp (f : F32 → F32 → F32) : List F32 → List F32
  | a :: b :: r => f a b :: pairUp f r
  | l => l

/-- The tree over a list whose length is a power of two. -/
def treeSum : Nat → List F32 → F32
  | 0, l => l.headD 0
  | k + 1, l => treeSum k (pairUp fadd l)

/-- The least k with n ≤ 2^k. -/
def ceilLog2 (n : Nat) : Nat := if n ≤ 1 then 0 else (n - 1).log2 + 1

/-- A list padded with +0 to the next power of two, and its tree. -/
def paddedTree (l : List F32) : F32 :=
  let k := ceilLog2 l.length
  treeSum k (l ++ List.replicate (2 ^ k - l.length) 0)

/-- The list cut into `c` chunks of `t` values, the last padded with +0. -/
def chunksOf (t : Nat) : Nat → List F32 → List (List F32)
  | 0, _ => []
  | c + 1, l => let h := l.take t
                (h ++ List.replicate (t - h.length) 0) :: chunksOf t c (l.drop t)

/-- canonical_sum of at least one value with tile `t` (0: no tile is stated, T = n). -/
def canonicalSum (t : Nat) (l : List F32) : F32 :=
  let t := if t = 0 then l.length else t
  paddedTree ((chunksOf t (ceilDiv l.length t) l).map paddedTree)

/-! ### Weights (R53–R58) -/

/-- Bytes of a weight group (Table 3-1). -/
def groupBytes (fmt : Nat) : Nat :=
  match fmt with
  | 0 => 16
  | 1 => 26
  | 2 => 32
  | 3 => 64
  | _ => 128

/-- Weight `i` of a group (Table 3-2). -/
def weightAt (fmt : Nat) (g : Bytes) (i : Nat) : Int :=
  let byte (k : Nat) : Nat := (g.getD k 0).toNat
  match fmt with
  | 0 => if byte (i / 8) / 2 ^ (i % 8) % 2 = 1 then 1 else -1
  | 1 => ((byte (i / 5) / 3 ^ (i % 5) % 3 : Nat) : Int) - 1
  | 2 => signed 2 (byte (i / 4) / 4 ^ (i % 4) % 4)
  | 3 => signed 4 (byte (i / 2) / 16 ^ (i % 2) % 16)
  | _ => signed 8 (byte i)

/-- No byte of the group is an illegal ternary byte (R55). -/
def groupLegal (fmt : Nat) (g : Bytes) : Bool := fmt != 1 || g.all (fun b => decide (b.toNat ≤ 242))

/-- The reserved field of a scale word is 0 (R57). -/
def scaleLegal (w : Nat) : Bool := w % 65536 / 4096 == 0

/-- m × 2^e of a scale word (R57). -/
def scaleWord (w : Nat) : Int := ((w % 256 * 2 ^ (w / 256 % 16) : Nat) : Int)

/-- The sum of a group: 128 products, exact (R60). -/
def groupSum (fmt : Nat) (g : Bytes) (q : List Int) : Int :=
  ((q.take 128).zip (List.range 128)).foldl (fun a p => a + p.1 * weightAt fmt g p.2) 0

/-- int8 elements of a byte string. -/
def int8s (b : Bytes) : List Int := b.map (fun x => x.toInt)

/-! ### Tables of the nonlinear functions -/

/-- t2[j] = 2^(j/64), rounded once to FP32 (R70). -/
def tabT2 : List Nat :=
  [0x3F800000, 0x3F8164D2, 0x3F82CD87, 0x3F843A29, 0x3F85AAC3, 0x3F871F62, 0x3F88980F, 0x3F8A14D5,
   0x3F8B95C2, 0x3F8D1ADF, 0x3F8EA43A, 0x3F9031DC, 0x3F91C3D3, 0x3F935A2B, 0x3F94F4F0, 0x3F96942D,
   0x3F9837F0, 0x3F99E046, 0x3F9B8D3A, 0x3F9D3EDA, 0x3F9EF532, 0x3FA0B051, 0x3FA27043, 0x3FA43516,
   0x3FA5FED7, 0x3FA7CD94, 0x3FA9A15B, 0x3FAB7A3A, 0x3FAD583F, 0x3FAF3B79, 0x3FB123F6, 0x3FB311C4]
  ++ [0x3FB504F3, 0x3FB6FD92, 0x3FB8FBAF, 0x3FBAFF5B, 0x3FBD08A4, 0x3FBF179A, 0x3FC12C4D, 0x3FC346CD,
   0x3FC5672A, 0x3FC78D75, 0x3FC9B9BE, 0x3FCBEC15, 0x3FCE248C, 0x3FD06334, 0x3FD2A81E, 0x3FD4F35B,
   0x3FD744FD, 0x3FD99D16, 0x3FDBFBB8, 0x3FDE60F5, 0x3FE0CCDF, 0x3FE33F89, 0x3FE5B907, 0x3FE8396A,
   0x3FEAC0C7, 0x3FED4F30, 0x3FEFE4BA, 0x3FF28177, 0x3FF5257D, 0x3FF7D0DF, 0x3FFA83B3, 0x3FFD3E0C]

/-- rc[i] = 1 / (1 + i/64 + 1/128), rounded once (R71); the same values are rp[i] of R72. -/
def tabRc : List Nat :=
  [0x3F7E03F8, 0x3F7A232D, 0x3F76603E, 0x3F72B9D6, 0x3F6F2EB7, 0x3F6BBDB3, 0x3F6865AC, 0x3F652598,
   0x3F61FC78, 0x3F5EE95C, 0x3F5BEB62, 0x3F5901B2, 0x3F562B81, 0x3F53680D, 0x3F50B6A0, 0x3F4E168A,
   0x3F4B8728, 0x3F4907DA, 0x3F46980C, 0x3F443730, 0x3F41E4BC, 0x3F3FA030, 0x3F3D6910, 0x3F3B3EE7,
   0x3F392144, 0x3F370FBB, 0x3F3509E7, 0x3F330F63, 0x3F311FD4, 0x3F2F3ADE, 0x3F2D602B, 0x3F2B8F6A]
  ++ [0x3F29C84A, 0x3F280A81, 0x3F2655C4, 0x3F24A9CF, 0x3F23065E, 0x3F216B31, 0x3F1FD80A, 0x3F1E4CAD,
   0x3F1CC8E1, 0x3F1B4C70, 0x3F19D723, 0x3F1868C8, 0x3F17012E, 0x3F15A025, 0x3F144581, 0x3F12F114,
   0x3F11A2B4, 0x3F105A38, 0x3F0F177A, 0x3F0DDA52, 0x3F0CA29C, 0x3F0B7034, 0x3F0A42F8, 0x3F091AC7,
   0x3F07F781, 0x3F06D905, 0x3F05BF37, 0x3F04A9FA, 0x3F039930, 0x3F028CC0, 0x3F01848E, 0x3F008081]

/-- lg[i] = log2(1 + i/64 + 1/128), rounded once (R71). -/
def tabLg : List Nat :=
  [0x3C37F286, 0x3D08E68F, 0x3D626FD6, 0x3D9D517F, 0x3DC8C50B, 0x3DF39761, 0x3E0EE68D, 0x3E23B550,
   0x3E383A17, 0x3E4C76E8, 0x3E606DB6, 0x3E74205F, 0x3E83C857, 0x3E8D602E, 0x3E96D888, 0x3EA03232,
   0x3EA96DF0, 0x3EB28C7F, 0x3EBB8E96, 0x3EC474E4, 0x3ECD4012, 0x3ED5F0C4, 0x3EDE8797, 0x3EE70525,
   0x3EEF69FF, 0x3EF7B6B4, 0x3EFFEBCD, 0x3F0404E8, 0x3F08089E, 0x3F0C0146, 0x3F0FEF1F, 0x3F13D260]
  ++ [0x3F17AB44, 0x3F1B7A00, 0x3F1F3ECA, 0x3F22F9D5, 0x3F26AB53, 0x3F2A5374, 0x3F2DF268, 0x3F31885C,
   0x3F35157D, 0x3F3899F5, 0x3F3C15EE, 0x3F3F8991, 0x3F42F506, 0x3F465872, 0x3F49B3FB, 0x3F4D07C7,
   0x3F5053F7, 0x3F5398AF, 0x3F56D60F, 0x3F5A0C3A, 0x3F5D3B4E, 0x3F60636A, 0x3F6384AD, 0x3F669F35,
   0x3F69B31E, 0x3F6CC083, 0x3F6FC781, 0x3F72C832, 0x3F75C2B0, 0x3F78B714, 0x3F7BA578, 0x3F7E8DF2]

/-- rs[i] = 1 / sqrt(1 + (i + 0.5) / 32), rounded once (R73). -/
def tabRs : List Nat :=
  [0x3F7E05EC, 0x3F7A33F9, 0x3F768CDC, 0x3F730D8A, 0x3F6FB345, 0x3F6C7B90, 0x3F69642A, 0x3F666B02,
   0x3F638E39, 0x3F60CC16, 0x3F5E2305, 0x3F5B9193, 0x3F59166B, 0x3F56B051, 0x3F545E22, 0x3F521ED0,
   0x3F4FF162, 0x3F4DD4ED, 0x3F4BC89B, 0x3F49CBA2, 0x3F47DD45, 0x3F45FCD6, 0x3F4429AF, 0x3F426337,
   0x3F40A8DE, 0x3F3EFA1C, 0x3F3D5671, 0x3F3BBD67, 0x3F3A2E8C, 0x3F38A975, 0x3F372DBF, 0x3F35BB09]
  ++ [0x3F3450FC, 0x3F32EF41, 0x3F319589, 0x3F304387, 0x3F2EF8F2, 0x3F2DB587, 0x3F2C7904, 0x3F2B432A,
   0x3F2A13C0, 0x3F28EA8C, 0x3F27C759, 0x3F26A9F4, 0x3F25922C, 0x3F247FD3, 0x3F2372BD, 0x3F226ABE,
   0x3F2167AF, 0x3F206968, 0x3F1F6FC4, 0x3F1E7AA0, 0x3F1D89D9, 0x3F1C9D4E, 0x3F1BB4E1, 0x3F1AD073,
   0x3F19EFE6, 0x3F191320, 0x3F183A05, 0x3F17647C, 0x3F16926C, 0x3F15C3BC, 0x3F14F857, 0x3F143026]
  ++ [0x3F136B13, 0x3F12A90B, 0x3F11E9F9, 0x3F112DCA, 0x3F10746D, 0x3F0FBDCE, 0x3F0F09DD, 0x3F0E5889,
   0x3F0DA9C2, 0x3F0CFD79, 0x3F0C539F, 0x3F0BAC25, 0x3F0B06FD, 0x3F0A641A, 0x3F09C36D, 0x3F0924EC,
   0x3F088889, 0x3F07EE37, 0x3F0755ED, 0x3F06BF9E, 0x3F062B40, 0x3F0598C7, 0x3F05082A, 0x3F04795F,
   0x3F03EC5C, 0x3F036117, 0x3F02D788, 0x3F024FA6, 0x3F01C967, 0x3F0144C4, 0x3F00C1B4, 0x3F004030]

/-- Entry of a table. -/
def tabF (t : List Nat) (i : Nat) : F32 := BitVec.ofNat 32 (t.getD i 0)

/-! ### Nonlinear functions (R69–R74) -/

/-- exp2 (R70). -/
def exp2F (x : F32) : F32 :=
  if isNaN x then nanF
  else if isInf x then (if f32Neg x then 0 else infF)
  else if fkey 0x43000000 ≤ fkey x then infF
  else if fkey x < fkey 0xC3160000 then 0
  else
    let k := roundInt (f32Int x) (f32Scale x + 6)
    let r := fsub x (roundDy false k (-6))
    let j := (k % 64).toNat
    let p := fmul (fadd (fmul (fadd (fmul r 0x3D635847) 0x3E75FDF0) r) 0x3F317218) r
    let t := tabF tabT2 j
    scaleF (fadd t (fmul t p)) ((k - j) / 64)

/-- exp (R70). -/
def expF (x : F32) : F32 := exp2F (fmul x 0x3FB8AA3B)

/-- The exponent and the significand in [1, 2) of a finite nonzero magnitude: the position of its leading bit. -/
def leadBit (x : F32) : Nat × Nat := let m := (f32Int x).natAbs; (m, m.log2)

/-- log2 (R71). -/
def log2F (x : F32) : F32 :=
  if isNaN x then nanF
  else if isZeroF x then signedF true infF
  else if f32Neg x then nanF
  else if isInf x then infF
  else
    let m := leadBit x
    let e : Int := (m.2 : Int) + f32Scale x
    let f := roundDy false m.1 (-(m.2 : Int))
    let i := m.1 * 64 / 2 ^ m.2 - 64
    let u := fma f (tabF tabRc i) 0xBF800000
    let q := fadd (fmul 0xBEB8AA3B u) 0x3EF6384F
    let q := fadd (fmul q u) 0xBF38AA3B
    let q := fadd (fmul q u) 0x3FB8AA3B
    fadd (intF e) (fadd (tabF tabLg i) (fmul u q))

/-- ln (R71). -/
def lnF (x : F32) : F32 := fmul (log2F x) 0x3F317218

/-- rcp (R72). -/
def rcpF (x : F32) : F32 :=
  if isNaN x then nanF
  else if isInf x then signedF (f32Neg x) 0
  else if isZeroF x then signedF (f32Neg x) infF
  else
    let m := leadBit x
    let f := roundDy false m.1 (-(m.2 : Int))
    let y := tabF tabRc (m.1 * 64 / 2 ^ m.2 - 64)
    let it (y : F32) : F32 := fmul y (fsub 0x40000000 (fmul f y))
    let y := scaleF (it (it y)) (-((m.2 : Int) + f32Scale x))
    if f32Neg x then fneg y else y

/-- Every quotient a / b (R72). -/
def fdiv (a b : F32) : F32 := fmul a (rcpF b)

/-- rsqrt (R73). -/
def rsqrtF (x : F32) : F32 :=
  if isNaN x then nanF
  else if isZeroF x then signedF (f32Neg x) infF
  else if f32Neg x then nanF
  else if isInf x then 0
  else
    let m := leadBit x
    let e : Int := (m.2 : Int) + f32Scale x
    let odd : Bool := e % 2 == 1
    let num := if odd then 2 * m.1 else m.1
    let e := if odd then e - 1 else e
    let i := num * 32 / 2 ^ m.2 - 32
    let h := roundDy false num (-(m.2 : Int) - 1)
    let it (y : F32) : F32 := fmul y (fsub 0x3FC00000 (fmul (fmul y y) h))
    scaleF (it (it (tabF tabRs i))) (-(e / 2))

/-- sigmoid (R74). -/
def sigmoidF (x : F32) : F32 := rcpF (fadd oneF (expF (fneg x)))

/-- silu (R74). -/
def siluF (x : F32) : F32 := fmul x (sigmoidF x)

/-- tanh (R74); a zero keeps its sign (Table 3-4). -/
def tanhF (x : F32) : F32 :=
  if isZeroF x then x else fsub (fmul 0x40000000 (sigmoidF (fmul 0x40000000 x))) oneF

/-! ### Quantisation (R68) -/

/-- q[j]: the exact product rounded once to an integer and clamped. -/
def quantOne (inv x : F32) : Int :=
  max (-127) (min 127 (roundInt (f32Int x * f32Int inv) (f32Scale x + f32Scale inv)))

/-- Quantised elements, the scale, and whether the output guard is violated. -/
structure Quant where
  q : List Int
  s : F32
  bad : Bool

/-- Quantise with a reciprocal and a scale: an infinite reciprocal gives zeros, scale +0 and a violation. -/
def quantWith (inv s : F32) (x : List F32) : Quant :=
  if isInf inv then ⟨x.map (fun _ => 0), 0, true⟩ else ⟨x.map (quantOne inv), s, false⟩

/-- Quantise a vector with its own scale. A NaN or infinite element violates the output guard; the vector is then written as
zeros with scale +0 (R149). -/
def quantise (x : List F32) : Quant :=
  if x.any (fun v => !isFinite v) then ⟨x.map (fun _ => 0), 0, true⟩
  else
    let m := x.foldl (fun a v => fmax a (fabs v)) 0
    if isZeroF m then ⟨x.map (fun _ => 0), oneF, false⟩
    else quantWith (fmul 0x42FE0000 (rcpF m)) (fmul m 0x3C010204) x

/-- Quantise with a static scale. -/
def quantiseStatic (s0 : F32) (x : List F32) : Quant :=
  if x.any (fun v => !isFinite v) || !goodScale s0 then ⟨x.map (fun _ => 0), 0, true⟩
  else quantWith (rcpF s0) s0 x

/-! ### Philox-4x32-10 (R75) -/

/-- Four 32-bit words. -/
structure Words4 where
  w0 : Nat
  w1 : Nat
  w2 : Nat
  w3 : Nat
  deriving DecidableEq, Repr

/-- `n` rounds. -/
def philoxRounds : Nat → Words4 → Nat → Nat → Words4
  | 0, c, _, _ => c
  | n + 1, c, k0, k1 =>
    let p0 := 0xD2511F53 * c.w0
    let p1 := 0xCD9E8D57 * c.w2
    philoxRounds n
      ⟨(p1 / 2 ^ 32) ^^^ c.w1 ^^^ k0, p1 % 2 ^ 32, (p0 / 2 ^ 32) ^^^ c.w3 ^^^ k1, p0 % 2 ^ 32⟩
      ((k0 + 0x9E3779B9) % 2 ^ 32) ((k1 + 0xBB67AE85) % 2 ^ 32)

/-- Philox of a counter and a 64-bit key. -/
def philox (c : Words4) (key : Nat) : Words4 := philoxRounds 10 c (key % 2 ^ 32) (key / 2 ^ 32 % 2 ^ 32)

/-! ### The sampler (R77, R78) -/

/-- The scaled value of a finite logit: one that overflows is the largest finite value of its sign. -/
def scaledLogit (inv z : F32) : F32 :=
  if isInf inv then (if isZeroF z then 0 else signedF (f32Neg z) 0x7F7FFFFF)
  else
    let s := fmul z inv
    if isInf s then signedF (f32Neg s) 0x7F7FFFFF else s

/-- Running sums. -/
def cumSums : Nat → List Nat → List Nat
  | _, [] => []
  | a, w :: r => (a + w) :: cumSums (a + w) r

/-- What a decode step draws: the token, the chosen weight, and the total weight of the top-k candidates. -/
structure Sample where
  token : Nat
  weight : Nat
  total : Nat
  deriving DecidableEq, Repr

/-- Sample one token from finite logits: τ as FP32, top-k, p16, key and counter. -/
def sample (z : List F32) (tau : F32) (topk p16 key ctr : Nat) : Sample :=
  let inv := if isZeroF tau then oneF else rcpF tau
  let s := (z.map (scaledLogit inv)).zip (List.range z.length)
  let order := s.mergeSort (fun a b => decide (fkey b.1 < fkey a.1) || (fkey a.1 == fkey b.1 && decide (a.2 ≤ b.2)))
  let cand := if topk = 0 ∨ z.length ≤ topk then order else order.take topk
  let mx := (cand.headD (0, 0)).1
  let w := cand.map (fun c => let y := expF (fsub c.1 mx); (roundInt (f32Int y) (f32Scale y + 24)).toNat)
  let cum := cumSums 0 w
  let total := cum.getLastD 0
  let j :=
    if isZeroF tau then 0
    else
      let len := (findIdx? (fun (c : Nat) => decide ((p16 + 1) * total ≤ c * 65536)) cum).getD (cum.length - 1) + 1
      let r := (philox ⟨ctr % 2 ^ 32, ctr / 2 ^ 32 % 2 ^ 32, 0, 1⟩ key).w0
      let target := r * cum.getD (len - 1) 0 / 2 ^ 32
      (findIdx? (fun (c : Nat) => decide (target < c)) cum).getD 0
  ⟨(cand.getD j (0, 0)).2, w.getD j 0, total⟩

/-- The log-probability of the stream record, as BF16 (R78). -/
def logprob (x : Sample) : Nat := toBf16 (lnF (fmul (intF x.weight) (rcpF (intF x.total))))

end Sys2Proof.Machine
end

