-- ==== Sys2Proof/Machine/Crypto.lean ====
section
/-!
DEFINITION. The standards that the spec names and does not restate: SHA-256 and SHA-384 (FIPS 180-4; R3), AES-256-GCM (FIPS 197 and
NIST SP 800-38D; R373, R399) and ECDSA P-384 verification (FIPS 186-5; R283). PRESUMED from the standards. A SHA-256 digest is
the number that its 32 bytes spell little-endian (R3): digest byte 0 is bits 7:0.
-/

namespace Sys2Proof.Machine

/-- The number that bytes spell most significant first, as the standards of this file have it. -/
def beNum (b : Bytes) : Nat := b.foldl (fun n x => 256 * n + x.toNat) 0

/-- The `n` low bytes of a number, most significant first. -/
def beOut (n k : Nat) : Bytes := (leBytes n k).reverse

/-! ### SHA-256 and SHA-384 (FIPS 180-4) -/

/-- What sets the two functions apart: bits of a word, bytes of a block's length field, the initial hash value, the round constants and the
rotations of the four functions (the last of `small0` and `small1` is a shift). -/
structure Sha2 where
  w : Nat
  lenBytes : Nat
  init : List Nat
  k : List Nat
  big0 : Nat × Nat × Nat
  big1 : Nat × Nat × Nat
  small0 : Nat × Nat × Nat
  small1 : Nat × Nat × Nat

def sha256K : List Nat :=
  [0x428A2F98, 0x71374491, 0xB5C0FBCF, 0xE9B5DBA5, 0x3956C25B, 0x59F111F1, 0x923F82A4, 0xAB1C5ED5] ++
  [0xD807AA98, 0x12835B01, 0x243185BE, 0x550C7DC3, 0x72BE5D74, 0x80DEB1FE, 0x9BDC06A7, 0xC19BF174] ++
  [0xE49B69C1, 0xEFBE4786, 0x0FC19DC6, 0x240CA1CC, 0x2DE92C6F, 0x4A7484AA, 0x5CB0A9DC, 0x76F988DA] ++
  [0x983E5152, 0xA831C66D, 0xB00327C8, 0xBF597FC7, 0xC6E00BF3, 0xD5A79147, 0x06CA6351, 0x14292967] ++
  [0x27B70A85, 0x2E1B2138, 0x4D2C6DFC, 0x53380D13, 0x650A7354, 0x766A0ABB, 0x81C2C92E, 0x92722C85] ++
  [0xA2BFE8A1, 0xA81A664B, 0xC24B8B70, 0xC76C51A3, 0xD192E819, 0xD6990624, 0xF40E3585, 0x106AA070] ++
  [0x19A4C116, 0x1E376C08, 0x2748774C, 0x34B0BCB5, 0x391C0CB3, 0x4ED8AA4A, 0x5B9CCA4F, 0x682E6FF3] ++
  [0x748F82EE, 0x78A5636F, 0x84C87814, 0x8CC70208, 0x90BEFFFA, 0xA4506CEB, 0xBEF9A3F7, 0xC67178F2]

def sha384K : List Nat :=
  [0x428A2F98D728AE22, 0x7137449123EF65CD, 0xB5C0FBCFEC4D3B2F, 0xE9B5DBA58189DBBC] ++
  [0x3956C25BF348B538, 0x59F111F1B605D019, 0x923F82A4AF194F9B, 0xAB1C5ED5DA6D8118] ++
  [0xD807AA98A3030242, 0x12835B0145706FBE, 0x243185BE4EE4B28C, 0x550C7DC3D5FFB4E2] ++
  [0x72BE5D74F27B896F, 0x80DEB1FE3B1696B1, 0x9BDC06A725C71235, 0xC19BF174CF692694] ++
  [0xE49B69C19EF14AD2, 0xEFBE4786384F25E3, 0x0FC19DC68B8CD5B5, 0x240CA1CC77AC9C65] ++
  [0x2DE92C6F592B0275, 0x4A7484AA6EA6E483, 0x5CB0A9DCBD41FBD4, 0x76F988DA831153B5] ++
  [0x983E5152EE66DFAB, 0xA831C66D2DB43210, 0xB00327C898FB213F, 0xBF597FC7BEEF0EE4] ++
  [0xC6E00BF33DA88FC2, 0xD5A79147930AA725, 0x06CA6351E003826F, 0x142929670A0E6E70] ++
  [0x27B70A8546D22FFC, 0x2E1B21385C26C926, 0x4D2C6DFC5AC42AED, 0x53380D139D95B3DF] ++
  [0x650A73548BAF63DE, 0x766A0ABB3C77B2A8, 0x81C2C92E47EDAEE6, 0x92722C851482353B] ++
  [0xA2BFE8A14CF10364, 0xA81A664BBC423001, 0xC24B8B70D0F89791, 0xC76C51A30654BE30] ++
  [0xD192E819D6EF5218, 0xD69906245565A910, 0xF40E35855771202A, 0x106AA07032BBD1B8] ++
  [0x19A4C116B8D2D0C8, 0x1E376C085141AB53, 0x2748774CDF8EEB99, 0x34B0BCB5E19B48A8] ++
  [0x391C0CB3C5C95A63, 0x4ED8AA4AE3418ACB, 0x5B9CCA4F7763E373, 0x682E6FF3D6B2B8A3] ++
  [0x748F82EE5DEFB2FC, 0x78A5636F43172F60, 0x84C87814A1F0AB72, 0x8CC702081A6439EC] ++
  [0x90BEFFFA23631E28, 0xA4506CEBDE82BDE9, 0xBEF9A3F7B2C67915, 0xC67178F2E372532B] ++
  [0xCA273ECEEA26619C, 0xD186B8C721C0C207, 0xEADA7DD6CDE0EB1E, 0xF57D4F7FEE6ED178] ++
  [0x06F067AA72176FBA, 0x0A637DC5A2C898A6, 0x113F9804BEF90DAE, 0x1B710B35131C471B] ++
  [0x28DB77F523047D84, 0x32CAAB7B40C72493, 0x3C9EBE0A15C9BEBC, 0x431D67C49C100D4C] ++
  [0x4CC5D4BECB3E42B6, 0x597F299CFC657E2A, 0x5FCB6FAB3AD6FAEC, 0x6C44198C4A475817]

/-- SHA-256. -/
def Sha2.sha256 : Sha2 where
  w := 32
  lenBytes := 8
  init := [0x6A09E667, 0xBB67AE85, 0x3C6EF372, 0xA54FF53A, 0x510E527F, 0x9B05688C, 0x1F83D9AB, 0x5BE0CD19]
  k := sha256K
  big0 := (2, 13, 22)
  big1 := (6, 11, 25)
  small0 := (7, 18, 3)
  small1 := (17, 19, 10)

/-- SHA-384 before its digest is cut. -/
def Sha2.sha384 : Sha2 where
  w := 64
  lenBytes := 16
  init := [0xCBBB9D5DC1059ED8, 0x629A292A367CD507, 0x9159015A3070DD17, 0x152FECD8F70E5939] ++
  [0x67332667FFC00B31, 0x8EB44A8768581511, 0xDB0C2E0D64F98FA7, 0x47B5481DBEFA4FA4]
  k := sha384K
  big0 := (28, 34, 39)
  big1 := (14, 18, 41)
  small0 := (1, 8, 7)
  small1 := (19, 61, 6)

/-- Rotate a word right. -/
def Sha2.rotr (p : Sha2) (n x : Nat) : Nat := (x >>> n) ||| ((x <<< (p.w - n)) % 2 ^ p.w)

/-- Σ of a word. -/
def Sha2.big (p : Sha2) (t : Nat × Nat × Nat) (x : Nat) : Nat := p.rotr t.1 x ^^^ p.rotr t.2.1 x ^^^ p.rotr t.2.2 x

/-- σ of a word. -/
def Sha2.small (p : Sha2) (t : Nat × Nat × Nat) (x : Nat) : Nat := p.rotr t.1 x ^^^ p.rotr t.2.1 x ^^^ (x >>> t.2.2)

/-- The message schedule, newest word first, `n` words beyond the block's own. -/
def Sha2.schedule (p : Sha2) : Nat → List Nat → List Nat
  | 0, l => l
  | n + 1, l =>
    p.schedule n ((p.small p.small1 (l.getD 1 0) + l.getD 6 0 + p.small p.small0 (l.getD 14 0) + l.getD 15 0) % 2 ^ p.w :: l)

/-- One round on the eight working variables. -/
def Sha2.round (p : Sha2) (v : List Nat) (kw : Nat × Nat) : List Nat :=
  match v with
  | [a, b, c, d, e, f, g, h] =>
    let t1 := h + p.big p.big1 e + ((e &&& f) ^^^ ((2 ^ p.w - 1 - e) &&& g)) + kw.1 + kw.2
    let t2 := p.big p.big0 a + ((a &&& b) ^^^ (a &&& c) ^^^ (b &&& c))
    [(t1 + t2) % 2 ^ p.w, a, b, c, (d + t1) % 2 ^ p.w, e, f, g]
  | _ => v

/-- One block of 16 words. -/
def Sha2.block (p : Sha2) (h m : List Nat) : List Nat :=
  let ws := (p.schedule (p.k.length - 16) m.reverse).reverse
  ((p.k.zip ws).foldl p.round h).zipWith (fun a b => (a + b) % 2 ^ p.w) h

/-- The blocks of a padded message. -/
def Sha2.blocks (p : Sha2) : Nat → List Nat → Bytes → List Nat
  | 0, h, _ => h
  | n + 1, h, b =>
    let q := p.w / 8
    p.blocks n (p.block h ((List.range 16).map (fun i => beNum (bytesAt b (q * i) q)))) (b.drop (16 * q))

/-- The hash of a message, before it is cut. -/
def Sha2.hash (p : Sha2) (b : Bytes) : Bytes :=
  let n := 2 * p.w
  let pad := (n - (b.length + 1 + p.lenBytes) % n) % n
  let m := b ++ [0x80] ++ List.replicate pad 0 ++ beOut p.lenBytes (8 * b.length)
  ((p.blocks (m.length / n) p.init m).map (beOut (p.w / 8))).foldr (· ++ ·) []

/-- SHA-256: the digest as the number its bytes spell little-endian (R3). -/
@[irreducible] def sha256 (b : Bytes) : BitVec 256 := BitVec.ofNat 256 (leNat (Sha2.sha256.hash b))

/-- SHA-384: the 48 digest bytes. -/
@[irreducible] def sha384 (b : Bytes) : Bytes := (Sha2.sha384.hash b).take 48

/-! ### AES-256 (FIPS 197) -/

/-- The S-box, one row of 16 bytes to a number, its first byte most significant. -/
def sboxRows : List Nat :=
  [0x637C777BF26B6FC53001672BFED7AB76, 0xCA82C97DFA5947F0ADD4A2AF9CA472C0] ++
  [0xB7FD9326363FF7CC34A5E5F171D83115, 0x04C723C31896059A071280E2EB27B275] ++
  [0x09832C1A1B6E5AA0523BD6B329E32F84, 0x53D100ED20FCB15B6ACBBE394A4C58CF] ++
  [0xD0EFAAFB434D338545F9027F503C9FA8, 0x51A3408F929D38F5BCB6DA2110FFF3D2] ++
  [0xCD0C13EC5F974417C4A77E3D645D1973, 0x60814FDC222A908846EEB814DE5E0BDB] ++
  [0xE0323A0A4906245CC2D3AC629195E479, 0xE7C8376D8DD54EA96C56F4EA657AAE08] ++
  [0xBA78252E1CA6B4C6E8DD741F4BBD8B8A, 0x703EB5664803F60E613557B986C11D9E] ++
  [0xE1F8981169D98E949B1E87E9CE5528DF, 0x8CA1890DBFE6426841992D0FB054BB16]

/-- The S-box. -/
def sbox (x : Nat) : Nat := (sboxRows.getD (x / 16) 0 >>> (8 * (15 - x % 16))) % 256

/-- Multiplication by x in GF(2^8). -/
def xtime (x : Nat) : Nat := if x < 128 then 2 * x else (2 * x) ^^^ 0x11B

/-- Key words, newest first, `n` words beyond those given (each 4 bytes); `i` is the index of the next word. -/
def aesExpand : Nat → Nat → List (List Nat) → List (List Nat)
  | 0, _, l => l
  | n + 1, i, l =>
    let t := l.headD []
    let t := if i % 8 = 0 then (t.drop 1 ++ t.take 1).map sbox |>.zipWith (· ^^^ ·) [2 ^ (i / 8 - 1), 0, 0, 0]
             else if i % 8 = 4 then t.map sbox else t
    aesExpand n (i + 1) ((l.getD 7 []).zipWith (· ^^^ ·) t :: l)

/-- The 15 round keys of 16 bytes. -/
def aesKeys (key : Bytes) : List (List Nat) :=
  let k := key.map BitVec.toNat
  let ws := (aesExpand 52 8 ((List.range 8).map (fun i => (k.drop (4 * i)).take 4)).reverse).reverse
  (List.range 15).map (fun r => ((List.range 4).map (fun c => ws.getD (4 * r + c) [])).foldr (· ++ ·) [])

/-- SubBytes and ShiftRows. -/
def aesSubShift (s : List Nat) : List Nat :=
  (List.range 16).map (fun j => sbox (s.getD (j % 4 + 4 * ((j / 4 + j % 4) % 4)) 0))

/-- MixColumns. -/
def aesMix (s : List Nat) : List Nat :=
  (List.range 16).map (fun j =>
    let b (k : Nat) : Nat := s.getD (4 * (j / 4) + (j + k) % 4) 0
    xtime (b 0) ^^^ xtime (b 1) ^^^ b 1 ^^^ b 2 ^^^ b 3)

/-- The cipher on a block of 16 bytes. -/
def aesBlock (ks : List (List Nat)) (b : List Nat) : List Nat :=
  let s := b.zipWith (· ^^^ ·) (ks.headD [])
  let s := ((ks.drop 1).take 13).foldl (fun s k => (aesMix (aesSubShift s)).zipWith (· ^^^ ·) k) s
  (aesSubShift s).zipWith (· ^^^ ·) (ks.getD 14 [])

/-! ### GCM (NIST SP 800-38D) -/

/-- A block from and to a number, first byte most significant. -/
def aesNum (ks : List (List Nat)) (k : Nat) : Nat :=
  (aesBlock ks ((beOut 16 k).map BitVec.toNat)).foldl (fun n x => 256 * n + x) 0

/-- Multiplication of blocks: bit 0 of a block is its most significant. -/
def gcmMul (x y : Nat) : Nat :=
  ((List.range 128).foldl (fun (z : Nat × Nat) i =>
    (if x.testBit (127 - i) then z.1 ^^^ z.2 else z.1,
     if z.2 % 2 = 0 then z.2 / 2 else (z.2 / 2) ^^^ (0xE1 <<< 120))) (0, y)).1

/-- The 16-byte blocks of a string, the last filled with zeros. -/
def gcmBlocks (b : Bytes) : List Nat :=
  (List.range ((b.length + 15) / 16)).map (fun i => beNum (padTo 16 (bytesAt b (16 * i) 16)))

/-- Counter-mode encryption from the block after `j0`. -/
def gcmCtr (ks : List (List Nat)) (j0 : Nat) (b : Bytes) : Bytes :=
  let out := (List.range ((b.length + 15) / 16)).map (fun i =>
    beOut 16 (aesNum ks (j0 / 2 ^ 32 * 2 ^ 32 + (j0 + 1 + i) % 2 ^ 32)))
  (b.zip (out.foldr (· ++ ·) [])).map (fun x => x.1 ^^^ x.2)

/-- The tag of cipher text `c` with associated data `a`. -/
def gcmTag (ks : List (List Nat)) (j0 : Nat) (a c : Bytes) : Bytes :=
  let h := aesNum ks 0
  let s := (gcmBlocks a ++ gcmBlocks c ++ [8 * a.length * 2 ^ 64 + 8 * c.length]).foldl (fun y x => gcmMul (y ^^^ x) h) 0
  beOut 16 (s ^^^ aesNum ks j0)

/-- The first counter block of a 96-bit IV. -/
def gcmJ0 (iv : Bytes) : Nat := beNum iv * 2 ^ 32 + 1

/-- AES-256-GCM sealing: key, IV, associated data, plain text; the cipher text followed by the 16-byte tag. -/
@[irreducible] def gcmSeal (key iv aad pt : Bytes) : Bytes :=
  let ks := aesKeys key
  let c := gcmCtr ks (gcmJ0 iv) pt
  c ++ gcmTag ks (gcmJ0 iv) aad c

/-- AES-256-GCM opening: key, IV, associated data, cipher text, tag; none where the tag fails (R397, R401). -/
@[irreducible] def gcmOpen (key iv aad ct tag : Bytes) : Option Bytes :=
  let ks := aesKeys key
  if gcmTag ks (gcmJ0 iv) aad ct = tag then some (gcmCtr ks (gcmJ0 iv) ct) else none

/-! ### ECDSA P-384 (FIPS 186-5, SP 800-186) -/

/-- The field prime. -/
def p384p : Nat := 2 ^ 384 - 2 ^ 128 - 2 ^ 96 + 2 ^ 32 - 1

/-- The order of the base point. -/
def p384n : Nat := 0xFFFFFFFFFFFFFFFFFFFFFFFFFFFFFFFFFFFFFFFFFFFFFFFFC7634D81F4372DDF581A0DB248B0A77AECEC196ACCC52973

/-- The coefficient b. -/
def p384b : Nat := 0xB3312FA7E23EE7E4988E056BE3F82D19181D9C6EFE8141120314088F5013875AC656398D8A2ED19D2A85C8EDD3EC2AEF

/-- A point in Jacobian coordinates; z = 0 is the point at infinity. -/
structure JPoint where
  x : Nat
  y : Nat
  z : Nat

/-- The base point. -/
def p384G : JPoint :=
  ⟨0xAA87CA22BE8B05378EB1C71EF320AD746E1D3B628BA79B9859F741E082542A385502F25DBF55296C3A545E3872760AB7,
   0x3617DE4A96262C6F5D9E98BF9292DC29F8F41DBD289A147CE9DA3113B5F0B8C00A60B1CE1D7E819D7A431D7C90EA0E5F, 1⟩

/-- a − b in the field. -/
def p384Sub (a b : Nat) : Nat := (a + p384p - b % p384p) % p384p

/-- Twice a point (a = −3). -/
def JPoint.dbl (q : JPoint) : JPoint :=
  let d := q.z * q.z % p384p
  let g := q.y * q.y % p384p
  let b := q.x * g % p384p
  let a := 3 * (p384Sub q.x d) * (q.x + d) % p384p
  let x := p384Sub (a * a) (8 * b)
  ⟨x, p384Sub (a * p384Sub (4 * b) x) (8 * g * g), 2 * q.y * q.z % p384p⟩

/-- The sum of two points. -/
def JPoint.add (q r : JPoint) : JPoint :=
  if q.z = 0 then r
  else if r.z = 0 then q
  else
    let zq := q.z * q.z % p384p
    let zr := r.z * r.z % p384p
    let u := q.x * zr % p384p
    let s := q.y * zr % p384p * r.z % p384p
    let h := p384Sub (r.x * zq) u
    let t := p384Sub (r.y * zq % p384p * q.z) s
    if h = 0 then (if t = 0 then q.dbl else ⟨1, 1, 0⟩)
    else
      let h2 := h * h % p384p
      let h3 := h * h2 % p384p
      let uh := u * h2 % p384p
      let x := p384Sub (t * t) (h3 + 2 * uh)
      ⟨x, p384Sub (t * p384Sub uh x) (s * h3), h * q.z % p384p * r.z % p384p⟩

/-- `k` times a point, for a `k` of at most `n` bits: twice the upper bits' multiple, and the point where the last bit is 1. -/
def JPoint.mul (q : JPoint) (k : Nat) : Nat → JPoint
  | 0 => ⟨1, 1, 0⟩
  | n + 1 =>
    let r := (q.mul (k / 2) n).dbl
    if k % 2 = 1 then r.add q else r

/-- `b ^ e` modulo `m`, for an exponent of at most `n` bits. -/
def powMod (m b : Nat) : Nat → Nat → Nat
  | _, 0 => 1
  | e, n + 1 =>
    let r := powMod m b (e / 2) n
    let r := r * r % m
    if e % 2 = 1 then r * b % m else r

/-- ECDSA P-384 verification: an uncompressed point of 97 bytes, a digest, r and s of 48 bytes each. -/
@[irreducible] def ecdsaVerify (key digest sig : Bytes) : Bool :=
  let x := beNum (bytesAt key 1 48)
  let y := beNum (bytesAt key 49 48)
  let r := beNum (bytesAt sig 0 48)
  let s := beNum (bytesAt sig 48 48)
  let w := powMod p384n s (p384n - 2) 384
  let q := (p384G.mul (beNum digest * w % p384n) 384).add ((⟨x, y, 1⟩ : JPoint).mul (r * w % p384n) 384)
  let zz := q.z * q.z % p384p
  key.length == 97 && numAt key 0 1 == 4 && sig.length == 96 &&
    decide (x < p384p) && decide (y < p384p) && y * y % p384p == (x * x * x + (p384p - 3) * x + p384b) % p384p &&
    decide (0 < r) && decide (r < p384n) && decide (0 < s) && decide (s < p384n) && q.z != 0 &&
    (q.x == r * zz % p384p || (decide (r + p384n < p384p) && q.x == (r + p384n) * zz % p384p))

end Sys2Proof.Machine
end

