-- ==== Sys2Proof/Machine/Registers.lean ====
section
/-!
DEFINITION. The register fields of PF BAR0 (R17, R18): for every register table of the spec one descriptor per
field, under the spec's own field name, with the block's prefix; and the families of fields that a host write can
change, that a read changes, and that are 64-bit counters.
Typed elsewhere in State, and so not here: the mailbox registers (Table 18-3), the accounting sets (Table 17-7),
the group table (Table 13-10), the key store (Table 16-10), RTR_SUB (Table 11-13), partition status (Table 18-22).
-/

namespace Sys2Proof.Machine

/-- R18, Table 1-8: the access types of a register field. -/
inductive Access where
  | ro | rw | wo | w1c | w1s | rc | rwh
  deriving DecidableEq, Repr

/-- One field of a register: the PF BAR0 offset of its 32-bit word (its low word for a 64-bit counter), the lowest bit,
the width, the access type and the reset value of its table. -/
structure Field where
  off : Nat
  lo : Nat
  width : Nat
  acc : Access
  reset : Nat
  deriving DecidableEq, Repr

/-- The key of a field in the register file: its bit address in PF BAR0. -/
def Field.key (f : Field) : Nat := f.off * 32 + f.lo

/-- A family of fields: the first one, and (count, stride) of each index. -/
structure Family where
  first : Field
  strides : List (Nat × Nat)
  deriving DecidableEq, Repr

namespace Reg

/-! Table 2-7: TICK_CONFIG (offset 0x004). -/
def TICK_SYNC_OUT_EN : Field := ⟨0x100004, 22, 1, .rwh, 0⟩
def TICK_SYNC_IN_EN : Field := ⟨0x100004, 21, 1, .rwh, 0⟩
def TICK_MASTER_ELIG : Field := ⟨0x100004, 20, 1, .rwh, 0⟩
def TICK_MASTER_PRIO : Field := ⟨0x100004, 16, 4, .rwh, 0⟩
def TICK_FRAME_SLOTS : Field := ⟨0x100004, 0, 12, .rwh, 320⟩

/-! Table 2-8: TICK_STATUS (offset 0x008). -/
def TICK_NO_STANDBY : Field := ⟨0x100008, 7, 1, .ro, 0⟩
def TICK_FENCED : Field := ⟨0x100008, 6, 1, .ro, 0⟩
def TICK_HOLDOVER : Field := ⟨0x100008, 5, 1, .ro, 0⟩
def TICK_LOCKED : Field := ⟨0x100008, 4, 1, .ro, 0⟩
def TICK_ROLE : Field := ⟨0x100008, 0, 2, .ro, 0⟩

/-! Table 2-9: TICK_MASTER (offset 0x00C). -/
def TICK_GEN : Field := ⟨0x10000C, 24, 8, .ro, 0⟩
def TICK_STANDBY_ID : Field := ⟨0x10000C, 8, 8, .ro, 255⟩
def TICK_MASTER_ID : Field := ⟨0x10000C, 0, 8, .ro, 255⟩

/-! Table 2-10: Frame and slot registers. -/
def TICK_FRAME_LO : Field := ⟨0x100010, 0, 48, .ro, 0⟩
def TICK_SLOT : Field := ⟨0x100018, 0, 12, .ro, 0⟩
def TICK_OFFSET : Field := ⟨0x10001C, 0, 16, .ro, 0⟩
def TICK_OFFSET_MAX : Field := ⟨0x100020, 0, 16, .rc, 0⟩
def TICK_LEN_NEXT : Field := ⟨0x100024, 12, 12, .ro, 320⟩
def TICK_STRETCH : Field := ⟨0x100024, 0, 12, .ro, 0⟩
def TICK_BASE : Field := ⟨0x10002C, 0, 12, .ro, 320⟩

/-! Table 2-11: TICK_EVENT (offset 0x028). -/
def TICK_EV_SYNC_IN_LOST : Field := ⟨0x100028, 7, 1, .w1c, 0⟩
def TICK_EV_FENCE_SEEN : Field := ⟨0x100028, 6, 1, .w1c, 0⟩
def TICK_EV_TAKEOVER : Field := ⟨0x100028, 5, 1, .w1c, 0⟩
def TICK_EV_MASTER_MISS : Field := ⟨0x100028, 4, 1, .w1c, 0⟩
def TICK_EV_NBR_FAULT : Field := ⟨0x100028, 3, 1, .w1c, 0⟩
def TICK_EV_REPLAY : Field := ⟨0x100028, 2, 1, .w1c, 0⟩
def TICK_EV_OVERRUN : Field := ⟨0x100028, 1, 1, .w1c, 0⟩
def TICK_EV_DRIFT_WARN : Field := ⟨0x100028, 0, 1, .w1c, 0⟩

/-! Table 2-12: Counters and link selection. -/
def TICK_ID : Field := ⟨0x100000, 0, 32, .ro, 256⟩
def TICK_EDGE_REJECT_CNT : Field := ⟨0x100030, 0, 64, .ro, 0⟩
def TICK_REPLAY_CNT : Field := ⟨0x100038, 0, 64, .ro, 0⟩
def TICK_OVERRUN_CNT : Field := ⟨0x100040, 0, 64, .ro, 0⟩
def TICK_LATE_ABORT_CNT : Field := ⟨0x100048, 0, 64, .ro, 0⟩
def TICK_LINK_MASK (m : Nat) : Field := ⟨0x100060 + m * 0x4, 0, 32, .rw, 0⟩
def TICK_ALT_UP : Field := ⟨0x10006C, 8, 7, .rw, 127⟩
def TICK_PRIM_UP : Field := ⟨0x10006C, 0, 7, .rw, 127⟩
def TICK_NBR_REJECT (n : Nat) : Field := ⟨0x100100 + n * 0x4, 0, 8, .ro, 0⟩
def TICK_NBR_REJECT_NEG_Y : Field := ⟨0x10012C, 0, 8, .ro, 0⟩

/-! Table 4-5: ROT_STATUS (offset 0x004). -/
def ROT_KAT_FAIL (G : Nat) : Field := ⟨0x10E0004 + (G / 4) * 0x100000 + (G % 4) * 0x1000, 3, 1, .ro, 0⟩
def ROT_KAT_PASS (G : Nat) : Field := ⟨0x10E0004 + (G / 4) * 0x100000 + (G % 4) * 0x1000, 2, 1, .ro, 0⟩
def ROT_BUSY (G : Nat) : Field := ⟨0x10E0004 + (G / 4) * 0x100000 + (G % 4) * 0x1000, 1, 1, .ro, 0⟩
def ROT_FENCED (G : Nat) : Field := ⟨0x10E0004 + (G / 4) * 0x100000 + (G % 4) * 0x1000, 0, 1, .ro, 0⟩

/-! Table 4-6: ROT_ERR (offset 0x008). -/
def ROT_ERR_KAT_FAIL (G : Nat) : Field := ⟨0x10E0008 + (G / 4) * 0x100000 + (G % 4) * 0x1000, 2, 1, .w1c, 0⟩
def ROT_ERR_OVERFLOW (G : Nat) : Field := ⟨0x10E0008 + (G / 4) * 0x100000 + (G % 4) * 0x1000, 1, 1, .w1c, 0⟩
def ROT_ERR_NONFINITE_IN (G : Nat) : Field := ⟨0x10E0008 + (G / 4) * 0x100000 + (G % 4) * 0x1000, 0, 1, .w1c, 0⟩

/-! Table 4-7: Identity, counters and seeds. -/
def ROT_ID (G : Nat) : Field := ⟨0x10E0000 + (G / 4) * 0x100000 + (G % 4) * 0x1000, 0, 32, .ro, 256⟩
def ROT_XFORM_CNT (G : Nat) : Field := ⟨0x10E0010 + (G / 4) * 0x100000 + (G % 4) * 0x1000, 0, 64, .ro, 0⟩
def ROT_BUSY_CNT (G : Nat) : Field := ⟨0x10E0018 + (G / 4) * 0x100000 + (G % 4) * 0x1000, 0, 64, .ro, 0⟩
def ROT_SEED_VALID (G : Nat) : Field := ⟨0x10E0020 + (G / 4) * 0x100000 + (G % 4) * 0x1000, 0, 64, .rwh, 0⟩
def ROT_SEED_LO (G : Nat) (j : Nat) : Field := ⟨0x10E0100 + (G / 4) * 0x100000 + (G % 4) * 0x1000 + j * 0x8, 0, 32, .rwh, 0⟩
def ROT_SEED_HI (G : Nat) (j : Nat) : Field := ⟨0x10E0104 + (G / 4) * 0x100000 + (G % 4) * 0x1000 + j * 0x8, 0, 32, .rwh, 0⟩

/-! Table 5-9: Stack-level BDU registers (base 0x0C_0000). -/
def BDU_ID (n : Nat) : Field := ⟨0x10C0000 + n * 0x100000, 0, 32, .ro, 256⟩
def BDU_CE_EVENT_LIMIT (n : Nat) : Field := ⟨0x10C0004 + n * 0x100000, 8, 8, .rw, 16⟩
def BDU_CE_EVENT_EN (n : Nat) : Field := ⟨0x10C0004 + n * 0x100000, 0, 1, .rw, 1⟩
def BDU_REFRESH_PHASE (n : Nat) : Field := ⟨0x10C0008 + n * 0x100000, 0, 12, .ro, 0⟩

/-! Table 5-10: BDU_DIE_STATUS (die base + 0x000). -/
def BDU_DIE_FENCED (d : Nat) : Field := ⟨0x10C1000 + (d / 12) * 0x100000 + (d % 12) * 0x100, 16, 16, .ro, 0⟩
def BDU_DIE_BUSY (d : Nat) : Field := ⟨0x10C1000 + (d / 12) * 0x100000 + (d % 12) * 0x100, 0, 16, .ro, 0⟩

/-! Table 5-11: BDU_DIE_ERR (die base + 0x004). -/
def BDU_ERR_WATCHDOG (d : Nat) : Field := ⟨0x10C1004 + (d / 12) * 0x100000 + (d % 12) * 0x100, 5, 1, .w1c, 0⟩
def BDU_ERR_TSV_FAIL (d : Nat) : Field := ⟨0x10C1004 + (d / 12) * 0x100000 + (d % 12) * 0x100, 4, 1, .w1c, 0⟩
def BDU_ERR_TSV_RETRY (d : Nat) : Field := ⟨0x10C1004 + (d / 12) * 0x100000 + (d % 12) * 0x100, 3, 1, .w1c, 0⟩
def BDU_ERR_ARF_PARITY (d : Nat) : Field := ⟨0x10C1004 + (d / 12) * 0x100000 + (d % 12) * 0x100, 2, 1, .w1c, 0⟩
def BDU_ERR_ECC_UE (d : Nat) : Field := ⟨0x10C1004 + (d / 12) * 0x100000 + (d % 12) * 0x100, 1, 1, .w1c, 0⟩
def BDU_ERR_ECC_CE (d : Nat) : Field := ⟨0x10C1004 + (d / 12) * 0x100000 + (d % 12) * 0x100, 0, 1, .w1c, 0⟩

/-! Table 5-12: Error address and counters (die base). -/
def BDU_DIE_ERR_ADDR_LO (d : Nat) : Field := ⟨0x10C1008 + (d / 12) * 0x100000 + (d % 12) * 0x100, 0, 32, .ro, 0⟩
def BDU_DIE_ERR_BG (d : Nat) : Field := ⟨0x10C100C + (d / 12) * 0x100000 + (d % 12) * 0x100, 16, 4, .ro, 0⟩
def BDU_DIE_ERR_ADDR_HI (d : Nat) : Field := ⟨0x10C100C + (d / 12) * 0x100000 + (d % 12) * 0x100, 0, 16, .ro, 0⟩
def BDU_DIE_CE_CNT (d : Nat) : Field := ⟨0x10C1010 + (d / 12) * 0x100000 + (d % 12) * 0x100, 0, 64, .ro, 0⟩
def BDU_DIE_UE_CNT (d : Nat) : Field := ⟨0x10C1018 + (d / 12) * 0x100000 + (d % 12) * 0x100, 0, 64, .ro, 0⟩
def BDU_DIE_TSV_RETRY_CNT (d : Nat) : Field := ⟨0x10C1020 + (d / 12) * 0x100000 + (d % 12) * 0x100, 0, 64, .ro, 0⟩
def BDU_DIE_BEAT_CNT (d : Nat) : Field := ⟨0x10C1028 + (d / 12) * 0x100000 + (d % 12) * 0x100, 0, 64, .ro, 0⟩
def BDU_DIE_BUSY_CNT (d : Nat) : Field := ⟨0x10C1030 + (d / 12) * 0x100000 + (d % 12) * 0x100, 0, 64, .ro, 0⟩
def BDU_DIE_REFRESH_STALL_CNT (d : Nat) : Field := ⟨0x10C1038 + (d / 12) * 0x100000 + (d % 12) * 0x100, 0, 64, .ro, 0⟩
def BDU_DIE_SHARED_BEAT_CNT (d : Nat) : Field := ⟨0x10C1040 + (d / 12) * 0x100000 + (d % 12) * 0x100, 0, 64, .ro, 0⟩

/-! Table 6-16: SEQ_STATUS (context base + 0x000). -/
def CTX_STATE (G : Nat) : Field := ⟨0x1020000 + (G / 4) * 0x100000 + (G % 4) * 0x100, 30, 2, .ro, 0⟩
def CTX_STALL (G : Nat) : Field := ⟨0x1020000 + (G / 4) * 0x100000 + (G % 4) * 0x100, 24, 4, .ro, 0⟩
def CTX_PC (G : Nat) : Field := ⟨0x1020000 + (G / 4) * 0x100000 + (G % 4) * 0x100, 0, 14, .ro, 0⟩

/-! Table 6-17: Sequencer context registers. -/
def CTX_FRAME_EPOCH (G : Nat) : Field := ⟨0x1020008 + (G / 4) * 0x100000 + (G % 4) * 0x100, 0, 64, .ro, 0⟩
def CTX_GUARD_VIOL (G : Nat) : Field := ⟨0x1020010 + (G / 4) * 0x100000 + (G % 4) * 0x100, 31, 1, .w1c, 0⟩
def CTX_GUARD_KIND (G : Nat) : Field := ⟨0x1020010 + (G / 4) * 0x100000 + (G % 4) * 0x100, 28, 3, .ro, 0⟩
def CTX_GUARD_PC (G : Nat) : Field := ⟨0x1020010 + (G / 4) * 0x100000 + (G % 4) * 0x100, 14, 14, .ro, 0⟩
def CTX_GUARD_ENTRY (G : Nat) : Field := ⟨0x1020010 + (G / 4) * 0x100000 + (G % 4) * 0x100, 0, 12, .ro, 0⟩
def CTX_GUARD_ELEM (G : Nat) : Field := ⟨0x1020014 + (G / 4) * 0x100000 + (G % 4) * 0x100, 0, 32, .ro, 0⟩
def CTX_AC (G : Nat) (i : Nat) : Field := ⟨0x1020020 + (G / 4) * 0x100000 + (G % 4) * 0x100 + i * 0x4, 0, 16, .ro, 0⟩

/-! Table 6-18: ENG_ERR (array base + 0x004). -/
def ENG_ERR_STREAM_PATH (G : Nat) : Field := ⟨0x1080004 + (G / 4) * 0x100000 + (G % 4) * 0x1000, 7, 1, .w1c, 0⟩
def ENG_ERR_STREAM_UE (G : Nat) : Field := ⟨0x1080004 + (G / 4) * 0x100000 + (G % 4) * 0x1000, 6, 1, .w1c, 0⟩
def ENG_ERR_WATCHDOG (G : Nat) : Field := ⟨0x1080004 + (G / 4) * 0x100000 + (G % 4) * 0x1000, 5, 1, .w1c, 0⟩
def ENG_ERR_GUARD (G : Nat) : Field := ⟨0x1080004 + (G / 4) * 0x100000 + (G % 4) * 0x1000, 4, 1, .w1c, 0⟩
def ENG_ERR_NONFINITE (G : Nat) : Field := ⟨0x1080004 + (G / 4) * 0x100000 + (G % 4) * 0x1000, 3, 1, .w1c, 0⟩
def ENG_ERR_OVERFLOW (G : Nat) : Field := ⟨0x1080004 + (G / 4) * 0x100000 + (G % 4) * 0x1000, 2, 1, .w1c, 0⟩
def ENG_ERR_ACC_PARITY (G : Nat) : Field := ⟨0x1080004 + (G / 4) * 0x100000 + (G % 4) * 0x1000, 1, 1, .w1c, 0⟩
def ENG_ERR_OPERAND_UE (G : Nat) : Field := ⟨0x1080004 + (G / 4) * 0x100000 + (G % 4) * 0x1000, 0, 1, .w1c, 0⟩

/-! Table 6-19: Identity and counters (array base). -/
def ENG_ID (G : Nat) : Field := ⟨0x1080000 + (G / 4) * 0x100000 + (G % 4) * 0x1000, 0, 32, .ro, 256⟩
def ENG_MXA_BUSY_CNT (G : Nat) : Field := ⟨0x1080010 + (G / 4) * 0x100000 + (G % 4) * 0x1000, 0, 64, .ro, 0⟩
def ENG_MXA_MAC_CNT (G : Nat) : Field := ⟨0x1080018 + (G / 4) * 0x100000 + (G % 4) * 0x1000, 0, 64, .ro, 0⟩
def ENG_VEC_BUSY_CNT (G : Nat) : Field := ⟨0x1080020 + (G / 4) * 0x100000 + (G % 4) * 0x1000, 0, 64, .ro, 0⟩
def ENG_LOESS_BYTE_CNT (G : Nat) : Field := ⟨0x1080028 + (G / 4) * 0x100000 + (G % 4) * 0x1000, 0, 64, .ro, 0⟩
def ENG_GUARD_RUN_CNT (G : Nat) : Field := ⟨0x1080030 + (G / 4) * 0x100000 + (G % 4) * 0x1000, 0, 64, .ro, 0⟩
def ENG_GUARD_VIOL_CNT (G : Nat) : Field := ⟨0x1080038 + (G / 4) * 0x100000 + (G % 4) * 0x1000, 0, 64, .ro, 0⟩

/-! Table 7-10: Stack-level scratchpad registers (base 0x0A_0000). -/
def SPM_ID (n : Nat) : Field := ⟨0x10A0000 + n * 0x100000, 0, 32, .ro, 256⟩
def SPM_SCRUB_EN (n : Nat) : Field := ⟨0x10A0004 + n * 0x100000, 31, 1, .rw, 1⟩
def SPM_SCRUB_ROW_US (n : Nat) : Field := ⟨0x10A0004 + n * 0x100000, 0, 16, .rw, 4096⟩
def SPM_CE_EVENT_LIMIT (n : Nat) : Field := ⟨0x10A0008 + n * 0x100000, 8, 8, .rw, 16⟩
def SPM_CE_EVENT_EN (n : Nat) : Field := ⟨0x10A0008 + n * 0x100000, 0, 1, .rw, 1⟩
def SPM_SCRUB_ROW (n : Nat) : Field := ⟨0x10A000C + n * 0x100000, 0, 9, .ro, 0⟩
def SPM_SCRUB_PASS_CNT (n : Nat) : Field := ⟨0x10A0010 + n * 0x100000, 0, 64, .ro, 0⟩

/-! Table 7-11: SPM_ERR (quadrant base + 0x010). -/
def SPM_ERR_SCRUB_FORCED (G : Nat) : Field := ⟨0x10A1010 + (G / 4) * 0x100000 + (G % 4) * 0x100, 5, 1, .w1c, 0⟩
def SPM_ERR_HOLD (G : Nat) : Field := ⟨0x10A1010 + (G / 4) * 0x100000 + (G % 4) * 0x100, 4, 1, .w1c, 0⟩
def SPM_ERR_RMW_POISON (G : Nat) : Field := ⟨0x10A1010 + (G / 4) * 0x100000 + (G % 4) * 0x100, 3, 1, .w1c, 0⟩
def SPM_ERR_UE_SCRUB (G : Nat) : Field := ⟨0x10A1010 + (G / 4) * 0x100000 + (G % 4) * 0x100, 2, 1, .w1c, 0⟩
def SPM_ERR_UE_READ (G : Nat) : Field := ⟨0x10A1010 + (G / 4) * 0x100000 + (G % 4) * 0x100, 1, 1, .w1c, 0⟩
def SPM_ERR_CE (G : Nat) : Field := ⟨0x10A1010 + (G / 4) * 0x100000 + (G % 4) * 0x100, 0, 1, .w1c, 0⟩

/-! Table 7-12: Quadrant registers (quadrant base). -/
def SPM_BANK_MAP (G : Nat) (m : Nat) : Field := ⟨0x10A1000 + (G / 4) * 0x100000 + (G % 4) * 0x100 + m * 0x4, 0, 32, .rwh, 0⟩
def SPM_Q_ERR_SRC (G : Nat) : Field := ⟨0x10A1014 + (G / 4) * 0x100000 + (G % 4) * 0x100, 29, 3, .ro, 0⟩
def SPM_Q_ERR_OFS (G : Nat) : Field := ⟨0x10A1014 + (G / 4) * 0x100000 + (G % 4) * 0x100, 0, 24, .ro, 0⟩
def SPM_Q_ERR_UE (G : Nat) : Field := ⟨0x10A1018 + (G / 4) * 0x100000 + (G % 4) * 0x100, 8, 1, .ro, 0⟩
def SPM_Q_ERR_SYND (G : Nat) : Field := ⟨0x10A1018 + (G / 4) * 0x100000 + (G % 4) * 0x100, 0, 8, .ro, 0⟩
def SPM_Q_CE_CNT (G : Nat) : Field := ⟨0x10A1020 + (G / 4) * 0x100000 + (G % 4) * 0x100, 0, 64, .ro, 0⟩
def SPM_Q_UE_CNT (G : Nat) : Field := ⟨0x10A1028 + (G / 4) * 0x100000 + (G % 4) * 0x100, 0, 64, .ro, 0⟩
def SPM_HOLD_CNT (G : Nat) : Field := ⟨0x10A1030 + (G / 4) * 0x100000 + (G % 4) * 0x100, 0, 64, .ro, 0⟩
def SPM_Q_BEAT_CNT (G : Nat) : Field := ⟨0x10A1038 + (G / 4) * 0x100000 + (G % 4) * 0x100, 0, 64, .ro, 0⟩
def SPM_Q_WAIT_CNT (G : Nat) : Field := ⟨0x10A1040 + (G / 4) * 0x100000 + (G % 4) * 0x100, 0, 64, .ro, 0⟩

/-! Table 7-13: Hub scratchpad registers (TIER block + 0x0F_0000). -/
def SPM_HUB_MAP (m : Nat) : Field := ⟨0x5F0000 + m * 0x4, 0, 32, .rwh, 0⟩
def SPM_HUB_OWNER (m : Nat) : Field := ⟨0x5F0040 + m * 0x4, 0, 32, .rwh, 0⟩
def SPM_HUB_ERR : Field := ⟨0x5F00C0, 0, 32, .w1c, 0⟩
def SPM_HUB_ERR_SRC : Field := ⟨0x5F00C4, 29, 3, .ro, 0⟩
def SPM_HUB_ERR_OFS : Field := ⟨0x5F00C4, 0, 26, .ro, 0⟩
def SPM_HUB_ERR_SYND : Field := ⟨0x5F00C8, 0, 9, .ro, 0⟩
def SPM_HUB_HUB_CE_CNT : Field := ⟨0x5F00D0, 0, 64, .ro, 0⟩
def SPM_HUB_HUB_UE_CNT : Field := ⟨0x5F00D8, 0, 64, .ro, 0⟩

/-! Table 8-17: Stack-level and status registers. -/
def ATT_ID (n : Nat) : Field := ⟨0x1060000 + n * 0x100000, 0, 32, .ro, 256⟩
def ATT_PUT_BUSY (G : Nat) : Field := ⟨0x1061000 + (G / 4) * 0x100000 + (G % 4) * 0x100, 2, 1, .ro, 0⟩
def ATT_VEC_BUSY (G : Nat) : Field := ⟨0x1061000 + (G / 4) * 0x100000 + (G % 4) * 0x100, 1, 1, .ro, 0⟩
def ATT_RUN_BUSY (G : Nat) : Field := ⟨0x1061000 + (G / 4) * 0x100000 + (G % 4) * 0x100, 0, 1, .ro, 0⟩

/-! Table 8-18: ATT_ERR (quadrant base + 0x004) and ATT_ERR_INFO (quadrant base + 0x008). -/
def ATT_ERR_WATCHDOG (G : Nat) : Field := ⟨0x1061004 + (G / 4) * 0x100000 + (G % 4) * 0x100, 6, 1, .w1c, 0⟩
def ATT_ERR_POISON (G : Nat) : Field := ⟨0x1061004 + (G / 4) * 0x100000 + (G % 4) * 0x100, 5, 1, .w1c, 0⟩
def ATT_ERR_NONFINITE (G : Nat) : Field := ⟨0x1061004 + (G / 4) * 0x100000 + (G % 4) * 0x100, 4, 1, .w1c, 0⟩
def ATT_ERR_LIST_INVALID (G : Nat) : Field := ⟨0x1061004 + (G / 4) * 0x100000 + (G % 4) * 0x100, 3, 1, .w1c, 0⟩
def ATT_ERR_LIST_STALE (G : Nat) : Field := ⟨0x1061004 + (G / 4) * 0x100000 + (G % 4) * 0x100, 2, 1, .w1c, 0⟩
def ATT_ERR_PUT_UE (G : Nat) : Field := ⟨0x1061004 + (G / 4) * 0x100000 + (G % 4) * 0x100, 1, 1, .w1c, 0⟩
def ATT_ERR_KV_SAT (G : Nat) : Field := ⟨0x1061004 + (G / 4) * 0x100000 + (G % 4) * 0x100, 0, 1, .w1c, 0⟩
def ATT_INFO_SRC (G : Nat) : Field := ⟨0x1061008 + (G / 4) * 0x100000 + (G % 4) * 0x100, 30, 2, .ro, 0⟩
def ATT_INFO_INDEX (G : Nat) : Field := ⟨0x1061008 + (G / 4) * 0x100000 + (G % 4) * 0x100, 0, 12, .ro, 0⟩

/-! Table 8-19: Counters (quadrant base). -/
def ATT_RUN_CNT (G : Nat) : Field := ⟨0x1061010 + (G / 4) * 0x100000 + (G % 4) * 0x100, 0, 64, .ro, 0⟩
def ATT_ROW_CNT (G : Nat) : Field := ⟨0x1061018 + (G / 4) * 0x100000 + (G % 4) * 0x100, 0, 64, .ro, 0⟩
def ATT_EMPTY_CNT (G : Nat) : Field := ⟨0x1061020 + (G / 4) * 0x100000 + (G % 4) * 0x100, 0, 64, .ro, 0⟩
def ATT_KV_SAT_CNT (G : Nat) : Field := ⟨0x1061028 + (G / 4) * 0x100000 + (G % 4) * 0x100, 0, 64, .ro, 0⟩
def ATT_KV_PUT_ROW_CNT (G : Nat) : Field := ⟨0x1061030 + (G / 4) * 0x100000 + (G % 4) * 0x100, 0, 64, .ro, 0⟩
def ATT_BUSY_CNT (G : Nat) : Field := ⟨0x1061038 + (G / 4) * 0x100000 + (G % 4) * 0x100, 0, 64, .ro, 0⟩

/-! Table 9-10: SRT registers. -/
def SRT_ID (n : Nat) : Field := ⟨0x1040000 + n * 0x100000, 0, 32, .ro, 256⟩
def SRT_ERR_WATCHDOG (G : Nat) : Field := ⟨0x1041004 + (G / 4) * 0x100000 + (G % 4) * 0x100, 4, 1, .w1c, 0⟩
def SRT_ERR_COUNT (G : Nat) : Field := ⟨0x1041004 + (G / 4) * 0x100000 + (G % 4) * 0x100, 3, 1, .w1c, 0⟩
def SRT_ERR_DATA (G : Nat) : Field := ⟨0x1041004 + (G / 4) * 0x100000 + (G % 4) * 0x100, 2, 1, .w1c, 0⟩
def SRT_ERR_MAP (G : Nat) : Field := ⟨0x1041004 + (G / 4) * 0x100000 + (G % 4) * 0x100, 1, 1, .w1c, 0⟩
def SRT_ERR_NONFINITE (G : Nat) : Field := ⟨0x1041004 + (G / 4) * 0x100000 + (G % 4) * 0x100, 0, 1, .w1c, 0⟩
def SRT_ERR_MEMBER (G : Nat) : Field := ⟨0x1041008 + (G / 4) * 0x100000 + (G % 4) * 0x100, 24, 8, .ro, 0⟩
def SRT_ERR_INDEX (G : Nat) : Field := ⟨0x1041008 + (G / 4) * 0x100000 + (G % 4) * 0x100, 0, 24, .ro, 0⟩
def SRT_ROUTE_ROW_CNT (G : Nat) : Field := ⟨0x1041010 + (G / 4) * 0x100000 + (G % 4) * 0x100, 0, 64, .ro, 0⟩
def SRT_BIN_ENTRY_CNT (G : Nat) : Field := ⟨0x1041018 + (G / 4) * 0x100000 + (G % 4) * 0x100, 0, 64, .ro, 0⟩
def SRT_PAD_VEC_CNT (G : Nat) : Field := ⟨0x1041020 + (G / 4) * 0x100000 + (G % 4) * 0x100, 0, 64, .ro, 0⟩

/-! Table 10-10: TIER_MIG_CFG (offset 0x004). -/
def TIER_MIG_EN : Field := ⟨0x500004, 31, 1, .rw, 1⟩
def TIER_MAX_INFLIGHT : Field := ⟨0x500004, 16, 5, .rw, 8⟩
def TIER_RATE : Field := ⟨0x500004, 0, 9, .rw, 64⟩

/-! Table 10-11: TIER_POLICY (offset 0x008). -/
def TIER_AUTO : Field := ⟨0x500008, 31, 1, .rw, 0⟩
def TIER_POLICY_FRAMES : Field := ⟨0x500008, 16, 12, .rw, 4096⟩
def TIER_HOT : Field := ⟨0x500008, 8, 8, .rw, 64⟩
def TIER_COLD : Field := ⟨0x500008, 0, 8, .rw, 0⟩

/-! Table 10-12: Status, errors and pool registers. -/
def TIER_ID : Field := ⟨0x500000, 0, 32, .ro, 256⟩
def TIER_T2_FENCED : Field := ⟨0x50000C, 16, 1, .ro, 0⟩
def TIER_INFLIGHT : Field := ⟨0x50000C, 0, 5, .ro, 0⟩
def TIER_ERR_WATCHDOG : Field := ⟨0x500010, 5, 1, .w1c, 0⟩
def TIER_ERR_MAP_UE : Field := ⟨0x500010, 4, 1, .w1c, 0⟩
def TIER_ERR_WP_WRITE : Field := ⟨0x500010, 3, 1, .w1c, 0⟩
def TIER_ERR_MIG_ABORT : Field := ⟨0x500010, 2, 1, .w1c, 0⟩
def TIER_ERR_T2_UE : Field := ⟨0x500010, 1, 1, .w1c, 0⟩
def TIER_ERR_T2_CE : Field := ⟨0x500010, 0, 1, .w1c, 0⟩
def TIER_ERR_ADDR_LO : Field := ⟨0x500014, 0, 32, .ro, 0⟩
def TIER_ERR_CH : Field := ⟨0x500018, 16, 5, .ro, 0⟩
def TIER_ERR_ADDR_HI : Field := ⟨0x500018, 0, 16, .ro, 0⟩
def TIER_T2_FREE : Field := ⟨0x500020, 0, 18, .ro, 0⟩
def TIER_FALLOW_FRAMES : Field := ⟨0x500024, 0, 18, .rwh, 0⟩
def TIER_T2_SCRUB_HOURS : Field := ⟨0x500028, 0, 8, .rw, 24⟩
def TIER_MIG_DONE_CNT : Field := ⟨0x500040, 0, 64, .ro, 0⟩
def TIER_MIG_REJECT_CNT : Field := ⟨0x500048, 0, 64, .ro, 0⟩
def TIER_MIG_ABORT_CNT : Field := ⟨0x500050, 0, 64, .ro, 0⟩
def TIER_MIG_BYTE_CNT : Field := ⟨0x500058, 0, 64, .ro, 0⟩
def TIER_TLOAD_BYTE_CNT : Field := ⟨0x500060, 0, 64, .ro, 0⟩
def TIER_TSTORE_BYTE_CNT : Field := ⟨0x500068, 0, 64, .ro, 0⟩

/-! Table 10-13: Probe registers. -/
def TIER_PROBE_PART : Field := ⟨0x500200, 27, 5, .wo, 0⟩
def TIER_PROBE_PAGE_LO : Field := ⟨0x500200, 0, 27, .wo, 0⟩
def TIER_PROBE_PAGE_HI : Field := ⟨0x500204, 0, 4, .rw, 0⟩
def TIER_PROBE_CUR : Field := ⟨0x500208, 0, 64, .ro, 0⟩
def TIER_PROBE_NXT : Field := ⟨0x500210, 0, 64, .ro, 0⟩

/-! Table 10-14: Per-partition registers (0x1000 + 0x40 × p, p = 0–31). -/
def TIER_P_MAP_BASE (p : Nat) : Field := ⟨0x501000 + p * 0x40, 0, 20, .rwh, 0⟩
def TIER_P_RANGE_PAGES (p : Nat) : Field := ⟨0x501004 + p * 0x40, 0, 20, .rwh, 0⟩
def TIER_P_T2_QUOTA (p : Nat) : Field := ⟨0x501008 + p * 0x40, 0, 20, .rwh, 0⟩
def TIER_P_T2_USED (p : Nat) : Field := ⟨0x50100C + p * 0x40, 0, 20, .ro, 0⟩
def TIER_P_PINNED (p : Nat) : Field := ⟨0x501010 + p * 0x40, 0, 20, .ro, 0⟩
def TIER_P_T1_FREE (p : Nat) : Field := ⟨0x501014 + p * 0x40, 0, 20, .ro, 0⟩

/-! Table 11-11: RTR_CFG (offset 0x004). -/
def RTR_RETRAIN_MS : Field := ⟨0x400004, 16, 16, .rw, 1000⟩
def RTR_RETRAIN_MAX : Field := ⟨0x400004, 8, 8, .rw, 8⟩
def RTR_UE_LIMIT : Field := ⟨0x400004, 0, 8, .rw, 4⟩

/-! Table 11-12: RTR_ERR (offset 0x020). -/
def RTR_ERR_RETRY_FULL : Field := ⟨0x400020, 6, 1, .w1c, 0⟩
def RTR_ERR_SYM_CRC : Field := ⟨0x400020, 5, 1, .w1c, 0⟩
def RTR_ERR_CTL_DROP : Field := ⟨0x400020, 4, 1, .w1c, 0⟩
def RTR_ERR_ROUTE_ERR : Field := ⟨0x400020, 3, 1, .w1c, 0⟩
def RTR_ERR_MISMATCH : Field := ⟨0x400020, 2, 1, .w1c, 0⟩
def RTR_ERR_EXHAUSTED : Field := ⟨0x400020, 1, 1, .w1c, 0⟩
def RTR_ERR_LINK_DOWN : Field := ⟨0x400020, 0, 1, .w1c, 0⟩

/-! Table 11-13: Map, bundle and probe registers. -/
def RTR_ID : Field := ⟨0x400000, 0, 32, .ro, 256⟩
def RTR_VERIFIED : Field := ⟨0x400008, 2, 1, .ro, 0⟩
def RTR_MAP_KIND : Field := ⟨0x400008, 0, 2, .ro, 0⟩
def RTR_MAP_SEQ : Field := ⟨0x400010, 0, 64, .ro, 0⟩
def RTR_MAP_DIGEST : Field := ⟨0x400018, 0, 64, .ro, 0⟩
def RTR_SPARE_OK (b : Nat) : Field := ⟨0x400100 + b * 0x4, 8, 1, .ro, 0⟩
def RTR_VACANT (b : Nat) : Field := ⟨0x400100 + b * 0x4, 4, 4, .ro, 15⟩
def RTR_N_UP (b : Nat) : Field := ⟨0x400100 + b * 0x4, 0, 4, .ro, 0⟩
def RTR_PROBE_LINK : Field := ⟨0x400200, 24, 7, .wo, 0⟩
def RTR_PROBE_DIR : Field := ⟨0x400200, 23, 1, .wo, 0⟩
def RTR_PROBE_SLOT : Field := ⟨0x400200, 0, 12, .wo, 0⟩
def RTR_PROBE_VALID : Field := ⟨0x400204, 31, 1, .ro, 0⟩
def RTR_PROBE_SLICE : Field := ⟨0x400204, 8, 8, .ro, 0⟩
def RTR_PROBE_KIND : Field := ⟨0x400204, 0, 2, .ro, 0⟩

/-! Table 11-14: RTR counters. -/
def RTR_FWD_SCHED_CNT : Field := ⟨0x400300, 0, 64, .ro, 0⟩
def RTR_FWD_OPEN_CNT : Field := ⟨0x400308, 0, 64, .ro, 0⟩
def RTR_STOMP_CNT : Field := ⟨0x400310, 0, 64, .ro, 0⟩
def RTR_ROUTE_ERR_CNT : Field := ⟨0x400318, 0, 64, .ro, 0⟩
def RTR_CTL_DROP_CNT : Field := ⟨0x400320, 0, 64, .ro, 0⟩
def RTR_SYM_CRC_CNT : Field := ⟨0x400328, 0, 64, .ro, 0⟩
def RTR_ABORT_SENT_CNT : Field := ⟨0x400330, 0, 64, .ro, 0⟩
def RTR_DETOUR_CNT : Field := ⟨0x400338, 0, 64, .ro, 0⟩

/-! Table 11-15: Die registers. -/
def LD_ID (n : Nat) : Field := ⟨0x2000000 + n * 0x100000, 0, 32, .ro, 256⟩
def LD_POWERED (n : Nat) : Field := ⟨0x2000004 + n * 0x100000, 1, 1, .ro, 0⟩
def LD_REFCLK_LOCK (n : Nat) : Field := ⟨0x2000004 + n * 0x100000, 0, 1, .ro, 0⟩

/-! Table 11-16: LINK_STATUS (link base + 0x00). -/
def LINK_RETRAINS (l : Nat) : Field := ⟨0x2001000 + (l / 28) * 0x100000 + (l % 28) * 0x100, 20, 8, .ro, 0⟩
def LINK_BUNDLE (l : Nat) : Field := ⟨0x2001000 + (l / 28) * 0x100000 + (l % 28) * 0x100, 16, 4, .ro, 0⟩
def LINK_POS (l : Nat) : Field := ⟨0x2001000 + (l / 28) * 0x100000 + (l % 28) * 0x100, 12, 4, .ro, 15⟩
def LINK_FAULT_REASON (l : Nat) : Field := ⟨0x2001000 + (l / 28) * 0x100000 + (l % 28) * 0x100, 8, 4, .ro, 0⟩
def LINK_LANE1_LOCK (l : Nat) : Field := ⟨0x2001000 + (l / 28) * 0x100000 + (l % 28) * 0x100, 7, 1, .ro, 0⟩
def LINK_LANE0_LOCK (l : Nat) : Field := ⟨0x2001000 + (l / 28) * 0x100000 + (l % 28) * 0x100, 6, 1, .ro, 0⟩
def LINK_ROLE (l : Nat) : Field := ⟨0x2001000 + (l / 28) * 0x100000 + (l % 28) * 0x100, 4, 2, .ro, 0⟩
def LINK_STATE (l : Nat) : Field := ⟨0x2001000 + (l / 28) * 0x100000 + (l % 28) * 0x100, 0, 4, .ro, 0⟩

/-! Table 11-17: Control, delay and identity (link base). -/
def LINK_CTRL_DISABLE (l : Nat) : Field := ⟨0x2001004 + (l / 28) * 0x100000 + (l % 28) * 0x100, 2, 1, .rw, 0⟩
def LINK_CTRL_OUT (l : Nat) : Field := ⟨0x2001004 + (l / 28) * 0x100000 + (l % 28) * 0x100, 1, 1, .w1s, 0⟩
def LINK_CTRL_RETRAIN (l : Nat) : Field := ⟨0x2001004 + (l / 28) * 0x100000 + (l % 28) * 0x100, 0, 1, .w1s, 0⟩
def LINK_DELAY (l : Nat) : Field := ⟨0x2001008 + (l / 28) * 0x100000 + (l % 28) * 0x100, 0, 16, .ro, 0⟩
def LINK_IDENT_VALID (l : Nat) : Field := ⟨0x200100C + (l / 28) * 0x100000 + (l % 28) * 0x100, 17, 1, .ro, 0⟩
def LINK_MATCH (l : Nat) : Field := ⟨0x200100C + (l / 28) * 0x100000 + (l % 28) * 0x100, 16, 1, .ro, 0⟩
def LINK_FAR_LINK (l : Nat) : Field := ⟨0x200100C + (l / 28) * 0x100000 + (l % 28) * 0x100, 8, 7, .ro, 0⟩
def LINK_FAR_PKG (l : Nat) : Field := ⟨0x200100C + (l / 28) * 0x100000 + (l % 28) * 0x100, 0, 8, .ro, 255⟩
def LINK_ERR_MISMATCH (l : Nat) : Field := ⟨0x2001010 + (l / 28) * 0x100000 + (l % 28) * 0x100, 7, 1, .w1c, 0⟩
def LINK_ERR_STOMP_RX (l : Nat) : Field := ⟨0x2001010 + (l / 28) * 0x100000 + (l % 28) * 0x100, 6, 1, .w1c, 0⟩
def LINK_ERR_SLOT_CRC (l : Nat) : Field := ⟨0x2001010 + (l / 28) * 0x100000 + (l % 28) * 0x100, 5, 1, .w1c, 0⟩
def LINK_ERR_EDGE_REJECT (l : Nat) : Field := ⟨0x2001010 + (l / 28) * 0x100000 + (l % 28) * 0x100, 4, 1, .w1c, 0⟩
def LINK_ERR_RETX (l : Nat) : Field := ⟨0x2001010 + (l / 28) * 0x100000 + (l % 28) * 0x100, 3, 1, .w1c, 0⟩
def LINK_ERR_FEC_UE (l : Nat) : Field := ⟨0x2001010 + (l / 28) * 0x100000 + (l % 28) * 0x100, 2, 1, .w1c, 0⟩
def LINK_ERR_FEC_ALIGN (l : Nat) : Field := ⟨0x2001010 + (l / 28) * 0x100000 + (l % 28) * 0x100, 1, 1, .w1c, 0⟩
def LINK_ERR_LOCK_LOSS (l : Nat) : Field := ⟨0x2001010 + (l / 28) * 0x100000 + (l % 28) * 0x100, 0, 1, .w1c, 0⟩

/-! Table 11-18: Link counters (link base). -/
def LINK_FEC_CW_CNT (l : Nat) : Field := ⟨0x2001020 + (l / 28) * 0x100000 + (l % 28) * 0x100, 0, 64, .ro, 0⟩
def LINK_FEC_CORR_CNT (l : Nat) : Field := ⟨0x2001028 + (l / 28) * 0x100000 + (l % 28) * 0x100, 0, 64, .ro, 0⟩
def LINK_FEC_UE_CNT (l : Nat) : Field := ⟨0x2001030 + (l / 28) * 0x100000 + (l % 28) * 0x100, 0, 64, .ro, 0⟩
def LINK_SLOT_CRC_CNT (l : Nat) : Field := ⟨0x2001038 + (l / 28) * 0x100000 + (l % 28) * 0x100, 0, 64, .ro, 0⟩
def LINK_STOMP_RX_CNT (l : Nat) : Field := ⟨0x2001040 + (l / 28) * 0x100000 + (l % 28) * 0x100, 0, 64, .ro, 0⟩
def LINK_EDGE_REJECT_CNT (l : Nat) : Field := ⟨0x2001048 + (l / 28) * 0x100000 + (l % 28) * 0x100, 0, 64, .ro, 0⟩
def LINK_RETX_FLIT_CNT (l : Nat) : Field := ⟨0x2001050 + (l / 28) * 0x100000 + (l % 28) * 0x100, 0, 64, .ro, 0⟩
def LINK_TX_SCHED_CNT (l : Nat) : Field := ⟨0x2001058 + (l / 28) * 0x100000 + (l % 28) * 0x100, 0, 64, .ro, 0⟩
def LINK_TX_OPEN_CNT (l : Nat) : Field := ⟨0x2001060 + (l / 28) * 0x100000 + (l % 28) * 0x100, 0, 64, .ro, 0⟩

/-! Table 12-10: RMT_CFG (offset 0x800). -/
def RMT_COMB_EN : Field := ⟨0x400800, 31, 1, .rw, 1⟩
def RMT_COMB_MAX : Field := ⟨0x400800, 26, 5, .rw, 16⟩
def RMT_COMB_WINDOW : Field := ⟨0x400800, 16, 10, .rw, 0⟩
def RMT_TIMEOUT_US : Field := ⟨0x400800, 0, 16, .rw, 2000⟩

/-! Table 12-11: RMT_ERR (offset 0x804) and error information. -/
def RMT_ERR_DEFER_FAIL : Field := ⟨0x400804, 5, 1, .w1c, 0⟩
def RMT_ERR_TIMEOUT : Field := ⟨0x400804, 4, 1, .w1c, 0⟩
def RMT_ERR_NO_ROUTE : Field := ⟨0x400804, 3, 1, .w1c, 0⟩
def RMT_ERR_UE : Field := ⟨0x400804, 2, 1, .w1c, 0⟩
def RMT_ERR_REFUSED : Field := ⟨0x400804, 1, 1, .w1c, 0⟩
def RMT_ERR_RSP : Field := ⟨0x400804, 0, 1, .w1c, 0⟩
def RMT_CODE : Field := ⟨0x400808, 24, 4, .ro, 0⟩
def RMT_PEER : Field := ⟨0x400808, 16, 8, .ro, 0⟩
def RMT_REQID : Field := ⟨0x400808, 0, 16, .ro, 0⟩
def RMT_ERR_ADDR_LO : Field := ⟨0x40080C, 0, 32, .ro, 0⟩
def RMT_ERR_ADDR_HI : Field := ⟨0x400810, 0, 24, .ro, 0⟩
def RMT_DEFER_USED : Field := ⟨0x400814, 0, 15, .ro, 0⟩

/-! Table 12-12: Remote-access counters. -/
def RMT_REQ_SENT_CNT : Field := ⟨0x400840, 0, 64, .ro, 0⟩
def RMT_REQ_SERVED_CNT : Field := ⟨0x400848, 0, 64, .ro, 0⟩
def RMT_COMBINED_CNT : Field := ⟨0x400850, 0, 64, .ro, 0⟩
def RMT_TIMEOUT_CNT : Field := ⟨0x400858, 0, 64, .ro, 0⟩
def RMT_DEFER_SENT_CNT : Field := ⟨0x400860, 0, 64, .ro, 0⟩
def RMT_DEFER_FAIL_CNT : Field := ⟨0x400868, 0, 64, .ro, 0⟩
def RMT_ERR_RSP_CNT : Field := ⟨0x400870, 0, 64, .ro, 0⟩

/-! Table 13-8: COLL_STATUS (offset 0x004) and COLL_ERR (offset 0x008). -/
def COLL_TABLE_PENDING : Field := ⟨0x300004, 16, 1, .ro, 0⟩
def COLL_INFLIGHT : Field := ⟨0x300004, 0, 9, .ro, 0⟩
def COLL_ERR_SEND_CLIP : Field := ⟨0x300008, 5, 1, .w1c, 0⟩
def COLL_ERR_WATCHDOG : Field := ⟨0x300008, 4, 1, .w1c, 0⟩
def COLL_ERR_OVERFLOW : Field := ⟨0x300008, 3, 1, .w1c, 0⟩
def COLL_ERR_DATA_INVALID : Field := ⟨0x300008, 2, 1, .w1c, 0⟩
def COLL_ERR_PIECE_LOST : Field := ⟨0x300008, 1, 1, .w1c, 0⟩
def COLL_ERR_LATE : Field := ⟨0x300008, 0, 1, .w1c, 0⟩

/-! Table 13-9: Identity, error information and counters. -/
def COLL_ID : Field := ⟨0x300000, 0, 32, .ro, 256⟩
def COLL_ERR_GID : Field := ⟨0x30000C, 24, 8, .ro, 0⟩
def COLL_ERR_RANK : Field := ⟨0x30000C, 16, 8, .ro, 0⟩
def COLL_ERR_PC : Field := ⟨0x30000C, 0, 14, .ro, 0⟩
def COLL_PIECE_TX_CNT : Field := ⟨0x300010, 0, 64, .ro, 0⟩
def COLL_PIECE_RX_CNT : Field := ⟨0x300018, 0, 64, .ro, 0⟩
def COLL_LOCAL_BYTE_CNT : Field := ⟨0x300020, 0, 64, .ro, 0⟩
def COLL_RED_BYTE_CNT : Field := ⟨0x300028, 0, 64, .ro, 0⟩
def COLL_LATE_CNT : Field := ⟨0x300030, 0, 64, .ro, 0⟩

/-! Table 14-11: Block registers. -/
def SRV_ID : Field := ⟨0x200000, 0, 32, .ro, 256⟩
def SRV_RETRY_FRAMES : Field := ⟨0x200004, 0, 16, .rw, 64⟩
def SRV_FREE_SLOTS : Field := ⟨0x200008, 0, 17, .ro, 65536⟩
def SRV_STALE_MSG_CNT : Field := ⟨0x200010, 0, 64, .ro, 0⟩
def SRV_TABLE_CE_CNT : Field := ⟨0x200018, 0, 64, .ro, 0⟩
def SRV_SHIP_PIECE_CNT : Field := ⟨0x200020, 0, 64, .ro, 0⟩

/-! Table 14-12: SRV_ERR (offset 0x00C). -/
def SRV_ERR_PLAN_FULL : Field := ⟨0x20000C, 5, 1, .w1c, 0⟩
def SRV_ERR_MSG_RETRY : Field := ⟨0x20000C, 4, 1, .w1c, 0⟩
def SRV_ERR_STALE_MSG : Field := ⟨0x20000C, 3, 1, .w1c, 0⟩
def SRV_ERR_PROMPT_READ : Field := ⟨0x20000C, 2, 1, .w1c, 0⟩
def SRV_ERR_TABLE_UE : Field := ⟨0x20000C, 1, 1, .w1c, 0⟩
def SRV_ERR_TABLE_CE : Field := ⟨0x20000C, 0, 1, .w1c, 0⟩

/-! Table 14-13: Per-partition registers (0x1000 + 0x80 × p, p = 0–31). -/
def SRV_P_SLOT_BASE (p : Nat) : Field := ⟨0x201000 + p * 0x80, 0, 16, .rwh, 0⟩
def SRV_P_SLOT_COUNT (p : Nat) : Field := ⟨0x201004 + p * 0x80, 0, 17, .rwh, 0⟩
def SRV_P_URGENT_SLACK (p : Nat) : Field := ⟨0x201008 + p * 0x80, 16, 16, .ro, 64⟩
def SRV_P_RESV64 (p : Nat) : Field := ⟨0x201008 + p * 0x80, 0, 16, .ro, 64⟩
def SRV_P_ADMIT_EN (p : Nat) : Field := ⟨0x20100C + p * 0x80, 17, 1, .ro, 1⟩
def SRV_P_DROP_LATE (p : Nat) : Field := ⟨0x20100C + p * 0x80, 16, 1, .ro, 0⟩
def SRV_P_LINGER64 (p : Nat) : Field := ⟨0x20100C + p * 0x80, 0, 16, .ro, 1024⟩
def SRV_P_STATE_CNT (p : Nat) (s : Nat) : Field := ⟨0x201010 + p * 0x80 + s * 0x4, 0, 17, .ro, 0⟩
def SRV_P_ADMIT_CNT (p : Nat) : Field := ⟨0x201040 + p * 0x80, 0, 64, .ro, 0⟩
def SRV_P_REJECT_CNT (p : Nat) : Field := ⟨0x201048 + p * 0x80, 0, 64, .ro, 0⟩
def SRV_P_RECORD_CNT (p : Nat) : Field := ⟨0x201050 + p * 0x80, 0, 64, .ro, 0⟩
def SRV_P_MSIX_CNT (p : Nat) : Field := ⟨0x201058 + p * 0x80, 0, 64, .ro, 0⟩
def SRV_P_HOLD_CNT (p : Nat) : Field := ⟨0x201060 + p * 0x80, 0, 64, .ro, 0⟩

/-! Table 14-14: Per-queue registers (0x4000 + 0x20 × q, q = 0–63). -/
def SRV_Q_V (q : Nat) : Field := ⟨0x204000 + q * 0x20, 31, 1, .ro, 0⟩
def SRV_Q_OWNER (q : Nat) : Field := ⟨0x204000 + q * 0x20, 24, 5, .ro, 0⟩
def SRV_Q_DEPTH_MAX (q : Nat) : Field := ⟨0x204000 + q * 0x20, 8, 16, .ro, 0⟩
def SRV_Q_WEIGHT (q : Nat) : Field := ⟨0x204000 + q * 0x20, 0, 8, .ro, 1⟩
def SRV_Q_DEPTH (q : Nat) : Field := ⟨0x204004 + q * 0x20, 0, 17, .ro, 0⟩
def SRV_Q_DEFICIT (q : Nat) : Field := ⟨0x204008 + q * 0x20, 0, 32, .ro, 0⟩
def SRV_Q_Q_ADMIT_CNT (q : Nat) : Field := ⟨0x204010 + q * 0x20, 0, 64, .ro, 0⟩
def SRV_Q_Q_URGENT_CNT (q : Nat) : Field := ⟨0x204018 + q * 0x20, 0, 64, .ro, 0⟩

/-! Table 15-9: SESS_CFG (offset 0x800). -/
def SESS_MAX_OPS : Field := ⟨0x200800, 24, 5, .rw, 4⟩
def SESS_RATE : Field := ⟨0x200800, 0, 9, .rw, 24⟩

/-! Table 15-10: Namespaces, status and errors. -/
def SESS_S0_NSID : Field := ⟨0x200804, 0, 32, .rw, 0⟩
def SESS_S1_NSID : Field := ⟨0x200808, 0, 32, .rw, 0⟩
def SESS_RUNNING : Field := ⟨0x20080C, 16, 5, .ro, 0⟩
def SESS_QUEUED : Field := ⟨0x20080C, 0, 13, .ro, 0⟩
def SESS_ERR_QUEUE_FULL : Field := ⟨0x200810, 5, 1, .w1c, 0⟩
def SESS_ERR_MSG_RETRY : Field := ⟨0x200810, 4, 1, .w1c, 0⟩
def SESS_ERR_IO : Field := ⟨0x200810, 3, 1, .w1c, 0⟩
def SESS_ERR_DIGEST : Field := ⟨0x200810, 2, 1, .w1c, 0⟩
def SESS_ERR_AUTH : Field := ⟨0x200810, 1, 1, .w1c, 0⟩
def SESS_ERR_UE : Field := ⟨0x200810, 0, 1, .w1c, 0⟩

/-! Table 15-11: Session counters. -/
def SESS_FALLOW_CNT : Field := ⟨0x200840, 0, 64, .ro, 0⟩
def SESS_THAW_CNT : Field := ⟨0x200848, 0, 64, .ro, 0⟩
def SESS_BYTES_OUT_CNT : Field := ⟨0x200850, 0, 64, .ro, 0⟩
def SESS_BYTES_IN_CNT : Field := ⟨0x200858, 0, 64, .ro, 0⟩
def SESS_FAIL_CNT : Field := ⟨0x200860, 0, 64, .ro, 0⟩

/-! Table 16-10: CRYPTO registers. -/
def CRY_CRYPTO_ID : Field := ⟨0x700000, 0, 32, .ro, 256⟩
def CRY_WEIGHT_RATE : Field := ⟨0x700004, 16, 9, .rw, 256⟩
def CRY_V6_RECHECK_S : Field := ⟨0x700004, 0, 16, .rw, 3600⟩
def CRY_KEYS : Field := ⟨0x700008, 5, 9, .ro, 0⟩
def CRY_SESSIONS : Field := ⟨0x700008, 1, 4, .ro, 0⟩
def CRY_KAT_PASS : Field := ⟨0x700008, 0, 1, .ro, 0⟩
def CRY_ERR_KAT_FAIL : Field := ⟨0x70000C, 5, 1, .w1c, 0⟩
def CRY_ERR_RECHECK : Field := ⟨0x70000C, 4, 1, .w1c, 0⟩
def CRY_ERR_IO : Field := ⟨0x70000C, 3, 1, .w1c, 0⟩
def CRY_ERR_DIGEST : Field := ⟨0x70000C, 2, 1, .w1c, 0⟩
def CRY_ERR_AUTH : Field := ⟨0x70000C, 1, 1, .w1c, 0⟩
def CRY_ERR_SPDM : Field := ⟨0x70000C, 0, 1, .w1c, 0⟩
def CRY_DEC_BYTE_CNT : Field := ⟨0x700010, 0, 64, .ro, 0⟩
def CRY_HASH_BYTE_CNT : Field := ⟨0x700018, 0, 64, .ro, 0⟩
def CRY_SHARD_OK_CNT : Field := ⟨0x700020, 0, 64, .ro, 0⟩
def CRY_SHARD_FAIL_CNT : Field := ⟨0x700028, 0, 64, .ro, 0⟩
def CRY_RECHECK_CNT : Field := ⟨0x700030, 0, 64, .ro, 0⟩

/-! Table 16-11: Per-partition LOESS registers. -/
def LOESS_VXS_EN (p : Nat) : Field := ⟨0x601000 + p * 0x100, 31, 1, .ro, 1⟩
def LOESS_ACTION (p : Nat) : Field := ⟨0x601000 + p * 0x100, 30, 1, .ro, 0⟩
def LOESS_WINDOW_LOG2 (p : Nat) : Field := ⟨0x601000 + p * 0x100, 24, 5, .ro, 12⟩
def LOESS_FILL_FRAMES (p : Nat) : Field := ⟨0x601000 + p * 0x100, 0, 12, .ro, 1024⟩
def LOESS_PEER_V (p : Nat) (i : Nat) : Field := ⟨0x601004 + p * 0x100 + i * 0x4, 31, 1, .ro, 0⟩
def LOESS_PEER_PART (p : Nat) (i : Nat) : Field := ⟨0x601004 + p * 0x100 + i * 0x4, 8, 5, .ro, 0⟩
def LOESS_PEER_PKG (p : Nat) (i : Nat) : Field := ⟨0x601004 + p * 0x100 + i * 0x4, 0, 8, .ro, 0⟩
def LOESS_LAST_UNIT (p : Nat) : Field := ⟨0x601020 + p * 0x100, 0, 12, .ro, 0⟩
def LOESS_LAST_WINDOW (p : Nat) : Field := ⟨0x601024 + p * 0x100, 0, 32, .ro, 0⟩
def LOESS_LAST_DIGEST (p : Nat) (w : Nat) : Field := ⟨0x601028 + p * 0x100 + w * 0x4, 0, 32, .ro, 0⟩
def LOESS_EV_REPL_ABORT (p : Nat) : Field := ⟨0x601038 + p * 0x100, 4, 1, .w1c, 0⟩
def LOESS_EV_PEER_LATE (p : Nat) : Field := ⟨0x601038 + p * 0x100, 3, 1, .w1c, 0⟩
def LOESS_EV_FILL_LATE (p : Nat) : Field := ⟨0x601038 + p * 0x100, 2, 1, .w1c, 0⟩
def LOESS_EV_REF_MISMATCH (p : Nat) : Field := ⟨0x601038 + p * 0x100, 1, 1, .w1c, 0⟩
def LOESS_EV_MISMATCH (p : Nat) : Field := ⟨0x601038 + p * 0x100, 0, 1, .w1c, 0⟩
def LOESS_REPL_STATE (p : Nat) : Field := ⟨0x60103C + p * 0x100, 30, 2, .ro, 0⟩
def LOESS_UNITS_DONE (p : Nat) : Field := ⟨0x60103C + p * 0x100, 0, 13, .ro, 0⟩
def LOESS_REPL_EPOCH (p : Nat) : Field := ⟨0x601040 + p * 0x100, 0, 64, .ro, 0⟩
def LOESS_WIN_CMP_CNT (p : Nat) : Field := ⟨0x601048 + p * 0x100, 0, 64, .ro, 0⟩
def LOESS_WIN_VOID_CNT (p : Nat) : Field := ⟨0x601050 + p * 0x100, 0, 64, .ro, 0⟩
def LOESS_MISMATCH_CNT (p : Nat) : Field := ⟨0x601058 + p * 0x100, 0, 64, .ro, 0⟩
def LOESS_FILL_GROUP_CNT (p : Nat) : Field := ⟨0x601060 + p * 0x100, 0, 64, .ro, 0⟩

/-! Table 18-21: KAOLIN block registers. -/
def KAO_KAOLIN_ID : Field := ⟨0x0, 0, 32, .ro, 256⟩
def KAO_PKG_ID : Field := ⟨0x4, 16, 8, .ro, 255⟩
def KAO_FROZEN : Field := ⟨0x4, 9, 1, .ro, 0⟩
def KAO_FW_READY : Field := ⟨0x4, 8, 1, .ro, 0⟩
def KAO_POWER_STATE : Field := ⟨0x4, 0, 3, .ro, 0⟩
def KAO_FW_VERSION : Field := ⟨0x8, 0, 32, .ro, 0⟩
def KAO_CMD_CNT : Field := ⟨0x10, 0, 64, .ro, 0⟩
def KAO_EVENT_CNT : Field := ⟨0x18, 0, 64, .ro, 0⟩

/-! Table 19-8: CAL_STATUS (offset 0x004). -/
def CAL_RESTARTS : Field := ⟨0x900004, 16, 8, .ro, 0⟩
def CAL_FENCE_USED : Field := ⟨0x900004, 8, 8, .ro, 0⟩
def CAL_HUB_FAILED : Field := ⟨0x900004, 5, 1, .ro, 0⟩
def CAL_COLLECTOR_SET : Field := ⟨0x900004, 4, 1, .ro, 0⟩
def CAL_XTAL_OK : Field := ⟨0x900004, 3, 1, .ro, 0⟩
def CAL_KAOLIN_ALIVE : Field := ⟨0x900004, 2, 1, .ro, 0⟩
def CAL_LOCKSTEP_OK : Field := ⟨0x900004, 1, 1, .ro, 0⟩
def CAL_RUNNING : Field := ⟨0x900004, 0, 1, .ro, 0⟩

/-! Table 19-9: CAL_EVENT (offset 0x008). -/
def CAL_EV_STAEM_LOST : Field := ⟨0x900008, 6, 1, .ro, 0⟩
def CAL_EV_FENCE : Field := ⟨0x900008, 5, 1, .ro, 0⟩
def CAL_EV_LASTING : Field := ⟨0x900008, 4, 1, .ro, 0⟩
def CAL_EV_HARD_LOST : Field := ⟨0x900008, 3, 1, .ro, 0⟩
def CAL_EV_HARD_REPAIR : Field := ⟨0x900008, 2, 1, .ro, 0⟩
def CAL_EV_KAOLIN_RESET : Field := ⟨0x900008, 1, 1, .ro, 0⟩
def CAL_EV_LOCKSTEP : Field := ⟨0x900008, 0, 1, .ro, 0⟩

/-! Table 19-10: Identity, log and counters. -/
def CAL_ID : Field := ⟨0x900000, 0, 32, .ro, 256⟩
def CAL_FW_VERSION : Field := ⟨0x90000C, 0, 32, .ro, 0⟩
def CAL_LOG_NEXT : Field := ⟨0x900010, 0, 32, .ro, 0⟩
def CAL_LOG_OLDEST : Field := ⟨0x900014, 0, 32, .ro, 0⟩
def CAL_DELIVERED : Field := ⟨0x900018, 0, 32, .ro, 0⟩
def CAL_HARD_PASS_CNT : Field := ⟨0x900020, 0, 64, .ro, 0⟩
def CAL_HARD_REPAIR_CNT : Field := ⟨0x900028, 0, 64, .ro, 0⟩
def CAL_HARD_LOST_CNT : Field := ⟨0x900030, 0, 64, .ro, 0⟩
def CAL_STAEM_SENT_CNT : Field := ⟨0x900038, 0, 64, .ro, 0⟩
def CAL_STAEM_LOST_CNT : Field := ⟨0x900040, 0, 64, .ro, 0⟩
def CAL_KAOLIN_RESET_CNT : Field := ⟨0x900048, 0, 64, .ro, 0⟩
def CAL_LASTING_CNT : Field := ⟨0x900050, 0, 64, .ro, 0⟩

/-! Table 19-11: Policy and fence tables. -/
def CAL_THRESHOLD (t : Nat) : Field := ⟨0x900100 + t * 0x4, 8, 4, .ro, 4⟩
def CAL_ACTION (t : Nat) : Field := ⟨0x900100 + t * 0x4, 0, 2, .ro, if t = 0 ∨ t = 10 ∨ t = 11 ∨ t = 15 then 0 else if t = 13 ∨ t = 14 then 1 else 2⟩
def CAL_FENCE_V (i : Nat) : Field := ⟨0x900800 + i * 0x4, 31, 1, .ro, 0⟩
def CAL_FENCE_TYPE (i : Nat) : Field := ⟨0x900800 + i * 0x4, 24, 4, .ro, 0⟩
def CAL_FENCE_UNIT (i : Nat) : Field := ⟨0x900800 + i * 0x4, 0, 16, .ro, 0⟩

/-! Table 20-9: PWR_CFG (offset 0x004). -/
def PWR_ALERT_POLICY : Field := ⟨0x800004, 3, 1, .rw, 0⟩
def PWR_AUTO_GATE : Field := ⟨0x800004, 2, 1, .rw, 1⟩
def PWR_MODE : Field := ⟨0x800004, 0, 1, .ro, 0⟩

/-! Table 20-10: PWR_LOOP (offset 0x00C) and PWR_FLOOR (offset 0x040). -/
def PWR_CTRL_US : Field := ⟨0x80000C, 20, 12, .rw, 1000⟩
def PWR_FILL_MIN : Field := ⟨0x80000C, 15, 5, .rw, 8⟩
def PWR_STRETCH_STEP : Field := ⟨0x80000C, 9, 6, .rw, 16⟩
def PWR_ESC_PERIODS : Field := ⟨0x80000C, 6, 3, .rw, 4⟩
def PWR_RELEASE_PERIODS : Field := ⟨0x80000C, 3, 3, .rw, 4⟩
def PWR_HYST_STEP : Field := ⟨0x80000C, 0, 3, .rw, 5⟩
def PWR_ALERT_MAX_FRAMES : Field := ⟨0x800040, 16, 16, .rw, 64⟩
def PWR_FLOOR_HOLD_US : Field := ⟨0x800040, 0, 16, .rw, 100⟩

/-! Table 20-11: Cap, status and alert registers. -/
def PWR_ID : Field := ⟨0x800000, 0, 32, .ro, 256⟩
def PWR_MIN_CAP_W : Field := ⟨0x800008, 16, 11, .ro, 450⟩
def PWR_CAP_W : Field := ⟨0x800008, 0, 11, .ro, 1200⟩
def PWR_STRETCH_REQ : Field := ⟨0x800010, 20, 12, .ro, 0⟩
def PWR_FILL : Field := ⟨0x800010, 15, 5, .ro, 16⟩
def PWR_LEVEL : Field := ⟨0x800010, 13, 2, .ro, 0⟩
def PWR_FLOOR_CAUSE : Field := ⟨0x800010, 8, 2, .ro, 0⟩
def PWR_PERF : Field := ⟨0x800010, 0, 2, .ro, 0⟩
def PWR_EV_FLOOR_STOP : Field := ⟨0x800014, 6, 1, .w1c, 0⟩
def PWR_EV_CAP_UNMET : Field := ⟨0x800014, 5, 1, .w1c, 0⟩
def PWR_EV_THERMTRIP : Field := ⟨0x800014, 4, 1, .w1c, 0⟩
def PWR_EV_THERM_FLOOR : Field := ⟨0x800014, 3, 1, .w1c, 0⟩
def PWR_EV_THERM_THROTTLE : Field := ⟨0x800014, 2, 1, .w1c, 0⟩
def PWR_EV_FLOOR_END : Field := ⟨0x800014, 1, 1, .w1c, 0⟩
def PWR_EV_VR_ALERT : Field := ⟨0x800014, 0, 1, .w1c, 0⟩
def PWR_VR_MASK : Field := ⟨0x800018, 16, 8, .rw, 255⟩
def PWR_VR_PIN : Field := ⟨0x800018, 8, 8, .ro, 255⟩
def PWR_VR_LATCH : Field := ⟨0x800018, 0, 8, .w1c, 0⟩
def PWR_P_MW : Field := ⟨0x800020, 0, 32, .ro, 0⟩
def PWR_PEAK_MW : Field := ⟨0x800024, 0, 32, .rc, 0⟩

/-! Table 20-12: Domains, rails and sensors. -/
/-- The two state bits of power domain `j`. -/
def PWR_DOMAIN (j : Nat) : Field := ⟨0x800100 + (j / 16) * 4, 2 * (j % 16), 2, .ro, 0⟩
def PWR_IOUT_HI (r : Nat) : Field := ⟨0x800200 + r * 0x10, 16, 16, .ro, 0⟩
def PWR_VOUT_MV (r : Nat) : Field := ⟨0x800200 + r * 0x10, 0, 16, .ro, 0⟩
def PWR_STATUS_WORD (r : Nat) : Field := ⟨0x800204 + r * 0x10, 16, 16, .ro, 0⟩
def PWR_IOUT_LO (r : Nat) : Field := ⟨0x800204 + r * 0x10, 0, 16, .ro, 0⟩
def PWR_POUT_MW (r : Nat) : Field := ⟨0x800208 + r * 0x10, 0, 32, .ro, 0⟩
def PWR_TEMP (i : Nat) : Field := ⟨0x800400 + i * 0x4, 0, 16, .ro, 0⟩

/-! Table 20-13: Counters. -/
def PWR_PKG_ENERGY : Field := ⟨0x800080, 0, 64, .ro, 0⟩
def PWR_FLOOR_CNT : Field := ⟨0x800088, 0, 64, .ro, 0⟩
def PWR_FLOOR_NS : Field := ⟨0x800090, 0, 64, .ro, 0⟩
def PWR_FLOOR_ABORT_CNT : Field := ⟨0x800098, 0, 64, .ro, 0⟩
def PWR_OVER_PERIOD_CNT : Field := ⟨0x8000A0, 0, 64, .ro, 0⟩
def PWR_THROTTLE_NS : Field := ⟨0x8000A8, 0, 64, .ro, 0⟩

/-! Table 21-6: SEQ_CFG (offset 0x600) and SEQ_ELECT (offset 0x604). -/
def SEQ_AUTO_TARGET : Field := ⟨0x800600, 28, 3, .rw, 6⟩
def SEQ_TRAIN_WAIT_S : Field := ⟨0x800600, 20, 8, .rw, 30⟩
def SEQ_ELECT_MIN_MS : Field := ⟨0x800604, 20, 12, .rw, 2000⟩
def SEQ_ELECT_QUIET_MS : Field := ⟨0x800604, 10, 10, .rw, 500⟩
def SEQ_ELECT_LISTEN_MS : Field := ⟨0x800604, 0, 10, .rw, 200⟩

/-! Table 21-7: SEQ_STATUS (offset 0x608) and SEQ_EVENT (offset 0x60C). -/
def SEQ_STATE : Field := ⟨0x800608, 29, 3, .ro, 2⟩
def SEQ_TARGET : Field := ⟨0x800608, 26, 3, .ro, 6⟩
def SEQ_DOWN : Field := ⟨0x800608, 25, 1, .ro, 0⟩
def SEQ_FORCED : Field := ⟨0x800608, 24, 1, .ro, 0⟩
def SEQ_STEP : Field := ⟨0x800608, 16, 8, .ro, 0⟩
def SEQ_LAST_FAIL : Field := ⟨0x800608, 0, 16, .ro, 0⟩
def SEQ_EV_NO_ELIGIBLE : Field := ⟨0x80060C, 5, 1, .w1c, 0⟩
def SEQ_EV_BOOT_FALLBACK : Field := ⟨0x80060C, 4, 1, .w1c, 0⟩
def SEQ_EV_FOREIGN_TICK : Field := ⟨0x80060C, 3, 1, .w1c, 0⟩
def SEQ_EV_REVERSAL : Field := ⟨0x80060C, 2, 1, .w1c, 0⟩
def SEQ_EV_FORCED_DOWN : Field := ⟨0x80060C, 1, 1, .w1c, 0⟩
def SEQ_EV_STAGE_FAIL : Field := ⟨0x80060C, 0, 1, .w1c, 0⟩

/-! Table 21-8: Firmware and counters. -/
def SEQ_ACTIVE_SLOT : Field := ⟨0x800610, 31, 1, .ro, 0⟩
def SEQ_RUNNING_SLOT : Field := ⟨0x800610, 30, 1, .ro, 0⟩
def SEQ_ROLLBACK : Field := ⟨0x800610, 0, 16, .ro, 0⟩
def SEQ_FOREIGN_TICK_CNT : Field := ⟨0x800620, 0, 64, .ro, 0⟩
def SEQ_STAGE_FAIL_CNT : Field := ⟨0x800628, 0, 64, .ro, 0⟩
def SEQ_HUB_UP_CNT : Field := ⟨0x800630, 0, 64, .ro, 0⟩

/-! Table 22-10: Port status (0x010 + 4n; n = 0 H0, 1 H1, 2 S0, 3 S1). -/
def HIF_DEV_PRESENT (n : Nat) : Field := ⟨0xA00010 + n * 0x4, 13, 1, .ro, 0⟩
def HIF_IDE_SECURE (n : Nat) : Field := ⟨0xA00010 + n * 0x4, 12, 1, .ro, 0⟩
def HIF_BME (n : Nat) : Field := ⟨0xA00010 + n * 0x4, 11, 1, .ro, 0⟩
def HIF_FLIT (n : Nat) : Field := ⟨0xA00010 + n * 0x4, 10, 1, .ro, 0⟩
def HIF_WIDTH (n : Nat) : Field := ⟨0xA00010 + n * 0x4, 6, 4, .ro, 0⟩
def HIF_RATE (n : Nat) : Field := ⟨0xA00010 + n * 0x4, 3, 3, .ro, 0⟩
def HIF_LTSSM (n : Nat) : Field := ⟨0xA00010 + n * 0x4, 0, 3, .ro, 0⟩

/-! Table 22-11: Event, urgent, pin and management registers. -/
def HIF_HOSTIF_ID : Field := ⟨0xA00000, 0, 32, .ro, 256⟩
def HIF_EV_STRAP_CHANGE : Field := ⟨0xA00020, 9, 1, .w1c, 0⟩
def HIF_EV_MGMT_LINK : Field := ⟨0xA00020, 8, 1, .w1c, 0⟩
def HIF_EV_CPL_TIMEOUT : Field := ⟨0xA00020, 7, 1, .w1c, 0⟩
def HIF_EV_IDE_FAIL : Field := ⟨0xA00020, 6, 1, .w1c, 0⟩
def HIF_EV_AER_UNCORR : Field := ⟨0xA00020, 5, 1, .w1c, 0⟩
def HIF_EV_AER_CORR : Field := ⟨0xA00020, 4, 1, .w1c, 0⟩
def HIF_EV_PORT_CHANGE : Field := ⟨0xA00020, 0, 4, .w1c, 0⟩
def HIF_HOSTIF_URGENT (x : Nat) : Field := ⟨0xA00024 + x * 0x4, 0, 6, .w1c, 0⟩
def HIF_PIN_VR_ALERT : Field := ⟨0xA00030, 12, 8, .ro, 255⟩
def HIF_PIN_TICK_SYNC_IN : Field := ⟨0xA00030, 11, 1, .ro, 0⟩
def HIF_PIN_FREEZE_N : Field := ⟨0xA00030, 10, 1, .ro, 1⟩
def HIF_PIN_THERMTRIP_N : Field := ⟨0xA00030, 9, 1, .ro, 1⟩
def HIF_PIN_PWR_EN : Field := ⟨0xA00030, 8, 1, .ro, 0⟩
def HIF_PIN_STRAP_ID : Field := ⟨0xA00030, 0, 8, .ro, 255⟩
def HIF_MGMT_ADDR : Field := ⟨0xA00034, 1, 1, .ro, 0⟩
def HIF_MGMT_UP : Field := ⟨0xA00034, 0, 1, .ro, 0⟩
def HIF_MAC_LO : Field := ⟨0xA00038, 0, 32, .ro, 0⟩
def HIF_MAC_HI : Field := ⟨0xA0003C, 0, 16, .ro, 0⟩

/-! Table 22-12: Counters (port n at 0x100 + 0x40 × n). -/
def HIF_N_RD_BYTE_CNT (n : Nat) : Field := ⟨0xA00100 + n * 0x40, 0, 64, .ro, 0⟩
def HIF_N_WR_BYTE_CNT (n : Nat) : Field := ⟨0xA00108 + n * 0x40, 0, 64, .ro, 0⟩
def HIF_N_CPL_TIMEOUT_CNT (n : Nat) : Field := ⟨0xA00110 + n * 0x40, 0, 64, .ro, 0⟩
def HIF_N_ERR_CPL_CNT (n : Nat) : Field := ⟨0xA00118 + n * 0x40, 0, 64, .ro, 0⟩
def HIF_N_CORR_CNT (n : Nat) : Field := ⟨0xA00120 + n * 0x40, 0, 64, .ro, 0⟩
def HIF_N_LINK_DOWN_CNT (n : Nat) : Field := ⟨0xA00128 + n * 0x40, 0, 64, .ro, 0⟩
def HIF_N_IDE_FAIL_CNT (n : Nat) : Field := ⟨0xA00130 + n * 0x40, 0, 64, .ro, 0⟩

/-! R256: per-channel registers of tier 2. -/
def TIER_CH_TRAINED (n : Nat) : Field := ⟨0x502000 + n * 0x20, 0, 1, .ro, 0⟩
def TIER_CH_FENCED (n : Nat) : Field := ⟨0x502000 + n * 0x20, 1, 1, .ro, 0⟩
def TIER_CH_CE_CNT (n : Nat) : Field := ⟨0x502008 + n * 0x20, 0, 64, .ro, 0⟩
def TIER_CH_UE_CNT (n : Nat) : Field := ⟨0x502010 + n * 0x20, 0, 64, .ro, 0⟩

/-! Chapter 16: LOESS_ID. -/
def LOESS_ID : Field := ⟨0x600000, 0, 32, .ro, 256⟩

/-- Fields that a host write can change (access RW, WO, W1C, W1S; R18), part 0. -/
def writablePart0 : List Family :=
  [ ⟨⟨0x100028, 7, 1, .w1c, 0⟩, []⟩
  , ⟨⟨0x100028, 6, 1, .w1c, 0⟩, []⟩
  , ⟨⟨0x100028, 5, 1, .w1c, 0⟩, []⟩
  , ⟨⟨0x100028, 4, 1, .w1c, 0⟩, []⟩
  , ⟨⟨0x100028, 3, 1, .w1c, 0⟩, []⟩
  , ⟨⟨0x100028, 2, 1, .w1c, 0⟩, []⟩
  , ⟨⟨0x100028, 1, 1, .w1c, 0⟩, []⟩
  , ⟨⟨0x100028, 0, 1, .w1c, 0⟩, []⟩
  , ⟨⟨0x100060, 0, 32, .rw, 0⟩, [(3, 0x4)]⟩
  , ⟨⟨0x10006C, 8, 7, .rw, 127⟩, []⟩
  , ⟨⟨0x10006C, 0, 7, .rw, 127⟩, []⟩
  , ⟨⟨0x10E0008, 2, 1, .w1c, 0⟩, [(12, 0x100000), (4, 0x1000)]⟩
  , ⟨⟨0x10E0008, 1, 1, .w1c, 0⟩, [(12, 0x100000), (4, 0x1000)]⟩
  , ⟨⟨0x10E0008, 0, 1, .w1c, 0⟩, [(12, 0x100000), (4, 0x1000)]⟩
  , ⟨⟨0x10C0004, 8, 8, .rw, 16⟩, [(12, 0x100000)]⟩
  , ⟨⟨0x10C0004, 0, 1, .rw, 1⟩, [(12, 0x100000)]⟩
  , ⟨⟨0x10C1004, 5, 1, .w1c, 0⟩, [(12, 0x100000), (12, 0x100)]⟩
  , ⟨⟨0x10C1004, 4, 1, .w1c, 0⟩, [(12, 0x100000), (12, 0x100)]⟩
  , ⟨⟨0x10C1004, 3, 1, .w1c, 0⟩, [(12, 0x100000), (12, 0x100)]⟩
  , ⟨⟨0x10C1004, 2, 1, .w1c, 0⟩, [(12, 0x100000), (12, 0x100)]⟩ ]
/-- Fields that a host write can change (access RW, WO, W1C, W1S; R18), part 1. -/
def writablePart1 : List Family :=
  [ ⟨⟨0x10C1004, 1, 1, .w1c, 0⟩, [(12, 0x100000), (12, 0x100)]⟩
  , ⟨⟨0x10C1004, 0, 1, .w1c, 0⟩, [(12, 0x100000), (12, 0x100)]⟩
  , ⟨⟨0x1020010, 31, 1, .w1c, 0⟩, [(12, 0x100000), (4, 0x100)]⟩
  , ⟨⟨0x1080004, 7, 1, .w1c, 0⟩, [(12, 0x100000), (4, 0x1000)]⟩
  , ⟨⟨0x1080004, 6, 1, .w1c, 0⟩, [(12, 0x100000), (4, 0x1000)]⟩
  , ⟨⟨0x1080004, 5, 1, .w1c, 0⟩, [(12, 0x100000), (4, 0x1000)]⟩
  , ⟨⟨0x1080004, 4, 1, .w1c, 0⟩, [(12, 0x100000), (4, 0x1000)]⟩
  , ⟨⟨0x1080004, 3, 1, .w1c, 0⟩, [(12, 0x100000), (4, 0x1000)]⟩
  , ⟨⟨0x1080004, 2, 1, .w1c, 0⟩, [(12, 0x100000), (4, 0x1000)]⟩
  , ⟨⟨0x1080004, 1, 1, .w1c, 0⟩, [(12, 0x100000), (4, 0x1000)]⟩
  , ⟨⟨0x1080004, 0, 1, .w1c, 0⟩, [(12, 0x100000), (4, 0x1000)]⟩
  , ⟨⟨0x10A0004, 31, 1, .rw, 1⟩, [(12, 0x100000)]⟩
  , ⟨⟨0x10A0004, 0, 16, .rw, 4096⟩, [(12, 0x100000)]⟩
  , ⟨⟨0x10A0008, 8, 8, .rw, 16⟩, [(12, 0x100000)]⟩
  , ⟨⟨0x10A0008, 0, 1, .rw, 1⟩, [(12, 0x100000)]⟩
  , ⟨⟨0x10A1010, 5, 1, .w1c, 0⟩, [(12, 0x100000), (4, 0x100)]⟩
  , ⟨⟨0x10A1010, 4, 1, .w1c, 0⟩, [(12, 0x100000), (4, 0x100)]⟩
  , ⟨⟨0x10A1010, 3, 1, .w1c, 0⟩, [(12, 0x100000), (4, 0x100)]⟩
  , ⟨⟨0x10A1010, 2, 1, .w1c, 0⟩, [(12, 0x100000), (4, 0x100)]⟩
  , ⟨⟨0x10A1010, 1, 1, .w1c, 0⟩, [(12, 0x100000), (4, 0x100)]⟩ ]
/-- Fields that a host write can change (access RW, WO, W1C, W1S; R18), part 2. -/
def writablePart2 : List Family :=
  [ ⟨⟨0x10A1010, 0, 1, .w1c, 0⟩, [(12, 0x100000), (4, 0x100)]⟩
  , ⟨⟨0x5F00C0, 0, 32, .w1c, 0⟩, []⟩
  , ⟨⟨0x1061004, 6, 1, .w1c, 0⟩, [(12, 0x100000), (4, 0x100)]⟩
  , ⟨⟨0x1061004, 5, 1, .w1c, 0⟩, [(12, 0x100000), (4, 0x100)]⟩
  , ⟨⟨0x1061004, 4, 1, .w1c, 0⟩, [(12, 0x100000), (4, 0x100)]⟩
  , ⟨⟨0x1061004, 3, 1, .w1c, 0⟩, [(12, 0x100000), (4, 0x100)]⟩
  , ⟨⟨0x1061004, 2, 1, .w1c, 0⟩, [(12, 0x100000), (4, 0x100)]⟩
  , ⟨⟨0x1061004, 1, 1, .w1c, 0⟩, [(12, 0x100000), (4, 0x100)]⟩
  , ⟨⟨0x1061004, 0, 1, .w1c, 0⟩, [(12, 0x100000), (4, 0x100)]⟩
  , ⟨⟨0x1041004, 4, 1, .w1c, 0⟩, [(12, 0x100000), (4, 0x100)]⟩
  , ⟨⟨0x1041004, 3, 1, .w1c, 0⟩, [(12, 0x100000), (4, 0x100)]⟩
  , ⟨⟨0x1041004, 2, 1, .w1c, 0⟩, [(12, 0x100000), (4, 0x100)]⟩
  , ⟨⟨0x1041004, 1, 1, .w1c, 0⟩, [(12, 0x100000), (4, 0x100)]⟩
  , ⟨⟨0x1041004, 0, 1, .w1c, 0⟩, [(12, 0x100000), (4, 0x100)]⟩
  , ⟨⟨0x500004, 31, 1, .rw, 1⟩, []⟩
  , ⟨⟨0x500004, 16, 5, .rw, 8⟩, []⟩
  , ⟨⟨0x500004, 0, 9, .rw, 64⟩, []⟩
  , ⟨⟨0x500008, 31, 1, .rw, 0⟩, []⟩
  , ⟨⟨0x500008, 16, 12, .rw, 4096⟩, []⟩
  , ⟨⟨0x500008, 8, 8, .rw, 64⟩, []⟩ ]
/-- Fields that a host write can change (access RW, WO, W1C, W1S; R18), part 3. -/
def writablePart3 : List Family :=
  [ ⟨⟨0x500008, 0, 8, .rw, 0⟩, []⟩
  , ⟨⟨0x500010, 5, 1, .w1c, 0⟩, []⟩
  , ⟨⟨0x500010, 4, 1, .w1c, 0⟩, []⟩
  , ⟨⟨0x500010, 3, 1, .w1c, 0⟩, []⟩
  , ⟨⟨0x500010, 2, 1, .w1c, 0⟩, []⟩
  , ⟨⟨0x500010, 1, 1, .w1c, 0⟩, []⟩
  , ⟨⟨0x500010, 0, 1, .w1c, 0⟩, []⟩
  , ⟨⟨0x500028, 0, 8, .rw, 24⟩, []⟩
  , ⟨⟨0x500200, 27, 5, .wo, 0⟩, []⟩
  , ⟨⟨0x500200, 0, 27, .wo, 0⟩, []⟩
  , ⟨⟨0x500204, 0, 4, .rw, 0⟩, []⟩
  , ⟨⟨0x400004, 16, 16, .rw, 1000⟩, []⟩
  , ⟨⟨0x400004, 8, 8, .rw, 8⟩, []⟩
  , ⟨⟨0x400004, 0, 8, .rw, 4⟩, []⟩
  , ⟨⟨0x400020, 6, 1, .w1c, 0⟩, []⟩
  , ⟨⟨0x400020, 5, 1, .w1c, 0⟩, []⟩
  , ⟨⟨0x400020, 4, 1, .w1c, 0⟩, []⟩
  , ⟨⟨0x400020, 3, 1, .w1c, 0⟩, []⟩
  , ⟨⟨0x400020, 2, 1, .w1c, 0⟩, []⟩
  , ⟨⟨0x400020, 1, 1, .w1c, 0⟩, []⟩ ]
/-- Fields that a host write can change (access RW, WO, W1C, W1S; R18), part 4. -/
def writablePart4 : List Family :=
  [ ⟨⟨0x400020, 0, 1, .w1c, 0⟩, []⟩
  , ⟨⟨0x400200, 24, 7, .wo, 0⟩, []⟩
  , ⟨⟨0x400200, 23, 1, .wo, 0⟩, []⟩
  , ⟨⟨0x400200, 0, 12, .wo, 0⟩, []⟩
  , ⟨⟨0x2001004, 2, 1, .rw, 0⟩, [(4, 0x100000), (28, 0x100)]⟩
  , ⟨⟨0x2001004, 1, 1, .w1s, 0⟩, [(4, 0x100000), (28, 0x100)]⟩
  , ⟨⟨0x2001004, 0, 1, .w1s, 0⟩, [(4, 0x100000), (28, 0x100)]⟩
  , ⟨⟨0x2001010, 7, 1, .w1c, 0⟩, [(4, 0x100000), (28, 0x100)]⟩
  , ⟨⟨0x2001010, 6, 1, .w1c, 0⟩, [(4, 0x100000), (28, 0x100)]⟩
  , ⟨⟨0x2001010, 5, 1, .w1c, 0⟩, [(4, 0x100000), (28, 0x100)]⟩
  , ⟨⟨0x2001010, 4, 1, .w1c, 0⟩, [(4, 0x100000), (28, 0x100)]⟩
  , ⟨⟨0x2001010, 3, 1, .w1c, 0⟩, [(4, 0x100000), (28, 0x100)]⟩
  , ⟨⟨0x2001010, 2, 1, .w1c, 0⟩, [(4, 0x100000), (28, 0x100)]⟩
  , ⟨⟨0x2001010, 1, 1, .w1c, 0⟩, [(4, 0x100000), (28, 0x100)]⟩
  , ⟨⟨0x2001010, 0, 1, .w1c, 0⟩, [(4, 0x100000), (28, 0x100)]⟩
  , ⟨⟨0x400800, 31, 1, .rw, 1⟩, []⟩
  , ⟨⟨0x400800, 26, 5, .rw, 16⟩, []⟩
  , ⟨⟨0x400800, 16, 10, .rw, 0⟩, []⟩
  , ⟨⟨0x400800, 0, 16, .rw, 2000⟩, []⟩
  , ⟨⟨0x400804, 5, 1, .w1c, 0⟩, []⟩ ]
/-- Fields that a host write can change (access RW, WO, W1C, W1S; R18), part 5. -/
def writablePart5 : List Family :=
  [ ⟨⟨0x400804, 4, 1, .w1c, 0⟩, []⟩
  , ⟨⟨0x400804, 3, 1, .w1c, 0⟩, []⟩
  , ⟨⟨0x400804, 2, 1, .w1c, 0⟩, []⟩
  , ⟨⟨0x400804, 1, 1, .w1c, 0⟩, []⟩
  , ⟨⟨0x400804, 0, 1, .w1c, 0⟩, []⟩
  , ⟨⟨0x300008, 5, 1, .w1c, 0⟩, []⟩
  , ⟨⟨0x300008, 4, 1, .w1c, 0⟩, []⟩
  , ⟨⟨0x300008, 3, 1, .w1c, 0⟩, []⟩
  , ⟨⟨0x300008, 2, 1, .w1c, 0⟩, []⟩
  , ⟨⟨0x300008, 1, 1, .w1c, 0⟩, []⟩
  , ⟨⟨0x300008, 0, 1, .w1c, 0⟩, []⟩
  , ⟨⟨0x200004, 0, 16, .rw, 64⟩, []⟩
  , ⟨⟨0x20000C, 5, 1, .w1c, 0⟩, []⟩
  , ⟨⟨0x20000C, 4, 1, .w1c, 0⟩, []⟩
  , ⟨⟨0x20000C, 3, 1, .w1c, 0⟩, []⟩
  , ⟨⟨0x20000C, 2, 1, .w1c, 0⟩, []⟩
  , ⟨⟨0x20000C, 1, 1, .w1c, 0⟩, []⟩
  , ⟨⟨0x20000C, 0, 1, .w1c, 0⟩, []⟩
  , ⟨⟨0x200800, 24, 5, .rw, 4⟩, []⟩
  , ⟨⟨0x200800, 0, 9, .rw, 24⟩, []⟩ ]
/-- Fields that a host write can change (access RW, WO, W1C, W1S; R18), part 6. -/
def writablePart6 : List Family :=
  [ ⟨⟨0x200804, 0, 32, .rw, 0⟩, []⟩
  , ⟨⟨0x200808, 0, 32, .rw, 0⟩, []⟩
  , ⟨⟨0x200810, 5, 1, .w1c, 0⟩, []⟩
  , ⟨⟨0x200810, 4, 1, .w1c, 0⟩, []⟩
  , ⟨⟨0x200810, 3, 1, .w1c, 0⟩, []⟩
  , ⟨⟨0x200810, 2, 1, .w1c, 0⟩, []⟩
  , ⟨⟨0x200810, 1, 1, .w1c, 0⟩, []⟩
  , ⟨⟨0x200810, 0, 1, .w1c, 0⟩, []⟩
  , ⟨⟨0x700004, 16, 9, .rw, 256⟩, []⟩
  , ⟨⟨0x700004, 0, 16, .rw, 3600⟩, []⟩
  , ⟨⟨0x70000C, 5, 1, .w1c, 0⟩, []⟩
  , ⟨⟨0x70000C, 4, 1, .w1c, 0⟩, []⟩
  , ⟨⟨0x70000C, 3, 1, .w1c, 0⟩, []⟩
  , ⟨⟨0x70000C, 2, 1, .w1c, 0⟩, []⟩
  , ⟨⟨0x70000C, 1, 1, .w1c, 0⟩, []⟩
  , ⟨⟨0x70000C, 0, 1, .w1c, 0⟩, []⟩
  , ⟨⟨0x601038, 4, 1, .w1c, 0⟩, [(32, 0x100)]⟩
  , ⟨⟨0x601038, 3, 1, .w1c, 0⟩, [(32, 0x100)]⟩
  , ⟨⟨0x601038, 2, 1, .w1c, 0⟩, [(32, 0x100)]⟩
  , ⟨⟨0x601038, 1, 1, .w1c, 0⟩, [(32, 0x100)]⟩ ]
/-- Fields that a host write can change (access RW, WO, W1C, W1S; R18), part 7. -/
def writablePart7 : List Family :=
  [ ⟨⟨0x601038, 0, 1, .w1c, 0⟩, [(32, 0x100)]⟩
  , ⟨⟨0x800004, 3, 1, .rw, 0⟩, []⟩
  , ⟨⟨0x800004, 2, 1, .rw, 1⟩, []⟩
  , ⟨⟨0x80000C, 20, 12, .rw, 1000⟩, []⟩
  , ⟨⟨0x80000C, 15, 5, .rw, 8⟩, []⟩
  , ⟨⟨0x80000C, 9, 6, .rw, 16⟩, []⟩
  , ⟨⟨0x80000C, 6, 3, .rw, 4⟩, []⟩
  , ⟨⟨0x80000C, 3, 3, .rw, 4⟩, []⟩
  , ⟨⟨0x80000C, 0, 3, .rw, 5⟩, []⟩
  , ⟨⟨0x800040, 16, 16, .rw, 64⟩, []⟩
  , ⟨⟨0x800040, 0, 16, .rw, 100⟩, []⟩
  , ⟨⟨0x800014, 6, 1, .w1c, 0⟩, []⟩
  , ⟨⟨0x800014, 5, 1, .w1c, 0⟩, []⟩
  , ⟨⟨0x800014, 4, 1, .w1c, 0⟩, []⟩
  , ⟨⟨0x800014, 3, 1, .w1c, 0⟩, []⟩
  , ⟨⟨0x800014, 2, 1, .w1c, 0⟩, []⟩
  , ⟨⟨0x800014, 1, 1, .w1c, 0⟩, []⟩
  , ⟨⟨0x800014, 0, 1, .w1c, 0⟩, []⟩
  , ⟨⟨0x800018, 16, 8, .rw, 255⟩, []⟩
  , ⟨⟨0x800018, 0, 8, .w1c, 0⟩, []⟩ ]
/-- Fields that a host write can change (access RW, WO, W1C, W1S; R18), part 8. -/
def writablePart8 : List Family :=
  [ ⟨⟨0x800600, 28, 3, .rw, 6⟩, []⟩
  , ⟨⟨0x800600, 20, 8, .rw, 30⟩, []⟩
  , ⟨⟨0x800604, 20, 12, .rw, 2000⟩, []⟩
  , ⟨⟨0x800604, 10, 10, .rw, 500⟩, []⟩
  , ⟨⟨0x800604, 0, 10, .rw, 200⟩, []⟩
  , ⟨⟨0x80060C, 5, 1, .w1c, 0⟩, []⟩
  , ⟨⟨0x80060C, 4, 1, .w1c, 0⟩, []⟩
  , ⟨⟨0x80060C, 3, 1, .w1c, 0⟩, []⟩
  , ⟨⟨0x80060C, 2, 1, .w1c, 0⟩, []⟩
  , ⟨⟨0x80060C, 1, 1, .w1c, 0⟩, []⟩
  , ⟨⟨0x80060C, 0, 1, .w1c, 0⟩, []⟩
  , ⟨⟨0xA00020, 9, 1, .w1c, 0⟩, []⟩
  , ⟨⟨0xA00020, 8, 1, .w1c, 0⟩, []⟩
  , ⟨⟨0xA00020, 7, 1, .w1c, 0⟩, []⟩
  , ⟨⟨0xA00020, 6, 1, .w1c, 0⟩, []⟩
  , ⟨⟨0xA00020, 5, 1, .w1c, 0⟩, []⟩
  , ⟨⟨0xA00020, 4, 1, .w1c, 0⟩, []⟩
  , ⟨⟨0xA00020, 0, 4, .w1c, 0⟩, []⟩
  , ⟨⟨0xA00024, 0, 6, .w1c, 0⟩, [(2, 0x4)]⟩ ]
/-- Fields that a host write can change (access RW, WO, W1C, W1S; R18). -/
def writable : List Family :=
  writablePart0 ++ writablePart1 ++ writablePart2 ++ writablePart3 ++ writablePart4 ++ writablePart5 ++ writablePart6 ++ writablePart7 ++ writablePart8

/-- Fields of access RC (R18), part 0. -/
def readClearPart0 : List Family :=
  [ ⟨⟨0x100020, 0, 16, .rc, 0⟩, []⟩
  , ⟨⟨0x800024, 0, 32, .rc, 0⟩, []⟩ ]
/-- Fields of access RC (R18). -/
def readClear : List Family :=
  readClearPart0

/-- 64-bit counters and the frame counter (R21), part 0. -/
def countersPart0 : List Family :=
  [ ⟨⟨0x100010, 0, 48, .ro, 0⟩, []⟩
  , ⟨⟨0x100030, 0, 64, .ro, 0⟩, []⟩
  , ⟨⟨0x100038, 0, 64, .ro, 0⟩, []⟩
  , ⟨⟨0x100040, 0, 64, .ro, 0⟩, []⟩
  , ⟨⟨0x100048, 0, 64, .ro, 0⟩, []⟩
  , ⟨⟨0x10E0010, 0, 64, .ro, 0⟩, [(12, 0x100000), (4, 0x1000)]⟩
  , ⟨⟨0x10E0018, 0, 64, .ro, 0⟩, [(12, 0x100000), (4, 0x1000)]⟩
  , ⟨⟨0x10E0020, 0, 64, .rwh, 0⟩, [(12, 0x100000), (4, 0x1000)]⟩
  , ⟨⟨0x10C1010, 0, 64, .ro, 0⟩, [(12, 0x100000), (12, 0x100)]⟩
  , ⟨⟨0x10C1018, 0, 64, .ro, 0⟩, [(12, 0x100000), (12, 0x100)]⟩
  , ⟨⟨0x10C1020, 0, 64, .ro, 0⟩, [(12, 0x100000), (12, 0x100)]⟩
  , ⟨⟨0x10C1028, 0, 64, .ro, 0⟩, [(12, 0x100000), (12, 0x100)]⟩
  , ⟨⟨0x10C1030, 0, 64, .ro, 0⟩, [(12, 0x100000), (12, 0x100)]⟩
  , ⟨⟨0x10C1038, 0, 64, .ro, 0⟩, [(12, 0x100000), (12, 0x100)]⟩
  , ⟨⟨0x10C1040, 0, 64, .ro, 0⟩, [(12, 0x100000), (12, 0x100)]⟩
  , ⟨⟨0x1020008, 0, 64, .ro, 0⟩, [(12, 0x100000), (4, 0x100)]⟩
  , ⟨⟨0x1080010, 0, 64, .ro, 0⟩, [(12, 0x100000), (4, 0x1000)]⟩
  , ⟨⟨0x1080018, 0, 64, .ro, 0⟩, [(12, 0x100000), (4, 0x1000)]⟩
  , ⟨⟨0x1080020, 0, 64, .ro, 0⟩, [(12, 0x100000), (4, 0x1000)]⟩
  , ⟨⟨0x1080028, 0, 64, .ro, 0⟩, [(12, 0x100000), (4, 0x1000)]⟩ ]
/-- 64-bit counters and the frame counter (R21), part 1. -/
def countersPart1 : List Family :=
  [ ⟨⟨0x1080030, 0, 64, .ro, 0⟩, [(12, 0x100000), (4, 0x1000)]⟩
  , ⟨⟨0x1080038, 0, 64, .ro, 0⟩, [(12, 0x100000), (4, 0x1000)]⟩
  , ⟨⟨0x10A0010, 0, 64, .ro, 0⟩, [(12, 0x100000)]⟩
  , ⟨⟨0x10A1020, 0, 64, .ro, 0⟩, [(12, 0x100000), (4, 0x100)]⟩
  , ⟨⟨0x10A1028, 0, 64, .ro, 0⟩, [(12, 0x100000), (4, 0x100)]⟩
  , ⟨⟨0x10A1030, 0, 64, .ro, 0⟩, [(12, 0x100000), (4, 0x100)]⟩
  , ⟨⟨0x10A1038, 0, 64, .ro, 0⟩, [(12, 0x100000), (4, 0x100)]⟩
  , ⟨⟨0x10A1040, 0, 64, .ro, 0⟩, [(12, 0x100000), (4, 0x100)]⟩
  , ⟨⟨0x5F00D0, 0, 64, .ro, 0⟩, []⟩
  , ⟨⟨0x5F00D8, 0, 64, .ro, 0⟩, []⟩
  , ⟨⟨0x1061010, 0, 64, .ro, 0⟩, [(12, 0x100000), (4, 0x100)]⟩
  , ⟨⟨0x1061018, 0, 64, .ro, 0⟩, [(12, 0x100000), (4, 0x100)]⟩
  , ⟨⟨0x1061020, 0, 64, .ro, 0⟩, [(12, 0x100000), (4, 0x100)]⟩
  , ⟨⟨0x1061028, 0, 64, .ro, 0⟩, [(12, 0x100000), (4, 0x100)]⟩
  , ⟨⟨0x1061030, 0, 64, .ro, 0⟩, [(12, 0x100000), (4, 0x100)]⟩
  , ⟨⟨0x1061038, 0, 64, .ro, 0⟩, [(12, 0x100000), (4, 0x100)]⟩
  , ⟨⟨0x1041010, 0, 64, .ro, 0⟩, [(12, 0x100000), (4, 0x100)]⟩
  , ⟨⟨0x1041018, 0, 64, .ro, 0⟩, [(12, 0x100000), (4, 0x100)]⟩
  , ⟨⟨0x1041020, 0, 64, .ro, 0⟩, [(12, 0x100000), (4, 0x100)]⟩
  , ⟨⟨0x500040, 0, 64, .ro, 0⟩, []⟩ ]
/-- 64-bit counters and the frame counter (R21), part 2. -/
def countersPart2 : List Family :=
  [ ⟨⟨0x500048, 0, 64, .ro, 0⟩, []⟩
  , ⟨⟨0x500050, 0, 64, .ro, 0⟩, []⟩
  , ⟨⟨0x500058, 0, 64, .ro, 0⟩, []⟩
  , ⟨⟨0x500060, 0, 64, .ro, 0⟩, []⟩
  , ⟨⟨0x500068, 0, 64, .ro, 0⟩, []⟩
  , ⟨⟨0x500208, 0, 64, .ro, 0⟩, []⟩
  , ⟨⟨0x500210, 0, 64, .ro, 0⟩, []⟩
  , ⟨⟨0x400010, 0, 64, .ro, 0⟩, []⟩
  , ⟨⟨0x400018, 0, 64, .ro, 0⟩, []⟩
  , ⟨⟨0x400300, 0, 64, .ro, 0⟩, []⟩
  , ⟨⟨0x400308, 0, 64, .ro, 0⟩, []⟩
  , ⟨⟨0x400310, 0, 64, .ro, 0⟩, []⟩
  , ⟨⟨0x400318, 0, 64, .ro, 0⟩, []⟩
  , ⟨⟨0x400320, 0, 64, .ro, 0⟩, []⟩
  , ⟨⟨0x400328, 0, 64, .ro, 0⟩, []⟩
  , ⟨⟨0x400330, 0, 64, .ro, 0⟩, []⟩
  , ⟨⟨0x400338, 0, 64, .ro, 0⟩, []⟩
  , ⟨⟨0x2001020, 0, 64, .ro, 0⟩, [(4, 0x100000), (28, 0x100)]⟩
  , ⟨⟨0x2001028, 0, 64, .ro, 0⟩, [(4, 0x100000), (28, 0x100)]⟩
  , ⟨⟨0x2001030, 0, 64, .ro, 0⟩, [(4, 0x100000), (28, 0x100)]⟩ ]
/-- 64-bit counters and the frame counter (R21), part 3. -/
def countersPart3 : List Family :=
  [ ⟨⟨0x2001038, 0, 64, .ro, 0⟩, [(4, 0x100000), (28, 0x100)]⟩
  , ⟨⟨0x2001040, 0, 64, .ro, 0⟩, [(4, 0x100000), (28, 0x100)]⟩
  , ⟨⟨0x2001048, 0, 64, .ro, 0⟩, [(4, 0x100000), (28, 0x100)]⟩
  , ⟨⟨0x2001050, 0, 64, .ro, 0⟩, [(4, 0x100000), (28, 0x100)]⟩
  , ⟨⟨0x2001058, 0, 64, .ro, 0⟩, [(4, 0x100000), (28, 0x100)]⟩
  , ⟨⟨0x2001060, 0, 64, .ro, 0⟩, [(4, 0x100000), (28, 0x100)]⟩
  , ⟨⟨0x400840, 0, 64, .ro, 0⟩, []⟩
  , ⟨⟨0x400848, 0, 64, .ro, 0⟩, []⟩
  , ⟨⟨0x400850, 0, 64, .ro, 0⟩, []⟩
  , ⟨⟨0x400858, 0, 64, .ro, 0⟩, []⟩
  , ⟨⟨0x400860, 0, 64, .ro, 0⟩, []⟩
  , ⟨⟨0x400868, 0, 64, .ro, 0⟩, []⟩
  , ⟨⟨0x400870, 0, 64, .ro, 0⟩, []⟩
  , ⟨⟨0x300010, 0, 64, .ro, 0⟩, []⟩
  , ⟨⟨0x300018, 0, 64, .ro, 0⟩, []⟩
  , ⟨⟨0x300020, 0, 64, .ro, 0⟩, []⟩
  , ⟨⟨0x300028, 0, 64, .ro, 0⟩, []⟩
  , ⟨⟨0x300030, 0, 64, .ro, 0⟩, []⟩
  , ⟨⟨0x200010, 0, 64, .ro, 0⟩, []⟩
  , ⟨⟨0x200018, 0, 64, .ro, 0⟩, []⟩ ]
/-- 64-bit counters and the frame counter (R21), part 4. -/
def countersPart4 : List Family :=
  [ ⟨⟨0x200020, 0, 64, .ro, 0⟩, []⟩
  , ⟨⟨0x201040, 0, 64, .ro, 0⟩, [(32, 0x80)]⟩
  , ⟨⟨0x201048, 0, 64, .ro, 0⟩, [(32, 0x80)]⟩
  , ⟨⟨0x201050, 0, 64, .ro, 0⟩, [(32, 0x80)]⟩
  , ⟨⟨0x201058, 0, 64, .ro, 0⟩, [(32, 0x80)]⟩
  , ⟨⟨0x201060, 0, 64, .ro, 0⟩, [(32, 0x80)]⟩
  , ⟨⟨0x204010, 0, 64, .ro, 0⟩, [(64, 0x20)]⟩
  , ⟨⟨0x204018, 0, 64, .ro, 0⟩, [(64, 0x20)]⟩
  , ⟨⟨0x200840, 0, 64, .ro, 0⟩, []⟩
  , ⟨⟨0x200848, 0, 64, .ro, 0⟩, []⟩
  , ⟨⟨0x200850, 0, 64, .ro, 0⟩, []⟩
  , ⟨⟨0x200858, 0, 64, .ro, 0⟩, []⟩
  , ⟨⟨0x200860, 0, 64, .ro, 0⟩, []⟩
  , ⟨⟨0x700010, 0, 64, .ro, 0⟩, []⟩
  , ⟨⟨0x700018, 0, 64, .ro, 0⟩, []⟩
  , ⟨⟨0x700020, 0, 64, .ro, 0⟩, []⟩
  , ⟨⟨0x700028, 0, 64, .ro, 0⟩, []⟩
  , ⟨⟨0x700030, 0, 64, .ro, 0⟩, []⟩
  , ⟨⟨0x601040, 0, 64, .ro, 0⟩, [(32, 0x100)]⟩
  , ⟨⟨0x601048, 0, 64, .ro, 0⟩, [(32, 0x100)]⟩ ]
/-- 64-bit counters and the frame counter (R21), part 5. -/
def countersPart5 : List Family :=
  [ ⟨⟨0x601050, 0, 64, .ro, 0⟩, [(32, 0x100)]⟩
  , ⟨⟨0x601058, 0, 64, .ro, 0⟩, [(32, 0x100)]⟩
  , ⟨⟨0x601060, 0, 64, .ro, 0⟩, [(32, 0x100)]⟩
  , ⟨⟨0x10, 0, 64, .ro, 0⟩, []⟩
  , ⟨⟨0x18, 0, 64, .ro, 0⟩, []⟩
  , ⟨⟨0x900020, 0, 64, .ro, 0⟩, []⟩
  , ⟨⟨0x900028, 0, 64, .ro, 0⟩, []⟩
  , ⟨⟨0x900030, 0, 64, .ro, 0⟩, []⟩
  , ⟨⟨0x900038, 0, 64, .ro, 0⟩, []⟩
  , ⟨⟨0x900040, 0, 64, .ro, 0⟩, []⟩
  , ⟨⟨0x900048, 0, 64, .ro, 0⟩, []⟩
  , ⟨⟨0x900050, 0, 64, .ro, 0⟩, []⟩
  , ⟨⟨0x800080, 0, 64, .ro, 0⟩, []⟩
  , ⟨⟨0x800088, 0, 64, .ro, 0⟩, []⟩
  , ⟨⟨0x800090, 0, 64, .ro, 0⟩, []⟩
  , ⟨⟨0x800098, 0, 64, .ro, 0⟩, []⟩
  , ⟨⟨0x8000A0, 0, 64, .ro, 0⟩, []⟩
  , ⟨⟨0x8000A8, 0, 64, .ro, 0⟩, []⟩
  , ⟨⟨0x800620, 0, 64, .ro, 0⟩, []⟩
  , ⟨⟨0x800628, 0, 64, .ro, 0⟩, []⟩ ]
/-- 64-bit counters and the frame counter (R21), part 6. -/
def countersPart6 : List Family :=
  [ ⟨⟨0x800630, 0, 64, .ro, 0⟩, []⟩
  , ⟨⟨0xA00100, 0, 64, .ro, 0⟩, [(4, 0x40)]⟩
  , ⟨⟨0xA00108, 0, 64, .ro, 0⟩, [(4, 0x40)]⟩
  , ⟨⟨0xA00110, 0, 64, .ro, 0⟩, [(4, 0x40)]⟩
  , ⟨⟨0xA00118, 0, 64, .ro, 0⟩, [(4, 0x40)]⟩
  , ⟨⟨0xA00120, 0, 64, .ro, 0⟩, [(4, 0x40)]⟩
  , ⟨⟨0xA00128, 0, 64, .ro, 0⟩, [(4, 0x40)]⟩
  , ⟨⟨0xA00130, 0, 64, .ro, 0⟩, [(4, 0x40)]⟩
  , ⟨⟨0x502008, 0, 64, .ro, 0⟩, [(32, 0x20)]⟩
  , ⟨⟨0x502010, 0, 64, .ro, 0⟩, [(32, 0x20)]⟩ ]
/-- 64-bit counters and the frame counter (R21). -/
def counters : List Family :=
  countersPart0 ++ countersPart1 ++ countersPart2 ++ countersPart3 ++ countersPart4 ++ countersPart5 ++ countersPart6

end Reg

end Sys2Proof.Machine
end

