-- ==== Sys2Proof/Machine/State.lean ====
section
/-!
DEFINITION. The state of one Colmunas V8 package as plain data: everything the spec gives the block, the queue of
commands that wait, and the state after reset. Numbered tables are `Tab`s (Machine/Tab.lean): a missing key reads as
the default named beside the field. The register fields of PF BAR0 are one such table (Machine/Registers.lean).
-/

namespace Sys2Proof.Machine

/-- Why a command stops the machine with a fault. -/
inductive Fault where
  /-- Never raised by a meaning of this model: every command of the table has an effect in every state. Safe. -/
  | none
  deriving DecidableEq, Repr

/-- Why a command has no meaning. -/
inductive Refusal where
  /-- The command of the table with this mnemonic has no meaning yet. Raised by arms of Machine/Dispatch.lean only. Safe. -/
  | notModelled (mnemonic : String)
  deriving DecidableEq, Repr

/-! ### Outputs -/

/-- What the block gives to the outside world. -/
inductive Output where
  /-- MSI-X: function 0–1 = PF of H0, H1; 2 + p = VF p; and the vector (R542). -/
  | msix (fn : Nat) (vector : Nat)
  /-- A management datagram (R453) to a source address. -/
  | datagram (dst : Nat) (bytes : Bytes)
  /-- A Staem datagram (R495) to the collector: address, UDP port, index of the first record, the CBOR records. -/
  | staem (addr : Nat) (port : Nat) (first : Nat) (recs : List Bytes)
  /-- An MCTP response (R496, R551): completion code and payload. -/
  | mctp (cc : Nat) (bytes : Bytes)
  /-- A posted write to host memory on port `x` on behalf of function `fn` (R543). -/
  | hostWrite (x : Nat) (fn : Nat) (iova : Nat) (bytes : Bytes)
  /-- A control symbol sent on fabric link `l` (R266): its 44 bytes before the CRC. -/
  | symbol (l : Nat) (bytes : Bytes)
  /-- A scheduled or open slot sent on fabric link `l` in slot `i`: kind (Table 11-5) and payload. -/
  | slot (l : Nat) (i : Nat) (kind : Nat) (payload : Bytes)
  /-- A CTL message to package `dst` (R290, R291): MTYPE, MSEQ and body. -/
  | ctl (dst : Nat) (mtype : Nat) (mseq : Nat) (body : Bytes)
  /-- A remote-access packet to package `dst` (R295): request or response bytes. -/
  | packet (dst : Nat) (bytes : Bytes)
  /-- What a control-core thread gets back (value, or an access-fault trap with its code). -/
  | thread (t : Nat) (trap : Bool) (value : Nat)
  /-- What a 32-bit register read returned on an access path. -/
  | readData (path : Nat) (value : Nat)
  /-- A PCIe completion with Unsupported Request on port `x` (R545). -/
  | unsupported (x : Nat)
  /-- TDO bits of the JTAG port, first bit first (R559). -/
  | tdo (bits : List Bool)
  /-- A change of an output pin: PGOOD, THERMTRIP_N, TICK_SYNC_OUT (R554). -/
  | pin (name : Nat) (level : Bool)
  /-- A PMBus OPERATION of regulator `r` (R524): on or off. -/
  | rail (r : Nat) (on : Bool)
  /-- NVMe work on storage port `x` (R548): namespace, first LBA or segment name, write or read, bytes. -/
  | nvme (x : Nat) (nsid : Nat) (name : Nat) (wr : Bool) (bytes : Bytes)
  /-- An SPDM or IDE_KM response. -/
  | spdm (bytes : Bytes)
  /-- An ICMPv6 or I3C answer of the management interfaces (R550, R551). -/
  | mgmtReply (bytes : Bytes)
  deriving DecidableEq, Repr

/-! ### Kaolin: mailboxes, commands in flight, events (chapter 18) -/

/-- One PF or VF mailbox window (Tables 18-2, 18-3). Counts run modulo 2^16. Absent ring entries read as []. -/
structure Mailbox where
  sqTail : Nat
  sqHead : Nat
  cqTail : Nat
  cqHead : Nat
  evTail : Nat
  evHead : Nat
  inflight : Nat
  /-- MB_ERR: bit 0 SQ_TAIL_BAD, 1 CQ_HEAD_BAD, 2 EV_HEAD_BAD, 3 EV_OVERFLOW. -/
  err : Nat
  evLost : Nat
  sq : Tab Bytes
  cq : Tab Bytes
  ev : Tab Bytes
  deriving DecidableEq, Repr

/-- A mailbox after reset (Table 18-3). -/
def Mailbox.zero : Mailbox := ⟨0, 0, 0, 0, 0, 0, 0, 0, 0, [], [], []⟩

/-- What a command in flight waits for (R450: its completion comes later). -/
inductive WaitFor where
  /-- The next tick (GROUP_WRITE R317, UNIT_FENCE and UNIT_UNFENCE R489). -/
  | tick
  /-- The stop or pause of the job of a partition (R434). -/
  | jobStop (p : Nat)
  /-- The moves of the pages that the job of a partition will pin (R238); the rotation units whose self-test has failed. -/
  | jobStart (p : Nat) (kat : List Nat)
  /-- The end of a power domain's ramp (R501). -/
  | domain (d : Nat)
  /-- The stopping of the clocks (R556), or their restart (R558). -/
  | clocks
  deriving DecidableEq, Repr

/-- A command fetched and not completed. -/
structure InFlight where
  op : Nat
  ent : Entry
  io : HostIo
  wait : WaitFor
  /-- Its mailbox has been reset: its completion is discarded (R452). -/
  gone : Bool
  deriving DecidableEq, Repr

/-- An operation accepted with OK_PENDING whose outcome event has not been raised (R458). -/
structure PendingOp where
  id : Nat
  op : Nat
  src : Src
  part : Nat
  deriving DecidableEq, Repr

/-- A kept response of the management mailbox (R455). -/
structure KeptResponse where
  src : Nat
  xid : Nat
  /-- [] while the command is in flight. -/
  bytes : Bytes
  deriving DecidableEq, Repr

/-- Kaolin's own state. -/
structure Kaolin where
  waiting : List InFlight
  nextOp : Nat
  ops : List PendingOp
  /-- The mailbox served last in the round robin (R450). -/
  lastServed : Nat
  mgmtInflight : Nat
  kept : List KeptResponse
  /-- The two most recent sources that set SUBSCRIBE, newest first (R460). -/
  subs : List Nat
  /-- Next SEQ per source and destination, key source × 64 + destination (R460). -/
  seq : Tab Nat
  /-- Events of a code since the last one delivered, key code × 64 + destination (R469). -/
  undelivered : Tab Nat
  /-- Kaolin's cores are held in reset by Caliche (R484). -/
  down : Bool
  /-- MSI-X pending while the port cannot interrupt, as (function, vector). -/
  msixPending : List (Nat × Nat)
  /-- The latest stop on this package of a job bound to each slice ID, as (slice, Caliche time in ns) (R426). -/
  sliceStops : List (Nat × Nat)
  deriving DecidableEq, Repr

/-! ### Caliche (chapter 19) -/

/-- An error record (Table 19-4), as field values. `synd` holds the first bytes of SYNDROME. -/
structure ErrRec where
  index : Nat
  unitType : Nat
  severity : Nat
  unit : Nat
  source : Nat
  code : Nat
  op : Nat
  part : Nat
  leaky : Nat
  flags : Nat
  frame : Nat
  status : Nat
  time : Nat
  temp : Nat
  volt : Nat
  rail : Nat
  addr : Nat
  synd : Bytes
  deriving DecidableEq, Repr

/-- What an error source latches (R475): the record of its first event, the record of its latest one, whether they feed
the unit's leaky counter (R485), and how many events it has latched. -/
structure ErrLatch where
  first : ErrRec
  latest : ErrRec
  feeds : Bool
  count : Nat
  deriving DecidableEq, Repr

/-- A change of the fence table that takes effect at the next tick (R489, R490). -/
structure FenceReq where
  unitType : Nat
  unit : Nat
  /-- false: an unfence. -/
  fence : Bool
  deriving DecidableEq, Repr

/-- Caliche's memory and its view of the machine. Kept across RESET_N, lost in OFF (R482). -/
structure Caliche where
  /-- The fault log, newest first, at most 4,096 records (R493). -/
  log : List ErrRec
  /-- Leaky counters, key type × 65,536 + unit (R485). -/
  leaky : Tab Nat
  /-- Corrected errors of the current second per unit, same key (R485). -/
  ceSecond : Tab Nat
  /-- Units whose rate gain of the current second has been taken (R485). -/
  ceGained : Tab Bool
  /-- Error sources that hold an event Caliche has not read (R475), key = source unit key. -/
  latches : List (Nat × ErrLatch)
  /-- The index of the record that set each bit of CAL_EVENT (R499). -/
  evRec : Tab Nat
  /-- Fences and unfences that wait for the next tick. -/
  pendFence : List FenceReq
  /-- ns since Caliche power-up, counted in whole frames. -/
  upNs : Nat
  /-- UTC minus upNs (DEV_SET_TIME, R482). -/
  utcOff : Int
  /-- Times of the restarts of the last hour (R483). -/
  restarts : List Nat
  /-- Times of Kaolin's resets of the last 60 s (R484). -/
  kaoResets : List Nat
  /-- Caliche is restarting (R483). -/
  restarting : Bool
  /-- Three restarts within one hour: Caliche stays in reset until OFF (R483). -/
  lasting : Bool
  /-- Collector address and UDP port (R495). -/
  collector : Option (Nat × Nat)
  /-- Index below which records have been sent at least once (R495). -/
  sent : Nat
  /-- Hardened words lost at the last compare pass, with the values that Kaolin writes back, as (BAR0 offset, value) (R478). -/
  lostWords : List (Nat × Nat)
  /-- The first HUB_UP since power-up has sampled the straps (R555). -/
  strapped : Bool
  deriving DecidableEq, Repr

/-! ### Power, start-up and outside interfaces (chapters 20–22) -/

/-- Power control and the power sequence beyond their registers. -/
structure Power where
  /-- Clock step in boost, in units of 100 MHz above the service clock (R504). -/
  boost : Nat
  /-- Consecutive periods at the level's limit and over (R507). -/
  escCount : Nat
  /-- Consecutive periods under (R507). -/
  underCount : Nat
  /-- Package-power samples of the running control period, mW, newest first (R505). -/
  samples : List Nat
  /-- Running total of package energy, nJ (R516). -/
  energyNj : Nat
  /-- Caliche time of the last rise of each VR_ALERT_N pin, ns (R512). -/
  pinRise : Tab Nat
  /-- Caliche time up to which FLOOR_NS has counted the floor state that holds, ns. -/
  floorFrom : Nat
  /-- The floor held at the tick that opened the running frame (R511). -/
  floorTick : Bool
  /-- Frames failed under R511 since the last commit, per partition. -/
  floorFrames : Tab Nat
  /-- THERMTRIP_N is driven low (R515). -/
  tripped : Bool
  /-- Domains of 2 bits each: see PWR_DOMAIN. Ramps in progress as (domain, towards ON). -/
  ramps : List (Nat × Bool)

  /-- DEV_SET_POWER_STATE 7 has been taken: SERVICE at the next tick (R535). -/
  toService : Bool
  /-- FALLOW_FRAMES as Caliche keeps it (R235). -/
  fallowFrames : Nat
  /-- RESET_N is held low. -/
  resetLow : Bool
  /-- OP_ID of the pending DEV_SET_POWER_STATE (R523). -/
  powerOp : Option Nat
  /-- The stage being entered, if the up sequence runs (R524). -/
  stage : Option Nat
  /-- A new on target that waits for the down sequence to end (R531). -/
  nextTarget : Option Nat
  /-- Consecutive entries into HUB_UP that reached READY with the running image (R526). -/
  readyRuns : Nat
  /-- READY has been reached since this HUB_UP. -/
  readySeen : Bool
  /-- The SerDes references that are absent: 0–3. -/
  refLost : List Nat
  /-- The Caliche supply is on. -/
  calSupply : Bool
  deriving DecidableEq, Repr

/-- The JTAG instructions (Table 22-8). -/
inductive JtagIr where
  | bypass | idcode | samplePreload | extest | clamp | highz | scanSel | scanShift
  deriving DecidableEq, Repr

/-- The host, storage, management and debug interfaces beyond their registers (chapter 22). -/
structure HostIf where
  /-- VF Enable with NumVFs 32 per host port (R541). -/
  vfEnable : Tab Bool
  /-- Bus Master Enable of functions: 0, 1 = PF of H0, H1; 2 + p = VF p (R364). -/
  bme : Tab Bool
  /-- Keyed IDE streams that have left Secure, as port × 4 + stream (R544). -/
  ideFailed : List Nat
  /-- IDE streams keyed, as port × 4 + stream. -/
  ideKeyed : List Nat
  /-- Boot flash: Kaolin slot A, slot B, Caliche image (R526, R527). -/
  slots : Tab FwImage
  /-- The chosen image of Kaolin that runs. -/
  running : FwImage
  /-- MCTP endpoint ID and I3C dynamic address (R551). -/
  eid : Nat
  dynAddr : Nat
  /-- JTAG: current instruction (Table 22-8) and selected chain (R559, R560). -/
  jtagIr : JtagIr
  chain : Nat
  /-- Bits of the chain already shifted out. -/
  chainPos : Nat
  /-- The boundary register as preloaded, first bit first. -/
  boundary : List Bool
  /-- Measurement block 5: bit 0 JTAG enabled, bit 1 FREEZE since reset (R558, R559). -/
  meas5 : Nat
  deriving DecidableEq, Repr

/-! ### Partitions and jobs (chapter 17) -/

/-- Table 17-5. -/
inductive JobState where
  | idle | starting | running | paused | stopped
  deriving DecidableEq, Repr

/-- A section of an image part (Table 17-3b, Table 17-9). -/
structure Section where
  type : Nat
  ctx : Nat
  bytes : Bytes
  deriving DecidableEq, Repr

/-- An image part: the fields of its header (Table 17-3a) and its sections. -/
structure Image where
  role : Nat
  optOut : Bool
  frameSlots : Nat
  imageId : Nat
  modelId : Nat
  modelEpoch : Nat
  numerics : Nat
  nctx : Nat
  nmemb : Nat
  rank : Nat
  nphase : Nat
  nstart : Nat
  sections : List Section
  deriving DecidableEq, Repr

/-- A slice binding (R426): members are (package, partition) pairs by rank. -/
structure SliceBind where
  id : Nat
  rank : Nat
  members : List (Nat × Nat)
  digest : Nat
  deriving DecidableEq, Repr

/-- A condition that failed the running frame of a partition (R44, R46): its stop status, whether it allows one replay
only, and the unit that the record names (type, number). -/
structure Condition where
  status : Nat
  one : Bool
  unitType : Nat
  unit : Nat
  deriving DecidableEq, Repr

/-- A stop or pause ordered through the frame plan (R434): MODE and the stop status. -/
structure StopReq where
  mode : Nat
  status : Nat
  /-- Frame at which MAX_WAIT has passed. -/
  limit : Nat
  /-- The entry stands in the plan of the running frame. -/
  placed : Bool
  deriving DecidableEq, Repr

/-- A partition. -/
structure Part where
  /-- It exists (R416), on this host port. -/
  present : Bool
  port : Nat
  /-- Quadrants owned, ascending G (R420); threads owned, ascending. -/
  quads : List Nat
  threads : List Nat
  slotBudget : Nat
  slice : Option SliceBind
  /-- The bound model and its epoch in force, 0 before MODEL_DECLARE (R393). -/
  modelId : Nat
  modelEpoch : Nat
  job : JobState
  /-- Job state before STARTING (R430). -/
  prevJob : JobState
  image : Option Image
  /-- IMAGE_ID of the last job that ended, for JOB_QUERY (R438). -/
  lastImage : Nat
  /-- The JOB_STATE of the last stop and its frame. -/
  stopStatus : Nat
  stopFrame : Nat
  startFrame : Nat
  lastCheap : Nat
  /-- Phase counter c, committed (R428). -/
  phase : Nat
  /-- Frame in which JOB_START completed. -/
  startedAt : Nat
  /-- GO received: frame F (R430). -/
  goFrame : Option Nat
  /-- GO resumes a paused job (R437). -/
  resume : Bool
  /-- On the lead: the READY of each rank: rank, IMAGE_ID, slice digest, SLOT_COUNT. -/
  readies : List (Nat × Nat × Nat × Nat)
  /-- On the lead: a transit package per TRANSIT_REPLY that accepted; ranks that acknowledged GO. -/
  accepts : List Nat
  goAcks : List Nat
  /-- On the lead: the FILL that each rank has sent (R508). -/
  fills : Tab (Option Nat)
  /-- A stop that takes effect at the next tick, with its status; a pause likewise. -/
  stopDue : Option Nat
  pauseDue : Bool
  /-- A stop ordered by JOB_STOP on the lead (R434). -/
  stopReq : Option StopReq
  /-- Conditions detected in the running frame, in order of detection (R46). -/
  conds : List Condition
  /-- The running frame failed under R511 (KIND FLOOR). -/
  floorFail : Bool
  /-- Counted failures of the run and their smallest allowance (R46). -/
  failures : Nat
  allowance : Nat
  /-- The paused phase end whose live ranges are locked (R437). -/
  lockPhase : Option Nat
  /-- Accounting counters and the frame's accumulator, keyed by offset (Table 17-7); energy in nJ and pJ. -/
  acct : Tab Nat
  accum : Tab Nat
  energyNj : Nat
  accumPj : Nat
  /-- Work outside frames since the last commit (R441): counters and energy in pJ. -/
  outAcc : Tab Nat
  outPj : Nat
  deriving DecidableEq, Repr

/-- No partition. -/
def Part.absent : Part :=
  { present := false, port := 0, quads := [], threads := [], slotBudget := 0, slice := none, modelId := 0,
    modelEpoch := 0, job := .idle,
    prevJob := .idle, image := none, lastImage := 0, stopStatus := 0, stopFrame := 0, startFrame := 0, lastCheap := 0, phase := 0,
    startedAt := 0, goFrame := none, resume := false, readies := [], accepts := [], goAcks := [], fills := [],
    stopDue := none, pauseDue := false, stopReq := none, conds := [], floorFail := false, failures := 0,
    allowance := 2, lockPhase := none, acct := [], accum := [], energyNj := 0, accumPj := 0, outAcc := [],
    outPj := 0 }

/-! ### Sequencer contexts (chapters 2, 6) -/

/-- A frame command that has issued and not completed (R127). -/
structure FrameCmd where
  cls : Nat
  op : Nat
  pc : Nat
  /-- Flag bits 115:112: bit 0 commit, bit 1 end of guard group, bit 2 ADV. -/
  flags : Nat
  args : BitVec 112
  /-- The CFG of its class in force when it issued (R132, R197, R214). -/
  cfg : BitVec 112
  /-- It waits on arrival counter k for a threshold (R135). -/
  waitsAc : Option (Nat × Nat)
  /-- Its guard group in the frame (R145). -/
  grp : Nat
  deriving DecidableEq, Repr

/-- A loop of a context (R50): first command of the body, its length, the trip count and the iteration. -/
structure LoopFrame where
  start : Nat
  len : Nat
  trips : Nat
  iter : Nat
  deriving DecidableEq, Repr

/-- What holds a context's issue. -/
inductive CtxWait where
  /-- WAIT on the engine classes of a mask. -/
  | classes (mask : Nat)
  /-- BARRIER `id`, `k`-th arrival, COUNT contexts. -/
  | barrier (id k count : Nat)
  /-- SLOT_WAIT. -/
  | slot (i : Nat)
  /-- The commit command waits for every earlier command. -/
  | commit
  deriving DecidableEq, Repr

/-- One sequencer context beyond its registers (Tables 6-16, 6-17). -/
structure Ctx where
  inflight : List FrameCmd
  wait : Option CtxWait
  /-- Innermost loop first, at most 4. -/
  loops : List LoopFrame
  /-- Arrivals made at each barrier in this frame (R577). -/
  arrivals : Tab Nat
  atCommit : Bool
  /-- The guard group that commands now join, and the groups that have ended and whose guards have not run, as (group,
  program index). -/
  grp : Nat
  guards : List (Nat × Nat)
  /-- MXA_CFG, ATT_CFG and SRT_CFG arguments of the frame (none: no CFG yet). -/
  mxa : Option (BitVec 112)
  att : Option (BitVec 112)
  srt : Option (BitVec 112)
  /-- VEC_CFG (R140). -/
  tile8 : Nat
  ntotal : Nat
  eps : F32
  deriving DecidableEq, Repr

/-- A context at a tick. -/
def Ctx.fresh : Ctx := ⟨[], none, [], [], false, 0, [], none, none, none, 0, 0, 0⟩

/-! ### The tick unit (chapter 2) -/

/-- The tick unit beyond the TICK block's registers. -/
structure TickUnit where
  /-- Length in slots of the current frame (R26, R39, R48). -/
  len : Nat
  /-- Last LEN_NEXT and BASE accepted, for the next frame. -/
  nextBase : Nat
  /-- Latest stretch request per package, on the master and the standby (R47). -/
  requests : Tab Nat
  /-- Consecutive ticks without a master symbol (R39, R481). -/
  missed : Nat
  /-- The symbol of the tick that opens this frame has been accepted. -/
  gotSymbol : Bool
  /-- Scheduled traffic is stopped: own tick faulty (R32, R481) or fenced (R38). -/
  schedStopped : Bool
  /-- The package FENCE of the next tick symbol names (R37), on the master; 255 none. -/
  fenceNext : Nat
  /-- Abort bitmaps of the current frame per KIND: slices received (R44): ONE, COUNTED, FLOOR. -/
  one : List Nat
  counted : List Nat
  floorB : List Nat
  /-- The verdict window of the running frame is open. -/
  verdict : Bool
  /-- Packages that joined as eligible: (package, priority, tray), on the master (R534). -/
  joined : List (Nat × Nat × Nat)
  /-- Fault reports already flooded: (reporter, accused). -/
  rptSeen : List (Nat × Nat)
  /-- A tick symbol has been accepted since HUB_UP (R533). -/
  everTicked : Bool
  /-- Election (R533): candidate, candidates heard. -/
  candidate : Bool
  heard : List Candidate
  /-- The map check of TOPO_CHECK has passed (R532). -/
  mapChecked : Bool
  /-- Appliance time of the current tick, ns (R341). -/
  applNs : Nat
  /-- Packages that accepted tick symbols have named in FENCE (R38). -/
  fencedPkgs : List Nat
  /-- Frames since this package became master by a takeover, while it has named no standby (R31). -/
  takeoverAge : Option Nat
  /-- The frame number that the next tick of a master just elected opens (R533). -/
  startFrame : Option Nat
  deriving DecidableEq, Repr

/-! ### The fabric (chapter 11) -/

/-- A SCHED entry of the slot map (R268, Table 17-9): direction, bundle position, slot index, slice, stream and use. -/
structure SlotEnt where
  ingress : Bool
  bundle : Nat
  pos : Nat
  slot : Nat
  slice : Nat
  stream : Nat
  use : Nat
  deriving DecidableEq, Repr

/-- The entries a transit package holds for a job of other packages (R430, R431). -/
structure TransitJob where
  imageId : Nat
  slice : Nat
  ents : List SlotEnt
  /-- The lead's release has arrived: the entries revert to OPEN at the next tick. -/
  released : Bool
  deriving DecidableEq, Repr

/-- An accepted scheduled slot held for forwarding on its next hop (R269): the egress position and slot it leaves in. -/
structure Forward where
  bundle : Nat
  pos : Nat
  slot : Nat
  rx : SlotRx
  deriving DecidableEq, Repr

/-- A piece of a stream of the running frame (R328): held ready to send, or received (none: poisoned or lost; `empty`: the
slot was EMPTY). -/
structure Piece where
  slice : Nat
  stream : Nat
  idx : Nat
  empty : Bool
  data : Option Bytes
  deriving DecidableEq, Repr

/-- A packet reassembled from open flits addressed to this package. -/
structure Packet where
  type : Nat
  rsp : Bool
  src : Nat
  spart : Nat
  bytes : Bytes
  deriving DecidableEq, Repr

/-- One fabric link beyond its registers: training (R260), far identity (R285), and the open-flit layer of R272–R274.
Queues are numbered VC0 REQ 0, VC0 RSP 1, VC1 REQ 2, VC1 RSP 3. -/
structure LinkX where
  /-- In TRAIN: lane lock has passed, FEC alignment is next. -/
  laneOk : Bool
  /-- ECHO exchanges made in ALIGN and the sum of (round trip − turnaround), 0.125 ns. -/
  echoes : Nat
  echoSum : Nat
  /-- Map digest bits 63:0 that the last IDENT carried. -/
  farDigest : Nat
  /-- Next sequence number to send, and the next expected on receive. -/
  txSeq : Nat
  rxSeq : Nat
  /-- NAK goes out in the next header (R274). -/
  nak : Bool
  /-- Flits not yet sent. -/
  txq : List Flit
  /-- Sent and unacknowledged flits, oldest first; the last `resend` of them are still to go again. -/
  retry : List Flit
  resend : Nat
  /-- Flits sent per queue since link up, and the far end's count of freed entries, modulo 256. -/
  sentQ : List Nat
  farFreed : List Nat
  /-- Entries of this receiver freed since link up, modulo 256. -/
  freed : List Nat
  /-- Flits of packets received in part, oldest first. -/
  partial_ : List Flit
  deriving DecidableEq, Repr

/-- A link that has just come up, or has never trained. -/
def LinkX.fresh : LinkX := ⟨false, 0, 0, 0, 0, 0, false, [], [], 0, [0, 0, 0, 0], [0, 0, 0, 0], [0, 0, 0, 0], []⟩

/-- A substitution that waits for its EFFECTIVE frame (R279): frame bits 15:0. -/
structure SubReq where
  bundle : Nat
  pos : Nat
  link : Nat
  effective : Nat
  deriving DecidableEq, Repr

/-- A CTL message sent and not yet answered (R292): its copies are the same. -/
structure CtlOut where
  dst : Nat
  mtype : Nat
  mseq : Nat
  hdr : Bytes
  body : Bytes
  repeats : Nat
  /-- Local partition the message is sent for, 255 for Kaolin itself. -/
  part : Nat
  deriving DecidableEq, Repr

/-- The answer given to a message that was applied (R292). -/
structure CtlSeen where
  src : Nat
  mseq : Nat
  /-- MTYPE 0: no answer. -/
  mtype : Nat
  body : Bytes
  deriving DecidableEq, Repr

/-- The router, the slot map and the CTL layer. -/
structure Fabric where
  /-- The loaded map's bytes (Table 11-10). -/
  map : Option Bytes
  /-- Substitution map (R278): key bundle × 16 + position; none is the link of R256, 127 a vacant position. -/
  sub : Tab (Option Nat)
  pendSub : List SubReq
  /-- Links that take a role at the next tick (R281). -/
  retrained : List Nat
  links : Tab LinkX
  /-- The slot map in force (R268). -/
  slotMap : List SlotEnt
  transit : List TransitJob
  forwards : List Forward
  txPieces : List Piece
  rxPieces : List Piece
  /-- The detour table in force and the rebuilt one (R276): destinations. -/
  detour : List Nat
  detourNext : Option (List Nat)
  /-- Memory packets for this package that have not been served. -/
  packets : List Packet
  /-- Kaolin's fabric ring of CTL messages. -/
  ring : List Packet
  /-- Next MSEQ per destination package (R291). -/
  mseq : Tab Nat
  unanswered : List CtlOut
  /-- Messages applied, newest first, 1,024 per source package (R292). -/
  seen : List CtlSeen
  /-- Edge rejects against each neighbour: times in ns, newest first (R37). -/
  rejects : Tab (List Nat)
  deriving DecidableEq, Repr

/-- A key of the key store (R396, Table 16-5). Classes 3 and 4 have no owner and no KEY_ID. -/
structure KeyEnt where
  cls : Nat
  owner : Nat
  keyId : Nat
  material : Bytes
  deriving DecidableEq, Repr

/-! ### The tier-migration engine (chapter 10) -/

/-- A page of a partition's tiered range (Table 10-3): the frame of CUR as physical address div 2 MiB (tier 2 from
524,288 on), how many holds pin it (R238), WP, MIG, HEAT, and the frame of NXT while a move is prepared. -/
structure TierPage where
  frame : Nat
  pins : Nat
  wp : Bool
  mig : Bool
  heat : Nat
  nxt : Option Nat
  deriving DecidableEq, Repr

/-- The tier map of a partition (R233): the quadrants and the tier-2 frames its pages started from, and the pages that
have changed since. -/
structure TierPart where
  quads : List Nat
  t2 : List Nat
  pages : Tab TierPage
  /-- Tier-1 frames of the partition that no page maps, zeroed. -/
  t1Free : List Nat
  deriving DecidableEq, Repr

/-- A partition without a tiered range. -/
def TierPart.empty : TierPart := ⟨[], [], [], []⟩

/-- A page move (R240): the partition, the page, and whether the copy is complete (Ready). -/
structure Move where
  part : Nat
  page : Nat
  dst : Nat
  ready : Bool
  deriving DecidableEq, Repr

/-- A page frame that waits for its zeroing (R242): its partition (255: it returns to the free pool), and whether the tick
that follows its release has passed. -/
structure Release where
  part : Nat
  frame : Nat
  ripe : Bool
  deriving DecidableEq, Repr

/-- A request to move a page (R239). -/
structure MoveReq where
  part : Nat
  page : Nat
  target : Nat
  deriving DecidableEq, Repr

/-- The tier-migration engine. -/
structure TierUnit where
  parts : Tab TierPart
  moves : List Move
  queue : List MoveReq
  /-- Requests that the running frame of a partition has staged (R250), key partition. -/
  staged : List MoveReq
  release : List Release
  /-- Tier-2 frames that belong to a partition, a move or a release, ascending, as offset div 2 MiB. -/
  t2Used : List Nat
  deriving DecidableEq, Repr

/-! ### Activation registers (chapter 5) and weights (chapter 16) -/

/-- A slot of an activation register file (R105): its elements, and whether it is marked poisoned (R109). -/
structure ArfSlot where
  bytes : Bytes
  poisoned : Bool
  deriving DecidableEq, Repr

/-- An empty slot. -/
def ArfSlot.empty : ArfSlot := ⟨[], false⟩

/-- The Vexsum unit of one stack for one partition and window (R406): the groups seen and the sum of their contributions,
committed and staged. Groups are numbered entry × 2^42 + row × 2^18 + group of the row. -/
structure VexStack where
  seen : List Nat
  sum : Nat
  newSeen : List Nat
  newSum : Nat
  deriving DecidableEq, Repr

/-- Nothing seen. -/
def VexStack.empty : VexStack := ⟨[], 0, [], 0⟩

/-- A window that has ended and is being filled (R406), or a pass that WEIGHT_VERIFY started (`op`, R403): the stacks that
have not finished, and whether the window is void. -/
structure VexFill where
  window : Nat
  unit : Nat
  op : Option Nat
  stks : Tab VexStack
  waiting : List Nat
  frame : Nat
  void : Bool
  deriving DecidableEq, Repr

/-- A digest that the lead holds (R406, R407): window, unit, rank of the package or 256 + peer for a replica's slice. -/
structure VexDigest where
  window : Nat
  unit : Nat
  who : Nat
  digest : Nat
  void : Bool
  deriving DecidableEq, Repr

/-- Vexsum of a partition. -/
structure VexPart where
  window : Nat
  void : Bool
  stks : Tab VexStack
  fills : List VexFill
  digests : List VexDigest
  /-- REPLICA_COMPARE_CONFIG arguments (bytes 8–25) that the next window takes. -/
  cfg : Option Bytes
  deriving DecidableEq, Repr

/-- Vexsum of a partition that has run no window. -/
def VexPart.empty : VexPart := ⟨0, true, [], [], [], none⟩

/-! ### Remote accesses (chapter 12) -/

/-- A request of a local requester that has no response yet: how it was routed (0 minimal, 1 by the detour table, 2 it
waits for earlier requests of its flow, R303). -/
structure RmtOut where
  q : RmtReq
  via : Nat
  deriving DecidableEq, Repr

/-- A combining entry (R305): the requests it holds, member 0 first, as they reached the combining point. -/
structure CombEnt where
  members : List RmtReq
  deriving DecidableEq, Repr

/-- A free combining entry. -/
def CombEnt.free : CombEnt := ⟨[]⟩

/-- A deferred atomic (R310): its partition, context and program index, and the request. -/
structure Deferred where
  part : Nat
  G : Nat
  pc : Nat
  op : Nat
  size : Nat
  addr : Nat
  a : Nat
  deriving DecidableEq, Repr

/-- A scratchpad access from outside the frame program that is held (R163). -/
inductive HeldAccess where
  | remote (q : RmtReq)
  | core (a : CcAccess)
  deriving DecidableEq, Repr

/-- The remote-access unit. -/
structure Remote where
  out : List RmtOut
  comb : Tab CombEnt
  /-- Requests held for combining, as (link, source, REQID, TAG). -/
  window : List (Nat × Nat × Nat × Nat)
  /-- Error code of a thread's posted stores, trapped at its next FENCE; key thread. -/
  storeErr : Tab Nat
  /-- Threads whose FENCE waits. -/
  fences : List Nat
  /-- Deferred atomics that the running frame has staged, in order. -/
  staged : List Deferred
  /-- The deferral queue's committed entries; key entry number. -/
  defer : Tab (Option Deferred)
  held : List HeldAccess
  deriving DecidableEq, Repr

/-- Nothing outstanding. -/
def Remote.reset : Remote := ⟨[], [], [], [], [], [], [], []⟩

/-! ### Collectives (chapter 13) -/

/-- A COL command of opcode 0x01–0x06 of the running frame: its context, opcode, program index and arguments, its place
among the context's commands of one opcode and group, its partition and rank; the pieces taken from each receive stream,
the A2AV counts that have come (none: invalid), the reduction contributions as (piece, rank, data; none is poisoned), the
pieces reduced, the ranges written relative to the destination, the arrivals raised, and the local members it has exchanged
with. -/
structure ColOp where
  G : Nat
  op : Nat
  pc : Nat
  args : BitVec 112
  k : Nat
  part : Nat
  rank : Nat
  seen : Tab Nat
  counts : List (Nat × Option Nat)
  contrib : List (Nat × Nat × Option Bytes)
  reduced : List Nat
  written : List (Nat × Nat)
  raised : Nat
  met : List Nat
  deriving DecidableEq, Repr

/-- The collectives engine: the group table in force and the staged writes (R317), and the commands of the frame. -/
structure Coll where
  groups : Tab Bytes
  stagedGroups : List (Nat × Bytes)
  ops : List ColOp
  deriving DecidableEq, Repr

/-- An empty group table. -/
def Coll.reset : Coll := ⟨[], [], []⟩

/-! ### Weights (chapter 16) -/

/-- A shard record (R401): its partition, destination and length in the tiered range, SHARD, UNIT, MODEL_EPOCH, the digest
where it carries one, and whether a recheck has made it FAILED; otherwise it is VERIFIED. -/
structure ShardRec where
  part : Nat
  dst : Nat
  len : Nat
  shard : Nat
  unit : Nat
  epoch : Nat
  digest : Option Nat
  failed : Bool
  deriving DecidableEq, Repr

/-- A load in progress, its header checked (R400, R401): OP_ID, partition, destination, the header, the key that it
started with, and its source (0 host memory, 1 S0, 2 S1). -/
structure ShardLoad where
  op : Nat
  part : Nat
  dst : Nat
  hdr : Bytes
  key : Bytes
  src : Nat
  deriving DecidableEq, Repr

/-- A replacement as a package sees it (R408–R411): the new epoch (0: not known here yet), its stage (1 awaiting the
barrier, 2 at the barrier, 3 switching), and on the lead BARRIER_FRAMES' last frame, the medium and key of the fallow
images, the OP_IDs of REPLACE_BEGIN and REPLACE_END, and the units that each rank has completed. -/
structure Replacement where
  epoch : Nat
  stage : Nat
  limit : Nat
  forced : Bool
  medium : Nat
  key : Nat
  beginOp : Option Nat
  endOp : Option Nat
  units : List (Nat × Nat)
  deriving DecidableEq, Repr

/-- An SPDM session (R395): its ID and the transport's port (0 H0, 1 H1, 2 I3C). -/
structure SpdmSession where
  id : Nat
  port : Nat
  deriving DecidableEq, Repr

/-- Weight custody. -/
structure Weights where
  recs : List ShardRec
  loads : List ShardLoad
  repl : Tab (Option Replacement)
  /-- The reference table of a partition's model epoch, as (epoch, bytes) (R407, R408). -/
  refs : Tab (Nat × Bytes)
  sessions : List SpdmSession
  deriving DecidableEq, Repr

/-- No shard loaded, no session. -/
def Weights.reset : Weights := ⟨[], [], [], [], []⟩

/-! ### The serving engine (chapter 14) and session fallow (chapter 15) -/

/-- A request record (Table 14-1). `cause` is HOLD_CAUSE: 1 RING, 2 BARRIER, 4 KV, 8 TURN. -/
structure ReqRec where
  state : Nat
  cause : Nat
  prio : Nat
  urgent : Bool
  role : Nat
  xepoch : Bool
  keep : Bool
  queue : Nat
  part : Nat
  gen : Nat
  status : Nat
  session : Nat
  deadline : Nat
  ring : Nat
  promptLen : Nat
  genLen : Nat
  epoch : Nat
  ptRoot : Nat
  ctxLen : Nat
  bucket : Nat
  samplerCtr : Nat
  ttftLast : Nat
  ttftMax : Nat
  tbtLast : Nat
  ttftAvg : Nat
  tbtMax : Nat
  tbtAvg : Nat
  deriving DecidableEq, Repr

/-- A control record (Table 14-2). -/
structure CtlRec where
  key : Nat
  tau : Nat
  topk : Nat
  topp : Nat
  nstop : Nat
  stops : List Nat
  maxNew : Nat
  kvResv : Nat
  submit : Nat
  peerJidx : Nat
  peerGen : Nat
  peerSlice : Nat
  prompt : Nat
  deriving DecidableEq, Repr

/-- A KV page that a request holds on this package: layer group, logical page and physical address. -/
structure KvPage where
  lg : Nat
  lpage : Nat
  addr : Nat
  deriving DecidableEq, Repr

/-- A request slot: both records, and what the engine keeps with them: the submission order; the frame of its entry into
DONE or FAULT; how many prompt tokens of the turn the session has consumed; the next decode input token; whether the turn's
last record stands in the ring, with its reason; when the turn's previous token became visible (R366); whether the next
record carries EPOCH; whether its turn is a continuation; the run of its prefill (R349); whether INSTALLED has come, or on a decode job whether its shipment is
confirmed, the order of its entry into SHIP and its committed ship position in pieces (R359); its pages and page-table nodes on this
package; its fallow image and that image's state (R381). -/
structure Slot where
  req : ReqRec
  ctl : CtlRec
  order : Nat
  since : Nat
  fed : Nat
  tok : Nat
  ended : Bool
  reason : Nat
  lastAt : Option Nat
  newEpoch : Bool
  cont : Bool
  run : Nat
  installed : Bool
  shipOrder : Nat
  shipped : Tab Nat
  pages : List KvPage
  nodes : List Nat
  image : Nat
  imageState : Nat
  deriving DecidableEq, Repr

/-- The record of a FREE slot. -/
def ReqRec.free : ReqRec := ⟨0, 0, 0, false, 0, false, false, 0, 0, 0, 0, 0, 0, 0, 0, 0, 0, 0, 0, 0, 0, 0, 0, 0, 0, 0, 0⟩

/-- An empty control record. -/
def CtlRec.free : CtlRec := ⟨0, 0, 0, 0, 0, [0, 0, 0, 0], 0, 0, 0, 0, 0, 255, 0⟩

/-- A slot that has never left FREE. -/
def Slot.free : Slot :=
  { req := ReqRec.free, ctl := CtlRec.free, order := 0, since := 0, fed := 0, tok := 0, ended := false, reason := 0,
    lastAt := none, newEpoch := false, cont := false, run := 0, installed := false, shipOrder := 0, shipped := [], pages := [],
    nodes := [], image := 0, imageState := 0 }

/-- What a mailbox command asks of a request at the next commit (R342). -/
inductive SlotAsk where
  | cancel
  | release
  /-- A continuation with its descriptor. -/
  | cont (desc : Bytes) (submit : Nat)
  /-- A fallow: image, medium, key, OP_ID (none: at the barrier of a replacement). -/
  | fallow (image : Nat)
  /-- A prompt or shipment exit: to DRAIN with a status. -/
  | fail (status : Nat)
  /-- The decode target of a shipment has stopped (R344). -/
  | lost
  /-- An ASSIGN of a prefill lead (R354): the request as it will stand, and the package and MSEQ that INSTALLED answers. -/
  | install (x : Slot) (pkg mseq : Nat)
  /-- INSTALLED came from the target (R354): its JIDX and GEN. -/
  | installed (jidx gen : Nat)
  deriving DecidableEq, Repr

/-- A pending request of a mailbox or a message: slot number, GEN, and what is asked. -/
structure SlotReq where
  slot : Nat
  gen : Nat
  ask : SlotAsk
  deriving DecidableEq, Repr

/-- An admission that the running frame stages: slot and GEN, the place of its prompt in the prompt region, whether the
prompt stands there, the status of a failed fetch, the target of a prefill request (index of ADMISSION_CONFIG, 4 for none)
and its run. -/
structure Admission where
  slot : Nat
  gen : Nat
  addr : Nat
  fetched : Bool
  fail : Nat
  target : Nat
  run : Nat
  deriving DecidableEq, Repr

/-- What an admission pass stages (R351): pointer, deficits, admissions, late requests to fail, the urgent class, and the
queues of its admissions and of the urgent ones among them. -/
structure AdmitPass where
  ptr : Nat
  deficits : List (Nat × Int)
  admits : List Admission
  late : List Nat
  urgent : List Nat
  urgentTaken : List Nat
  full : Bool
  deriving DecidableEq, Repr

/-- A stream ring binding (R362). -/
structure Ring where
  iova : Nat
  tailIova : Nat
  tail : Nat
  head : Nat
  deriving DecidableEq, Repr

/-- A row of a running batch (Table 14-6): the request, its flags, first position, input tokens, segment, row, offset. -/
structure BatchRow where
  slot : Nat
  flags : Nat
  pos : Nat
  len : Nat
  seg : Nat
  row : Nat
  ofs : Nat
  deriving DecidableEq, Repr

/-- The batches of a partition: the decode rows of the running step, its frame in the step, the prefill rows of the running
run, the run's number and its frames left. -/
structure Batches where
  decode : List BatchRow
  stepFrame : Nat
  prefill : List BatchRow
  run : Nat
  left : Nat
  deriving DecidableEq, Repr

/-- No batch runs. -/
def Batches.none : Batches := ⟨[], 0, [], 0, 0⟩

/-- The parameters of ADMISSION_CONFIG beyond Table 14-13 (R354). -/
structure AdmitCfg where
  targets : List Nat
  sources : List Nat
  slots : Nat
  pages : Nat
  deriving DecidableEq, Repr

/-- No target and no source. -/
def AdmitCfg.none : AdmitCfg := ⟨[255, 255, 255, 255], [255, 255, 255, 255], 0, 0⟩

/-- A KV page that shipped pieces are filling (R360): partition, slot, page, the sending slice, and the pieces of it that
have arrived. -/
structure ShipPage where
  part : Nat
  slot : Nat
  page : KvPage
  src : Nat
  got : List Nat
  deriving DecidableEq, Repr

/-- An image that this package leads, or a segment of one that it holds (R376, R378, R381): partition, medium, KEY_ID, the
header, the record section, the segment table as (package, medium, units, bytes), the digests of its units; the OP_ID and
slot while it is written; the lead package. `state`: 1 WRITING, 2 COMPLETE, 3 FAILED. -/
structure SessImage where
  id : Nat
  part : Nat
  medium : Nat
  keyId : Nat
  header : Bytes
  record : Bytes
  segs : List (Nat × Nat × Nat × Nat)
  uh : Tab (BitVec 256)
  reported : List Nat
  op : Option Nat
  slot : Nat
  state : Nat
  written : Bool
  deriving DecidableEq, Repr

/-- A segment that this package stores: image (its high byte the lead package), partition, medium, the tier-2 frames of the fallow store it
takes, and its units by INDEX, each as stored (header, cipher text). -/
structure Segment where
  image : Nat
  part : Nat
  medium : Nat
  frames : List Nat
  units : Tab Bytes
  deriving DecidableEq, Repr

/-- What a session operation does (R389). -/
inductive SessKind where
  /-- Write the segment of an image from the pages of a slot. -/
  | write (image slot : Nat)
  /-- Read units for a thaw into a slot (`fresh`: a new slot). -/
  | thaw (image lead slot : Nat) (fresh : Bool)
  | exporting (image lead : Nat) (iova len : Nat)
  | import (image medium : Nat)
  | delete (image : Nat)
  deriving DecidableEq, Repr

/-- A session operation on this package (R389): OP_ID (none: not led here), partition, what it does, the header segment as
read, the unit bytes fetched from other packages, the place in the segment table of the holder asked, the pages written, the
results of the members (package, status, units), the descriptor, the positions reserved, and whether this package's own
reading has ended. -/
structure SessOp where
  op : Option Nat
  part : Nat
  kind : SessKind
  hdr : Bytes
  units : Tab Bytes
  holder : Nat
  pages : List KvPage
  reports : List (Nat × Nat × Nat)
  desc : Bytes
  resv : Nat
  ready : Bool
  deriving DecidableEq, Repr

/-- The serving engine: slots by number (default Slot.free), and what is staged per partition. -/
structure Serving where
  slots : Tab Slot
  pass : Tab (Option AdmitPass)
  asks : List SlotReq
  /-- Requests that arrived in the verdict window wait for the commit after the next. -/
  lateAsks : List SlotReq
  order : Nat
  rings : Tab (Option Ring)
  /-- QUEUE_CONFIG and ADMISSION_CONFIG that take effect at the next tick. -/
  queueNext : List (Nat × Option (Nat × Nat × Nat))
  admitNext : List (Nat × Bytes)
  admitCfgs : Tab AdmitCfg
  ptr : Tab Nat
  batches : Tab Batches
  /-- Credits that a target lead has granted and not seen spent, and that a prefill lead holds: key partition × 4 + index;
  slots and token pages. -/
  granted : Tab (Nat × Nat)
  credits : Tab (Nat × Nat)
  /-- The plan of the running frame that the lead sends, its slots with the records it gives them, and slots whose change no plan
has carried yet. -/
  plans : Tab Bytes
  planned : List (Nat × Bytes)
  dirty : List Nat
  shipPages : List ShipPage
  images : List SessImage
  segments : List Segment
  sessOps : List SessOp
  nextImage : Tab Nat
  deriving DecidableEq, Repr

/-- An idle engine. -/
def Serving.reset : Serving :=
  { slots := [], pass := [], asks := [], lateAsks := [], order := 0, rings := [], queueNext := [], admitNext := [],
    admitCfgs := [], ptr := [], batches := [], granted := [], credits := [], plans := [], planned := [], dirty := [],
    shipPages := [], images := [], segments := [], sessOps := [], nextImage := [] }

/-! ### Reset values of the parts of State -/

/-- Kaolin after reset: nothing in flight. -/
def Kaolin.reset : Kaolin := ⟨[], 1, [], 0, 0, [], [], [], [], false, [], []⟩

/-- Caliche after power-up: an empty log (R493). -/
def Caliche.reset : Caliche :=
  { log := [], leaky := [], ceSecond := [], ceGained := [], latches := [], evRec := [], pendFence := [], upNs := 0,
    utcOff := 0, restarts := [], kaoResets := [], restarting := false, lasting := false, collector := none, sent := 0,
    strapped := false, lostWords := [] }

/-- Power control after reset. -/
def Power.reset : Power :=
  { boost := 0, escCount := 0, underCount := 0, samples := [], energyNj := 0, pinRise := [],
    floorTick := false, floorFrom := 0,
    floorFrames := [], tripped := false, ramps := [], toService := false, fallowFrames := 0,
    resetLow := false, powerOp := none,
    stage := none, nextTarget := none, readyRuns := 0, readySeen := false, refLost := [],
    calSupply := true }

/-- An empty firmware slot. -/
def FwImage.none : FwImage := ⟨0, 0, false, false⟩

/-- The image that the boot flash holds in slot A and for Caliche after reset: signed, of version 0. The spec gives none. DESIGN
CHOICE. -/
def FwImage.first : FwImage := ⟨0, 0, false, true⟩

/-- The outside interfaces after reset. -/
def HostIf.reset : HostIf :=
  { vfEnable := [], bme := [], ideFailed := [], ideKeyed := [], slots := [(0, FwImage.first), (2, FwImage.first)],
    running := FwImage.first, eid := 0, dynAddr := 0, jtagIr := .idcode, chain := 0, chainPos := 0, boundary := [],
    meas5 := 0 }

/-- The tick unit after reset: frames of 320 slots, no master (Tables 2-7 to 2-10). -/
def TickUnit.reset : TickUnit :=
  { len := 320, nextBase := 320, requests := [], missed := 0, gotSymbol := false,
    schedStopped := false, fenceNext := 255, one := [], counted := [], floorB := [], verdict := false,
    joined := [], rptSeen := [], everTicked := false, candidate := false, heard := [], mapChecked := false,
    applNs := 0, fencedPkgs := [], takeoverAge := none,
    startFrame := none }

/-- The fabric after reset: no map, every position with its own link, nothing in flight. -/
def Fabric.reset : Fabric :=
  { map := none, sub := [], pendSub := [], retrained := [], links := [], slotMap := [], transit := [], forwards := [],
    txPieces := [], rxPieces := [], detour := [], detourNext := none, packets := [], ring := [], mseq := [],
    unanswered := [], seen := [], rejects := [] }

/-- The tier-migration engine after reset. -/
def TierUnit.reset : TierUnit := ⟨[], [], [], [], [], []⟩

/-! ### State -/

/-- The state of the block. -/
structure State where
  /-- The commands that wait, first in first out. -/
  pending : List Instr
  /-- How many free values the machine has drawn (the model's own; `Config.freeValue`). -/
  freeCtr : Nat
  /-- What the block has given to the outside world, newest first (the model's own). -/
  out : List Output
  /-- Register fields of PF BAR0 by bit address; an unlisted field reads as its reset value (R18). -/
  regs : Tab Nat
  /-- Bytes of the package-local physical map (R14); an unlisted byte reads as 0. -/
  mem : List Host.Cell
  /-- 8-byte words (address div 8) that read as uncorrectable or poisoned (R102, R175, R246). -/
  bad : Tab Bool
  /-- Counter shadow per access path: offset + 1 and high half (R21); default (0, 0). -/
  shadows : Tab (Nat × Nat)
  /-- Kaolin. -/
  kao : Kaolin
  /-- Mailbox windows: 0, 1 the PFs of H0, H1; 2 + p VF p; default Mailbox.zero. -/
  mbs : Tab Mailbox
  /-- Caliche. -/
  cal : Caliche
  /-- Power control and sequence. -/
  pwr : Power
  /-- Host, storage, management and debug interfaces. -/
  hif : HostIf
  /-- Partitions; default Part.absent. -/
  parts : Tab Part
  /-- Sequencer contexts by global quadrant G; default Ctx.fresh. -/
  ctxs : Tab Ctx
  /-- The tick unit. -/
  tick : TickUnit
  /-- The router, the slot map and the CTL layer. -/
  fab : Fabric
  /-- The key store, at most 256 entries (R396). -/
  keys : List KeyEnt
  /-- Accounting sets of the tenant queues, key queue × 256 + offset (R439). -/
  qacct : Tab Nat
  /-- Energy of the tenant queues, nJ (R442). -/
  qEnergy : Tab Nat
  /-- The tier-migration engine. -/
  tier : TierUnit
  /-- Activation register files: key BDU × 16 + slot; default empty (R105). -/
  arf : Tab ArfSlot
  /-- Vexsum per partition (R406). -/
  vex : Tab VexPart
  /-- Model declarations bound to partitions (R393). -/
  decls : Tab Bytes
  /-- The remote-access unit (chapter 12). -/
  rmt : Remote
  /-- The collectives engine (chapter 13). -/
  coll : Coll
  /-- Weight custody (chapter 16). -/
  wts : Weights
  /-- The serving engine and session fallow (chapters 14, 15). -/
  srv : Serving
  deriving DecidableEq, Repr

/-- The machine right after reset: every register field at its table's reset value (an empty register file), nothing
stored, nothing running, no command waiting. -/
def State.reset : State :=
  { pending := []
    freeCtr := 0
    out := []
    regs := []
    mem := []
    bad := []
    shadows := []
    kao := Kaolin.reset
    mbs := []
    cal := Caliche.reset
    pwr := Power.reset
    hif := HostIf.reset
    parts := []
    ctxs := []
    tick := TickUnit.reset
    fab := Fabric.reset
    keys := []
    qacct := []
    qEnergy := []
    tier := TierUnit.reset
    arf := []
    vex := []
    decls := []
    rmt := Remote.reset
    coll := Coll.reset
    wts := Weights.reset
    srv := Serving.reset }

end Sys2Proof.Machine
end

