-- ==== Sys2Proof/Machine/Tab.lean ====
section
/-!
DEFINITION. The operations on sparse data (`Tab`): read a key, write a key keeping the canonical form, and the
canonical form itself. Memory, the register file and every numbered table of State are held in this form.
-/

namespace Sys2Proof.Machine

/-- What key `k` reads as; `d` is what an unlisted key reads as. -/
def tget {α : Type} (d : α) : Tab α → Nat → α
  | [], _ => d
  | (a, v) :: r, k => if a = k then v else tget d r k

/-- Write `v` at key `k`. Writing what an unlisted key reads as removes the entry. -/
def tput {α : Type} [DecidableEq α] (d : α) : Tab α → Nat → α → Tab α
  | [], k, v => if v = d then [] else [(k, v)]
  | (a, w) :: r, k, v =>
    if k < a then (if v = d then (a, w) :: r else (k, v) :: (a, w) :: r)
    else if k = a then (if v = d then r else (k, v) :: r)
    else (a, w) :: tput d r k v

/-- Change the value at key `k`. -/
def tmod {α : Type} [DecidableEq α] (d : α) (t : Tab α) (k : Nat) (f : α → α) : Tab α :=
  tput d t k (f (tget d t k))

/-- The canonical form above a lower bound on the keys. -/
def tabWfFrom {α : Type} [DecidableEq α] (d : α) : Nat → Tab α → Bool
  | _, [] => true
  | lo, (a, v) :: r => decide (lo ≤ a) && decide (v ≠ d) && tabWfFrom d (a + 1) r

/-- The canonical form: keys strictly rising, no entry equal to what an unlisted key reads as. -/
def tabWf {α : Type} [DecidableEq α] (d : α) (t : Tab α) : Bool := tabWfFrom d 0 t

/-- The listed keys whose value meets `p`, ascending. -/
def tkeys {α : Type} (p : α → Bool) (t : Tab α) : List Nat :=
  t.filterMap (fun e => if p e.2 then some e.1 else none)

end Sys2Proof.Machine
end

