-- ==== Sys2Proof/Machine/Ops.lean ====
section
/-!
DEFINITION. The named operations over registers, memory, outputs, events, error records, fences and jobs that every
meaning uses.
-/

namespace Sys2Proof.Machine

/-! ### Registers (R18, R21) -/

/-- The value of a register field. -/
def rd (s : State) (f : Field) : Nat := tget f.reset s.regs f.key

/-- Set a register field; a value wider than the field is cut to it. -/
def wr (s : State) (f : Field) (v : Nat) : State :=
  { s with regs := tput f.reset s.regs f.key (v % 2 ^ f.width) }

/-- Advance a counter; it wraps at its width (R21). -/
def bump (s : State) (f : Field) (n : Nat) : State := wr s f (rd s f + n)

/-- Set or clear a one-bit field. -/
def wrb (s : State) (f : Field) (b : Bool) : State := wr s f (bnat b)

/-- A one-bit field reads 1. -/
def rdb (s : State) (f : Field) : Bool := rd s f == 1

/-- Set bits of a field that are 1 in `m`. -/
def orReg (s : State) (f : Field) (m : Nat) : State := wr s f (rd s f ||| m)

/-! ### The model's own fields -/

/-- Give something to the outside world. -/
def emit (s : State) (o : Output) : State := { s with out := o :: s.out }

/-- Draw one free value: a value that the spec leaves open. -/
def draw (w : Nat) (s : State) : BitVec w × State :=
  (Config.freeValue w s.freeCtr, { s with freeCtr := s.freeCtr + 1 })

/-- Draw `n` free bytes. -/
def drawBytes (n : Nat) (s : State) : Bytes × State :=
  ((List.range n).map (fun i => Config.freeValue 8 (s.freeCtr + i)), { s with freeCtr := s.freeCtr + n })

/-! ### The package-local physical map (R14, R15) -/

/-- What stands at a package-local physical address (Tables 1-5, 1-6). -/
inductive Place where
  /-- Tier 1: global quadrant and offset in its 12 GiB. -/
  | tier1 (G off : Nat)
  /-- Tier 2: offset. -/
  | tier2 (off : Nat)
  /-- Base-die scratchpad: global quadrant and offset in its 12 MiB. -/
  | spm (G off : Nat)
  /-- Hub scratchpad: offset. -/
  | hub (off : Nat)
  /-- Register space. -/
  | regs (off : Nat)
  | hole
  deriving DecidableEq, Repr

/-- Table 1-5 and Table 1-6. -/
def place (a : Nat) : Place :=
  if a < 0x9000000000 then
    .tier1 (4 * (a / 0xC00000000) + (a % 0xC00000000) / 0x300000000) (a % 0x300000000)
  else if 0x10000000000 ≤ a ∧ a < 0x18000000000 then .tier2 (a - 0x10000000000)
  else if 0x20000000000 ≤ a ∧ a < 0x20030000000 then
    let w := a - 0x20000000000
    if w % 0x4000000 < 0x3000000 then .spm (4 * (w / 0x4000000) + (w % 0x4000000) / 0xC00000) (w % 0x4000000 % 0xC00000)
    else .hole
  else if 0x20030000000 ≤ a ∧ a < 0x20034000000 then .hub (a - 0x20030000000)
  else if 0x30000000000 ≤ a ∧ a < 0x30004000000 then .regs (a - 0x30000000000)
  else .hole

/-- The address of offset `o` in the scratchpad of quadrant G (Table 1-6). -/
def spmAddr (G o : Nat) : Nat := 0x20000000000 + (G / 4) * 0x4000000 + (G % 4) * 0xC00000 + o

/-- The address of offset `o` in the tier-1 range of quadrant G (Table 1-5). -/
def t1Addr (G o : Nat) : Nat := (G / 4) * 0xC00000000 + (G % 4) * 0x300000000 + o

/-- The address of hub scratchpad offset `o`. -/
def hubAddr (o : Nat) : Nat := 0x20030000000 + o

/-- Memory stands at the address. -/
def populated (a : Nat) : Bool :=
  match place a with
  | .hole => false
  | .regs _ => false
  | _ => true

/-- What one byte of memory reads as. Memory that nothing has written reads as 0: the passes of R524 (Table 21-2) and
of R168 and R242 write zero before any user can read it. -/
def memByte (s : State) (a : Nat) : Byte := tget (0 : Byte) s.mem a

/-- The canonical form of memory. -/
def Memory.wf (m : List Host.Cell) : Bool := tabWf (0 : Byte) m

/-- Write one byte of a memory. A hole takes no write (R14). -/
def pokeMem (m : List Host.Cell) (a : Nat) (b : Byte) : List Host.Cell :=
  if populated a then tput (0 : Byte) m a b else m

/-- Write consecutive bytes of a memory. -/
def pokeBytes : List Host.Cell → Nat → Bytes → List Host.Cell
  | m, _, [] => m
  | m, a, b :: r => pokeBytes (pokeMem m a b) (a + 1) r

/-- Read `n` consecutive bytes. -/
def readMem (s : State) (a n : Nat) : Bytes := (List.range n).map (fun i => memByte s (a + i))

/-- Write consecutive bytes. -/
def writeMem (s : State) (a : Nat) (b : Bytes) : State := { s with mem := pokeBytes s.mem a b }

/-- The little-endian number of `n` bytes at an address. -/
def readNum (s : State) (a n : Nat) : Nat := leNat (readMem s a n)

/-- The word that holds the address reads as uncorrectable or poisoned. -/
def isBad (s : State) (a : Nat) : Bool := tget false s.bad (a / 8)

/-- Some word of the `n` bytes at `a` is bad. -/
def anyBad (s : State) (a n : Nat) : Bool :=
  n != 0 && (List.range ((a + n - 1) / 8 - a / 8 + 1)).any (fun i => tget false s.bad (a / 8 + i))

/-- Mark the word that holds the address bad or good. -/
def setBad (s : State) (a : Nat) (b : Bool) : State := { s with bad := tput false s.bad (a / 8) b }

/-- Mark every word of a range bad or good. -/
def setBadRange (s : State) (a n : Nat) (b : Bool) : State :=
  if n = 0 then s
  else { s with bad := (List.range ((a + n - 1) / 8 - a / 8 + 1)).foldl (fun t i => tput false t (a / 8 + i) b) s.bad }

/-- Zero a range of addresses and its error marks: what zeroing leaves (R168, R242, R524). -/
def zeroRange (s : State) (a n : Nat) : State :=
  { s with mem := s.mem.filter (fun c => decide (c.1 < a) || decide (a + n ≤ c.1)),
           bad := s.bad.filter (fun c => decide (c.1 < a / 8) || decide ((a + n + 7) / 8 ≤ c.1)) }

/-! ### Partitions, contexts and jobs -/

/-- Partition `p`. -/
def part (s : State) (p : Nat) : Part := tget Part.absent s.parts p

/-- Change partition `p`. -/
def modPart (s : State) (p : Nat) (f : Part → Part) : State := { s with parts := tmod Part.absent s.parts p f }

/-- Context of quadrant G. -/
def ctx (s : State) (G : Nat) : Ctx := tget Ctx.fresh s.ctxs G

/-- Change the context of quadrant G. -/
def modCtx (s : State) (G : Nat) (f : Ctx → Ctx) : State := { s with ctxs := tmod Ctx.fresh s.ctxs G f }

/-- The partition that owns quadrant G (R9), or 255. -/
def ownerOf (s : State) (G : Nat) : Nat :=
  match (List.range 32).find? (fun p => (part s p).present && (part s p).quads.contains G) with
  | some p => p
  | none => 255

/-- The partition that owns a control-core thread, or 255. -/
def threadOwner (s : State) (t : Nat) : Nat :=
  match (List.range 32).find? (fun p => (part s p).present && (part s p).threads.contains t) with
  | some p => p
  | none => 255

/-- A partition runs a job: STARTING, RUNNING or PAUSED (R433). -/
def JobState.busy : JobState → Bool
  | .starting => true
  | .running => true
  | .paused => true
  | _ => false

/-- The code of a job state in JOB_QUERY (Table 18-11). -/
def JobState.code : JobState → Nat
  | .idle => 0
  | .starting => 1
  | .running => 2
  | .paused => 3
  | .stopped => 4

/-- Some job runs on the package (R433). -/
def anyJob (s : State) : Bool := (List.range 32).any (fun p => (part s p).job.busy)

/-- The slice of partition `p`, 255 for none. -/
def sliceOf (s : State) (p : Nat) : Nat :=
  match (part s p).slice with
  | some b => b.id
  | none => 255

/-- This package's ID (R555). -/
def pkgId (s : State) : Nat := rd s Reg.KAO_PKG_ID

/-- The partition holds rank 0 of its slice (R426). -/
def isLead (s : State) (p : Nat) : Bool :=
  match (part s p).slice with
  | some b => b.rank == 0
  | none => false

/-- Context rank of quadrant G in its partition (R420). -/
def ctxRank (s : State) (G : Nat) : Nat := ((part s (ownerOf s G)).quads.takeWhile (· != G)).length

/-- A section of the partition's image, empty where absent. -/
def sectionOf (im : Image) (ty cx : Nat) : Bytes :=
  match im.sections.find? (fun x => x.type == ty && x.ctx == cx) with
  | some x => x.bytes
  | none => []

/-- The 64-byte SHARES section of the partition's image (R445). -/
def sharesOf (s : State) (p : Nat) : Bytes :=
  match (part s p).image with
  | some im => sectionOf im 0x0D 255
  | none => []

/-- A stop falls due at the next tick for a job that runs; a thermal trip goes before a floor stop (R515). -/
def stopJob (s : State) (p st : Nat) : State :=
  if (part s p).job.busy then
    modPart s p (fun q =>
      { q with stopDue := match q.stopDue with
                          | some o => if o = 0x05C1 ∧ st = 0x05C2 then some st else some o
                          | none => some st })
  else s

/-- A stop falls due for every job on the package. -/
def stopAll (s : State) (st : Nat) : State := (List.range 32).foldl (fun s p => stopJob s p st) s

/-- Add to an accounting counter of the frame's accumulator (R441). -/
def account (s : State) (p off n : Nat) : State :=
  modPart s p (fun q => { q with accum := tmod 0 q.accum off (fun v => (v + n) % 2 ^ 64) })

/-- Add energy to the frame's accumulator, in pJ (R517). -/
def energy (s : State) (p pj : Nat) : State := modPart s p (fun q => { q with accumPj := q.accumPj + pj })

/-- Exchange the frame's accumulator with that of work outside frames (R441). -/
def swapAccum (p : Nat) (s : State) : State :=
  modPart s p (fun q => { q with accum := q.outAcc, accumPj := q.outPj, outAcc := q.accum, outPj := q.accumPj })

/-- An effect whose accounting is work outside frames. -/
def outside (p : Nat) (f : State → State) (s : State) : State := swapAccum p (f (swapAccum p s))

/-! ### Time -/

/-- ns since the current tick: the slot grid is as fine as the model's time (R26). -/
def inFrameNs (s : State) : Nat := rd s Reg.TICK_SLOT * 100

/-- Caliche's UTC time (R482). -/
def calUtc (s : State) : Nat := (((s.cal.upNs + inFrameNs s : Nat) : Int) + s.cal.utcOff).toNat % 2 ^ 64

/-- Appliance time, ns (R341). -/
def applTime (s : State) : Nat := s.tick.applNs + inFrameNs s

/-- The frame counter as reports carry it (R5); 0 before the first election (R459). -/
def frameNo (s : State) : Nat := rd s Reg.TICK_FRAME_LO

/-- The FRAME field of an event record (R459). -/
def eventFrame (s : State) : Nat := if rd s Reg.TICK_MASTER_ID = 255 then 0 else frameNo s

/-- Power state code (R461). -/
def pstate (s : State) : Nat := rd s Reg.SEQ_STATE

/-- Enter a power state; KAOLIN_STATUS reports the same code (R522). -/
def setPstate (s : State) (n : Nat) : State := wr (wr s Reg.SEQ_STATE n) Reg.KAO_POWER_STATE n

/-- The package is frozen (R556). -/
def frozen (s : State) : Bool := rdb s Reg.KAO_FROZEN

/-! ### Units (Table 1-3, R467, R485) -/

/-- How many units of a type there are; 0 where a type has no numbers. -/
def unitCount : Nat → Nat
  | 0 => 144
  | 1 => 2304
  | 2 => 3072
  | 3 => 192
  | 4 => 48
  | 5 => 24
  | 6 => 1152
  | 7 => 1280
  | 8 => 16
  | 9 => 256
  | 10 => 4
  | 11 => 32
  | 12 => 112
  | 13 => 12
  | 14 => 9
  | 15 => 1
  | _ => 0

/-- The unit exists; hub banks start at 1,152 (Table 1-3). -/
def unitExists (ty n : Nat) : Bool := n < unitCount ty && (ty != 7 || 1152 ≤ n)

/-- The quadrants a unit belongs to or serves (Tables 1-2, 19-3). -/
def unitQuads (ty n : Nat) : List Nat :=
  match ty with
  | 0 => (List.range 4).map (fun q => 4 * (n / 12) + q)
  | 1 => [4 * (n / 192) + (n % 16) / 4]
  | 2 => [4 * (n / 256) + (n % 256) / 64]
  | 3 => [4 * (n / 16) + (n % 16) / 4]
  | 4 => [n]
  | 5 => [4 * (n / 2) + 2 * (n % 2), 4 * (n / 2) + 2 * (n % 2) + 1]
  | 6 => [4 * (n / 96) + (n % 96) / 24]
  | 13 => (List.range 4).map (fun q => 4 * n + q)
  | _ => []

/-- The control-core threads a unit carries (Table 19-3). -/
def unitThreads (ty n : Nat) : List Nat :=
  match ty with
  | 8 => (List.range 16).map (fun t => 16 * n + t)
  | 9 => [n]
  | 10 => (List.range 64).map (fun t => 64 * n + t)
  | _ => []

/-- The sensor nearest a unit (R513). -/
def unitSensor (ty n : Nat) : Nat :=
  match ty with
  | 0 => 56 + n
  | 1 => 56 + 12 * (n / 192) + (n % 192) / 16
  | 12 => 200 + 2 * (n / 28)
  | 13 => 8 + 4 * n
  | 2 | 3 | 4 | 5 | 6 => 8 + (unitQuads ty n).headD 0
  | _ => 0

/-- The regulator of a unit's rail (Table 21-3), 255 where none is named. -/
def unitRail (ty n : Nat) : Nat :=
  match ty with
  | 0 => 4
  | 1 | 2 | 3 | 4 | 5 | 6 | 13 => if (unitQuads ty n).headD 0 / 4 < 6 then 1 else 2
  | 11 => 6
  | 12 => 3
  | 15 => 255
  | _ => 0

/-- Entry `i` of the fence table names the unit (R487). -/
def fenceHit (s : State) (i ty n : Nat) : Bool :=
  rdb s (Reg.CAL_FENCE_V i) && rd s (Reg.CAL_FENCE_TYPE i) == ty && rd s (Reg.CAL_FENCE_UNIT i) == n

/-- The unit stands in the fence table. -/
def inFenceTable (s : State) (ty n : Nat) : Bool := (List.range 256).any (fun i => fenceHit s i ty n)

/-- The units listed in the fence table. -/
def fencedUnits (s : State) : List (Nat × Nat) :=
  ((List.range 256).filter (fun i => rdb s (Reg.CAL_FENCE_V i))).map
    (fun i => (rd s (Reg.CAL_FENCE_TYPE i), rd s (Reg.CAL_FENCE_UNIT i)))

/-- The units whose fence holds: those of the table, and those whose unfence waits for the next tick (R490). -/
def heldUnits (s : State) : List (Nat × Nat) :=
  fencedUnits s ++ (s.cal.pendFence.filter (fun r => !r.fence)).map (fun r => (r.unitType, r.unit))

/-- A quadrant holds a fenced unit (R94, R120, R157): it is unassignable. -/
def quadFenced (s : State) (G : Nat) : Bool :=
  (heldUnits s).any (fun u => u.1 ≤ 6 && (unitQuads u.1 u.2).contains G)

/-- A thread is fenced (Table 19-3). -/
def threadFenced (s : State) (t : Nat) : Bool := (heldUnits s).any (fun u => (unitThreads u.1 u.2).contains t)

/-- The partitions with a job that uses a unit (R487, R488). Engines of the hub are used by the jobs whose SHARES
section reserves them; the tick unit, the router, Kaolin and the host interface by every job. -/
def jobsOfUnit (s : State) (ty n : Nat) : List Nat :=
  (List.range 32).filter (fun p =>
    let q := part s p
    let sh := sharesOf s p
    q.job.busy &&
      (if ty = 14 then
        (match n with
         | 1 => numAt sh 10 2 != 0
         | 2 => numAt sh 2 2 != 0
         | 3 => numAt sh 8 2 != 0
         | 5 => numAt sh 12 2 != 0
         | 7 => numAt sh 4 2 != 0
         | _ => true)
       else if ty = 13 then numAt sh (16 + 2 * n) 2 != 0 || (unitQuads ty n).any (q.quads.contains ·)
       else if ty = 11 then numAt sh 6 2 != 0
       else if ty = 7 then (bits (rd s (Reg.SPM_HUB_OWNER ((n - 1152) / 4))) (8 * ((n - 1152) % 4)) 8 &&& 0x9F) == 128 + p
       else if ty = 15 then true
       else (unitQuads ty n).any (q.quads.contains ·) || (unitThreads ty n).any (q.threads.contains ·)))

/-! ### Events (R459, R460, R469) -/

/-- The destinations of an event about partition `p` (R460): 2 + p its VF ring, 0 and 1 the PF rings, 34 management. Below
HUB_UP only the management mailbox is served (Table 21-1). -/
def eventDests (s : State) (p : Nat) : List Nat :=
  if pstate s < 2 then [34]
  else if p < 32 then (if (part s p).present then [2 + p] else []) ++ [(part s p).port, 34] else [0, 1, 34]

/-- The mailbox of a window. -/
def mbox (s : State) (m : Nat) : Mailbox := tget Mailbox.zero s.mbs m

/-- Change a mailbox. -/
def modMbox (s : State) (m : Nat) (f : Mailbox → Mailbox) : State := { s with mbs := tmod Mailbox.zero s.mbs m f }

/-- Raise an MSI-X vector of a function: 0, 1 the PFs, 2 + p VF p (R542). -/
def msix (s : State) (fn v : Nat) : State := emit s (.msix fn v)

/-- Write an event's records to a ring, or drop them together (R459, R460). -/
def ringEvent (s : State) (m : Nat) (recs : List Bytes) : State :=
  let b := mbox s m
  if subMod 16 b.evTail b.evHead + recs.length ≤ 1024 then
    msix (modMbox s m (fun b =>
        { b with ev := (recs.zip (List.range recs.length)).foldl
                         (fun t r => tput [] t ((b.evTail + r.2) % 1024) r.1) b.ev,
                 evTail := (b.evTail + recs.length) % 2 ^ 16 }))
      m (if m < 2 then 1 else 0)
  else modMbox s m (fun b => { b with evLost := (b.evLost + 1) % 2 ^ 32, err := b.err ||| 8 })

/-- Send an event's records to the management subscribers, one datagram each (R453, R460). -/
def mgmtEvent (s : State) (recs : List Bytes) : State :=
  s.kao.subs.foldl
    (fun s d => emit s (.datagram d
      (leBytes 4 0x4D424F58 ++ [1, 0x80] ++ leBytes 2 recs.length ++ leBytes 4 0 ++ leBytes 4 0 ++
        List.replicate 16 0 ++ joinBytes recs))) s

/-- Deliver one event to one destination: its SEQ is used even where it is dropped (R460). -/
def deliver (src code p : Nat) (payload : Nat → Bytes) (ext : List Bytes) (s : State) (d : Nat) : State :=
  let n := tget 0 s.kao.seq (src * 64 + d)
  let c := tget 0 s.kao.undelivered (code * 64 + d) + 1
  let r : Bytes := leBytes 2 src ++ leBytes 4 n ++ leBytes 2 code ++ leBytes 6 (eventFrame s) ++ leBytes 1 p ++
    leBytes 1 ext.length ++ padTo 16 (payload c)
  let recs := r :: ext.map (padTo 32)
  let fits : Bool := d == 34 || decide (subMod 16 (mbox s d).evTail (mbox s d).evHead + recs.length ≤ 1024)
  let s := { s with kao := { s.kao with seq := tput 0 s.kao.seq (src * 64 + d) ((n + 1) % 2 ^ 32),
                                        undelivered := tput 0 s.kao.undelivered (code * 64 + d) (if fits then 0 else c) } }
  if d = 34 then mgmtEvent s recs else ringEvent s d recs

/-- Raise an event whose payload depends on the count of events of the code (R469). Kaolin raises none while its cores
are held in reset or the clocks are stopped. -/
def raiseWith (src code p : Nat) (payload : Nat → Bytes) (ext : List Bytes) (s : State) : State :=
  if s.kao.down || frozen s then s
  else (eventDests s p).foldl (deliver src code p payload ext) (bump s Reg.KAO_EVENT_CNT 1)

/-- Raise a named event (codes 0x80xx of Table 18-19), source Kaolin. -/
def raise (code p : Nat) (payload : Bytes) (s : State) : State := raiseWith 0 code p (fun _ => payload) [] s

/-- Raise the event of a register bit (R469): unit, address and the index of the error record. -/
def raiseBit (src code p unit addr idx : Nat) (s : State) : State :=
  raiseWith src code p (fun c => leBytes 2 unit ++ leBytes 6 addr ++ leBytes 4 c ++ leBytes 4 idx) [] s

/-- No error record (R469). -/
def noRecord : Nat := 0xFFFFFFFF

/-- Set a bit of a block's event or error register and raise its event. -/
def setEvent (f : Field) (src code p unit addr idx : Nat) (s : State) : State :=
  raiseBit src code p unit addr idx (wr s f 1)

/-- A set bit of TICK_EVENT (code 0x01xx, source 1). -/
def tickEvent (f : Field) (b : Nat) (s : State) : State := setEvent f 1 (0x0100 + b) 255 0 0 noRecord s

/-- A set bit of PWR_EVENT or SEQ_EVENT (codes 0x12xx, source 8). -/
def pwrEvent (f : Field) (b : Nat) (s : State) : State := setEvent f 8 (0x1200 + b) 255 0 0 noRecord s

/-- A set bit of HOSTIF_EVENT (code 0x14xx, source 10). -/
def hifEvent (f : Field) (b : Nat) (s : State) : State := setEvent f 10 (0x1400 + b) 255 0 0 noRecord s

/-- An urgent condition of a host port (Table 22-3): its bit is set, and the vector raised once per setting (R542). -/
def urgent (x b : Nat) (s : State) : State :=
  if bit (rd s (Reg.HIF_HOSTIF_URGENT x)) b then s
  else msix (orReg s (Reg.HIF_HOSTIF_URGENT x) (2 ^ b)) x (b + 2)

/-- An urgent condition of both host ports. -/
def urgentBoth (b : Nat) (s : State) : State := urgent 1 b (urgent 0 b s)

/-- An OK_PENDING operation's outcome (R458): one event, and the operation is over. An operation that COMMAND_INTERRUPTED has
ended has no other (R468, R484). -/
def outcome (id code : Nat) (p : Nat) (payload : Bytes) (ext : List Bytes) (s : State) : State :=
  if s.kao.ops.any (·.id == id) then
    raiseWith 0 code p (fun _ => payload) ext { s with kao := { s.kao with ops := s.kao.ops.filter (·.id != id) } }
  else s

/-! ### Error records (R475, R485–R493) -/

/-- A CAL_EVENT bit (R499): set, its event raised, and the record it goes with remembered. -/
def calEvent (f : Field) (b idx : Nat) (s : State) : State :=
  let s := setEvent f 9 (0x1300 + b) 255 0 0 idx s
  { s with cal := { s.cal with evRec := tput 0 s.cal.evRec b (idx + 1) } }

/-- The key of a unit's counters. -/
def unitKey (ty n : Nat) : Nat := ty * 65536 + n

/-- The indices of the oldest record kept and of the next record are those of the log (R493); records overwritten
before delivery are counted (R495). -/
def pushRecord (s : State) (r : ErrRec) : State :=
  let lost : Bool := decide (4096 ≤ s.cal.log.length) && decide (rd s Reg.CAL_DELIVERED ≤ rd s Reg.CAL_LOG_OLDEST)
  let n := rd s Reg.CAL_LOG_NEXT
  let s := { s with cal := { s.cal with log := (r :: s.cal.log).take 4096 } }
  let s := wr (wr s Reg.CAL_LOG_NEXT (n + 1)) Reg.CAL_LOG_OLDEST (n + 1 - min (n + 1) 4096)
  if lost then calEvent Reg.CAL_EV_STAEM_LOST 6 n (bump s Reg.CAL_STAEM_LOST_CNT 1) else s

/-- The fence table has a free entry beside the fences that wait. -/
def fenceRoom (s : State) : Bool :=
  decide ((fencedUnits s).length + (s.cal.pendFence.filter (·.fence)).length < 256)

/-- Caliche writes one record (R485, R486, R487): the unit's counter gains, the record is classified against the
threshold of the unit's type, and a LASTING classification takes the policy action. `r.severity` is the severity without
the counter: 0, 1 or 3, or 2 for a failed self-test (R524). -/
def writeRecord (r : ErrRec) (feeds : Bool) (s : State) : State :=
  let k := unitKey r.unitType r.unit
  let ce := if r.severity = 0 then tget 0 s.cal.ceSecond k + 1 else tget 0 s.cal.ceSecond k
  let rateGain : Bool := r.severity == 0 && decide (64 < ce) && !tget false s.cal.ceGained k
  let gain : Bool := feeds && (r.severity != 0 || rateGain)
  let cnt := tget 0 s.cal.leaky k
  let cnt' := if gain then min 15 (cnt + 1) else cnt
  let lasting : Bool := r.severity == 2 || (gain && decide (rd s (Reg.CAL_THRESHOLD r.unitType) ≤ cnt'))
  let act := rd s (Reg.CAL_ACTION r.unitType)
  let room := fenceRoom s || inFenceTable s r.unitType r.unit
  let fences : Bool := lasting && act == 2 && room && !inFenceTable s r.unitType r.unit
  let stops : Bool := lasting && (act == 1 || (act == 2 && !room))
  let idx := rd s Reg.CAL_LOG_NEXT
  let fl := r.flags ||| (if fences then 4 else 0) ||| (if lasting && act == 2 && !room then 32 else 0)
  let sev := if r.severity = 3 then 3 else if lasting then 2 else r.severity
  let rec' : ErrRec := { r with
    index := idx, severity := sev, leaky := cnt', flags := fl,
    time := if r.time = 0 then calUtc s else r.time,
    temp := if r.temp = 0 then rd s (Reg.PWR_TEMP (unitSensor r.unitType r.unit)) else r.temp,
    volt := if r.volt = 0 ∧ unitRail r.unitType r.unit < 8 then rd s (Reg.PWR_VOUT_MV (unitRail r.unitType r.unit))
            else r.volt,
    rail := if r.rail = 256 then unitRail r.unitType r.unit else r.rail }
  let s := { s with cal := { s.cal with
    leaky := tput 0 s.cal.leaky k cnt',
    ceSecond := tput 0 s.cal.ceSecond k ce,
    ceGained := if rateGain then tput false s.cal.ceGained k true else s.cal.ceGained } }
  let s := pushRecord s rec'
  let s := if sev = 3 then urgentBoth 1 s else s
  let s := if sev = 2 then bump s Reg.CAL_LASTING_CNT 1 else s
  let s := if lasting then calEvent Reg.CAL_EV_LASTING 4 idx s else s
  let s := if fences then
      calEvent Reg.CAL_EV_FENCE 5 idx
        { s with cal := { s.cal with pendFence := s.cal.pendFence ++ [⟨r.unitType, r.unit, true⟩] } }
    else s
  if stops then (jobsOfUnit s r.unitType r.unit).foldl (fun s p => stopJob s p 0x05E5) s else s

/-- An error source latches an event and raises its line (R475). Caliche reads the latch at once and writes the record
where it runs; while it restarts or the clocks are stopped, the latch holds the first event and the latest one. -/
def report (r : ErrRec) (feeds : Bool) (s : State) : State :=
  if s.cal.restarting || s.cal.lasting || frozen s then
    let k := r.source * 4294967296 + unitKey r.unitType r.unit
    let r := { r with time := calUtc s }
    let ls : List (Nat × ErrLatch) :=
      if s.cal.latches.any (fun e => e.1 == k) then
        s.cal.latches.map (fun e => if e.1 = k then (k, { e.2 with latest := r, count := e.2.count + 1 }) else e)
      else s.cal.latches ++ [(k, ⟨r, r, feeds, 1⟩)]
    { s with cal := { s.cal with latches := ls } }
  else writeRecord r feeds s

/-- A record's fields that most sources fill: unit, severity, source, code, operation, partition, flags, status, address
and syndrome; the rest is taken when the record is written. -/
def mkRec (s : State) (ty n sev src code op p flags st addr : Nat) (synd : Bytes) : ErrRec :=
  { index := 0, unitType := ty, severity := sev, unit := n, source := src, code := code, op := op, part := p, leaky := 0,
    flags := flags, frame := frameNo s, status := st, time := 0, temp := 0, volt := 0, rail := 256, addr := addr,
    synd := synd }

/-- The index the next record will have, for the event that goes with it. -/
def nextIdx (s : State) : Nat :=
  if s.cal.restarting || s.cal.lasting || frozen s then noRecord else rd s Reg.CAL_LOG_NEXT

/-- A register-bit error of a unit: the bit, the record and the event (R469, R475). -/
def unitError (f : Field) (src code ty n sev op p flags addr : Nat) (synd : Bytes) (feeds : Bool) (s : State) : State :=
  let idx := nextIdx s
  raiseBit src code p n addr idx (report (mkRec s ty n sev src code op p flags 0 addr synd) feeds (wr s f 1))

/-! ### Frames that fail (R44, R46) -/

/-- The partition runs frames. -/
def runs (s : State) (p : Nat) : Bool := (part s p).job == .running

/-- KINDs of an abort (Table 11-6): 0 COUNTED, 1 ONE, 2 FLOOR. -/
def abortKind (one : Bool) : Nat := if one then 1 else 0

/-- The bitmap of a KIND gains a slice. -/
def markAbort (t : TickUnit) (k sl : Nat) : TickUnit :=
  match k with
  | 0 => { t with counted := insertAsc sl t.counted }
  | 1 => { t with one := insertAsc sl t.one }
  | _ => { t with floorB := insertAsc sl t.floorB }

/-- The links in service. -/
def upLinks (s : State) : List Nat := (List.range 96).filter (fun l => rd s (Reg.LINK_STATE l) == 6)

/-- Send a control symbol of a TYPE with its fields from byte 1 on a list of links (R266, R267). -/
def sendSymbol (ls : List Nat) (type : Nat) (fields : Bytes) (s : State) : State :=
  ls.foldl (fun s l => emit s (.symbol l (padTo 44 (leBytes 1 type ++ fields)))) s

/-- The merged bitmap of a KIND in the running frame. -/
def abortMap (s : State) (k : Nat) : List Nat :=
  match k with
  | 0 => s.tick.counted
  | 1 => s.tick.one
  | _ => s.tick.floorB

/-- Send the bitmap of a KIND on every UP link, twice (R267). -/
def floodAbort (k : Nat) (s : State) : State :=
  let ls := upLinks s
  let f := leBytes 1 k ++ leBytes 2 (frameNo s) ++ leBytes 32 (bitmap (abortMap s k))
  bump (sendSymbol ls 2 f (sendSymbol ls 2 f s)) Reg.RTR_ABORT_SENT_CNT (2 * ls.length)

/-- Send the abort of a slice and the current frame with a KIND: the bitmap goes out whenever it gains a slice (R44,
R267). -/
def sendAbort (sl k : Nat) (s : State) : State :=
  if (abortMap s k).contains sl then s
  else floodAbort k { s with tick := markAbort s.tick k sl }

/-- A condition fails the running frame of a partition (R44): it is kept in order of detection, and the abort is sent. -/
def failFrame (p : Nat) (c : Condition) (s : State) : State :=
  if runs s p then
    sendAbort (sliceOf s p) (abortKind c.one) (modPart s p (fun q => { q with conds := q.conds ++ [c] }))
  else s

/-- The running frame of the partition has failed. -/
def frameFailed (s : State) (p : Nat) : Bool := !(part s p).conds.isEmpty || (part s p).floorFail

/-- Fail the frame of the context of quadrant G. -/
def failCtx (G st : Nat) (one : Bool) (s : State) : State :=
  failFrame (ownerOf s G) ⟨st, one, 5, 2 * (G / 4) + (G % 4) / 2⟩ s

end Sys2Proof.Machine
end

