-- ==== Sys2Proof/Machine/Image.lean ====
section
/-!
DEFINITION. The sections of an image part as a running job reads them (R427, R428, R445): phases, programs and guards.
-/

namespace Sys2Proof.Machine

/-! ### The image part -/

/-- A section of the image that a partition's job runs, empty where it has none. -/
def jobSection (s : State) (p ty cx : Nat) : Bytes :=
  match (part s p).image with
  | some im => sectionOf im ty cx
  | none => []

/-- The phase that a frame with phase counter `c` runs (R428). -/
def phaseIndex (im : Image) (c : Nat) : Nat :=
  if c < im.nstart then c else im.nstart + (c - im.nstart) % (im.nphase - im.nstart)

/-- The phase that the running frame of a partition runs. -/
def phaseOf (s : State) (p : Nat) : Nat :=
  match (part s p).image with
  | some im => phaseIndex im (part s p).phase
  | none => 0

/-- First entry and count of a phase in a section with a phase table. -/
def phaseSpan (b : Bytes) (ph : Nat) : Nat × Nat := (numAt b (8 * ph) 4, numAt b (8 * ph + 4) 4)

/-- The entries of a phase in a section with a phase table and entries of `z` bytes. -/
def phaseEntries (im : Image) (ty cx ph z : Nat) : List Bytes :=
  let b := sectionOf im ty cx
  let f := phaseSpan b ph
  (List.range f.2).map (fun i => bytesAt b (8 * im.nphase + z * (f.1 + i)) z)

/-- The commands of a context's phase: 128-bit values (Table 17-9). -/
def programOf (im : Image) (cx ph : Nat) : List Nat := (phaseEntries im 0x01 cx ph 16).map leNat

/-- The guard entries attached to program index `pc` in the running phase of a context: entry index and entry (R145,
R147). -/
def guardsAt (s : State) (G pc : Nat) : List (Nat × Bytes) :=
  match (part s (ownerOf s G)).image with
  | some im =>
    let es := phaseEntries im 0x02 (ctxRank s G) (phaseOf s (ownerOf s G)) 32
    ((List.range es.length).zip es).filter (fun e => numAt e.2 0 2 % 2 ^ 14 == pc)
  | none => []

end Sys2Proof.Machine
end

