-- ==== Sys2Proof/Machine/Mailbox.lean ====
section
/-!
DEFINITION. The mailbox machinery of chapter 18: the command table (Tables 18-10 to 18-18), the check order of R457,
completions (R451), the kept responses of the management mailbox (R455) and operations that end later (R458).
-/

namespace Sys2Proof.Machine

/-! ### Entries -/

/-- The number in bytes `o` to `o + n − 1` of a submission entry; arguments start at byte 8 (Table 18-6). -/
def arg (e : Entry) (o n : Nat) : Nat := numAt e.args (o - 8) n

/-- Flag F8 + i (Table 18-6). -/
def flag (e : Entry) (i : Nat) : Bool := bit e.flags i

/-- The window of the source's mailbox: 0, 1 the PFs, 2 + p VF p, 34 management. -/
def srcBox : Src → Nat
  | .pf x => x
  | .vf p => 2 + p
  | .mgmt _ _ _ => 34

/-- The host port a source acts on. -/
def srcPort (s : State) : Src → Nat
  | .pf x => x
  | .vf p => (part s p).port
  | .mgmt _ _ _ => 2

/-- The command came over the management port. -/
def isMgmt (e : Entry) : Bool :=
  match e.src with
  | .mgmt _ _ _ => true
  | _ => false

/-- The command came through a PF. -/
def isPf (e : Entry) : Bool :=
  match e.src with
  | .pf _ => true
  | _ => false

/-- The command came through a VF. -/
def isVf (e : Entry) : Bool :=
  match e.src with
  | .vf _ => true
  | _ => false

/-- The input buffer of a command: inline data on the management mailbox (R454), host memory otherwise. -/
def inputOf (e : Entry) (io : HostIo) (n : Nat) : Option Bytes :=
  match e.src with
  | .mgmt _ _ inl => some (inl.take n)
  | _ => io.rd.map (·.take n)

/-- A row of the command tables: opcode, sources, named flags, named argument bytes (offset, count), masks of bytes
that only name some bits, the IOVA argument, and whether the row addresses a partition. -/
structure CmdRow where
  op : Nat
  srcP : Bool
  srcV : Bool
  srcM : Bool
  flags : Nat
  args : List (Nat × Nat)
  masks : List (Nat × Nat)
  iova : Option Nat
  part : Bool
  deriving DecidableEq, Repr

namespace Row
/-! Tables 18-10 to 18-18. -/
def devIdentify : CmdRow := ⟨0x0101, true, true, true, 0, [], [], none, false⟩
def devGetState : CmdRow := ⟨0x0102, true, true, true, 0, [], [], none, false⟩
def devSetPowerState : CmdRow := ⟨0x0103, false, false, true, 0, [(8, 1), (12, 4)], [], none, false⟩
def devGetTelemetry : CmdRow := ⟨0x0104, true, false, true, 0, [(8, 8), (16, 4)], [], some 8, false⟩
def devSetTime : CmdRow := ⟨0x0105, false, false, true, 0, [(8, 8)], [], none, false⟩
def partCreate : CmdRow := ⟨0x0201, true, false, true, 0, [(8, 1)], [], none, true⟩
def partDestroy : CmdRow := ⟨0x0202, true, false, true, 0, [], [], none, true⟩
def partAssign : CmdRow := ⟨0x0203, true, false, true, 0, [(8, 1), (10, 2), (12, 4), (16, 4), (20, 2)], [], none, true⟩
def jobStart : CmdRow := ⟨0x0204, true, true, true, 1, [(8, 1), (12, 4), (16, 8), (24, 8)], [], none, true⟩
def jobStop : CmdRow := ⟨0x0205, true, true, true, 0, [(8, 1), (10, 2)], [], none, true⟩
def jobQuery : CmdRow := ⟨0x0206, true, true, true, 0, [(8, 1)], [], none, true⟩
def partAccounting : CmdRow := ⟨0x0207, true, true, true, 0, [(8, 8), (16, 4)], [], some 8, true⟩
def modelDeclare : CmdRow := ⟨0x0301, true, true, false, 0, [(8, 8), (16, 4), (24, 8)], [], some 8, true⟩
def weightLoadShard : CmdRow := ⟨0x0302, true, true, true, 0, [(8, 1), (12, 4), (16, 8), (24, 8)], [], none, true⟩
def weightVerify : CmdRow := ⟨0x0303, true, true, true, 0, [(8, 2), (10, 2)], [], none, true⟩
def replaceBegin : CmdRow :=
  ⟨0x0304, false, true, false, 0, [(8, 8), (16, 4), (20, 1), (24, 4), (32, 8), (40, 4)], [], some 32, true⟩
def replaceLayer : CmdRow := ⟨0x0305, false, true, false, 0, [(8, 1), (12, 4), (16, 8), (24, 8)], [], none, true⟩
def replaceEnd : CmdRow := ⟨0x0306, false, true, false, 1, [], [], none, true⟩
def keyInstall : CmdRow :=
  ⟨0x0307, true, true, true, 0, [(8, 4), (12, 4), (16, 1), (24, 8), (32, 4)], [], some 24, true⟩
def reqSubmit : CmdRow := ⟨0x0401, false, true, false, 1, [(8, 8), (16, 4)], [], some 8, true⟩
def reqCancel : CmdRow := ⟨0x0402, false, true, false, 0, [(8, 4)], [], none, true⟩
def reqQuery : CmdRow := ⟨0x0403, false, true, false, 1, [(8, 4), (16, 8)], [], some 16, true⟩
def queueConfig : CmdRow := ⟨0x0404, true, true, true, 1, [(8, 1), (9, 1), (10, 2)], [], none, true⟩
def streamBind : CmdRow := ⟨0x0405, false, true, false, 1, [(8, 2), (16, 8), (24, 8)], [], none, true⟩
def admissionConfig : CmdRow :=
  ⟨0x0406, true, true, false, 0, [(8, 2), (10, 2), (12, 1), (14, 2), (16, 8), (24, 2), (28, 4)], [(12, 3)], none, true⟩
def sessionFallow : CmdRow := ⟨0x0501, false, true, false, 0, [(8, 4), (12, 1), (16, 4)], [], none, true⟩
def sessionThaw : CmdRow := ⟨0x0502, false, true, false, 1, [(8, 4), (16, 8), (24, 1), (32, 8)], [], some 32, true⟩
def sessionExport : CmdRow := ⟨0x0503, false, true, false, 0, [(8, 8), (16, 1), (24, 8), (32, 8)], [], some 24, true⟩
def sessionImport : CmdRow := ⟨0x0504, false, true, false, 0, [(8, 1), (16, 8), (24, 8)], [], some 16, true⟩
def sessionDiscard : CmdRow := ⟨0x0505, false, true, false, 7, [(8, 4), (16, 8), (24, 1)], [], none, true⟩
def topoLoadMap : CmdRow := ⟨0x0601, false, false, true, 0, [(8, 8), (16, 4)], [], some 8, false⟩
def topoVerify : CmdRow := ⟨0x0602, true, false, true, 0, [], [], none, false⟩
def linkQuery : CmdRow := ⟨0x0603, true, false, true, 0, [(8, 1)], [], none, false⟩
def groupWrite : CmdRow := ⟨0x0604, true, true, true, 0, [(8, 1), (9, 1), (12, 4), (16, 8)], [(9, 1)], some 16, true⟩
def tickConfig : CmdRow := ⟨0x0605, false, false, true, 0, [(8, 4)], [(10, 0x7F), (9, 0x0F), (11, 0)], none, false⟩
def sliceBind : CmdRow :=
  ⟨0x0606, false, false, true, 0, [(8, 1), (10, 2), (12, 2), (16, 8), (24, 4)], [], some 16, true⟩
def pwrSetCap : CmdRow := ⟨0x0701, false, false, true, 0, [(8, 2)], [], none, false⟩
def pwrSetMode : CmdRow := ⟨0x0702, false, false, true, 0, [(8, 1)], [], none, false⟩
def pwrDomain : CmdRow := ⟨0x0703, false, false, true, 0, [(8, 1), (9, 1)], [], none, false⟩
def energyRead : CmdRow := ⟨0x0704, true, true, true, 0, [(8, 1), (9, 1)], [], none, true⟩
def faultLogRead : CmdRow := ⟨0x0801, true, false, true, 0, [(8, 4), (12, 2), (16, 8)], [], some 16, false⟩
def faultPolicySet : CmdRow := ⟨0x0802, false, false, true, 0, [(8, 1), (9, 1), (10, 1)], [], none, false⟩
def scrubConfig : CmdRow := ⟨0x0803, false, false, true, 0, [(8, 1), (9, 1), (12, 4)], [(9, 1)], none, false⟩
def replicaCompareConfig : CmdRow :=
  ⟨0x0804, true, true, false, 0, [(8, 1), (9, 1), (10, 2), (12, 14)], [(8, 3)], none, true⟩
def unitFence : CmdRow := ⟨0x0805, false, false, true, 0, [(8, 1), (10, 2)], [], none, false⟩
def unitUnfence : CmdRow := ⟨0x0806, false, false, true, 0, [(8, 1), (10, 2)], [], none, false⟩
def freeze : CmdRow := ⟨0x0901, false, false, true, 0, [], [], none, false⟩
def clockRelease : CmdRow := ⟨0x0902, false, false, true, 0, [], [], none, false⟩
def scanRead : CmdRow := ⟨0x0903, false, false, true, 0, [(8, 2), (12, 4), (16, 2)], [], none, false⟩
def diagRun : CmdRow := ⟨0x0904, false, false, true, 0, [(8, 2), (10, 1), (12, 2)], [], none, false⟩

/-- Every row, in opcode order. -/
def all : List CmdRow :=
  [devIdentify, devGetState, devSetPowerState, devGetTelemetry, devSetTime, partCreate, partDestroy, partAssign,
   jobStart, jobStop, jobQuery, partAccounting, modelDeclare, weightLoadShard, weightVerify, replaceBegin,
   replaceLayer, replaceEnd, keyInstall, reqSubmit, reqCancel, reqQuery, queueConfig, streamBind, admissionConfig]
  ++ [sessionFallow, sessionThaw, sessionExport, sessionImport, sessionDiscard, topoLoadMap, topoVerify, linkQuery,
   groupWrite, tickConfig, sliceBind, pwrSetCap, pwrSetMode, pwrDomain, energyRead, faultLogRead, faultPolicySet,
   scrubConfig, replicaCompareConfig, unitFence, unitUnfence, freeze, clockRelease, scanRead, diagRun]
end Row

/-! ### Checks (R457) -/

/-- The command's row takes the source (R446). -/
def sourceOk (r : CmdRow) (e : Entry) : Bool :=
  match e.src with
  | .pf _ => r.srcP
  | .vf _ => r.srcV
  | .mgmt _ _ _ => r.srcM

/-- Byte `o` of the entry lies in a named argument. -/
def namedByte (r : CmdRow) (o : Nat) : Bool := r.args.any (fun a => decide (a.1 ≤ o) && decide (o < a.1 + a.2))

/-- Bits of byte `o` that the row names. -/
def byteMask (r : CmdRow) (o : Nat) : Nat :=
  if namedByte r o then
    match r.masks.find? (fun m => m.1 == o) with
    | some m => m.2
    | none => 255
  else 0

/-- Every reserved field of the entry is 0 (R4, R456). -/
def reservedOk (r : CmdRow) (e : Entry) : Bool :=
  e.resv4 == 0 && e.resv7 == 0 && (e.flags &&& (255 - r.flags)) == 0 &&
    (List.range 56).all (fun i => (numAt e.args i 1 &&& (255 - byteMask r (i + 8))) == 0)

/-- ENERGY_READ addresses a partition only with SCOPE 1 or 2, KEY_INSTALL only for classes 0 to 2 (Tables 18-12, 18-17). -/
def namesPart (r : CmdRow) (e : Entry) : Bool :=
  if r.op = 0x0704 then arg e 8 1 != 0 || e.part != 255
  else if r.op = 0x0307 then decide (arg e 16 1 < 3)
  else r.part

/-- Step 4 of R457 (R416). PART_CREATE names a partition that does not exist yet. -/
def partitionOk (r : CmdRow) (e : Entry) (s : State) : Bool :=
  !namesPart r e || (decide (e.part < 32) && (r.op == 0x0201 || (part s e.part).present))

/-- Step 5 of R457 (R422). -/
def authorityOk (r : CmdRow) (e : Entry) (s : State) : Bool :=
  if r.op = 0x0201 then
    match e.src with
    | .pf x => arg e 8 1 == x
    | _ => true
  else if namesPart r e then
    match e.src with
    | .pf x => (part s e.part).port == x
    | .vf p => e.part == p
    | .mgmt _ _ _ => true
  else true

/-- Step 8 of R457 as far as every row shares it: PARTITION 255 where no partition is addressed (R456), and an IOVA of 0
on the management mailbox (R454). -/
def commonRange (r : CmdRow) (e : Entry) : Bool :=
  (namesPart r e || e.part == 255) &&
    (match r.iova with
     | some o => !isMgmt e || arg e o 8 == 0
     | none => true)

/-- Steps 2 to 5 of R457: the first status that applies. -/
def preChecks (r : CmdRow) (e : Entry) (s : State) : Option Nat :=
  if !sourceOk r e then some 0x0400
  else if !reservedOk r e then some 0x0101
  else if !partitionOk r e s then some 0x0105
  else if !authorityOk r e s then some 0x0400
  else none

/-! ### Completions (R451, R455) -/

/-- What a command answers: its status, result bytes 4–31, inline output, the state, and what it waits for where it
completes later. -/
structure CmdOut where
  status : Nat
  res : Bytes
  inl : Bytes
  st : State
  wait : Option WaitFor

/-- A status that leaves all state unchanged (R457). -/
def refuseCmd (st : Nat) (s : State) : CmdOut := ⟨st, [], [], s, none⟩

/-- Done. -/
def doneCmd (res : Bytes) (s : State) : CmdOut := ⟨0, res, [], s, none⟩

/-- Accepted; completes when `w` happens. -/
def waitCmd (w : WaitFor) (s : State) : CmdOut := ⟨0, [], [], s, some w⟩

/-- The next OP_ID (R458). -/
def newOp (op : Nat) (e : Entry) (p : Nat) (s : State) : Nat × State :=
  (s.kao.nextOp, { s with kao := { s.kao with
    nextOp := (s.kao.nextOp + 1) % 2 ^ 32,
    ops := s.kao.ops ++ [⟨s.kao.nextOp, op, e.src, p⟩] } })

/-- OK_PENDING with OP_ID in result bytes 4–7 and further result bytes from byte 8 (R458). -/
def pendCmd (id : Nat) (more : Bytes) (s : State) : CmdOut := ⟨1, leBytes 4 id ++ more, [], s, none⟩

/-- The 32-byte completion entry (Table 18-7). -/
def completionEntry (tag st : Nat) (res : Bytes) : Bytes := leBytes 2 tag ++ leBytes 2 st ++ padTo 28 res

/-- A management response (R453). -/
def responseBytes (xid : Nat) (entry inl : Bytes) : Bytes :=
  leBytes 4 0x4D424F58 ++ [1, 0x80] ++ leBytes 2 0 ++ leBytes 4 xid ++ leBytes 4 inl.length ++
    List.replicate 16 0 ++ entry ++ inl

/-- Complete a command in flight (R451): the completion stands in its mailbox's ring or goes out as a datagram, and
INFLIGHT falls. -/
def complete (e : Entry) (st : Nat) (res inl : Bytes) (s : State) : State :=
  let c := completionEntry e.tag st res
  let s := bump s Reg.KAO_CMD_CNT 1
  match e.src with
  | .mgmt a xid _ =>
    let d := responseBytes xid c inl
    emit { s with kao := { s.kao with
             mgmtInflight := s.kao.mgmtInflight - 1,
             kept := s.kao.kept.map (fun k => if k.src = a ∧ k.xid = xid then { k with bytes := d } else k) } }
      (.datagram a d)
  | src =>
    let m := srcBox src
    let s := modMbox s m (fun b => { b with
      cq := tput [] b.cq (b.cqTail % 64) c, cqTail := (b.cqTail + 1) % 2 ^ 16, inflight := b.inflight - 1 })
    if e.noInt then s else msix s m 0

/-- End a command that waited; the completion of one whose mailbox has been reset is discarded (R452). -/
def endWaiting (c : InFlight) (st : Nat) (res inl : Bytes) (s : State) : State :=
  if c.gone then bump s Reg.KAO_CMD_CNT 1 else complete c.ent st res inl s

/-- Count a command as fetched and not completed. -/
def startCmd (e : Entry) (s : State) : State :=
  match e.src with
  | .mgmt _ _ _ => { s with kao := { s.kao with mgmtInflight := s.kao.mgmtInflight + 1 } }
  | src => modMbox s (srcBox src) (fun b => { b with inflight := b.inflight + 1 })

/-- The command's own checks and effect, with the shared part of step 8 behind its steps 6 and 7 (R457). SLICE_BIND lists
its statuses in an order of its own (R426). -/
def checkedRun (r : CmdRow) (h : Entry → HostIo → State → CmdOut) (e : Entry) (io : HostIo) (s : State) : CmdOut :=
  let o := h e io s
  if commonRange r e ∨ r.op = 0x0606 ∨ o.status = 0x0103 ∨ o.status = 0x0104 then o else refuseCmd 0x0102 s

/-- A function of a host port may master the bus (R364, R544, R545): 0, 1 the PFs, 2 + p VF p. -/
def fnReady (s : State) (x fn : Nat) : Bool :=
  rd s (Reg.HIF_LTSSM x) == 2 && tget false s.hif.bme fn && s.hif.ideFailed.all (fun k => k / 4 != x)

/-- The storage port that a command reads its input from (JOB_START, WEIGHT_LOAD_SHARD, REPLACE_LAYER with SRC 1 or 2). -/
def driveSource (op : Nat) (e : Entry) : Option Nat :=
  if (op = 0x0204 ∨ op = 0x0302 ∨ op = 0x0305) ∧ (arg e 8 1 = 1 ∨ arg e 8 1 = 2) then some (arg e 8 1 + 1) else none

/-- What the outside answers a command: nothing is read from a drive that is not there, and a function that may not master the
bus reads and writes nothing. -/
def gateIo (s : State) (op : Nat) (e : Entry) (io : HostIo) : HostIo :=
  match driveSource op e with
  | some n => if rdb s (Reg.HIF_DEV_PRESENT n) then io else { io with rd := none }
  | none =>
    if isMgmt e || fnReady s (srcPort s e.src) (srcBox e.src) then io else { io with rd := none, wrOk := false }

/-- A fetched command's checks and effect (R457): the first failing status completes it and leaves all state unchanged;
otherwise it has its effect and completes, or waits. -/
def runFetched (r : CmdRow) (h : Entry → HostIo → State → CmdOut) (e : Entry) (io : HostIo) (s : State) : State :=
  match preChecks r e s with
  | some st => complete e st [] [] s
  | none =>
    let o := checkedRun r h e (gateIo s r.op e io) s
    match o.wait with
    | some w => { o.st with kao := { o.st.kao with waiting := o.st.kao.waiting ++ [⟨r.op, e, io, w, false⟩] } }
    | none => complete e o.status o.res o.inl o.st

/-- What Caliche serves while the package is frozen or the hub has failed (R468, R484). -/
def calicheServes (op : Nat) : Bool := op == 0x0101 || op == 0x0102 || op == 0x0902 || op == 0x0903

/-- What Caliche serves in STANDBY, where Kaolin, the stacks and the links are off: the device commands, the reliability
commands and the debug commands. DESIGN CHOICE: R522 names no list. -/
def standbyServes (op : Nat) : Bool :=
  (decide (0x0101 ≤ op) && decide (op ≤ 0x0105)) || op / 256 == 8 || (decide (0x0901 ≤ op) && decide (op ≤ 0x0903))

/-- A mailbox is served: the management mailbox from STANDBY, the others from HUB_UP while Kaolin runs and the clocks
are not stopped, a VF mailbox while its partition exists and VF Enable is set (R522, R541, R468). -/
def servedBox (s : State) (src : Src) : Bool :=
  s.pwr.calSupply && decide (1 ≤ pstate s) &&
    match src with
    | .mgmt _ _ _ => !s.kao.down || rdb s Reg.CAL_HUB_FAILED || pstate s == 1 || frozen s
    | .pf _ => decide (2 ≤ pstate s) && !frozen s && (!s.kao.down || rdb s Reg.CAL_HUB_FAILED)
    | .vf p => decide (2 ≤ pstate s) && !frozen s && (!s.kao.down || rdb s Reg.CAL_HUB_FAILED) &&
        (part s p).present && tget false s.hif.vfEnable (part s p).port

/-- One mailbox command from its fetch to its completion, or to where it waits. A mailbox that is not served fetches
nothing. -/
def mailboxCommand (r : CmdRow) (h : Entry → HostIo → State → CmdOut) (e : Entry) (io : HostIo) (s : State) : State :=
  if servedBox s e.src then
    if ((frozen s || rdb s Reg.CAL_HUB_FAILED) && !calicheServes r.op) || (pstate s == 1 && !standbyServes r.op) then complete e 0x0300 [] [] (startCmd e s)
    else runFetched r h e io (startCmd e s)
  else s

/-- Commands that wait for `w` complete with a status and result (R450). -/
def completeWaiting (w : WaitFor) (st : Nat) (res : State → InFlight → Bytes) (s : State) : State :=
  let done := s.kao.waiting.filter (fun c => c.wait == w)
  let s := { s with kao := { s.kao with waiting := s.kao.waiting.filter (fun c => c.wait != w) } }
  done.foldl (fun s c => endWaiting c st (res s c) [] s) s

end Sys2Proof.Machine
end

