-- ==== Sys2Proof/Machine/Kaolin.lean ====
section
/-!
DEFINITION. Kaolin's doorbells and register accesses (R17–R21, R447–R449, R423), mailbox resets (R452) and the device
commands DEV_IDENTIFY, DEV_GET_STATE and DEV_SET_TIME (Table 18-10).
-/

namespace Sys2Proof.Machine

/-! ### Doorbells (R448, R449) -/

/-- A write of MB_SQ_TAIL after the entries of the slots from the old tail up have been written. -/
def execMbSqTailWrite (mb tail : Nat) (entries : List Bytes) (s : State) : Host.Outcome State Fault Refusal :=
  let b := mbox s mb
  if subMod 16 (tail % 2 ^ 16) b.sqHead ≤ 64 then
    .next (modMbox s mb (fun b =>
      { b with sq := (entries.zip (List.range entries.length)).foldl
                       (fun t r => tput [] t ((b.sqTail + r.2) % 64) (padTo 64 r.1)) b.sq,
               sqTail := tail % 2 ^ 16 }))
  else .next (modMbox s mb (fun b => { b with err := b.err ||| 1 }))

/-- A write of MB_CQ_HEAD: rejected outside the range from the current head up to MB_CQ_TAIL. -/
def execMbCqHeadWrite (mb v : Nat) (s : State) : Host.Outcome State Fault Refusal :=
  let b := mbox s mb
  if subMod 16 (v % 2 ^ 16) b.cqHead ≤ subMod 16 b.cqTail b.cqHead then
    .next (modMbox s mb (fun b => { b with cqHead := v % 2 ^ 16 }))
  else .next (modMbox s mb (fun b => { b with err := b.err ||| 2 }))

/-- A write of MB_EV_HEAD, under the same rule against MB_EV_TAIL. -/
def execMbEvHeadWrite (mb v : Nat) (s : State) : Host.Outcome State Fault Refusal :=
  let b := mbox s mb
  if subMod 16 (v % 2 ^ 16) b.evHead ≤ subMod 16 b.evTail b.evHead then
    .next (modMbox s mb (fun b => { b with evHead := v % 2 ^ 16 }))
  else .next (modMbox s mb (fun b => { b with err := b.err ||| 4 }))

/-- The reset of a mailbox (R452): unfetched entries are discarded and every count is set to 0; the commands in flight
run to their end, and their completions are discarded. -/
def resetMbox (s : State) (m : Nat) : State :=
  { s with mbs := tput Mailbox.zero s.mbs m Mailbox.zero,
           kao := { s.kao with waiting := s.kao.waiting.map (fun c => if srcBox c.ent.src = m then { c with gone := true } else c) } }

/-! ### Registers (R17–R21) -/

/-- The distance from a family's first field resolves to an index of each stride. -/
def strideOk : List (Nat × Nat) → Nat → Bool
  | [], d => d == 0
  | (n, st) :: r, d => decide (d / st < n) && strideOk r (d % st)

/-- The field of the family that lies in the register at `off`. -/
def famField (f : Family) (off : Nat) : Option Field :=
  if f.first.off ≤ off ∧ strideOk f.strides (off - f.first.off) then some { f.first with off := off } else none

/-- The fields of a list of families in the register at `off`. -/
def fieldsAt (fs : List Family) (off : Nat) : List Field := fs.filterMap (fun f => famField f off)

/-- Registers whose write is a command of its own: the probes (R255, R289) and LINK_CTRL (R259–R262). -/
def ownRow (off : Nat) : Bool :=
  off == 0x500200 || off == 0x400200 ||
    (decide (0x2001000 ≤ off) && decide (off < 0x2400000) && decide ((off - 0x2001000) % 0x100000 % 0x100 = 4))

/-- The partition whose register lies at `off`, if the register belongs to one partition or to a queue of one (R423). -/
def regPart (s : State) (off : Nat) : Option Nat :=
  if 0x601000 ≤ off ∧ off < 0x603000 then some ((off - 0x601000) / 0x100)
  else if 0x201000 ≤ off ∧ off < 0x202000 then some ((off - 0x201000) / 0x80)
  else if 0x204000 ≤ off ∧ off < 0x204800 then
    (if rdb s (Reg.SRV_Q_V ((off - 0x204000) / 0x20)) then some (rd s (Reg.SRV_Q_OWNER ((off - 0x204000) / 0x20))) else none)
  else if 0x501000 ≤ off ∧ off < 0x501800 then some ((off - 0x501000) / 0x40)
  else none

/-- A register hidden from the PF of port `x`: it belongs to a partition of the other port, or is the other port's
HOSTIF_URGENT (R423, R562). -/
def hiddenReg (s : State) (x off : Nat) : Bool :=
  decide (x < 2) &&
    (match regPart s off with
     | some p => (part s p).present && (part s p).port != x
     | none => off == 0xA00028 - 4 * x)

/-- Apply a write to one field by its access type (Table 1-8). -/
def writeField (w : BitVec 32) (s : State) (f : Field) : State :=
  let v := bits w.toNat f.lo f.width
  match f.acc with
  | .rw => wr s f v
  | .w1c => wr s f (rd s f - (rd s f &&& v))
  | .w1s => wr s f (rd s f ||| v)
  | _ => s

/-- The offset of MB_ERR on an access path: VF window, or KAOLIN block + 0x1_0000 (Tables 18-1, 18-2). -/
def mbErrOff (path : Nat) : Nat := if path < 2 then 0x1181C else 0x181C

/-- A 32-bit write to a register with no row of its own. Paths are 0 and 1 for the PFs and 2 + p for VF p. A misaligned
access completes as Unsupported Request (R20); the CALICHE block, RO, RC and RWH fields and reserved offsets take no
write (R17–R19). -/
def execRegisterWrite (path off : Nat) (w : BitVec 32) (s : State) : Host.Outcome State Fault Refusal :=
  if off % 4 ≠ 0 then .next (emit s (.unsupported path))
  else if off = mbErrOff path then
    .next (modMbox s path (fun b => { b with err := b.err - (b.err &&& w.toNat % 16) }))
  else if 2 ≤ path ∨ ownRow off ∨ (0x900000 ≤ off ∧ off < 0xA00000) ∨ hiddenReg s path off then .next s
  else .next ((fieldsAt Reg.writable off).foldl (writeField w) s)

/-- A read of an RC field returns its value and resets it (Table 1-8): TICK OFFSET_MAX, PWR PEAK_MW and the path's own
MB_EV_LOST. Another offset has no RC field. -/
def execRcFieldRead (path off : Nat) (s : State) : Host.Outcome State Fault Refusal :=
  if off = mbErrOff path + 4 then
    .next (emit (modMbox s path (fun b => { b with evLost := 0 })) (.readData path (mbox s path).evLost))
  else if path < 2 ∨ path = 34 then
    match fieldsAt Reg.readClear off with
    | f :: _ => .next (emit (wr s f f.reset) (.readData path (rd s f)))
    | [] => .next (emit s (.readData path 0))
  else .next (emit s (.readData path 0))

/-- The 64-bit counter whose low half lies at `off` on an access path: a counter of PF BAR0, or on a VF path the
accounting set (Table 17-7) and the epochs of Table 18-22. -/
def counterAt (s : State) (path off : Nat) : Nat :=
  if path < 2 ∨ path = 34 then
    (if hiddenReg s path off then 0
     else match fieldsAt Reg.counters off with
       | f :: _ => rd s f
       | [] => 0)
  else
    let q := part s (path - 2)
    if !q.present then 0
    else if 0x2000 ≤ off ∧ off < 0x20D8 ∧ off % 8 = 0 then tget 0 q.acct (off - 0x2000)
    else if off = 0x1908 then rd s (Reg.CTX_FRAME_EPOCH (q.quads.headD 48))
    else if off = 0x1910 then q.modelEpoch
    else 0

/-- A 32-bit read of a counter's low half latches the high half, with the counter's offset, into the path's shadow
(R21). -/
def execCounterLowRead (path off : Nat) (s : State) : Host.Outcome State Fault Refusal :=
  let v := counterAt s path off
  .next (emit { s with shadows := tput (0, 0) s.shadows path (off + 1, v / 2 ^ 32) } (.readData path (v % 2 ^ 32)))

/-- What a 32-bit read of the high half at `off + 4` returns (R21): the shadow where it names the counter, the live half
otherwise. -/
def highHalf (s : State) (path off : Nat) : Nat :=
  let h := tget (0, 0) s.shadows path
  if h.1 = off + 1 then h.2 else counterAt s path off / 2 ^ 32

/-! ### Device commands (Table 18-10) -/

/-- Running a mailbox command always gives a next state. -/
def runRow (r : CmdRow) (h : Entry → HostIo → State → CmdOut) (e : Entry) (io : HostIo) (s : State) :
    Host.Outcome State Fault Refusal := .next (mailboxCommand r h e io s)

/-- DEV_IDENTIFY (R461): stepping 0xB0, numerics revision 1 (R80). -/
def cmdDevIdentify (_ : Entry) (_ : HostIo) (s : State) : CmdOut :=
  doneCmd ([0xB0, 1] ++ leBytes 1 (pkgId s) ++ leBytes 1 (pstate s) ++ leBytes 8 Config.serial.toNat ++
    leBytes 4 (rd s Reg.KAO_FW_VERSION) ++ leBytes 4 (rd s Reg.CAL_FW_VERSION) ++ leBytes 4 Config.bootRomVersion.toNat) s

/-- DEV_IDENTIFY. -/
def execDevIdentify (e : Entry) (io : HostIo) (s : State) : Host.Outcome State Fault Refusal :=
  runRow Row.devIdentify cmdDevIdentify e io s

/-- The bitmap of partitions that meet `f`; a VF sees only its own (R461). -/
def partBitmap (s : State) (e : Entry) (f : Part → Bool) : Nat :=
  bitmap ((List.range 32).filter (fun p => f (part s p) && (!isVf e || e.src == .vf p)))

/-- DEV_GET_STATE (R461). -/
def cmdDevGetState (e : Entry) (_ : HostIo) (s : State) : CmdOut :=
  doneCmd (leBytes 1 (pstate s) ++ leBytes 1 (rd s Reg.RTR_MAP_KIND + 4 * rd s Reg.RTR_VERIFIED) ++
    leBytes 1 (rd s Reg.TICK_ROLE) ++ leBytes 1 (rd s Reg.TICK_FENCED) ++ leBytes 6 (frameNo s) ++ leBytes 2 0 ++
    leBytes 4 (partBitmap s e (·.present)) ++ leBytes 4 (partBitmap s e (fun q => q.job == .running)) ++
    leBytes 4 (rd s Reg.CAL_FENCE_USED)) s

/-- DEV_GET_STATE. -/
def execDevGetState (e : Entry) (io : HostIo) (s : State) : Host.Outcome State Fault Refusal :=
  runRow Row.devGetState cmdDevGetState e io s

/-- DEV_SET_TIME (R482): Caliche's UTC time, used in the TIME field of later records only. -/
def cmdDevSetTime (e : Entry) (_ : HostIo) (s : State) : CmdOut :=
  doneCmd [] { s with cal := { s.cal with utcOff := (arg e 8 8 : Int) - ((s.cal.upNs + inFrameNs s : Nat) : Int) } }

/-- DEV_SET_TIME. -/
def execDevSetTime (e : Entry) (io : HostIo) (s : State) : Host.Outcome State Fault Refusal :=
  runRow Row.devSetTime cmdDevSetTime e io s

/-- A command's output goes to its buffer (R454, R457): the response's inline data on the management mailbox, otherwise a
posted write to the IOVA; a write that is refused gives HOST_DMA_ERROR, and the command's effect stands. -/
def withOutput (e : Entry) (io : HostIo) (iova : Nat) (b : Bytes) (res : Bytes) (s : State) : CmdOut :=
  if isMgmt e then ⟨0, res, b, s, none⟩
  else if io.wrOk then
    ⟨0, res, [], bump (emit s (.hostWrite (srcPort s e.src) (srcBox e.src) iova b)) (Reg.HIF_N_WR_BYTE_CNT (srcPort s e.src))
      b.length, none⟩
  else ⟨0x0500, [], [], s, none⟩

end Sys2Proof.Machine
end

