-- ==== Sys2Proof/Machine/Caliche.lean ====
section
/-!
DEFINITION. Caliche (chapter 19): error latches and records (R475, R491–R493), leaky counters (R485), Staem records and
their delivery (R494–R496), lockstep restarts (R483), the watch over Kaolin (R484), the fencing commands (R487–R490).
-/

namespace Sys2Proof.Machine

/-! ### Records (R491, R494) -/

/-- The 64 bytes of an error record (Table 19-4). -/
def recordBytes (r : ErrRec) : Bytes :=
  leBytes 4 r.index ++ leBytes 1 r.unitType ++ leBytes 1 r.severity ++ leBytes 2 r.unit ++ leBytes 2 r.source ++
  leBytes 2 r.code ++ leBytes 1 r.op ++ leBytes 1 r.part ++ leBytes 1 r.leaky ++ leBytes 1 r.flags ++
  leBytes 6 r.frame ++ leBytes 2 r.status ++ leBytes 8 r.time ++ leBytes 2 r.temp ++ leBytes 2 r.volt ++
  leBytes 1 r.rail ++ leBytes 3 0 ++ leBytes 6 r.addr ++ leBytes 2 0 ++ padTo 16 r.synd

/-- A big-endian number of `n` bytes (CBOR heads, RFC 8949). -/
def beBytes (n k : Nat) : Bytes := (leBytes n k).reverse

/-- A CBOR head of major type `m` in the shortest form. -/
def cborHead (m k : Nat) : Bytes :=
  if k < 24 then [BitVec.ofNat 8 (m * 32 + k)]
  else if k < 2 ^ 8 then BitVec.ofNat 8 (m * 32 + 24) :: beBytes 1 k
  else if k < 2 ^ 16 then BitVec.ofNat 8 (m * 32 + 25) :: beBytes 2 k
  else if k < 2 ^ 32 then BitVec.ofNat 8 (m * 32 + 26) :: beBytes 4 k
  else BitVec.ofNat 8 (m * 32 + 27) :: beBytes 8 k

/-- A CBOR unsigned integer. -/
def cborUint (k : Nat) : Bytes := cborHead 0 k

/-- A CBOR integer. -/
def cborInt (i : Int) : Bytes := if 0 ≤ i then cborHead 0 i.toNat else cborHead 1 (-1 - i).toNat

/-- A CBOR byte string. -/
def cborBytes (b : Bytes) : Bytes := cborHead 2 b.length ++ b

/-- The Staem record of an error record: a map of 20 pairs in ascending keys (Table 19-5). Before the first HUB_UP after
power-up the package is 255 (R555). -/
def staemRecord (s : State) (r : ErrRec) : Bytes :=
  let kv : List Bytes :=
    [cborUint 1, cborBytes (leBytes 8 Config.serial.toNat), cborUint (if s.cal.strapped then pkgId s else 255),
     cborUint r.index, cborUint r.severity, cborUint r.unitType, cborUint r.unit, cborUint r.op, cborUint r.part,
     cborUint r.code, cborInt (signed 16 r.temp), cborUint r.volt, cborUint r.frame, cborUint r.time, cborUint r.addr,
     cborBytes (padTo 16 r.synd), cborUint r.leaky, cborUint (r.flags + 256 * r.status),
     cborHead 4 3 ++ cborUint Config.bootRomVersion.toNat ++ cborUint (rd s Reg.KAO_FW_VERSION) ++
       cborUint (rd s Reg.CAL_FW_VERSION),
     cborHead 4 2 ++ cborUint 0xB0 ++ cborUint 1]
  0xB4 :: joinBytes ((kv.zip (List.range 20)).map (fun x => cborUint x.2 ++ x.1))

/-- The records of the fault log from index `a` up to but not including `b`, ascending (R493). -/
def logRange (s : State) (a b : Nat) : List ErrRec :=
  (s.cal.log.filter (fun r => decide (a ≤ r.index) && decide (r.index < b))).reverse

/-- FAULT_LOG_READ (R493): COUNT records from the first index, or from the oldest kept where that was overwritten. -/
def cmdFaultLogRead (e : Entry) (io : HostIo) (s : State) : CmdOut :=
  let cnt := arg e 12 2
  if cnt = 0 ∨ 128 < cnt then refuseCmd 0x0102 s
  else
    let a := max (arg e 8 4) (rd s Reg.CAL_LOG_OLDEST)
    let rs := logRange s a (a + cnt)
    let nxt := if rs.isEmpty then rd s Reg.CAL_LOG_NEXT else a + rs.length
    withOutput e io (arg e 16 8) (joinBytes (rs.map recordBytes)) (leBytes 4 rs.length ++ leBytes 4 nxt) s

/-- FAULT_LOG_READ. -/
def execFaultLogRead (e : Entry) (io : HostIo) (s : State) : Host.Outcome State Fault Refusal :=
  runRow Row.faultLogRead cmdFaultLogRead e io s

/-- FAULT_POLICY_SET (R487): the ACTION and THRESHOLD of one unit type. -/
def cmdFaultPolicySet (e : Entry) (_ : HostIo) (s : State) : CmdOut :=
  let t := arg e 8 1
  let a := arg e 9 1
  let th := arg e 10 1
  if 15 < t ∨ th = 0 ∨ 15 < th ∨ 2 < a ∨ (a = 2 ∧ 13 ≤ t) then refuseCmd 0x0102 s
  else doneCmd [] (wr (wr s (Reg.CAL_ACTION t) a) (Reg.CAL_THRESHOLD t) th)

/-- FAULT_POLICY_SET. -/
def execFaultPolicySet (e : Entry) (io : HostIo) (s : State) : Host.Outcome State Fault Refusal :=
  runRow Row.faultPolicySet cmdFaultPolicySet e io s

/-- UNIT_FENCE (R467, R489): the command waits for the tick at which the fence takes effect; a fence of the same unit
that Caliche has already asked for serves it too. -/
def cmdUnitFence (e : Entry) (_ : HostIo) (s : State) : CmdOut :=
  let t := arg e 8 1
  let n := arg e 10 2
  if 12 < t ∨ !unitExists t n then refuseCmd 0x0102 s
  else if inFenceTable s t n then refuseCmd 0x0300 s
  else if s.cal.pendFence.contains ⟨t, n, true⟩ then waitCmd .tick s
  else if !fenceRoom s then refuseCmd 0x0200 s
  else waitCmd .tick { s with cal := { s.cal with pendFence := s.cal.pendFence ++ [⟨t, n, true⟩] } }

/-- UNIT_FENCE. -/
def execUnitFence (e : Entry) (io : HostIo) (s : State) : Host.Outcome State Fault Refusal :=
  runRow Row.unitFence cmdUnitFence e io s

/-- Remove a unit's entry from the fence table. -/
def clearFence (s : State) (t n : Nat) : State :=
  match (List.range 256).find? (fun i => fenceHit s i t n) with
  | some i =>
    let s := wr (wr (wr s (Reg.CAL_FENCE_V i) 0) (Reg.CAL_FENCE_TYPE i) 0) (Reg.CAL_FENCE_UNIT i) 0
    wr s Reg.CAL_FENCE_USED (rd s Reg.CAL_FENCE_USED - 1)
  | none => s

/-- UNIT_UNFENCE (R490): the entry goes and the leaky counter is set to 0; the unit returns at the next tick. -/
def cmdUnitUnfence (e : Entry) (_ : HostIo) (s : State) : CmdOut :=
  let t := arg e 8 1
  let n := arg e 10 2
  if 12 < t ∨ !unitExists t n then refuseCmd 0x0102 s
  else if !inFenceTable s t n then refuseCmd 0x0300 s
  else
    let s := clearFence s t n
    doneCmd [] { s with cal := { s.cal with
      leaky := tput 0 s.cal.leaky (unitKey t n) 0, pendFence := s.cal.pendFence ++ [⟨t, n, false⟩] } }

/-- UNIT_UNFENCE. -/
def execUnitUnfence (e : Entry) (io : HostIo) (s : State) : Host.Outcome State Fault Refusal :=
  runRow Row.unitUnfence cmdUnitUnfence e io s

/-! ### Staem delivery (R495, R496) -/

/-- Caliche answers: its supply is on and it is neither restarting nor held in reset. -/
def calAlive (s : State) : Bool := s.pwr.calSupply && !s.cal.restarting && !s.cal.lasting

/-- Records below `n` are delivered; the CAL_EVENT bits whose record was delivered clear (R499). -/
def deliverTo (n : Nat) (s : State) : State :=
  let d := max (rd s Reg.CAL_DELIVERED) (min n (rd s Reg.CAL_LOG_NEXT))
  let s := wr s Reg.CAL_DELIVERED d
  (List.range 7).foldl (fun s b =>
    let r := tget 0 s.cal.evRec b
    if 0 < r ∧ r ≤ d then
      wr { s with cal := { s.cal with evRec := tput 0 s.cal.evRec b 0 } } ⟨0x900008, b, 1, .ro, 0⟩ 0
    else s) s

/-- Group records into datagrams of at most 1,280 bytes, the 16-byte header included (R495). -/
def staemGroups : List Bytes → List Bytes → Nat → List (List Bytes)
  | [], acc, _ => if acc.isEmpty then [] else [acc]
  | r :: rs, acc, n =>
    if !acc.isEmpty && decide (1280 < n + r.length) then acc :: staemGroups rs [r] (16 + r.length)
    else staemGroups rs (acc ++ [r]) (n + r.length)

/-- Send the records of a list of groups, the first record having index `i`. -/
def sendGroups (addr port : Nat) : Nat → List (List Bytes) → State → State
  | _, [], s => s
  | i, g :: gs, s =>
    sendGroups addr port (i + g.length) gs
      (bump (emit s (.staem addr port i g)) Reg.CAL_STAEM_SENT_CNT g.length)

/-- Send the records from index `a` to the collector, while one is set and the management link is up (R495). -/
def sendStaem (a : Nat) (s : State) : State :=
  match s.cal.collector with
  | some (addr, port) =>
    if rdb s Reg.HIF_MGMT_UP && calAlive s then
      let a := max a (rd s Reg.CAL_LOG_OLDEST)
      let s' := sendGroups addr port a
        (staemGroups ((logRange s a (rd s Reg.CAL_LOG_NEXT)).map (staemRecord s)) [] 16) s
      { s' with cal := { s'.cal with sent := rd s Reg.CAL_LOG_NEXT } }
    else s
  | none => s

/-- Caliche sends the records written since the last sending. -/
def execStaemSend (s : State) : Host.Outcome State Fault Refusal := .next (sendStaem s.cal.sent s)

/-- Delivery has not advanced for 1 s: Caliche resends from the oldest undelivered record. -/
def execStaemResendTimer (s : State) : Host.Outcome State Fault Refusal :=
  if rd s Reg.CAL_DELIVERED < s.cal.sent then .next (sendStaem (rd s Reg.CAL_DELIVERED) s) else .next s

/-- An acknowledgement from the collector's address. -/
def execStaemCollectorAck (addr first : Nat) (s : State) : Host.Outcome State Fault Refusal :=
  match s.cal.collector with
  | some (a, _) => if a = addr ∧ calAlive s then .next (deliverTo first s) else .next s
  | none => .next s

/-- A Caliche request over MCTP is answered from STANDBY on, whatever Kaolin and the hosts do (R496). -/
def mcTp (s : State) (f : State → State) : Host.Outcome State Fault Refusal :=
  if calAlive s && decide (1 ≤ pstate s) then .next (f s) else .next s

/-- STAEM_GET: the record of the index, or the oldest kept; empty beyond the newest. -/
def execStaemGet (idx : Nat) (s : State) : Host.Outcome State Fault Refusal :=
  mcTp s (fun s =>
    match logRange s (max idx (rd s Reg.CAL_LOG_OLDEST)) (rd s Reg.CAL_LOG_NEXT) with
    | r :: _ => emit s (.mctp 0 (leBytes 4 r.index ++ staemRecord s r))
    | [] => emit s (.mctp 0 []))

/-- STAEM_SET_COLLECTOR: port 0 clears. -/
def execStaemSetCollector (addr port : Nat) (s : State) : Host.Outcome State Fault Refusal :=
  mcTp s (fun s =>
    emit (wrb { s with cal := { s.cal with collector := if port = 0 then none else some (addr, port) } }
      Reg.CAL_COLLECTOR_SET (port != 0)) (.mctp 0 []))

/-- STAEM_ACK: records below the index are delivered. -/
def execStaemAck (idx : Nat) (s : State) : Host.Outcome State Fault Refusal :=
  mcTp s (fun s => emit (deliverTo idx s) (.mctp 0 []))

/-- CAL_STATUS as a register word (Table 19-8). -/
def calStatusWord (s : State) : Nat :=
  rd s Reg.CAL_RUNNING + 2 * rd s Reg.CAL_LOCKSTEP_OK + 4 * rd s Reg.CAL_KAOLIN_ALIVE + 8 * rd s Reg.CAL_XTAL_OK +
    16 * rd s Reg.CAL_COLLECTOR_SET + 32 * rd s Reg.CAL_HUB_FAILED + 256 * rd s Reg.CAL_FENCE_USED +
    65536 * rd s Reg.CAL_RESTARTS

/-- CALICHE_STATUS. -/
def execCalicheStatus (s : State) : Host.Outcome State Fault Refusal :=
  mcTp s (fun s => emit s (.mctp 0 (leBytes 4 (calStatusWord s) ++ leBytes 4 (rd s Reg.CAL_LOG_NEXT) ++
    leBytes 4 (rd s Reg.CAL_LOG_OLDEST) ++ leBytes 4 (rd s Reg.CAL_DELIVERED))))

/-! ### Latches (R475) -/

/-- The register field and its bits that an event code of Table 18-19 stands for, at the instance the unit belongs to. -/
def errField (code ty n p : Nat) : Option (Field × Nat) :=
  let b := code % 256
  let G := (unitQuads ty n).headD 0
  let d := if ty = 1 then 12 * (n / 192) + (n % 192) / 16 else n
  let w (f : Field) : Option (Field × Nat) := some ({ f with lo := b, width := 1, acc := .w1c, reset := 0 }, 1)
  match code / 256 with
  | 0x01 => w Reg.TICK_EV_DRIFT_WARN
  | 0x02 => w (Reg.BDU_ERR_ECC_CE d)
  | 0x03 => w (Reg.SPM_ERR_CE G)
  | 0x04 => some (Reg.SPM_HUB_ERR, 2 ^ b)
  | 0x05 => w (Reg.ENG_ERR_OPERAND_UE G)
  | 0x06 => w (Reg.ATT_ERR_KV_SAT G)
  | 0x07 => w (Reg.SRT_ERR_NONFINITE G)
  | 0x08 => w (Reg.ROT_ERR_NONFINITE_IN G)
  | 0x09 => w Reg.TIER_ERR_T2_CE
  | 0x0A => w Reg.RTR_ERR_LINK_DOWN
  | 0x0B => w (Reg.LINK_ERR_LOCK_LOSS n)
  | 0x0C => w Reg.RMT_ERR_RSP
  | 0x0D => w Reg.COLL_ERR_LATE
  | 0x0E => w Reg.SRV_ERR_TABLE_CE
  | 0x0F => w Reg.SESS_ERR_UE
  | 0x10 => w Reg.CRY_ERR_SPDM
  | 0x11 => w (Reg.LOESS_EV_MISMATCH p)
  | 0x12 => w Reg.PWR_EV_VR_ALERT
  | 0x13 => none
  | 0x14 => if b < 4 then some (Reg.HIF_EV_PORT_CHANGE, 2 ^ b) else w Reg.HIF_EV_STRAP_CHANGE
  | _ => none

/-- The counter that an error also advances: corrected and uncorrectable words of a die or a bank, TSV retries. -/
def errCounter (code ty n : Nat) : Option Field :=
  let G := (unitQuads ty n).headD 0
  let d := if ty = 1 then 12 * (n / 192) + (n % 192) / 16 else n
  if code = 0x0200 then some (Reg.BDU_DIE_CE_CNT d)
  else if code = 0x0201 then some (Reg.BDU_DIE_UE_CNT d)
  else if code = 0x0203 then some (Reg.BDU_DIE_TSV_RETRY_CNT d)
  else if code = 0x0300 then some (Reg.SPM_Q_CE_CNT G)
  else if code = 0x0301 ∨ code = 0x0302 then some (Reg.SPM_Q_UE_CNT G)
  else if code = 0x0A05 then some Reg.RTR_SYM_CRC_CNT
  else if code = 0x0E00 then some Reg.SRV_TABLE_CE_CNT
  else none

/-- The payload of a FRAME_CONDITION event (Table 18-19). -/
def conditionPayload (x : ErrIn) (idx : Nat) : Bytes :=
  leBytes 2 x.unit ++ leBytes 1 x.unitType ++ leBytes 1 0 ++ leBytes 2 (numAt x.synd 0 2) ++ leBytes 2 (numAt x.synd 2 2) ++
    leBytes 4 0 ++ leBytes 4 idx

/-- Table 14-10: an uncorrectable word in a committed half of the request table makes its request leave every batch and go
to DRAIN with 0x0540. The request is the one whose slot number the source latched as its index (DEDUCED); the next commit
applies it. -/
def tableUe (n : Nat) (s : State) : State :=
  let r : SlotReq := ⟨n, (tget Slot.free s.srv.slots n).req.gen, .fail 0x0540⟩
  { s with srv := if s.tick.verdict then { s.srv with lateAsks := s.srv.lateAsks ++ [r] }
                  else { s.srv with asks := s.srv.asks ++ [r] } }

/-- An error source latches an event: the register bit, the record, the event, the frame condition where the error
fails a frame, and the loss of a request where a word of the request table is uncorrectable. -/
def latchError (x : ErrIn) (s : State) : State :=
  let idx := nextIdx s
  let s := match errField x.code x.unitType x.unit x.part with | some f => orReg s f.1 f.2 | none => s
  let s := match errCounter x.code x.unitType x.unit with | some f => bump s f 1 | none => s
  let s := if x.code = 0x0E01 then tableUe x.addr s else s
  let fails : Bool := x.cond.isSome && runs s x.part
  let s := report (mkRec s x.unitType x.unit x.severity x.source x.code x.op x.part (if fails then 1 else 0) 0 x.addr x.synd)
    x.feeds s
  let s := if x.code = 0x8012 then raiseWith x.source x.code x.part (fun _ => conditionPayload x idx) [] s
           else raiseBit x.source x.code x.part x.unit x.addr idx s
  match x.cond with
  | some c => failFrame x.part ⟨c.1, c.2, x.unitType, x.unit⟩ s
  | none => s

/-- ERROR_LATCH_RAISE. -/
def execErrorLatchRaise (x : ErrIn) (s : State) : Host.Outcome State Fault Refusal := .next (latchError x s)

/-! ### Leaky counters (R485) -/

/-- At a 15 s boundary every leaky counter above 0 loses 1. -/
def execLeakyLeak (s : State) : Host.Outcome State Fault Refusal :=
  .next { s with cal := { s.cal with
    leaky := (s.cal.leaky.map (fun e => (e.1, e.2 - 1))).filter (fun e => e.2 != 0) } }

/-- A new second: corrected errors are counted afresh. -/
def execCeRateSecond (s : State) : Host.Outcome State Fault Refusal :=
  .next { s with cal := { s.cal with ceSecond := [], ceGained := [] } }

/-! ### Lockstep and the watch over Kaolin (R483, R484) -/

/-- A lockstep mismatch: the hardware writer puts a FATAL record into the log and Caliche resets itself. The third restart
within 1 h makes the fault lasting, and every job stops. -/
def execCalicheLockstepMismatch (s : State) : Host.Outcome State Fault Refusal :=
  if !s.pwr.calSupply || s.cal.lasting then .next s
  else
    let s := writeRecord (mkRec s 15 0 3 9 0x1300 24 255 0 0 0 []) false s
    let rs := (s.cal.upNs :: s.cal.restarts).filter (fun t => decide (s.cal.upNs ≤ t + 3600000000000))
    let last : Bool := decide (3 ≤ rs.length)
    let s := { s with cal := { s.cal with restarts := rs, restarting := true, lasting := last } }
    let s := wr (bump s Reg.CAL_RESTARTS 1) Reg.CAL_LOCKSTEP_OK 0
    if last then .next (stopAll (wr s Reg.CAL_RUNNING 0) 0x05E3) else .next s

/-- Records of a latch collected after a restart carry LATE; a second one carries COALESCED (R475, R483). -/
def collectLatch (s : State) (l : ErrLatch) : State :=
  let s := writeRecord { l.first with flags := l.first.flags ||| 16 } l.feeds s
  if 2 ≤ l.count then writeRecord { l.latest with flags := l.latest.flags ||| 24 } l.feeds s else s

/-- Caliche collects every latched source. -/
def collectLatches (s : State) : State :=
  (s.cal.latches).foldl (fun s e => collectLatch s e.2) { s with cal := { s.cal with latches := [] } }

/-- Caliche runs again after a restart. -/
def execCalicheRestartDone (s : State) : Host.Outcome State Fault Refusal :=
  if s.cal.restarting && !s.cal.lasting then
    let s := { s with cal := { s.cal with restarting := false } }
    let s := wr (wr s Reg.CAL_LOCKSTEP_OK 1) Reg.CAL_RUNNING 1
    let s := calEvent Reg.CAL_EV_LOCKSTEP 0 (rd s Reg.CAL_LOG_NEXT - 1) s
    .next (collectLatches s)
  else .next s

/-- Kaolin writes Caliche's heartbeat. -/
def execKaolinHeartbeat (s : State) : Host.Outcome State Fault Refusal :=
  if s.kao.down then .next s else .next (wr s Reg.CAL_KAOLIN_ALIVE 1)

/-- The hub is declared failed: every job stops, and the mailboxes are served by Caliche. -/
def hubFailed (s : State) : State := stopAll (wr s Reg.CAL_HUB_FAILED 1) 0x05E4

/-- No heartbeat for 1 ms: Caliche records it and resets Kaolin's cores; the third reset within 60 s fails the hub. -/
def execKaolinHeartbeatLost (s : State) : Host.Outcome State Fault Refusal :=
  if calAlive s && decide (2 ≤ pstate s) && !frozen s && !rdb s Reg.CAL_HUB_FAILED then
    let idx := rd s Reg.CAL_LOG_NEXT
    let s := writeRecord (mkRec s 14 6 3 9 0x1301 20 255 0 0 0 []) true s
    let s := wr (bump s Reg.CAL_KAOLIN_RESET_CNT 1) Reg.CAL_KAOLIN_ALIVE 0
    let s := calEvent Reg.CAL_EV_KAOLIN_RESET 1 idx s
    let ks := (s.cal.upNs :: s.cal.kaoResets).filter (fun t => decide (s.cal.upNs ≤ t + 60000000000))
    let s := wr { s with kao := { s.kao with down := true }, cal := { s.cal with kaoResets := ks } } Reg.KAO_FW_READY 0
    if 3 ≤ ks.length then .next (hubFailed s) else .next s
  else .next s

/-- The outcome event of an OK_PENDING operation (Tables 18-10 to 18-18). -/
def outcomeCode (op : Nat) : Nat :=
  if op = 0x0302 ∨ op = 0x0305 then 0x8001
  else if op = 0x0303 then 0x8002
  else if op = 0x0304 ∨ op = 0x0306 then 0x8004
  else if op = 0x0501 then 0x8005
  else if op = 0x0502 then 0x8006
  else if op = 0x0503 ∨ op = 0x0504 then 0x8007
  else if op = 0x0103 then 0x8010
  else 0x8011

/-- Commands in flight and OK_PENDING operations end with COMMAND_INTERRUPTED (R468, R484). -/
def interruptAll (s : State) : State :=
  let ws := s.kao.waiting
  let os := s.kao.ops
  let s := ws.foldl (fun s c => endWaiting c 0x0501 [] [] s) { s with kao := { s.kao with waiting := [] } }
  os.foldl (fun s o => outcome o.id (outcomeCode o.op) o.part (leBytes 4 o.id ++ leBytes 2 0x0501) [] s) s

/-- Kaolin runs again after a reset of its cores. -/
def execKaolinRecovered (s : State) : Host.Outcome State Fault Refusal :=
  if s.kao.down && !rdb s Reg.CAL_HUB_FAILED then
    .next (interruptAll (wr { s with kao := { s.kao with down := false } } Reg.KAO_FW_READY 1))
  else .next s

/-- Kaolin has not returned within 2 s. -/
def execHubFailTimeout (s : State) : Host.Outcome State Fault Refusal :=
  if s.kao.down && calAlive s then .next (hubFailed s) else .next s

end Sys2Proof.Machine
end

