-- ==== Sys2Proof/Machine/Fabric.lean ====
section
/-!
DEFINITION. The fabric of chapter 11 as operations: bundles and neighbours (R256, R257), the substitution map (R278–R281),
routes of open packets (R275–R277), sending and reassembling packets (R272), the slot map (R268), edge rejects and
accusations (R37), and the CTL layer (R291, R292).
-/

namespace Sys2Proof.Machine

/-! ### Positions, bundles and neighbours (R256, R257) -/

/-- Tray position of a package. -/
def trayPos (pkg : Nat) : Nat := pkg % 8

/-- Tray number of a package. -/
def trayOf (pkg : Nat) : Nat := pkg / 8

/-- Bundle of a link of a package at tray position `p` (Table 11-1). -/
def linkBundle (p l : Nat) : Nat :=
  if l < 56 then (if l / 8 < p then l / 8 else l / 8 + 1) else 8 + (l - 56) / 10

/-- Position of a link in its bundle. -/
def linkPos (l : Nat) : Nat := if l < 56 then l % 8 else (l - 56) % 10

/-- The link of a bundle and position before any substitution. -/
def homeLink (p b pos : Nat) : Nat := if b < 8 then 8 * (if b < p then b else b - 1) + pos else 56 + 10 * (b - 8) + pos

/-- Positions of a bundle. -/
def bundleSize (b : Nat) : Nat := if b < 8 then 8 else 10

/-- The spare position of a bundle. -/
def sparePos (b : Nat) : Nat := bundleSize b - 1

/-- The links of a bundle, ascending. -/
def bundleLinks (p b : Nat) : List Nat := (List.range 96).filter (fun l => linkBundle p l == b)

/-- This package's tray position. -/
def ownPos (s : State) : Nat := trayPos (pkgId s)

/-- Bundle of one of this package's links. -/
def bundleOf (s : State) (l : Nat) : Nat := linkBundle (ownPos s) l

/-- A byte field of the loaded map's header. -/
def mapField (s : State) (o n : Nat) : Nat :=
  match s.fab.map with
  | some m => numAt m o n
  | none => 0

/-- Trays in X and Y of the loaded map, at least 1. -/
def mapXN (s : State) : Nat := max 1 (mapField s 6 1)
def mapYN (s : State) : Nat := max 1 (mapField s 7 1)

/-- Far package and link of link `l` of package `n` in the loaded map (Table 11-10). -/
def mapLink (s : State) (n l : Nat) : Nat × Nat := (mapField s (64 + 208 * n + 2 * l) 1, mapField s (64 + 208 * n + 2 * l + 1) 1)

/-- The neighbour of a package over a bundle (R257). -/
def neighbour (s : State) (pkg b : Nat) : Nat :=
  let xn := mapXN s
  let yn := mapYN s
  let t := trayOf pkg
  let x := t % xn
  let y := t / xn
  let at' (x y : Nat) : Nat := 8 * (y * xn + x) + trayPos pkg
  if b < 8 then 8 * t + b
  else if b = 8 then at' ((x + 1) % xn) y
  else if b = 9 then at' ((x + xn - 1) % xn) y
  else if b = 10 then at' x ((y + 1) % yn)
  else at' x ((y + yn - 1) % yn)

/-! ### The substitution map (R278–R281) -/

/-- The link that holds a position: 127 for a vacant one. -/
def subLink (s : State) (b pos : Nat) : Nat :=
  match tget none s.fab.sub (16 * b + pos) with
  | some l => l
  | none => homeLink (ownPos s) b pos

/-- Give a position to a link. -/
def setSub (s : State) (b pos l : Nat) : State :=
  { s with fab := { s.fab with
      sub := tput none s.fab.sub (16 * b + pos) (if l = homeLink (ownPos s) b pos then none else some l) } }

/-- The position that a link holds, 15 for none. -/
def heldPos (s : State) (l : Nat) : Nat :=
  match (List.range (bundleSize (bundleOf s l))).find? (fun p => subLink s (bundleOf s l) p == l) with
  | some p => p
  | none => 15

/-- A link is in service. While the package is frozen no link sends or receives (R557). -/
def isUp (s : State) (l : Nat) : Bool := decide (l < 96) && rd s (Reg.LINK_STATE l) == 6 && !frozen s

/-- The links of a bundle in service, in ascending physical order (R277). -/
def upOf (s : State) (b : Nat) : List Nat := (bundleLinks (ownPos s) b).filter (isUp s)

/-- RTR bundle registers (Table 11-13) follow the links and the substitution map. -/
def refreshBundle (b : Nat) (s : State) : State :=
  let sp := subLink s b (sparePos b)
  let vac := match (List.range (sparePos b)).find? (fun p => subLink s b p == 127) with | some p => p | none => 15
  wr (wr (wrb s (Reg.RTR_SPARE_OK b) (isUp s sp)) (Reg.RTR_VACANT b) vac) (Reg.RTR_N_UP b) (upOf s b).length

/-- LINK_STATUS shows the position and role of a link (Table 11-16). -/
def refreshLink (l : Nat) (s : State) : State :=
  let b := bundleOf s l
  let p := heldPos s l
  let role := if !isUp s l then 0 else if p < sparePos b then 1 else 2
  wr (wr (wr s (Reg.LINK_BUNDLE l) b) (Reg.LINK_POS l) p) (Reg.LINK_ROLE l) role

/-- A link's open-flit layer. -/
def linkX (s : State) (l : Nat) : LinkX := tget LinkX.fresh s.fab.links l

/-- Change a link's open-flit layer. -/
def modLink (s : State) (l : Nat) (f : LinkX → LinkX) : State :=
  { s with fab := { s.fab with links := tmod LinkX.fresh s.fab.links l f } }

/-- A set bit of RTR_ERR (code 0x0Axx, source 2). -/
def rtrEvent (f : Field) (b inst : Nat) (s : State) : State := setEvent f 2 (0x0A00 + b) 255 inst 0 noRecord s

/-- A set bit of a link's error register (code 0x0Bxx, source 0x0200 + die); its record names the link. -/
def linkError (f : Field) (b l sev : Nat) (feeds : Bool) (s : State) : State :=
  unitError f (0x0200 + l / 28) (0x0B00 + b) 12 l sev 19 255 0 l [] feeds s

/-! ### A link leaves service (R261, R279) -/

/-- The EFFECTIVE frame of a substitution detected now: the next frame before the commit deadline, else the one after. -/
def effectiveNow (s : State) : Nat := (frameNo s + (if s.tick.verdict then 2 else 1)) % 2 ^ 16

/-- One EFFECTIVE frame is earlier than another, as 16-bit serial numbers. -/
def earlier16 (a b : Nat) : Bool := decide (subMod 16 b a < 2 ^ 15) && a != b

/-- Note the substitution of a link's position; of two for one position the earlier EFFECTIVE stands. -/
def noteSub (r : SubReq) (s : State) : State :=
  match s.fab.pendSub.find? (fun q => q.bundle == r.bundle && q.pos == r.pos && q.link == r.link) with
  | some q =>
    if earlier16 r.effective q.effective then
      { s with fab := { s.fab with pendSub := s.fab.pendSub.map (fun x => if x = q then r else x) } }
    else s
  | none => { s with fab := { s.fab with pendSub := s.fab.pendSub ++ [r] } }

/-- An UP link leaves service with a FAULT reason. LINK_DOWN goes out on every UP link of its bundle. -/
def leaveService (l reason eff : Nat) (s : State) : State :=
  if isUp s l then
    let b := bundleOf s l
    let pos := heldPos s l
    let s := wr (wr s (Reg.LINK_STATE l) 7) (Reg.LINK_FAULT_REASON l) reason
    let s := refreshBundle b (wr s (Reg.LINK_ROLE l) 0)
    let s := rtrEvent Reg.RTR_ERR_LINK_DOWN 0 l s
    let s := sendSymbol (upOf s b) 3 (leBytes 1 b ++ leBytes 1 pos ++ leBytes 1 l ++ leBytes 2 eff) s
    if pos = 15 then s else noteSub ⟨b, pos, l, eff⟩ s
  else s

/-- Flits that a link has not delivered go first on another link (R277). -/
def moveFlits (frm dst : Nat) (s : State) : State :=
  let x := linkX s frm
  let s := modLink s dst (fun y => { y with txq := x.retry ++ x.txq ++ y.txq })
  modLink s frm (fun y => { y with txq := [], retry := [], resend := 0 })

/-- Jobs with a SCHED slot on a position, in either direction (R280). -/
def jobsOnPos (s : State) (ents : Nat → List SlotEnt) (b pos : Nat) : List Nat :=
  (List.range 32).filter (fun p => (part s p).job.busy && (ents p).any (fun e => e.bundle == b && e.pos == pos))

/-! ### Slot maps (R268, Table 17-9) -/

/-- A SCHED entry of a SLOTMAP or TRANSIT section (8 bytes). -/
def slotEntOf (slice : Nat) (b : Bytes) : SlotEnt :=
  { ingress := bit (numAt b 1 1) 0, bundle := numAt b 0 1 / 16, pos := numAt b 0 1 % 16, slot := numAt b 2 2, slice := slice,
    stream := numAt b 4 2, use := numAt b 6 1 }

/-- `n` SCHED entries from offset `o` of a section. -/
def slotEnts (slice : Nat) (sec : Bytes) (o n : Nat) : List SlotEnt :=
  (List.range n).map (fun i => slotEntOf slice (bytesAt sec (o + 8 * i) 8))

/-- The SCHED entries of a partition's image. -/
def imageEnts (im : Image) (slice : Nat) : List SlotEnt :=
  let sec := sectionOf im 0x07 255
  slotEnts slice sec 16 (numAt sec 0 4)

/-- The SCHED entries that a partition's job holds: its job is STARTING, RUNNING or PAUSED. -/
def partEnts (s : State) (p : Nat) : List SlotEnt :=
  let q := part s p
  match q.image with
  | some im => if q.job.busy then imageEnts im (sliceOf s p) else []
  | none => []

/-- The slot map that the next tick puts in force: the union of every reservation (R268, R431). -/
def nextSlotMap (s : State) : List SlotEnt :=
  ((List.range 32).map (partEnts s)).foldr (· ++ ·) [] ++ (s.fab.transit.map (·.ents)).foldr (· ++ ·) []

/-- Two entries name the same slot of the same position and direction. -/
def sameSlot (a b : SlotEnt) : Bool :=
  a.ingress == b.ingress && a.bundle == b.bundle && a.pos == b.pos && a.slot == b.slot

/-- The entry in force for a slot. -/
def slotAt (s : State) (ingress : Bool) (b pos slot : Nat) : Option SlotEnt :=
  s.fab.slotMap.find? (fun e => e.ingress == ingress && e.bundle == b && e.pos == pos && e.slot == slot)

/-- A route entry of a SLOTMAP section (16 bytes): a transfer that this package sends as source. -/
structure RouteEnt where
  stream : Nat
  slot : Nat
  nhop : Nat
  dest : Nat
  phase : Nat
  route : List Nat
  deriving DecidableEq, Repr

/-- The route entries of a partition's image. -/
def imageRoutes (im : Image) : List RouteEnt :=
  let sec := sectionOf im 0x07 255
  let o := 16 + 8 * numAt sec 0 4
  (List.range (numAt sec 4 4)).map (fun i =>
    let b := bytesAt sec (o + 16 * i) 16
    { stream := numAt b 0 2, slot := numAt b 2 2, nhop := numAt b 4 1, dest := numAt b 5 1, phase := numAt b 6 2,
      route := (List.range 5).map (fun h => numAt b (8 + h) 1) })

/-! ### Routes of open packets (R275–R277, R287) -/

/-- The next hop of a minimal route from `pkg` to `dest`: bundle, and whether the hop crosses a dateline. -/
def minimalHop (s : State) (pkg dest : Nat) : Nat × Bool :=
  let xn := mapXN s
  let yn := mapYN s
  let t := trayOf pkg
  let u := trayOf dest
  let dx := (u % xn + xn - t % xn) % xn
  let dy := (u / xn + yn - t / xn) % yn
  if dx ≠ 0 then
    (if 2 * dx ≤ xn then (8, t % xn == xn - 1) else (9, t % xn == 0))
  else if dy ≠ 0 then
    (if 2 * dy ≤ yn then (10, t / xn == yn - 1) else (11, t / xn == 0))
  else (trayPos dest, false)

/-- The packages after `pkg` on the minimal route to `dest`, at most 5 hops. -/
def minimalPath (s : State) : Nat → Nat → Nat → List Nat
  | 0, _, _ => []
  | n + 1, pkg, dest =>
    if pkg = dest then []
    else let q := neighbour s pkg (minimalHop s pkg dest).1
      q :: minimalPath s n q dest

/-- The minimal route to a destination is whole as far as this package knows: its first bundle has an UP link, and no
package on the way is fenced. -/
def routeWhole (s : State) (dest : Nat) : Bool :=
  !(upOf s (minimalHop s (pkgId s) dest).1).isEmpty &&
    ((minimalPath s 6 (pkgId s) dest).dropLast).all (fun q => !s.tick.fencedPkgs.contains q)

/-- The destinations that need a detour (R276). -/
def detourSet (s : State) : List Nat :=
  (List.range (mapField s 8 1)).filter (fun d => d != pkgId s && !routeWhole s d)

/-- The tray mate that a detour goes to first: the lowest q > p, modulo 8, with an UP link towards it. -/
def detourVia (s : State) : Option Nat :=
  ((List.range 7).map (fun i => (ownPos s + 1 + i) % 8)).find? (fun q => !(upOf s q).isEmpty)

/-- The bundle a hop uses and the virtual channel it travels on. `inb` is the bundle a transit packet came in on, with its
channel there. A packet enters each ring dimension on VC0 and moves to VC1 after it crosses the dateline; a tray hop uses
VC1, the first hop of a detour VC0. -/
def hopOf (s : State) (dest : Nat) (inb : Option (Nat × Nat)) : Option (Nat × Nat) :=
  let own := pkgId s
  if inb.isNone && s.fab.detour.contains dest then
    (match detourVia s with
     | some q => some (q, 0)
     | none => none)
  else
    let h := (minimalHop s own dest).1
    let vc := if h < 8 then 1
      else match inb with
        | some (b, v) =>
          if 8 ≤ b ∧ (b - 8) / 2 = (h - 8) / 2 then
            (if (minimalHop s (neighbour s own b) own).2 then 1 else v)
          else 0
        | none => 0
    if (upOf s h).isEmpty then none else some (h, vc)

/-- Under a bring-up map packets go one hop, to a neighbour that the map connects (R287). -/
def bringUpLink (s : State) (dest : Nat) : Option Nat :=
  (upLinks s).find? (fun l => (mapLink s (pkgId s) l).1 == dest)

/-- The link an open packet leaves on, and its channel: within the bundle the link is chosen by (DEST, FLOW) (R277). -/
def egressLink (s : State) (dest flow : Nat) (inb : Option (Nat × Nat)) : Option (Nat × Nat) :=
  if rd s Reg.RTR_MAP_KIND = 2 then (bringUpLink s dest).map (fun l => (l, 0))
  else match hopOf s dest inb with
    | some (b, vc) =>
      let ls := upOf s b
      (ls[Config.spread dest flow % ls.length]?).map (fun l => (l, vc))
    | none => none

/-! ### Packets (R272) -/

/-- Cut a payload into flits of 240 bytes. -/
def chunk240 : Nat → Bytes → List Bytes
  | 0, _ => []
  | n + 1, b => if b.length ≤ 240 then [b] else b.take 240 :: chunk240 n (b.drop 240)

/-- The flits of a packet. -/
def flitsOf (type : Nat) (rsp : Bool) (vc dest src spart flow : Nat) (b : Bytes) : List Flit :=
  let cs := chunk240 18 b
  (cs.zip (List.range cs.length)).map (fun c =>
    { type := type, rsp := rsp, vc := vc, dest := dest, src := src, spart := spart, flow := flow,
      first := c.2 == 0, last := c.2 + 1 == cs.length, pay := c.1 })

/-- Send a packet: none where no route is whole (R276). A packet to this package goes to its own queues. -/
def sendPacket (type : Nat) (rsp : Bool) (dest spart flow : Nat) (b : Bytes) (s : State) : Option State :=
  if dest = pkgId s then
    let k : Packet := ⟨type, rsp, dest, spart, b⟩
    some (if type = 2 then { s with fab := { s.fab with ring := s.fab.ring ++ [k] } }
          else { s with fab := { s.fab with packets := s.fab.packets ++ [k] } })
  else match egressLink s dest flow none with
    | some (l, vc) =>
      let s := if s.fab.detour.contains dest then bump s Reg.RTR_DETOUR_CNT 1 else s
      some (modLink s l (fun x => { x with txq := x.txq ++ flitsOf type rsp vc dest (pkgId s) spart flow b }))
    | none => none

/-! ### Edge rejects and accusations (R35, R37) -/

/-- Package-timer time, ns. -/
def pkgNs (s : State) : Nat := s.cal.upNs + inFrameNs s

/-- Edge rejects against neighbour `n` within the last 1 s. -/
def recentRejects (s : State) (n : Nat) : List Nat :=
  (tget [] s.fab.rejects n).filter (fun t => decide (pkgNs s ≤ t + 1000000000))

/-- The master elects a standby among the eligible packages it knows in other trays (R31). -/
def electStandby (s : State) : State :=
  let c := s.tick.joined.filter (fun j => j.2.2 != trayOf (pkgId s) && !s.tick.fencedPkgs.contains j.1)
  let best := c.foldl (fun (b : Option (Nat × Nat × Nat)) j =>
    match b with
    | none => some j
    | some x => if x.2.1 < j.2.1 ∨ (x.2.1 = j.2.1 ∧ j.1 < x.1) then some j else b) none
  match best with
  | some j => wr (wr s Reg.TICK_STANDBY_ID j.1) Reg.TICK_NO_STANDBY 0
  | none => wr (wr s Reg.TICK_STANDBY_ID 255) Reg.TICK_NO_STANDBY 1

/-- The standby becomes master with GEN incremented (R39); it applies the stretch requests it holds (R47). -/
def takeover (s : State) : State :=
  let s := wr (wr s Reg.TICK_ROLE 1) Reg.TICK_MASTER_ID (pkgId s)
  let s := wr (bump s Reg.TICK_GEN 1) Reg.TICK_STANDBY_ID 255
  let s := { s with tick := { s.tick with missed := 0, takeoverAge := some 0 } }
  tickEvent Reg.TICK_EV_TAKEOVER 5 (wr (wr s Reg.TICK_HOLDOVER 0) Reg.TICK_PRIM_UP 127)

/-- A package's tick is reported faulty (R37): the master fences it by its next tick symbol; the standby fences the master
and takes over. -/
def accuse (accused : Nat) (s : State) : State :=
  if rd s Reg.TICK_ROLE = 1 ∧ accused ≠ pkgId s then { s with tick := { s.tick with fenceNext := accused } }
  else if rd s Reg.TICK_ROLE = 2 ∧ rd s Reg.TICK_MASTER_ID = accused then
    takeover { s with tick := { s.tick with fenceNext := accused } }
  else s

/-- A FAULT_RPT is flooded once per new (reporter, faulty) pair (R267). -/
def floodReport (reporter accused frame : Nat) (s : State) : State :=
  if s.tick.rptSeen.contains (reporter, accused) then s
  else
    let s := { s with tick := { s.tick with rptSeen := s.tick.rptSeen ++ [(reporter, accused)] } }
    accuse accused (sendSymbol (upLinks s) 4 (leBytes 1 reporter ++ leBytes 1 accused ++ leBytes 6 frame) s)

/-- `n` edge rejects against the neighbour on a link; three within 1 s report the neighbour (R35, R37). -/
def edgeReject (l n : Nat) (s : State) : State :=
  let b := bundleOf s l
  let s := bump (bump s Reg.TICK_EDGE_REJECT_CNT n) (Reg.LINK_EDGE_REJECT_CNT l) n
  let s := linkError (Reg.LINK_ERR_EDGE_REJECT l) 4 l 1 false s
  let ts := List.replicate (min n 255) (pkgNs s) ++ recentRejects s b
  let s := { s with fab := { s.fab with rejects := tput [] s.fab.rejects b (ts.take 255) } }
  let s := wr s (Reg.TICK_NBR_REJECT b) (min 255 ts.length)
  if 3 ≤ ts.length then
    floodReport (pkgId s) (neighbour s (pkgId s) b) (frameNo s) (tickEvent Reg.TICK_EV_NBR_FAULT 3 s)
  else s

/-! ### CTL messages (R291, R292) -/

/-- The 32-byte CTL header (Table 11-19). -/
def ctlHeader (mtype len : Nat) (h : CtlHdr) : Bytes :=
  leBytes 2 mtype ++ leBytes 2 len ++ leBytes 1 h.srcPart ++ leBytes 1 h.dstPart ++ leBytes 1 h.slice ++
  leBytes 1 h.role ++ leBytes 8 h.epoch ++ leBytes 4 h.mseq ++ leBytes 4 h.replyTo ++ leBytes 6 h.frame ++ leBytes 2 0

/-- A message goes out as an open packet of TYPE 2, class REQ; with no whole route it is lost, and a repetition follows. -/
def putCtl (dst mtype mseq : Nat) (hdr body : Bytes) (s : State) : State :=
  match sendPacket 2 false dst 0 0 (hdr ++ body) s with
  | some s => emit s (.ctl dst mtype mseq (hdr ++ body))
  | none => s

/-- Who a message is from and for: sending and receiving partition, and the slice, role and epoch expected there. -/
structure CtlTo where
  srcPart : Nat
  dstPart : Nat
  slice : Nat
  role : Nat
  epoch : Nat
  deriving DecidableEq, Repr

/-- From Kaolin to Kaolin, nothing expected. -/
def kaolinTo : CtlTo := ⟨255, 255, 255, 255, 0⟩

/-- Send a new message; with `rep` it is repeated until answered. `replyTo` is 0xFFFFFFFF for none. -/
def sendCtl (dst mtype : Nat) (ct : CtlTo) (replyTo : Nat) (body : Bytes) (rep : Bool) (s : State) : State :=
  let n := tget 0 s.fab.mseq dst
  let hdr := ctlHeader mtype body.length
    ⟨pkgId s, ct.srcPart, ct.dstPart, ct.slice, ct.role, ct.epoch, n, replyTo, frameNo s⟩
  let s := { s with fab := { s.fab with
    mseq := tput 0 s.fab.mseq dst ((n + 1) % 2 ^ 32),
    unanswered := if rep then s.fab.unanswered ++ [⟨dst, mtype, n, hdr, body, 0, ct.srcPart⟩] else s.fab.unanswered } }
  putCtl dst mtype n hdr body s

/-- What applying a message answers: none, or the answer's MTYPE and body. -/
abbrev CtlAnswer := Option (Nat × Bytes)

/-- An ACK with a status (Table 11-20). -/
def ackWith (st : Nat) : CtlAnswer := some (1, leBytes 2 st ++ leBytes 6 0)

/-- Answer a message. -/
def answerCtl (h : CtlHdr) (a : CtlAnswer) (s : State) : State :=
  match a with
  | some (t, b) => sendCtl h.srcPkg t { kaolinTo with srcPart := h.dstPart, dstPart := h.srcPart } h.mseq b false s
  | none => s

/-- A message that is dropped (R273, R291). -/
def dropCtl (s : State) : State := rtrEvent Reg.RTR_ERR_CTL_DROP 4 0 (bump s Reg.RTR_CTL_DROP_CNT 1)

/-- What the header expects of the receiving partition holds there (R291, R355). -/
def expected (s : State) (h : CtlHdr) : Bool :=
  h.dstPart == 255 ||
    (let q := part s h.dstPart
     (h.slice == 255 || sliceOf s h.dstPart == h.slice) &&
     (h.role == 255 || (match q.image with | some im => q.job.busy && im.role == h.role | none => false)) &&
     (h.epoch == 0 || q.modelEpoch == h.epoch))

/-- The messages kept of one source, at most 1,024 (R292). -/
def noteSeen (c : CtlSeen) (s : State) : State :=
  let other := s.fab.seen.filter (fun x => x.src != c.src)
  let mine := s.fab.seen.filter (fun x => x.src == c.src)
  { s with fab := { s.fab with seen := (c :: mine).take 1024 ++ other } }

/-- The REPLY_TO of a message ends the repetition of the message it answers (R292). -/
def answered (h : CtlHdr) (s : State) : State :=
  { s with fab := { s.fab with unanswered := s.fab.unanswered.filter (fun o => !(o.dst == h.srcPkg && o.mseq == h.replyTo)) } }

/-- Apply a message once: a copy is answered as before, a stale one is dropped, counted and answered with
EPOCH_MISMATCH, and any other has the effect `f`, whose answer goes out (R291, R292, R355). -/
def applyCtl (h : CtlHdr) (f : State → CtlAnswer × State) (s : State) : State :=
  let s := answered h s
  match s.fab.seen.find? (fun c => c.src == h.srcPkg && c.mseq == h.mseq) with
  | some c => answerCtl h (if c.mtype = 0 then none else some (c.mtype, c.body)) s
  | none =>
    if expected s h then
      let r := f s
      let c : CtlSeen := match r.1 with | some (t, b) => ⟨h.srcPkg, h.mseq, t, b⟩ | none => ⟨h.srcPkg, h.mseq, 0, []⟩
      answerCtl h r.1 (noteSeen c r.2)
    else
      answerCtl h (ackWith 0x0381)
        (setEvent Reg.SRV_ERR_STALE_MSG 3 0x0E03 h.dstPart h.dstPart 0 noRecord (bump s Reg.SRV_STALE_MSG_CNT 1))

/-- The members of a partition's slice, by rank. -/
def membersOf (s : State) (p : Nat) : List (Nat × Nat) :=
  match (part s p).slice with
  | some b => b.members
  | none => []

/-- The lead of a partition's slice. -/
def leadOf (s : State) (p : Nat) : Nat × Nat := (membersOf s p).headD (255, 255)

/-- The partition on this package bound to a slice. -/
def partOfSlice (s : State) (sl : Nat) : Option Nat :=
  (List.range 32).find? (fun p => (part s p).present && sliceOf s p == sl && sl != 255)

end Sys2Proof.Machine
end

