-- ==== Sys2Proof/Machine/Links.lean ====
section
/-!
DEFINITION. Fabric links: training (R260), leaving service and retraining (R261, R262), control symbols (R266, R267), the
installed map (R283–R286), the slot-map probe (R289), and the commands TOPO_LOAD_MAP, TOPO_VERIFY and LINK_QUERY.
-/

namespace Sys2Proof.Machine

/-! ### Training (R259, R260) -/

/-- The link die of a link is powered and its SerDes reference is present. -/
def dieReady (s : State) (l : Nat) : Bool := rdb s (Reg.LD_POWERED (l / 28)) && rdb s (Reg.LD_REFCLK_LOCK (l / 28))

/-- Fabric links train from the stage LINKS_TRAIN on. -/
def fabricTrains (s : State) : Bool := decide (4 ≤ pstate s) || s.pwr.stage == some 4

/-- A link enters TRAIN: its lanes search for lock and its open-flit layer starts afresh. -/
def startTrain (l : Nat) (s : State) : State :=
  let s := wr (wr (wr s (Reg.LINK_STATE l) 2) (Reg.LINK_LANE0_LOCK l) 0) (Reg.LINK_LANE1_LOCK l) 0
  let s := wr (wr s (Reg.LINK_IDENT_VALID l) 0) (Reg.LINK_MATCH l) 0
  modLink s l (fun _ => LinkX.fresh)

/-- A training step fails: the link enters FAULT with the reason (Table 11-3). -/
def trainFault (l reason : Nat) (s : State) : State :=
  wr (wr s (Reg.LINK_STATE l) 7) (Reg.LINK_FAULT_REASON l) reason

/-! ### The map check (R286, R532) -/

/-- The links that fail TOPO_VERIFY (R286): a link in MISMATCH, a link that the map lists as unconnected and that has
trained to a far end, and in a bundle below its scheduled count the links that are not UP. -/
def failingLinks (s : State) : List Nat :=
  (List.range 96).filter (fun l =>
    let b := bundleOf s l
    let far := (mapLink s (pkgId s) l).1
    rd s (Reg.LINK_STATE l) == 8 || (far == 255 && rdb s (Reg.LINK_IDENT_VALID l)) ||
      (far != 255 && decide ((upOf s b).length < sparePos b) && !isUp s l))

/-- Every bundle that the map connects has at least its scheduled count of links UP. -/
def bundlesOk (s : State) : Bool :=
  (List.range 12).all (fun b =>
    b == ownPos s || decide (sparePos b ≤ (upOf s b).length) ||
      (bundleLinks (ownPos s) b).all (fun l => (mapLink s (pkgId s) l).1 == 255))

/-- TOPO_VERIFY's conditions hold. -/
def topoOk (s : State) : Bool := rd s Reg.RTR_MAP_KIND == 1 && (failingLinks s).isEmpty && bundlesOk s

/-- A power request has come to its end: the report of Table 18-19. -/
def powerOutcome (st : Nat) (s : State) : State :=
  match s.pwr.powerOp with
  | some id =>
    outcome id 0x8010 255 (leBytes 4 id ++ leBytes 2 st ++ leBytes 1 (pstate s)) []
      { s with pwr := { s.pwr with powerOp := none } }
  | none => s

/-- A package in TOPO_CHECK that follows no master checks its map: a bring-up map passes when it is loaded, an installed one
when TOPO_VERIFY passes (R532). -/
def mapCheck (s : State) : State :=
  if pstate s = 5 ∧ rd s Reg.TICK_ROLE = 0 then
    let kind := rd s Reg.RTR_MAP_KIND
    let ok := topoOk s
    let s := if kind = 1 then wrb s Reg.RTR_VERIFIED ok else s
    { s with tick := { s.tick with mapChecked := ok || kind == 2 } }
  else s

/-- LINKS_TRAIN leads to TOPO_CHECK where the target lies above it. A package ID of 144 or more needs a bring-up map
(R555). -/
def enterTopo (s : State) : State :=
  if pstate s = 4 ∧ s.pwr.stage = none ∧ !rdb s Reg.SEQ_DOWN ∧ 5 ≤ rd s Reg.SEQ_TARGET ∧
      (pkgId s < 144 ∨ rd s Reg.RTR_MAP_KIND = 2) then
    let s := setPstate s 5
    mapCheck (if rd s Reg.SEQ_TARGET = 5 then powerOutcome 0 s else s)
  else s

/-- The far identity matches the loaded map (R285). -/
def identMatches (s : State) (l : Nat) : Bool :=
  rdb s (Reg.LINK_IDENT_VALID l) &&
    mapLink s (pkgId s) l == (rd s (Reg.LINK_FAR_PKG l), rd s (Reg.LINK_FAR_LINK l)) &&
    (linkX s l).farDigest == rd s Reg.RTR_MAP_DIGEST

/-- A link enters MISMATCH (R285). -/
def enterMismatch (l : Nat) (s : State) : State :=
  rtrEvent Reg.RTR_ERR_MISMATCH 2 l
    (linkError (Reg.LINK_ERR_MISMATCH l) 7 l 1 false (wr (wr s (Reg.LINK_STATE l) 8) (Reg.LINK_ROLE l) 0))

/-- A link that has passed VERIFY: it enters UP, or MISMATCH where a map is loaded and does not match. A link that holds
its position takes its role at once; one that has lost it takes a role at the next tick (R281). -/
def finishTrain (l : Nat) (s : State) : State :=
  if rd s Reg.RTR_MAP_KIND ≠ 0 ∧ !identMatches s l then enterMismatch l s
  else
    let s := wr (wr (wr s (Reg.LINK_STATE l) 6) (Reg.LINK_RETRAINS l) 0) (Reg.LINK_FAULT_REASON l) 0
    let s := if heldPos s l = 15 then { s with fab := { s.fab with retrained := s.fab.retrained ++ [l] } } else s
    mapCheck (refreshBundle (bundleOf s l) (refreshLink l s))

/-- TRAINING_STEP_DONE: the step's pass condition holds. -/
def trainingStep (l : Nat) (s : State) : State :=
  let x := linkX s l
  match rd s (Reg.LINK_STATE l) with
  | 2 =>
    if x.laneOk then wr s (Reg.LINK_STATE l) 3
    else modLink (wr (wr s (Reg.LINK_LANE0_LOCK l) 1) (Reg.LINK_LANE1_LOCK l) 1) l (fun x => { x with laneOk := true })
  | 3 =>
    if x.echoes < 64 then s
    else
      let d := x.echoSum / (2 * x.echoes)
      let s := wr s (Reg.LINK_DELAY l) d
      if d ≤ 880 then wr s (Reg.LINK_STATE l) 4 else trainFault l 4 s
  | 4 => if rdb s (Reg.LINK_IDENT_VALID l) then wr s (Reg.LINK_STATE l) 5 else s
  | 5 => finishTrain l s
  | _ => s

/-- TRAINING_STEP_DONE. -/
def execTrainingStepDone (l : Nat) (s : State) : Host.Outcome State Fault Refusal :=
  .next (if l < 96 then trainingStep l s else s)

/-- TRAINING_STEP_TIMEOUT: the step has not finished within its limit (Table 11-3). -/
def execTrainingStepTimeout (l : Nat) (s : State) : Host.Outcome State Fault Refusal :=
  if 96 ≤ l then .next s
  else match rd s (Reg.LINK_STATE l) with
    | 2 => .next (trainFault l (if (linkX s l).laneOk then 2 else 1) s)
    | 3 => .next (trainFault l 4 s)
    | 4 => .next (trainFault l 1 s)
    | 5 => .next (trainFault l 5 s)
    | _ => .next s

/-- A link may retrain: it is in FAULT, it is neither fenced nor disabled, and its die is ready (R262). -/
def mayRetrain (s : State) (l : Nat) : Bool :=
  decide (l < 96) && rd s (Reg.LINK_STATE l) == 7 && !inFenceTable s 12 l && !rdb s (Reg.LINK_CTRL_DISABLE l) && dieReady s l

/-- RETRAIN_TIMER: RETRAIN_MS after it entered FAULT a link retrains, at most RETRAIN_MAX times. -/
def execRetrainTimer (l : Nat) (s : State) : Host.Outcome State Fault Refusal :=
  if mayRetrain s l ∧ rd s (Reg.LINK_RETRAINS l) < rd s Reg.RTR_RETRAIN_MAX then
    .next (startTrain l (bump s (Reg.LINK_RETRAINS l) 1))
  else .next s

/-- LINK_RETRAIN: a write of LINK_CTRL.RETRAIN; the bit clears when training starts, so it reads 1 only while the link
cannot retrain. -/
def execLinkRetrain (l : Nat) (s : State) : Host.Outcome State Fault Refusal :=
  if mayRetrain s l then .next (startTrain l (wr (bump s (Reg.LINK_RETRAINS l) 1) (Reg.LINK_CTRL_RETRAIN l) 0))
  else .next s

/-- LINK_OUT: a write of LINK_CTRL.OUT takes an UP link out of service; the bit clears when done. -/
def execLinkOut (l : Nat) (s : State) : Host.Outcome State Fault Refusal := .next (leaveService l 7 (effectiveNow s) s)

/-- LINK_DISABLE: DISABLE holds the link in DOWN; cleared, a powered link trains again. -/
def execLinkDisable (l : Nat) (on : Bool) (s : State) : Host.Outcome State Fault Refusal :=
  if 96 ≤ l then .next s
  else
    let s := wrb s (Reg.LINK_CTRL_DISABLE l) on
    if on then
      let s := leaveService l 7 (effectiveNow s) s
      .next (if rd s (Reg.LINK_STATE l) = 0 then s else wr s (Reg.LINK_STATE l) 1)
    else if rd s (Reg.LINK_STATE l) = 1 ∧ dieReady s l ∧ fabricTrains s then .next (startTrain l s)
    else .next s

/-! ### Errors of a link (R261) -/

/-- LANE_LOCK_LOSS: a lane loses lock, or FEC alignment is lost. -/
def execLaneLockLoss (l lane : Nat) (fecAlign : Bool) (s : State) : Host.Outcome State Fault Refusal :=
  if 96 ≤ l ∨ rd s (Reg.LINK_STATE l) < 2 then .next s
  else if fecAlign then
    .next (leaveService l 2 (effectiveNow s) (linkError (Reg.LINK_ERR_FEC_ALIGN l) 1 l 1 true s))
  else
    let s := wr s (if lane = 0 then Reg.LINK_LANE0_LOCK l else Reg.LINK_LANE1_LOCK l) 0
    .next (leaveService l 1 (effectiveNow s) (linkError (Reg.LINK_ERR_LOCK_LOSS l) 0 l 1 true s))

/-- FEC_UE_LIMIT: `count` uncorrectable codewords have arrived within 1 s; more than UE_LIMIT take the link out. -/
def execFecUeLimit (l count : Nat) (s : State) : Host.Outcome State Fault Refusal :=
  if 96 ≤ l ∨ count = 0 then .next s
  else
    let s := linkError (Reg.LINK_ERR_FEC_UE l) 2 l 1 true (bump s (Reg.LINK_FEC_UE_CNT l) count)
    if rd s Reg.RTR_UE_LIMIT < count then .next (leaveService l 3 (effectiveNow s) s) else .next s

/-! ### Control symbols (R266, R267) -/

/-- A symbol that fails its CRC, or has a reserved KIND, is discarded and counted. -/
def badSymbol (s : State) : State := rtrEvent Reg.RTR_ERR_SYM_CRC 5 0 (bump s Reg.RTR_SYM_CRC_CNT 1)

/-- ABORT_SYMBOL_RECEIVE: merged into the bitmap of its KIND and relayed where the bitmap gains a slice; one that names
another frame than the running one has come after its verdict window closed. -/
def execAbortSymbolReceive (l : Nat) (crcOk : Bool) (kind frame : Nat) (slices : List Nat) (s : State) :
    Host.Outcome State Fault Refusal :=
  if !isUp s l then .next s
  else if !crcOk || decide (2 < kind) then .next (badSymbol s)
  else if frame % 2 ^ 16 ≠ frameNo s % 2 ^ 16 then .next (bump s Reg.TICK_LATE_ABORT_CNT 1)
  else
    let new := slices.filter (fun x => !(abortMap s kind).contains x)
    if new.isEmpty then .next s
    else .next (floodAbort kind { s with tick := new.foldl (fun t x => markAbort t kind x) s.tick })

/-- LINK_DOWN_SYMBOL: the far end of this link's bundle has taken the link of a position out of service. This end takes
its own link of that position out with the same EFFECTIVE, and of two EFFECTIVE frames adopts the earlier. -/
def execLinkDownSymbol (l : Nat) (crcOk : Bool) (pos effective : Nat) (s : State) : Host.Outcome State Fault Refusal :=
  if !isUp s l then .next s
  else if !crcOk then .next (badSymbol s)
  else
    let b := bundleOf s l
    let k := subLink s b pos
    if isUp s k then .next (leaveService k 1 (effective % 2 ^ 16) s)
    else if k = 127 then .next s
    else .next (noteSub ⟨b, pos, k, effective % 2 ^ 16⟩ s)

/-- FAULT_RPT_SYMBOL: flooded once per pair; the master fences the accused package, and the standby an accused master. -/
def execFaultRptSymbol (l : Nat) (crcOk : Bool) (reporter accused frame : Nat) (s : State) :
    Host.Outcome State Fault Refusal :=
  if !isUp s l then .next s else if !crcOk then .next (badSymbol s) else .next (floodReport reporter accused frame s)

/-- ECHO_SYMBOL in ALIGN: a request is answered with this end's turnaround; a response is one exchange of the delay
measurement. Times are in 0.125 ns. -/
def execEchoSymbol (l : Nat) (crcOk response : Bool) (roundTrip turnaround : Nat) (s : State) :
    Host.Outcome State Fault Refusal :=
  if 96 ≤ l ∨ rd s (Reg.LINK_STATE l) ≠ 3 then .next s
  else if !crcOk then .next (badSymbol s)
  else if response then
    .next (modLink s l (fun x => { x with echoes := x.echoes + 1, echoSum := x.echoSum + (roundTrip - turnaround) }))
  else .next (sendSymbol [l] 5 (leBytes 1 1 ++ leBytes 2 turnaround) s)

/-- IDENT_SYMBOL in IDENT and, every second, in UP: the far identity is recorded, and an UP link that does not match a
loaded map leaves for MISMATCH. -/
def execIdentSymbol (l : Nat) (crcOk : Bool) (sym : IdentSym) (s : State) : Host.Outcome State Fault Refusal :=
  if 96 ≤ l ∨ rd s (Reg.LINK_STATE l) < 4 ∨ 6 < rd s (Reg.LINK_STATE l) then .next s
  else if !crcOk then .next (badSymbol s)
  else
    let s := modLink s l (fun x => { x with farDigest := sym.digest % 2 ^ 64 })
    let s := wr (wr (wr s (Reg.LINK_FAR_PKG l) sym.pkg) (Reg.LINK_FAR_LINK l) sym.link) (Reg.LINK_IDENT_VALID l) 1
    let s := wrb s (Reg.LINK_MATCH l) (rd s Reg.RTR_MAP_KIND != 0 && identMatches s l)
    if isUp s l && rd s Reg.RTR_MAP_KIND != 0 && !identMatches s l then
      .next (enterMismatch l (leaveService l 0 (effectiveNow s) s))
    else .next s

/-! ### Detours and the probe (R276, R289) -/

/-- DETOUR_TABLE_REBUILD: the rebuilt table takes effect at the next tick. -/
def execDetourTableRebuild (s : State) : Host.Outcome State Fault Refusal :=
  .next { s with fab := { s.fab with detourNext := some (detourSet s) } }

/-- RTR_PROBE_WRITE: the slot-map entry in force of a link, direction and slot. A link that holds no position, and a slot
beyond the frame, give no valid result. -/
def execRtrProbeWrite (link : Nat) (ingress : Bool) (slot : Nat) (s : State) : Host.Outcome State Fault Refusal :=
  let pos := if link < 96 then heldPos s link else 15
  let ok : Bool := pos != 15 && decide (slot < s.tick.len)
  let e := if ok then slotAt s ingress (bundleOf s link) pos slot else none
  let s := wrb s Reg.RTR_PROBE_VALID ok
  match e with
  | some e => .next (wr (wr s Reg.RTR_PROBE_KIND 1) Reg.RTR_PROBE_SLICE e.slice)
  | none => .next (wr (wr s Reg.RTR_PROBE_KIND 0) Reg.RTR_PROBE_SLICE 0)

/-! ### Maps (R283–R286) -/

/-- Header and geometry of a map (Table 11-10). -/
def mapHeaderOk (m : Bytes) : Bool :=
  numAt m 0 4 == 0x50414D4E && numAt m 4 1 == 1 && decide (numAt m 5 1 ≤ 1) &&
    decide (1 ≤ numAt m 6 1) && decide (numAt m 6 1 ≤ 6) && decide (1 ≤ numAt m 7 1) && decide (numAt m 7 1 ≤ 3) &&
    numAt m 8 1 == 8 * numAt m 6 1 * numAt m 7 1 && numAt m 9 7 == 0 && numAt m 24 40 == 0 &&
    m.length == 64 + 208 * numAt m 8 1 + 96

/-- In an installed map every link that is connected goes to the package and position of R256 and R257. -/
def pairingOk (s : State) (m : Bytes) : Bool :=
  let t : State := { s with fab := { s.fab with map := some m } }
  (List.range (numAt m 8 1)).all (fun n => (List.range 96).all (fun l =>
    let far := mapLink t n l
    far.1 == 255 ||
      (let b := linkBundle (trayPos n) l
       let q := neighbour t n b
       let back := if b < 8 then trayPos n else (if b % 2 = 0 then b + 1 else b - 1)
       far == (q, homeLink (trayPos q) back (linkPos l)))))

/-- The public key that verifies a map of a KIND (R283): class 3 installed, class 4 bring-up. -/
def mapKey (s : State) (kind : Nat) : Option Bytes := (s.keys.find? (fun k => k.cls == 3 + kind)).map (·.material)

/-- The signature covers the header and the records. -/
def mapSigned (s : State) (m : Bytes) : Bool :=
  let n := m.length - 96
  match mapKey s (numAt m 5 1) with
  | some k => ecdsaVerify k (sha384 (m.take n)) (m.drop n)
  | none => false

/-- The loaded map's record of this package goes to the tick unit (R284). -/
def loadTickLinks (s : State) : State :=
  let o := 64 + 208 * pkgId s
  let down := mapField s (o + 194) 12
  let s := (List.range 3).foldl (fun s m => wr s (Reg.TICK_LINK_MASK m) (bits down (32 * m) 32)) s
  let s := wr (wr s Reg.TICK_PRIM_UP (mapField s (o + 192) 1)) Reg.TICK_ALT_UP (mapField s (o + 193) 1)
  let el := mapField s (o + 206) 1
  wr (wr s Reg.TICK_MASTER_ELIG (el / 128)) Reg.TICK_MASTER_PRIO (el % 16)

/-- Compare every UP link with the loaded map, and let a link in MISMATCH retrain against it (R285). -/
def compareLinks (s : State) : State :=
  (List.range 96).foldl (fun s l =>
    let s := wrb s (Reg.LINK_MATCH l) (identMatches s l)
    if isUp s l ∧ !identMatches s l then enterMismatch l (leaveService l 0 (effectiveNow s) s)
    else if rd s (Reg.LINK_STATE l) = 8 ∧ dieReady s l then startTrain l s
    else s) s

/-- TOPO_LOAD_MAP (R284). -/
def cmdTopoLoadMap (e : Entry) (io : HostIo) (s : State) : CmdOut :=
  if anyJob s then refuseCmd 0x0300 s
  else match inputOf e io (arg e 16 4) with
    | none => refuseCmd 0x0500 s
    | some m =>
      if m.length ≠ arg e 16 4 ∨ m.length < 160 then refuseCmd 0x0104 s
      else if !mapSigned s m then refuseCmd 0x0460 s
      else if !mapHeaderOk m || decide (numAt m 8 1 ≤ pkgId s) || (numAt m 5 1 == 0 && !pairingOk s m) then refuseCmd 0x0102 s
      else
        let s := { s with fab := { s.fab with map := some m } }
        let s := wr (wr s Reg.RTR_MAP_KIND (numAt m 5 1 + 1)) Reg.RTR_MAP_SEQ (numAt m 16 8)
        let s := wr (wr s Reg.RTR_MAP_DIGEST ((sha256 m).toNat % 2 ^ 64)) Reg.RTR_VERIFIED 0
        doneCmd (leBytes 8 (numAt m 16 8)) (mapCheck (enterTopo (compareLinks (loadTickLinks s))))

/-- TOPO_LOAD_MAP. -/
def execTopoLoadMap (e : Entry) (io : HostIo) (s : State) : Host.Outcome State Fault Refusal :=
  runRow Row.topoLoadMap cmdTopoLoadMap e io s

/-- TOPO_VERIFY (R286): VERIFIED shows whether the last one passed. -/
def cmdTopoVerify (_ : Entry) (_ : HostIo) (s : State) : CmdOut :=
  if topoOk s then doneCmd [] { (wr s Reg.RTR_VERIFIED 1) with tick := { s.tick with mapChecked := true } }
  else ⟨0x0360, leBytes 12 (bitmap (failingLinks s)), [], wr s Reg.RTR_VERIFIED 0, none⟩

/-- TOPO_VERIFY. -/
def execTopoVerify (e : Entry) (io : HostIo) (s : State) : Host.Outcome State Fault Refusal :=
  runRow Row.topoVerify cmdTopoVerify e io s

/-- LINK_STATUS as a register word (Table 11-16). -/
def linkStatusWord (s : State) (l : Nat) : Nat :=
  rd s (Reg.LINK_STATE l) + 16 * rd s (Reg.LINK_ROLE l) + 64 * rd s (Reg.LINK_LANE0_LOCK l) +
    128 * rd s (Reg.LINK_LANE1_LOCK l) + 256 * rd s (Reg.LINK_FAULT_REASON l) + 4096 * rd s (Reg.LINK_POS l) +
    65536 * rd s (Reg.LINK_BUNDLE l) + 1048576 * rd s (Reg.LINK_RETRAINS l)

/-- LINK_QUERY. -/
def cmdLinkQuery (e : Entry) (_ : HostIo) (s : State) : CmdOut :=
  let l := arg e 8 1
  if 111 < l then refuseCmd 0x0102 s
  else doneCmd (leBytes 4 (linkStatusWord s l) ++ leBytes 2 (rd s (Reg.LINK_DELAY l)) ++
    leBytes 1 (rd s (Reg.LINK_FAR_PKG l)) ++ leBytes 1 (rd s (Reg.LINK_FAR_LINK l)) ++
    leBytes 8 (rd s (Reg.LINK_FEC_CORR_CNT l)) ++ leBytes 8 (rd s (Reg.LINK_FEC_UE_CNT l)) ++
    leBytes 4 (rd s (Reg.LINK_EDGE_REJECT_CNT l))) s

/-- LINK_QUERY. -/
def execLinkQuery (e : Entry) (io : HostIo) (s : State) : Host.Outcome State Fault Refusal :=
  runRow Row.linkQuery cmdLinkQuery e io s

/-! ### Links at a tick (R279–R281) -/

/-- The substitution of a position takes effect: the spare takes it, or it becomes vacant. -/
def applySub (r : SubReq) (s : State) : State :=
  let sp := subLink s r.bundle (sparePos r.bundle)
  if subLink s r.bundle r.pos ≠ r.link then s
  else if r.pos = sparePos r.bundle then
    (match upOf s r.bundle with
     | l :: _ => moveFlits r.link l (setSub s r.bundle r.pos 127)
     | [] => setSub s r.bundle r.pos 127)
  else if isUp s sp then
    refreshLink sp (moveFlits r.link sp (setSub (setSub s r.bundle r.pos sp) r.bundle (sparePos r.bundle) 127))
  else
    let s := rtrEvent Reg.RTR_ERR_EXHAUSTED 1 r.bundle (setSub s r.bundle r.pos 127)
    (jobsOnPos s (partEnts s) r.bundle r.pos).foldl (fun s p => stopJob s p 0x0562) s

/-- A retrained link takes a role: the lowest vacant position, else the spare's, else none of them. -/
def takeRole (l : Nat) (s : State) : State :=
  if isUp s l ∧ heldPos s l = 15 then
    let b := bundleOf s l
    match (List.range (bundleSize b)).find? (fun p => subLink s b p == 127) with
    | some p => refreshLink l (setSub s b p l)
    | none => refreshLink l s
  else s

/-- The substitutions due at the tick that opens frame `f`, and the roles of retrained links. -/
def linksAtTick (f : Nat) (s : State) : State :=
  let due := s.fab.pendSub.filter (fun r => !earlier16 (f % 2 ^ 16) r.effective)
  let rest := s.fab.pendSub.filter (fun r => earlier16 (f % 2 ^ 16) r.effective)
  let rt := s.fab.retrained
  let s := due.foldl (fun s r => applySub r s) { s with fab := { s.fab with pendSub := rest, retrained := [] } }
  let s := rt.foldl (fun s l => takeRole l s) s
  let s := (List.range 12).foldl (fun s b => refreshBundle b s) s
  let s := match s.fab.detourNext with
    | some d => { s with fab := { s.fab with detour := d, detourNext := none } }
    | none => s
  { s with fab := { s.fab with slotMap := nextSlotMap s, forwards := [], txPieces := [], rxPieces := [] } }

end Sys2Proof.Machine
end

