-- ==== Sys2Proof/Machine/Power.lean ====
section
/-!
DEFINITION. Power, frequency and thermal control (chapter 20): domains, the cap response, the floor state, thermal
thresholds, energy and telemetry, and the messages STRETCH_REQ and FILL.
-/

namespace Sys2Proof.Machine

/-! ### Messages of power control (R47, R508, R509) -/

/-- A value that Kaolin sends again replaces the copy it still repeats. -/
def withdraw (mtype part : Nat) (s : State) : State :=
  { s with fab := { s.fab with unanswered := s.fab.unanswered.filter (fun o => !(o.mtype == mtype && o.part == part)) } }

/-- Send this package's stretch request to the master and to the standby (R47). -/
def sendStretch (s : State) : State :=
  let b := leBytes 2 (rd s Reg.PWR_STRETCH_REQ) ++ leBytes 6 0
  let send (d : Nat) (s : State) : State := if d = 255 then s else sendCtl d 0x0010 kaolinTo 0xFFFFFFFF b true s
  send (rd s Reg.TICK_STANDBY_ID) (send (rd s Reg.TICK_MASTER_ID) (withdraw 0x0010 255 s))

/-- Send FILL to the lead of every job with a partition here (R508). -/
def sendFill (s : State) : State :=
  (List.range 32).foldl (fun s p =>
    if (part s p).job.busy then
      let l := leadOf s p
      sendCtl l.1 0x0034 ⟨p, l.2, sliceOf s p, 255, 0⟩ 0xFFFFFFFF (leBytes 1 (rd s Reg.PWR_FILL) ++ leBytes 7 0) true
        (withdraw 0x0034 p s)
    else s) s

/-- STRETCH_REQ: the master and the standby keep the latest request of each package; one above 2,480 slots is refused and
the earlier one stays. -/
def applyStretch (h : CtlHdr) (k : Nat) (s : State) : CtlAnswer × State :=
  if 2480 < k then (ackWith 0x0102, s)
  else if rd s Reg.TICK_ROLE = 1 ∨ rd s Reg.TICK_ROLE = 2 then
    (ackWith 0, { s with tick := { s.tick with requests := tput 0 s.tick.requests h.srcPkg k } })
  else (ackWith 0, s)

/-- STRETCH_REQ. -/
def execStretchReq (h : CtlHdr) (k : Nat) (s : State) : Host.Outcome State Fault Refusal :=
  .next (applyCtl h (applyStretch h k) s)

/-- The rank of a (package, partition) pair in the slice of local partition `p`. -/
def rankOf (s : State) (p pkg q : Nat) : Option Nat := findIdx? (fun m => m == (pkg, q)) (membersOf s p)

/-- FILL: the lead records a member's value. -/
def applyFill (h : CtlHdr) (v : Nat) (s : State) : CtlAnswer × State :=
  match rankOf s h.dstPart h.srcPkg h.srcPart with
  | some r =>
    if 16 < v then (ackWith 0x0102, s)
    else (ackWith 0, modPart s h.dstPart (fun q => { q with fills := tput none q.fills r (some v) }))
  | none => (ackWith 0, s)

/-- FILL. -/
def execCtlFill (h : CtlHdr) (v : Nat) (s : State) : Host.Outcome State Fault Refusal :=
  .next (applyCtl h (applyFill h v) s)

/-- The smallest FILL that the lead of a job holds, its own included (R508). -/
def fillOf (s : State) (p : Nat) : Nat :=
  ((part s p).fills.filterMap (·.2)).foldl min (rd s Reg.PWR_FILL)

/-! ### Domains (R500–R502, Table 20-1) -/

/-- Allowance of a domain, W. -/
def allowance (d : Nat) : Nat :=
  if d < 48 then 20 else if d < 60 then 4 else if d < 64 then 50 else if d < 68 then 8 else if d = 68 then 15
  else if d = 69 then 20 else 10

/-- Links of a link die that carry fabric traffic. -/
def dieLinks (n : Nat) : List Nat := (List.range 96).filter (fun l => l / 28 == n)

/-- A link is a designated tick link. -/
def isTickLink (s : State) (l : Nat) : Bool :=
  rd s Reg.TICK_PRIM_UP == l || rd s Reg.TICK_ALT_UP == l || bit (rd s (Reg.TICK_LINK_MASK (l / 32))) (l % 32)

/-- Some partition exists. -/
def anyPart (s : State) : Bool := (List.range 32).any (fun p => (part s p).present)

/-- Some partition owns a quadrant of a stack. -/
def stackOwned (s : State) (n : Nat) : Bool := (List.range 4).any (fun q => ownerOf s (4 * n + q) != 255)

/-- The switch-off of a domain is permitted (Table 20-1). -/
def offPermitted (s : State) (d : Nat) : Bool :=
  if d < 48 then ownerOf s d == 255
  else if d < 60 then !stackOwned s (d - 48)
  else if d < 64 then
    (nextSlotMap s ++ s.fab.slotMap).all (fun e => !(dieLinks (d - 60)).contains (subLink s e.bundle e.pos)) &&
      (dieLinks (d - 60)).all (fun l => !isTickLink s l) &&
      (d != 63 || (!anyPart s && rd s Reg.SESS_S0_NSID == 0 && rd s Reg.SESS_S1_NSID == 0))
  else if d < 68 then (List.range 64).all (fun t => threadOwner s (64 * (d - 64) + t) == 255)
  else if d = 68 then false
  else if d = 69 then
    !anyJob s && s.kao.ops.all (fun o => o.op / 256 != 3 && o.op / 256 != 5)
  else if d = 70 then !anyJob s && rd s Reg.SRV_FREE_SLOTS == 65536
  else !anyPart s

/-- A domain starts a ramp. A link die that is switched off takes its links out of service and to OFF. -/
def startRamp (d : Nat) (on : Bool) (s : State) : State :=
  let s := wr { s with pwr := { s.pwr with ramps := s.pwr.ramps.filter (·.1 != d) ++ [(d, on)] } } (Reg.PWR_DOMAIN d)
    (if on then 1 else 3)
  if 60 ≤ d ∧ d < 64 ∧ !on then
    (dieLinks (d - 60)).foldl (fun s l => wr (leaveService l 7 (effectiveNow s) s) (Reg.LINK_STATE l) 0)
      (wr s (Reg.LD_POWERED (d - 60)) 0)
  else s

/-- A domain reaches OFF and loses its contents, or ON; a link die's links then train (R502). -/
def endRamp (d : Nat) (on : Bool) (s : State) : State :=
  let s := wr { s with pwr := { s.pwr with ramps := s.pwr.ramps.filter (·.1 != d) } } (Reg.PWR_DOMAIN d) (if on then 2 else 0)
  if d < 48 then (if on then s else zeroRange s (spmAddr d 0) 0xC00000)
  else if d < 60 then (if on then s else zeroRange s (t1Addr (4 * (d - 48)) 0) 0xC00000000)
  else if d < 64 ∧ on then
    (dieLinks (d - 60)).foldl (fun s l =>
      let s := wr s (Reg.LINK_STATE l) 1
      if dieReady s l ∧ !rdb s (Reg.LINK_CTRL_DISABLE l) ∧ !inFenceTable s 12 l then startTrain l s else s)
      (wr s (Reg.LD_POWERED (d - 60)) 1)
  else s

/-- A domain with no ramp to wait for, as when PART_ASSIGN or the power sequence switches it. -/
def setDomain (d : Nat) (on : Bool) (s : State) : State :=
  if rd s (Reg.PWR_DOMAIN d) = (if on then 2 else 0) then s else endRamp d on (startRamp d on s)

/-- What refuses a switch of a domain now, beyond the range and the state of the package. -/
def domainRefuses (s : State) (d : Nat) (on : Bool) : Option Nat :=
  if !on && !offPermitted s d then some 0x0301
  else if on && decide (rd s Reg.PWR_CAP_W * 1000 < rd s Reg.PWR_P_MW + allowance d * 1000) then some 0x02C0
  else none

/-- PWR_DOMAIN (R501). -/
def cmdPwrDomain (e : Entry) (_ : HostIo) (s : State) : CmdOut :=
  let d := arg e 8 1
  let on := arg e 9 1
  let st := rd s (Reg.PWR_DOMAIN d)
  if 71 < d ∨ 1 < on then refuseCmd 0x0102 s
  else if d = 68 ∨ pstate s < 2 then refuseCmd 0x0300 s
  else if st = (if on = 1 then 2 else 0) then doneCmd (leBytes 1 st) s
  else if st = 1 ∨ st = 3 then waitCmd (.domain d) s
  else match domainRefuses s d (on == 1) with
    | some x => refuseCmd x s
    | none => waitCmd (.domain d) (startRamp d (on == 1) s)

/-- PWR_DOMAIN. -/
def execPwrDomain (e : Entry) (io : HostIo) (s : State) : Host.Outcome State Fault Refusal :=
  runRow Row.pwrDomain cmdPwrDomain e io s

/-- Commands that waited for a ramp: those whose request is met complete; the first other one starts its own ramp. -/
def domainServed (d : Nat) (s : State) : State :=
  let st := rd s (Reg.PWR_DOMAIN d)
  let mine := s.kao.waiting.filter (fun c => c.wait == .domain d)
  let s := { s with kao := { s.kao with waiting := s.kao.waiting.filter (fun c => c.wait != .domain d) } }
  mine.foldl (fun s c =>
    let on : Bool := arg c.ent 9 1 == 1
    let now := rd s (Reg.PWR_DOMAIN d)
    if now = (if on then 2 else 0) then endWaiting c 0 (leBytes 1 st) [] s
    else
      let s := if now = 0 ∨ now = 2 then
          (match domainRefuses s d on with | some _ => s | none => startRamp d on s) else s
      if rd s (Reg.PWR_DOMAIN d) = 0 ∨ rd s (Reg.PWR_DOMAIN d) = 2 then
        endWaiting c ((domainRefuses s d on).getD 0x0301) [] [] s
      else { s with kao := { s.kao with waiting := s.kao.waiting ++ [c] } }) s

/-- DOMAIN_RAMP_DONE. -/
def execDomainRampDone (d : Nat) (s : State) : Host.Outcome State Fault Refusal :=
  match s.pwr.ramps.find? (·.1 == d) with
  | some r => .next (domainServed d (endRamp d r.2 s))
  | none => .next s

/-! ### Modes and the cap (R504–R509) -/

/-- Back to fixed frequency (R504). -/
def fixedFrequency (s : State) : State :=
  let s := wr { s with pwr := { s.pwr with boost := 0 } } Reg.PWR_MODE 0
  if rd s Reg.PWR_PERF = 1 then wr s Reg.PWR_PERF 0 else s

/-- PWR_SET_MODE (R504). -/
def cmdPwrSetMode (e : Entry) (_ : HostIo) (s : State) : CmdOut :=
  let m := arg e 8 1
  if 1 < m then refuseCmd 0x0102 s
  else if m = 0 then doneCmd [] (fixedFrequency s)
  else if pstate s = 7 then refuseCmd 0x0300 s
  else if anyJob s then refuseCmd 0x0301 s
  else
    let s := wr s Reg.PWR_MODE 1
    doneCmd [] (if rd s Reg.PWR_PERF = 0 then wr s Reg.PWR_PERF 1 else s)

/-- PWR_SET_MODE. -/
def execPwrSetMode (e : Entry) (io : HostIo) (s : State) : Host.Outcome State Fault Refusal :=
  runRow Row.pwrSetMode cmdPwrSetMode e io s

/-- PWR_SET_CAP (R506); a cap of 1,200 W withdraws the stretch request (R509). -/
def cmdPwrSetCap (e : Entry) (_ : HostIo) (s : State) : CmdOut :=
  let c := arg e 8 2
  if c < 450 ∨ 1200 < c ∨ c % 5 ≠ 0 then refuseCmd 0x0102 s
  else if c < rd s Reg.PWR_MIN_CAP_W then refuseCmd 0x02C0 s
  else
    let s := wr s Reg.PWR_CAP_W c
    let s := if c = 1200 ∧ rd s Reg.PWR_STRETCH_REQ ≠ 0 then sendStretch (wr s Reg.PWR_STRETCH_REQ 0) else s
    doneCmd (leBytes 2 c) s

/-- PWR_SET_CAP. -/
def execPwrSetCap (e : Entry) (io : HostIo) (s : State) : Host.Outcome State Fault Refusal :=
  runRow Row.pwrSetCap cmdPwrSetCap e io s

/-- Throttle threshold of a sensor, 1/8 °C (Table 20-6). -/
def throttleAt (i : Nat) : Int := if 56 ≤ i ∧ i < 200 then 90 * 8 else 97 * 8

/-- Floor threshold. -/
def floorAt (i : Nat) : Int := if 56 ≤ i ∧ i < 200 then 94 * 8 else 101 * 8

/-- Trip threshold. -/
def tripAt (i : Nat) : Int := if 56 ≤ i ∧ i < 200 then 100 * 8 else 110 * 8

/-- Reading of a sensor, 1/8 °C. -/
def temp (s : State) (i : Nat) : Int := signed 16 (rd s (Reg.PWR_TEMP i))

/-- Some sensor is at or above its threshold less a margin. -/
def hotter (s : State) (th : Nat → Int) (margin : Int) : Bool :=
  (List.range 208).any (fun i => decide (th i - margin ≤ temp s i))

/-- A sum over 0 to `n − 1`. -/
def sumTo (n : Nat) (f : Nat → Nat) : Nat := (List.range n).foldl (fun a i => a + f i) 0

/-- The largest stretch that R47 allows at the base length in force. -/
def stretchLimit (s : State) : Nat := min (rd s Reg.TICK_BASE) (2560 - rd s Reg.TICK_BASE)

/-- FILL_MIN, ESC_PERIODS, RELEASE_PERIODS and STRETCH_STEP, where 0 acts as 1. -/
def fillMin (s : State) : Nat := max 1 (rd s Reg.PWR_FILL_MIN)

/-- Move to a level. -/
def setLevel (n : Nat) (s : State) : State :=
  wr { s with pwr := { s.pwr with escCount := 0 } } Reg.PWR_LEVEL n

/-- Set FILL and tell the leads. -/
def setFill (v : Nat) (s : State) : State := sendFill (wr s Reg.PWR_FILL v)

/-- Set the stretch request and tell the master and the standby. -/
def setStretch (v : Nat) (s : State) : State := sendStretch (wr s Reg.PWR_STRETCH_REQ v)

/-- A period at the limit of a level, and over: the level rises after ESC_PERIODS of them. -/
def escalate (up : State → State) (s : State) : State :=
  let s := { s with pwr := { s.pwr with escCount := s.pwr.escCount + 1 } }
  if max 1 (rd s Reg.PWR_ESC_PERIODS) ≤ s.pwr.escCount then up s else s

/-- A period that is over (Table 20-3). -/
def overPeriod (s : State) : State :=
  let s := bump { s with pwr := { s.pwr with underCount := 0 } } Reg.PWR_OVER_PERIOD_CNT 1
  match rd s Reg.PWR_LEVEL with
  | 0 => setFill (rd s Reg.PWR_FILL - 1) (setLevel 1 s)
  | 1 =>
    if fillMin s < rd s Reg.PWR_FILL then
      setFill (rd s Reg.PWR_FILL - 1) { s with pwr := { s.pwr with escCount := 0 } }
    else escalate (fun s => setStretch (min (stretchLimit s) (max 1 (rd s Reg.PWR_STRETCH_STEP))) (setLevel 2 s)) s
  | 2 =>
    if rd s Reg.PWR_STRETCH_REQ < stretchLimit s then
      setStretch (min (stretchLimit s) (rd s Reg.PWR_STRETCH_REQ + max 1 (rd s Reg.PWR_STRETCH_STEP)))
        { s with pwr := { s.pwr with escCount := 0 } }
    else escalate (fun s => pwrEvent Reg.PWR_EV_CAP_UNMET 5 (setFill 0 (setLevel 3 s))) s
  | _ => s

/-- A period that is under: after RELEASE_PERIODS of them one increment is undone each period. -/
def underPeriod (s : State) : State :=
  let s := { s with pwr := { s.pwr with underCount := s.pwr.underCount + 1, escCount := 0 } }
  if s.pwr.underCount < max 1 (rd s Reg.PWR_RELEASE_PERIODS) then s
  else match rd s Reg.PWR_LEVEL with
    | 3 => setFill (fillMin s) (setLevel 2 s)
    | 2 =>
      let v := rd s Reg.PWR_STRETCH_REQ - max 1 (rd s Reg.PWR_STRETCH_STEP)
      setStretch v (if v = 0 then setLevel 1 s else s)
    | 1 =>
      let v := min 16 (rd s Reg.PWR_FILL + 1)
      setFill v (if v = 16 then setLevel 0 s else s)
    | _ => s

/-- CONTROL_PERIOD_END: P is the mean of the period's samples; `minCap` is what Kaolin computes for PWR_MIN_CAP. -/
def execControlPeriodEnd (minCap : Nat) (s : State) : Host.Outcome State Fault Refusal :=
  let n := s.pwr.samples.length
  let p := if n = 0 then rd s Reg.PWR_P_MW else s.pwr.samples.foldl (· + ·) 0 / n
  let s := wr (wr { s with pwr := { s.pwr with samples := [] } } Reg.PWR_P_MW p) Reg.PWR_MIN_CAP_W minCap
  let cap := rd s Reg.PWR_CAP_W * 1000
  if cap < p || hotter s throttleAt 0 then .next (overPeriod s)
  else if decide (p + 5000 * rd s Reg.PWR_HYST_STEP ≤ cap) && !hotter s throttleAt 24 then .next (underPeriod s)
  else .next { s with pwr := { s.pwr with escCount := 0, underCount := 0 } }

/-- BOOST_STEP (R504): one step up while power and temperatures allow it, otherwise one step down, never below the service
clocks. The control cores reach 2.4 GHz at step 4; the base-die blocks stop at 1.8 GHz, step 2. -/
def execBoostStep (s : State) : Host.Outcome State Fault Refusal :=
  if rd s Reg.PWR_PERF ≠ 1 then .next s
  else if decide (s.pwr.samples.headD (rd s Reg.PWR_P_MW) < rd s Reg.PWR_CAP_W * 1000) && !hotter s throttleAt 0 then
    .next { s with pwr := { s.pwr with boost := min 4 (s.pwr.boost + 1) } }
  else .next { s with pwr := { s.pwr with boost := s.pwr.boost - 1 } }

/-! ### The floor state (R510–R512) -/

/-- The package is in the floor state. -/
def floorHolds (s : State) : Bool := rd s Reg.PWR_PERF == 2

/-- A partition's frame is complete: every context has reached its commit command (R43). -/
def frameComplete (s : State) (p : Nat) : Bool := (part s p).quads.all (fun G => (ctx s G).atCommit)

/-- A frame of a local partition fails under R511. -/
def floorFail (p : Nat) (s : State) : State :=
  let s := modPart s p (fun q => { q with floorFail := true })
  let s := { s with pwr := { s.pwr with floorFrames := tmod 0 s.pwr.floorFrames p (· + 1) } }
  bump (sendAbort (sliceOf s p) 2 s) Reg.PWR_FLOOR_ABORT_CNT 1

/-- The partitions whose frame the floor fails at its entry. -/
def floorVictims (s : State) : List Nat :=
  (List.range 32).filter (fun p => runs s p && !frameComplete s p && !frameFailed s p)

/-- FLOOR_NS counts up to now while the floor holds. -/
def countFloor (s : State) : State :=
  if floorHolds s then
    bump { s with pwr := { s.pwr with floorFrom := pkgNs s } } Reg.PWR_FLOOR_NS (pkgNs s - s.pwr.floorFrom)
  else s

/-- Policy STOP stops every job of the package (R511). -/
def floorStopAll (s : State) : State :=
  if anyJob s then pwrEvent Reg.PWR_EV_FLOOR_STOP 6 (stopAll s 0x05C1) else s

/-- The package enters the floor state, or stays in it, for a cause: 1 regulator, 2 thermal. The record names the
regulator or the sensor. -/
def enterFloor (cause rail : Nat) (tmp : Nat) (synd : Bytes) (s : State) : State :=
  let first : Bool := !floorHolds s
  let vs := if first then floorVictims s else []
  let s := wr (wr s Reg.PWR_FLOOR_CAUSE ((if first then 0 else rd s Reg.PWR_FLOOR_CAUSE) ||| cause)) Reg.PWR_PERF 2
  let s := if first then urgentBoth 0 (bump { s with pwr := { s.pwr with floorFrom := pkgNs s } } Reg.PWR_FLOOR_CNT 1) else s
  let s := vs.foldl (fun s p => floorFail p s) s
  let s := if vs.isEmpty then s else tickEvent Reg.TICK_EV_OVERRUN 1 s
  let r := mkRec s 15 0 (if vs.isEmpty then 0 else 1) 8 (0x1200 + (if cause = 1 then 0 else 3)) 24 255
    (if vs.isEmpty then 0 else 1) 0 0 synd
  let s := report { r with rail := rail, temp := tmp } false s
  if rdb s Reg.PWR_ALERT_POLICY then floorStopAll s else s

/-- The level of an alert pin, on both registers that show it. -/
def setAlertPin (r : Nat) (high : Bool) (s : State) : State :=
  let v := setBits (rd s Reg.PWR_VR_PIN) r 1 (bnat high)
  wr (wr s Reg.PWR_VR_PIN v) Reg.HIF_PIN_VR_ALERT v

/-- VR_ALERT: the pin has been low for 100 ns. -/
def execVrAlert (r statusWord : Nat) (s : State) : Host.Outcome State Fault Refusal :=
  if 7 < r then .next s
  else
    let s := setAlertPin r false s
    if bit (rd s Reg.PWR_VR_MASK) r && decide (2 ≤ pstate s) then
      let s := pwrEvent Reg.PWR_EV_VR_ALERT 0 (orReg s Reg.PWR_VR_LATCH (2 ^ r))
      .next (enterFloor 1 r 0 (leBytes 2 statusWord) (wr s (Reg.PWR_STATUS_WORD r) statusWord))
    else .next s

/-- VR_ALERT_RELEASE: the pin rises, and its hold time starts. -/
def execVrAlertRelease (r : Nat) (s : State) : Host.Outcome State Fault Refusal :=
  if 7 < r then .next s
  else .next { (setAlertPin r true s) with pwr := { s.pwr with pinRise := tput 0 s.pwr.pinRise r (pkgNs s) } }

/-- Every unmasked pin has been high for FLOOR_HOLD_US, and no sensor is near its floor threshold (R512). -/
def floorMayEnd (s : State) : Bool :=
  (List.range 8).all (fun r => !bit (rd s Reg.PWR_VR_MASK) r ||
    (bit (rd s Reg.PWR_VR_PIN) r &&
      decide (tget 0 s.pwr.pinRise r + 1000 * max 10 (rd s Reg.PWR_FLOOR_HOLD_US) ≤ pkgNs s))) &&
    !hotter s floorAt 24

/-- The floor at a tick (R511, R512): it ends, or fails the frame that the tick opens on every local partition. -/
def floorAtTick (s : State) : State :=
  let s := countFloor s
  if !floorHolds s then s
  else if floorMayEnd s then
    pwrEvent Reg.PWR_EV_FLOOR_END 1
      (wr (wr { s with pwr := { s.pwr with boost := 0 } } Reg.PWR_PERF (rd s Reg.PWR_MODE)) Reg.PWR_FLOOR_CAUSE 0)
  else
    let s := (List.range 32).foldl (fun s p => if runs s p then floorFail p s else s) s
    let mx := max 1 (rd s Reg.PWR_ALERT_MAX_FRAMES)
    if (List.range 32).any (fun p => (part s p).job.busy && decide (mx ≤ tget 0 s.pwr.floorFrames p)) then floorStopAll s else s

/-! ### Temperatures (R513–R515) -/

/-- The first sensor at or above a threshold. -/
def firstHot (s : State) (th : Nat → Int) : Option Nat := (List.range 208).find? (fun i => decide (th i ≤ temp s i))

/-! ### Measurement and energy (R505, R516–R519) -/

/-- The registers of a regulator after a poll. -/
def railSample (r : Nat) (x : RailRead) (s : State) : State :=
  match x with
  | some (v, i, st) =>
    wr (wr (wr (wr (wr s (Reg.PWR_VOUT_MV r) v) (Reg.PWR_IOUT_LO r) i) (Reg.PWR_IOUT_HI r) (i / 65536))
      (Reg.PWR_STATUS_WORD r) st) (Reg.PWR_POUT_MW r) (v * i / 1000)
  | none => s

/-- The package-power sample of a poll, mW: the sum of VOUT × IOUT. -/
def packageMw (xs : List RailRead) : Nat :=
  (xs.foldl (fun a x => match x with | some (v, i, _) => a + v * i | none => a) 0) / 1000

/-- PKG_ENERGY integrates a sample over its 100 µs, from HUB_UP on. -/
def addEnergy (mw : Nat) (s : State) : State :=
  if 2 ≤ pstate s then
    let e := s.pwr.energyNj + 100 * mw
    wr { s with pwr := { s.pwr with energyNj := e } } Reg.PWR_PKG_ENERGY (e / 1000)
  else s

/-- ENERGY_READ (R518). -/
def cmdEnergyRead (e : Entry) (_ : HostIo) (s : State) : CmdOut :=
  let sc := arg e 8 1
  let q := arg e 9 1
  let res (v : Nat) : Bytes := leBytes 8 v ++ leBytes 6 (frameNo s)
  if 2 < sc then refuseCmd 0x0102 s
  else if sc = 0 then (if isVf e then refuseCmd 0x0400 s else doneCmd (res (rd s Reg.PWR_PKG_ENERGY)) s)
  else if sc = 1 then doneCmd (res (tget 0 (part s e.part).acct 0xD0)) s
  else if 63 < q then refuseCmd 0x0102 s
  else if !rdb s (Reg.SRV_Q_V q) || rd s (Reg.SRV_Q_OWNER q) != e.part then refuseCmd 0x0400 s
  else doneCmd (res (tget 0 s.qacct (256 * q + 0xD0))) s

/-- ENERGY_READ. -/
def execEnergyRead (e : Entry) (io : HostIo) (s : State) : Host.Outcome State Fault Refusal :=
  runRow Row.energyRead cmdEnergyRead e io s

/-- The 608 bytes of the telemetry block (Table 20-8). -/
def telemetryBytes (s : State) : Bytes :=
  leBytes 4 0x544C4D31 ++ leBytes 1 1 ++ leBytes 1 (rd s Reg.PWR_PERF) ++ leBytes 1 (rd s Reg.PWR_LEVEL) ++
  leBytes 1 (rd s Reg.PWR_FILL) ++ leBytes 6 (frameNo s) ++ leBytes 2 (rd s Reg.PWR_CAP_W) ++
  leBytes 4 (rd s Reg.PWR_P_MW) ++ leBytes 4 (s.pwr.samples.foldl max (rd s Reg.PWR_P_MW)) ++
  leBytes 2 (rd s Reg.PWR_STRETCH_REQ) ++ leBytes 2 (rd s Reg.TICK_STRETCH) ++ leBytes 4 0 ++
  leBytes 18 (sumTo 72 (fun d => rd s (Reg.PWR_DOMAIN d) * 4 ^ d)) ++ leBytes 14 0 ++
  joinBytes ((List.range 8).map (fun r =>
    leBytes 2 (rd s (Reg.PWR_VOUT_MV r)) ++ leBytes 2 (rd s (Reg.PWR_IOUT_LO r)) ++ leBytes 2 (rd s (Reg.PWR_IOUT_HI r)) ++
    leBytes 4 (rd s (Reg.PWR_POUT_MW r)) ++ leBytes 2 (rd s (Reg.PWR_STATUS_WORD r)) ++ leBytes 4 0)) ++
  joinBytes ((List.range 208).map (fun i => leBytes 2 (rd s (Reg.PWR_TEMP i))))

/-- DEV_GET_TELEMETRY (R519). -/
def cmdDevGetTelemetry (e : Entry) (io : HostIo) (s : State) : CmdOut :=
  if arg e 16 4 < 608 then refuseCmd 0x0104 s
  else withOutput e io (arg e 8 8) (telemetryBytes s) (leBytes 4 608) s

/-- DEV_GET_TELEMETRY. -/
def execDevGetTelemetry (e : Entry) (io : HostIo) (s : State) : Host.Outcome State Fault Refusal :=
  runRow Row.devGetTelemetry cmdDevGetTelemetry e io s

end Sys2Proof.Machine
end

