-- ==== Sys2Proof/Machine/Frame.lean ====
section
/-!
DEFINITION. Frame commands: issue in a sequencer context (R42, R125, R127, R145), the beats, poison and errors of
scratchpad accesses (R160, R175, R176, R179), completion of a command and of the commit command (R42, R43), and the
accounting of engine time (R440, R517).
-/

namespace Sys2Proof.Machine

/-! ### Issue -/

/-- A context takes its next command: its partition's job runs, it has not issued its commit command, no SYN command
holds it, its scoreboard has room, and the floor did not fail its frame at the tick (R511). -/
def canIssue (s : State) (G : Nat) : Bool :=
  let c := ctx s G
  decide (G < 48) && !frozen s && (part s (ownerOf s G)).job == .running && !c.atCommit && c.wait.isNone &&
    decide (c.inflight.length < 64) && !(s.pwr.floorTick && (part s (ownerOf s G)).floorFail)

/-- The program index of the command that has just issued. -/
def pcOf (s : State) (G : Nat) : Nat := rd s (Reg.CTX_PC G) - 1

/-- A command ends a guard group: flag bit 113, or the commit command (R145). -/
def endsGroup (fl : Nat) : Bool := bit fl 0 || bit fl 1

/-- The CFG of a class that is in force: MXA_CFG, ATT_CFG or SRT_CFG. -/
def cfgOf (c : Ctx) (cls : Nat) : BitVec 112 :=
  match cls with
  | 5 => c.att.getD 0
  | 7 => c.srt.getD 0
  | _ => c.mxa.getD 0

/-- A command issues: it joins the scoreboard and its guard group, and PC moves on. Issue stops after the commit
command. -/
def issueCmd (cls op G fl : Nat) (a : BitVec 112) (s : State) : State :=
  let pc := rd s (Reg.CTX_PC G)
  let s := modCtx s G (fun c =>
    { c with inflight := c.inflight ++ [⟨cls, op, pc, fl, a, cfgOf c cls, none, c.grp⟩],
             wait := if bit fl 0 then some .commit else c.wait,
             guards := if endsGroup fl && !(guardsAt s G pc).isEmpty then c.guards ++ [(c.grp, pc)] else c.guards,
             grp := if endsGroup fl then c.grp + 1 else c.grp })
  wr (wr s (Reg.CTX_PC G) (pc + 1)) (Reg.CTX_STATE G) 1

/-- Words that a command's reads find uncorrectable. -/
def takeUe (ue : List Nat) (s : State) : State :=
  ue.foldl (fun s a => if populated a then setBad s a true else s) s

/-- BDUs of a die that a context's commands run on, as local bank groups (Table 5-10): those of its BDU commands, and for
an ATT command those of the whole quadrant. -/
def bduBusy (c : Ctx) (d : Nat) : Nat :=
  c.inflight.foldl (fun m x =>
    if x.cls = 1 then (if bit (fld x.args 111 100) d then m ||| fld x.args 99 96 else m)
    else if x.cls = 5 ∧ x.op = 3 then 15 else m) 0

/-- The status fields that follow a context: STALL (Table 6-16), and BUSY of the rotation unit, of ATT and of the BDUs. -/
def showCtx (G : Nat) (s : State) : State :=
  let c := ctx s G
  let stall := match c.wait with
    | some (.classes _) => 3
    | some (.barrier _ _ _) => 4
    | some (.slot _) => 5
    | _ => if 64 ≤ c.inflight.length then 2 else 0
  let s := wrb (wr s (Reg.CTX_STALL G) stall) (Reg.ROT_BUSY G) (c.inflight.any (·.cls == 4))
  let s := wrb s (Reg.ATT_RUN_BUSY G) (c.inflight.any (fun x => x.cls == 5 && x.op == 3))
  let s := wrb s (Reg.ATT_VEC_BUSY G) (c.inflight.any (fun x => x.cls == 5 && x.op != 1))
  let s := wrb s (Reg.ATT_PUT_BUSY G) (c.inflight.any (fun x => x.cls == 9 && x.op == 0x40))
  (List.range 12).foldl (fun s d =>
    let f := Reg.BDU_DIE_BUSY (12 * (G / 4) + d)
    wr s f (setBits (rd s f) (4 * (G % 4)) 4 (bduBusy c d))) s

/-- A frame command of a class: it issues and has its effect. The flags are bits 115:112, `ue` the addresses of the words
that its reads find uncorrectable. A context that cannot issue takes none. -/
def frameCommand (cls op G : Nat) (fl : BitVec 4) (a : BitVec 112) (ue : List Nat) (eff : State → State) (s : State) :
    Host.Outcome State Fault Refusal :=
  .next (if canIssue s G then showCtx G (eff (issueCmd cls op G fl.toNat a (takeUe ue s))) else s)

/-! ### Scratchpad accesses of a quadrant -/

/-- The bank of a quadrant offset, package-wide (R10). -/
def bankUnit (G off : Nat) : Nat := 96 * (G / 4) + 24 * (G % 4) + off / 0x80000

/-- Beats of an access to `n` bytes from `off`: one per row, and one more for each word that a write covers in part
(R159, R160). -/
def beats (off n : Nat) (wr : Bool) : Nat :=
  if n = 0 then 0
  else (off + n - 1) / 1024 - off / 1024 + 1 +
    (if wr then bnat (off % 8 != 0) + bnat ((off + n) % 8 != 0 && (off % 8 == 0 || (off + n - 1) / 8 != off / 8)) else 0)

/-- Count the beats of an access, and their energy. -/
def countBeats (G n : Nat) (s : State) : State :=
  energy (bump s (Reg.SPM_Q_BEAT_CNT G) n) (ownerOf s G) (24 * n)

/-- Count a read of a quadrant range. -/
def spmRead (G off n : Nat) (s : State) : State := countBeats G (beats off n false) s

/-- The bytes of a quadrant range. -/
def spmBytes (s : State) (G off n : Nat) : Bytes := readMem s (spmAddr G off) n

/-- The bad words of a quadrant range, as quadrant offsets. -/
def spmBad (s : State) (G off n : Nat) : List Nat :=
  if n = 0 then []
  else ((List.range ((off + n - 1) / 8 - off / 8 + 1)).map (fun i => 8 * (off / 8 + i))).filter (fun o => isBad s (spmAddr G o))

/-- An event of a base-die bank: the bit, the latched word, the record naming the bank, and the event. -/
def spmError (f : Field) (b G off src op sev : Nat) (ue : Bool) (s : State) : State :=
  let d := draw 8 s
  let s := wr (wr (wr (wr d.2 (Reg.SPM_Q_ERR_SRC G) src) (Reg.SPM_Q_ERR_OFS G) off) (Reg.SPM_Q_ERR_UE G) (bnat ue))
    (Reg.SPM_Q_ERR_SYND G) d.1.toNat
  unitError f (0x0100 + G / 4) (0x0300 + b) 6 (bankUnit G off) sev op (ownerOf s G) (if sev = 1 ∧ ue then 1 else 0) off
    (leBytes 1 d.1.toNat) true s

/-- Write a quadrant range: whole words become valid, a partial write to a poisoned word leaves it poisoned (R175). -/
def spmWrite (G off src op : Nat) (b : Bytes) (s : State) : State :=
  let n := b.length
  if n = 0 then s
  else
    let a := spmAddr G off
    let lo := 8 * ceilDiv a 8
    let hi := 8 * ((a + n) / 8)
    let part0 : Bool := a % 8 != 0 && isBad s a
    let part1 : Bool := (a + n) % 8 != 0 && isBad s (a + n - 1)
    let s := countBeats G (beats off n true) (writeMem s a b)
    let s := if lo < hi then setBadRange s lo (hi - lo) false else s
    if part0 || part1 then spmError (Reg.SPM_ERR_RMW_POISON G) 3 G (if part0 then off else off + n - 1) src op 1 false s else s

/-- Poison whole words of a quadrant range. -/
def spmPoison (G off n : Nat) (s : State) : State := setBadRange s (spmAddr G off) n true

/-- A frame command of class `cls` has read bad words of its quadrant (Table 7-9): the bank reports each, and the frame
fails with UNCORRECTABLE_MEMORY. -/
def spmUe (G cls src : Nat) (offs : List Nat) (s : State) : State :=
  match offs with
  | [] => s
  | o :: _ =>
    let s := bump s (Reg.SPM_Q_UE_CNT G) offs.length
    let s := spmError (Reg.SPM_ERR_UE_READ G) 1 G o src cls 1 true s
    failFrame (ownerOf s G) ⟨0x0540, false, 6, bankUnit G o⟩ s

/-- A bit of a quadrant's engine error register (Table 6-18). -/
def engBit (f : Field) (b G : Nat) (idx : Nat) (s : State) : State :=
  raiseBit (0x0100 + G / 4) (0x0500 + b) (ownerOf s G) G (pcOf s G) idx (wr s f 1)

/-- An engine of class `cls` (MXA, VEC or SRT) has read bad operand words. -/
def operandUe (G cls src : Nat) (offs : List Nat) (s : State) : State :=
  if offs.isEmpty then s
  else engBit (Reg.ENG_ERR_OPERAND_UE G) 0 G (nextIdx s) (spmUe G cls src offs s)

/-- A condition of an engine with its own bit and record, naming the stack sequencer (R491), that fails the frame. -/
def engFail (f : Field) (code G cls st : Nat) (one feeds : Bool) (synd : Bytes) (s : State) : State :=
  let s := unitError f (0x0100 + G / 4) code 5 (2 * (G / 4) + (G % 4) / 2) 1 cls (ownerOf s G) 1 (pcOf s G) synd feeds s
  failCtx G st one s

/-- A condition with no register bit (R491, 0x8012 FRAME_CONDITION), naming a unit. An output guard violation feeds no
leaky counter (R480). -/
def frameCondition (G cls ty n st : Nat) (one : Bool) (s : State) : State :=
  let idx := nextIdx s
  let p := ownerOf s G
  let synd := leBytes 2 st ++ leBytes 2 (pcOf s G)
  let s := report (mkRec s ty n 1 (0x0100 + G / 4) 0x8012 cls p 1 0 0 synd) (st != 0x0521) s
  let s := raiseWith (0x0100 + G / 4) 0x8012 p
    (fun _ => leBytes 2 n ++ leBytes 1 ty ++ leBytes 1 0 ++ synd ++ leBytes 4 0 ++ leBytes 4 idx) [] s
  failFrame p ⟨st, one, ty, n⟩ s

/-! ### Completion (R42, R43) -/

/-- The accounting counter of an engine class (Table 17-7). -/
def classNs (cls : Nat) : Nat :=
  match cls with
  | 1 => 0x10
  | 2 => 0x18
  | 3 => 0x20
  | 4 => 0x28
  | 5 => 0x30
  | 6 => 0x38
  | 7 => 0x20
  | 8 => 0x40
  | _ => 0x48

/-- `ns` of busy time of a class in a context: accounting, busy counters at 1.6 GHz and energy (R440, R517). -/
def classBusy (G cls ns : Nat) (s : State) : State :=
  if cls = 0 then s
  else
    let p := ownerOf s G
    let cyc := ns * 8 / 5
    let s := account s p (classNs cls) ns
    match cls with
    | 2 => energy (bump s (Reg.ENG_MXA_BUSY_CNT G) (64 * cyc)) p (41 * 64 * cyc)
    | 3 => energy (bump s (Reg.ENG_VEC_BUSY_CNT G) cyc) p (600 * cyc)
    | 4 => energy (bump s (Reg.ROT_BUSY_CNT G) cyc) p (200 * cyc)
    | 5 => energy (bump s (Reg.ENG_VEC_BUSY_CNT G) cyc) p (600 * cyc)
    | 7 => energy (bump s (Reg.ENG_VEC_BUSY_CNT G) cyc) p (600 * cyc)
    | _ => s

/-- A WAIT whose classes have no command in flight lets the context go on. -/
def releaseWait (G : Nat) (s : State) : State :=
  match (ctx s G).wait with
  | some (.classes m) =>
    if (ctx s G).inflight.all (fun c => !bit m c.cls) then modCtx s G (fun c => { c with wait := none }) else s
  | _ => s

/-! ### SYN commands (Tables 2-5, 2-6) -/

/-- A command that has its whole effect at issue stays in flight only where it carries the commit flag. -/
def dropUnlessEnd (G : Nat) (fl : BitVec 4) (s : State) : State :=
  if bit fl.toNat 0 then s else modCtx s G (fun c => { c with inflight := c.inflight.dropLast })

/-- The issue of a SYN command. -/
def issueSyn (op G : Nat) (fl : BitVec 4) (a : BitVec 112) (s : State) : State :=
  dropUnlessEnd G fl (issueCmd 0 op G fl.toNat a s)

/-- A SYN command occupies the issue stage only; one that carries the commit flag completes as the commit command does. -/
def synCommand (op G : Nat) (fl : BitVec 4) (a : BitVec 112) (eff : State → State) (s : State) :
    Host.Outcome State Fault Refusal :=
  if canIssue s G then .next (showCtx G (eff (issueSyn op G fl a s)))
  else .next s

/-- NOP. -/
def execSynNop (G : Nat) (fl : BitVec 4) (a : BitVec 112) (s : State) : Host.Outcome State Fault Refusal :=
  synCommand 0 G fl a (fun s => s) s

/-- WAIT: until every earlier command of the classes of CLASS_MASK has completed. -/
def execSynWait (G : Nat) (fl : BitVec 4) (a : BitVec 112) (s : State) : Host.Outcome State Fault Refusal :=
  synCommand 1 G fl a (fun s =>
    if bit fl.toNat 0 then s
    else releaseWait G (modCtx s G (fun c => { c with wait := some (.classes (fld a 9 0)) }))) s

/-- Arrivals of a context at a barrier in this frame. -/
def arrivedAt (s : State) (G id : Nat) : Nat := tget 0 (ctx s G).arrivals id

/-- The contexts of the partition of G that have made their k-th arrival at a barrier. -/
def arrivedCount (s : State) (G id k : Nat) : Nat :=
  ((part s (ownerOf s G)).quads.filter (fun Q => decide (k ≤ arrivedAt s Q id))).length

/-- BARRIER (R577): the context's k-th arrival at BAR_ID; it waits for COUNT contexts. -/
def execSynBarrier (G : Nat) (fl : BitVec 4) (a : BitVec 112) (s : State) : Host.Outcome State Fault Refusal :=
  synCommand 2 G fl a (fun s =>
    let id := fld a 3 0
    let k := arrivedAt s G id + 1
    let s := modCtx s G (fun c => { c with arrivals := tput 0 c.arrivals id k })
    if bit fl.toNat 0 then s else modCtx s G (fun c => { c with wait := some (.barrier id k (fld a 13 8)) })) s

/-- A context that waits at barrier `id` goes on once every context it waits for has arrived as often. -/
def passBarrier (id G : Nat) (s : State) : State :=
  match (ctx s G).wait with
  | some (.barrier i k n) =>
    if i = id ∧ n ≤ arrivedCount s G id k then showCtx G (modCtx s G (fun c => { c with wait := none })) else s
  | _ => s

/-- BARRIER_RELEASE: where COUNT contexts have made their k-th arrival at BAR_ID, a waiting context continues. -/
def execBarrierRelease (p id : Nat) (s : State) : Host.Outcome State Fault Refusal :=
  .next ((part s p).quads.foldl (fun s G => passBarrier id G s) s)

/-- SLOT_WAIT: until slot SLOT has begun; at once where it has. -/
def execSynSlotWait (G : Nat) (fl : BitVec 4) (a : BitVec 112) (s : State) : Host.Outcome State Fault Refusal :=
  synCommand 3 G fl a (fun s =>
    if bit fl.toNat 0 || decide (fld a 11 0 ≤ rd s Reg.TICK_SLOT) then s
    else modCtx s G (fun c => { c with wait := some (.slot (fld a 11 0)) })) s

/-- The slots up to `i` have begun: TICK_SLOT, and the contexts that waited for one of them. -/
def slotBegins (i : Nat) (s : State) : State :=
  if i ≤ rd s Reg.TICK_SLOT then s
  else
    (List.range 48).foldl (fun s G =>
      match (ctx s G).wait with
      | some (.slot k) => if k ≤ i then showCtx G (modCtx s G (fun c => { c with wait := none })) else s
      | _ => s) (wr s Reg.TICK_SLOT i)

/-- The end of a loop body, at PC after its last command: the next iteration, or out. Inner loops that end at the same
command have their own LOOP_END. -/
def loopNext (G : Nat) (s : State) : State :=
  match (ctx s G).loops with
  | [] => s
  | l :: r =>
    if l.iter + 1 < l.trips then
      wr (modCtx s G (fun c => { c with loops := { l with iter := l.iter + 1 } :: r })) (Reg.CTX_PC G) l.start
    else modCtx s G (fun c => { c with loops := r })

/-- LOOP (R50): the trip count is the word at COUNT_OFS, read in class VEC. More than MAX_TRIPS runs MAX_TRIPS and fails
the frame as a guard violation; an uncorrectable word runs 0 and fails it with UNCORRECTABLE_MEMORY. -/
def execSynLoop (G : Nat) (fl : BitVec 4) (a : BitVec 112) (ue : List Nat) (s : State) :
    Host.Outcome State Fault Refusal :=
  synCommand 4 G fl a (fun s =>
    let mx := fld a 111 96
    let o := fld a 87 64
    let len := fld a 63 48
    let s := spmRead G o 4 (takeUe ue s)
    let bad := spmBad s G o 4
    let v := readNum s (spmAddr G o) 4
    let trips := if !bad.isEmpty then 0 else min v mx
    let s := operandUe G 0 1 bad s
    let s := if bad.isEmpty && decide (mx < v) then
        engFail (Reg.ENG_ERR_GUARD G) 0x0504 G 0 0x0521 true false [] s else s
    let pc := rd s (Reg.CTX_PC G)
    if trips = 0 then wr s (Reg.CTX_PC G) (pc + len)
    else modCtx s G (fun c => { c with loops := ⟨pc, len, trips, 0⟩ :: c.loops })) s

/-- LOOP_END (R50). -/
def execSynLoopEnd (G : Nat) (fl : BitVec 4) (a : BitVec 112) (s : State) : Host.Outcome State Fault Refusal :=
  synCommand 5 G fl a (loopNext G) s

end Sys2Proof.Machine
end

