-- ==== Sys2Proof/Machine/Mov.lean ====
section
/-!
DEFINITION. Scratchpad memory (chapter 7): the hub allotment (R167, R168), the MOV commands (R169–R174) and the scrubbers
(R178).
-/

namespace Sys2Proof.Machine

/-! ### The hub allotment (R167) -/

/-- SPM_HUB_OWNER of hub bank `h`: bit 7 allotted, bit 6 fenced, bits 4:0 partition. -/
def hubByte (s : State) (h : Nat) : Nat := bits (rd s (Reg.SPM_HUB_OWNER (h / 4))) (8 * (h % 4)) 8

/-- Write SPM_HUB_OWNER of a bank. -/
def setHubByte (h v : Nat) (s : State) : State :=
  wr s (Reg.SPM_HUB_OWNER (h / 4)) (setBits (rd s (Reg.SPM_HUB_OWNER (h / 4))) (8 * (h % 4)) 8 v)

/-- The hub banks allotted to a partition's job, ascending. -/
def hubBanks (s : State) (p : Nat) : List Nat := (List.range 128).filter (fun h => (hubByte s h &&& 0x9F) == 128 + p)

/-- The hub banks that are neither allotted nor fenced. -/
def freeHubBanks (s : State) : List Nat := (List.range 128).filter (fun h => hubByte s h == 0)

/-- The physical address of a job's hub offset, none beyond its allotment. -/
def hubPhys (s : State) (p o : Nat) : Option Nat := ((hubBanks s p)[o / 0x80000]?).map (fun h => hubAddr (h * 0x80000 + o % 0x80000))

/-- The runs of a job's hub range: physical address and length, one run per bank. -/
def hubRuns (s : State) (p : Nat) : Nat → Nat → Nat → List (Nat × Nat)
  | 0, _, _ => []
  | fuel + 1, o, n =>
    if n = 0 then []
    else
      let m := min n (0x80000 - o % 0x80000)
      match hubPhys s p o with
      | some a => (a, m) :: hubRuns s p fuel (o + m) (n - m)
      | none => []

/-- The bytes of a job's hub range. -/
def hubBytes (s : State) (p o n : Nat) : Bytes := joinBytes ((hubRuns s p 129 o n).map (fun r => readMem s r.1 r.2))

/-- The bad words of a job's hub range, as physical addresses. -/
def hubBad (s : State) (p o n : Nat) : List Nat :=
  ((hubRuns s p 129 o n).map (fun r =>
    ((List.range ((r.1 + r.2 - 1) / 8 - r.1 / 8 + 1)).map (fun i => 8 * (r.1 / 8 + i))).filter (isBad s))).foldr (· ++ ·) []

/-- An event of the hub scratchpad (Tables 7-11, 7-13): its bit, the latched word, the record and the event. -/
def hubError (b off src op part sev : Nat) (s : State) : State :=
  let d := draw 8 s
  let s := wr (wr (wr (orReg d.2 Reg.SPM_HUB_ERR (2 ^ b)) Reg.SPM_HUB_ERR_SRC src) Reg.SPM_HUB_ERR_OFS off)
    Reg.SPM_HUB_ERR_SYND (256 + d.1.toNat)
  let idx := nextIdx s
  let n := 1152 + off / 0x80000
  raiseBit 0x0300 (0x0400 + b) part n off idx
    (report (mkRec s 7 n sev 0x0300 (0x0400 + b) op part (bnat (sev == 1 && decide (op < 10))) 0 off (leBytes 1 d.1.toNat)) true s)

/-- A frame command has read bad hub words, given as physical addresses. -/
def hubUe (p cls src : Nat) (as : List Nat) (s : State) : State :=
  match as with
  | [] => s
  | a :: _ =>
    let s := bump s Reg.SPM_HUB_HUB_UE_CNT as.length
    let s := hubError 1 (a - hubAddr 0) src cls p 1 s
    failFrame p ⟨0x0540, false, 7, 1152 + (a - hubAddr 0) / 0x80000⟩ s

/-- Write a job's hub range; whole words become valid. -/
def hubWrite (p o : Nat) (b : Bytes) (s : State) : State :=
  ((hubRuns s p 129 o b.length).foldl (fun (q : State × Bytes) r =>
    let s := writeMem q.1 r.1 (q.2.take r.2)
    let lo := 8 * ceilDiv r.1 8
    let hi := 8 * ((r.1 + r.2) / 8)
    (if lo < hi then setBadRange s lo (hi - lo) false else s, q.2.drop r.2)) (s, b)).1

/-- Zero a hub bank with valid check bits (R168). -/
def zeroHubBank (h : Nat) (s : State) : State := zeroRange s (hubAddr (h * 0x80000)) 0x80000

/-- Bytes over a stack's bridge on behalf of a partition (R517). -/
def bridgeBytes (p n : Nat) (s : State) : State := energy s p (10 * n)

/-! ### MOV commands -/

/-- MOV_FILL (R170). -/
def doMovFill (G : Nat) (a : BitVec 112) (s : State) : State :=
  let n := fld a 23 0
  spmWrite G (fld a 47 24) 3 6 (joinBytes (List.replicate n (leBytes 8 (fld a 111 48)))) s

/-- MOV_FILL. -/
def execMovFill (G : Nat) (fl : BitVec 4) (a : BitVec 112) (ue : List Nat) (s : State) : Host.Outcome State Fault Refusal :=
  frameCommand 6 0x01 G fl a ue (doMovFill G a) s

/-- Copy quadrant words to quadrant words; a bad word is written poisoned. -/
def copyWords (G so d n : Nat) (s : State) : State :=
  let bad := spmBad s G so n
  let s := spmWrite G d 3 6 (spmBytes s G so n) (spmRead G so n s)
  let s := bad.foldl (fun s o => spmPoison G (d + (o - so)) 8 s) s
  spmUe G 6 3 bad s

/-- MOV_COPY (R171). -/
def doMovCopy (G : Nat) (a : BitVec 112) (s : State) : State :=
  (List.range (fld a 47 36)).foldl
    (fun s r => copyWords G (fld a 111 88 + 8 * r * fld a 35 18) (fld a 87 64 + 8 * r * fld a 17 0) (8 * fld a 63 48) s) s

/-- MOV_COPY. -/
def execMovCopy (G : Nat) (fl : BitVec 4) (a : BitVec 112) (ue : List Nat) (s : State) : Host.Outcome State Fault Refusal :=
  frameCommand 6 0x02 G fl a ue (doMovCopy G a) s

/-- MOV_HCOPY (R172): over the bridge between the quadrant and the job's hub allotment. -/
def doMovHcopy (G : Nat) (a : BitVec 112) (s : State) : State :=
  let p := ownerOf s G
  let q := fld a 103 80
  let h := fld a 79 54
  let n := 64 * fld a 53 36
  let s := bridgeBytes p n s
  if fld a 111 111 = 0 then
    let bad := spmBad s G q n
    let s := hubWrite p h (spmBytes s G q n) (spmRead G q n s)
    let s := bad.foldl (fun s o => match hubPhys s p (h + (o - q)) with | some x => setBad s x true | none => s) s
    spmUe G 6 3 bad s
  else
    let bad := hubBad s p h n
    let badOff := ((List.range (n / 8)).filter (fun i => match hubPhys s p (h + 8 * i) with | some x => isBad s x | none => false))
    let s := spmWrite G q 3 6 (hubBytes s p h n) s
    let s := badOff.foldl (fun s i => spmPoison G (q + 8 * i) 8 s) s
    hubUe p 6 1 bad s

/-- MOV_HCOPY. -/
def execMovHcopy (G : Nat) (fl : BitVec 4) (a : BitVec 112) (ue : List Nat) (s : State) : Host.Outcome State Fault Refusal :=
  frameCommand 6 0x03 G fl a ue (doMovHcopy G a) s

/-! ### Scrubbing (R178) -/

/-- A scrubber's find: an uncorrectable word is marked poisoned; a corrected one is counted and recorded, and raises at
most CE_EVENT_LIMIT events per quadrant and second. -/
def scrubHit (G off : Nat) (ue : Bool) (s : State) : State :=
  if ue then
    spmError (Reg.SPM_ERR_UE_SCRUB G) 2 G off 4 16 1 true (bump (setBad s (spmAddr G off) true) (Reg.SPM_Q_UE_CNT G) 1)
  else
    let d := draw 8 (bump s (Reg.SPM_Q_CE_CNT G) 1)
    let s := wr (wr (wr (wr d.2 (Reg.SPM_Q_ERR_SRC G) 4) (Reg.SPM_Q_ERR_OFS G) off) (Reg.SPM_Q_ERR_UE G) 0)
      (Reg.SPM_Q_ERR_SYND G) d.1.toNat
    let idx := nextIdx s
    let s := report (mkRec s 6 (bankUnit G off) 0 (0x0100 + G / 4) 0x0300 16 (ownerOf s G) 0 0 off (leBytes 1 d.1.toNat)) true
      (wr s (Reg.SPM_ERR_CE G) 1)
    let k := unitKey 16 G
    if rdb s (Reg.SPM_CE_EVENT_EN (G / 4)) && decide (tget 0 s.cal.ceSecond k < rd s (Reg.SPM_CE_EVENT_LIMIT (G / 4))) then
      raiseBit (0x0100 + G / 4) 0x0300 (ownerOf s G) G off idx
        { s with cal := { s.cal with ceSecond := tmod 0 s.cal.ceSecond k (· + 1) } }
    else s

/-- One hit of a scrub: a word of the row in a bank that is not fenced. -/
def scrubWord (n row : Nat) (h : Nat × Nat × Bool) (s : State) : State :=
  if h.1 < 4 ∧ h.2.1 < 0xC00000 ∧ (h.2.1 % 0x80000) / 1024 = row ∧ !inFenceTable s 6 (bankUnit (4 * n + h.1) h.2.1) then
    scrubHit (4 * n + h.1) h.2.1 h.2.2 s
  else s

/-- SCRUB_ROW: the scrubbers of stack `n` read one row of every bank that is not fenced. `hits` are the words that needed
correction, as (quadrant of the stack, offset, uncorrectable). -/
def execScrubRow (n : Nat) (hits : List (Nat × Nat × Bool)) (s : State) : Host.Outcome State Fault Refusal :=
  if 12 ≤ n ∨ !rdb s (Reg.SPM_SCRUB_EN n) ∨ frozen s ∨ pstate s < 3 then .next s
  else
    let row := rd s (Reg.SPM_SCRUB_ROW n)
    let s := hits.foldl (fun s h => scrubWord n row h s) s
    let s := wr s (Reg.SPM_SCRUB_ROW n) ((row + 1) % 512)
    .next (if row = 511 then bump s (Reg.SPM_SCRUB_PASS_CNT n) 1 else s)

end Sys2Proof.Machine
end

