-- ==== Sys2Proof/Machine/Tier.lean ====
section
/-!
DEFINITION. Memory tiers and the tiered range (chapter 10): the tier map and translation (R232–R237), pinning (R238),
moves (R239–R244), tier 2 (R245–R248), and the TIER commands (R249–R253).
-/

namespace Sys2Proof.Machine

/-! ### Page frames and the tier map -/

/-- Bytes of a page frame (R231). -/
def pageBytes : Nat := 2097152

/-- The tier of a frame, given as physical address div 2 MiB. -/
def tierOf (f : Nat) : Nat := if f < 524288 then 1 else 2

/-- The quadrant that holds a tier-1 frame. -/
def frameQuad (f : Nat) : Nat := f / 6144

/-- Frames of the free pool: below the Kaolin region and the fallow store (R234). -/
def poolFrames (s : State) : Nat := 261120 - rd s Reg.TIER_FALLOW_FRAMES

/-- The partition's tier map. -/
def tierPart (s : State) (p : Nat) : TierPart := tget TierPart.empty s.tier.parts p

/-- Change the partition's tier map. -/
def modTier (s : State) (p : Nat) (f : TierPart → TierPart) : State :=
  { s with tier := { s.tier with parts := tmod TierPart.empty s.tier.parts p f } }

/-- Page `n` as PART_ASSIGN mapped it (R233). -/
def firstPage (t : TierPart) (n : Nat) : TierPage :=
  let f := if n < 6144 * t.quads.length then 6144 * t.quads.getD (n / 6144) 0 + n % 6144
           else 524288 + t.t2.getD (n - 6144 * t.quads.length) 0
  ⟨f, 0, false, false, 0, none⟩

/-- Page `n` of the partition. -/
def pageOf (s : State) (p n : Nat) : TierPage := tget (firstPage (tierPart s p) n) (tierPart s p).pages n

/-- Change page `n` of the partition. -/
def modPage (s : State) (p n : Nat) (f : TierPage → TierPage) : State :=
  modTier s p (fun t => { t with pages := tmod (firstPage t n) t.pages n f })

/-- Pages of the partition's range. -/
def rangePages (s : State) (p : Nat) : Nat := rd s (Reg.TIER_P_RANGE_PAGES p)

/-- The CUR half of an entry as a word (Table 10-3). -/
def curHalf (g : TierPage) : Nat :=
  2 ^ 63 + bnat (g.pins != 0) * 2 ^ 62 + bnat g.wp * 2 ^ 61 + bnat g.mig * 2 ^ 60 + tierOf g.frame * 2 ^ 58 +
    g.frame * 2 ^ 21 + min g.heat 65535

/-- The NXT half. -/
def nxtHalf (g : TierPage) : Nat :=
  match g.nxt with
  | some f => 2 ^ 63 + tierOf f * 2 ^ 58 + f * 2 ^ 21
  | none => 0

/-- Tier-2 pages of a partition. -/
def t2Pages (s : State) (p : Nat) : Nat :=
  let t := tierPart s p
  (t.t2.length + (t.pages.filter (fun e => tierOf e.2.frame == 2 && decide (e.1 < 6144 * t.quads.length))).length) -
    (t.pages.filter (fun e => tierOf e.2.frame == 1 && decide (6144 * t.quads.length ≤ e.1))).length

/-- The pool and partition registers follow the map (Tables 10-12, 10-14). -/
def refreshTier (p : Nat) (s : State) : State :=
  let t := tierPart s p
  let s := wr (wr s Reg.TIER_INFLIGHT s.tier.moves.length) Reg.TIER_T2_FREE (poolFrames s - s.tier.t2Used.length)
  wr (wr (wr s (Reg.TIER_P_T2_USED p) (t2Pages s p)) (Reg.TIER_P_PINNED p) (t.pages.filter (fun e => e.2.pins != 0)).length)
    (Reg.TIER_P_T1_FREE p) t.t1Free.length

/-- The lowest `n` frames of the free pool, none where it holds fewer. -/
def takePool (s : State) (n : Nat) : Option (List Nat) :=
  let free := (List.range (poolFrames s)).filter (fun f => !s.tier.t2Used.contains f)
  if free.length < n then none else some (free.take n)

/-- Mark tier-2 frames as used. -/
def usePool (fs : List Nat) (s : State) : State :=
  { s with tier := { s.tier with t2Used := fs.foldl (fun l f => insertAsc f l) s.tier.t2Used } }

/-! ### Errors of tiers 1 and 2 -/

/-- The tier-2 channel of a physical address (R245). -/
def channelOf (a : Nat) : Nat := let o := a - 0x10000000000; (bits o 8 5) ^^^ (bits o 21 5)

/-- A bit of the TIER error register, naming a unit. -/
def tierError (f : Field) (b ty n op part sev addr : Nat) (feeds : Bool) (s : State) : State :=
  unitError f 5 (0x0900 + b) ty n sev op part (if sev = 1 ∧ op < 10 then 1 else 0) addr [] feeds s

/-- The DRAM die (0–143) and the BDU of a tier-1 address (R99). -/
def dieOfAddr (a : Nat) : Nat × Nat :=
  let G := a / 0x300000000
  let o := a % 0x300000000
  (12 * (G / 4) + o / 0x40000000, 192 * (G / 4) + 16 * (o / 0x40000000) + 4 * (G % 4) + o / 0x10000000 % 4)

/-- A DRAM error: the die's bit and latched address, the record naming the BDU, and the event. -/
def dieError (f : Nat → Field) (b a op part sev : Nat) (fails : Bool) (synd : Bytes) (s : State) : State :=
  let d := dieOfAddr a
  let s := wr (wr (wr s (Reg.BDU_DIE_ERR_ADDR_LO d.1) a) (Reg.BDU_DIE_ERR_ADDR_HI d.1) (a / 2 ^ 32)) (Reg.BDU_DIE_ERR_BG d.1) (d.2 % 16)
  unitError (f d.1) (0x0100 + d.1 / 12) (0x0200 + b) 1 d.2 sev op part (bnat fails) a synd true s

/-- Words that a write covers are valid again: in tier 1 words of 8 bytes, in tier 2 whole 256-byte units (R246). -/
def clearBad (x n : Nat) (s : State) : State :=
  let g := if 0x10000000000 ≤ x ∧ x < 0x18000000000 then 256 else 8
  let lo := g * ceilDiv x g
  let hi := g * ((x + n) / g)
  if lo < hi then setBadRange s lo (hi - lo) false else s

/-- An uncorrectable read in tier 1 or tier 2 (Tables 5-7, 10-9): the bit, the counter, the record and the event. A tier-2
unit is poisoned as a whole (R246). -/
def memUe (a op part : Nat) (fails : Bool) (s : State) : State :=
  if a < 0x9000000000 then
    dieError Reg.BDU_ERR_ECC_UE 1 a op part 1 fails [] (bump s (Reg.BDU_DIE_UE_CNT (dieOfAddr a).1) 1)
  else
    let c := channelOf a
    let s := setBadRange s (a / 256 * 256) 256 true
    let s := wr (wr (wr s Reg.TIER_ERR_ADDR_LO a) Reg.TIER_ERR_ADDR_HI (a / 2 ^ 32)) Reg.TIER_ERR_CH c
    tierError Reg.TIER_ERR_T2_UE 1 11 c op part 1 a true (bump s (Reg.TIER_CH_UE_CNT c) 1)

/-- The unit that a tier-1 or tier-2 error names. -/
def memUnit (a : Nat) : Nat × Nat := if a < 0x9000000000 then (1, (dieOfAddr a).2) else (11, channelOf a)

/-! ### Translation (R232, R237, R240) -/

/-- What an access to the tiered range gives. -/
inductive Xlate where
  /-- The physical address in the CUR frame, and in the NXT frame of a page that is Ready. -/
  | at (cur : Nat) (mirror : Option Nat) (wp : Bool)
  /-- Beyond RANGE_PAGES. -/
  | beyond
  /-- Tier 2 is fenced (R248). -/
  | fenced
  deriving DecidableEq, Repr

/-- Translate a tiered-range address through CUR. -/
def xlate (s : State) (p a : Nat) : Xlate :=
  let n := a / pageBytes
  if rangePages s p ≤ n then .beyond
  else
    let g := pageOf s p n
    if tierOf g.frame = 2 ∧ rdb s Reg.TIER_T2_FENCED then .fenced
    else
      let ready : Bool := s.tier.moves.any (fun m => m.part == p && m.page == n && m.ready)
      .at (g.frame * pageBytes + a % pageBytes)
        (if ready then g.nxt.map (fun f => f * pageBytes + a % pageBytes) else none) g.wp

/-- A translated access counts in the page's HEAT (Table 10-3). -/
def heatPage (s : State) (p a : Nat) : State :=
  modPage s p (a / pageBytes) (fun g => { g with heat := min 65535 (g.heat + 1) })

/-- Account bytes of tier 1 or tier 2 to a partition (Table 17-7, R517). -/
def accountMem (p a n : Nat) (write : Bool) (s : State) : State :=
  if a < 0x9000000000 then account s p (if write then 0x58 else 0x50) n
  else energy (account s p (if write then 0x68 else 0x60) n) p (25 * n)

/-- Read `n` bytes that lie in one page on a partition's behalf: the bytes and whether a word of them is bad. -/
def tierRead (p a n : Nat) (s : State) : Option (Bytes × Bool) × State :=
  match xlate s p a with
  | .at c _ _ => (some (readMem s c n, anyBad s c n), accountMem p c n false (heatPage s p a))
  | _ => (none, s)

/-- Write bytes that lie in one page on a partition's behalf: nothing on an error or with WP set. Whole words become
valid. -/
def tierWrite (p a : Nat) (b : Bytes) (s : State) : Bool × State :=
  match xlate s p a with
  | .at c m false =>
    let put (x : Nat) (s : State) : State := clearBad x b.length (writeMem s x b)
    let s := accountMem p c b.length true (heatPage (put c s) p a)
    (true, match m with | some x => put x s | none => s)
  | _ => (false, s)

/-! ### Moves (R239–R243) -/

/-- A request is dropped. -/
def rejectMove (r : MoveReq) (s : State) : State :=
  raiseWith 5 0x800B r.part (fun _ => leBytes 4 r.page ++ leBytes 1 r.target) []
    (bump s Reg.TIER_MIG_REJECT_CNT 1)

/-- The destination frame of a request: the partition's lowest free tier-1 frame, or the lowest frame of the pool within
the tier-2 quota. -/
def moveDest (s : State) (r : MoveReq) : Option Nat :=
  if r.target = 1 then (tierPart s r.part).t1Free.head?
  else
    let coming := (s.tier.moves.filter (fun m => m.part == r.part && tierOf m.dst == 2)).length
    if rdb s Reg.TIER_T2_FENCED || decide (rd s (Reg.TIER_P_T2_QUOTA r.part) ≤ t2Pages s r.part + coming) then none
    else (takePool s 1).bind (fun l => (l.head?).map (· + 524288))

/-- The engine takes one request (R239). -/
def takeMove (r : MoveReq) (s : State) : State :=
  let g := pageOf s r.part r.page
  if rangePages s r.part ≤ r.page then rejectMove r s
  else if tierOf g.frame = r.target then s
  else if g.pins ≠ 0 ∨ g.mig then rejectMove r s
  else match moveDest s r with
    | none => rejectMove r s
    | some f =>
      let s := if tierOf f = 1 then modTier s r.part (fun t => { t with t1Free := t.t1Free.filter (· != f) })
               else usePool [f - 524288] s
      let s := modPage s r.part r.page (fun g => { g with mig := true, nxt := some f })
      refreshTier r.part { s with tier := { s.tier with moves := s.tier.moves ++ [⟨r.part, r.page, f, false⟩] } }

/-- Take requests in arrival order while fewer than MAX_INFLIGHT moves run. -/
def pumpMoves : List MoveReq → State → State
  | [], s => { s with tier := { s.tier with queue := [] } }
  | r :: rs, s =>
    if max 1 (min 16 (rd s Reg.TIER_MAX_INFLIGHT)) ≤ s.tier.moves.length then { s with tier := { s.tier with queue := r :: rs } }
    else pumpMoves rs (takeMove r s)

/-- Hand requests to the engine; with MIG_EN 0 they are dropped. -/
def requestMoves (rs : List MoveReq) (s : State) : State :=
  if rdb s Reg.TIER_MIG_EN then pumpMoves (s.tier.queue ++ rs) s else rs.foldl (fun s r => rejectMove r s) s

/-- A frame goes to the release list. -/
def releaseFrame (p f : Nat) (ripe : Bool) (s : State) : State :=
  { s with tier := { s.tier with release := s.tier.release ++ [⟨p, f, ripe⟩] } }

/-- Abort a move (R243): NXT is discarded, and the destination frame is zeroed before it is free again. -/
def abortMove (m : Move) (cause : Nat) (s : State) : State :=
  let s := modPage s m.part m.page (fun g => { g with mig := false, nxt := none })
  let s := releaseFrame (if tierOf m.dst = 1 then m.part else 255) m.dst true s
  let s := refreshTier m.part { s with tier := { s.tier with moves := s.tier.moves.filter (· != m) } }
  raiseWith 5 0x800C m.part (fun _ => leBytes 4 m.page ++ leBytes 1 cause) []
    (wr (bump s Reg.TIER_MIG_ABORT_CNT 1) Reg.TIER_ERR_MIG_ABORT 1)

/-- Abort every move that meets a test, then take waiting requests. -/
def abortMoves (f : State → Move → Bool) (cause : Nat) (s : State) : State :=
  let s := (s.tier.moves.filter (f s)).foldl (fun s m => abortMove m cause s) s
  pumpMoves s.tier.queue s

/-- MOVE_ABORT: Kaolin cancels a move, or its destination is fenced. -/
def execMoveAbort (p page cause : Nat) (s : State) : Host.Outcome State Fault Refusal :=
  .next (abortMoves (fun _ m => m.part == p && m.page == page) cause s)

/-- Copy the stored bytes and marks of a frame to another. A bad word makes its 256-byte unit bad in the copy. -/
def copyFrame (src dst : Nat) (s : State) : State :=
  let a := src * pageBytes
  let b := dst * pageBytes
  let cells := s.mem.filter (fun c => decide (a ≤ c.1) && decide (c.1 < a + pageBytes))
  let bad := s.bad.filter (fun c => decide (a / 8 ≤ c.1) && decide (c.1 < (a + pageBytes) / 8))
  let s := zeroRange s b pageBytes
  let s := { s with mem := cells.foldl (fun m c => pokeMem m (b + (c.1 - a)) c.2) s.mem }
  bad.foldl (fun s c => setBadRange s (b + (8 * c.1 - a) / 256 * 256) 256 true) s

/-- The bad units of a frame are reported as a read finds them (Table 10-9). -/
def reportFrame (f part : Nat) (s : State) : State :=
  let a := f * pageBytes
  match s.bad.find? (fun c => decide (a / 8 ≤ c.1) && decide (c.1 < (a + pageBytes) / 8)) with
  | some c => memUe (8 * c.1) 18 part false s
  | none => s

/-- MOVE_COPY_DONE: the last unit of a move is copied and its mirrored writes are acknowledged. Every write so far is in
the copy, whether the copy carried it or it went to both frames. -/
def execMoveCopyDone (p page : Nat) (s : State) : Host.Outcome State Fault Refusal :=
  match s.tier.moves.find? (fun m => m.part == p && m.page == page && !m.ready) with
  | some m =>
    let s := reportFrame (pageOf s p page).frame p (copyFrame (pageOf s p page).frame m.dst s)
    .next (bump { s with tier := { s.tier with moves := s.tier.moves.map (fun x => if x = m then { x with ready := true } else x) } }
      Reg.TIER_MIG_BYTE_CNT pageBytes)
  | none => .next s

/-- FRAME_ZEROING_DONE (R242): a ripe frame of the release list is zero and free again. -/
def execFrameZeroingDone (f : Nat) (s : State) : Host.Outcome State Fault Refusal :=
  match s.tier.release.find? (fun r => r.frame == f && r.ripe) with
  | some r =>
    let s := bump (zeroRange { s with tier := { s.tier with release := s.tier.release.filter (· != r) } } (f * pageBytes) pageBytes)
      Reg.TIER_MIG_BYTE_CNT pageBytes
    let s := if tierOf f = 2 then { s with tier := { s.tier with t2Used := s.tier.t2Used.filter (· != f - 524288) } }
      else if (tierPart s r.part).quads.contains (frameQuad f) then
        modTier s r.part (fun t => { t with t1Free := insertAsc f t.t1Free })
      else s
    .next (refreshTier (if r.part < 32 then r.part else 0) s)
  | none => .next s

/-- No frame command of a partition is in flight. -/
def noneInFlight (s : State) (p : Nat) : Bool := (part s p).quads.all (fun G => (ctx s G).inflight.isEmpty)

/-- One Ready page switches (R241). -/
def switchPage (m : Move) (s : State) : State :=
  let old := (pageOf s m.part m.page).frame
  let s := modPage s m.part m.page (fun g => { g with frame := m.dst, mig := false, nxt := none })
  let s := releaseFrame (if tierOf old = 1 then m.part else 255) old false s
  refreshTier m.part (bump { s with tier := { s.tier with moves := s.tier.moves.filter (· != m) } } Reg.TIER_MIG_DONE_CNT 1)

/-- The engine at a tick: frames released before become ripe, Ready pages of partitions with no command in flight
switch, and waiting requests are taken. -/
def tierAtTick (s : State) : State :=
  let s := { s with tier := { s.tier with release := s.tier.release.map (fun r : Release => { r with ripe := true }) } }
  let due := s.tier.moves.filter (fun m => m.ready && noneInFlight s m.part)
  let s := due.foldl (fun s m => switchPage m s) s
  pumpMoves s.tier.queue s

/-! ### Pinning (R238) -/

/-- Pin a page once more; a moving page's move aborts. -/
def pinPage (p n : Nat) (s : State) : State :=
  let s := match s.tier.moves.find? (fun m => m.part == p && m.page == n) with
    | some m => abortMove m 1 s
    | none => s
  refreshTier p (modPage s p n (fun g => { g with pins := g.pins + 1 }))

/-- Remove one pin of a page. -/
def unpinPage (p n : Nat) (s : State) : State := refreshTier p (modPage s p n (fun g => { g with pins := g.pins - 1 }))

/-- The pages of a tiered range. -/
def pagesOf (a n : Nat) : List Nat :=
  if n = 0 then [] else (List.range ((a + n - 1) / pageBytes - a / pageBytes + 1)).map (· + a / pageBytes)

/-- The page whose CUR frame is `f`, if the partition has one. -/
def pageOfFrame (s : State) (p f : Nat) : Option Nat :=
  let t := tierPart s p
  let home := match findIdx? (· == frameQuad f) t.quads with | some i => some (6144 * i + f % 6144) | none => none
  match home with
  | some n => if tierOf f = 1 ∧ (pageOf s p n).frame = f then some n
              else (t.pages.find? (fun e => e.2.frame == f)).map (·.1)
  | none => (t.pages.find? (fun e => e.2.frame == f)).map (·.1)

/-! ### Policy, patrol, probe (R244, R246, R255) -/

/-- The policy moves of a partition, and the pages it examines: the unpinned ones. Demotions go first, so that a promotion
can follow the demotion that frees its frame. -/
def policyMoves (s : State) (p : Nat) : List MoveReq :=
  let ns := (List.range (rangePages s p)).filter (fun n => (pageOf s p n).pins == 0)
  let cold := ns.filter (fun n => tierOf (pageOf s p n).frame == 1 && decide ((pageOf s p n).heat ≤ rd s Reg.TIER_COLD))
  let hot := ns.filter (fun n => tierOf (pageOf s p n).frame == 2 && decide (rd s Reg.TIER_HOT ≤ (pageOf s p n).heat))
  let hottest := hot.mergeSort (fun a b => decide ((pageOf s p b).heat ≤ (pageOf s p a).heat))
  cold.map (fun n => ⟨p, n, 2⟩) ++ hottest.map (fun n => ⟨p, n, 1⟩)

/-- Clear HEAT on the pages examined. -/
def coolPages (p : Nat) (s : State) : State :=
  (List.range (rangePages s p)).foldl
    (fun s n => if (pageOf s p n).pins = 0 then modPage s p n (fun g => { g with heat := 0 }) else s) s

/-- The job's image opts out of policy moves. -/
def optsOut (s : State) (p : Nat) : Bool :=
  match (part s p).image with
  | some im => (part s p).job.busy && im.optOut
  | none => false

/-- POLICY_PASS. -/
def execPolicyPass (s : State) : Host.Outcome State Fault Refusal :=
  if rdb s Reg.TIER_AUTO then
    .next ((List.range 32).foldl (fun s p =>
      if optsOut s p then s else coolPages p (requestMoves (policyMoves s p) s)) s)
  else .next s

/-- One hit of the patrol: an error that was corrected counts on its channel; one that was not marks the unit. -/
def patrolHit (h : Nat × Bool) (s : State) : State :=
  if 0x8000000000 ≤ h.1 then s
  else
    let a := 0x10000000000 + h.1 / 256 * 256
    if h.2 then memUe a 16 255 false (setBadRange s a 256 true)
    else
      let c := channelOf a
      let s := wr (wr (wr s Reg.TIER_ERR_ADDR_LO a) Reg.TIER_ERR_ADDR_HI (a / 2 ^ 32)) Reg.TIER_ERR_CH c
      tierError Reg.TIER_ERR_T2_CE 0 11 c 16 255 0 a true (bump s (Reg.TIER_CH_CE_CNT c) 1)

/-- TIER2_PATROL: what the patrol scrub found, as tier-2 offsets with an uncorrectable mark. A corrected unit is written
back; an uncorrectable one stays poisoned until a write covers it. -/
def execTier2Patrol (hits : List (Nat × Bool)) (s : State) : Host.Outcome State Fault Refusal :=
  if rd s Reg.TIER_T2_SCRUB_HOURS = 0 ∨ pstate s < 3 then .next s
  else .next (hits.foldl (fun s h => patrolHit h s) s)

/-- TIER_PROBE_WRITE: both halves of the entry are latched; PAGE_HI stands in its register. -/
def execTierProbeWrite (p page : Nat) (s : State) : Host.Outcome State Fault Refusal :=
  let n := rd s Reg.TIER_PROBE_PAGE_HI * 2 ^ 27 + page
  if n < rangePages s p then
    .next (wr (wr s Reg.TIER_PROBE_CUR (curHalf (pageOf s p n))) Reg.TIER_PROBE_NXT (nxtHalf (pageOf s p n)))
  else .next (wr (wr s Reg.TIER_PROBE_CUR 0) Reg.TIER_PROBE_NXT 0)

/-! ### The fence of tier 2 (R248) -/

/-- A pinned tier-2 page. -/
def pinsT2 (s : State) (p : Nat) : Bool :=
  (tierPart s p).pages.any (fun e => e.2.pins != 0 && tierOf e.2.frame == 2)

/-- Tier 2 is fenced. -/
def fenceTier2 (s : State) : State :=
  let s := wr s Reg.TIER_T2_FENCED 1
  let s := abortMoves (fun s m => tierOf m.dst == 2 || tierOf (pageOf s m.part m.page).frame == 2) 2 s
  (List.range 32).foldl (fun s p =>
    if numAt (sharesOf s p) 6 2 != 0 || pinsT2 s p then stopJob s p 0x05E0 else s) s

/-! ### TIER commands (R249–R253) -/

/-- A frame command that completes at issue: it leaves the scoreboard at once, unless it is the commit command. -/
def frameCommandNow (cls op G : Nat) (fl : BitVec 4) (a : BitVec 112) (ue : List Nat) (eff : State → State) (s : State) :
    Host.Outcome State Fault Refusal :=
  frameCommand cls op G fl a ue (fun s =>
    eff (dropUnlessEnd G fl s)) s

/-- The physical address of a unit of the tiered range, where it has one. -/
def unitPhys (s : State) (p a : Nat) : Option Nat := match xlate s p a with | .at c _ _ => some c | _ => none

/-- One 256-byte unit of TIER_LOAD. -/
def loadUnit (G p a q : Nat) (s : State) : State :=
  match tierRead p a 256 s with
  | (some (b, bad), s') =>
    let s := bump (bridgeBytes p 256 (spmWrite G q 3 9 b s')) Reg.TIER_TLOAD_BYTE_CNT 256
    if bad then
      (match unitPhys s p a with
       | some c =>
         failFrame p ⟨0x0540, false, (memUnit c).1, (memUnit c).2⟩ (memUe c 9 p true (spmPoison G q 256 s))
       | none => s)
    else s
  | (none, s') => stopJob (spmPoison G q 256 s') p 0x05E0

/-- TIER_LOAD. -/
def execTierLoad (G : Nat) (fl : BitVec 4) (a : BitVec 112) (ue : List Nat) (s : State) : Host.Outcome State Fault Refusal :=
  frameCommand 9 0x01 G fl a ue (fun s =>
    (List.range (fld a 35 18)).foldl
      (fun s i => loadUnit G (ownerOf s G) (fld a 111 60 + 256 * i) (fld a 59 36 + 256 * i) s) s) s

/-- A write that meets WP (Table 10-9). -/
def wpWrite (p a : Nat) (s : State) : State :=
  failFrame p ⟨0x0542, true, 14, 5⟩ (tierError Reg.TIER_ERR_WP_WRITE 3 14 5 9 p 1 (a / pageBytes) true s)

/-- One 256-byte unit of TIER_STORE. -/
def storeUnit (G p q a : Nat) (s : State) : State :=
  let bad := spmBad s G q 256
  let b := spmBytes s G q 256
  let s := bridgeBytes p 256 (spmRead G q 256 s)
  match xlate s p a with
  | .at _ _ true => wpWrite p a s
  | .at c m false =>
    let s := bump (tierWrite p a b s).2 Reg.TIER_TSTORE_BYTE_CNT 256
    if bad.isEmpty then s
    else
      let s := setBadRange s c 256 true
      let s := match m with | some x => setBadRange s x 256 true | none => s
      spmUe G 9 3 bad s
  | _ => stopJob s p 0x05E0

/-- TIER_STORE. -/
def execTierStore (G : Nat) (fl : BitVec 4) (a : BitVec 112) (ue : List Nat) (s : State) : Host.Outcome State Fault Refusal :=
  frameCommand 9 0x02 G fl a ue (fun s =>
    (List.range (fld a 35 18)).foldl
      (fun s i => storeUnit G (ownerOf s G) (fld a 59 36 + 256 * i) (fld a 111 60 + 256 * i) s) s) s

/-- TIER_MIGRATE completes at issue; its requests are staged in ascending page order (R250). -/
def execTierMigrate (G : Nat) (fl : BitVec 4) (a : BitVec 112) (ue : List Nat) (s : State) : Host.Outcome State Fault Refusal :=
  frameCommandNow 9 0x03 G fl a ue (fun s =>
    { s with tier := { s.tier with staged := s.tier.staged ++
        (List.range (fld a 80 69)).map (fun i => ⟨ownerOf s G, fld a 111 81 + i, fld a 68 67⟩) } }) s

/-- The staged requests of a partition: handed to the engine where its frame commits, else discarded (R250). -/
def closeStagedMoves (p : Nat) (commits : Bool) (s : State) : State :=
  let mine := s.tier.staged.filter (fun r => r.part == p)
  let s := { s with tier := { s.tier with staged := s.tier.staged.filter (fun r => r.part != p) } }
  if commits && !mine.isEmpty then requestMoves mine s else s

end Sys2Proof.Machine
end

