-- ==== Sys2Proof/Machine/Operands.lean ====
section
/-!
DEFINITION. Operands of the engines of a quadrant: elements of scratchpad ranges with their poison (R141, R575), what they
write, and the stored rows of weights with their chunks (R103, R104).
-/

namespace Sys2Proof.Machine

/-! ### Elements -/

/-- Element `i` of `z` bytes of a quadrant range; none where its word is bad. -/
def elem (s : State) (G off z i : Nat) : Option Nat :=
  if isBad s (spmAddr G (off + z * i)) then none else some (readNum s (spmAddr G (off + z * i)) z)

/-- `n` elements of `z` bytes. -/
def elems (s : State) (G off z n : Nat) : List (Option Nat) := (List.range n).map (elem s G off z)

/-- `n` FP32 elements. -/
def f32s (s : State) (G off n : Nat) : List (Option F32) := (elems s G off 4 n).map (Option.map (BitVec.ofNat 32))

/-- One FP32 word. -/
def f32At (s : State) (G off : Nat) : Option F32 := (elem s G off 4 0).map (BitVec.ofNat 32)

/-- `n` BF16 elements as FP32 (R64). -/
def bf16s (s : State) (G off n : Nat) : List (Option F32) := (elems s G off 2 n).map (Option.map ofBf16)

/-- `n` int8 elements. -/
def i8s (s : State) (G off n : Nat) : List (Option Int) := (elems s G off 1 n).map (Option.map (signed 8))

/-- The I64 poison value (Table 5-7). -/
def poison64 : Nat := 0x8000000000000000

/-- `n` int64 elements; the poison value is a poisoned operand (R575). -/
def i64s (s : State) (G off n : Nat) : List (Option Int) :=
  (elems s G off 8 n).map (fun o => o.bind (fun v => if v = poison64 then none else some (signed 64 v)))

/-- All elements, where none is poisoned. -/
def allOf {α : Type} : List (Option α) → Option (List α)
  | [] => some []
  | none :: _ => none
  | some a :: r => (allOf r).map (a :: ·)

/-- A list cut into rows of `n`. -/
def rowsOf {α : Type} (n : Nat) : Nat → List α → List (List α)
  | 0, _ => []
  | k + 1, l => l.take n :: rowsOf n k (l.drop n)

/-- Bytes of FP32 values. -/
def packF32 (l : List F32) : Bytes := joinBytes (l.map (fun x => leBytes 4 x.toNat))

/-- Bytes of BF16 values. -/
def packBf16 (l : List Nat) : Bytes := joinBytes (l.map (leBytes 2))

/-- Bytes of int8 values. -/
def packI8 (l : List Int) : Bytes := l.map (BitVec.ofInt 8)

/-- Bytes of int64 values; none is the poison value. -/
def packI64 (l : List (Option Int)) : Bytes :=
  joinBytes (l.map (fun o => leBytes 8 (match o with | some a => unsigned 64 a | none => poison64)))

/-! ### Stored rows of weights (R103) -/

/-- Groups of chunk `n` of a row of `kg` groups. -/
def chunkGroups (kg n : Nat) : Nat := min 32 (kg - 32 * n)

/-- The stored row length L. -/
def rowLen (fmt kg : Nat) : Nat :=
  64 * ((List.range (ceilDiv kg 32)).map (fun n => 1 + ceilDiv (chunkGroups kg n * groupBytes fmt) 64)).foldl (· + ·) 0

/-- Where chunk `n` begins: the chunks before it are full. -/
def chunkOff (fmt n : Nat) : Nat := n * 64 * (1 + ceilDiv (32 * groupBytes fmt) 64)

/-- Where the scale word of group `g` stands in its row. -/
def scaleOff (fmt g : Nat) : Nat := chunkOff fmt (g / 32) + 2 * (g % 32)

/-- Where the weight field of group `g` stands in its row. -/
def fieldOff (fmt g : Nat) : Nat := chunkOff fmt (g / 32) + 64 + (g % 32) * groupBytes fmt

/-- Group `g` of a stored row: its scale word and its weight field. -/
def rowGroup (fmt : Nat) (row : Bytes) (g : Nat) : Nat × Bytes :=
  (numAt row (scaleOff fmt g) 2, bytesAt row (fieldOff fmt g) (groupBytes fmt))

/-- No code of the row is illegal (R55, R57). -/
def rowLegal (fmt kg : Nat) (row : Bytes) : Bool :=
  (List.range kg).all (fun g => scaleLegal (rowGroup fmt row g).1 && groupLegal fmt (rowGroup fmt row g).2)

/-- The dot product of a stored row with int8 elements, exact (R60). -/
def dotRow (fmt kg : Nat) (row : Bytes) (q : List Int) : Int :=
  (List.range kg).foldl
    (fun a g => a + scaleWord (rowGroup fmt row g).1 * groupSum fmt (rowGroup fmt row g).2 (q.drop (128 * g))) 0

end Sys2Proof.Machine
end

