-- ==== Sys2Proof/Machine/Flags.lean ====
section
/-!
DEFINITION. The conditions that an engine command meets (Tables 5-7, 6-13) gathered as flags, and what each does: the
register bit, the error record, the event, and the failed frame.
-/

namespace Sys2Proof.Machine

/-- What the outputs of a command showed. -/
structure Flags where
  /-- A result is NaN, or a scale is forbidden, or a quantiser's input is not finite (R149). -/
  nonfinite : Bool
  /-- A result overflowed FP32 (R61). -/
  overflow : Bool
  /-- An illegal weight code (R55, R57). -/
  weight : Bool
  deriving DecidableEq, Repr

/-- No condition. -/
def Flags.none : Flags := ⟨false, false, false⟩

/-- Conditions of two parts of a command. -/
def Flags.or (a b : Flags) : Flags := ⟨a.nonfinite || b.nonfinite, a.overflow || b.overflow, a.weight || b.weight⟩

/-- An output value with the conditions it showed. -/
structure Val where
  v : F32
  fl : Flags
  deriving DecidableEq, Repr

/-- A poisoned output: the canonical NaN, no condition (R575). -/
def Val.poison : Val := ⟨nanF, Flags.none⟩

/-- A result whose scale is forbidden (R59). -/
def Val.badScale : Val := ⟨nanF, ⟨true, false, false⟩⟩

/-- A VEC result: a NaN violates the output guard (R149); an infinity passes. -/
def Val.ofVec (y : F32) : Val := ⟨y, ⟨isNaN y, false, false⟩⟩

/-- RNE_fp32 of an exact value times scales, where every scale is positive finite; an overflow is written as `ovr` and
fails the frame (R61, R149). -/
def Val.exact (ovr : F32 → F32) (n e : Int) (ss : List F32) : Val :=
  if ss.all goodScale then
    let y := exactOut n e ss
    if isInf y then ⟨ovr y, ⟨false, true, false⟩⟩ else ⟨y, Flags.none⟩
  else Val.badScale

/-- The conditions of a list of outputs. -/
def flagsOf (l : List Val) : Flags := l.foldl (fun f x => f.or x.fl) Flags.none

/-- The conditions of an MXA, VEC or SRT command take their actions, in the order weight code, non-finite, overflow. -/
def raiseFlags (G cls : Nat) (f : Flags) (s : State) : State :=
  let seq := 2 * (G / 4) + (G % 4) / 2
  let s := if f.weight then frameCondition G cls 5 seq 0x0522 true s else s
  let s := if f.nonfinite then engFail (Reg.ENG_ERR_NONFINITE G) 0x0503 G cls 0x0521 true false [] s else s
  if f.overflow then engFail (Reg.ENG_ERR_OVERFLOW G) 0x0502 G cls 0x0521 true false [] s else s

/-- The bad words of several operand ranges of a quadrant. -/
def rangesBad (s : State) (G : Nat) (rs : List (Nat × Nat)) : List Nat :=
  (rs.map (fun r => spmBad s G r.1 r.2)).foldr (· ++ ·) []

/-- The reads of a command are counted, and its bad operand words reported (Table 6-13). -/
def readRanges (G cls src : Nat) (rs : List (Nat × Nat)) (s : State) : State :=
  operandUe G cls src (rangesBad s G rs) (rs.foldl (fun s r => spmRead G r.1 r.2 s) s)

end Sys2Proof.Machine
end

