-- ==== Sys2Proof/Machine/Model.lean ====
section
/-!
DEFINITION. The model declaration (R393, Tables 16-1, 16-2), and the contributions and staging of Vexsum (R404–R406).
-/

namespace Sys2Proof.Machine

/-! ### The model declaration -/

/-- The declaration bound to a partition, empty for none. -/
def decl (s : State) (p : Nat) : Bytes := tget [] s.decls p

/-- NTENSOR, NUNIT and NSEED. -/
def nTensor (d : Bytes) : Nat := numAt d 16 4
/-- NUNIT. -/
def nUnit (d : Bytes) : Nat := numAt d 20 2
/-- NSEED. -/
def nSeed (d : Bytes) : Nat := numAt d 22 1
/-- VXS_KEY. -/
def vxsKey (d : Bytes) : Nat := numAt d 24 8
/-- V6_COMPAT. -/
def v6Compat (d : Bytes) : Bool := bit (numAt d 5 1) 0
/-- NLAYER. -/
def nLayer (d : Bytes) : Nat := numAt d 6 2

/-- Tensor descriptor `t` (Table 16-2). -/
def tensorAt (d : Bytes) (t : Nat) : Bytes := bytesAt d (64 + 32 * t) 32

/-- First tensor and tensor count of digest unit `u`. -/
def unitAt (d : Bytes) (u : Nat) : Nat × Nat :=
  (numAt d (64 + 32 * nTensor d + 8 * u) 4, numAt d (68 + 32 * nTensor d + 8 * u) 4)

/-- The seed section. -/
def seedBytes (d : Bytes) : Bytes := bytesAt d (64 + 32 * nTensor d + 8 * nUnit d) (8 * nSeed d)

/-- The length that the counts imply (R393). -/
def declLen (d : Bytes) : Nat := 8 * ceilDiv (64 + 32 * nTensor d + 8 * nUnit d + 8 * nSeed d + nLayer d) 8

/-- The KV base exponent of a layer (R181). -/
def kvExp (d : Bytes) (layer : Nat) : Int :=
  signed 8 (numAt d (64 + 32 * nTensor d + 8 * nUnit d + 8 * nSeed d + layer) 1)

/-! ### Vexsum contributions (R404) -/

/-- One byte into the CRC-64/ECMA-182 register. -/
def crc64Byte (c : Nat) (b : Byte) : Nat :=
  (List.range 8).foldl
    (fun c _ => if bit c 63 then (c * 2 % 2 ^ 64) ^^^ 0x42F0E1EBA9EA3693 else c * 2 % 2 ^ 64) (c ^^^ (b.toNat * 2 ^ 56))

/-- CRC-64/ECMA-182 of a byte string. -/
def crc64 (b : Bytes) : Nat := b.foldl crc64Byte 0

/-- The contribution of a group: a 128-bit number. -/
def vexContribution (tensor row group scale : Nat) (field : Bytes) (key : Nat) : Nat :=
  let lgid := tensor * 2 ^ 44 + row * 2 ^ 20 + group
  let crc := crc64 (leBytes 2 scale ++ field)
  let w := philox ⟨lgid % 2 ^ 32, lgid / 2 ^ 32 % 2 ^ 32, crc % 2 ^ 32, crc / 2 ^ 32⟩ key
  w.w0 + w.w1 * 2 ^ 32 + w.w2 * 2 ^ 64 + w.w3 * 2 ^ 96

/-- The region entries of a stack in a part's VEXSUM section. -/
def vexEntries (im : Image) (stack : Nat) : List Bytes :=
  let b := sectionOf im 0x0B stack
  (List.range (numAt b 0 4)).map (fun i => bytesAt b (8 + 32 * i) 32)

/-- Vexsum of a partition. -/
def vexPart (s : State) (p : Nat) : VexPart := tget VexPart.empty s.vex p

/-- Change Vexsum of a partition. -/
def modVex (s : State) (p : Nat) (f : VexPart → VexPart) : State := { s with vex := tmod VexPart.empty s.vex p f }

/-- The digest unit of a window (R406). -/
def windowUnit (s : State) (p w : Nat) : Nat := if nUnit (decl s p) = 0 then 0 else w % nUnit (decl s p)

/-- Every byte of a range lies in one of the ranges. -/
def covered (rs : List (Nat × Nat)) (a n : Nat) : Bool := rs.any (fun r => decide (r.1 ≤ a) && decide (a + n ≤ r.1 + r.2))

/-- The groups of a stack's regions of unit `u`: number, address of the scale word, address and length of the field, and
tensor, row and group. -/
structure VexGroup where
  num : Nat
  scaleAt : Nat
  fieldAt : Nat
  len : Nat
  tensor : Nat
  row : Nat
  group : Nat
  deriving DecidableEq, Repr

/-- The groups of one region entry, for the rows that meet a test on (address, length). -/
def entryGroups (d : Bytes) (i : Nat) (e : Bytes) (f : Nat → Nat → Bool) : List VexGroup :=
  let t := numAt e 8 4 % 2 ^ 20
  let fmt := numAt (tensorAt d t) 0 1
  let kg := numAt e 24 4 % 2 ^ 18
  let len := rowLen fmt kg
  let start := numAt e 0 8 % 2 ^ 48
  let rows := (List.range (numAt e 16 4 % 2 ^ 24)).filter (fun r => f (start + r * len) len)
  (rows.map (fun r => (List.range kg).map (fun g =>
    ⟨i * 2 ^ 42 + r * 2 ^ 18 + g, start + r * len + scaleOff fmt g, start + r * len + fieldOff fmt g, groupBytes fmt, t,
     numAt e 12 3 + r, numAt e 20 4 % 2 ^ 20 + g⟩))).foldr (· ++ ·) []

/-- The groups of unit `u` on a stack that are no copies, in rows that meet a test. -/
def unitGroups (s : State) (p stack u : Nat) (f : Nat → Nat → Bool) : List VexGroup :=
  match (part s p).image with
  | some im =>
    let d := decl s p
    let us := unitAt d u
    let es := (vexEntries im stack).zip (List.range (vexEntries im stack).length)
    (es.filter (fun x =>
      let t := numAt x.1 8 4 % 2 ^ 20
      !bit (numAt x.1 15 1) 0 && decide (us.1 ≤ t) && decide (t < us.1 + us.2))).foldr
        (fun x l => entryGroups d x.2 x.1 f ++ l) []
  | none => []

/-- The contribution of a group as memory holds it. -/
def groupValue (s : State) (p : Nat) (g : VexGroup) : Nat :=
  vexContribution g.tensor g.row g.group (readNum s g.scaleAt 2) (readMem s g.fieldAt g.len) (vxsKey (decl s p))

/-- A command's reads of physical ranges reach the tap of a stack's Vexsum unit (R119, R154): each group of the window's
unit that one command brings whole, for the first time, is staged. -/
def vexTap (p stack : Nat) (rs : List (Nat × Nat)) (s : State) : State :=
  if rdb s (Reg.LOESS_VXS_EN p) then
    let v := vexPart s p
    let old := tget VexStack.empty v.stks stack
    let hit := fun a n => rs.any (fun r => decide (a < r.1 + r.2) && decide (r.1 < a + n))
    let gs := (unitGroups s p stack (windowUnit s p v.window) hit).filter
      (fun g => covered rs g.scaleAt 2 && covered rs g.fieldAt g.len && !old.seen.contains g.num && !old.newSeen.contains g.num)
    if gs.isEmpty then s
    else
      let new : VexStack := { old with newSeen := old.newSeen ++ gs.map (·.num),
                                       newSum := gs.foldl (fun a g => (a + groupValue s p g) % 2 ^ 128) old.newSum }
      modVex s p (fun v => { v with stks := tput VexStack.empty v.stks stack new })
  else s

/-- The staged contributions of a partition's frame: added where it commits, else discarded (R119). -/
def closeVex (p : Nat) (commits : Bool) (s : State) : State :=
  if (vexPart s p).stks.isEmpty then s
  else
    let close (x : VexStack) : VexStack :=
      if commits then ⟨x.seen ++ x.newSeen, (x.sum + x.newSum) % 2 ^ 128, [], 0⟩ else { x with newSeen := [], newSum := 0 }
    modVex s p (fun v => { v with stks := (List.range 12).foldl (fun t n => tmod VexStack.empty t n close) v.stks })

end Sys2Proof.Machine
end

