-- ==== Sys2Proof/Machine/Rotation.lean ====
section
/-!
DEFINITION. Rotation units (chapter 4): signs (R84), the Walsh–Hadamard transform (R82, R83), the ROT commands (R88, R89)
and their errors (R93).
-/

namespace Sys2Proof.Machine

/-- The sign bit of global element index `i` under a rotation seed (R84). -/
def signBit (seed i : Nat) : Bool :=
  let o := philox ⟨i / 128, 0, 0, 0⟩ seed
  let w := match i % 128 / 32 with
    | 0 => o.w0
    | 1 => o.w1
    | 2 => o.w2
    | _ => o.w3
  bit w (i % 32)

/-- The sign step of a block that starts at global element index `i0`. -/
def applySigns (seed i0 : Nat) (x : List F32) : List F32 :=
  (x.zip (List.range x.length)).map (fun e => if signBit seed (i0 + e.2) then fneg e.1 else e.1)

/-- One butterfly stage of span `h` over `n` runs of 2h elements. -/
def butterfly (h : Nat) : Nat → List F32 → List F32
  | 0, l => l
  | n + 1, l =>
    let a := l.take h
    let b := (l.drop h).take h
    (a.zipWith fadd b) ++ (a.zipWith fsub b) ++ butterfly h n (l.drop (2 * h))

/-- The stages h = 1, 2, …, 2^(k−1). -/
def stages (k : Nat) (x : List F32) : List F32 :=
  (List.range k).foldl (fun x i => butterfly (2 ^ i) (2 ^ (k - 1 - i)) x) x

/-- rotate_fwd (R82). -/
def rotateFwd (k i0 seed : Nat) (x : List F32) : List F32 :=
  (stages k (applySigns seed i0 x)).map (fun v => scaleF v (-((k / 2 : Nat) : Int)))

/-- rotate_inv (R83): the stages, the signs, the factor 2^(−ceil(k/2)). -/
def rotateInv (k i0 seed : Nat) (x : List F32) : List F32 :=
  (applySigns seed i0 (stages k x)).map (fun v => scaleF v (-(((k + 1) / 2 : Nat) : Int)))

/-- What a rotated block showed. -/
structure RotBlock where
  y : List F32
  poison : Bool
  nonfinite : Bool
  overflow : Bool

/-- One block of a ROT command: an element that is not finite, or whose computation passed through an infinity, is the
canonical NaN (R93); a bad operand word poisons the block. -/
def rotBlock (inv : Bool) (k i0 seed : Nat) (x : List (Option F32)) : RotBlock :=
  match allOf x with
  | none => ⟨x.map (fun _ => nanF), true, false, false⟩
  | some l =>
    let y := if inv then rotateInv k i0 seed l else rotateFwd k i0 seed l
    let badIn := l.any (fun v => !isFinite v)
    ⟨y.map (fun v => if isFinite v then v else nanF), false, badIn, !badIn && y.any (fun v => !isFinite v)⟩

/-- A condition of a rotation unit (R93): its bit, record and event, and the frame fails as an output guard violation. -/
def rotError (f : Field) (b G : Nat) (s : State) : State :=
  failFrame (ownerOf s G) ⟨0x0521, true, 4, G⟩
    (unitError f (0x0100 + G / 4) (0x0800 + b) 4 G 1 4 (ownerOf s G) 1 (pcOf s G) [] false s)

/-- The rotation seed of a job's seed table entry, as the unit holds it (R86). -/
def seedOf (s : State) (G j : Nat) : Nat := rd s (Reg.ROT_SEED_LO G j) + 2 ^ 32 * rd s (Reg.ROT_SEED_HI G j)

/-- A ROT command (Tables 4-2, 4-3): `quant` for ROT_FWD_Q. -/
def doRot (inv quant : Bool) (G : Nat) (a : BitVec 112) (s : State) : State :=
  let k := fld a 111 108
  let bf : Bool := fld a 107 106 == 1
  let nv := fld a 99 88
  let nb := fld a 87 76
  let n := nb * 2 ^ k
  let z := if bf then 2 else 4
  let src := fld a 63 40
  let dst := fld a 39 16
  let scl := fld a 15 0 * 256
  let seed := seedOf s G (fld a 105 100)
  let vecs := (List.range nv).map (fun v =>
    let x := if bf then bf16s s G (src + v * n * 2) n else f32s s G (src + v * n * 4) n
    ((rowsOf (2 ^ k) nb x).zip (List.range nb)).map (fun b => rotBlock inv k ((fld a 75 64 + b.2) * 2 ^ k) seed b.1))
  let bad := spmBad s G src (nv * n * z)
  let s := spmUe G 4 1 bad (spmRead G src (nv * n * z) s)
  let outs := vecs.map (fun bs => (bs.map (·.y)).foldr (· ++ ·) [])
  let s :=
    if quant then
      let qs := (outs.zip vecs).map (fun o =>
        if o.2.any (·.poison) then (⟨o.1.map (fun _ => 0), 0, false⟩ : Quant) else quantise o.1)
      let s := spmWrite G dst 1 4 (packI8 ((qs.map (·.q)).foldr (· ++ ·) [])) s
      let s := spmWrite G scl 1 4 (packF32 (qs.map (·.s))) s
      if (qs.zip vecs).any (fun q => q.1.bad && q.2.all (fun b => !b.nonfinite && !b.overflow)) then
        frameCondition G 4 4 G 0x0521 true s else s
    else spmWrite G dst 1 4 (packF32 (outs.foldr (· ++ ·) [])) s
  let s := bump s (Reg.ROT_XFORM_CNT G) (nv * nb)
  let s := if vecs.any (·.any (·.nonfinite)) then rotError (Reg.ROT_ERR_NONFINITE_IN G) 0 G s else s
  if vecs.any (·.any (·.overflow)) then rotError (Reg.ROT_ERR_OVERFLOW G) 1 G s else s

/-- ROT_FWD. -/
def execRotFwd (G : Nat) (fl : BitVec 4) (a : BitVec 112) (ue : List Nat) (s : State) : Host.Outcome State Fault Refusal :=
  frameCommand 4 0x01 G fl a ue (doRot false false G a) s

/-- ROT_FWD_Q. -/
def execRotFwdQ (G : Nat) (fl : BitVec 4) (a : BitVec 112) (ue : List Nat) (s : State) : Host.Outcome State Fault Refusal :=
  frameCommand 4 0x02 G fl a ue (doRot false true G a) s

/-- ROT_INV. -/
def execRotInv (G : Nat) (fl : BitVec 4) (a : BitVec 112) (ue : List Nat) (s : State) : Host.Outcome State Fault Refusal :=
  frameCommand 4 0x03 G fl a ue (doRot true false G a) s

end Sys2Proof.Machine
end

