-- ==== Sys2Proof/Machine/Bdu.lean ====
section
/-!
DEFINITION. Bank dot units (chapter 5): activation register files (R105), BDU_LOAD (R109), BDU_GEMV (R111), their errors
(R116, R117), and the refresh windows of the dies (R101).
-/

namespace Sys2Proof.Machine

/-! ### Units and activation registers -/

/-- The BDU of quadrant G on local die `d`, local bank group `j` (R10). -/
def bduUnit (G d j : Nat) : Nat := 192 * (G / 4) + 16 * d + 4 * (G % 4) + j

/-- The package-wide number of local die `d` of a quadrant's stack. -/
def dieUnit (G d : Nat) : Nat := 12 * (G / 4) + d

/-- Slot `v` of a BDU. -/
def arfSlot (s : State) (u v : Nat) : ArfSlot := tget ArfSlot.empty s.arf (16 * u + v)

/-- Fill a slot. -/
def putArf (u v : Nat) (x : ArfSlot) (s : State) : State := { s with arf := tput ArfSlot.empty s.arf (16 * u + v) x }

/-- The selected dies and local bank groups of a BDU command, ascending. -/
def selDies (a : BitVec 112) : List Nat := bitsSet 12 (fld a 111 100)
/-- The selected local bank groups. -/
def selGroups (a : BitVec 112) : List Nat := bitsSet 4 (fld a 99 96)

/-- Offset of a bank group in its quadrant (Table 5-1). -/
def bankGroupOff (d j : Nat) : Nat := d * 0x40000000 + j * 0x10000000

/-! ### Faults on the way -/

/-- A TSV transfer that failed once is resent and counted (R117). -/
def tsvRetry (G d : Nat) (s : State) : State :=
  let D := dieUnit G d
  unitError (Reg.BDU_ERR_TSV_RETRY D) (0x0100 + G / 4) 0x0203 0 D 0 1 (ownerOf s G) 0 0 [] true
    (bump s (Reg.BDU_DIE_TSV_RETRY_CNT D) 1)

/-- A TSV transfer that failed twice fails the frame. -/
def tsvFail (G d cls : Nat) (s : State) : State :=
  let D := dieUnit G d
  failFrame (ownerOf s G) ⟨0x0525, false, 0, D⟩
    (unitError (Reg.BDU_ERR_TSV_FAIL D) (0x0100 + G / 4) 0x0204 0 D 1 cls (ownerOf s G) 1 (pcOf s G) [] true
      (bump s (Reg.BDU_DIE_TSV_RETRY_CNT D) 1))

/-- A parity error of an activation register file fails the frame. -/
def arfParity (G d j : Nat) (s : State) : State :=
  let D := dieUnit G d
  failFrame (ownerOf s G) ⟨0x0540, false, 1, bduUnit G d j⟩
    (unitError (Reg.BDU_ERR_ARF_PARITY D) (0x0100 + G / 4) 0x0202 1 (bduUnit G d j) 1 1 (ownerOf s G) 1 (pcOf s G) [] true s)

/-- The faults of a command take their actions. -/
def bduFaults (G cls : Nat) (flt : List BduFault) (s : State) : State :=
  flt.foldl (fun s f =>
    match f with
    | .tsvRetry d => tsvRetry G d s
    | .tsvFail d _ => tsvFail G d cls s
    | .arfParity d j _ => arfParity G d j s) s

/-! ### BDU_LOAD -/

/-- BDU_LOAD (R109). -/
def doBduLoad (G : Nat) (a : BitVec 112) (flt : List BduFault) (s : State) : State :=
  let n := fld a 86 79 * 128
  let slot0 := fld a 95 92
  let srcs := (selDies a).map (fun d => (selGroups a).map (fun j => (List.range (fld a 91 87)).map (fun v =>
    (d, j, v, fld a 63 40 + 64 * (d * fld a 78 65 + j * fld a 25 12 + v * fld a 39 26)))))
  let srcs := (srcs.foldr (fun l r => l.foldr (· ++ ·) [] ++ r) [])
  let segs := (srcs.map (fun x => x.2.2.2)).eraseDups
  let bad := ((segs.map (fun o => spmBad s G o n)).foldr (· ++ ·) []).eraseDups
  let s1 := segs.foldl (fun s o => spmRead G o n s) s
  let s2 := srcs.foldl (fun t x =>
    let lost : Bool := !(spmBad s G x.2.2.2 n).isEmpty || flt.contains (.tsvFail x.1 (slot0 + x.2.2.1))
    putArf (bduUnit G x.1 x.2.1) (slot0 + x.2.2.1) ⟨spmBytes s G x.2.2.2 n, lost⟩ t) s1
  bduFaults G 1 flt (spmUe G 1 2 bad s2)

/-- BDU_LOAD. -/
def execBduLoad (G : Nat) (fl : BitVec 4) (a : BitVec 112) (ue : List Nat) (flt : List BduFault) (s : State) :
    Host.Outcome State Fault Refusal :=
  frameCommand 1 0x01 G fl a ue (doBduLoad G a flt) s

/-! ### BDU_GEMV -/

/-- What a BDU returns for a row and a vector: the exact sum, or poison. -/
abbrev DotRes := Option Int

/-- A row of weights as a BDU reads it: its bytes, whether a beat is uncorrectable, and whether a code is illegal. -/
structure RowRead where
  bytes : Bytes
  bad : Bool
  legal : Bool

/-- Elements 0 to n − 1 of a slot; an element at or beyond its length reads as 0 (R105). -/
def slotElems (x : ArfSlot) (n : Nat) : List Int := int8s (padTo n x.bytes)

/-- A(d, j, r, v) for every vector of one row. -/
def rowDots (s : State) (G d j fmt kg slot0 nv : Nat) (flt : List BduFault) (w : RowRead) : List DotRes :=
  (List.range nv).map (fun v =>
    let x := arfSlot s (bduUnit G d j) (slot0 + v)
    if w.bad || !w.legal || x.poisoned || flt.contains (.arfParity d j (slot0 + v)) then none
    else some (dotRow fmt kg w.bytes (slotElems x (128 * kg))))

/-- The uncorrectable beats of a range, as addresses. -/
def badBeats (s : State) (a n : Nat) : List Nat :=
  ((List.range (n / 64)).map (fun i => a + 64 * i)).filter (fun b => anyBad s b 64)

/-- The reads of one BDU: beats, energy, accounting, and its uncorrectable beats. -/
def bduRead (G d j base n : Nat) (legal : Bool) (s : State) : State :=
  let p := ownerOf s G
  let beats := n / 64
  let bad := badBeats s base n
  let s := energy (account (bump s (Reg.BDU_DIE_BEAT_CNT (dieUnit G d)) beats) p 0x50 n) p (169 * beats)
  let s := bad.foldl (fun s b => memUe b 1 p true s) s
  let s := if bad.isEmpty then s else failFrame p ⟨0x0540, false, 1, bduUnit G d j⟩ s
  if legal then s else frameCondition G 1 1 (bduUnit G d j) 0x0522 true s

/-- Sums of several bank groups: poison where one is poisoned. -/
def sumDots (l : List DotRes) : DotRes := (allOf l).map (fun x => x.foldl (· + ·) 0)

/-- The rounded result of the F32 modes (R61): a forbidden scale gives the canonical NaN, an overflow ±Inf. -/
def bduRound (e : Int) (sc : Option F32) (x : DotRes) : Val :=
  match x, sc with
  | some n, some sv => Val.exact id n e [sv]
  | _, _ => Val.poison

/-- BDU_GEMV (R111). -/
def doBduGemv (G : Nat) (a : BitVec 112) (flt : List BduFault) (s : State) : State :=
  let dies := selDies a
  let bgs := selGroups a
  let fmt := fld a 95 93
  let mode := fld a 92 91
  let nv := fld a 86 82
  let nr := fld a 80 70
  let kg := fld a 69 62
  let L := rowLen fmt kg
  let base (d j : Nat) : Nat := t1Addr G (bankGroupOff d j + fld a 61 42 * 256)
  let dst := fld a 41 24 * 64
  let scl := fld a 15 0 * 256
  -- per die, per bank group, per row: what was read and the sums per vector
  let read (d j : Nat) : List RowRead := (List.range nr).map (fun r =>
    let b := base d j + r * L
    let bytes := readMem s b L
    ⟨bytes, anyBad s b L, rowLegal fmt kg bytes⟩)
  let reads := dies.map (fun d => bgs.map (fun j => (d, j, read d j)))
  let dots := reads.map (fun ds => ds.map (fun x => x.2.2.map (rowDots s G x.1 x.2.1 fmt kg (fld a 90 87) nv flt)))
  -- results in the order of R111: vector, die rank, (bank-group rank,) row
  let sums : List (List (List DotRes)) :=
    if mode < 2 then dots.map (fun ds => ds.foldr (· ++ ·) [])
    else dots.map (fun ds => (List.range nr).map (fun r =>
      (List.range nv).map (fun v => sumDots (ds.map (fun rows => (rows.getD r []).getD v none)))))
  let flat := (List.range nv).foldr (fun v l =>
    (sums.foldr (fun rows m => rows.map (fun r => r.getD v none) ++ m) []) ++ l) []
  let flat := (flat.zip (List.range flat.length)).map (fun x =>
    if flt.any (fun f => match f with | .tsvFail _ i => i == x.2 | _ => false) then none else x.1)
  let s1 := reads.foldl (fun t ds => ds.foldl (fun t x =>
    bduRead G x.1 x.2.1 (base x.1 x.2.1) (nr * L) (x.2.2.all (fun w => w.bad || w.legal)) t) t) s
  let s1 := if fld a 81 81 = 1 then
      vexTap (ownerOf s G) (G / 4) ((reads.foldr (· ++ ·) []).map (fun x => (base x.1 x.2.1, nr * L))) s1
    else s1
  let s1 := bduFaults G 1 flt s1
  if mode % 2 = 0 then spmWrite G dst 2 1 (packI64 flat) s1
  else
    let per := if nv = 0 then 0 else flat.length / nv
    let scs := f32s s G scl nv
    let vals := (flat.zip (List.range flat.length)).map (fun x =>
      bduRound (signed 8 (fld a 23 16)) (scs.getD (x.2 / per) none) x.1)
    let s1 := spmUe G 1 2 (spmBad s G scl (4 * nv)) (spmRead G scl (4 * nv) s1)
    let s1 := spmWrite G dst 2 1 (packF32 (vals.map (·.v))) s1
    let f := flagsOf vals
    if f.nonfinite || f.overflow then frameCondition G 1 5 (2 * (G / 4) + (G % 4) / 2) 0x0521 true s1 else s1

/-- BDU_GEMV. -/
def execBduGemv (G : Nat) (fl : BitVec 4) (a : BitVec 112) (ue : List Nat) (flt : List BduFault) (s : State) :
    Host.Outcome State Fault Refusal :=
  frameCommand 1 0x02 G fl a ue (doBduGemv G a flt) s

/-! ### Refresh (R101) -/

/-- DRAM_REFRESH_WINDOW: the window of local die `d` of stack `n` opens; REFRESH_PHASE stands at 200 d ns. Reads that it
blocks are later, and read the same bytes. -/
def execDramRefreshWindow (n d : Nat) (s : State) : Host.Outcome State Fault Refusal :=
  if n < 12 ∧ d < 12 ∧ 3 ≤ pstate s then .next (wr s (Reg.BDU_REFRESH_PHASE n) (200 * d)) else .next s

end Sys2Proof.Machine
end

