-- ==== Sys2Proof/Machine/Mxa.lean ====
section
/-!
DEFINITION. The matrix arrays (chapter 6): MXA_CFG (R132), the products of MXA_GEMM (R130, R134), its passes and arrival
counting (R129, R135), its output modes (R136), and its errors (R149, R155).
-/

namespace Sys2Proof.Machine

/-- MXA_CFG (R132) completes at issue. -/
def execMxaCfg (G : Nat) (fl : BitVec 4) (a : BitVec 112) (ue : List Nat) (s : State) : Host.Outcome State Fault Refusal :=
  frameCommandNow 2 0x01 G fl a ue (fun s => modCtx s G (fun c => { c with mxa := some a })) s

/-- The fields of an MXA_GEMM (Table 6-4) with the parameters it was issued with (Table 6-3). -/
structure Gemm where
  ty : Nat
  fmt : Nat
  mode : Nat
  gr : Nat
  gc : Nat
  m : Nat
  n : Nat
  kg : Nat
  aOfs : Nat
  bOfs : Nat
  dOfs : Nat
  e : Int
  ascl : Nat
  bscl : Nat
  oscl : Nat
  tile : Nat
  deriving DecidableEq, Repr

/-- Read the fields. -/
def gemmOf (a cfg : BitVec 112) : Gemm :=
  { ty := fld a 111 110, fmt := fld a 109 107, mode := fld a 106 104, gr := 2 ^ fld a 103 102, gc := 2 ^ fld a 101 100,
    m := fld a 93 81, n := 8 * fld a 80 68, kg := fld a 67 56, aOfs := fld a 55 40 * 256, bOfs := fld a 39 24 * 256,
    dOfs := fld a 23 8 * 256, e := signed 8 (fld a 7 0), ascl := fld cfg 111 96 * 256, bscl := fld cfg 95 80 * 256,
    oscl := fld cfg 79 64 * 256, tile := 8 * fld cfg 63 50 }

/-- Bytes of an activation row, and of a row of B (R134). -/
def Gemm.aRow (g : Gemm) : Nat := 128 * g.kg * (if g.ty = 2 then 2 else 1)
/-- Bytes of a row of B. -/
def Gemm.bRow (g : Gemm) : Nat := if g.ty = 0 then rowLen g.fmt g.kg else 128 * g.kg * (if g.ty = 2 then 2 else 1)

/-- An output before its mode is applied: the exact sum of the integer types, or y of BF16; none where an operand is
poisoned. -/
inductive Prod where
  | int (a : Option Int) (illegal : Bool)
  | real (y : Option F32)
  deriving DecidableEq, Repr

/-- The product for token `m` and row `n` (R130). -/
def gemmProd (s : State) (G : Nat) (g : Gemm) (m n : Nat) : Prod :=
  let ao := g.aOfs + m * g.aRow
  let bo := g.bOfs + n * g.bRow
  match g.ty with
  | 0 =>
    let row := spmBytes s G bo g.bRow
    if !rowLegal g.fmt g.kg row && (spmBad s G bo g.bRow).isEmpty then .int none true
    else if !(spmBad s G bo g.bRow).isEmpty then .int none false
    else .int ((allOf (i8s s G ao (128 * g.kg))).map (dotRow g.fmt g.kg row)) false
  | 1 =>
    match allOf (i8s s G ao (128 * g.kg)), allOf (i8s s G bo (128 * g.kg)) with
    | some x, some y => .int (some ((x.zip y).foldl (fun t p => t + p.1 * p.2) 0)) false
    | _, _ => .int none false
  | _ =>
    match allOf (bf16s s G ao (128 * g.kg)), allOf (bf16s s G bo (128 * g.kg)) with
    | some x, some y => .real (some (canonicalSum g.tile (x.zipWith fmul y)))
    | _, _ => .real none

/-- y of an output with its conditions (R130, R149). A scale whose word is bad poisons the output. -/
def gemmY (s : State) (G : Nat) (g : Gemm) (m n : Nat) (parity : Bool) : Val :=
  if parity then Val.poison
  else
    match gemmProd s G g m n with
    | .int none ill => ⟨nanF, ⟨false, false, ill⟩⟩
    | .int (some a) _ =>
      (match f32At s G (g.ascl + 4 * m), (if g.ty = 1 then f32At s G (g.bscl + 4 * n) else some oneF) with
       | some sm, some tn =>
         if g.ty = 1 then Val.exact (fun _ => nanF) a 0 [sm, tn] else Val.exact (fun _ => nanF) a g.e [sm]
       | _, _ => Val.poison)
    | .real none => Val.poison
    | .real (some y) => if isInf y then ⟨nanF, ⟨false, true, false⟩⟩ else ⟨y, ⟨isNaN y, false, false⟩⟩

/-- The written bytes of one output in the I64, F32, BF16 and Q8S modes, and its conditions. `inv` is rcp(s0) of Q8S, none
where s0 is forbidden or its word is bad. -/
def gemmOut (s : State) (G : Nat) (g : Gemm) (inv : Option F32) (m n : Nat) (parity : Bool) : Bytes × Flags :=
  if g.mode = 0 then
    match gemmProd s G g m n with
    | .int a ill => (packI64 [if parity then none else a], ⟨false, false, ill⟩)
    | .real _ => (packI64 [none], Flags.none)
  else
    let y := gemmY s G g m n parity
    if g.mode = 1 then (leBytes 4 y.v.toNat, y.fl)
    else if g.mode = 2 then (leBytes 2 (toBf16 y.v), y.fl)
    else
      (packI8 [match inv with
               | some i => if isFinite y.v && isFinite i then quantOne i y.v else 0
               | none => 0], y.fl)

/-- The tokens and rows of pass `i`, with nt in the outer loop (R135). -/
def passSpan (g : Gemm) (i : Nat) : Nat × Nat :=
  let mts := ceilDiv g.m (8 * g.gr)
  (i % mts, i / mts)

/-- How many passes the command makes. -/
def passCount (g : Gemm) : Nat := ceilDiv g.m (8 * g.gr) * ceilDiv g.n (8 * g.gc)

/-- The tokens of M-tile `mt` and the rows of N-tile `nt` that exist. -/
def passTokens (g : Gemm) (mt : Nat) : List Nat := ((List.range (8 * g.gr)).map (· + 8 * g.gr * mt)).filter (· < g.m)
/-- The rows of N-tile `nt`. -/
def passRows (g : Gemm) (nt : Nat) : List Nat := ((List.range (8 * g.gc)).map (· + 8 * g.gc * nt)).filter (· < g.n)

/-- A pass may start: its counter has reached the threshold of R135. -/
def passReady (s : State) (G : Nat) (g : Gemm) (cfg : BitVec 112) (i : Nat) : Bool :=
  fld cfg 49 49 == 0 ||
    (let t := if fld cfg 48 48 = 0 then (passSpan g i).2 else (passSpan g i).1
     decide (fld cfg 43 36 + fld cfg 35 28 * (t + 1) ≤ rd s (Reg.CTX_AC G (fld cfg 47 44))))

/-- rcp(s0) of Q8S, and whether s0 violates the output guard (R59, R68). -/
def staticInv (s : State) (G o : Nat) : Option F32 × Bool :=
  match f32At s G o with
  | none => (none, false)
  | some s0 => if goodScale s0 && !isInf (rcpF s0) then (some (rcpF s0), false) else (none, true)

/-- The operand ranges that a pass reads. -/
def passRanges (g : Gemm) (ms ns : List Nat) : List (Nat × Nat) :=
  ms.map (fun m => (g.aOfs + m * g.aRow, g.aRow)) ++ ns.map (fun n => (g.bOfs + n * g.bRow, g.bRow)) ++
    (if g.mode ≠ 0 ∧ g.ty < 2 then ms.map (fun m => (g.ascl + 4 * m, 4)) else []) ++
    (if g.mode ≠ 0 ∧ g.ty = 1 then ns.map (fun n => (g.bscl + 4 * n, 4)) else []) ++
    (if g.mode = 4 then [(g.oscl, 4)] else [])

/-- Bytes of an output element. -/
def Gemm.outSize (g : Gemm) : Nat :=
  match g.mode with
  | 0 => 8
  | 1 => 4
  | 2 => 2
  | _ => 1

/-- An array parity error of a pass (Table 6-13), naming the command's first array. -/
def parityError (G arr0 : Nat) (s : State) : State :=
  let u := 64 * G + arr0
  failFrame (ownerOf s G) ⟨0x0528, false, 2, u⟩
    (unitError (Reg.ENG_ERR_ACC_PARITY G) (0x0100 + G / 4) 0x0501 2 u 1 2 (ownerOf s G) 1 (pcOf s G) [] true s)

/-- One pass: its outputs are written, unless the mode is Q8, whose rows are written when the last pass has run. -/
def runPass (G : Nat) (g : Gemm) (inv : Option F32) (par : List (Nat × Nat)) (q : State × Flags) (i : Nat) : State × Flags :=
  let sp := passSpan g i
  let ms := passTokens g sp.1
  let ns := passRows g sp.2
  let bad := par.contains sp
  let s := bump q.1 (Reg.ENG_MXA_MAC_CNT G) (64 * g.gr * g.gc * 128 * g.kg)
  if g.mode = 3 then (s, q.2)
  else
    ms.foldl (fun q m =>
      let outs := ns.map (fun n => gemmOut s G g inv m n bad)
      (spmWrite G (g.dOfs + (m * g.n + ns.headD 0) * g.outSize) 0 2 (joinBytes (outs.map (·.1))) q.1,
       outs.foldl (fun f o => f.or o.2) q.2)) (s, q.2)

/-- The rows of Q8 (R136): for each token the int8 values and the scale by R68 over the command's N values; the rest of
the staging range holds no defined value. -/
def finishQ8 (G : Nat) (g : Gemm) (par : List (Nat × Nat)) (q : State × Flags) : State × Flags :=
  let s0 := q.1
  let rows := (List.range g.m).map (fun m => (List.range g.n).map (fun n =>
    gemmY s0 G g m n (par.contains (m / (8 * g.gr), n / (8 * g.gc)))))
  let qs := rows.map (fun r =>
    if r.any (fun v => !isFinite v.v) then (⟨r.map (fun _ => 0), 0, false⟩ : Quant) else quantise (r.map (·.v)))
  let f := rows.foldl (fun f r => f.or (flagsOf r)) q.2
  let free := drawBytes (3 * g.m * g.n) s0
  let s := spmWrite G (g.dOfs + g.m * g.n) 0 2 free.1 free.2
  let s := spmWrite G g.dOfs 0 2 (packI8 ((qs.map (·.q)).foldr (· ++ ·) [])) s
  (spmWrite G g.oscl 0 2 (packF32 (qs.map (·.s))) s, f.or ⟨qs.any (·.bad), false, false⟩)

/-- The passes that may start now, from pass `i` in order; the first that must wait is kept with the command. -/
def gemmRun (G arr0 i : Nat) (g : Gemm) (cfg : BitVec 112) (par : List (Nat × Nat)) (s : State) : State × Option Nat :=
  let n := passCount g
  let todo := ((List.range (n - i)).map (· + i)).takeWhile (passReady s G g cfg)
  let last := i + todo.length
  if todo.isEmpty then (s, some i)
  else
    let ms := (todo.map (fun j => passTokens g (passSpan g j).1)).foldr (· ++ ·) []
    let ns := (todo.map (fun j => passRows g (passSpan g j).2)).foldr (· ++ ·) []
    let inv := staticInv s G g.oscl
    let s1 := readRanges G 2 0 (passRanges g ms.eraseDups ns.eraseDups) s
    let q := todo.foldl (runPass G g inv.1 par) (s1, ⟨g.mode == 4 && inv.2, false, false⟩)
    let q := if g.mode = 3 ∧ last = n then finishQ8 G g par q else q
    let s2 := raiseFlags G 2 q.2 q.1
    let s2 := if todo.any (fun j => par.contains (passSpan g j)) then parityError G arr0 s2 else s2
    (s2, if last = n then none else some last)

/-- The passes of a GEMM that may run at once; one that waits for its accumulate count is noted at the command (R148). -/
def startGemm (G : Nat) (a : BitVec 112) (par : List (Nat × Nat)) (s : State) : State :=
  let cfg := (ctx s G).mxa.getD 0
  let r := gemmRun G (fld a 99 94) 0 (gemmOf a cfg) cfg par s
  match r.2 with
  | none => r.1
  | some i => modCtx r.1 G (fun c => { c with
      inflight := c.inflight.modify (c.inflight.length - 1) (fun x => { x with waitsAc := some (fld cfg 47 44, i) }) })

/-- MXA_GEMM: `par` are the passes (M-tile, N-tile) whose arrays show a parity error. -/
def execMxaGemm (G : Nat) (fl : BitVec 4) (a : BitVec 112) (ue : List Nat) (par : List (Nat × Nat)) (s : State) :
    Host.Outcome State Fault Refusal := frameCommand 2 0x02 G fl a ue (startGemm G a par) s

/-- ARRIVAL_THRESHOLD_REACHED (R135): the waiting passes of the i-th command in flight start, as far as the counter allows. -/
def execArrivalThresholdReached (G i : Nat) (par : List (Nat × Nat)) (s : State) : Host.Outcome State Fault Refusal :=
  match (ctx s G).inflight[i]? with
  | some x =>
    (match x.waitsAc with
     | some (k, j) =>
       let r := gemmRun G (fld x.args 99 94) j (gemmOf x.args x.cfg) x.cfg par s
       .next (modCtx r.1 G (fun c =>
         { c with inflight := c.inflight.modify i (fun x => { x with waitsAc := r.2.map (fun j => (k, j)) }) }))
     | none => .next s)
  | none => .next s

end Sys2Proof.Machine
end

