-- ==== Sys2Proof/Machine/Vec.lean ====
section
/-!
DEFINITION. The vector units (chapter 6): VEC_CFG and the VEC commands (R140, R141, R143) with poisoned operands (R575) and
output guard violations (R149); output guards (R145–R148).
-/

namespace Sys2Proof.Machine

/-- VEC_CFG (Table 6-7) completes at issue. -/
def execVecCfg (G : Nat) (fl : BitVec 4) (a : BitVec 112) (ue : List Nat) (s : State) : Host.Outcome State Fault Refusal :=
  frameCommandNow 3 0x01 G fl a ue (fun s =>
    modCtx s G (fun c => { c with tile8 := fld a 111 98, ntotal := fld a 97 74, eps := BitVec.ofNat 32 (fld a 63 32) })) s

/-- The fields of a VEC command (Table 6-8). -/
structure Vec where
  sub : Nat
  nvec : Nat
  nlen : Nat
  src0 : Nat
  src1 : Nat
  dst : Nat
  aux : Nat
  e : Int
  deriving DecidableEq, Repr

/-- Read the fields; offsets in bytes. -/
def vecOf (a : BitVec 112) : Vec :=
  { sub := fld a 111 104, nvec := fld a 101 90, nlen := fld a 89 74, src0 := fld a 73 58 * 256, src1 := fld a 57 42 * 256,
    dst := fld a 41 26 * 256, aux := fld a 25 10 * 256, e := signed 8 (fld a 9 2) }

/-- Elements of the command. -/
def Vec.n (v : Vec) : Nat := v.nvec * v.nlen

/-- A function of one element; a poisoned operand gives a poisoned output. -/
def map1 (f : F32 → F32) (a : Option F32) : Val :=
  match a with
  | some x => Val.ofVec (f x)
  | none => Val.poison

/-- A function of two elements. -/
def map2 (f : F32 → F32 → F32) (a b : Option F32) : Val :=
  match a, b with
  | some x, some y => Val.ofVec (f x y)
  | _, _ => Val.poison

/-- The elements of a list with the vector each belongs to. -/
def withVec {α : Type} (nlen : Nat) (l : List α) : List (α × Nat) :=
  (l.zip (List.range l.length)).map (fun x => (x.1, x.2 / nlen))

/-- A VEC command with FP32 results: its reads, its outputs and its conditions. -/
def vecF32 (G dst : Nat) (rs : List (Nat × Nat)) (out : List Val) (s : State) : State :=
  raiseFlags G 3 (flagsOf out) (spmWrite G dst 1 3 (packF32 (out.map (·.v))) (readRanges G 3 1 rs s))

/-- VADD and VMUL. -/
def doBinary (f : F32 → F32 → F32) (G : Nat) (a : BitVec 112) (s : State) : State :=
  let v := vecOf a
  vecF32 G v.dst [(v.src0, 4 * v.n), (v.src1, 4 * v.n)]
    ((f32s s G v.src0 v.n).zipWith (map2 f) (f32s s G v.src1 v.n)) s

/-- VADD. -/
def execVadd (G : Nat) (fl : BitVec 4) (a : BitVec 112) (ue : List Nat) (s : State) : Host.Outcome State Fault Refusal :=
  frameCommand 3 0x02 G fl a ue (doBinary fadd G a) s

/-- VMUL. -/
def execVmul (G : Nat) (fl : BitVec 4) (a : BitVec 112) (ue : List Nat) (s : State) : Host.Outcome State Fault Refusal :=
  frameCommand 3 0x03 G fl a ue (doBinary fmul G a) s

/-- VSCALE. -/
def doVscale (G : Nat) (a : BitVec 112) (s : State) : State :=
  let v := vecOf a
  let c := f32s s G v.aux v.nvec
  vecF32 G v.dst [(v.src0, 4 * v.n), (v.aux, 4 * v.nvec)]
    ((withVec v.nlen (f32s s G v.src0 v.n)).map (fun x => map2 fmul x.1 (c.getD x.2 none))) s

/-- VSCALE. -/
def execVscale (G : Nat) (fl : BitVec 4) (a : BitVec 112) (ue : List Nat) (s : State) : Host.Outcome State Fault Refusal :=
  frameCommand 3 0x04 G fl a ue (doVscale G a) s

/-- The functions of VFUNC by SUB (Table 6-6). -/
def vfuncOf : Nat → F32 → F32
  | 0 => expF
  | 1 => exp2F
  | 2 => lnF
  | 3 => log2F
  | 4 => rcpF
  | 5 => rsqrtF
  | 6 => sigmoidF
  | 7 => siluF
  | _ => tanhF

/-- VFUNC. -/
def doVfunc (G : Nat) (a : BitVec 112) (s : State) : State :=
  let v := vecOf a
  vecF32 G v.dst [(v.src0, 4 * v.n)] ((f32s s G v.src0 v.n).map (map1 (vfuncOf v.sub))) s

/-- VFUNC. -/
def execVfunc (G : Nat) (fl : BitVec 4) (a : BitVec 112) (ue : List Nat) (s : State) : Host.Outcome State Fault Refusal :=
  frameCommand 3 0x05 G fl a ue (doVfunc G a) s

/-- VGLU. -/
def execVglu (G : Nat) (fl : BitVec 4) (a : BitVec 112) (ue : List Nat) (s : State) : Host.Outcome State Fault Refusal :=
  frameCommand 3 0x06 G fl a ue (doBinary (fun g u => fmul (siluF g) u) G a) s

/-- The canonical tile in force (0: T = n). -/
def vecTile (s : State) (G : Nat) : Nat := 8 * (ctx s G).tile8

/-- The reduction of VRED by SUB. -/
def vredOf (tile sub : Nat) (l : List F32) : F32 :=
  match sub with
  | 0 => canonicalSum tile l
  | 1 => canonicalSum tile (l.map (fun x => fmul x x))
  | 2 => l.tail.foldl fmax (fmax (l.headD 0) (l.headD 0))
  | 3 => l.foldl (fun a x => fmax a (fabs x)) 0
  | _ => l.tail.foldl fmin (fmin (l.headD 0) (l.headD 0))

/-- VRED: one value per vector. -/
def doVred (G : Nat) (a : BitVec 112) (s : State) : State :=
  let v := vecOf a
  vecF32 G v.dst [(v.src0, 4 * v.n)]
    ((rowsOf v.nlen v.nvec (f32s s G v.src0 v.n)).map (fun r =>
      match allOf r with
      | some l => Val.ofVec (vredOf (vecTile s G) v.sub l)
      | none => Val.poison)) s

/-- VRED. -/
def execVred (G : Nat) (fl : BitVec 4) (a : BitVec 112) (ue : List Nat) (s : State) : Host.Outcome State Fault Refusal :=
  frameCommand 3 0x07 G fl a ue (doVred G a) s

/-- VNORM. -/
def doVnorm (G : Nat) (a : BitVec 112) (s : State) : State :=
  let v := vecOf a
  let c := ctx s G
  let nt := intF ((if c.ntotal = 0 then v.nlen else c.ntotal : Nat) : Int)
  let r := (f32s s G v.aux v.nvec).map (Option.map (fun ss => rsqrtF (fadd (fmul ss (rcpF nt)) c.eps)))
  let g := f32s s G v.src1 v.nlen
  let xs := f32s s G v.src0 v.n
  vecF32 G v.dst [(v.src0, 4 * v.n), (v.src1, 4 * v.nlen), (v.aux, 4 * v.nvec)]
    ((xs.zip (List.range xs.length)).map (fun x =>
      match x.1, r.getD (x.2 / v.nlen) none, g.getD (x.2 % v.nlen) none with
      | some a, some rv, some gj => Val.ofVec (fmul (fmul a rv) gj)
      | _, _, _ => Val.poison)) s

/-- VNORM. -/
def execVnorm (G : Nat) (fl : BitVec 4) (a : BitVec 112) (ue : List Nat) (s : State) : Host.Outcome State Fault Refusal :=
  frameCommand 3 0x08 G fl a ue (doVnorm G a) s

/-- One vector of VQUANT: with a maximum `m` (SUB 0) or a static scale; a poisoned element is 0 and makes the vector's
scale +0, a poisoned parameter makes the whole vector so (R143, R575). -/
def quantVec (dynamic : Bool) (par : Option F32) (x : List (Option F32)) : Quant :=
  let zero (bad : Bool) : Quant := ⟨x.map (fun _ => 0), 0, bad⟩
  match par with
  | none => zero false
  | some m =>
    let xs := x.map (fun o => o.getD 0)
    let q : Quant :=
      if xs.any (fun v => !isFinite v) then zero true
      else if dynamic && isZeroF m then ⟨x.map (fun _ => 0), oneF, false⟩
      else if !goodScale m then zero true
      else if dynamic then quantWith (fmul 0x42FE0000 (rcpF m)) (fmul m 0x3C010204) xs
      else quantWith (rcpF m) m xs
    if x.all (·.isSome) then q
    else ⟨(x.zip q.q).map (fun p => if p.1.isSome then p.2 else 0), 0, q.bad⟩

/-- VQUANT. -/
def doVquant (G : Nat) (a : BitVec 112) (s : State) : State :=
  let v := vecOf a
  let dynamic : Bool := v.sub == 0
  let ps := if dynamic then f32s s G v.aux v.nvec else List.replicate v.nvec (f32At s G v.aux)
  let qs := ((rowsOf v.nlen v.nvec (f32s s G v.src0 v.n)).zip ps).map (fun x => quantVec dynamic x.2 x.1)
  let s := readRanges G 3 1 [(v.src0, 4 * v.n), (v.aux, if dynamic then 4 * v.nvec else 4)] s
  let s := spmWrite G v.dst 1 3 (packI8 ((qs.map (·.q)).foldr (· ++ ·) [])) s
  let s := if dynamic then spmWrite G v.src1 1 3 (packF32 (qs.map (·.s))) s else s
  raiseFlags G 3 ⟨qs.any (·.bad), false, false⟩ s

/-- VQUANT. -/
def execVquant (G : Nat) (fl : BitVec 4) (a : BitVec 112) (ue : List Nat) (s : State) : Host.Outcome State Fault Refusal :=
  frameCommand 3 0x09 G fl a ue (doVquant G a) s

/-- VI64R. -/
def doVi64r (G : Nat) (a : BitVec 112) (s : State) : State :=
  let v := vecOf a
  let sv := f32s s G v.aux v.nvec
  let tj := f32s s G v.src1 v.nlen
  let xs := i64s s G v.src0 v.n
  let rs := [(v.src0, 8 * v.n), (v.aux, 4 * v.nvec)] ++ (if v.sub = 1 then [(v.src1, 4 * v.nlen)] else [])
  vecF32 G v.dst rs
    ((xs.zip (List.range xs.length)).map (fun x =>
      match x.1, sv.getD (x.2 / v.nlen) none, (if v.sub = 1 then tj.getD (x.2 % v.nlen) none else some oneF) with
      | some n, some c, some t =>
        if v.sub = 1 then Val.exact (fun _ => nanF) n 0 [c, t] else Val.exact (fun _ => nanF) n v.e [c]
      | _, _, _ => Val.poison)) s

/-- VI64R. -/
def execVi64r (G : Nat) (fl : BitVec 4) (a : BitVec 112) (ue : List Nat) (s : State) : Host.Outcome State Fault Refusal :=
  frameCommand 3 0x0A G fl a ue (doVi64r G a) s

/-- VI64ADD. -/
def doVi64add (G : Nat) (a : BitVec 112) (s : State) : State :=
  let v := vecOf a
  let out := (i64s s G v.src0 v.n).zipWith
    (fun x y => match x, y with | some m, some n => some (m + n) | _, _ => none) (i64s s G v.src1 v.n)
  spmWrite G v.dst 1 3 (packI64 out) (readRanges G 3 1 [(v.src0, 8 * v.n), (v.src1, 8 * v.n)] s)

/-- VI64ADD. -/
def execVi64add (G : Nat) (fl : BitVec 4) (a : BitVec 112) (ue : List Nat) (s : State) : Host.Outcome State Fault Refusal :=
  frameCommand 3 0x0B G fl a ue (doVi64add G a) s

/-- VCVT. An infinite result passes; a forbidden s_v of SUB 2 does not (R149). -/
def doVcvt (G : Nat) (a : BitVec 112) (s : State) : State :=
  let v := vecOf a
  match v.sub with
  | 0 =>
    let out := (f32s s G v.src0 v.n).map (map1 id)
    raiseFlags G 3 (flagsOf out)
      (spmWrite G v.dst 1 3 (packBf16 (out.map (fun x => toBf16 x.v))) (readRanges G 3 1 [(v.src0, 4 * v.n)] s))
  | 1 =>
    vecF32 G v.dst [(v.src0, 2 * v.n)]
      ((bf16s s G v.src0 v.n).map (map1 (fun x => if isNaN x then nanF else x))) s
  | _ =>
    let sv := f32s s G v.aux v.nvec
    vecF32 G v.dst [(v.src0, v.n), (v.aux, 4 * v.nvec)]
      ((withVec v.nlen (i8s s G v.src0 v.n)).map (fun x =>
        match x.1, sv.getD x.2 none with
        | some q, some c => if goodScale c then ⟨exactOut q 0 [c], Flags.none⟩ else Val.badScale
        | _, _ => Val.poison)) s

/-- VCVT. -/
def execVcvt (G : Nat) (fl : BitVec 4) (a : BitVec 112) (ue : List Nat) (s : State) : Host.Outcome State Fault Refusal :=
  frameCommand 3 0x0C G fl a ue (doVcvt G a) s

/-! ### Output guards -/

/-- Bytes of an element by TYPE (Table 6-10). -/
def guardSize (ty : Nat) : Nat :=
  match ty with
  | 0 => 4
  | 1 => 2
  | 2 => 1
  | _ => 8

/-- x ≤ y for exact values n × 2^e. -/
def leDy (n e m f : Int) : Bool :=
  let k := min e f
  decide (n * 2 ^ (e - k).toNat ≤ m * 2 ^ (f - k).toNat)

/-- An FP32 value lies in [lo, hi]; a NaN does not. -/
def inBounds (lo hi x : F32) : Bool := !isNaN x && decide (fkey lo ≤ fkey x) && decide (fkey x ≤ fkey hi)

/-- An integer lies in [lo, hi], exactly. -/
def intInBounds (lo hi : F32) (n : Int) : Bool :=
  leDy (f32Int lo) (f32Scale lo) n 0 && leDy n 0 (f32Int hi) (f32Scale hi)

/-- The first failing element of a guard (Table 6-11): v × NLEN + j, or the vector for NORM and SUM; none where it passes. -/
def guardFails (s : State) (G : Nat) (g : Bytes) : Option Nat :=
  let ty := numAt g 3 1
  let o := numAt g 4 2 * 256
  let nv := numAt g 6 2
  let nl := numAt g 8 3
  let lo : F32 := BitVec.ofNat 32 (numAt g 12 4)
  let hi : F32 := BitVec.ofNat 32 (numAt g 16 4)
  let fs : List F32 := if ty = 0 then (f32s s G o (nv * nl)).map (·.getD 0) else (bf16s s G o (nv * nl)).map (·.getD 0)
  let tile := numAt g 20 3 % 2 ^ 17
  match numAt g 2 1 with
  | 0 =>
    if ty < 2 then findIdx? (fun x => !inBounds lo hi x) fs
    else if ty = 2 then findIdx? (fun o => match o with | some n => !intInBounds lo hi n | none => false) (i8s s G o (nv * nl))
    else findIdx? (fun o => match o with | some n => !intInBounds lo hi n | none => false) (i64s s G o (nv * nl))
  | 1 => findIdx? (fun x => !isFinite x) fs
  | 2 => findIdx? (fun r => !inBounds lo hi (canonicalSum tile (r.map (fun x => fmul x x)))) (rowsOf nl nv fs)
  | _ => findIdx? (fun r => !inBounds lo hi (canonicalSum tile r)) (rowsOf nl nv fs)

/-- The cycles of a guard (R146). -/
def guardCycles (g : Bytes) : Nat :=
  let k := numAt g 2 1
  12 + ceilDiv (numAt g 6 2 * numAt g 8 3) 2048 * (if k < 2 ∧ numAt g 3 1 < 3 then 1 else 2) + (if k < 2 then 0 else 16)

/-- One guard runs on the vector units: entry `i` at program index `pc`. -/
def runGuard (G pc : Nat) (s : State) (x : Nat × Bytes) : State :=
  let g := x.2
  let o := numAt g 4 2 * 256
  let n := numAt g 6 2 * numAt g 8 3 * guardSize (numAt g 3 1)
  let p := ownerOf s G
  let cyc := guardCycles g
  let bad := spmBad s G o n
  let s := energy (bump (account (bump (spmRead G o n s) (Reg.ENG_GUARD_RUN_CNT G) 1) p 0x20 (cyc * 5 / 8))
    (Reg.ENG_VEC_BUSY_CNT G) cyc) p (600 * cyc)
  if !bad.isEmpty then operandUe G 3 1 bad s
  else
    match guardFails s G g with
    | none => s
    | some el =>
      let s := wr (wr (wr (wr (wr s (Reg.CTX_GUARD_VIOL G) 1) (Reg.CTX_GUARD_KIND G) (numAt g 2 1)) (Reg.CTX_GUARD_PC G) pc)
        (Reg.CTX_GUARD_ENTRY G) x.1) (Reg.CTX_GUARD_ELEM G) el
      engFail (Reg.ENG_ERR_GUARD G) 0x0504 G 3 0x0521 true false (leBytes 4 el ++ leBytes 2 x.1)
        (bump s (Reg.ENG_GUARD_VIOL_CNT G) 1)

/-- Every command of a guard group has completed; the commit command itself waits for the guards of its group. -/
def groupDone (c : Ctx) (grp : Nat) : Bool := c.inflight.all (fun x => decide (grp < x.grp) || bit x.flags 0)

/-- GUARD_EVALUATION: the oldest group of a context whose commands have completed has its guards evaluated, in ascending
entry order. -/
def execGuardEvaluation (G : Nat) (ue : List Nat) (s : State) : Host.Outcome State Fault Refusal :=
  match (ctx s G).guards with
  | [] => .next s
  | (grp, pc) :: r =>
    if groupDone (ctx s G) grp then
      let s := (guardsAt s G pc).foldl (runGuard G pc) (takeUe ue s)
      .next (modCtx s G (fun c => { c with guards := r }))
    else .next s

end Sys2Proof.Machine
end

