-- ==== Sys2Proof/Machine/Loess.lean ====
section
/-!
DEFINITION. The Loess window (R150–R155): stream tables and LOESS_STEP.
-/

namespace Sys2Proof.Machine

/-- The stream table of a context (Table 6-12). -/
def streamTable (s : State) (G : Nat) : Bytes := jobSection s (ownerOf s G) 0x04 (ctxRank s G)

/-- Descriptor `i` of a stream table. -/
def streamDesc (t : Bytes) (i : Nat) : Bytes := bytesAt t (32 + 4 * numAt t 6 2 + 32 * i) 32

/-- The descriptors from index `i` to the one with LAST. -/
def stepDescsFrom (t : Bytes) : Nat → Nat → List Bytes
  | 0, _ => []
  | fuel + 1, i =>
    let d := streamDesc t i
    if bit (numAt d 12 4) 26 then [d] else d :: stepDescsFrom t fuel (i + 1)

/-- The descriptors of step `j`. -/
def stepDescs (t : Bytes) (j : Nat) : List Bytes :=
  let first := numAt t (32 + 4 * j) 4
  stepDescsFrom t (numAt t 8 4 - first) first

/-- Where step `j` writes: its buffer (R151). -/
def stepBuffer (t : Bytes) (j : Nat) : Nat := 256 * (numAt t 0 2 + (j % numAt t 4 1) * numAt t 2 2)

/-- A source of the quadrant's own tier 1 does not cross the bridge (R153). -/
def ownTier1 (G a : Nat) : Bool := decide (t1Addr G 0 ≤ a) && decide (a < t1Addr G 0 + 0x300000000)

/-- One 256-byte unit: from tiered-range address `a` to quadrant offset `q`. Answers whether it was bad. -/
def streamUnit (G a q : Nat) (x : State × Bool) : State × Bool :=
  let p := ownerOf x.1 G
  match tierRead p a 256 x.1 with
  | (some (b, bad), s) =>
    let cross : Bool := match unitPhys s p a with | some c => !ownTier1 G c | none => false
    let s := bump (spmWrite G q 2 6 b (if cross then bridgeBytes p 256 s else s)) (Reg.ENG_LOESS_BYTE_CNT G) 256
    let s := if bad then (match unitPhys s p a with | some c => memUe c 6 p true s | none => s) else s
    (s, x.2 || bad)
  | (none, s) => (stopJob s p 0x05E0, true)

/-- A condition of the stream port (Table 6-13). -/
def streamFail (f : Field) (b G st : Nat) (s : State) : State := engFail f (0x0500 + b) G 6 st false true [] s

/-- One segment of a descriptor, `k`-th of the step: an uncorrectable source or a transfer that fails twice poisons it. The
arrival counter rises once in either case. -/
def streamSegment (G : Nat) (crc : List (Nat × Bool)) (acEn : Bool) (ac : Nat) (k a q units : Nat) (s : State) : State :=
  let x := (List.range units).foldl (fun x i => streamUnit G (a + 256 * i) (q + 256 * i) x) (s, false)
  let lost := crc.contains (k, true)
  let s := if x.2 || lost then spmPoison G q (256 * units) x.1 else x.1
  let s := if x.2 then streamFail (Reg.ENG_ERR_STREAM_UE G) 6 G 0x0540 s else s
  let s := if lost then streamFail (Reg.ENG_ERR_STREAM_PATH G) 7 G 0x0527 s else s
  if acEn then wr s (Reg.CTX_AC G ac) (min 65535 (rd s (Reg.CTX_AC G ac) + 1)) else s

/-- Neighbouring ranges joined, so that a group that spans two units counts as whole. -/
def joinRanges (l : List (Nat × Nat)) : List (Nat × Nat) :=
  (l.foldl (fun acc r =>
    match acc with
    | (a, n) :: t => if a + n = r.1 then (a, n + r.2) :: t else r :: acc
    | [] => [r]) []).reverse

/-- One descriptor; `k` counts the segments of the step. -/
def streamDescriptor (G buf : Nat) (crc : List (Nat × Bool)) (x : State × Nat) (d : Bytes) : State × Nat :=
  let w := numAt d 12 4
  let units := numAt d 8 4 % 2 ^ 18
  let seg := 2 ^ bits w 20 4
  let n := ceilDiv units seg
  let a := numAt d 0 8 % 2 ^ 52
  let q := buf + 256 * bits w 0 16
  let s := (List.range n).foldl (fun s i =>
    streamSegment G crc (bit w 24) (bits w 16 4) (x.2 + i) (a + 256 * seg * i) (q + 256 * seg * i) (min seg (units - seg * i)) s) x.1
  let s := if bit w 25 then
      vexTap (ownerOf s G) (G / 4)
        (joinRanges
          ((List.range units).filterMap (fun i => (unitPhys s (ownerOf s G) (a + 256 * i)).map (fun c => (c, 256))))) s
    else s
  (s, x.2 + n)

/-- LOESS_STEP (R151). `crc` are transfers that fail their CRC, as (segment of the step, twice). -/
def doLoessStep (G : Nat) (a : BitVec 112) (crc : List (Nat × Bool)) (s : State) : State :=
  let t := streamTable s G
  let j := fld a 111 96
  ((stepDescs t j).foldl (streamDescriptor G (stepBuffer t j) crc) (s, 0)).1

/-- LOESS_STEP. -/
def execLoessStep (G : Nat) (fl : BitVec 4) (a : BitVec 112) (ue : List Nat) (crc : List (Nat × Bool)) (s : State) :
    Host.Outcome State Fault Refusal :=
  frameCommand 6 0x10 G fl a ue (doLoessStep G a crc) s

end Sys2Proof.Machine
end

