-- ==== Sys2Proof/Machine/Att.lean ====
section
/-!
DEFINITION. Attention and the latent key-value cache (chapter 8): stored latent rows (R181, R182), descriptor lists
(R187, R188), visibility (R189), attention states and their merging (R191, R192, R194), the ATT commands and KV_PUT, and
their errors (R208).
-/

namespace Sys2Proof.Machine

/-- ATT_CFG (R197) completes at issue. -/
def execAttCfg (G : Nat) (fl : BitVec 4) (a : BitVec 112) (ue : List Nat) (s : State) : Host.Outcome State Fault Refusal :=
  frameCommandNow 5 0x01 G fl a ue (fun s => modCtx s G (fun c => { c with att := some a })) s

/-- The ATT parameters (Table 8-9). -/
structure AttCfg where
  nl : Nat
  np : Nat
  layer : Nat
  g : Nat
  e : Int
  span : Nat
  tree : Nat
  c0 : Nat
  sbuf : Nat
  fresh : Nat
  lbuf : Nat
  dmax : Nat
  fmax : Nat
  deriving DecidableEq, Repr

/-- Read ATT_CFG; offsets in bytes. -/
def attCfgOf (a : BitVec 112) : AttCfg :=
  { nl := fld a 111 108, np := fld a 107 106, layer := fld a 105 103, g := fld a 102 100 + 1, e := signed 8 (fld a 99 92),
    span := 2 ^ fld a 91 89, tree := fld a 88 84, c0 := fld a 83 66, sbuf := fld a 65 50 * 256, fresh := fld a 49 34 * 256,
    lbuf := fld a 33 18 * 256, dmax := 16 * fld a 17 10, fmax := 16 * fld a 9 2 }

/-- The parameters in force in a context. -/
def attCfg (s : State) (G : Nat) : AttCfg := attCfgOf ((ctx s G).att.getD 0)

/-- Bytes of a latent row (R181). -/
def latentRow (nl np : Nat) : Nat := 64 * (1 + 2 * (nl + np))

/-- A condition of ATT with a register bit that fails the frame (Tables 8-15, 8-18). -/
def attFail (f : Field) (b G st : Nat) (one feeds : Bool) (s : State) : State := engFail f (0x0600 + b) G 5 st one feeds [] s

/-! ### ATT_KVQ (R182) -/

/-- The least integer at or above n × 2^e, for n ≥ 0. -/
def ceilDy (n : Nat) (e : Int) : Nat := if 0 ≤ e then n * 2 ^ e.toNat else ceilDiv n (2 ^ (-e).toNat)

/-- A converted group: its scale word, its elements, and whether it saturated. -/
structure KvGroup where
  word : Nat
  q : List Int
  sat : Bool
  deriving DecidableEq, Repr

/-- kvq_group, for finite inputs. -/
def kvqGroup (ebase : Int) (x : List F32) : KvGroup :=
  let a := x.foldl (fun m v => fmax m (fabs v)) 0
  if isZeroF a then ⟨0, x.map (fun _ => 0), false⟩
  else
    let t := fmul a 0x3C010204
    let l := leadBit t
    let e0 : Int := (l.2 : Int) + f32Scale t - 7 - ebase
    let m0 := ceilDiv (l.1 * 128) (2 ^ l.2)
    let me : Nat × Int := if m0 = 256 then (128, e0 + 1) else (m0, e0)
    let me : Nat × Int := if me.2 < 0 then (max 1 (ceilDy l.1 (f32Scale t - ebase)), 0) else me
    let sat : Bool := decide (15 < me.2)
    let me : Nat × Int := if sat then (255, 15) else me
    let inv := rcpF (roundDy false me.1 (ebase + me.2))
    ⟨me.2.toNat * 256 + me.1, x.map (quantOne inv), sat⟩

/-- A group of a KVQ row: a poisoned or non-finite input gives scale word 0 and zeros (R149, R575). -/
def kvqChecked (ebase : Int) (x : List (Option F32)) : KvGroup × Bool :=
  match allOf x with
  | none => (⟨0, x.map (fun _ => 0), false⟩, false)
  | some l => if l.all isFinite then (kvqGroup ebase l, false) else (⟨0, x.map (fun _ => 0), false⟩, true)

/-- A stored latent row (R181). -/
def latentBytes (gs : List KvGroup) : Bytes :=
  padTo 64 (joinBytes (gs.map (fun g => leBytes 2 g.word))) ++ joinBytes (gs.map (fun g => packI8 g.q))

/-- ATT_KVQ. -/
def doAttKvq (G : Nat) (a : BitVec 112) (s : State) : State :=
  let c := attCfg s G
  let n := c.nl + c.np
  let src := fld a 95 80 * 256
  let dst := fld a 79 64 * 256
  let rows := (List.range (fld a 111 96)).map (fun i =>
    (rowsOf 128 n (f32s s G (src + 512 * n * i) (128 * n))).map (kvqChecked c.e))
  let s := readRanges G 5 1 [(src, 512 * n * fld a 111 96)] s
  let s := spmWrite G dst 1 5 (joinBytes (rows.map (fun r => latentBytes (r.map (·.1))))) s
  let sats := (rows.map (fun r => (r.filter (·.1.sat)).length)).foldl (· + ·) 0
  let s := if sats = 0 then s else
    raiseBit (0x0100 + G / 4) 0x0600 (ownerOf s G) G (pcOf s G) noRecord
      (wr (bump s (Reg.ATT_KV_SAT_CNT G) sats) (Reg.ATT_ERR_KV_SAT G) 1)
  if rows.any (·.any (·.2)) then attFail (Reg.ATT_ERR_NONFINITE G) 4 G 0x0521 true false s else s

/-- ATT_KVQ. -/
def execAttKvq (G : Nat) (fl : BitVec 4) (a : BitVec 112) (ue : List Nat) (s : State) : Host.Outcome State Fault Refusal :=
  frameCommand 5 0x02 G fl a ue (doAttKvq G a) s

/-! ### Descriptor lists (R187, R188) -/

/-- A page descriptor (Table 8-4). -/
structure PageDesc where
  lpage : Nat
  qofs : Nat
  seg : Nat
  nrows : Nat
  resv : Bool
  deriving DecidableEq, Repr

/-- A fresh-row or query info entry (Table 8-5). -/
structure PosInfo where
  pos : Nat
  seg : Nat
  resv : Bool
  deriving DecidableEq, Repr

/-- A descriptor list. -/
structure DescList where
  epoch : Nat
  bad : Nat
  resv : Bool
  descs : List PageDesc
  fresh : List PosInfo
  queries : List PosInfo
  deriving DecidableEq, Repr

/-- Read a descriptor. -/
def pageDesc (b : Bytes) : PageDesc :=
  let w := numAt b 0 8
  ⟨bits w 34 18, bits w 0 34, numAt b 8 2, numAt b 10 1, bits w 52 12 == 0 && numAt b 11 21 == 0⟩

/-- Read an info entry. -/
def posInfo (b : Bytes) : PosInfo := ⟨numAt b 0 3, numAt b 4 2, numAt b 3 1 == 0 && numAt b 6 2 == 0⟩

/-- Bytes of a list by its header's counts. -/
def listBytes (s : State) (G o : Nat) : Nat :=
  let h := spmBytes s G o 32
  32 + 32 * numAt h 8 2 + 8 * numAt h 10 2 + 8 * numAt h 12 2

/-- The list at a quadrant offset. -/
def descList (s : State) (G o : Nat) : DescList :=
  let h := spmBytes s G o 32
  let nd := numAt h 8 2
  let nf := numAt h 10 2
  { epoch := numAt h 0 8, bad := numAt h 14 1, resv := numAt h 15 17 == 0,
    descs := (List.range nd).map (fun i => pageDesc (spmBytes s G (o + 32 + 32 * i) 32)),
    fresh := (List.range nf).map (fun i => posInfo (spmBytes s G (o + 32 + 32 * nd + 8 * i) 8)),
    queries := (List.range (numAt h 12 2)).map (fun i => posInfo (spmBytes s G (o + 32 + 32 * nd + 8 * nf + 8 * i) 8)) }

/-- The current buffer of the two: the second serves odd frame epochs. -/
def listAt (s : State) (G ofs lbuf : Nat) : Nat := ofs + (rd s (Reg.CTX_FRAME_EPOCH G) % 2) * lbuf

/-- What a command asks of its list: row bytes, group size, capacities, and, for ATT_RUN, NQ, the first chunk and the
number of chunks with the span, and FINAL. -/
structure ListAsk where
  row : Nat
  g : Nat
  dmax : Nat
  fmax : Nat
  run : Option (Nat × Nat × Nat × Nat × Bool)
  deriving DecidableEq, Repr

/-- The index of the first entry at which a test fails, with the list before it. -/
def firstBad {α : Type} (f : List α → α → Bool) (l : List α) : Option Nat :=
  (List.range l.length).find? (fun i => match l[i]? with | some x => !f (l.take i) x | none => false)

/-- The first offending entry of a list (R188), as (kind, index): 0 header, 1 descriptor, 2 fresh-row info, 3 query info. -/
def listFault (k : ListAsk) (l : DescList) : Option (Nat × Nat) :=
  let hdr : Bool := l.bad == 0 && l.resv && decide (l.descs.length ≤ k.dmax) && decide (l.fresh.length ≤ k.fmax) &&
    (match k.run with | some (nq, _) => l.queries.length == nq | none => true)
  let dOk (pre : List PageDesc) (d : PageDesc) : Bool :=
    d.resv && decide (d.nrows ≤ 64) && decide (d.qofs < 0x300000000) &&
      decide (d.qofs % 0x10000000 + 64 * k.g * k.row ≤ 0x10000000) &&
      pre.all (fun p => decide (p.seg < d.seg) || (p.seg == d.seg && decide (p.lpage < d.lpage))) &&
      (match k.run with
       | some (_, c0, n, span, _) => decide (c0 ≤ d.lpage / span) && decide (d.lpage / span < c0 + n)
       | none => true)
  let fOk (pre : List PosInfo) (f : PosInfo) : Bool :=
    f.resv && !pre.any (fun p => p.pos == f.pos && p.seg == f.seg) &&
      l.descs.any (fun d => d.seg == f.seg && d.lpage == f.pos / 64 && decide (d.nrows ≤ f.pos % 64))
  let qOk (_ : List PosInfo) (q : PosInfo) : Bool :=
    q.resv && (match k.run with
      | some (_, _, n, span, true) => q.seg == 0 || decide (q.pos / 64 / span < n)
      | _ => true)
  if !hdr then some (0, 0)
  else match firstBad dOk l.descs with
    | some i => some (1, i)
    | none => (match firstBad fOk l.fresh with
      | some i => some (2, i)
      | none => (firstBad qOk l.queries).map (fun i => (3, i)))

/-- A list whose EPOCH is not the context's, or that is not valid, fails the frame. `unit` names the record. -/
def listError (G : Nat) (l : DescList) (k : ListAsk) (put : Bool) (s : State) : Option State :=
  let fail (f : Field) (b st : Nat) (one : Bool) (s : State) : State :=
    if put then
      failFrame (ownerOf s G) ⟨st, one, 14, 5⟩
        (unitError f (0x0100 + G / 4) (0x0600 + b) 14 5 1 9 (ownerOf s G) 1 (pcOf s G) [] true s)
    else attFail f b G st one true s
  if l.epoch ≠ rd s (Reg.CTX_FRAME_EPOCH G) then some (fail (Reg.ATT_ERR_LIST_STALE G) 2 0x0529 false s)
  else match listFault k l with
    | some (src, i) =>
      some (fail (Reg.ATT_ERR_LIST_INVALID G) 3 0x052A true (wr (wr s (Reg.ATT_INFO_SRC G) src) (Reg.ATT_INFO_INDEX G) i))
    | none => none

/-! ### Attention states (R191, R192, R194) -/

/-- An attention state with its POISON flag. -/
structure AttState where
  m : F32
  l : F32
  o : List F32
  poison : Bool
  deriving DecidableEq, Repr

/-- The empty state. -/
def AttState.empty (nl : Nat) : AttState := ⟨0xFF800000, 0, List.replicate (128 * nl) 0, false⟩

/-- A state of canonical NaNs. -/
def AttState.nan (nl : Nat) (poison : Bool) : AttState := ⟨nanF, nanF, List.replicate (128 * nl) nanF, poison⟩

/-- merge. -/
def AttState.merge (x y : AttState) : AttState :=
  if isZeroF x.l then y
  else if isZeroF y.l then x
  else
    let m := fmax x.m y.m
    let a := expF (fsub x.m m)
    let b := expF (fsub y.m m)
    ⟨m, fadd (fmul x.l a) (fmul y.l b), x.o.zipWith (fun p q => fadd (fmul p a) (fmul q b)) y.o, x.poison || y.poison⟩

/-- One level of the merge tree. -/
def mergePairs : List AttState → List AttState
  | a :: b :: r => a.merge b :: mergePairs r
  | l => l

/-- The tree of 2^k states in ascending chunk order. -/
def mergeTree : Nat → List AttState → List AttState
  | 0, l => l
  | k + 1, l => mergeTree k (mergePairs l)

/-- FLAGS of a state (Table 8-6). -/
def AttState.flags (x : AttState) : Nat := bnat (isZeroF x.l) + 2 * bnat x.poison

/-- A state record (Table 8-6). -/
def AttState.record (x : AttState) : Bytes :=
  padTo 64 (packF32 [x.m, x.l] ++ leBytes 4 x.flags) ++ packF32 x.o

/-- finalise: the output vector and the 8-byte record. -/
def AttState.finalise (x : AttState) : List F32 × Bytes :=
  if isZeroF x.l then (x.o.map (fun _ => 0), packF32 [0xFF800000] ++ leBytes 4 1)
  else
    let r := rcpF x.l
    (x.o.map (fun o => fmul o r), packF32 [fadd x.m (lnF (fmul x.l 0x3C010204))] ++ leBytes 4 (2 * bnat x.poison))

/-- A key row of the chunk: its position and segment, the scales of its groups, and its bytes. -/
structure KeyRow where
  pos : Nat
  seg : Nat
  bytes : Bytes
  deriving DecidableEq, Repr

/-- The value scale m × 2^e of group `g` of a stored row. -/
def keyScale (r : KeyRow) (g : Nat) : Int := scaleWord (numAt r.bytes (2 * g) 2)

/-- The elements of group `g`. -/
def keyGroup (r : KeyRow) (g : Nat) : List Int := int8s (bytesAt r.bytes (64 + 128 * g) 128)

/-- Row t is visible to a query (R189). -/
def visible (q : PosInfo) (r : KeyRow) : Bool := r.seg == q.seg && q.seg != 0 && decide (r.pos ≤ q.pos)

/-- chunk_state of a query over the rows of a chunk; the Bool says that a score or an output overflowed (R208). -/
def chunkState (c : AttCfg) (q : PosInfo) (x : List Int) (sq : F32) (rows : List KeyRow) : AttState × Bool :=
  let vis := rows.filter (visible q)
  if vis.isEmpty then (AttState.empty c.nl, false)
  else
    let a := vis.map (fun r =>
      (List.range (c.nl + c.np)).foldl (fun t g =>
        t + keyScale r g * ((keyGroup r g).zip (x.drop (128 * g))).foldl (fun u p => u + p.1 * p.2) 0) 0)
    let sc := a.map (fun n => exactOut n c.e [sq])
    if sc.any isInf then (AttState.nan c.nl false, true)
    else
      let mc := sc.tail.foldl fmax (sc.headD 0)
      let p := sc.map (fun t => let y := expF (fsub t mc); roundInt (f32Int y * 127) (f32Scale y))
      let di := p.foldl (· + ·) 0
      let o := (List.range (128 * c.nl)).map (fun j =>
        let vi := (vis.zip p).foldl (fun t r =>
          t + r.2 * (keyGroup r.1 (j / 128)).getD (j % 128) 0 * keyScale r.1 (j / 128)) 0
        exactOut vi c.e [])
      (⟨mc, intF di, o.map (fun v => if isInf v then nanF else v), false⟩, o.any isInf)

/-! ### ATT_RUN (R199) -/

/-- The rows of chunk `k`: the committed rows of its pages and its fresh rows, with whether one is uncorrectable. -/
structure ChunkRows where
  rows : List KeyRow
  bad : Bool
  illegal : Bool

/-- The address of committed row ρ of a page, for a layer (R183). -/
def pageRow (G qofs layer row rho : Nat) : Nat := t1Addr G (qofs + layer * 64 * row + rho * row)

/-- Read the rows of a chunk. `lost` are the quadrant bank groups (die, group) whose transfers or slots failed. -/
def chunkRows (s : State) (G : Nat) (c : AttCfg) (l : DescList) (flt : List BduFault) (k : Nat) : ChunkRows :=
  let row := latentRow c.nl c.np
  let ds := l.descs.filter (fun d => d.lpage / c.span == k)
  let com := (ds.map (fun d => (List.range d.nrows).map (fun r =>
    let a := pageRow G d.qofs c.layer row r
    ((⟨64 * d.lpage + r, d.seg, readMem s a row⟩ : KeyRow), anyBad s a row)))).foldr (· ++ ·) []
  let fr := ((l.fresh.zip (List.range l.fresh.length)).filter (fun f => f.1.pos / 64 / c.span == k)).map (fun f =>
    let o := c.fresh + f.2 * row
    ((⟨f.1.pos, f.1.seg, spmBytes s G o row⟩ : KeyRow), !(spmBad s G o row).isEmpty))
  let rows := com ++ fr
  let hit : Bool := flt.any (fun f =>
    match f with
    | .tsvRetry _ => false
    | .tsvFail d _ => ds.any (fun x => x.qofs / 0x40000000 == d)
    | .arfParity d j _ => ds.any (fun x => x.qofs / 0x40000000 == d && x.qofs / 0x10000000 % 4 == j))
  ⟨rows.map (·.1), hit || rows.any (·.2),
   rows.any (fun r => (List.range (c.nl + c.np)).any (fun g => !scaleLegal (numAt r.1.bytes (2 * g) 2)))⟩

/-- The beats of a page's committed rows: score and value phases, once per pass of 16 queries. -/
def pageReads (G : Nat) (c : AttCfg) (nq : Nat) (d : PageDesc) (s : State) : State :=
  let row := latentRow c.nl c.np
  let p := ownerOf s G
  let beats := d.nrows * ceilDiv nq 16 * (2 + 2 * (2 * c.nl + c.np))
  let a := pageRow G d.qofs c.layer row 0
  let bad := badBeats s a (d.nrows * row)
  let s := energy (account (bump s (Reg.BDU_DIE_BEAT_CNT (dieUnit G (d.qofs / 0x40000000))) beats) p 0x50 (64 * beats)) p (169 * beats)
  let s := bad.foldl (fun s b => memUe b 5 p true s) s
  if bad.isEmpty then s
  else failFrame p ⟨0x0540, false, 1, bduUnit G (d.qofs / 0x40000000) (d.qofs / 0x10000000 % 4)⟩ s

/-- Every slot of the quadrant's BDUs is empty after an ATT_RUN (R202). -/
def clearArf (G : Nat) (s : State) : State :=
  (List.range 12).foldl (fun s d => (List.range 4).foldl (fun s j =>
    (List.range 16).foldl (fun s v => putArf (bduUnit G d j) v ArfSlot.empty s) s) s) s

/-- A poisoned scratchpad operand, or a bad scale, of a query. -/
inductive QueryIn where
  | ok (x : List Int) (sq : F32)
  | poisoned
  | badScale
  deriving DecidableEq, Repr

/-- Query vector `v`. -/
def queryIn (s : State) (G : Nat) (c : AttCfg) (a : BitVec 112) (v : Nat) : QueryIn :=
  let n := 128 * (c.nl + c.np)
  match allOf (i8s s G (fld a 98 83 * 256 + n * v) n), f32At s G (fld a 82 67 * 256 + 4 * v) with
  | some x, some sq => if goodScale sq then .ok x sq else .badScale
  | _, _ => .poisoned

/-- Write the states of the queries, as records or finalised. -/
def writeStates (G : Nat) (final : Bool) (out aux : Nat) (xs : List AttState) (s : State) : State :=
  if final then
    let fs := xs.map AttState.finalise
    let s := spmWrite G out 1 5 (joinBytes (fs.map (fun f => packF32 f.1))) s
    let s := spmWrite G aux 1 5 (joinBytes (fs.map (·.2))) s
    bump s (Reg.ATT_EMPTY_CNT G) (xs.filter (fun x => isZeroF x.l)).length
  else spmWrite G out 1 5 (joinBytes (xs.map AttState.record)) s

/-- ATT_RUN over a valid list. The work buffer holds no defined value afterwards. -/
def attRunList (G : Nat) (a : BitVec 112) (flt : List BduFault) (l : DescList) (listBad : List Nat) (s : State) : State :=
  let c := attCfg s G
  let nq := fld a 110 99
  let n := c.nl + c.np
  let row := latentRow c.nl c.np
  let chunks := (List.range (2 ^ c.tree)).map (fun i => chunkRows s G c l flt (c.c0 + i))
  let qs := (l.queries.zip (List.range nq)).map (fun q => (q.1, queryIn s G c a q.2))
  let states := qs.map (fun q =>
    match q.2 with
    | .poisoned => (AttState.nan c.nl true, false)
    | .badScale => (AttState.nan c.nl false, true)
    | .ok x sq =>
      let cs := chunks.map (fun k => if k.bad || k.illegal then (AttState.nan c.nl true, false) else chunkState c q.1 x sq k.rows)
      (((mergeTree c.tree (cs.map (·.1))).headD (AttState.empty c.nl)), cs.any (·.2)))
  let states := if listBad.isEmpty then states else states.map (fun _ => (AttState.nan c.nl true, false))
  let ops := [(fld a 98 83 * 256, 128 * n * nq), (fld a 82 67 * 256, 4 * nq)] ++
    (List.range l.fresh.length).map (fun i => (c.fresh + i * row, row))
  let s := operandUe G 5 1 listBad s
  let s := readRanges G 5 1 ops s
  let s := l.descs.foldl (fun s d => pageReads G c nq d s) s
  let s := bduFaults G 5 flt s
  let s := if chunks.any (·.bad) then
      raiseBit (0x0100 + G / 4) 0x0605 (ownerOf s G) G (pcOf s G) noRecord (wr s (Reg.ATT_ERR_POISON G) 1) else s
  let s := if chunks.any (·.illegal) then frameCondition G 5 5 (2 * (G / 4) + (G % 4) / 2) 0x0522 true s else s
  let free := drawBytes (320 * c.span * nq + (c.tree + 1) * nq * (64 + 512 * c.nl)) s
  let s := spmWrite G c.sbuf 1 5 free.1 free.2
  let s := writeStates G (fld a 111 111 == 1) (fld a 50 35 * 256) (fld a 34 19 * 256) (states.map (·.1)) s
  let s := bump s (Reg.ATT_ROW_CNT G) ((l.descs.map (·.nrows)).foldl (· + ·) 0 + l.fresh.length)
  let s := clearArf G s
  if states.any (·.2) then attFail (Reg.ATT_ERR_NONFINITE G) 4 G 0x0521 true false s else s

/-- ATT_RUN (R199). -/
def doAttRun (G : Nat) (a : BitVec 112) (flt : List BduFault) (s : State) : State :=
  let c := attCfg s G
  let o := listAt s G (fld a 66 51 * 256) c.lbuf
  let n := min (listBytes s G o) c.lbuf
  let bad := spmBad s G o n
  let l := descList s G o
  let s := spmRead G o n s
  if !bad.isEmpty then attRunList G a flt ⟨0, 0, true, [], [], List.replicate (fld a 110 99) ⟨0, 0, true⟩⟩ bad s
  else
    match listError G l ⟨latentRow c.nl c.np, c.g, c.dmax, c.fmax,
        some (fld a 110 99, c.c0, 2 ^ c.tree, c.span, fld a 111 111 == 1)⟩ false s with
    | some s' => s'
    | none => attRunList G a flt l [] s

/-- ATT_RUN. -/
def execAttRun (G : Nat) (fl : BitVec 4) (a : BitVec 112) (ue : List Nat) (flt : List BduFault) (s : State) :
    Host.Outcome State Fault Refusal :=
  frameCommand 5 0x03 G fl a ue (doAttRun G a flt) s

/-! ### ATT_MERGE (R200) -/

/-- The record of a query in a state set: none where a word is bad. The Bool says that a field is NaN or L is negative. -/
def stateIn (s : State) (G nl o : Nat) : Option AttState × Bool :=
  match allOf (f32s s G o 2), allOf (f32s s G (o + 64) (128 * nl)), elem s G (o + 8) 4 0 with
  | some [m, l], some os, some fl =>
    let viol : Bool := isNaN m || isNaN l || os.any isNaN || (f32Neg l && !isZeroF l)
    (some (if viol then AttState.nan nl (bit fl 1) else ⟨m, l, os, bit fl 1⟩), viol)
  | _, _, _ => (none, false)

/-- ATT_MERGE. -/
def doAttMerge (G : Nat) (a : BitVec 112) (s : State) : State :=
  let nl := (attCfg s G).nl
  let nq := fld a 110 99
  let j := fld a 98 95
  let src := fld a 94 79 * 256
  let rec' := 64 + 512 * nl
  let ins := (List.range nq).map (fun v => (List.range (2 ^ j)).map (fun i => stateIn s G nl (src + (i * nq + v) * rec')))
  let outs := ins.map (fun l =>
    match allOf (l.map (·.1)) with
    | some xs => if l.any (·.2) then AttState.nan nl (xs.any (·.poison)) else (mergeTree j xs).headD (AttState.empty nl)
    | none => AttState.nan nl true)
  let s := readRanges G 5 1 [(src, 2 ^ j * nq * rec')] s
  let s := writeStates G (fld a 111 111 == 1) (fld a 78 63 * 256) (fld a 62 47 * 256) outs s
  if ins.any (·.any (·.2)) then attFail (Reg.ATT_ERR_NONFINITE G) 4 G 0x0521 true false s else s

/-- ATT_MERGE. -/
def execAttMerge (G : Nat) (fl : BitVec 4) (a : BitVec 112) (ue : List Nat) (s : State) : Host.Outcome State Fault Refusal :=
  frameCommand 5 0x04 G fl a ue (doAttMerge G a) s

/-! ### KV_PUT (R203) -/

/-- Write tier-1 bytes at a physical address; the row becomes uncorrectable where its source was. -/
def putRow (p a : Nat) (b : Bytes) (bad : Bool) (s : State) : State :=
  setBadRange (accountMem p a b.length true (writeMem s a b)) a b.length bad

/-- One fresh row to its page. -/
def kvPutRow (G layer row fresh : Nat) (l : DescList) (s : State) (f : PosInfo × Nat) : State :=
  match l.descs.find? (fun d => d.seg == f.1.seg && d.lpage == f.1.pos / 64) with
  | none => s
  | some d =>
    let o := fresh + f.2 * row
    let bad := spmBad s G o row
    let p := ownerOf s G
    let b := spmBytes s G o row
    let s := bump (bridgeBytes p row (spmRead G o row s)) (Reg.ATT_KV_PUT_ROW_CNT G) 1
    let s := putRow p (pageRow G d.qofs layer row (f.1.pos % 64)) b (!bad.isEmpty) s
    if bad.isEmpty then s
    else
      spmUe G 9 3 bad
        (unitError (Reg.ATT_ERR_PUT_UE G) (0x0100 + G / 4) 0x0601 14 5 1 9 p 1 o [] true s)

/-- KV_PUT. -/
def doKvPut (G : Nat) (a : BitVec 112) (s : State) : State :=
  let lbuf := fld a 79 64 * 256
  let row := 64 * fld a 63 59
  let o := listAt s G (fld a 111 96 * 256) lbuf
  let n := min (listBytes s G o) lbuf
  let bad := spmBad s G o n
  let l := descList s G o
  let s := spmRead G o n s
  if !bad.isEmpty then
    spmUe G 9 3 bad (unitError (Reg.ATT_ERR_PUT_UE G) (0x0100 + G / 4) 0x0601 14 5 1 9 (ownerOf s G) 1 o [] true s)
  else
    match listError G l ⟨row, fld a 55 53 + 1, 16 * fld a 52 45, 16 * fld a 44 37, none⟩ true s with
    | some s' => s'
    | none => (l.fresh.zip (List.range l.fresh.length)).foldl (kvPutRow G (fld a 58 56) row (fld a 95 80 * 256) l) s

/-- KV_PUT. -/
def execKvPut (G : Nat) (fl : BitVec 4) (a : BitVec 112) (ue : List Nat) (s : State) : Host.Outcome State Fault Refusal :=
  frameCommand 9 0x40 G fl a ue (doKvPut G a) s

end Sys2Proof.Machine
end

