-- ==== Sys2Proof/Machine/Srt.lean ====
section
/-!
DEFINITION. Expert routing (chapter 9): selection and gates (R211–R213), the SRT commands (R214–R225) and their errors
(R228).
-/

namespace Sys2Proof.Machine

/-- SRT_CFG (R214) completes at issue. -/
def execSrtCfg (G : Nat) (fl : BitVec 4) (a : BitVec 112) (ue : List Nat) (s : State) : Host.Outcome State Fault Refusal :=
  frameCommandNow 7 0x01 G fl a ue (fun s => modCtx s G (fun c => { c with srt := some a })) s

/-- The routing parameters (Table 9-2). -/
structure SrtCfg where
  ne : Nat
  k : Nat
  np : Nat
  nx : Nat
  seg : Nat
  maxtok : Nat
  tripv : Nat
  gate : Nat
  bf16 : Bool
  bias : Bool
  shared : Bool
  rscale : F32
  deriving DecidableEq, Repr

/-- Read SRT_CFG. -/
def srtCfgOf (a : BitVec 112) : SrtCfg :=
  { ne := fld a 111 100 + 1, k := fld a 99 96 + 1, np := fld a 95 88 + 1, nx := fld a 87 80 + 1, seg := 64 * fld a 79 70,
    maxtok := fld a 69 58, tripv := fld a 57 53, gate := fld a 52 51, bf16 := fld a 50 50 == 1, bias := fld a 49 49 == 1,
    shared := fld a 48 48 == 1, rscale := BitVec.ofNat 32 (fld a 31 0) }

/-- The parameters in force in a context. -/
def srtCfg (s : State) (G : Nat) : SrtCfg := srtCfgOf ((ctx s G).srt.getD 0)

/-- RS, CAP_R, CAPX and rb of R216; CAP_S is MAXTOK. -/
def SrtCfg.rs (c : SrtCfg) : Nat := 64 + c.seg
/-- Returned entries per pair. -/
def SrtCfg.capR (c : SrtCfg) : Nat := c.maxtok * min c.k c.nx
/-- Input vectors per local expert. -/
def SrtCfg.capX (c : SrtCfg) : Nat := ceilDiv (c.np * c.maxtok) c.tripv * c.tripv
/-- Bytes of a returned element. -/
def SrtCfg.rb (c : SrtCfg) : Nat := if c.bf16 then 2 else 4

/-! ### Errors (Table 9-7) -/

/-- A condition of SRT: its bit, the index it latches, and the member where it names one. -/
def srtFail (f : Field) (b G st : Nat) (one : Bool) (mem : Option Nat) (idx : Nat) (s : State) : State :=
  let s := wr s (Reg.SRT_ERR_INDEX G) idx
  let s := match mem with | some m => wr s (Reg.SRT_ERR_MEMBER G) m | none => s
  engFail f (0x0700 + b) G 7 st one true [] s

/-- NONFINITE. -/
def srtNonfinite (G idx : Nat) (s : State) : State := srtFail (Reg.SRT_ERR_NONFINITE G) 0 G 0x0521 true none idx s

/-- MAP: ROUTE_MAP_INVALID. -/
def srtMap (G idx : Nat) (s : State) : State := srtFail (Reg.SRT_ERR_MAP G) 1 G 0x052B true none idx s

/-- DATA: ROUTE_DATA_INVALID. -/
def srtData (G mem idx : Nat) (s : State) : State := srtFail (Reg.SRT_ERR_DATA G) 2 G 0x052C false (some mem) idx s

/-- COUNT: ROUTE_DATA_INVALID. -/
def srtCount (G mem : Nat) (s : State) : State := srtFail (Reg.SRT_ERR_COUNT G) 3 G 0x052C false (some mem) 0 s

/-! ### Selection and gates (R211, R212) -/

/-- Insert an id into a list sorted by key descending, before the first id whose key is not greater. -/
def insertDesc (key : Nat → Int) (i : Nat) : List Nat → List Nat
  | [] => [i]
  | j :: r => if key j ≤ key i then i :: j :: r else j :: insertDesc key i r

/-- Ids 0 to n − 1 by key descending, ties by lower id first. -/
def orderDesc (n : Nat) (key : Nat → Int) : List Nat := (List.range n).foldr (insertDesc key) []

/-- topk (R211): the selected experts by rank, with their gates. -/
def topk (z b : List F32) (bias : Bool) (k gate : Nat) (rscale : F32) : List (Nat × F32) :=
  let zi (i : Nat) : F32 := z.getD i 0
  let sel := if bias then z.zipWith fadd b else z
  let x := (orderDesc z.length (fun i => fkey (sel.getD i 0))).take k
  let big (l : List F32) : F32 := l.tail.foldl fmax (l.headD 0)
  let g : List F32 :=
    match gate with
    | 0 =>
      let zs := x.map zi
      let u := zs.map (fun v => expF (fsub v (big zs)))
      u.map (fun v => fmul v (rcpF (canonicalSum k u)))
    | 1 =>
      let u := x.map (fun i => sigmoidF (zi i))
      let c := canonicalSum k u
      u.map (fun v => if isZeroF c then 0 else fmul v (rcpF c))
    | _ =>
      let v := z.map (fun t => expF (fsub t (big z)))
      let c := rcpF (canonicalSum z.length v)
      x.map (fun i => fmul (v.getD i 0) c)
  x.zip (g.map (fun v => fmul v rscale))

/-- The K entries of a token (R213). -/
def selBytes (l : List (Nat × F32)) : Bytes := joinBytes (l.map (fun e => leBytes 4 e.1 ++ leBytes 4 e.2.toNat))

/-- The entries of a token that is not routed. -/
def selNone (k : Nat) : Bytes := selBytes (List.replicate k (0xFFFF, 0))

/-- The entries of token `t`, and whether its logits or the bias are not finite. A poisoned mask byte, logit or bias word
leaves the token out. -/
def topkToken (s : State) (G : Nat) (c : SrtCfg) (z m t : Nat) (b : Option (List F32)) : Bytes × Bool :=
  match elem s G m 1 t, allOf (f32s s G (z + 4 * c.ne * t) c.ne), b with
  | some 0, _, _ => (selNone c.k, false)
  | some _, some zs, some bs =>
    if zs.all isFinite && bs.all isFinite then (selBytes (topk zs bs c.bias c.k c.gate c.rscale), false)
    else (selNone c.k, true)
  | _, _, _ => (selNone c.k, false)

/-- SRT_TOPK. -/
def doSrtTopk (G : Nat) (a : BitVec 112) (s : State) : State :=
  let c := srtCfg s G
  let z := fld a 111 96 * 256
  let b := fld a 95 80 * 256
  let m := fld a 79 64 * 256
  let bs := if c.bias then allOf (f32s s G b c.ne) else some []
  let out := (List.range c.maxtok).map (fun t => topkToken s G c z m t bs)
  let s := readRanges G 7 1 ([(z, 4 * c.ne * c.maxtok), (m, c.maxtok)] ++ (if c.bias then [(b, 4 * c.ne)] else [])) s
  let s := spmWrite G (fld a 63 48 * 256) 1 7 (joinBytes (out.map (·.1))) s
  match ((List.range c.maxtok).zip out).filter (·.2.2) with
  | [] => s
  | l => srtNonfinite G ((l.map (·.1)).getLastD 0) s

/-- SRT_TOPK. -/
def execSrtTopk (G : Nat) (fl : BitVec 4) (a : BitVec 112) (ue : List Nat) (s : State) : Host.Outcome State Fault Refusal :=
  frameCommand 7 0x02 G fl a ue (doSrtTopk G a) s

/-! ### Selection lists -/

/-- A token's entries as read: ids and gates by rank; none where a word is poisoned. -/
def selToken (s : State) (G : Nat) (c : SrtCfg) (o t : Nat) : Option (List (Nat × F32)) :=
  allOf ((List.range c.k).map (fun r =>
    match elem s G (o + 8 * (t * c.k + r)) 2 0, f32At s G (o + 8 * (t * c.k + r) + 4) with
    | some i, some g => some (i, g)
    | _, _ => none))

/-- A padding token. -/
def isPadding (l : List (Nat × F32)) : Bool := l.all (fun e => e.1 == 0xFFFF)

/-- A token's entries are valid (Table 9-7): all 0xFFFF, or distinct ids below NE. -/
def selValid (ne : Nat) (l : List (Nat × F32)) : Bool :=
  isPadding l || (l.all (fun e => decide (e.1 < ne)) && (l.map (·.1)).eraseDups.length == l.length)

/-! ### Sorting by destination (R217, R218) -/

/-- A send row: destination, token, and its entries as (rank, local slot). -/
structure SendRow where
  dest : Nat
  token : Nat
  ents : List (Nat × Nat)
  deriving DecidableEq, Repr

/-- The rows in sending order: by member, then by token. `places` are a token's (member, slot) by rank. -/
def sendRows (np : Nat) (places : List (List (Nat × Nat))) : List SendRow :=
  ((List.range np).map (fun d =>
    ((places.zip (List.range places.length)).map (fun p =>
      (⟨d, p.2, ((p.1.zip (List.range p.1.length)).filter (·.1.1 == d)).map (fun e => (e.2, e.1.2))⟩ : SendRow))).filter
        (fun r => !r.ents.isEmpty))).foldr (· ++ ·) []

/-- RPOS of entry `j` of row `i`: the entries of the earlier rows to the same member, and j. -/
def rposOf (rows : List SendRow) (i j : Nat) : Nat :=
  let d := (rows.getD i ⟨0, 0, []⟩).dest
  (((rows.take i).filter (·.dest == d)).map (·.ents.length)).foldl (· + ·) 0 + j

/-- The POS word of a token's rank (Table 9-4). -/
def posWord (rows : List SendRow) (t r : Nat) : Nat :=
  match findIdx? (fun (x : SendRow) => x.token == t && x.ents.any (·.1 == r)) rows with
  | some i =>
    let row := rows.getD i ⟨0, 0, []⟩
    row.dest + 256 * rposOf rows i ((findIdx? (·.1 == r) row.ents).getD 0)
  | none => 0xFFFFFFFF

/-- A count over the rows to a member. -/
def rowSum (f : SendRow → Nat) (rows : List SendRow) (d : Nat) : Nat := ((rows.filter (·.dest == d)).map f).foldl (· + ·) 0

/-- The route table (Table 9-4). -/
def routeTable (c : SrtCfg) (rows : List SendRow) : Bytes :=
  let cnt (d : Nat) : Nat := rowSum (fun _ => 1) rows d
  let word (f : Nat → Nat) : Bytes := joinBytes ((List.range 256).map (fun d => leBytes 4 (if d < c.np then f d else 0)))
  word cnt ++ word (fun d => ((List.range d).map cnt).foldl (· + ·) 0) ++ word (rowSum (·.ents.length) rows) ++
    joinBytes ((List.range c.maxtok).map (fun t => joinBytes ((List.range c.k).map (fun r => leBytes 4 (posWord rows t r)))))

/-- A send row's bytes (Table 9-3): a poisoned element is int8 0, and with it or a poisoned scale the row's scale is +0. -/
def sendBytes (s : State) (G : Nat) (c : SrtCfg) (x xs : Nat) (r : SendRow) : Bytes :=
  let q := i8s s G (x + c.seg * r.token) c.seg
  let sc : F32 := if q.all (·.isSome) then (f32At s G (xs + 4 * r.token)).getD 0 else 0
  leBytes 2 r.token ++ leBytes 1 r.ents.length ++ [0] ++ leBytes 4 sc.toNat ++
    padTo 56 (r.ents.map (fun e => BitVec.ofNat 8 e.2)) ++ packI8 (q.map (·.getD 0))

/-- SRT_ROUTE over selections and the expert map. -/
def doSrtRoute (G : Nat) (a : BitVec 112) (s : State) : State :=
  let c := srtCfg s G
  let selO := fld a 111 96 * 256
  let mapO := fld a 95 80 * 256
  let x := fld a 79 64 * 256
  let xs := fld a 63 48 * 256
  let toks := List.range c.maxtok
  let sels := toks.map (selToken s G c selO)
  let used := (((sels.map (·.getD [])).foldr (· ++ ·) []).map (·.1)).filter (fun i => decide (i < c.ne))
  let s1 := readRanges G 7 1 ((selO, 8 * c.k * c.maxtok) :: used.eraseDups.map (fun i => (mapO + 4 * i, 4))) s
  match allOf sels with
  | none => s1
  | some ls =>
    match findIdx? (fun l => !selValid c.ne l) ls with
    | some t => srtMap G t s1
    | none =>
      match allOf (used.map (fun i => elem s G (mapO + 4 * i) 4 0)) with
      | none => s1
      | some ws =>
        match (used.zip ws).find? (fun e => decide (c.np ≤ e.2 % 256) || decide (c.nx ≤ e.2 / 256 % 256)) with
        | some e => srtMap G e.1 s1
        | none =>
          let place (e : Nat × F32) : Nat × Nat :=
            let w := ((used.zip ws).find? (·.1 == e.1)).elim 0 (·.2)
            (w % 256, w / 256 % 256)
          let rows := sendRows c.np (ls.map (fun l => if isPadding l then [] else l.map place))
          let data := rows.map (sendBytes s G c x xs)
          let live := ((toks.zip ls).filter (fun l => !isPadding l.2)).map (·.1)
          let s := readRanges G 7 1 ((live.map (fun t => (x + c.seg * t, c.seg))) ++ live.map (fun t => (xs + 4 * t, 4))) s1
          let s := spmWrite G (fld a 47 32 * 256) 1 7 (joinBytes data) s
          bump (spmWrite G (fld a 31 16 * 256) 1 7 (routeTable c rows) s) (Reg.SRT_ROUTE_ROW_CNT G) rows.length

/-- SRT_ROUTE. -/
def execSrtRoute (G : Nat) (fl : BitVec 4) (a : BitVec 112) (ue : List Nat) (s : State) : Host.Outcome State Fault Refusal :=
  frameCommand 7 0x03 G fl a ue (doSrtRoute G a) s

/-! ### Receiving (R220) -/

/-- A received row: source member, its index among the rows from that member, and its LOCAL slots. -/
structure RecvRow where
  src : Nat
  row : Nat
  locals : List Nat
  deriving DecidableEq, Repr

/-- Where row `r` from member `m` stands in the receive buffer. -/
def recvRowOff (c : SrtCfg) (o m r : Nat) : Nat := o + 1024 + (m * c.maxtok + r) * c.rs

/-- A row is valid (Table 9-7). -/
def recvValid (c : SrtCfg) (r : RecvRow) : Bool :=
  decide (0 < r.locals.length) && decide (r.locals.length ≤ 16) && r.locals.all (fun x => decide (x < c.nx)) &&
    r.locals.eraseDups.length == r.locals.length

/-- An entry of a local expert: the row, its source and its return position. -/
structure BinEntry where
  src : Nat
  row : Nat
  rpos : Nat
  deriving DecidableEq, Repr

/-- The entries of local expert `x` in the order source, row, entry. RPOS counts the entries of the source's earlier
rows. -/
def binEntries (rows : List RecvRow) (x : Nat) : List BinEntry :=
  (((rows.zip (List.range rows.length)).map (fun p =>
    let before := (((rows.take p.2).filter (·.src == p.1.src)).map (·.locals.length)).foldl (· + ·) 0
    ((p.1.locals.zip (List.range p.1.locals.length)).filter (·.1 == x)).map
      (fun e => (⟨p.1.src, p.1.row, before + e.2⟩ : BinEntry))))).foldr (· ++ ·) []

/-- The vectors, scales and return map words of local expert `x`, zero-filled to whole trips. -/
def binExpert (G : Nat) (c : SrtCfg) (a : BitVec 112) (rows : List RecvRow) (s0 s : State) (x : Nat) : State :=
  let o := fld a 111 96 * 256
  let es := binEntries rows x
  let pad := ceilDiv es.length c.tripv * c.tripv - es.length
  let vec (e : BinEntry) : Bytes × Nat :=
    let h := recvRowOff c o e.src e.row
    let q := i8s s0 G (h + 64) c.seg
    (packI8 (q.map (·.getD 0)), if q.all (·.isSome) then ((f32At s0 G (h + 4)).getD 0).toNat else 0)
  let vs := es.map vec
  let s := spmWrite G (fld a 95 80 * 256 + x * c.capX * c.seg) 1 7
    (joinBytes (vs.map (·.1)) ++ List.replicate (pad * c.seg) 0) s
  let s := spmWrite G (fld a 79 64 * 256 + 4 * (x * c.capX)) 1 7
    (joinBytes (vs.map (fun v => leBytes 4 v.2)) ++ packF32 (List.replicate pad oneF)) s
  let s := spmWrite G (fld a 47 32 * 256 + 4 * (x * c.capX)) 1 7 (joinBytes (es.map (fun e => leBytes 4 (e.src + 256 * e.rpos)))) s
  let s := spmWrite G (fld a 63 48 * 256 + 8 * x) 1 7 (leBytes 4 (ceilDiv es.length c.tripv) ++ leBytes 4 es.length) s
  bump (bump s (Reg.SRT_BIN_ENTRY_CNT G) es.length) (Reg.SRT_PAD_VEC_CNT G) pad

/-- SRT_BIN. -/
def doSrtBin (G : Nat) (a : BitVec 112) (s : State) : State :=
  let c := srtCfg s G
  let o := fld a 111 96 * 256
  let cs := (List.range c.np).map (fun m => elem s G (o + 4 * m) 4 0)
  let s1 := readRanges G 7 1 [(o, 4 * c.np)] s
  match allOf cs with
  | none => s1
  | some ns =>
    match findIdx? (fun n => decide (c.maxtok < n)) ns with
    | some m => srtData G m 0 s1
    | none =>
      let ids := ((ns.zip (List.range c.np)).map (fun n => (List.range n.1).map (fun r => (n.2, r)))).foldr (· ++ ·) []
      let s2 := readRanges G 7 1 (ids.map (fun i => (recvRowOff c o i.1 i.2, c.rs))) s1
      let hdr (i : Nat × Nat) : Option RecvRow :=
        let h := recvRowOff c o i.1 i.2
        match elem s G (h + 2) 1 0 with
        | some n => (allOf (elems s G (h + 8) 1 (min n 16))).map
            (fun l => ⟨i.1, i.2, if n ≤ 16 then l else l ++ [0]⟩)
        | none => none
      match allOf (ids.map hdr) with
      | none => s2
      | some rows =>
        match rows.find? (fun r => !recvValid c r) with
        | some r => srtData G r.src r.row s2
        | none => (List.range c.nx).foldl (binExpert G c a rows s) s2

/-- SRT_BIN. -/
def execSrtBin (G : Nat) (fl : BitVec 4) (a : BitVec 112) (ue : List Nat) (s : State) : Host.Outcome State Fault Refusal :=
  frameCommand 7 0x04 G fl a ue (doSrtBin G a) s

/-! ### Returning (R224) -/

/-- An element in the return format. -/
def retElem (c : SrtCfg) (v : F32) : Bytes :=
  if c.bf16 then leBytes 2 (toBf16 v) else leBytes 4 (if isNaN v then nanF else v).toNat

/-- SRT_RETURN. Entries whose map word names no region of the return buffer are not written. -/
def doSrtReturn (G : Nat) (a : BitVec 112) (s : State) : State :=
  let c := srtCfg s G
  let y := fld a 111 96 * 256
  let rmap := fld a 95 80 * 256
  let trip := fld a 79 64 * 256
  let ret := fld a 63 48 * 256
  let ns := (List.range c.nx).map (fun x => (elem s G (trip + 8 * x + 4) 4 0).map (min c.capX))
  let s1 := readRanges G 7 1 [(trip, 8 * c.nx)] s
  match allOf ns with
  | none => s1
  | some ns =>
    let ids := ((ns.zip (List.range c.nx)).map (fun n => (List.range n.1).map (fun i => n.2 * c.capX + i))).foldr (· ++ ·) []
    let s2 := readRanges G 7 1 (ids.map (fun i => (rmap + 4 * i, 4)) ++ ids.map (fun i => (y + 4 * c.seg * i, 4 * c.seg))) s1
    match allOf (ids.map (fun i => elem s G (rmap + 4 * i) 4 0)) with
    | none => s2
    | some ws =>
      let ents := (ids.zip ws).map (fun e => (e.1, e.2 % 256, e.2 / 256 % 65536))
      let good := ents.filter (fun e => decide (e.2.1 < c.np) && decide (e.2.2 < c.capR))
      let s3 := good.foldl (fun t e =>
        spmWrite G (ret + 1024 + (e.2.1 * c.capR + e.2.2) * c.seg * c.rb) 1 7
          (joinBytes ((f32s s G (y + 4 * c.seg * e.1) c.seg).map (fun v => retElem c (v.getD nanF)))) t) s2
      let s3 := spmWrite G ret 1 7
        (joinBytes ((List.range 256).map (fun m => leBytes 4 (ents.filter (·.2.1 == m)).length))) s3
      match ents.find? (fun e => (f32s s G (y + 4 * c.seg * e.1) c.seg).any
          (fun v => match v with | some z => isNaN z | none => false)) with
      | some e => srtNonfinite G (e.1 / c.capX) s3
      | none => s3

/-- SRT_RETURN. -/
def execSrtReturn (G : Nat) (fl : BitVec 4) (a : BitVec 112) (ue : List Nat) (s : State) : Host.Outcome State Fault Refusal :=
  frameCommand 7 0x05 G fl a ue (doSrtReturn G a) s

/-! ### Combining (R225) -/

/-- A combined output: none where an operand is poisoned; the Bool is the condition of Table 9-7. -/
def combineElem (k : Nat) (terms : List (Option F32 × Option F32)) (shared : Option (Option F32)) : F32 × Bool :=
  let t := terms.map (fun p => match p.1, p.2 with | some g, some y => some (isNaN y, fmul g y) | _, _ => none)
  let sh := match shared with | some v => [v.map (fun x => (isNaN x, x))] | none => []
  match allOf (t ++ sh) with
  | none => (nanF, false)
  | some l =>
    let v := canonicalSum (k + sh.length) (l.map (·.2))
    if l.any (·.1) || !isFinite v then (nanF, true) else (v, false)

/-- Element `j` of the entry at a POS word, converted to FP32; a free value where the word names no entry. -/
def returned (s : State) (G : Nat) (c : SrtCfg) (rr w free j : Nat) : Option F32 :=
  let d := w % 256
  let p := w / 256 % 65536
  if d < c.np ∧ p < c.capR then
    let o := rr + 1024 + ((d * c.capR + p) * c.seg + j) * c.rb
    if c.bf16 then (elem s G o 2 0).map ofBf16 else f32At s G o
  else some (Config.freeValue 32 free)

/-- The outputs of token `t`. -/
def combineToken (s : State) (G : Nat) (c : SrtCfg) (rt rr sh t : Nat) (l : List (Nat × F32)) : List (F32 × Bool) :=
  if isPadding l then List.replicate c.seg (0, false)
  else
    let ws := (List.range c.k).map (fun r => elem s G (rt + 3072 + 4 * (t * c.k + r)) 4 0)
    (List.range c.seg).map (fun j =>
      combineElem c.k
        ((l.zip (ws.zip (List.range c.k))).map (fun e =>
          (some e.1.2, e.2.1.bind (fun w => returned s G c rr w (s.freeCtr + (t * c.k + e.2.2) * c.seg + j) j))))
        (if c.shared then some (f32At s G (sh + 4 * c.seg * t + 4 * j)) else none))

/-- The reads of a valid token of SRT_COMBINE. -/
def combineReads (s : State) (G : Nat) (c : SrtCfg) (rt rr sh t : Nat) : List (Nat × Nat) :=
  ((List.range c.k).filterMap (fun r =>
    match elem s G (rt + 3072 + 4 * (t * c.k + r)) 4 0 with
    | some w =>
      if w % 256 < c.np ∧ w / 256 % 65536 < c.capR then
        some (rr + 1024 + (w % 256 * c.capR + w / 256 % 65536) * c.seg * c.rb, c.seg * c.rb)
      else none
    | none => none)) ++ (if c.shared then [(sh + 4 * c.seg * t, 4 * c.seg)] else [])

/-- SRT_COMBINE. -/
def doSrtCombine (G : Nat) (a : BitVec 112) (s : State) : State :=
  let c := srtCfg s G
  let selO := fld a 111 96 * 256
  let rt := fld a 95 80 * 256
  let rr := fld a 79 64 * 256
  let sh := fld a 63 48 * 256
  let out := fld a 47 32 * 256
  let toks := List.range c.maxtok
  let nans := packF32 (List.replicate (c.maxtok * c.seg) nanF)
  let s1 := readRanges G 7 1
    [(selO, 8 * c.k * c.maxtok), (rt + 2048, 4 * c.np), (rt + 3072, 4 * c.maxtok * c.k), (rr, 4 * c.np)] s
  match allOf (toks.map (selToken s G c selO)),
      allOf ((List.range c.np).map (fun d => elem s G (rt + 2048 + 4 * d) 4 0)),
      allOf ((List.range c.np).map (fun d => elem s G (rr + 4 * d) 4 0)) with
  | some ls, some want, some got =>
    match findIdx? (fun l => !selValid c.ne l) ls with
    | some t => srtMap G t s1
    | none =>
      match findIdx? (fun (p : Nat × Nat) => p.1 != p.2) (want.zip got) with
      | some d => srtCount G d (spmWrite G out 1 7 nans s1)
      | none =>
        let rows := (toks.zip ls).map (fun p => combineToken s G c rt rr sh p.1 p.2)
        let live := ((toks.zip ls).filter (fun p => !isPadding p.2)).map (·.1)
        let s2 := readRanges G 7 1 ((live.map (combineReads s G c rt rr sh)).foldr (· ++ ·) []) s1
        let s2 := { s2 with freeCtr := s2.freeCtr + c.maxtok * c.k * c.seg }
        let s2 := spmWrite G out 1 7 (joinBytes (rows.map (fun r => packF32 (r.map (·.1))))) s2
        match (toks.zip rows).filter (fun p => p.2.any (·.2)) with
        | [] => s2
        | l => srtNonfinite G ((l.map (·.1)).getLastD 0) s2
  | _, _, _ => spmWrite G out 1 7 nans s1

/-- SRT_COMBINE. -/
def execSrtCombine (G : Nat) (fl : BitVec 4) (a : BitVec 112) (ue : List Nat) (s : State) : Host.Outcome State Fault Refusal :=
  frameCommand 7 0x06 G fl a ue (doSrtCombine G a) s

end Sys2Proof.Machine
end

