-- ==== Sys2Proof/Machine/Remote.lean ====
section
/-!
DEFINITION. Remote loads, stores and atomics (chapter 12): packets (R298, R299), combining (R305, R306), the home
(R293–R297), requesters (R295, R301–R304), held scratchpad accesses (R163), local accesses of control cores (R424), and
deferred atomics (R308–R311).
-/

namespace Sys2Proof.Machine

/-! ### Operations (Table 12-3) -/

/-- Signed minimum or maximum keeps the word or takes the operand; the new word of an operation on `w`. -/
def rmw (op bits w a b : Nat) : Nat :=
  let m := 2 ^ bits
  let w := w % m
  let a := a % m
  match op with
  | 0x10 => (w + a) % m
  | 0x11 => w &&& a
  | 0x12 => w ||| a
  | 0x13 => w ^^^ a
  | 0x14 => if signed bits w ≤ signed bits a then w else a
  | 0x15 => if signed bits a ≤ signed bits w then w else a
  | 0x16 => min w a
  | 0x17 => max w a
  | 0x18 => a
  | _ => if w = a then b % m else w

/-- LOAD. -/
def opLoad : Nat := 0x01

/-- STORE. -/
def opStore : Nat := 0x02

/-- An atomic. -/
def isAtomic (op : Nat) : Bool := decide (0x10 ≤ op) && decide (op ≤ 0x19)

/-- The request is well formed (Table 12-6, BAD_REQUEST otherwise). -/
def wellFormedReq (q : RmtReq) : Bool :=
  !q.resv && q.addr % 2 ^ q.size == 0 &&
    (if q.op = opLoad then decide (q.size ≤ 8)
     else if q.op = opStore then decide (q.size ≤ 8) && q.data.length == 2 ^ q.size
     else isAtomic q.op && (q.size == 2 || q.size == 3))

/-! ### Packets -/

/-- A request packet (Table 12-4). -/
def encodeReq (q : RmtReq) : Bytes :=
  leBytes 1 q.op ++ leBytes 1 q.size ++ leBytes 2 q.tag ++ leBytes 2 q.reqid ++ leBytes 1 q.dom ++
    leBytes 1 (bnat q.comb + 2 * bnat q.defer) ++ leBytes 7 q.addr ++ [0] ++ leBytes 8 q.a ++ leBytes 8 q.b ++ q.data

/-- The request in a packet from a package, for a partition. -/
def decodeReq (b : Bytes) (src spart : Nat) : RmtReq :=
  { op := numAt b 0 1, size := numAt b 1 1 % 16, tag := numAt b 2 2, reqid := numAt b 4 2, dom := numAt b 6 1,
    comb := bit (numAt b 7 1) 0, defer := bit (numAt b 7 1) 1,
    resv := numAt b 1 1 / 16 != 0 || numAt b 7 1 / 4 != 0 || numAt b 15 1 != 0 ||
      (numAt b 0 1 != 0x19 && numAt b 24 8 != 0),
    addr := numAt b 8 7, a := numAt b 16 8, b := numAt b 24 8, data := b.drop 32, src := src, spart := spart }

/-- A response packet (Table 12-5). -/
def encodeRsp (r : RmtRsp) : Bytes :=
  leBytes 1 r.op ++ leBytes 1 r.code ++ leBytes 2 r.tag ++ leBytes 2 r.reqid ++ List.replicate 10 0 ++ r.data

/-- A waiting packet is taken. -/
def takePacket (rsp : Bool) (src : Nat) (b : Bytes) (s : State) : State :=
  match findIdx? (fun (k : Packet) => k.type == 1 && k.rsp == rsp && k.src == src && k.bytes == b) s.fab.packets with
  | some i => { s with fab := { s.fab with packets := s.fab.packets.eraseIdx i } }
  | none => s

/-! ### Combining (R305) -/

/-- A combining entry. -/
def combEnt (s : State) (e : Nat) : CombEnt := tget CombEnt.free s.rmt.comb e

/-- Set a combining entry. -/
def putComb (e : Nat) (c : CombEnt) (s : State) : State :=
  { s with rmt := { s.rmt with comb := tput CombEnt.free s.rmt.comb e c } }

/-- The entry that a waiting request stands for on this package. -/
def combOf (s : State) (p : RmtReq) : Option Nat :=
  if p.src = pkgId s ∧ 0x400 ≤ p.reqid ∧ p.reqid < 0x600 then some (p.reqid - 0x400) else none

/-- The requests that a waiting request holds. -/
def combMembers (s : State) (p : RmtReq) : List RmtReq :=
  match combOf s p with
  | some e => (combEnt s e).members
  | none => [p]

/-- The members that a combined request may hold; below 2 combining is off. -/
def combMax (s : State) : Nat := min 16 (rd s Reg.RMT_COMB_MAX)

/-- A free combining entry. -/
def freeComb (s : State) : Option Nat := (List.range 512).find? (fun e => (combEnt s e).members.isEmpty)

/-- A request that could combine. -/
def combinable (s : State) (q : RmtReq) : Bool :=
  rdb s Reg.RMT_COMB_EN && decide (2 ≤ combMax s) && q.dom != 255 && (q.op == opLoad || (isAtomic q.op && q.op != 0x19))

/-- Q may join P. -/
def joins (s : State) (p q : RmtReq) : Bool :=
  combinable s q && p.addr == q.addr && p.size == q.size && p.op == q.op && p.dom == q.dom &&
    decide ((combMembers s p).length < combMax s) && ((combOf s p).isSome || (freeComb s).isSome)

/-- P and Q as one request, under a combining entry of this package. -/
def joinReq (p q : RmtReq) (s : State) : RmtReq × State :=
  let e := match combOf s p with | some e => e | none => (freeComb s).getD 0
  let ms := combMembers s p ++ [q]
  ({ p with src := pkgId s, reqid := 0x400 + e, tag := e, comb := true, defer := ms.all (·.defer),
            a := if q.op = opLoad then p.a else rmw q.op (8 * 2 ^ q.size) p.a q.a 0 },
   bump (putComb e ⟨ms⟩ s) Reg.RMT_COMBINED_CNT 1)

/-- The place of an earlier request that Q joins among waiting ones (none: not a request to the same package): no request
of Q's own requester stands behind it, unless Q is deferred. -/
def joinPlace (s : State) (q : RmtReq) (l : List (Option RmtReq)) : Option Nat :=
  (List.range l.length).find? (fun i =>
    match l[i]? with
    | some (some p) =>
      joins s p q && (q.defer || (l.drop (i + 1)).all (fun o =>
        match o with | some x => !(x.src == q.src && x.reqid == q.reqid) | none => true))
    | _ => false)

/-- The request in a flit of an egress queue, towards `dest` on a channel. -/
def flitReq (dest vc : Nat) (f : Flit) : Option RmtReq :=
  if f.type = 1 ∧ !f.rsp ∧ f.dest = dest ∧ f.vc = vc ∧ f.first ∧ f.last then some (decodeReq f.pay f.src f.spart) else none

/-- A request joins the egress queue of a link: combined with an earlier one, or at its end, where it may be held for
combining. -/
def queueReq (l vc dest : Nat) (q : RmtReq) (s : State) : State :=
  match joinPlace s q ((linkX s l).txq.map (flitReq dest vc)) with
  | some i =>
    match ((linkX s l).txq[i]?).bind (flitReq dest vc) with
    | some p =>
      let r := joinReq p q s
      let s := { r.2 with rmt := { r.2.rmt with window := r.2.rmt.window.map (fun w =>
        if w = (l, p.src, p.reqid, p.tag) then (l, r.1.src, r.1.reqid, r.1.tag) else w) } }
      modLink s l (fun x => { x with txq := (x.txq.zip (List.range x.txq.length)).map (fun f =>
        if f.2 = i then { f.1 with src := r.1.src, flow := r.1.reqid, pay := encodeReq r.1 } else f.1) })
    | none => s
  | none =>
    let s := modLink s l (fun x => { x with txq := x.txq ++ flitsOf 1 false vc dest q.src q.spart q.reqid (encodeReq q) })
    if combinable s q && rd s Reg.RMT_COMB_WINDOW != 0 then
      { s with rmt := { s.rmt with window := s.rmt.window ++ [(l, q.src, q.reqid, q.tag)] } }
    else s

/-- The request in a packet at the home's input. -/
def packetReq (k : Packet) : Option RmtReq := if k.type = 1 ∧ !k.rsp then some (decodeReq k.bytes k.src k.spart) else none

/-- A request reaches this package as its home: it waits at the input of the atomic unit, combined where it can be. -/
def homeInput (q : RmtReq) (s : State) : State :=
  match joinPlace s q (s.fab.packets.map packetReq) with
  | some i =>
    match (s.fab.packets[i]?).bind packetReq with
    | some p =>
      let r := joinReq p q s
      { r.2 with fab := { r.2.fab with packets := (r.2.fab.packets.zip (List.range r.2.fab.packets.length)).map (fun k =>
        if k.2 = i then { k.1 with src := r.1.src, bytes := encodeReq r.1 } else k.1) } }
    | none => s
  | none => { s with fab := { s.fab with packets := s.fab.packets ++ [⟨1, false, q.src, q.spart, encodeReq q⟩] } }

/-- Send a local request; none where no route is whole (R276). -/
def sendReq (q : RmtReq) (s : State) : Option State :=
  let dest := q.addr / 2 ^ 48
  if dest = pkgId s then some (homeInput q s)
  else match egressLink s dest q.reqid none with
    | some (l, vc) =>
      some (queueReq l vc dest q (if s.fab.detour.contains dest then bump s Reg.RTR_DETOUR_CNT 1 else s))
    | none => none

/-- Answer a request: a response to its source with its FLOW (R299). One without a route is lost. -/
def sendRsp (q : RmtReq) (code : Nat) (data : Bytes) (s : State) : State :=
  let r : RmtRsp := ⟨q.op, code, q.tag, q.reqid, if code = 0 ∧ !q.defer then data else [], pkgId s⟩
  (sendPacket 1 true q.src q.spart q.reqid (encodeRsp r) s).getD s

/-! ### Errors (Table 12-11) -/

/-- The information of the last error. -/
def rmtInfo (code peer reqid addr : Nat) (s : State) : State :=
  wr (wr (wr (wr (wr s Reg.RMT_CODE code) Reg.RMT_PEER peer) Reg.RMT_REQID reqid) Reg.RMT_ERR_ADDR_LO addr)
    Reg.RMT_ERR_ADDR_HI (addr / 2 ^ 32)

/-- A bit of RMT_ERR, with its event (Table 18-9: the remote-access unit). -/
def rmtEvent (f : Field) (b part addr : Nat) (s : State) : State := setEvent f 11 (0x0C00 + b) part 0 addr noRecord s

/-- A local requester receives an error code. -/
def localError (q : RmtReq) (code : Nat) (s : State) : State :=
  let s := rmtInfo code (q.addr / 2 ^ 48) q.reqid q.addr s
  let s := if code = 4 then rmtEvent Reg.RMT_ERR_NO_ROUTE 3 q.spart q.addr s
    else if code = 5 then rmtEvent Reg.RMT_ERR_TIMEOUT 4 q.spart q.addr s else s
  rmtEvent Reg.RMT_ERR_RSP 0 q.spart q.addr s

/-! ### Requesters (R295, R301–R304) -/

/-- Outstanding requests of a requester. -/
def outOf (s : State) (reqid : Nat) : List RmtOut := s.rmt.out.filter (fun o => o.q.reqid == reqid)

/-- The REQID of a control-core thread, or of a Kaolin core (Table 12-2). -/
def threadReqid (t : Nat) : Nat := if t < 256 then t else 0x100 + (t - 256)

/-- A requester has room for another access (R302). -/
def hasRoom (s : State) (t : Nat) : Bool :=
  if t < 256 then
    decide ((outOf s t).length < 8) &&
      decide ((s.rmt.out.filter (fun o => o.q.reqid / 16 == t / 16 && decide (o.q.reqid < 256))).length < 64)
  else decide ((outOf s (threadReqid t)).length < 128)

/-- A thread is ready: it exists and runs, no LOAD or atomic of it is outstanding, and no FENCE or held access of it
waits. -/
def threadReady (s : State) (t : Nat) : Bool :=
  !frozen s &&
    (if t < 256 then decide (threadOwner s t < 32) && !threadFenced s t &&
        !(outOf s t).any (fun o => o.q.op != opStore) else decide (t < 258) && !s.kao.down) &&
    !s.rmt.fences.contains t &&
    !s.rmt.held.any (fun h => match h with | .core a => a.thread == t | .remote _ => false)

/-- DOM of a thread's requests: the slice of the job that its partition runs. -/
def domOf (s : State) (p : Nat) : Nat := if (part s p).job.busy then sliceOf s p else 255

/-- The lowest TAG that a requester has free. -/
def freeTag (s : State) (reqid : Nat) : Nat :=
  let l := outOf s reqid
  ((List.range (l.length + 1)).find? (fun t => !l.any (fun o => o.q.tag == t))).getD 0

/-- An error ends a thread's access: a LOAD or atomic traps, a posted STORE keeps the code for the next FENCE. -/
def trapThread (t op code : Nat) (s : State) : State :=
  if op = opStore then { s with rmt := { s.rmt with storeErr := tput 0 s.rmt.storeErr t code } }
  else emit s (.thread t true code)

/-- A FENCE completes: it traps where a posted STORE has failed since the last one. -/
def endFence (t : Nat) (s : State) : State :=
  let e := tget 0 s.rmt.storeErr t
  emit { s with rmt := { s.rmt with fences := s.rmt.fences.filter (· != t), storeErr := tput 0 s.rmt.storeErr t 0 } }
    (.thread t (e != 0) e)

/-- A waiting FENCE completes once every earlier access of its thread has. -/
def wakeFence (t : Nat) (s : State) : State :=
  if s.rmt.fences.contains t && (outOf s (threadReqid t)).isEmpty then endFence t s else s

/-- The thread of a REQID of Table 12-2. -/
def reqidThread (r : Nat) : Nat := if r < 256 then r else 256 + (r - 0x100)

/-- Whether a flow goes by the detour table now. -/
def viaOf (s : State) (dest : Nat) : Nat := bnat (s.fab.detour.contains dest)

/-- Hand a request to the router: it waits while earlier requests of its flow went another way (R303). With no whole route
it ends with NO_ROUTE. -/
def issueReq (q : RmtReq) (s : State) : State × Bool :=
  let dest := q.addr / 2 ^ 48
  let v := viaOf s dest
  if s.rmt.out.any (fun o => o.q.reqid == q.reqid && o.q.addr / 2 ^ 48 == dest && o.via != v) then
    ({ s with rmt := { s.rmt with out := s.rmt.out ++ [⟨q, 2⟩] } }, true)
  else
    match sendReq q s with
    | some s => ({ bump s Reg.RMT_REQ_SENT_CNT 1 with rmt := { s.rmt with out := s.rmt.out ++ [⟨q, v⟩] } }, true)
    | none => (s, false)

/-- A requester's access ends with a code and data. -/
def finishReq (o : RmtOut) (code : Nat) (data : Bytes) (s : State) : State :=
  let t := reqidThread o.q.reqid
  let s := { s with rmt := { s.rmt with out := s.rmt.out.filter (fun x => x != o) } }
  let s := if code = 0 then (if o.q.op = opStore then s else emit s (.thread t false (leNat data)))
    else trapThread t o.q.op code (localError o.q code s)
  wakeFence t s

/-- Requests of a flow that waited go out once the earlier ones have been answered. -/
def pumpFlow (reqid dest : Nat) (s : State) : State :=
  let mine (o : RmtOut) : Bool := o.q.reqid == reqid && o.q.addr / 2 ^ 48 == dest
  if s.rmt.out.any (fun o => mine o && o.via != 2) then s
  else
    let w := s.rmt.out.filter mine
    w.foldl (fun s o =>
      let s' := { s with rmt := { s.rmt with out := s.rmt.out.filter (fun x => x != o) } }
      let r := issueReq o.q s'
      if r.2 then r.1 else finishReq o 4 [] s) s

/-- The package IDs that the remote path accepts (R293). -/
def acceptsPkg (s : State) (n : Nat) : Bool :=
  n != 255 && (match s.fab.map with | some _ => decide (n < mapField s 8 1) | none => true)

/-- The OP of a control-core access. -/
def ccOpCode : CcOp → Nat
  | .load => opLoad
  | .store => opStore
  | .amo op => op
  | _ => 0

/-- The request that a control core's remote access makes (R295, R304). -/
def ccRequest (s : State) (a : CcAccess) : RmtReq :=
  let op := ccOpCode a.op
  let p := if a.thread < 256 then threadOwner s a.thread else 255
  let r := threadReqid a.thread
  { op := op, size := a.size, tag := freeTag s r, reqid := r,
    dom := if a.thread < 256 then domOf s p else 255, comb := false, defer := false, resv := false, addr := a.addr % 2 ^ 56,
    a := if isAtomic op then a.a % 2 ^ 64 else 0, b := if op = 0x19 then a.b % 2 ^ 64 else 0,
    data := if op = opStore then padTo (2 ^ a.size) a.data else [], src := pkgId s, spart := p }

/-- CC_REMOTE_ACCESS (R301): an address outside the window, an LR or SC, a vector or a misaligned access, and a package ID
that the path does not accept, trap and send nothing. -/
def execCcRemoteAccess (a : CcAccess) (s : State) : Host.Outcome State Fault Refusal :=
  if !threadReady s a.thread then .next s
  else
    let q := ccRequest s a
    if a.addr / 2 ^ 56 ≠ 128 ∨ !wellFormedReq q ∨ !acceptsPkg s (q.addr / 2 ^ 48) then .next (emit s (.thread a.thread true 1))
    else if !hasRoom s a.thread then .next s
    else
      let x := issueReq q s
      if x.2 then .next x.1 else .next (trapThread a.thread q.op 4 (localError q 4 s))

/-- CC_FENCE (R304), for a predecessor set that is not empty. -/
def execCcFence (t : Nat) (s : State) : Host.Outcome State Fault Refusal :=
  if !threadReady s t then .next s
  else if (outOf s (threadReqid t)).isEmpty then .next (endFence t s)
  else .next { s with rmt := { s.rmt with fences := s.rmt.fences ++ [t] } }

/-! ### Deferred atomics (R308–R311) -/

/-- An entry of the deferral queue. -/
def deferEnt (s : State) (n : Nat) : Option Deferred := tget none s.rmt.defer n

/-- Set an entry. -/
def putDefer (n : Nat) (d : Option Deferred) (s : State) : State :=
  { s with rmt := { s.rmt with defer := tput none s.rmt.defer n d } }

/-- DEFER_USED. -/
def showDefer (s : State) : State := wr s Reg.RMT_DEFER_USED (s.rmt.defer.length + s.rmt.staged.length)

/-- A deferred atomic's response, with its entry and code. -/
def deferDone (n code : Nat) (s : State) : State :=
  match deferEnt s n with
  | none => s
  | some d =>
    let s := showDefer (putDefer n none s)
    if code = 0 then s
    else
      let s := rmtInfo code (d.addr / 2 ^ 48) (0x200 + d.part) d.addr s
      let s := wr (if code = 4 then wr s Reg.RMT_ERR_NO_ROUTE 1 else if code = 5 then wr s Reg.RMT_ERR_TIMEOUT 1 else s)
        Reg.RMT_ERR_RSP 1
      raiseWith 11 0x800D d.part (fun _ => leBytes 7 d.addr ++ leBytes 1 code) []
        (bump (wr s Reg.RMT_ERR_DEFER_FAIL 1) Reg.RMT_DEFER_FAIL_CNT 1)

/-- DEFERRED_ATOMIC_RESPONSE. -/
def execDeferredAtomicResponse (tag code : Nat) (s : State) : Host.Outcome State Fault Refusal := .next (deferDone tag code s)

/-- A record of RMT_ATOMIC (Table 12-9) with its index; a poisoned record is none. -/
def deferRecord (s : State) (G o i : Nat) : Option (Nat × Nat × Bool) :=
  match elem s G (o + 16 * i) 8 0, elem s G (o + 16 * i + 8) 8 0 with
  | some w, some a => some (w % 2 ^ 56, a, bit w 63)
  | _, _ => none

/-- A valid record that fails the frame (R310). -/
def badRecord (s : State) (size addr : Nat) : Bool := addr % size != 0 || !acceptsPkg s (addr / 2 ^ 48)

/-- RMT_ATOMIC (R310): its valid records are staged in order. -/
def doRmtAtomic (G : Nat) (a : BitVec 112) (s : State) : State :=
  let o := fld a 95 72
  let n := fld a 71 56
  let size := if fld a 103 103 = 1 then 3 else 2
  let p := ownerOf s G
  let recs := (List.range n).filterMap (deferRecord s G o)
  let live := recs.filter (·.2.2)
  let bad := spmBad s G o (16 * n)
  let s := spmRead G o (16 * n) s
  let good := live.filter (fun r => !badRecord s (2 ^ size) r.1)
  let new := good.map (fun r => (⟨p, G, pcOf s G, fld a 111 104, size, r.1, r.2.1 % 2 ^ (8 * 2 ^ size)⟩ : Deferred))
  let s := showDefer { s with rmt := { s.rmt with staged := s.rmt.staged ++ new } }
  let s := spmUe G 8 3 bad s
  if live.any (fun r => badRecord s (2 ^ size) r.1) then frameCondition G 8 14 0 0x0544 true s else s

/-- RMT_ATOMIC. -/
def execRmtAtomic (G : Nat) (fl : BitVec 4) (a : BitVec 112) (ue : List Nat) (s : State) : Host.Outcome State Fault Refusal :=
  frameCommand 8 0x30 G fl a ue (doRmtAtomic G a) s

/-- One staged entry is handed to the router at its frame's commit. -/
def sendDeferred (d : Deferred) (s : State) : State :=
  match (List.range 16384).find? (fun n => (deferEnt s n).isNone) with
  | none => s
  | some n =>
    let q : RmtReq :=
      { op := d.op, size := d.size, tag := n, reqid := 0x200 + d.part, dom := domOf s d.part, comb := false,
        defer := true, resv := false, addr := d.addr, a := d.a, b := 0, data := [], src := pkgId s, spart := d.part }
    let s := putDefer n (some d) s
    match sendReq q s with
    | some s => bump (bump s Reg.RMT_REQ_SENT_CNT 1) Reg.RMT_DEFER_SENT_CNT 1
    | none => deferDone n 4 s

/-- The staged entries of a partition at a tick: sent where its frame commits, else discarded (R311). -/
def closeDeferred (p : Nat) (commits : Bool) (s : State) : State :=
  let mine := s.rmt.staged.filter (fun d => d.part == p)
  let s := { s with rmt := { s.rmt with staged := s.rmt.staged.filter (fun d => d.part != p) } }
  showDefer (if commits then mine.foldl (fun s d => sendDeferred d s) s else s)

/-! ### Targets at the home -/

/-- The partition that maps the page frame of a tier-1 or tier-2 address. -/
def frameOwner (s : State) (a : Nat) : Option Nat :=
  (List.range 32).find? (fun p => (part s p).present && (pageOfFrame s p (a / pageBytes)).isSome)

/-- The partition that owns the memory at a local address. -/
def targetOwner (s : State) (a : Nat) : Option Nat :=
  match place a with
  | .tier1 _ _ => frameOwner s a
  | .tier2 _ => frameOwner s a
  | .spm G _ => if ownerOf s G < 32 then some (ownerOf s G) else none
  | .hub o => let b := hubByte s (o / 0x80000); if bit b 7 then some (b % 32) else none
  | _ => none

/-- The local part names memory that remote accesses reach (R294, first three cases). -/
def reachable (s : State) (a : Nat) : Bool :=
  match place a with
  | .tier1 _ _ => (frameOwner s a).isSome
  | .tier2 o => decide (o / pageBytes < poolFrames s) && (frameOwner s a).isSome
  | .spm _ _ => true
  | .hub _ => true
  | _ => false

/-- `n` bytes at a local address lie in a window that the job of partition `p` declares (R425). -/
def inWindow (s : State) (p a n : Nat) : Bool :=
  let sec := jobSection s p 0x10 255
  (List.range (sec.length / 24)).any (fun i =>
    let w := bytesAt sec (24 * i) 24
    let inside (x : Nat) : Bool := decide (numAt w 8 8 ≤ x) && decide (x + n ≤ numAt w 8 8 + numAt w 16 8)
    match numAt w 0 1, place a with
    | 1, .spm G o => (part s p).quads[numAt w 1 1]? == some G && inside o
    | 2, .hub o =>
      (match findIdx? (· == o / 0x80000) (hubBanks s p) with
       | some k => inside (k * 0x80000 + o % 0x80000)
       | none => false)
    | 0, _ =>
      (match (if a < 0x20000000000 then pageOfFrame s p (a / pageBytes) else none) with
       | some k => inside (k * pageBytes + a % pageBytes)
       | none => false)
    | _, _ => false)

/-- The ownership check (R425). -/
def admitted (s : State) (q : RmtReq) (a : Nat) : Bool :=
  q.reqid == 0x100 || q.reqid == 0x101 ||
    (q.dom != 255 && (List.range 32).any (fun p => (part s p).job.busy && sliceOf s p == q.dom && inWindow s p a (2 ^ q.size))) ||
    (q.src == pkgId s && targetOwner s a == some q.spart)

/-- The live ranges (space, context rank, start, length) that a pause has locked (R436, R437). -/
def liveRanges (s : State) (p : Nat) : List (Nat × Nat × Nat × Nat) :=
  match (part s p).lockPhase, (part s p).image with
  | some k, some im =>
    let b := sectionOf im 0x0F 255
    let o := 8 * ceilDiv im.nphase 64
    let es := (List.range (numAt b o 8)).map (fun i => bytesAt b (o + 8 + 24 * i) 24)
    (es.filter (fun e => numAt e 0 2 == k)).map (fun e => (numAt e 2 1, numAt e 3 1, numAt e 8 8, numAt e 16 8))
  | _, _ => []

/-- A write of `n` bytes at a local address meets a live range that a paused job has locked. -/
def liveLocked (s : State) (a n : Nat) : Bool :=
  match targetOwner s a with
  | none => false
  | some p =>
    (liveRanges s p).any (fun r =>
      let hit (x : Nat) : Bool := decide (x < r.2.2.1 + r.2.2.2) && decide (r.2.2.1 < x + n)
      match r.1, place a with
      | 0, .spm G o => (part s p).quads[r.2.1]? == some G && hit o
      | 1, .hub o =>
        (match findIdx? (· == o / 0x80000) (hubBanks s p) with
         | some k => hit (k * 0x80000 + o % 0x80000)
         | none => false)
      | 2, _ =>
        (match (if a < 0x20000000000 then pageOfFrame s p (a / pageBytes) else none) with
         | some k => hit (k * pageBytes + a % pageBytes)
         | none => false)
      | _, _ => false)

/-- The memory unit of a local address is fenced. -/
def targetFenced (s : State) (a : Nat) : Bool :=
  match place a with
  | .tier1 _ _ => (heldUnits s).contains (0, (dieOfAddr a).1)
  | .tier2 _ => rdb s Reg.TIER_T2_FENCED || (heldUnits s).contains (11, channelOf a)
  | .spm G o => (heldUnits s).contains (6, bankUnit G o)
  | .hub o => (heldUnits s).contains (7, 1152 + o / 0x80000)
  | _ => false

/-! ### Memory accesses from outside the frame program -/

/-- Read `n` bytes at a local address for an operation (Table 19-4): the bytes, or none where a word is uncorrectable, which
is reported. -/
def outsideRead (op a n : Nat) (s : State) : Option Bytes × State :=
  let p := (targetOwner s a).getD 255
  match place a with
  | .spm G o =>
    (match spmBad s G o n with
     | [] => (some (readMem s a n), spmRead G o n s)
     | b :: _ => (none, spmError (Reg.SPM_ERR_UE_READ G) 1 G b 3 op 1 true (bump (spmRead G o n s) (Reg.SPM_Q_UE_CNT G) 1)))
  | .hub o =>
    if anyBad s a n then (none, hubError 1 o 2 op p 1 (bump s Reg.SPM_HUB_HUB_UE_CNT 1)) else (some (readMem s a n), s)
  | _ => if anyBad s a n then (none, memUe a op p false s) else (some (readMem s a n), s)

/-- Write bytes at a local address for an operation; a partial write to a poisoned scratchpad word leaves it poisoned. -/
def outsideWrite (op a : Nat) (b : Bytes) (s : State) : State :=
  match place a with
  | .spm G o => spmWrite G o 3 op b s
  | .hub o =>
    let partly : Bool := (a % 8 != 0 && isBad s a) || ((a + b.length) % 8 != 0 && isBad s (a + b.length - 1))
    let s := clearBad a b.length (writeMem s a b)
    if partly then hubError 3 o 2 op ((targetOwner s a).getD 255) 1 s else s
  | _ => clearBad a b.length (writeMem s a b)

/-- The frame of a partition is complete on this package, the commit deadline has passed, or it runs no job (R163). -/
def openNow (s : State) (p : Nat) : Bool :=
  !(part s p).job.busy || s.tick.verdict || ((part s p).quads.all (fun G => (ctx s G).atCommit))

/-- A bank of a partition with a running job lacks the class that outside accesses use. -/
def shutBank (s : State) (a : Nat) : Bool :=
  match place a with
  | .spm G o => !bit (rd s (Reg.SPM_BANK_MAP G (o / 0x80000 / 8))) (4 * (o / 0x80000 % 8) + 3)
  | .hub o => !bit (rd s (Reg.SPM_HUB_MAP (o / 0x80000 / 8))) (4 * (o / 0x80000 % 8) + 2)
  | _ => false

/-- An outside access is held now. -/
def holds (s : State) (a : Nat) : Bool :=
  match targetOwner s a with
  | some p => shutBank s a && !openNow s p
  | none => false

/-- Hold an access. -/
def holdAccess (h : HeldAccess) (a : Nat) (s : State) : State :=
  let s := { s with rmt := { s.rmt with held := s.rmt.held ++ [h] } }
  let p := (targetOwner s a).getD 255
  match place a with
  | .spm G o => setEvent (Reg.SPM_ERR_HOLD G) (0x0100 + G / 4) 0x0304 p (bankUnit G o) o noRecord (bump s (Reg.SPM_HOLD_CNT G) 1)
  | .hub o => raiseBit 0x0300 0x0404 p (1152 + o / 0x80000) o noRecord (orReg s Reg.SPM_HUB_ERR 16)
  | _ => s

/-! ### The home (R293–R297) -/

/-- Refuse a request. -/
def refuseReq (q : RmtReq) (code : Nat) (s : State) : State :=
  let s := rmtInfo code q.src q.reqid q.addr (bump s Reg.RMT_ERR_RSP_CNT 1)
  sendRsp q code [] (rmtEvent (if code = 3 then Reg.RMT_ERR_UE else Reg.RMT_ERR_REFUSED) (if code = 3 then 2 else 1) 255 q.addr s)

/-- Perform a request in the atomic unit. -/
def performReq (q : RmtReq) (s : State) : State :=
  let a := q.addr % 2 ^ 48
  let n := 2 ^ q.size
  let own : Bool := q.src == pkgId s && decide (q.spart < 32) && decide (a < 0x20000000000)
  if q.op = opStore then
    let s := bump (outsideWrite 17 a q.data s) Reg.RMT_REQ_SERVED_CNT 1
    sendRsp q 0 [] (if own then outside q.spart (accountMem q.spart a n true) s else s)
  else
    match outsideRead 17 a n s with
    | (none, s) => refuseReq q 3 s
    | (some b, s) =>
      let s := bump (if own then outside q.spart (accountMem q.spart a n false) s else s) Reg.RMT_REQ_SERVED_CNT 1
      if q.op = opLoad then sendRsp q 0 b s
      else
        let s := outsideWrite 17 a (leBytes n (rmw q.op (8 * n) (leNat b) q.a q.b)) s
        sendRsp q 0 (leBytes 8 (leNat b)) (if own then outside q.spart (accountMem q.spart a n true) s else s)

/-- The code with which the home refuses a request before any memory is reached, in the order format, address, ownership,
fence; a write to a locked live range ends as an access that is not authorised (R437). -/
def refusal (s : State) (q : RmtReq) : Option Nat :=
  let a := q.addr % 2 ^ 48
  if !wellFormedReq q then some 6
  else if q.addr / 2 ^ 48 ≠ pkgId s ∨ !reachable s a then some 1
  else if !admitted s q a then some 2
  else if targetFenced s a then some 7
  else if q.op ≠ opLoad ∧ liveLocked s a (2 ^ q.size) then some 2
  else none

/-- A request reaches the atomic unit. Requests of one requester are performed in the order they came (R303). -/
def serveReq (q : RmtReq) (s : State) : State :=
  match refusal s q with
  | some c => refuseReq q c s
  | none => if holds s (q.addr % 2 ^ 48) then holdAccess (.remote q) (q.addr % 2 ^ 48) s else performReq q s

/-- An earlier request of the same requester waits at the home's input. -/
def waitsBehind (s : State) (q : RmtReq) : Bool :=
  match s.fab.packets.find? (fun k => match packetReq k with | some x => x.src == q.src && x.reqid == q.reqid | none => false) with
  | some k => !q.defer && k.bytes != encodeReq q && s.fab.packets.any (fun x => x.src == q.src && x.bytes == encodeReq q)
  | none => false

/-- REMOTE_REQUEST_HOME. -/
def execRemoteRequestHome (q : RmtReq) (ue : List Nat) (s : State) : Host.Outcome State Fault Refusal :=
  if frozen s ∨ waitsBehind s q then .next s
  else .next (serveReq q (takeUe ue (takePacket false q.src (encodeReq q) s)))

/-! ### Local accesses of control cores (R424) -/

/-- Whether a control-core local access is a load or a store of its natural alignment. -/
def plainAccess (a : CcAccess) : Bool :=
  (a.op == .load || a.op == .store) && decide (a.size ≤ 3) && a.addr % 2 ^ a.size == 0

/-- The access reaches scratchpad of the thread's own partition. -/
def ownScratch (s : State) (p a : Nat) : Bool :=
  match place a with
  | .spm G _ => ownerOf s G == p
  | .hub o => (hubByte s (o / 0x80000) &&& 0x9F) == 128 + p
  | _ => false

/-- A scratchpad access of a thread is performed. -/
def coreScratch (a : CcAccess) (s : State) : State :=
  if a.op = .store then emit (outsideWrite 20 a.addr (padTo (2 ^ a.size) a.data) s) (.thread a.thread false 0)
  else match outsideRead 20 a.addr (2 ^ a.size) s with
    | (some b, s) => emit s (.thread a.thread false (leNat b))
    | (none, s) => emit s (.thread a.thread true 3)

/-- An access of a thread to its partition's tiered range. -/
def coreTier (p : Nat) (a : CcAccess) (s : State) : State :=
  let trap (s : State) : State := emit s (.thread a.thread true 1)
  match xlate s p a.addr with
  | .at c _ wp =>
    if a.op = .store then
      (if wp then trap (tierError Reg.TIER_ERR_WP_WRITE 3 14 5 20 p 1 (a.addr / pageBytes) true s)
       else if liveLocked s c (2 ^ a.size) then trap s
       else emit (outside p (fun s => (tierWrite p a.addr (padTo (2 ^ a.size) a.data) s).2) s) (.thread a.thread false 0))
    else
      (match tierRead p a.addr (2 ^ a.size) (swapAccum p s) with
       | (some (b, false), s) => emit (swapAccum p s) (.thread a.thread false (leNat b))
       | (_, s) => emit (memUe c 20 p false (swapAccum p s)) (.thread a.thread true 3))
  | _ => trap s

/-- CC_LOCAL_ACCESS: the tiered range by its tiered-range addresses, scratchpad by its package-local addresses; anything
else traps. -/
def execCcLocalAccess (a : CcAccess) (ue : List Nat) (s : State) : Host.Outcome State Fault Refusal :=
  if 256 ≤ a.thread ∨ !threadReady s a.thread then .next s
  else
    let p := threadOwner s a.thread
    let s := takeUe ue s
    if !plainAccess a then .next (emit s (.thread a.thread true 1))
    else if a.addr < rangePages s p * pageBytes then .next (coreTier p a s)
    else if !ownScratch s p a.addr ∨ (a.op = .store ∧ liveLocked s a.addr (2 ^ a.size)) then .next (emit s (.thread a.thread true 1))
    else if holds s a.addr then .next (holdAccess (.core a) a.addr s)
    else .next (coreScratch a s)

/-- The partition whose bank a held access waits for. -/
def heldFor (s : State) (h : HeldAccess) : Option Nat :=
  match h with
  | .remote q => targetOwner s (q.addr % 2 ^ 48)
  | .core a => targetOwner s a.addr

/-- Serve one held access. -/
def serveHeld (h : HeldAccess) (s : State) : State :=
  match h with
  | .remote q => performReq q s
  | .core a => coreScratch a s

/-- HELD_ACCESS_SERVE: the accesses held for a partition's banks, in arrival order. -/
def execHeldAccessServe (p : Nat) (ue : List Nat) (s : State) : Host.Outcome State Fault Refusal :=
  if !openNow s p ∨ frozen s then .next s
  else
    let due := s.rmt.held.filter (fun h => heldFor s h == some p || heldFor s h == none)
    let s := takeUe ue { s with rmt := { s.rmt with held := s.rmt.held.filter (fun h => !due.contains h) } }
    .next (due.foldl (fun s h => serveHeld h s) s)

/-! ### Responses (R299, R300, R306) -/

/-- What each member of a combined request receives for an old value `v`, in member order. -/
def splitValues : Nat → List RmtReq → List Nat
  | _, [] => []
  | v, m :: r => v :: splitValues (rmw m.op (8 * 2 ^ m.size) v m.a m.b) r

/-- A combined request is answered: every member receives the code, and its own data. -/
def splitRsp (e code : Nat) (data : Bytes) (s : State) : State :=
  let ms := (combEnt s e).members
  let s := putComb e CombEnt.free s
  let vs := splitValues (leNat data) ms
  ((ms.zip vs).foldl (fun s m => sendRsp m.1 code (if m.1.op = opLoad then data else leBytes 8 m.2) s) s)

/-- A response or a timeout reaches whoever waits for (REQID, TAG); a late response is discarded. -/
def receiveRsp (reqid tag code : Nat) (data : Bytes) (s : State) : State :=
  if 0x400 ≤ reqid ∧ reqid < 0x600 then splitRsp (reqid - 0x400) code data s
  else if 0x200 ≤ reqid ∧ reqid < 0x220 then deferDone tag code s
  else match s.rmt.out.find? (fun o => o.q.reqid == reqid && o.q.tag == tag && o.via != 2) with
    | some o => pumpFlow reqid (o.q.addr / 2 ^ 48) (finishReq o code data s)
    | none => s

/-- REMOTE_RESPONSE. -/
def execRemoteResponse (r : RmtRsp) (s : State) : Host.Outcome State Fault Refusal :=
  if frozen s then .next s
  else .next (receiveRsp r.reqid r.tag r.code r.data (takePacket true r.src (encodeRsp r) s))

/-- A request with this REQID and TAG waits for its response. -/
def awaits (s : State) (reqid tag : Nat) : Bool :=
  if 0x400 ≤ reqid ∧ reqid < 0x600 then tag == reqid - 0x400 && !(combEnt s tag).members.isEmpty
  else if 0x200 ≤ reqid ∧ reqid < 0x220 then
    (match deferEnt s tag with | some d => 0x200 + d.part == reqid | none => false)
  else s.rmt.out.any (fun o => o.q.reqid == reqid && o.q.tag == tag && o.via != 2)

/-- REMOTE_TIMEOUT: the requester, or each member of a combining entry, receives TIMEOUT. -/
def execRemoteTimeout (reqid tag : Nat) (s : State) : Host.Outcome State Fault Refusal :=
  if awaits s reqid tag then .next (receiveRsp reqid tag 5 [] (bump s Reg.RMT_TIMEOUT_CNT 1)) else .next s

/-- COMBINE_WINDOW_EXPIRY: the hold of the i-th held request ends. -/
def execCombineWindowExpiry (i : Nat) (s : State) : Host.Outcome State Fault Refusal :=
  .next { s with rmt := { s.rmt with window := s.rmt.window.eraseIdx i } }

end Sys2Proof.Machine
end

