-- ==== Sys2Proof/Machine/Coll.lean ====
section
/-!
DEFINITION. Collective operations (chapter 13): the group table (R315–R317), plan tables and streams (R327, R328), the COL
commands (R319–R326), the pieces they send and take, arrival counters (R329), local exchange (R330), and errors (R334).
-/

namespace Sys2Proof.Machine

/-! ### The group table (R315–R318) -/

/-- Entry `g` of the table in force; [] is an entry that is not valid. -/
def groupEnt (s : State) (g : Nat) : Bytes := tget [] s.coll.groups g

/-- Members of an entry. -/
def groupNp (b : Bytes) : Nat := numAt b 1 1 + 1

/-- Rank `r` of an entry: package and quadrant. -/
def groupMember (b : Bytes) (r : Nat) : Nat × Nat := (numAt b (16 + 2 * r) 1, numAt b (17 + 2 * r) 1)

/-- The members of an entry by rank. -/
def groupMembers (b : Bytes) : List (Nat × Nat) := (List.range (groupNp b)).map (groupMember b)

/-- A job on this package names the GID. -/
def groupInUse (s : State) (g : Nat) : Bool :=
  (List.range 32).any (fun p =>
    (part s p).job.busy &&
      (let sec := jobSection s p 0x09 255
       (List.range (sec.length / 16)).any (fun i => numAt sec (16 * i) 1 == g)))

/-- The fields of a new entry are in range (R316). -/
def groupFieldsOk (s : State) (b : Bytes) : Bool :=
  (groupMembers b).all (fun m => decide (m.1 < mapField s 8 1) && decide (m.2 < 48)) &&
    (groupMembers b).eraseDups.length == groupNp b

/-- An entry with its DIGEST (Table 13-1). -/
def groupDigested (b : Bytes) : Bytes :=
  b.take 4 ++ leBytes 8 ((sha256 (bytesAt b 16 (2 * groupNp b))).toNat % 2 ^ 64) ++ [0, 0, 0, 0] ++
    bytesAt b 16 (2 * groupNp b)

/-- A VF may write the entry: it owns the valid entry, if there is one, and the new one (R316). -/
def groupAllowed (s : State) (e : Entry) (owner : Nat) : Bool :=
  match e.src with
  | .vf p => owner == p && ((groupEnt s (arg e 8 1)).isEmpty || numAt (groupEnt s (arg e 8 1)) 0 1 % 32 == p)
  | _ => true

/-- GROUP_WRITE stages an entry and completes at the next tick (R317). -/
def cmdGroupWrite (e : Entry) (io : HostIo) (s : State) : CmdOut :=
  let g := arg e 8 1
  let stage (b : Bytes) : CmdOut :=
    waitCmd .tick (wr { s with coll := { s.coll with stagedGroups := s.coll.stagedGroups ++ [(g, b)] } } Reg.COLL_TABLE_PENDING 1)
  if arg e 9 1 = 0 then
    if !groupAllowed s e e.part then refuseCmd 0x0400 s
    else if groupInUse s g then refuseCmd 0x0301 s
    else stage []
  else match inputOf e io (arg e 12 4) with
    | none => refuseCmd 0x0500 s
    | some b =>
      if b.length ≠ arg e 12 4 ∨ b.length < 18 ∨ b.length ≠ 16 + 2 * groupNp b then refuseCmd 0x0104 s
      else if !groupFieldsOk s b then refuseCmd 0x0102 s
      else if !groupAllowed s e (numAt b 0 1 % 32) then refuseCmd 0x0400 s
      else if groupInUse s g then refuseCmd 0x0301 s
      else stage (groupDigested b)

/-- GROUP_WRITE. -/
def execGroupWrite (e : Entry) (io : HostIo) (s : State) : Host.Outcome State Fault Refusal :=
  runRow Row.groupWrite cmdGroupWrite e io s

/-- The engine switches to the staged copy at a tick (R317). -/
def switchGroups (s : State) : State :=
  wr { s with coll := { s.coll with
    groups := s.coll.stagedGroups.foldl (fun t g => tput [] t g.1 g.2) s.coll.groups, stagedGroups := [] } }
    Reg.COLL_TABLE_PENDING 0

/-! ### Plan tables (R327) -/

/-- A stream entry (Table 13-5). -/
structure PlanStream where
  stream : Nat
  peer : Nat
  recv : Bool
  phase : Nat
  npiece : Nat
  deriving DecidableEq, Repr

/-- A plan entry: program index, start slot and streams. -/
structure PlanEnt where
  pc : Nat
  start : Nat
  streams : List PlanStream
  deriving DecidableEq, Repr

/-- The plan table of a phase of a context. -/
def planTable (im : Image) (cx ph : Nat) : List PlanEnt :=
  let sec := sectionOf im 0x06 cx
  let total := (List.range im.nphase).foldl (fun m i => max m ((phaseSpan sec i).1 + (phaseSpan sec i).2)) 0
  let base := 8 * im.nphase + 16 * total
  (phaseEntries im 0x06 cx ph 16).map (fun b =>
    { pc := numAt b 0 2 % 2 ^ 14, start := numAt b 2 2 % 2 ^ 12,
      streams := (List.range (numAt b 4 2)).map (fun i =>
        let t := bytesAt sec (base + 8 * (numAt b 8 4 + i)) 8
        { stream := numAt t 0 2, peer := numAt t 2 1, recv := bit (numAt t 3 1) 0, phase := bits (numAt t 3 1) 1 1,
          npiece := numAt t 4 2 }) })

/-- The plan table of the running phase of the context of quadrant G. -/
def planNow (s : State) (G : Nat) : List PlanEnt :=
  match (part s (ownerOf s G)).image with
  | some im => planTable im (ctxRank s G) (phaseOf s (ownerOf s G))
  | none => []

/-- The plan entry of a command. -/
def planOf (s : State) (G pc : Nat) : PlanEnt := ((planNow s G).find? (·.pc == pc)).getD ⟨pc, 0, []⟩

/-! ### Fields (Table 13-3) -/

/-- The group of a command. -/
def ColOp.gid (o : ColOp) : Nat := fld o.args 111 104

/-- Source and destination offsets in bytes, and their spaces. -/
def ColOp.src (o : ColOp) : Nat := fld o.args 103 86 * 256
def ColOp.dst (o : ColOp) : Nat := fld o.args 85 68 * 256
def ColOp.srcHub (o : ColOp) : Bool := fld o.args 67 67 == 1
def ColOp.dstHub (o : ColOp) : Bool := fld o.args 66 66 == 1

/-- Block size in bytes. -/
def ColOp.blk (o : ColOp) : Nat := fld o.args 56 41 * 256

/-- GATHER and BCAST: root. REDSCAT and ALLRED: reduction. -/
def ColOp.root (o : ColOp) : Nat := fld o.args 40 33
def ColOp.red (o : ColOp) : Nat := fld o.args 40 39

/-- A2AV: capacity and row size. -/
def ColOp.cap (o : ColOp) : Nat := fld o.args 56 41
def ColOp.rs (o : ColOp) : Nat := 64 * fld o.args 40 30

/-- Bytes of the destination range (R329). -/
def ColOp.dstLen (o : ColOp) (np : Nat) : Nat :=
  match o.op with
  | 1 => np * o.blk
  | 3 => if o.root = 255 ∨ o.root = o.rank then np * o.blk else 0
  | 4 => o.blk
  | 5 => o.blk
  | 6 => np * o.blk
  | _ => 1024 + np * o.cap * o.rs

/-- Members of the command's group. -/
def colNp (s : State) (o : ColOp) : Nat := groupNp (groupEnt s o.gid)

/-- Member `a` sends a block or rows to member `b` in an operation. -/
def colPair (o : ColOp) (a b : Nat) : Bool :=
  match o.op with
  | 3 => o.root == 255 || b == o.root
  | 4 => a == o.root
  | _ => true

/-! ### State of the commands -/

/-- Change the i-th command of the frame. -/
def modOp (i : Nat) (f : ColOp → ColOp) (s : State) : State :=
  { s with coll := { s.coll with ops := (s.coll.ops.zip (List.range s.coll.ops.length)).map (fun x => if x.2 = i then f x.1 else x.1) } }

/-- No command. -/
def ColOp.none : ColOp := ⟨0, 0, 0, 0, 0, 255, 0, [], [], [], [], [], 0, []⟩

/-- The i-th command of the frame. -/
def opAt (s : State) (i : Nat) : ColOp := s.coll.ops.getD i ColOp.none

/-- INFLIGHT. -/
def showColl (s : State) : State :=
  wr s Reg.COLL_INFLIGHT ((List.range 48).map (fun G => ((ctx s G).inflight.filter (fun x => x.cls == 8 && decide (x.op < 7))).length)).sum

/-- An error of the collectives engine: its bit, what it latches, the record, the event and the failed frame. -/
def colError (f : Field) (b rank st : Nat) (one : Bool) (o : ColOp) (s : State) : State :=
  let s := wr (wr (wr s Reg.COLL_ERR_GID o.gid) Reg.COLL_ERR_RANK rank) Reg.COLL_ERR_PC o.pc
  failFrame o.part ⟨st, one, 14, 2⟩ (unitError f 4 (0x0D00 + b) 14 2 1 8 o.part 1 o.pc [] true s)

/-- COL_LATE. -/
def colLate (o : ColOp) (s : State) : State :=
  colError Reg.COLL_ERR_LATE 0 o.rank 0x0563 false o (bump s Reg.COLL_LATE_CNT 1)

/-! ### Reading sources -/

/-- Bytes of a range of the command's source space, with the words in it that are bad, as offsets of that space. -/
def colBytes (s : State) (o : ColOp) (off n : Nat) : Bytes := if o.srcHub then hubBytes s o.part off n else spmBytes s o.G off n

/-- The words of a source range that are bad, as byte offsets of its space. -/
def colBad (s : State) (o : ColOp) (off n : Nat) : List Nat :=
  if o.srcHub then
    (if n = 0 then [] else ((List.range ((off + n - 1) / 8 - off / 8 + 1)).map (fun i => 8 * (off / 8 + i))).filter
      (fun h => match hubPhys s o.part h with | some a => isBad s a | none => false))
  else spmBad s o.G off n

/-- A source range is read: its beats, and its bad words fail the frame. -/
def colRead (o : ColOp) (off n : Nat) (s : State) : State :=
  let s := bridgeBytes o.part n s
  if o.srcHub then hubUe o.part 8 0 (hubBad s o.part off n) s
  else spmUe o.G 8 3 (spmBad s o.G off n) (spmRead o.G off n s)

/-- The pieces of `n` bytes from a source offset behind a header: piece `j` carries bytes 4,096 j − |header| on. A piece
with a bad word is poisoned. -/
def colPieces (s : State) (o : ColOp) (hdr : Bytes) (off n : Nat) : List (Option Bytes) :=
  let h := hdr.length
  (List.range (ceilDiv (h + n) 4096)).map (fun j =>
    let lo := 4096 * j - h
    let len := min n (4096 * (j + 1) - h) - lo
    if (colBad s o (off + lo) len).isEmpty then some ((if j = 0 then hdr else []) ++ colBytes s o (off + lo) len) else none)

/-- The count for member `d` of an A2AV, none where its word is bad, and the source offset of its rows. -/
def a2avRows (s : State) (o : ColOp) (d : Nat) : Option Nat × Nat :=
  let word (off : Nat) : Option Nat := if (colBad s o off 4).isEmpty then some (leNat (colBytes s o off 4)) else none
  if fld o.args 29 29 = 1 then (word (o.src + 4 * d), o.src + 1024 + d * o.cap * o.rs)
  else
    let t := fld o.args 28 11 * 256
    (word (t + 4 * d), o.src + ((word (t + 1024 + 4 * d)).getD 0) * o.rs)

/-- The pair header of an A2AV (R322). -/
def pairHeader (s : State) (o : ColOp) (n : Nat) : Bytes :=
  padTo 64 (leBytes 4 n ++ leBytes 1 o.rank ++ leBytes 1 o.gid ++ leBytes 2 (frameNo s))

/-- What a command sends to member `d`: the header, and the source range. -/
def colSource (s : State) (o : ColOp) (d : Nat) : Nat × Nat :=
  match o.op with
  | 2 => let r := a2avRows s o d; (r.2, min (r.1.getD 0) o.cap * o.rs)
  | 3 => (o.src, o.blk)
  | 4 => (o.src, o.blk)
  | _ => (o.src + d * o.blk, o.blk)

/-- The pieces that a command sends to member `d` in phase 0. A bad count poisons the one piece that carries it. -/
def colSend (s : State) (o : ColOp) (d : Nat) : List (Option Bytes) :=
  let r := colSource s o d
  if o.op = 2 then
    (match (a2avRows s o d).1 with
     | some n => colPieces s o (pairHeader s o (min n o.cap)) r.1 r.2
     | none => [none])
  else colPieces s o [] r.1 r.2

/-! ### Writing destinations (R329) -/

/-- Add a span to a list of disjoint ascending spans. -/
def addSpan (o n : Nat) : List (Nat × Nat) → List (Nat × Nat)
  | [] => [(o, n)]
  | (a, m) :: r =>
    if o + n < a then (o, n) :: (a, m) :: r
    else if a + m < o then (a, m) :: addSpan o n r
    else addSpan (min o a) (max (o + n) (a + m) - min o a) r

/-- The bytes written from the start of the destination without a gap. -/
def writtenPrefix : List (Nat × Nat) → Nat
  | (0, n) :: _ => n
  | _ => 0

/-- Arrivals due for a written prefix. -/
def arrivalsDue (o : ColOp) (total : Nat) : Nat :=
  let seg := 256 * 2 ^ fld o.args 60 57
  let w := writtenPrefix o.written
  if total ≤ w then ceilDiv total seg else w / seg

/-- Write a range of the destination; none writes it poisoned. -/
def colWrite (i off n : Nat) (b : Option Bytes) (s : State) : State :=
  let o := opAt s i
  if n = 0 then s
  else
    let d := o.dst + off
    let data := padTo n (b.getD [])
    let s := if o.dstHub then hubWrite o.part d data s else spmWrite o.G d 3 8 data s
    let s := if b.isSome then s
      else if o.dstHub then
        (List.range ((d + n - 1) / 8 - d / 8 + 1)).foldl (fun s k =>
          match hubPhys s o.part (8 * (d / 8 + k)) with | some a => setBad s a true | none => s) s
      else spmPoison o.G d n s
    let s := modOp i (fun o => { o with written := addSpan off n o.written }) (bridgeBytes o.part n s)
    let o := opAt s i
    let due := arrivalsDue o (o.dstLen (colNp s o))
    if fld o.args 65 65 = 1 ∧ o.raised < due then
      modOp i (fun o => { o with raised := due })
        (wr s (Reg.CTX_AC o.G (fld o.args 64 61)) (min 65535 (rd s (Reg.CTX_AC o.G (fld o.args 64 61)) + (due - o.raised))))
    else s

/-- Write the count word of a source in an A2AV destination. -/
def colCount (i src v : Nat) (s : State) : State := colWrite i (4 * src) 4 (some (leBytes 4 v)) s

/-! ### Reductions (R323–R325) -/

/-- Reduce int64 elements; the poison value is absorbing. -/
def redI64 (l : List Nat) : Nat := if l.any (· == poison64) then poison64 else l.sum % 2 ^ 64

/-- Reduce FP32 elements in rank order. -/
def redF32 (red : Nat) (l : List F32) : F32 :=
  match red with
  | 1 => if l.any isNaN then nanF else paddedTree l
  | 2 => l.foldl fmax (l.headD 0)
  | _ => l.foldl fmin (l.headD 0)

/-- The reduction of one piece's contributions in rank order, and whether an F32_SUM of finite values overflowed. A
contribution that is poisoned gives poisoned elements. -/
def redPiece (red n : Nat) (cs : List (Option Bytes)) : Bytes × Bool :=
  if red = 0 then
    (joinBytes ((List.range (n / 8)).map (fun e =>
      leBytes 8 (redI64 (cs.map (fun c => match c with | some b => numAt b (8 * e) 8 | none => poison64))))), false)
  else
    let vs := (List.range (n / 4)).map (fun e =>
      let l := cs.map (fun c => match c with | some b => BitVec.ofNat 32 (numAt b (4 * e) 4) | none => nanF)
      let v := redF32 red l
      (v, red == 1 && isInf v && l.all isFinite))
    (packF32 (vs.map (·.1)), vs.any (·.2))

/-! ### Taking pieces -/

/-- The data of piece `j` of a block. -/
def pieceLen (blk j : Nat) : Nat := min 4096 (blk - 4096 * j)

/-- Hold a result piece ready for the streams of ALLRED's second phase, and write it at the local members. -/
def spreadResult (i j : Nat) (b : Bytes) (s : State) : State :=
  let o := opAt s i
  let s := (planOf s o.G o.pc).streams.foldl (fun s t =>
    if !t.recv && t.phase == 1 then
      { s with fab := { s.fab with txPieces := s.fab.txPieces ++ [⟨sliceOf s o.part, t.stream, j, false, some b⟩] } }
    else s) s
  (List.range s.coll.ops.length).foldl (fun s k =>
    let q := opAt s k
    if q.op = 6 ∧ q.gid = o.gid ∧ q.k = o.k ∧ q.part = o.part then
      colWrite k (o.rank * o.blk + 4096 * j) (pieceLen o.blk j) (some b) s
    else s) s

/-- A piece whose contributions are all present is reduced (R323). -/
def tryReduce (i j : Nat) (s : State) : State :=
  let o := opAt s i
  let cs := (List.range (colNp s o)).map (fun r => (o.contrib.find? (fun c => c.1 == j && c.2.1 == r)).map (·.2.2))
  match allOf cs with
  | none => s
  | some l =>
    if o.reduced.contains j then s
    else
      let n := pieceLen o.blk j
      let r := redPiece o.red n l
      let s := modOp i (fun o => { o with reduced := j :: o.reduced }) (bump s Reg.COLL_RED_BYTE_CNT (n * l.length))
      let s := if o.op = 5 then colWrite i (4096 * j) n (some r.1) s else spreadResult i j r.1 s
      if r.2 then colError Reg.COLL_ERR_OVERFLOW 3 o.rank 0x0521 true o s else s

/-- A contribution arrives. -/
def contribute (i j rank : Nat) (b : Option Bytes) (s : State) : State :=
  tryReduce i j (modOp i (fun o => { o with contrib := o.contrib ++ [(j, rank, b)] }) s)

/-- A source whose header or pieces are not valid: nothing more of it is written, and its count word says so. -/
def colInvalid (i src : Nat) (s : State) : State :=
  let o := opAt s i
  let s := colError Reg.COLL_ERR_DATA_INVALID 2 src 0x0564 false o s
  if o.op = 2 then
    modOp i (fun o => { o with counts := (src, none) :: o.counts.filter (·.1 != src) }) (colCount i src 0xFFFFFFFF s)
  else s

/-- Where member `src`'s rows begin in an A2AV destination. -/
def rowBase (o : ColOp) (src : Nat) : Nat := 1024 + src * o.cap * o.rs

/-- The first piece of an A2AV stream (R322). -/
def takeHeader (i src : Nat) (b : Option Bytes) (s : State) : State :=
  let o := opAt s i
  match b with
  | none =>
    modOp i (fun o => { o with counts := (src, none) :: o.counts })
      (colWrite i (rowBase o src) (min 4032 (o.cap * o.rs)) none (colCount i src 0xFFFFFFFF s))
  | some b =>
    let n := numAt b 0 4
    if o.cap < n ∨ numAt b 4 1 ≠ src ∨ numAt b 5 1 ≠ o.gid then colInvalid i src s
    else
      modOp i (fun o => { o with counts := (src, some n) :: o.counts })
        (colWrite i (rowBase o src) (min 4032 (n * o.rs)) (some (b.drop 64)) (colCount i src n s))

/-- One piece of a receive stream. -/
def takePiece (i : Nat) (t : PlanStream) (x : Piece) (s : State) : State :=
  let o := opAt s i
  let j := x.idx
  let s := bump s Reg.COLL_PIECE_RX_CNT (bnat x.data.isSome)
  let s := if x.empty then colInvalid i t.peer s
    else if x.data.isNone then colError Reg.COLL_ERR_PIECE_LOST 1 t.peer 0x0560 false o s else s
  let n := pieceLen o.blk j
  if o.op = 2 then
    (if x.empty then s
     else if j = 0 then takeHeader i t.peer x.data s
     else
      let c := ((o.counts.find? (·.1 == t.peer)).bind (·.2)).getD 0
      colWrite i (rowBase o t.peer + (4096 * j - 64)) (min 4096 (c * o.rs - (4096 * j - 64))) x.data s)
  else if o.op = 4 then colWrite i (4096 * j) n x.data s
  else if (o.op = 5 ∨ o.op = 6) ∧ t.phase = 0 then contribute i j t.peer x.data s
  else colWrite i (t.peer * o.blk + 4096 * j) n x.data s

/-- The pieces a command expects on a receive stream; an A2AV knows them from the header. -/
def piecesDue (o : ColOp) (t : PlanStream) : Nat :=
  if o.op = 2 then
    (match o.counts.find? (·.1 == t.peer) with
     | none => 1
     | some (_, none) => 0
     | some (_, some n) => ceilDiv (64 + n * o.rs) 4096)
  else ceilDiv o.blk 4096

/-- Take the pieces that have arrived on one stream, at most `fuel`. -/
def drainStream (i : Nat) (t : PlanStream) : Nat → State → State
  | 0, s => s
  | fuel + 1, s =>
    let o := opAt s i
    let j := tget 0 o.seen t.stream
    match s.fab.rxPieces.find? (fun x => x.slice == sliceOf s o.part && x.stream == t.stream && x.idx == j) with
    | some x =>
      if j < piecesDue o t then
        drainStream i t fuel (takePiece i t x (modOp i (fun o => { o with seen := tput 0 o.seen t.stream (j + 1) }) s))
      else s
    | none => s

/-- Every command takes the pieces that have arrived for it. -/
def colAdvance (s : State) : State :=
  (List.range s.coll.ops.length).foldl (fun s i =>
    let o := opAt s i
    ((planOf s o.G o.pc).streams.filter (·.recv)).foldl (fun s t => drainStream i t (s.fab.rxPieces.length + 1) s) s) s

/-! ### Exchange within the package (R330) -/

/-- Copy a range within the package, word by word: bad words stay bad. -/
def colCopy (i : Nat) (o : ColOp) (off n d : Nat) (s : State) : State :=
  let bad := colBad s o off n
  let s := colWrite i d n (some (colBytes s o off n)) s
  let q := opAt s i
  let s := bad.foldl (fun s w =>
    let x := q.dst + d + (w - off)
    if q.dstHub then (match hubPhys s q.part x with | some a => setBad s a true | none => s) else spmPoison q.G x 8 s) s
  bump s Reg.COLL_LOCAL_BYTE_CNT n

/-- Member `o` delivers to the i-th command, which is a member on this package. -/
def localPair (o : ColOp) (i : Nat) (s : State) : State :=
  let q := opAt s i
  if q.met.contains o.rank ∨ !colPair o o.rank q.rank then s
  else
    let s := modOp i (fun q => { q with met := o.rank :: q.met }) s
    let r := colSource s o q.rank
    match o.op with
    | 2 =>
      (match (a2avRows s o q.rank).1 with
       | some n => colCopy i o r.1 r.2 (rowBase q o.rank) (colCount i o.rank (min n o.cap) s)
       | none => colWrite i (4 * o.rank) 4 none s)
    | 1 => colCopy i o r.1 r.2 (o.rank * o.blk) s
    | 3 => colCopy i o r.1 r.2 (o.rank * o.blk) s
    | 4 => colCopy i o r.1 r.2 0 s
    | _ =>
      let ps := colPieces s o [] r.1 r.2
      (ps.zip (List.range ps.length)).foldl (fun s p => contribute i p.2 o.rank p.1 s) (bump s Reg.COLL_LOCAL_BYTE_CNT o.blk)

/-- The commands of the frame that are members of the same collective on this package. -/
def peersOf (s : State) (o : ColOp) : List Nat :=
  (List.range s.coll.ops.length).filter (fun k =>
    let q := opAt s k
    q.op == o.op && q.gid == o.gid && q.k == o.k && q.part == o.part)

/-! ### The commands -/

/-- The rank of a context in a group. -/
def rankIn (s : State) (g G : Nat) : Nat := (findIdx? (· == (pkgId s, G)) (groupMembers (groupEnt s g))).getD 0

/-- A command starts: its send pieces are held ready, it exchanges with the members that have started on this package, and
it takes what has arrived. -/
def startCol (op G : Nat) (a : BitVec 112) (s : State) : State :=
  let pc := pcOf s G
  let p := ownerOf s G
  let g := fld a 111 104
  let k := (s.coll.ops.filter (fun q => q.G == G && q.op == op && q.gid == g)).length
  let o : ColOp := { ColOp.none with G := G, op := op, pc := pc, args := a, k := k, part := p, rank := rankIn s g G }
  let i := s.coll.ops.length
  let s := { s with coll := { s.coll with ops := s.coll.ops ++ [o] } }
  let plan := planOf s G pc
  let s := if plan.start < rd s Reg.TICK_SLOT then colLate o s else s
  let sends := plan.streams.filter (fun t => !t.recv && t.phase == 0)
  let pieces := (sends.map (fun t =>
    let ps := colSend s o t.peer
    (ps.zip (List.range ps.length)).map (fun x => (⟨sliceOf s p, t.stream, x.2, false, x.1⟩ : Piece)))).foldr (· ++ ·) []
  let s := { s with fab := { s.fab with txPieces := s.fab.txPieces ++ pieces } }
  let ds := (sends.map (·.peer) ++ (peersOf s o).map (fun k => (opAt s k).rank)).filter (colPair o o.rank)
  let s := (ds.map (colSource s o)).eraseDups.foldl (fun s r => colRead o r.1 r.2 s) s
  let s := if op = 2 then
      (let s := if ds.any (fun d => decide (o.cap < ((a2avRows s o d).1.getD 0))) then
          setEvent Reg.COLL_ERR_SEND_CLIP 4 0x0D05 p 0 pc noRecord s else s
       colWrite i (4 * colNp s o) (1024 - 4 * colNp s o) (some []) s)
    else if op = 5 ∨ op = 6 then
      (let n := if o.red = 1 then colNp s o * o.blk else o.blk
       let d := drawBytes n s
       hubWrite p (fld a 38 21 * 256) d.1 d.2)
    else s
  let s := (peersOf s o).foldl (fun s j => localPair (opAt s j) i (if j = i then s else localPair o j s)) s
  showColl (colAdvance s)

/-- A job's collectives share has room for another command in flight (R331). -/
def colRoom (s : State) (G : Nat) : Bool :=
  let p := ownerOf s G
  decide (((part s p).quads.map (fun Q => ((ctx s Q).inflight.filter (fun x => x.cls == 8 && decide (x.op < 7))).length)).sum
    < numAt (sharesOf s p) 2 2)

/-- A COL command of opcode 0x01–0x06. -/
def colCommand (op G : Nat) (fl : BitVec 4) (a : BitVec 112) (ue : List Nat) (s : State) : Host.Outcome State Fault Refusal :=
  if colRoom s G then frameCommand 8 op G fl a ue (startCol op G a) s else .next s

/-- COL_A2A. -/
def execColA2a (G : Nat) (fl : BitVec 4) (a : BitVec 112) (ue : List Nat) (s : State) : Host.Outcome State Fault Refusal :=
  colCommand 1 G fl a ue s

/-- COL_A2AV. -/
def execColA2av (G : Nat) (fl : BitVec 4) (a : BitVec 112) (ue : List Nat) (s : State) : Host.Outcome State Fault Refusal :=
  colCommand 2 G fl a ue s

/-- COL_GATHER. -/
def execColGather (G : Nat) (fl : BitVec 4) (a : BitVec 112) (ue : List Nat) (s : State) : Host.Outcome State Fault Refusal :=
  colCommand 3 G fl a ue s

/-- COL_BCAST. -/
def execColBcast (G : Nat) (fl : BitVec 4) (a : BitVec 112) (ue : List Nat) (s : State) : Host.Outcome State Fault Refusal :=
  colCommand 4 G fl a ue s

/-- COL_REDSCAT. -/
def execColRedscat (G : Nat) (fl : BitVec 4) (a : BitVec 112) (ue : List Nat) (s : State) : Host.Outcome State Fault Refusal :=
  colCommand 5 G fl a ue s

/-- COL_ALLRED. -/
def execColAllred (G : Nat) (fl : BitVec 4) (a : BitVec 112) (ue : List Nat) (s : State) : Host.Outcome State Fault Refusal :=
  colCommand 6 G fl a ue s

/-! ### Completion (R331) -/

/-- A command has sent every piece, exchanged with every local member, and written everything it receives. -/
def colDone (s : State) (o : ColOp) : Bool :=
  let plan := planOf s o.G o.pc
  let sl := sliceOf s o.part
  let locals := (List.range (colNp s o)).filter (fun r => (groupMember (groupEnt s o.gid) r).1 == pkgId s)
  let ops := (peersOf s o).map (opAt s)
  !s.fab.txPieces.any (fun x => x.slice == sl && plan.streams.any (fun t => !t.recv && t.stream == x.stream)) &&
    locals.all (fun r =>
      (!colPair o r o.rank || o.met.contains r) && (!colPair o o.rank r || ops.any (fun q => q.rank == r && q.met.contains o.rank))) &&
    (plan.streams.filter (·.recv)).all (fun t => decide (piecesDue o t ≤ tget 0 o.seen t.stream)) &&
    ((o.op != 5 && o.op != 6) || o.reduced.length == ceilDiv o.blk 4096)

/-- The command of the frame at a program index of a context, the latest of its kind. -/
def opOfCmd (s : State) (G pc : Nat) : Option ColOp := (s.coll.ops.reverse).find? (fun o => o.G == G && o.pc == pc)

/-- The records of an RMT_ATOMIC are placed: its partition's share had a free entry for each (R310). -/
def deferFits (s : State) (G pc : Nat) : Bool :=
  let p := ownerOf s G
  let mine := s.rmt.staged.filter (·.part == p)
  let after := mine.length - ((mine.reverse.takeWhile (fun d => !(d.G == G && d.pc == pc))).length)
  let used := (s.rmt.defer.filter (fun e => match e.2 with | some d => d.part == p | none => false)).length
  after == 0 || decide (used + after ≤ numAt (sharesOf s p) 4 2)

/-- What holds a COL command in flight beyond its own class (R310, R331). -/
def colHolds (s : State) (G : Nat) (x : FrameCmd) : Bool :=
  x.cls == 8 &&
    (if x.op = 0x30 then !deferFits s G x.pc
     else match opOfCmd s G x.pc with | some o => !colDone s o | none => false)

/-! ### Completion of commands (R42, R43) -/

/-- A command may complete: no pass of it waits on an arrival counter, and a commit command is the last one left, with the
guards of its group evaluated. -/
def mayComplete (c : Ctx) (x : FrameCmd) : Bool :=
  x.waitsAc.isNone && (!bit x.flags 0 || (c.inflight.length == 1 && c.guards.isEmpty))

/-- `ns` of busy time of a BDU command on its BDUs, in cycles at 1.0 GHz (Table 5-12). -/
def bduBusyNs (G : Nat) (x : FrameCmd) (ns : Nat) (s : State) : State :=
  if x.cls = 1 then
    (bitsSet 12 (fld x.args 111 100)).foldl
      (fun s d => bump s (Reg.BDU_DIE_BUSY_CNT (12 * (G / 4) + d)) (ns * (bitsSet 4 (fld x.args 99 96)).length)) s
  else s

/-- The counters of a completed ATT_RUN (Table 8-19). -/
def attRunDone (G : Nat) (x : FrameCmd) (ns : Nat) (s : State) : State :=
  if x.cls = 5 ∧ x.op = 3 then bump (bump s (Reg.ATT_RUN_CNT G) 1) (Reg.ATT_BUSY_CNT G) ns else s

/-- FRAME_COMMAND_COMPLETE: the i-th command in flight of a context completes; its class was busy for `ns` more. -/
def execFrameCommandComplete (G i ns : Nat) (s : State) : Host.Outcome State Fault Refusal :=
  let c := ctx s G
  match c.inflight[i]? with
  | none => .next s
  | some x =>
    if !mayComplete c x || colHolds s G x then .next s
    else
      let s := attRunDone G x ns <| bduBusyNs G x ns <| classBusy G x.cls ns (modCtx s G (fun c => { c with inflight := c.inflight.eraseIdx i }))
      if bit x.flags 0 then
        .next (showColl <| showCtx G (wr (modCtx s G (fun c => { c with atCommit := true, wait := none })) (Reg.CTX_STATE G) 2))
      else .next (showColl <| showCtx G (releaseWait G s))

end Sys2Proof.Machine
end

