-- ==== Sys2Proof/Machine/Weights.lean ====
section
/-!
DEFINITION. Weight custody (chapter 16): the model declaration, the key store, shards and their records, V6 rechecks, and
the windows of Vexsum. The replacement commands are in Machine/Replace.lean.
-/

namespace Sys2Proof.Machine

/-- Change weight custody. -/
def modWts (f : Weights → Weights) (s : State) : State := { s with wts := f s.wts }

/-- A bit of the CRYPTO error register (codes 0x10xx, source 6). -/
def cryEvent (f : Field) (b part : Nat) (s : State) : State := setEvent f 6 (0x1000 + b) part 0 0 noRecord s

/-- A bit of a partition's LOESS error register (codes 0x11xx, source 7). -/
def loessEvent (f : Nat → Field) (b p : Nat) (s : State) : State := setEvent (f p) 7 (0x1100 + b) p p 0 noRecord s

/-! ### Tiered ranges as Kaolin reaches them (R400, R401) -/

/-- A tiered range cut at page boundaries: addresses and lengths. -/
def pageCuts (a n : Nat) : List (Nat × Nat) :=
  (pagesOf a n).map (fun g =>
    let lo := max a (g * pageBytes)
    (lo, min (a + n) ((g + 1) * pageBytes) - lo))

/-- Every page of the range translates. -/
def rangeReachable (s : State) (p a n : Nat) : Bool :=
  (pageCuts a n).all (fun c => match xlate s p c.1 with | .at _ _ _ => true | _ => false)

/-- The bytes of a tiered range, and whether a word of them is bad. -/
def rangeRead (s : State) (p a n : Nat) : Bytes × Bool :=
  let cs := (pageCuts a n).map (fun c => match xlate s p c.1 with
    | .at x _ _ => (readMem s x c.2, anyBad s x c.2)
    | _ => (List.replicate c.2 0, true))
  (joinBytes (cs.map (·.1)), cs.any (·.2))

/-- Kaolin's write to a tiered range: exempt from WP, mirrored to the frame that a moving page goes to (R240). -/
def rangeWrite (p a : Nat) (b : Bytes) (s : State) : State :=
  ((pageCuts a b.length).foldl (fun (q : State × Bytes) c =>
    let d := q.2.take c.2
    let put (x : Nat) (s : State) : State := clearBad x d.length (writeMem s x d)
    (match xlate q.1 p c.1 with
     | .at x m _ => match m with | some y => put y (put x q.1) | none => put x q.1
     | _ => q.1, q.2.drop c.2)) (s, b)).1

/-- The whole pages of a range are zeroed. -/
def zeroPages (p a n : Nat) (s : State) : State :=
  (pagesOf a n).foldl (fun s g =>
    match xlate s p (g * pageBytes) with
    | .at x m _ =>
      let s := zeroRange s x pageBytes
      match m with | some y => zeroRange s y pageBytes | none => s
    | _ => s) s

/-- Set or clear WP on the pages of a range (R401). -/
def setWp (p a n : Nat) (on : Bool) (s : State) : State :=
  (pagesOf a n).foldl (fun s g => if g < rangePages s p then modPage s p g (fun x => { x with wp := on }) else s) s

/-! ### The model declaration (R393) -/

/-- The sections of the declaration: every tensor in range, the units in ascending order without gaps, zero padding. -/
def declSectionsOk (d : Bytes) : Bool :=
  (List.range (nTensor d)).all (fun t =>
    let x := tensorAt d t
    let k := numAt x 4 4
    let tile := numAt x 12 4
    let seed := numAt x 16 1
    let lg := numAt x 17 1
    decide (numAt x 0 1 ≤ 4) && (numAt x 2 2 == 65535 || decide (numAt x 2 2 < nLayer d)) &&
      k != 0 && k % 128 == 0 && decide (1 ≤ numAt x 8 4) && decide (numAt x 8 4 ≤ 16777216) &&
      tile % 8 == 0 && decide (tile ≤ 65536) &&
      (if seed = 255 then lg == 0 else decide (seed < nSeed d) && decide (6 ≤ lg) && decide (lg ≤ 15)) &&
      numAt x 18 14 == 0) &&
  (List.range (nUnit d)).all (fun u =>
    (unitAt d u).2 != 0 &&
    (unitAt d u).1 == (if u = 0 then 0 else (unitAt d (u - 1)).1 + (unitAt d (u - 1)).2)) &&
  (unitAt d (nUnit d - 1)).1 + (unitAt d (nUnit d - 1)).2 == nTensor d &&
  (d.drop (64 + 32 * nTensor d + 8 * nUnit d + 8 * nSeed d + nLayer d)).all (· == 0)

/-- The header of Table 16-1. -/
def declHeaderOk (d : Bytes) : Bool :=
  numAt d 0 4 == 0x4D444C31 && numAt d 4 1 == 1 && decide (numAt d 5 1 ≤ 1) && decide (1 ≤ nLayer d) &&
    decide (nLayer d ≤ 4096) && decide (1 ≤ numAt d 8 1) && decide (numAt d 8 1 ≤ 8) && numAt d 9 1 / 64 == 0 &&
    decide (numAt d 10 1 ≤ 7) && numAt d 11 1 == 0 && decide (1 ≤ nTensor d) && decide (nTensor d ≤ 1048576) &&
    decide (1 ≤ nUnit d) && decide (nUnit d ≤ 4096) && decide (nSeed d ≤ 64) && numAt d 23 1 == 0 && numAt d 32 32 == 0

/-- MODEL_ID: bits 63:0 of the SHA-256 of the declaration. -/
def modelIdOf (d : Bytes) : Nat := (sha256 d).toNat % 2 ^ 64

/-- Discard shard records (R401): WP goes with them. -/
def discardRecs (f : ShardRec → Bool) (s : State) : State :=
  let gone := s.wts.recs.filter f
  modWts (fun w => { w with recs := w.recs.filter (fun r => !f r) })
    (gone.foldl (fun s r => setWp r.part r.dst r.len false s) s)

/-- MODEL_DECLARE (R393). -/
def cmdModelDeclare (e : Entry) (io : HostIo) (s : State) : CmdOut :=
  let p := e.part
  match inputOf e io (arg e 16 4) with
  | none => refuseCmd 0x0500 s
  | some d =>
    if d.length ≠ arg e 16 4 ∨ d.length < 64 ∨ declLen d ≠ d.length then refuseCmd 0x0104 s
    else if !declHeaderOk d || !declSectionsOk d || arg e 24 8 == 0 then refuseCmd 0x0102 s
    else if (part s p).job.busy then refuseCmd 0x0301 s
    else
      let s := discardRecs (fun r => r.part == p) { s with decls := tput [] s.decls p d }
      let s := modWts (fun w => { w with refs := tput (0, []) w.refs p (0, []) }) s
      doneCmd (leBytes 8 (modelIdOf d)) (modPart s p (fun q => { q with modelId := modelIdOf d, modelEpoch := arg e 24 8 }))

/-- MODEL_DECLARE. -/
def execModelDeclare (e : Entry) (io : HostIo) (s : State) : Host.Outcome State Fault Refusal :=
  runRow Row.modelDeclare cmdModelDeclare e io s

/-! ### The key store (R396–R398) -/

/-- The key of a class that a partition holds under a KEY_ID. -/
def keyOf (s : State) (cls p k : Nat) : Option Bytes :=
  (s.keys.find? (fun x => x.cls == cls && x.owner == p && x.keyId == k)).map (·.material)

/-- The store changes; KEYS counts its entries. -/
def setKeys (ks : List KeyEnt) (s : State) : State := wr { s with keys := ks } Reg.CRY_KEYS ks.length

/-- An SPDM session is established on a transport of a host port. -/
def sessionOn (s : State) (id port : Nat) : Bool := s.wts.sessions.any (fun x => x.id == id && x.port == port)

/-- A map key (classes 3 and 4): the package's key of the class is replaced. -/
def installMapKey (cls : Nat) (b : Bytes) (s : State) : CmdOut :=
  if numAt b 0 1 ≠ 4 then refuseCmd 0x0102 s
  else if anyJob s then refuseCmd 0x0301 s
  else
    let ks := s.keys.filter (fun x => x.cls != cls)
    if 256 ≤ ks.length then refuseCmd 0x0200 s else doneCmd [] (setKeys (ks ++ [⟨cls, 0, 0, b⟩]) s)

/-- A MODEL or FALLOW key: `io.crypt` is what unwrapping under K_wrap gives (none: the tag fails). -/
def installKey (e : Entry) (io : HostIo) (s : State) : CmdOut :=
  if !sessionOn s (arg e 8 4) (srcPort s e.src) then refuseCmd 0x04A5 s
  else match io.crypt with
    | none => ⟨0x04A2, [], [], cryEvent Reg.CRY_ERR_AUTH 1 e.part s, none⟩
    | some k =>
      if s.keys.any (fun x => decide (x.cls < 3) && x.owner == e.part && x.keyId == arg e 12 4) then refuseCmd 0x0300 s
      else if 256 ≤ s.keys.length then refuseCmd 0x0200 s
      else doneCmd [] (setKeys (s.keys ++ [⟨arg e 16 1, e.part, arg e 12 4, k⟩]) s)

/-- KEY_INSTALL (R397, Table 18-12). -/
def cmdKeyInstall (e : Entry) (io : HostIo) (s : State) : CmdOut :=
  let c := arg e 16 1
  if 4 < c then refuseCmd 0x0102 s
  else if (decide (3 ≤ c) && !isMgmt e) || ((c == 1 || c == 2) && isMgmt e) then refuseCmd 0x0400 s
  else if c = 0 then
    (if arg e 32 4 ≠ 0 then refuseCmd 0x0104 s
     else if s.keys.any (fun x => decide (x.cls < 3) && x.owner == e.part && x.keyId == arg e 12 4) then
       doneCmd [] (setKeys (s.keys.filter (fun x => !(decide (x.cls < 3) && x.owner == e.part && x.keyId == arg e 12 4))) s)
     else refuseCmd 0x04A1 s)
  else if arg e 32 4 ≠ (if 3 ≤ c then 97 else 60) then refuseCmd 0x0104 s
  else match inputOf e io (arg e 32 4) with
    | none => refuseCmd 0x0500 s
    | some b => if b.length ≠ arg e 32 4 then refuseCmd 0x0500 s
                else if 3 ≤ c then installMapKey c b s else installKey e io s

/-- KEY_INSTALL. -/
def execKeyInstall (e : Entry) (io : HostIo) (s : State) : Host.Outcome State Fault Refusal :=
  runRow Row.keyInstall cmdKeyInstall e io s

/-- KEY_DELETE: KEY_INSTALL with class 0. -/
def execKeyDelete (e : Entry) (io : HostIo) (s : State) : Host.Outcome State Fault Refusal :=
  runRow Row.keyInstall cmdKeyInstall e io s

/-! ### Replacement as every package keeps it (R408–R411) -/

/-- The replacement of a partition's job. -/
def replOf (s : State) (p : Nat) : Option Replacement := tget none s.wts.repl p

/-- LOESS shows the replacement (Table 16-11). -/
def showRepl (p : Nat) (s : State) : State :=
  match replOf s p with
  | some r =>
    let own := match (part s p).slice with | some b => b.rank | none => 0
    wr (wr (wr s (Reg.LOESS_REPL_STATE p) r.stage) (Reg.LOESS_UNITS_DONE p) (r.units.filter (fun u => u.1 == own)).length)
      (Reg.LOESS_REPL_EPOCH p) r.epoch
  | none => wr (wr (wr s (Reg.LOESS_REPL_STATE p) 0) (Reg.LOESS_UNITS_DONE p) 0) (Reg.LOESS_REPL_EPOCH p) 0

/-- Set the replacement of a partition. -/
def setRepl (p : Nat) (r : Option Replacement) (s : State) : State :=
  showRepl p (modWts (fun w => { w with repl := tput none w.repl p r }) s)

/-- A physical range is covered by physical ranges: where the cover from `a` reaches. -/
def coverFrom (rs : List (Nat × Nat)) : Nat → Nat → Nat
  | 0, a => a
  | fuel + 1, a =>
    match rs.find? (fun r => decide (r.1 ≤ a) && decide (a < r.1 + r.2)) with
    | some r => coverFrom rs fuel (r.1 + r.2)
    | none => a

/-- Every byte of a physical range lies in one of the ranges. -/
def coveredAll (rs : List (Nat × Nat)) (a n : Nat) : Bool := decide (a + n ≤ coverFrom rs (rs.length + 1) a)

/-- The physical ranges of the VERIFIED records of a partition and epoch. -/
def verifiedRanges (s : State) (p epoch : Nat) : List (Nat × Nat) :=
  ((s.wts.recs.filter (fun r => r.part == p && r.epoch == epoch && !r.failed)).map (fun r =>
    (pageCuts r.dst r.len).filterMap (fun c => (unitPhys s p c.1).map (fun x => (x, c.2))))).foldr (· ++ ·) []

/-- The byte range of a region entry (Table 16-8). -/
def regionSpan (d e : Bytes) : Nat × Nat :=
  (numAt e 0 8 % 2 ^ 48,
   (numAt e 16 4 % 2 ^ 24) * rowLen (numAt (tensorAt d (numAt e 8 4 % 2 ^ 20)) 0 1) (numAt e 24 4 % 2 ^ 18))

/-- The region entries of an image that meet a test on the tensor. -/
def regionsOf (im : Image) (f : Nat → Bool) : List Bytes :=
  ((List.range 12).map (fun n => (vexEntries im n).filter (fun e => f (numAt e 8 4 % 2 ^ 20)))).foldr (· ++ ·) []

/-- Unit `u` is complete on this package under an epoch (R410). -/
def unitComplete (s : State) (p epoch u : Nat) : Bool :=
  match (part s p).image with
  | some im =>
    let d := decl s p
    let us := unitAt d u
    let vs := verifiedRanges s p epoch
    (regionsOf im (fun t => decide (us.1 ≤ t) && decide (t < us.1 + us.2))).all
      (fun e => coveredAll vs (regionSpan d e).1 (regionSpan d e).2)
  | none => false

/-- A message to a member of a partition's slice and what it expects there (R355). -/
def memberTo (s : State) (p q : Nat) : CtlTo :=
  { srcPart := p, dstPart := q, slice := sliceOf s p,
    role := match (part s p).image with | some im => im.role | none => 255, epoch := (part s p).modelEpoch }

/-- The units that have just become complete are noted and reported to the lead (R410). -/
def reportUnits (p : Nat) (s : State) : State :=
  match replOf s p, (part s p).slice with
  | some r, some b =>
    let new := (List.range (nUnit (decl s p))).filter (fun u => !r.units.contains (b.rank, u) && unitComplete s p r.epoch u)
    let s := setRepl p (some { r with units := r.units ++ new.map (fun u => (b.rank, u)) }) s
    if b.rank = 0 then s
    else new.foldl (fun s u =>
      sendCtl (leadOf s p).1 0x0042 (memberTo s p (leadOf s p).2) 0xFFFFFFFF (leBytes 2 u ++ leBytes 6 0 ++ leBytes 8 r.epoch)
        true s) s
  | _, _ => s

/-- UNIT_DONE: the lead records a completed unit of a member. -/
def applyUnitDone (h : CtlHdr) (unit epoch : Nat) (s : State) : CtlAnswer × State :=
  match replOf s h.dstPart, rankOf s h.dstPart h.srcPkg h.srcPart with
  | some r, some k =>
    if r.epoch = epoch ∧ !r.units.contains (k, unit) then
      (ackWith 0, setRepl h.dstPart (some { r with units := r.units ++ [(k, unit)] }) s)
    else (ackWith 0, s)
  | _, _ => (ackWith 0, s)

/-- UNIT_DONE. -/
def execUnitDone (h : CtlHdr) (unit epoch : Nat) (s : State) : Host.Outcome State Fault Refusal :=
  .next (applyCtl h (applyUnitDone h unit epoch) s)

/-! ### Shards (R399–R401) -/

/-- A shard load's outcome (WEIGHT_SHARD_DONE). -/
def shardDone (id p st shard : Nat) (s : State) : State :=
  outcome id 0x8001 p (leBytes 4 id ++ leBytes 2 st ++ leBytes 2 0 ++ leBytes 4 shard) [] s

/-- A load has failed after its command: the destination is zeroed, WP cleared, and no record stands on it. -/
def shardFail (id p dst len st shard : Nat) (s : State) : State :=
  let n := if 64 ≤ len ∧ len ≤ 2 ^ 30 then min len (rangePages s p * pageBytes - dst) else 0
  let s := discardRecs (fun r => r.part == p && decide (r.dst < dst + n) && decide (dst < r.dst + r.len)) s
  shardDone id p st shard (bump (setWp p dst n false (zeroPages p dst n s)) Reg.CRY_SHARD_FAIL_CNT 1)

/-- The header's own form (0x04A4). -/
def shardHeaderOk (s : State) (p : Nat) (h : Bytes) : Bool :=
  let len := numAt h 40 8
  numAt h 0 4 == 0x53485244 && numAt h 4 1 == 1 && decide (numAt h 5 1 ≤ 1) && numAt h 6 2 == 0 && numAt h 36 4 == 0 &&
    numAt h 60 4 == 0 && numAt h 96 160 == 0 && decide (64 ≤ len) && decide (len ≤ 2 ^ 30) && len % 64 == 0 &&
    bit (numAt h 5 1) 0 == v6Compat (decl s p) && (bit (numAt h 5 1) 0 || numAt h 64 32 == 0)

/-- The checks at the header read (Table 16-7), for the epoch that the load must carry (0: any above the bound one). -/
def shardHeaderStatus (s : State) (p dst epoch : Nat) (h : Bytes) : Option Nat :=
  if !shardHeaderOk s p h then some 0x04A4
  else if numAt h 8 8 ≠ (part s p).modelId ∨ (part s p).modelId = 0 ∧ (part s p).modelEpoch = 0 ∨
      (epoch ≠ 0 ∧ numAt h 16 8 ≠ epoch) ∨ (epoch = 0 ∧ numAt h 16 8 ≤ (part s p).modelEpoch) then some 0x0381
  else if (keyOf s 1 p (numAt h 24 4)).isNone then some 0x04A1
  else if rangePages s p * pageBytes < dst + numAt h 40 8 then some 0x0102
  else none

/-- An accepted load: its header is read and checked; the stream starts where it passes (R401). -/
def startLoad (id p dst epoch src : Nat) (hdr : Option Bytes) (s : State) : State :=
  match hdr with
  | none => cryEvent Reg.CRY_ERR_IO 3 p (shardFail id p dst 0 0x05A1 0 s)
  | some h =>
    match shardHeaderStatus s p dst epoch h with
    | some st => shardFail id p dst (numAt h 40 8) st (numAt h 28 4) s
    | none =>
      let len := numAt h 40 8
      let s := discardRecs (fun r => r.part == p && decide (r.dst < dst + len) && decide (dst < r.dst + r.len)) s
      modWts (fun w => { w with loads := w.loads ++ [⟨id, p, dst, h, (keyOf s 1 p (numAt h 24 4)).getD [], src⟩] })
        (setWp p dst len true s)

/-- A destination meets a load in progress. -/
def meetsLoad (s : State) (p dst len : Nat) : Bool :=
  s.wts.loads.any (fun l => l.part == p && decide (l.dst < dst + max 1 len) && decide (dst < l.dst + numAt l.hdr 40 8))

/-- The first 256 bytes of a shard's source; none where the read fails. -/
def shardHeader (e : Entry) (io : HostIo) : Option Bytes :=
  match (if arg e 8 1 = 0 then inputOf e io 256 else io.rd.map (·.take 256)) with
  | some b => if b.length = 256 then some b else none
  | none => none

/-- The checks at the command, and the load (Table 16-7). -/
def loadCommand (op epoch : Nat) (busy : Bool) (e : Entry) (io : HostIo) (s : State) : CmdOut :=
  let dst := arg e 24 8
  let h := shardHeader e io
  let len := match h with | some b => numAt b 40 8 | none => 0
  if busy || meetsLoad s e.part dst len then refuseCmd 0x0301 s
  else if dst % pageBytes ≠ 0 then refuseCmd 0x0103 s
  else if 8192 ≤ s.wts.recs.length + s.wts.loads.length then refuseCmd 0x0200 s
  else if 2 < arg e 8 1 then refuseCmd 0x0102 s
  else
    let n := newOp op e e.part s
    pendCmd n.1 [] (startLoad n.1 e.part dst epoch (arg e 8 1) h n.2)

/-- WEIGHT_LOAD_SHARD: `io.rd` is what the read of the shard's header gave. -/
def cmdWeightLoadShard (e : Entry) (io : HostIo) (s : State) : CmdOut :=
  loadCommand 0x0302 (part s e.part).modelEpoch (part s e.part).job.busy e io s

/-- WEIGHT_LOAD_SHARD. -/
def execWeightLoadShard (e : Entry) (io : HostIo) (s : State) : Host.Outcome State Fault Refusal :=
  runRow Row.weightLoadShard cmdWeightLoadShard e io s

/-- REPLACE_LAYER (R410): one shard of the new epoch at the barrier. A member learns the epoch from its first shard. -/
def cmdReplaceLayer (e : Entry) (io : HostIo) (s : State) : CmdOut :=
  match replOf s e.part with
  | some r =>
    if r.stage ≠ 2 then refuseCmd 0x0300 s
    else
      let o := loadCommand 0x0305 r.epoch false e io s
      match shardHeader e io with
      | some h =>
        if r.epoch = 0 ∧ o.status = 1 ∧ o.st.wts.loads.length = s.wts.loads.length + 1 then
          { o with st := setRepl e.part (some { r with epoch := numAt h 16 8 }) o.st }
        else o
      | none => o
  | none => refuseCmd 0x0300 s

/-- REPLACE_LAYER. -/
def execReplaceLayer (e : Entry) (io : HostIo) (s : State) : Host.Outcome State Fault Refusal :=
  runRow Row.replaceLayer cmdReplaceLayer e io s

/-- A load ends well: the plain text stands in the range, the rest of its last page is zero, and the record is VERIFIED. -/
def shardLoaded (l : ShardLoad) (pt : Bytes) (s : State) : State :=
  let len := numAt l.hdr 40 8
  let dig := bit (numAt l.hdr 5 1) 0
  let s := rangeWrite l.part l.dst pt (zeroPages l.part l.dst len s)
  let s := bump (bump s Reg.CRY_DEC_BYTE_CNT len) Reg.CRY_SHARD_OK_CNT 1
  let s := if dig then bump s Reg.CRY_HASH_BYTE_CNT len else s
  let r : ShardRec := ⟨l.part, l.dst, len, numAt l.hdr 28 4, numAt l.hdr 32 4, numAt l.hdr 16 8,
    if dig then some (numAt l.hdr 64 32) else none, false⟩
  reportUnits l.part (shardDone l.op l.part 0 (numAt l.hdr 28 4) (modWts (fun w => { w with recs := w.recs ++ [r] }) s))

/-- SHARD_INGRESS_DONE: the stream of a load ends with cipher text and tag, or its source read fails. -/
def execShardIngressDone (op : Nat) (body : Option Bytes) (s : State) : Host.Outcome State Fault Refusal :=
  match s.wts.loads.find? (fun l => l.op == op) with
  | none => .next s
  | some l =>
    let s := modWts (fun w => { w with loads := w.loads.filter (fun x => x.op != op) }) s
    let len := numAt l.hdr 40 8
    let fail (st : Nat) (s : State) : State := shardFail op l.part l.dst len st (numAt l.hdr 28 4) s
    match body with
    | none => .next (cryEvent Reg.CRY_ERR_IO 3 l.part (fail 0x05A1 s))
    | some b =>
      if b.length ≠ len + 16 then .next (cryEvent Reg.CRY_ERR_IO 3 l.part (fail 0x05A1 s))
      else match gcmOpen l.key (bytesAt l.hdr 48 12) l.hdr (b.take len) (b.drop len) with
        | none => .next (cryEvent Reg.CRY_ERR_AUTH 1 l.part (fail 0x04A2 s))
        | some pt =>
          if bit (numAt l.hdr 5 1) 0 ∧ sha256 pt ≠ BitVec.ofNat 256 (numAt l.hdr 64 32) then
            .next (cryEvent Reg.CRY_ERR_DIGEST 2 l.part (fail 0x04A0 s))
          else .next (shardLoaded l pt s)

/-! ### V6 rechecks (R403) -/

/-- One record is read again through translation, hashed and compared. Answers whether it failed. -/
def recheckOne (r : ShardRec) (s : State) : Bool × State :=
  match r.digest with
  | none => (false, s)
  | some d =>
    let x := rangeRead s r.part r.dst r.len
    let s := bump (bump s Reg.CRY_RECHECK_CNT 1) Reg.CRY_HASH_BYTE_CNT r.len
    if !x.2 ∧ sha256 x.1 = BitVec.ofNat 256 d then (false, s)
    else
      let idx := nextIdx s
      let s := modWts (fun w => { w with recs := w.recs.map (fun y => if y = r then { y with failed := true } else y) }) s
      let s := report (mkRec s 14 3 1 6 0x800F 20 r.part 0 0x05A0 r.dst []) true s
      let s := cryEvent Reg.CRY_ERR_RECHECK 4 r.part s
      let s := raiseWith 6 0x800F r.part (fun _ => leBytes 4 r.shard ++ leBytes 4 r.unit ++ leBytes 4 0 ++ leBytes 4 idx) [] s
      (true, stopJob s r.part 0x05A0)

/-- A record is rechecked now: it is VERIFIED, and its partition is not being replaced (R412). -/
def recheckable (s : State) (r : ShardRec) : Bool := !r.failed && r.digest.isSome && (replOf s r.part).isNone

/-- V6_RECHECK_TIMER. `ue` are words that the reads find uncorrectable. -/
def execV6RecheckTimer (ue : List Nat) (s : State) : Host.Outcome State Fault Refusal :=
  if rd s Reg.CRY_V6_RECHECK_S = 0 then .next s
  else .next ((s.wts.recs.filter (recheckable s)).foldl (fun s r => (recheckOne r s).2) (takeUe ue s))

/-! ### Vexsum windows (R406, R407) -/

/-- The window a frame lies in. -/
def windowNo (s : State) (p : Nat) : Nat := frameNo s / 2 ^ rd s (Reg.LOESS_WINDOW_LOG2 p)

/-- Frames up to which a window's digests may come: 2 × FILL_FRAMES after its end. -/
def windowLimit (s : State) (p w : Nat) : Nat :=
  (w + 1) * 2 ^ rd s (Reg.LOESS_WINDOW_LOG2 p) + 2 * rd s (Reg.LOESS_FILL_FRAMES p)

/-- Write the configuration of REPLICA_COMPARE_CONFIG (bytes 8–25 of its entry). -/
def writeVexCfg (p : Nat) (b : Bytes) (s : State) : State :=
  let s := wr (wr s (Reg.LOESS_VXS_EN p) (bits (numAt b 0 1) 0 1)) (Reg.LOESS_ACTION p) (bits (numAt b 0 1) 1 1)
  let s := wr (wr s (Reg.LOESS_WINDOW_LOG2 p) (numAt b 1 1)) (Reg.LOESS_FILL_FRAMES p) (numAt b 2 2)
  (List.range 7).foldl (fun s i =>
    let k := numAt b (4 + 2 * i) 1
    wr (wr (wrb s (Reg.LOESS_PEER_V p i) (k != 255)) (Reg.LOESS_PEER_PKG p i) (if k = 255 then 0 else k))
      (Reg.LOESS_PEER_PART p i) (if k = 255 then 0 else numAt b (5 + 2 * i) 1)) s

/-- REPLICA_COMPARE_CONFIG: package 255 names no peer. -/
def cmdReplicaCompareConfig (e : Entry) (_ : HostIo) (s : State) : CmdOut :=
  if arg e 9 1 < 8 ∨ 16 < arg e 9 1 ∨ 4095 < arg e 10 2 ∨ (List.range 7).any (fun i =>
      let k := arg e (12 + 2 * i) 1
      k != 255 && (decide (143 < k) || decide (31 < arg e (13 + 2 * i) 1))) then refuseCmd 0x0102 s
  else
    let b := bytesAt e.args 0 18
    if (part s e.part).job = .running then doneCmd [] (modVex s e.part (fun v => { v with cfg := some b }))
    else doneCmd [] (writeVexCfg e.part b s)

/-- REPLICA_COMPARE_CONFIG. -/
def execReplicaCompareConfig (e : Entry) (io : HostIo) (s : State) : Host.Outcome State Fault Refusal :=
  runRow Row.replicaCompareConfig cmdReplicaCompareConfig e io s

/-- A partition's windows and fills are void while its job does not run or its weights are being replaced (R406). -/
def voidVex (p : Nat) (s : State) : State :=
  if vexPart s p = VexPart.empty then s
  else modVex s p (fun v => { v with void := true, fills := v.fills.map (fun f => if f.op = none then { f with void := true } else f) })

/-- Vexsum starts with a job: the first window is void, as the job has not run throughout it. -/
def startVex (p : Nat) (s : State) : State :=
  modVex s p (fun v => { v with window := windowNo s p, void := true, stks := [], digests := [] })

/-- VEXSUM_WINDOW_END: the window that has ended is filled, and the next one begins. -/
def execVexsumWindowEnd (p : Nat) (s : State) : Host.Outcome State Fault Refusal :=
  let v := vexPart s p
  if 32 ≤ p ∨ (part s p).job ≠ .running ∨ windowNo s p ≤ v.window then .next s
  else
    let f : VexFill :=
      { window := v.window, unit := windowUnit s p v.window, op := none, stks := v.stks,
        waiting := List.range 12, frame := frameNo s, void := v.void || (replOf s p).isSome }
    let s := if rdb s (Reg.LOESS_VXS_EN p) then modVex s p (fun v => { v with fills := v.fills ++ [f] }) else s
    let s := match v.cfg with
      | some b => writeVexCfg p b (modVex s p (fun v => { v with cfg := none }))
      | none => s
    .next (modVex s p (fun v => { v with window := windowNo s p, void := (replOf s p).isSome, stks := [] }))

/-- WEIGHT_VERIFY (R403): an immediate recheck of the records of the units named, and a fill of every group of each. -/
def cmdWeightVerify (e : Entry) (_ : HostIo) (s : State) : CmdOut :=
  let p := e.part
  let u := arg e 8 2
  let n := arg e 10 2
  if (replOf s p).isSome then refuseCmd 0x03A0 s
  else if n = 0 ∨ nUnit (decl s p) < u + n then refuseCmd 0x0102 s
  else
    let o := newOp 0x0303 e p s
    let rs := o.2.wts.recs.filter (fun r => r.part == p && decide (u ≤ r.unit) && decide (r.unit < u + n) && recheckable o.2 r)
    let x := rs.foldl (fun (x : List Nat × State) r =>
      let y := recheckOne r x.2
      (if y.1 then x.1 ++ [r.unit] else x.1, y.2)) ([], o.2)
    let fs : List VexFill := (List.range n).map (fun i =>
      { window := 0, unit := u + i, op := some o.1, stks := [], waiting := List.range 12, frame := frameNo s,
        void := x.1.contains (u + i) })
    pendCmd o.1 [] (modVex x.2 p (fun v => { v with fills := v.fills ++ fs }))

/-- WEIGHT_VERIFY. -/
def execWeightVerify (e : Entry) (io : HostIo) (s : State) : Host.Outcome State Fault Refusal :=
  runRow Row.weightVerify cmdWeightVerify e io s

/-- A digest reaches the lead; one for a window whose limit has passed comes too late. -/
def addDigest (p : Nat) (d : VexDigest) (s : State) : State :=
  if (vexPart s p).digests.any (fun x => x.window == d.window && x.who == d.who) || decide (windowLimit s p d.window < frameNo s) then s
  else modVex s p (fun v => { v with digests := v.digests ++ [d] })

/-- The package digests of a window that the lead holds, in rank order; none where one is missing. -/
def packageDigests (s : State) (p w : Nat) : Option (List VexDigest) :=
  let ds := (List.range (membersOf s p).length).map (fun k => (vexPart s p).digests.find? (fun d => d.window == w && d.who == k))
  if ds.all (·.isSome) then some (ds.filterMap id) else none

/-- The peers of a partition: index, package and partition. -/
def vexPeers (s : State) (p : Nat) : List (Nat × Nat × Nat) :=
  ((List.range 7).filter (fun i => rdb s (Reg.LOESS_PEER_V p i))).map
    (fun i => (i, rd s (Reg.LOESS_PEER_PKG p i), rd s (Reg.LOESS_PEER_PART p i)))

/-- The slice digest and whether it is void. -/
def sliceDigest (ds : List VexDigest) : Nat × Bool :=
  (ds.foldl (fun a d => (a + d.digest) % 2 ^ 128) 0, ds.any (·.void))

/-- Once the lead holds every package digest of a window, it sends the slice digest to the leads of its peers (R407). -/
def shareDigest (p w unit : Nat) (s : State) : State :=
  match packageDigests s p w with
  | none => s
  | some ds =>
    let x := sliceDigest ds
    let body := leBytes 2 unit ++ leBytes 6 w ++ leBytes 1 (bnat x.2) ++ leBytes 7 0 ++ leBytes 8 (part s p).modelId ++
      leBytes 8 (part s p).modelEpoch ++ leBytes 16 x.1
    (vexPeers s p).foldl (fun s k =>
      sendCtl k.2.1 0x0041 { kaolinTo with srcPart := p, dstPart := k.2.2 } 0xFFFFFFFF body true s) s

/-- The fill of the last stack is done: the package digest goes to the lead, or the outcome of WEIGHT_VERIFY is raised. -/
def finishFill (p : Nat) (f : VexFill) (s : State) : State :=
  let sum := (List.range 12).foldl (fun a n => (a + (tget VexStack.empty f.stks n).sum) % 2 ^ 128) 0
  let s := modVex s p (fun v => { v with fills := v.fills.filter (· != f) })
  match f.op with
  | some id =>
    let st := if f.void then 0x05A0 else 0
    let pay := leBytes 4 id ++ leBytes 2 st ++ leBytes 2 f.unit
    if (vexPart s p).fills.any (fun g => g.op == some id) then raiseWith 0 0x8002 p (fun _ => pay) [leBytes 16 sum] s
    else outcome id 0x8002 p pay [leBytes 16 sum] s
  | none =>
    match (part s p).slice with
    | none => s
    | some b =>
      if b.rank = 0 then shareDigest p f.window f.unit (addDigest p ⟨f.window, f.unit, 0, sum, f.void⟩ s)
      else
        let s := if f.void then bump s (Reg.LOESS_WIN_VOID_CNT p) 1 else s
        sendCtl (leadOf s p).1 0x0040 (memberTo s p (leadOf s p).2) 0xFFFFFFFF
          (leBytes 2 f.unit ++ leBytes 6 f.window ++ leBytes 1 (bnat f.void) ++ leBytes 7 0 ++ leBytes 16 sum) true s

/-- One unseen group is read and added; a group with an uncorrectable word adds a value that the spec leaves open. -/
def fillGroup (p : Nat) (x : Nat × State) (g : VexGroup) : Nat × State :=
  if anyBad x.2 g.scaleAt 2 || anyBad x.2 g.fieldAt g.len then
    let d := draw 128 (memUe g.fieldAt 21 p false x.2)
    ((x.1 + d.1.toNat) % 2 ^ 128, d.2)
  else ((x.1 + groupValue x.2 p g) % 2 ^ 128, x.2)

/-- VEXSUM_FILL_DONE: a stack has read every unseen group of the unit of the oldest fill that waits for it. -/
def execVexsumFillDone (p stack : Nat) (ue : List Nat) (s : State) : Host.Outcome State Fault Refusal :=
  match (vexPart s p).fills.find? (fun f => f.waiting.contains stack) with
  | none => .next s
  | some f =>
    let old := tget VexStack.empty f.stks stack
    let gs := (unitGroups s p stack f.unit (fun _ _ => true)).filter (fun g => !old.seen.contains g.num)
    let x := gs.foldl (fillGroup p) (old.sum, takeUe ue s)
    let s := bump x.2 (Reg.LOESS_FILL_GROUP_CNT p) gs.length
    let late : Bool := f.op == none && decide (f.frame + rd s (Reg.LOESS_FILL_FRAMES p) < frameNo s)
    let s := if late then loessEvent Reg.LOESS_EV_FILL_LATE 2 p s else s
    let g : VexFill := { f with stks := tput VexStack.empty f.stks stack ⟨old.seen ++ gs.map (·.num), x.1, [], 0⟩,
                                waiting := f.waiting.filter (· != stack), void := f.void || late }
    let s := modVex s p (fun v => { v with fills := v.fills.map (fun y => if y = f then g else y) })
    .next (if g.waiting.isEmpty then finishFill p g s else s)

/-- PKG_DIGEST: the lead adds a package's digest. -/
def applyPkgDigest (h : CtlHdr) (unit w : Nat) (void : Bool) (d : Nat) (s : State) : CtlAnswer × State :=
  match rankOf s h.dstPart h.srcPkg h.srcPart with
  | some k => (ackWith 0, shareDigest h.dstPart w unit (addDigest h.dstPart ⟨w, unit, k, d, void⟩ s))
  | none => (ackWith 0x0400, s)

/-- PKG_DIGEST. -/
def execPkgDigest (h : CtlHdr) (unit window : Nat) (void : Bool) (digest : Nat) (s : State) : Host.Outcome State Fault Refusal :=
  .next (applyCtl h (applyPkgDigest h unit window void digest) s)

/-- SLICE_DIGEST: a peer takes part only with the same MODEL_ID and model epoch, and in time. -/
def applySliceDigest (h : CtlHdr) (unit w : Nat) (void : Bool) (mid epoch d : Nat) (s : State) : CtlAnswer × State :=
  let p := h.dstPart
  match (vexPeers s p).find? (fun k => k.2.1 == h.srcPkg && k.2.2 == h.srcPart) with
  | some k =>
    if mid = (part s p).modelId ∧ epoch = (part s p).modelEpoch ∧ unit = windowUnit s p w then
      (ackWith 0, addDigest p ⟨w, unit, 256 + k.1, d, void⟩ s)
    else (ackWith 0, s)
  | none => (ackWith 0x0400, s)

/-- SLICE_DIGEST. -/
def execSliceDigest (h : CtlHdr) (unit window : Nat) (void : Bool) (modelId epoch digest : Nat) (s : State) :
    Host.Outcome State Fault Refusal :=
  .next (applyCtl h (applySliceDigest h unit window void modelId epoch digest) s)

/-- The reference digest of a unit, where the model epoch carries a table. -/
def referenceOf (s : State) (p unit : Nat) : Option Nat :=
  let r := tget (0, []) s.wts.refs p
  if r.1 = (part s p).modelEpoch ∧ 16 * (unit + 1) ≤ r.2.length then some (numAt r.2 (16 * unit) 16) else none

/-- The value that a strict majority of the digests compared holds. -/
def majority (ds : List Nat) : Option Nat := ds.find? (fun d => decide (ds.length < 2 * (ds.filter (· == d)).length))

/-- Report a mismatch (R407): its bit, counter, record and event with every package digest. -/
def vexMismatch (p w unit S ref : Nat) (ds : List VexDigest) (f : Nat → Field) (b : Nat) (s : State) : State :=
  let idx := nextIdx s
  let s := report (mkRec s 14 3 1 7 0x800E 21 p 0 0x05E1 unit []) true s
  let s := loessEvent f b p (bump s (Reg.LOESS_MISMATCH_CNT p) 1)
  let pairs := (List.range ((ds.length + 1) / 2)).map (fun i => joinBytes ((bytesOf ds).drop (2 * i) |>.take 2))
  raiseWith 7 0x800E p (fun _ => leBytes 2 unit ++ leBytes 6 w ++ leBytes 4 0 ++ leBytes 4 idx)
    ((leBytes 16 S ++ leBytes 16 ref) :: pairs) s
where
  /-- The digests as 16-byte strings. -/
  bytesOf (ds : List VexDigest) : List Bytes := ds.map (fun d => leBytes 16 d.digest)

/-- The comparison of a complete slice digest (R407). -/
def compareDigest (p w unit : Nat) (ds : List VexDigest) (s : State) : State :=
  let S := (sliceDigest ds).1
  let peers := (vexPart s p).digests.filter (fun d => d.window == w && decide (256 ≤ d.who) && !d.void)
  let all := S :: peers.map (·.digest)
  let s := bump s (Reg.LOESS_WIN_CMP_CNT p) 1
  let s := wr (wr s (Reg.LOESS_LAST_UNIT p) unit) (Reg.LOESS_LAST_WINDOW p) w
  let s := (List.range 4).foldl (fun s i => wr s (Reg.LOESS_LAST_DIGEST p i) (bits S (32 * i) 32)) s
  let s := if peers.length < (vexPeers s p).length then loessEvent Reg.LOESS_EV_PEER_LATE 3 p s else s
  let stop (s : State) : State := if rdb s (Reg.LOESS_ACTION p) then stopJob s p 0x05E1 else s
  match referenceOf s p unit with
  | some r =>
    let s := if S = r then s else stop (vexMismatch p w unit S r ds Reg.LOESS_EV_REF_MISMATCH 1 s)
    match majority all with
    | some m => if S = m then s else vexMismatch p w unit S r ds Reg.LOESS_EV_MISMATCH 0 s
    | none => vexMismatch p w unit S r ds Reg.LOESS_EV_MISMATCH 0 s
  | none =>
    match majority all with
    | some m => if S = m then s else stop (vexMismatch p w unit S 0 ds Reg.LOESS_EV_MISMATCH 0 s)
    | none => vexMismatch p w unit S 0 ds Reg.LOESS_EV_MISMATCH 0 s

/-- VEXSUM_COMPARE on the lead: window `w` is complete with every peer's digest or past its limit; without every package
digest in time, or with a void one, the window is void. -/
def execVexsumCompare (p w : Nat) (s : State) : Host.Outcome State Fault Refusal :=
  if 32 ≤ p ∨ !isLead s p then .next s
  else
    let past : Bool := decide (windowLimit s p w < frameNo s)
    let here := (vexPart s p).digests.filter (fun d => d.window == w)
    let peersIn : Bool := (vexPeers s p).all (fun k => here.any (fun d => d.who == 256 + k.1))
    let drop (s : State) : State := modVex s p (fun v => { v with digests := v.digests.filter (fun d => d.window != w) })
    match packageDigests s p w with
    | some ds =>
      if !past && !peersIn then .next s
      else if (sliceDigest ds).2 then .next (drop (bump s (Reg.LOESS_WIN_VOID_CNT p) 1))
      else .next (drop (compareDigest p w (windowUnit s p w) ds s))
    | none => .next (if past && !here.isEmpty then drop (bump s (Reg.LOESS_WIN_VOID_CNT p) 1) else s)

end Sys2Proof.Machine
end

