-- ==== Sys2Proof/Machine/Serve.lean ====
section
/-!
DEFINITION. The serving engine's tables (chapter 14): records (Tables 14-1, 14-2), slots and their states (R338, R343), the
SERVING section (R445), KV pages and page tables (R183–R186), stream rings (R362), and the commands REQ_QUERY, REQ_CANCEL,
QUEUE_CONFIG, STREAM_BIND and ADMISSION_CONFIG.
-/

namespace Sys2Proof.Machine

/-- Change the serving engine. -/
def modSrv (f : Serving → Serving) (s : State) : State := { s with srv := f s.srv }

/-! ### Records (R339, R340) -/

/-- The 64 bytes of a request record. -/
def reqBytes (r : ReqRec) : Bytes :=
  leBytes 8 (r.state + r.cause * 2 ^ 4 + r.prio * 2 ^ 8 + bnat r.urgent * 2 ^ 11 + r.role * 2 ^ 12 + bnat r.xepoch * 2 ^ 14 +
    bnat r.keep * 2 ^ 15 + r.queue * 2 ^ 16 + r.part * 2 ^ 22 + r.gen * 2 ^ 32 + r.status * 2 ^ 48) ++
  leBytes 8 r.session ++ leBytes 8 (r.deadline + r.ring * 2 ^ 48) ++
  leBytes 8 (r.promptLen + r.genLen * 2 ^ 24 + r.epoch * 2 ^ 48) ++
  leBytes 8 (r.ptRoot + r.ctxLen * 2 ^ 36 + r.bucket * 2 ^ 61) ++ leBytes 8 r.samplerCtr ++
  leBytes 8 (r.ttftLast + r.ttftMax * 2 ^ 24 + r.tbtLast * 2 ^ 48) ++
  leBytes 8 (r.ttftAvg + r.tbtMax * 2 ^ 24 + r.tbtAvg * 2 ^ 40)

/-- The request record in 64 bytes. -/
def reqOf (b : Bytes) : ReqRec :=
  let w (i : Nat) : Nat := numAt b (8 * i) 8
  { state := bits (w 0) 0 4, cause := bits (w 0) 4 4, prio := bits (w 0) 8 3, urgent := bit (w 0) 11,
    role := bits (w 0) 12 2, xepoch := bit (w 0) 14, keep := bit (w 0) 15, queue := bits (w 0) 16 6,
    part := bits (w 0) 22 5, gen := bits (w 0) 32 16, status := bits (w 0) 48 16, session := w 1,
    deadline := bits (w 2) 0 48, ring := bits (w 2) 48 16, promptLen := bits (w 3) 0 24, genLen := bits (w 3) 24 24,
    epoch := bits (w 3) 48 16, ptRoot := bits (w 4) 0 36, ctxLen := bits (w 4) 36 25, bucket := bits (w 4) 61 3,
    samplerCtr := w 5, ttftLast := bits (w 6) 0 24, ttftMax := bits (w 6) 24 24, tbtLast := bits (w 6) 48 16,
    ttftAvg := bits (w 7) 0 24, tbtMax := bits (w 7) 24 16, tbtAvg := bits (w 7) 40 16 }

/-- The 64 bytes of a control record. -/
def ctlBytes (c : CtlRec) : Bytes :=
  leBytes 8 c.key ++ leBytes 2 c.tau ++ leBytes 2 c.topk ++ leBytes 2 c.topp ++ leBytes 2 c.nstop ++
    joinBytes ((List.range 4).map (fun i => leBytes 4 (c.stops.getD i 0))) ++ leBytes 4 c.maxNew ++ leBytes 4 c.kvResv ++
    leBytes 8 c.submit ++ leBytes 2 c.peerJidx ++ leBytes 2 c.peerGen ++ leBytes 4 c.peerSlice ++ leBytes 8 c.prompt

/-- The control record in 64 bytes. -/
def ctlOf (b : Bytes) : CtlRec :=
  { key := numAt b 0 8, tau := numAt b 8 2, topk := numAt b 10 2, topp := numAt b 12 2, nstop := numAt b 14 1 % 8,
    stops := (List.range 4).map (fun i => numAt b (16 + 4 * i) 4), maxNew := numAt b 32 3, kvResv := numAt b 36 4 % 2 ^ 25,
    submit := numAt b 40 8, peerJidx := numAt b 48 2, peerGen := numAt b 50 2, peerSlice := numAt b 52 1,
    prompt := numAt b 56 8 }

/-- States of Table 14-1. -/
def stFree : Nat := 0
/-- QUEUED. -/
def stQueued : Nat := 1
/-- PREFILL. -/
def stPrefill : Nat := 2
/-- SHIP. -/
def stShip : Nat := 3
/-- DECODE. -/
def stDecode : Nat := 4
/-- HOLD. -/
def stHold : Nat := 5
/-- FALLOW. -/
def stFallow : Nat := 6
/-- DRAIN. -/
def stDrain : Nat := 7
/-- DONE. -/
def stDone : Nat := 8
/-- FAULT. -/
def stFault : Nat := 9

/-! ### Slots (R338) -/

/-- Slot `n` of the package. -/
def slotOf (s : State) (n : Nat) : Slot := tget Slot.free s.srv.slots n

/-- First slot and slot count of a partition. -/
def slotBase (s : State) (p : Nat) : Nat := rd s (Reg.SRV_P_SLOT_BASE p)
/-- SLOT_COUNT. -/
def slotCount (s : State) (p : Nat) : Nat := rd s (Reg.SRV_P_SLOT_COUNT p)

/-- The slot numbers of a partition that are not FREE. -/
def liveSlots (s : State) (p : Nat) : List Nat :=
  (s.srv.slots.filter (fun e => decide (slotBase s p ≤ e.1) && decide (e.1 < slotBase s p + slotCount s p) &&
    e.2.req.state != 0)).map (·.1)

/-- The slots of a partition in a state, by number. -/
def slotsIn (s : State) (p st : Nat) : List Nat := (liveSlots s p).filter (fun n => (slotOf s n).req.state == st)

/-- The handle of a slot on the lead. -/
def handleOf (s : State) (n : Nat) : Nat := n + (slotOf s n).req.gen * 2 ^ 16

/-- Store a slot of partition `p`: the state counters and the queue's DEPTH follow. -/
def setSlot (p n : Nat) (x : Slot) (s : State) : State :=
  let o := slotOf s n
  let s := modSrv (fun v => { v with slots := tput Slot.free v.slots n x }) s
  let dec (f : Field) (s : State) : State := wr s f (rd s f - 1)
  let s := if o.req.state = stQueued then dec (Reg.SRV_Q_DEPTH o.req.queue) s else s
  let s := if x.req.state = stQueued then bump s (Reg.SRV_Q_DEPTH x.req.queue) 1 else s
  if o.req.state = x.req.state then s
  else
    let s := bump (dec (Reg.SRV_P_STATE_CNT p o.req.state) s) (Reg.SRV_P_STATE_CNT p x.req.state) 1
    let s := if x.req.state = stHold then bump s (Reg.SRV_P_HOLD_CNT p) 1 else s
    if o.req.state = stFree then dec Reg.SRV_FREE_SLOTS s
    else if x.req.state = stFree then bump s Reg.SRV_FREE_SLOTS 1 else s

/-- Change a slot in place. -/
def modSlot (p n : Nat) (f : Slot → Slot) (s : State) : State := setSlot p n (f (slotOf s n)) s

/-- A request event (REQ_STATE): handle, new state, HOLD_CAUSE, STATUS. -/
def reqEvent (p n : Nat) (s : State) : State :=
  let r := (slotOf s n).req
  raiseWith 3 0x8009 p (fun _ => leBytes 4 (handleOf s n) ++ leBytes 1 r.state ++ leBytes 1 r.cause ++ leBytes 2 r.status) [] s

/-- Move a request to a state; the lead raises REQ_STATE for HOLD, FALLOW, DONE and FAULT. -/
def toState (p n st : Nat) (f : Slot → Slot) (s : State) : State :=
  let x := f (slotOf s n)
  let s := setSlot p n { x with req := { x.req with state := st }, since := if 8 ≤ st then frameNo s else x.since } s
  if isLead s p && (st == stHold || st == stFallow || 8 ≤ st) then reqEvent p n s else s

/-- A set bit of SRV_ERR (codes 0x0Exx, source 3). -/
def srvEvent (f : Field) (b p : Nat) (s : State) : State := setEvent f 3 (0x0E00 + b) p 0 0 noRecord s

/-! ### The SERVING section (Table 17-9) -/

/-- The SERVING section of a partition's image, [] without one. -/
def srvSec (s : State) (p : Nat) : Bytes := jobSection s p 0x0E 255

/-- STEP_FRAMES, 1 at least. -/
def stepFrames (b : Bytes) : Nat := max 1 (numAt b 0 2)
/-- Decode rows B. -/
def decodeRows (b : Bytes) : Nat := numAt b 2 2
/-- The image serves a bucket. -/
def servesBucket (b : Bytes) (k : Nat) : Bool := bit (numAt b 4 1) k
/-- NLG. -/
def nlgOf (b : Bytes) : Nat := numAt b 5 1
/-- PAGE_PIECES. -/
def pagePieces (b : Bytes) : Nat := numAt b 6 2
/-- CTX_BUDGET. -/
def ctxBudget (b : Bytes) : Nat := numAt b 8 4
/-- PLAN_PIECES. -/
def planPieces (b : Bytes) : Nat := numAt b 12 2
/-- NRUN. -/
def nRun (b : Bytes) : Nat := numAt b 14 2
/-- BATCH_HOFS. -/
def batchHofs (b : Bytes) : Nat := numAt b 16 8
/-- RESULT_HOFS. -/
def resultHofs (b : Bytes) : Nat := numAt b 24 8
/-- Ship rate of target `i`. -/
def shipRate (b : Bytes) (i : Nat) : Nat := numAt b (32 + 2 * i) 2
/-- PASS_FRAMES of a bucket. -/
def passFrames (b : Bytes) (k : Nat) : Nat := max 1 (numAt b (128 + 16 * k) 2)
/-- ROWS of a bucket's run. -/
def runRows (b : Bytes) (k : Nat) : Nat := numAt b (130 + 16 * k) 2
/-- TOKENS_PER_ROW of a bucket. -/
def rowTokens (b : Bytes) (k : Nat) : Nat := numAt b (132 + 16 * k) 4
/-- The bucket of run `j` of the cyclic schedule; runs are numbered from 1. -/
def runBucket (b : Bytes) (j : Nat) : Nat := if nRun b = 0 then 0 else numAt b (256 + 4 * ((j + nRun b - 1) % nRun b)) 1
/-- Batch slots of a run of bucket `k`. -/
def runSlots (b : Bytes) (k : Nat) : Nat := runRows b k * rowTokens b k / 256
/-- KV placement of a layer group: first rank, rank count, context rank, SPREAD. -/
def kvPlace (b : Bytes) (lg : Nat) : Nat × Nat × Nat × Nat :=
  let e := bytesAt b (256 + 4 * nRun b + 8 * lg) 8
  (numAt e 0 2, max 1 (numAt e 2 2), numAt e 4 1, numAt e 5 1)

/-- The role of a partition's job: 0 PREFILL, 1 DECODE, 2 MIXED; 3 without a job. -/
def roleOf (s : State) (p : Nat) : Nat :=
  match (part s p).image with
  | some im => if (part s p).job.busy then im.role else 3
  | none => 3

/-- The bucket of a prompt length (Table 8-14). -/
def bucketOf (n : Nat) : Nat :=
  if n ≤ 256 then 0 else if n ≤ 1024 then 1 else if n ≤ 4096 then 2 else if n ≤ 16384 then 3 else if n ≤ 65536 then 4
  else if n ≤ 262144 then 5 else if n ≤ 1048576 then 6 else 7

/-- Positions of one pass of a bucket (R352): its upper bound, and 1,048,576 for bucket 7. -/
def passLen (k : Nat) : Nat := if 7 ≤ k then 1048576 else 256 * 4 ^ k

/-! ### KV geometry and placement (R183, R445) -/

/-- Row bytes R and page bytes of a declaration. -/
def kvRowBytes (d : Bytes) : Nat := latentRow (numAt d 9 1 % 16) (numAt d 9 1 / 16 % 4)
/-- 64 × G × R. -/
def kvPageBytes (d : Bytes) : Nat := 64 * numAt d 8 1 * kvRowBytes d

/-- This package's rank in the partition's slice. -/
def ownRank (s : State) (p : Nat) : Nat := match (part s p).slice with | some b => b.rank | none => 0

/-- The rank that holds page `lp` of layer group `lg`. -/
def kvRank (s : State) (p lg lp : Nat) : Nat :=
  let k := kvPlace (srvSec s p) lg
  k.1 + (lp / 2 ^ numAt (decl s p) 10 1 / 2 ^ k.2.2.2) % k.2.1

/-- Entries of the REGIONS section of a KIND: context, start and length. -/
def regionEntries (s : State) (p kind : Nat) : List (Nat × Nat × Nat) :=
  let b := jobSection s p 0x0A 255
  ((List.range (b.length / 24)).filter (fun i => numAt b (24 * i) 1 == kind)).map
    (fun i => (numAt b (24 * i + 1) 1, numAt b (24 * i + 8) 8, numAt b (24 * i + 16) 8))

/-- The runs of consecutive physical bytes behind a tiered range. -/
def physRuns (s : State) (p a n : Nat) : List (Nat × Nat) :=
  joinRanges ((pageCuts a n).filterMap (fun c => (unitPhys s p c.1).map (fun x => (x, c.2))))

/-- The physical runs of the KV pool (KIND 3) in the quadrant of context rank `k`. -/
def poolRuns (s : State) (p k : Nat) : List (Nat × Nat) :=
  let G := (part s p).quads.getD k 48
  let rs := (regionEntries s p 3).filter (fun r => r.1 == k || r.1 == 255)
  ((rs.map (fun r => physRuns s p r.2.1 r.2.2)).foldr (· ++ ·) []).filter
    (fun r => decide (t1Addr G 0 ≤ r.1) && decide (r.1 + r.2 ≤ t1Addr G 0 + 0x300000000))

/-- The pool's memory that pages and nodes of the partition's requests take. -/
def poolUsed (s : State) (p : Nat) : List (Nat × Nat) :=
  let z := kvPageBytes (decl s p)
  ((liveSlots s p).map (fun n => (slotOf s n).pages.map (fun g => (g.addr, z)) ++ (slotOf s n).nodes.map (fun a => (a, 4096)))).foldr
    (· ++ ·) [] ++ (s.srv.shipPages.filter (fun g => g.part == p)).map (fun g => (g.page.addr, z)) ++
    ((s.srv.sessOps.filter (fun o => o.part == p)).map (fun o => o.pages.map (fun g => (g.addr, z)))).foldr (· ++ ·) []

/-- Two ranges share a byte. -/
def overlaps (a n b m : Nat) : Bool := decide (a < b + m) && decide (b < a + n)

/-- The lowest free place of `n` bytes with an alignment in a run, within one bank group (R184). -/
def placeIn (used : List (Nat × Nat)) (n al : Nat) (r : Nat × Nat) : Option Nat :=
  let first := al * ceilDiv r.1 al
  let step := al * ceilDiv n al
  ((List.range (r.2 / step + 1)).map (fun i => first + step * i)).find? (fun a =>
    decide (a + n ≤ r.1 + r.2) && a / 0x10000000 == (a + n - 1) / 0x10000000 && !used.any (fun u => overlaps a n u.1 u.2))

/-- The lowest free place in the pool of a context. -/
def poolPlace (s : State) (p k n al : Nat) : Option Nat := (poolRuns s p k).findSome? (placeIn (poolUsed s p) n al)

/-- Pin or unpin the pages of the tiered range that hold a physical range (R184, R238). -/
def pinPhys (p a n : Nat) (on : Bool) (s : State) : State :=
  (pagesOf a n).foldl (fun s f =>
    match pageOfFrame s p f with
    | some g => if on then pinPage p g s else unpinPage p g s
    | none => s) s

/-- Write a table entry. -/
def putEntry (a v : Nat) (s : State) : State := clearBad a 8 (writeMem s a (leBytes 8 v))

/-- The node that the entry at `a` points to; a new node is taken from the pool where the entry is not valid. -/
def nodeAt (p n k a : Nat) (s : State) : Option Nat × State :=
  let v := readNum s a 8
  if bit v 63 then (some (bits v 12 36 * 4096), s)
  else match poolPlace s p k 4096 4096 with
    | none => (none, s)
    | some x =>
      let s := pinPhys p x 4096 true (zeroRange s x 4096)
      (some x, putEntry a (2 ^ 63 + x) (modSlot p n (fun y => { y with nodes := y.nodes ++ [x] }) s))

/-- The root of a request's page table, taken from the pool where it has none. -/
def rootOf (p n k : Nat) (s : State) : Option Nat × State :=
  let r := (slotOf s n).req.ptRoot
  if r ≠ 0 then (some (r * 4096), s)
  else match poolPlace s p k 4096 4096 with
    | none => (none, s)
    | some x =>
      let s := pinPhys p x 4096 true (zeroRange s x 4096)
      (some x, modSlot p n (fun y => { y with nodes := y.nodes ++ [x], req := { y.req with ptRoot := x / 4096 } }) s)

/-- Link a page into its request's page table (R185, R186). -/
def linkPage (p n k : Nat) (g : KvPage) (s : State) : State :=
  match rootOf p n k s with
  | (some r, s) =>
    match nodeAt p n k (r + 8 * g.lg) s with
    | (some l1, s) =>
      match nodeAt p n k (l1 + 8 * (g.lpage / 512)) s with
      | (some l0, s) => putEntry (l0 + 8 * (g.lpage % 512)) (2 ^ 63 + g.addr) s
      | (none, s) => s
    | (none, s) => s
  | (none, s) => s

/-- Take a page of the pool for a logical page of a request. -/
def takePage (p n lg lp : Nat) (s : State) : Option KvPage × State :=
  let z := kvPageBytes (decl s p)
  match poolPlace s p (kvPlace (srvSec s p) lg).2.2.1 z 256 with
  | some a => (some ⟨lg, lp, a⟩, modSlot p n (fun y => { y with pages := y.pages ++ [⟨lg, lp, a⟩] }) (pinPhys p a z true s))
  | none => (none, s)

/-- The logical pages of a request up to `len` positions that this package's placement assigns to it (R384, R445). -/
def ownPages (s : State) (p len : Nat) : List (Nat × Nat) :=
  let np := ceilDiv len 64
  (((List.range (nlgOf (srvSec s p))).map (fun lg => (List.range np).map (fun lp => (lg, lp)))).foldr (· ++ ·) []).filter
    (fun x => kvRank s p x.1 x.2 == ownRank s p)

/-- Take and link every page of a request up to `len` positions that it does not hold. -/
def ensurePages (p n len : Nat) (s : State) : State :=
  (ownPages s p len).foldl (fun s x =>
    if (slotOf s n).pages.any (fun g => g.lg == x.1 && g.lpage == x.2) then s
    else match takePage p n x.1 x.2 s with
      | (some g, s) => linkPage p n (kvPlace (srvSec s p) x.1).2.2.1 g s
      | (none, s) => s) s

/-- Release a request's pages and nodes (R184). -/
def releasePages (p n : Nat) (s : State) : State :=
  let x := slotOf s n
  let z := kvPageBytes (decl s p)
  let s := x.pages.foldl (fun s g => pinPhys p g.addr z false s) s
  let s := x.nodes.foldl (fun s a => pinPhys p a 4096 false (zeroRange s a 4096)) s
  modSlot p n (fun y => { y with pages := [], nodes := [], req := { y.req with ptRoot := 0 } }) s

/-- A slot returns to FREE: its pages are released and only GEN stays. -/
def freeSlot (p n : Nat) (s : State) : State :=
  let s := releasePages p n s
  setSlot p n { Slot.free with req := { ReqRec.free with gen := (slotOf s n).req.gen } } s

/-- Positions that the whole KV pool of the job can hold, as the lead knows it: the pages of its own pool, times the share
of each token page that its rank holds. -/
def poolPositions (s : State) (p : Nat) : Nat :=
  let b := srvSec s p
  let z := kvPageBytes (decl s p)
  let pages := ((regionEntries s p 3).map (fun r => if z = 0 then 0 else r.2.2 / z)).sum
  let rank := ownRank s p
  let w := ((List.range (nlgOf b)).map (fun lg =>
    let k := kvPlace b lg
    if k.1 ≤ rank ∧ rank < k.1 + k.2.1 then 2 ^ 32 / k.2.1 else 0)).sum
  if w = 0 then 0 else 64 * (pages * 2 ^ 32 / w)

/-- A slot's reservation stands: from PREFILL to DRAIN, for a continuation in QUEUED, and in FALLOW while its pages are
held. -/
def holdsKv (x : Slot) : Bool := (x.req.state == stQueued && x.cont) || (2 ≤ x.req.state && x.req.state ≤ 5) || x.req.state == stDrain || (x.req.state == stFallow && x.imageState == 1)

/-- A slot that waits to be installed or thawed into (R354, R383). -/
def slotWaits (s : State) (n : Nat) : Bool :=
  (s.srv.asks ++ s.srv.lateAsks).any (fun r => r.slot == n && (match r.ask with | .install _ _ _ => true | _ => false)) ||
    s.srv.sessOps.any (fun o => match o.kind with | .thaw _ _ m f => f && m == n | _ => false)

/-- Positions that requests to be installed have reserved. -/
def installResv (s : State) (p : Nat) : Nat :=
  ((s.srv.asks ++ s.srv.lateAsks).map (fun r => match r.ask with
    | .install x _ _ => if x.req.part = p then x.ctl.kvResv else 0
    | _ => 0)).sum

/-- Positions of the pool that are reserved: by requests, by granted credits and by thaws in progress. -/
def kvReserved (s : State) (p : Nat) : Nat :=
  ((liveSlots s p).map (fun n => if holdsKv (slotOf s n) then (slotOf s n).ctl.kvResv else 0)).sum +
    ((List.range 4).map (fun i => 64 * (tget (0, 0) s.srv.granted (4 * p + i)).2)).sum +
    ((s.srv.sessOps.filter (fun o => o.part == p)).map (·.resv)).sum + installResv s p

/-! ### Handles (R346) -/

/-- The slot that a handle names in a caller's partition. -/
def handleSlot (s : State) (p h : Nat) : Option Nat :=
  let n := h % 2 ^ 16
  let x := slotOf s n
  if slotBase s p ≤ n ∧ n < slotBase s p + slotCount s p ∧ x.req.gen = h / 2 ^ 16 ∧ x.req.state ≠ stFree then some n else none

/-- A request asked of the commit (R342): one that comes in the verdict window waits for the next. -/
def askSlot (n : Nat) (a : SlotAsk) (s : State) : State :=
  let r : SlotReq := ⟨n, (slotOf s n).req.gen, a⟩
  if s.tick.verdict then modSrv (fun v => { v with lateAsks := v.lateAsks ++ [r] }) s
  else modSrv (fun v => { v with asks := v.asks ++ [r] }) s

/-- REQ_CANCEL (R346). -/
def cmdReqCancel (e : Entry) (_ : HostIo) (s : State) : CmdOut :=
  if !isLead s e.part then refuseCmd 0x0383 s
  else match handleSlot s e.part (arg e 8 4) with
    | none => refuseCmd 0x0382 s
    | some n =>
      let st := (slotOf s n).req.state
      if st = stDrain ∨ 8 ≤ st ∨ st = stFallow then refuseCmd 0x0300 s else doneCmd [] (askSlot n .cancel s)

/-- REQ_CANCEL. -/
def execReqCancel (e : Entry) (io : HostIo) (s : State) : Host.Outcome State Fault Refusal :=
  runRow Row.reqCancel cmdReqCancel e io s

/-- What REQ_QUERY returns (Table 18-13). -/
def queryResult (x : Slot) : Bytes :=
  let r := x.req
  leBytes 1 r.state ++ leBytes 1 x.imageState ++ leBytes 2 r.status ++ leBytes 8 x.image ++ leBytes 4 r.genLen ++
    leBytes 4 r.ctxLen ++ leBytes 4 r.ttftLast ++ leBytes 4 r.tbtLast

/-- REQ_QUERY; RELEASE frees a DONE or FAULT slot at the next commit. -/
def cmdReqQuery (e : Entry) (io : HostIo) (s : State) : CmdOut :=
  if !isLead s e.part then refuseCmd 0x0383 s
  else match handleSlot s e.part (arg e 8 4) with
    | none => refuseCmd 0x0382 s
    | some n =>
      let x := slotOf s n
      if flag e 0 && decide (x.req.state < 8) then refuseCmd 0x0300 s
      else
        let s := if flag e 0 then askSlot n .release s else s
        if arg e 16 8 = 0 then doneCmd (queryResult x) s
        else withOutput e io (arg e 16 8) (reqBytes x.req ++ ctlBytes x.ctl) (queryResult x) s

/-- REQ_QUERY. -/
def execReqQuery (e : Entry) (io : HostIo) (s : State) : Host.Outcome State Fault Refusal :=
  runRow Row.reqQuery cmdReqQuery e io s

/-- REQ_RELEASE: REQ_QUERY with RELEASE. -/
def execReqRelease (e : Entry) (io : HostIo) (s : State) : Host.Outcome State Fault Refusal :=
  runRow Row.reqQuery cmdReqQuery e io s

/-! ### Tenant queues (R347) -/

/-- What a queue will be after the next tick: none for unconfigured, or owner, weight and depth limit. -/
def queueSoon (s : State) (q : Nat) : Option (Nat × Nat × Nat) :=
  match (s.srv.queueNext.filter (fun c => c.1 == q)).getLast? with
  | some c => c.2
  | none => if rdb s (Reg.SRV_Q_V q) then some (rd s (Reg.SRV_Q_OWNER q), rd s (Reg.SRV_Q_WEIGHT q), rd s (Reg.SRV_Q_DEPTH_MAX q))
            else none

/-- QUEUE_CONFIG and, with REMOVE, QUEUE_REMOVE: the change takes effect at the next tick. -/
def cmdQueueConfig (e : Entry) (_ : HostIo) (s : State) : CmdOut :=
  let q := arg e 8 1
  let w := arg e 9 1
  let put (c : Option (Nat × Nat × Nat)) : CmdOut := doneCmd [] (modSrv (fun v => { v with queueNext := v.queueNext ++ [(q, c)] }) s)
  if 63 < q ∨ (!flag e 0 && w == 0) then refuseCmd 0x0102 s
  else match queueSoon s q with
    | some c =>
      if c.1 ≠ e.part then refuseCmd 0x0400 s
      else if flag e 0 then
        (if isVf e then refuseCmd 0x0400 s
         else if rd s (Reg.SRV_Q_DEPTH q) ≠ 0 then refuseCmd 0x0301 s else put none)
      else put (some (e.part, w, arg e 10 2))
    | none =>
      if isVf e then refuseCmd 0x0400 s
      else if flag e 0 then doneCmd [] s else put (some (e.part, w, arg e 10 2))

/-- QUEUE_CONFIG. -/
def execQueueConfig (e : Entry) (io : HostIo) (s : State) : Host.Outcome State Fault Refusal :=
  runRow Row.queueConfig cmdQueueConfig e io s

/-- QUEUE_REMOVE. -/
def execQueueRemove (e : Entry) (io : HostIo) (s : State) : Host.Outcome State Fault Refusal :=
  runRow Row.queueConfig cmdQueueConfig e io s

/-- A queue's registers and accounting set start anew, or go. -/
def writeQueue (q : Nat) (c : Option (Nat × Nat × Nat)) (s : State) : State :=
  let fresh := !rdb s (Reg.SRV_Q_V q) || c.isNone
  let s := if fresh then
      wr (wr (wr { s with qacct := s.qacct.filter (fun x => x.1 / 256 != q), qEnergy := tput 0 s.qEnergy q 0 }
        (Reg.SRV_Q_DEFICIT q) 0) (Reg.SRV_Q_Q_ADMIT_CNT q) 0) (Reg.SRV_Q_Q_URGENT_CNT q) 0
    else s
  match c with
  | some (o, w, d) => wr (wr (wr (wr s (Reg.SRV_Q_V q) 1) (Reg.SRV_Q_OWNER q) o) (Reg.SRV_Q_WEIGHT q) w) (Reg.SRV_Q_DEPTH_MAX q) d
  | none => wr (wr (wr (wr s (Reg.SRV_Q_V q) 0) (Reg.SRV_Q_OWNER q) 0) (Reg.SRV_Q_WEIGHT q) 1) (Reg.SRV_Q_DEPTH_MAX q) 0

/-! ### Stream rings (R362, R364) -/

/-- The ring of a slot. -/
def ringOf (s : State) (n : Nat) : Option Ring := tget none s.srv.rings n

/-- Bind or unbind a ring. -/
def setRing (n : Nat) (r : Option Ring) (s : State) : State := modSrv (fun v => { v with rings := tput none v.rings n r }) s

/-- STREAM_BIND and, with UNBIND, STREAM_UNBIND. -/
def cmdStreamBind (e : Entry) (_ : HostIo) (s : State) : CmdOut :=
  let j := arg e 8 2
  let n := slotBase s e.part + j
  let st := (slotOf s n).req.state
  if !flag e 0 && (arg e 16 8 % 4096 != 0 || arg e 24 8 % 8 != 0) then refuseCmd 0x0103 s
  else if slotCount s e.part ≤ j then refuseCmd 0x0102 s
  else if roleOf s e.part = 0 then refuseCmd 0x0300 s
  else if st = stDecode ∨ st = stHold ∨ st = stDrain then refuseCmd 0x0301 s
  else doneCmd [] (setRing n (if flag e 0 then none else some ⟨arg e 16 8, arg e 24 8, 0, 0⟩) s)

/-- STREAM_BIND. -/
def execStreamBind (e : Entry) (io : HostIo) (s : State) : Host.Outcome State Fault Refusal :=
  runRow Row.streamBind cmdStreamBind e io s

/-- STREAM_UNBIND. -/
def execStreamUnbind (e : Entry) (io : HostIo) (s : State) : Host.Outcome State Fault Refusal :=
  runRow Row.streamBind cmdStreamBind e io s

/-- SRV_RING_HEAD: the doorbell in VF BAR0 of partition `p` advances a ring's head count. -/
def execSrvRingHead (p ring head : Nat) (s : State) : Host.Outcome State Fault Refusal :=
  let n := slotBase s p + ring
  if slotCount s p ≤ ring then .next s
  else match ringOf s n with
    | some r => .next (setRing n (some { r with head := head % 2 ^ 16 }) s)
    | none => .next s

/-- Free records of a ring. -/
def ringFree (r : Ring) : Nat := 256 - subMod 16 r.tail r.head

/-- The partition's host port is in L0 and its VF may master the bus (R364). -/
def portReady (s : State) (p : Nat) : Bool :=
  fnReady s (part s p).port (2 + p)

/-- The RING cause holds for a slot. -/
def ringShort (s : State) (p n : Nat) : Bool :=
  !portReady s p || (match ringOf s n with | some r => decide (ringFree r < 2) | none => true)

/-! ### ADMISSION_CONFIG (R354) -/

/-- The admission parameters of a partition. -/
def admitCfg (s : State) (p : Nat) : AdmitCfg := tget AdmitCfg.none s.srv.admitCfgs p

/-- ADMISSION_CONFIG takes effect at the next tick. -/
def cmdAdmissionConfig (e : Entry) (_ : HostIo) (s : State) : CmdOut :=
  doneCmd [] (modSrv (fun v => { v with admitNext := v.admitNext ++ [(e.part, bytesAt e.args 0 24)] }) s)

/-- ADMISSION_CONFIG. -/
def execAdmissionConfig (e : Entry) (io : HostIo) (s : State) : Host.Outcome State Fault Refusal :=
  runRow Row.admissionConfig cmdAdmissionConfig e io s

/-- Who a serving message of partition `p` goes to at the lead of a slice, with the role expected there (R355). -/
def slicePeer (s : State) (p sl role : Nat) : Nat × CtlTo :=
  let l := Config.sliceLead sl
  (l.1, ⟨p, l.2, sl, role, (part s p).modelEpoch⟩)

/-- The body of CREDIT_GRANT and CREDIT_RETURN (Table 11-20). -/
def creditBody (c : Nat × Nat) : Bytes := leBytes 2 c.1 ++ leBytes 2 0 ++ leBytes 4 c.2

/-- A prefill lead's credits follow its targets to their new places; the credits of a target that is no longer named go back
to its lead (R354). -/
def moveCredits (p : Nat) (old new : List Nat) (s : State) : State :=
  let c (i : Nat) : Nat × Nat := tget (0, 0) s.srv.credits (4 * p + i)
  let s' := (List.range 4).foldl (fun s i =>
    let t := old.getD i 255
    if t = 255 ∨ new.contains t ∨ c i = (0, 0) then s
    else
      let d := slicePeer s p t 255
      sendCtl d.1 0x31 d.2 0xFFFFFFFF (creditBody (c i)) true s) s
  modSrv (fun v => { v with credits := (List.range 4).foldl (fun m i =>
    let t := new.getD i 255
    let x := if t = 255 then (0, 0) else match (List.range 4).find? (fun j => old.getD j 255 == t) with
      | some j => c j
      | none => (0, 0)
    tput (0, 0) m (4 * p + i) x) v.credits }) s'

/-- What a target has granted follows its sources to their new places; the grant of a source no longer accepted ends. -/
def moveGrants (p : Nat) (old new : List Nat) (s : State) : State :=
  let g (i : Nat) : Nat × Nat := tget (0, 0) s.srv.granted (4 * p + i)
  modSrv (fun v => { v with granted := (List.range 4).foldl (fun m i =>
    let t := new.getD i 255
    let x := if t = 255 then (0, 0) else match (List.range 4).find? (fun j => old.getD j 255 == t) with
      | some j => g j
      | none => (0, 0)
    tput (0, 0) m (4 * p + i) x) v.granted }) s

/-- Put the arguments of an ADMISSION_CONFIG (bytes 8–31) in force. -/
def writeAdmit (p : Nat) (b : Bytes) (s : State) : State :=
  let s := wr (wr s (Reg.SRV_P_RESV64 p) (numAt b 0 2)) (Reg.SRV_P_URGENT_SLACK p) (numAt b 2 2)
  let s := wr (wr s (Reg.SRV_P_ADMIT_EN p) (numAt b 4 1 % 2)) (Reg.SRV_P_DROP_LATE p) (numAt b 4 1 / 2 % 2)
  let s := wr s (Reg.SRV_P_LINGER64 p) (numAt b 6 2)
  let c : AdmitCfg := ⟨(List.range 4).map (fun i => numAt b (8 + i) 1), (List.range 4).map (fun i => numAt b (12 + i) 1),
    numAt b 16 2, numAt b 20 4⟩
  let o := admitCfg s p
  let s := moveGrants p o.sources c.sources (moveCredits p o.targets c.targets s)
  modSrv (fun v => { v with admitCfgs := tput AdmitCfg.none v.admitCfgs p c }) s

/-- The configurations that wait take effect at a tick (R347, R369). -/
def serveConfigs (s : State) : State :=
  let qs := s.srv.queueNext
  let as := s.srv.admitNext
  let s := modSrv (fun v => { v with queueNext := [], admitNext := [] }) s
  as.foldl (fun s a => writeAdmit a.1 a.2 s) (qs.foldl (fun s c => writeQueue c.1 c.2 s) s)

/-- REQUEST_LINGER_EXPIRY: LINGER frames after its entry into DONE or FAULT a slot is freed at the commit. -/
def execRequestLingerExpiry (p jidx : Nat) (s : State) : Host.Outcome State Fault Refusal :=
  let n := slotBase s p + jidx
  let x := slotOf s n
  if jidx < slotCount s p ∧ 8 ≤ x.req.state ∧ x.since + 64 * rd s (Reg.SRV_P_LINGER64 p) ≤ frameNo s then
    .next (askSlot n .release s)
  else .next s

end Sys2Proof.Machine
end

