-- ==== Sys2Proof/Machine/Admit.lean ====
section
/-!
DEFINITION. Admission (R348–R354): costs and free slots, projections, the admission pass, and the submissions REQ_SUBMIT and
REQ_CONTINUE; the fetch of an admitted prompt (R361).
-/

namespace Sys2Proof.Machine

/-! ### Costs and free slots (R349) -/

/-- A request needs prefill on its job: a prompt of two tokens or more on a PREFILL or MIXED job. -/
def needsPrefill (s : State) (p : Nat) (r : ReqRec) : Bool := roleOf s p != 1 && decide (2 ≤ r.promptLen)

/-- Batch slots that an admission costs; a prompt of bucket 7 is counted over its first pass. -/
def costOf (s : State) (p : Nat) (r : ReqRec) : Nat :=
  if needsPrefill s p r then ceilDiv (if r.bucket = 7 then min r.promptLen 1048576 else r.promptLen) 256 else 1

/-- Batch slots B of the job. -/
def batchSlots (s : State) (p : Nat) : Nat :=
  let b := srvSec s p
  if roleOf s p = 0 then ((List.range 8).map (runSlots b)).foldl max 0 else decodeRows b

/-- The batches of a partition. -/
def batchesOf (s : State) (p : Nat) : Batches := tget Batches.none s.srv.batches p

/-- The next run of a bucket that has not started. -/
def nextRunOf (s : State) (p k : Nat) : Option Nat :=
  let b := srvSec s p
  ((List.range (nRun b)).map (fun i => (batchesOf s p).run + 1 + i)).find? (fun j => runBucket b j == k)

/-- Batch slots that PREFILL requests take in run `j`. -/
def runUsed (s : State) (p j : Nat) : Nat :=
  ((slotsIn s p stPrefill).map (fun n => if (slotOf s n).run = j then costOf s p (slotOf s n).req else 0)).sum

/-- Batch slots that staged admissions take in run `j`. -/
def stagedUsed (s : State) (p j : Nat) (as : List Admission) : Nat :=
  (as.map (fun a => if a.run = j ∧ needsPrefill s p (slotOf s a.slot).req then costOf s p (slotOf s a.slot).req else 0)).sum

/-- Staged admissions to the next step. -/
def stagedRows (s : State) (p : Nat) (as : List Admission) : Nat :=
  (as.filter (fun a => !needsPrefill s p (slotOf s a.slot).req)).length

/-- Rows of the next step that the DECODE requests leave. -/
def freeRows (s : State) (p : Nat) (as : List Admission) : Nat :=
  decodeRows (srvSec s p) - (slotsIn s p stDecode).length - stagedRows s p as

/-- Free slots for a request. -/
def freeFor (s : State) (p : Nat) (r : ReqRec) (as : List Admission) : Nat :=
  if needsPrefill s p r then
    match nextRunOf s p r.bucket with
    | some j => runSlots (srvSec s p) r.bucket - runUsed s p j - stagedUsed s p j as
    | none => 0
  else freeRows s p as

/-- Free slots of the job as a whole. -/
def freeAll (s : State) (p : Nat) (as : List Admission) : Nat :=
  (if roleOf s p = 0 then 0 else freeRows s p as) +
    (if roleOf s p = 1 then 0
     else ((List.range 8).map (fun k =>
       match nextRunOf s p k with
       | some j => runSlots (srvSec s p) k - runUsed s p j - stagedUsed s p j as
       | none => 0)).sum)

/-! ### Projections (R352) -/

/-- Pieces of a request's shipment. -/
def shipPieces (s : State) (p : Nat) (r : ReqRec) : Nat :=
  let b := srvSec s p
  ceilDiv (r.promptLen - 1) 64 * nlgOf b * pagePieces b

/-- Pieces queued for target `i`. -/
def backlogOf (s : State) (p i : Nat) : Nat :=
  let t := (admitCfg s p).targets.getD i 255
  (((slotsIn s p stPrefill) ++ (slotsIn s p stShip)).map (fun n =>
    let x := slotOf s n
    if x.ctl.peerSlice = t then shipPieces s p x.req - (x.shipped.map (·.2)).sum * (membersOf s p).length else 0)).sum

/-- The projected first-token frame of a request first eligible in frame `f`, for target `i`. -/
def projectOf (s : State) (p : Nat) (r : ReqRec) (f i : Nat) : Nat :=
  let b := srvSec s p
  f + 1 + 2 * stepFrames b +
    (if needsPrefill s p r then passFrames b r.bucket * ceilDiv (r.promptLen - 1) (passLen r.bucket) else 0) +
    (if roleOf s p = 0 then ceilDiv (backlogOf s p i + shipPieces s p r) (max 1 (shipRate b i)) else 0)

/-- Credits of target `i` that no staged admission has spent. -/
def creditsLeft (s : State) (p i : Nat) (as : List Admission) : Nat × Nat :=
  let c := tget (0, 0) s.srv.credits (4 * p + i)
  let mine := as.filter (fun a => a.target == i)
  (c.1 - mine.length, c.2 - (mine.map (fun a => (slotOf s a.slot).ctl.kvResv / 64)).sum)

/-- The target with the lowest projected frame, ties to the lowest slice ID, among those that meet a test (R354). -/
def bestTarget (s : State) (p : Nat) (r : ReqRec) (f : Nat) (ok : Nat → Bool) : Option Nat :=
  let ts := (admitCfg s p).targets
  ((List.range 4).filter (fun i => ts.getD i 255 != 255 && ok i)).foldl (fun (b : Option Nat) i =>
    match b with
    | none => some i
    | some j =>
      let x := projectOf s p r f i
      let y := projectOf s p r f j
      if x < y ∨ (x = y ∧ ts.getD i 255 < ts.getD j 255) then some i else b) none

/-- The target that R354 chooses for an admission. -/
def targetFor (s : State) (p : Nat) (x : Slot) (f : Nat) (as : List Admission) : Option Nat :=
  bestTarget s p x.req f (fun i =>
    let c := creditsLeft s p i as
    decide (1 ≤ c.1) && decide (x.ctl.kvResv / 64 ≤ c.2))

/-- The target by whose rate a request is projected where no credit is asked. -/
def projTarget (s : State) (p : Nat) (r : ReqRec) (f : Nat) : Nat := (bestTarget s p r f (fun _ => true)).getD 0

/-! ### What fits (R351) -/

/-- The prompt region's places that prompts take: those of live requests and of staged admissions. -/
def promptsHeld (s : State) (p : Nat) (as : List Admission) : List (Nat × Nat) :=
  ((liveSlots s p).filter (fun n =>
    let x := slotOf s n
    2 ≤ x.req.state && x.req.state ≤ 5 && decide (x.fed < x.req.promptLen))).map
      (fun n => ((slotOf s n).ctl.prompt, 4 * (slotOf s n).req.promptLen)) ++
    as.map (fun a => (a.addr, 4 * (slotOf s a.slot).req.promptLen))

/-- The lowest free place of a prompt in the image's prompt region (KIND 2), 64-byte aligned. -/
def promptPlace (s : State) (p n : Nat) (as : List Admission) : Option Nat :=
  let used := promptsHeld s p as
  let ends := used.map (fun u => u.1 + u.2)
  ((regionEntries s p 2).map (fun r =>
    ((r.2.1 :: ends).map (fun a => 64 * ceilDiv a 64)).filter (fun a =>
      decide (r.2.1 ≤ a) && decide (a + 4 * n ≤ r.2.1 + r.2.2) && !used.any (fun u => overlaps a (4 * n) u.1 u.2)))).foldr
    (· ++ ·) [] |>.mergeSort (fun a b => decide (a ≤ b)) |>.head?

/-- Entries left in the frame plan; a slice of one package needs no plan. -/
def planRoom (s : State) (p : Nat) (as : List Admission) : Nat :=
  if (membersOf s p).length ≤ 1 then 65536 else 32 * planPieces (srvSec s p) - 1 - as.length

/-- The pool and budget conditions of a decode or mixed job. -/
def kvFits (s : State) (p : Nat) (x : Slot) (as : List Admission) : Bool :=
  let staged := (as.map (fun a => if (slotOf s a.slot).cont then 0 else (slotOf s a.slot).ctl.kvResv)).sum
  let step := ((slotsIn s p stDecode).map (fun n => (slotOf s n).ctl.kvResv)).sum +
    (as.map (fun a => (slotOf s a.slot).ctl.kvResv)).sum
  (x.cont || decide (kvReserved s p + staged + x.ctl.kvResv ≤ poolPositions s p)) &&
    decide (step + x.ctl.kvResv ≤ ctxBudget (srvSec s p))

/-- Every condition but the deadline: the admission where they hold. -/
def admitOf (s : State) (p n f : Nat) (as : List Admission) : Option Admission :=
  let x := slotOf s n
  let run := if needsPrefill s p x.req then (nextRunOf s p x.req.bucket).getD 0 else 0
  match promptPlace s p x.req.promptLen as with
  | none => none
  | some a =>
    if freeFor s p x.req as < costOf s p x.req ∨ planRoom s p as = 0 then none
    else if roleOf s p = 0 then (targetFor s p x f as).map (fun t => ⟨n, x.req.gen, a, false, 0, t, run⟩)
    else if kvFits s p x as then some ⟨n, x.req.gen, a, decide (x.req.promptLen ≤ x.fed), 0, 4, run⟩ else none

/-- A request's projection meets its deadline. -/
def meetsDeadline (s : State) (p n f t : Nat) : Bool :=
  let r := (slotOf s n).req
  r.deadline == 2 ^ 48 - 1 || decide (projectOf s p r f (if t = 4 then 0 else t) ≤ r.deadline)

/-! ### The admission pass (R351) -/

/-- The QUEUED requests of a queue, in its order (R348), less those taken. -/
def queueList (s : State) (p q : Nat) (taken : List Nat) : List Nat :=
  ((slotsIn s p stQueued).filter (fun n => (slotOf s n).req.queue == q && !taken.contains n)).mergeSort (fun a b =>
    let x := slotOf s a
    let y := slotOf s b
    decide (y.req.prio < x.req.prio) || (x.req.prio == y.req.prio && decide (x.order ≤ y.order)))

/-- A queue's deficit in the pass. -/
def deficitOf (s : State) (x : AdmitPass) (q : Nat) : Int :=
  match x.deficits.find? (fun d => d.1 == q) with
  | some d => d.2
  | none => signed 32 (rd s (Reg.SRV_Q_DEFICIT q))

/-- Set a queue's deficit in the pass. -/
def setDeficit (q : Nat) (d : Int) (x : AdmitPass) : AdmitPass :=
  { x with deficits := (q, d) :: x.deficits.filter (fun y => y.1 != q) }

/-- The requests that a pass has taken out of their queues. -/
def takenBy (x : AdmitPass) : List Nat := x.admits.map (·.slot) ++ x.late

/-- The slack of a request at frame `f` (R350). -/
def slackOf (s : State) (p n f : Nat) : Int :=
  let r := (slotOf s n).req
  (r.deadline : Int) - (projectOf s p r f (projTarget s p r f) : Int)

/-- The urgent class at frame `f`, in its order. -/
def urgentList (s : State) (p f : Nat) : List Nat :=
  ((slotsIn s p stQueued).filter (fun n =>
    let r := (slotOf s n).req
    r.urgent || (r.deadline != 2 ^ 48 - 1 && decide (slackOf s p n f ≤ rd s (Reg.SRV_P_URGENT_SLACK p))))).mergeSort (fun a b =>
      let x := slotOf s a
      let y := slotOf s b
      decide (x.req.deadline < y.req.deadline) || (x.req.deadline == y.req.deadline &&
        (decide (y.req.prio < x.req.prio) || (x.req.prio == y.req.prio && decide (x.order ≤ y.order)))))

/-- Try one request: it is admitted, or it is late with DROP_LATE set, or it does not fit. -/
def tryAdmit (s : State) (p f n : Nat) (x : AdmitPass) : Bool × AdmitPass :=
  match admitOf s p n f x.admits with
  | some a =>
    if meetsDeadline s p n f a.target then (true, { x with admits := x.admits ++ [a] })
    else (false, if rdb s (Reg.SRV_P_DROP_LATE p) then { x with late := x.late ++ [n] } else x)
  | none => (false, if planRoom s p x.admits = 0 then { x with full := true } else x)

/-- The urgent class is served up to floor(B / 4) slots; the first request that does not fit ends it. -/
def urgentPass (s : State) (p f : Nat) : List Nat → Nat → AdmitPass → AdmitPass
  | [], _, x => x
  | n :: r, room, x =>
    let q := (slotOf s n).req.queue
    let c := costOf s p (slotOf s n).req
    if room < c then x
    else match tryAdmit s p f n x with
      | (true, x) =>
        urgentPass s p f r (room - c) (setDeficit q (deficitOf s x q - (c : Int)) { x with urgentTaken := x.urgentTaken ++ [n] })
      | (false, x) => x

/-- Serve the head of a queue while its deficit lasts. Answers whether the queue is blocked. -/
def serveQueue (s : State) (p f q : Nat) : List Nat → AdmitPass → Bool × AdmitPass
  | [], x => (false, x)
  | n :: r, x =>
    let c := costOf s p (slotOf s n).req
    if deficitOf s x q < (c : Int) then (false, x)
    else match tryAdmit s p f n x with
      | (true, x) => serveQueue s p f q r (setDeficit q (deficitOf s x q - (c : Int)) x)
      | (false, x) => (true, x)

/-- One visit of a queue. -/
def visitQueue (s : State) (p f : Nat) (y : List Nat × AdmitPass) (q : Nat) : List Nat × AdmitPass :=
  let l := queueList s p q (takenBy y.2)
  if l.isEmpty then (y.1, setDeficit q 0 y.2)
  else if y.1.contains q then y
  else
    let x := setDeficit q (min (deficitOf s y.2 q + (rd s (Reg.SRV_Q_WEIGHT q) : Int)) 65535) y.2
    let z := serveQueue s p f q l x
    let x := if (queueList s p q (takenBy z.2)).isEmpty then setDeficit q 0 z.2 else z.2
    (if z.1 then y.1 ++ [q] else y.1, { x with ptr := q })

/-- The partition's queues, starting after the pointer. -/
def queueCycle (s : State) (p ptr : Nat) : List Nat :=
  ((List.range 64).map (fun i => (ptr + 1 + i) % 64)).filter (fun q => rdb s (Reg.SRV_Q_V q) && rd s (Reg.SRV_Q_OWNER q) == p)

/-- Rounds over the queues, at most 64. -/
def passRounds (s : State) (p f : Nat) : Nat → List Nat × AdmitPass → AdmitPass
  | 0, y => y.2
  | k + 1, y =>
    let some' := (queueCycle s p y.2.ptr).any (fun q => !y.1.contains q && !(queueList s p q (takenBy y.2)).isEmpty)
    if some' && decide (0 < freeAll s p y.2.admits) then
      passRounds s p f k ((queueCycle s p y.2.ptr).foldl (visitQueue s p f) y)
    else y.2

/-- One weighted admission pass for frame `f`. -/
def admissionPass (s : State) (p f : Nat) : AdmitPass :=
  let u := urgentList s p f
  let x : AdmitPass := ⟨tget 63 s.srv.ptr p, [], [], [], u, [], false⟩
  passRounds s p f 64 ([], urgentPass s p f u (batchSlots s p / 4) x)

/-- At a tick the lead of a running job runs the pass and stages it (R351); none runs while admission is off or stopped by
a replacement. -/
def stagePass (p f : Nat) (s : State) : State :=
  if isLead s p && (part s p).job == .running && rdb s (Reg.SRV_P_ADMIT_EN p) && (replOf s p).isNone then
    let x := admissionPass s p f
    let s := if x.full then srvEvent Reg.SRV_ERR_PLAN_FULL 5 p s else s
    modSrv (fun v => { v with pass := tput none v.pass p (some x) }) s
  else s

/-! ### The prompt of an admission (R361) -/

/-- Change the staged admission of a slot. -/
def modAdmit (p n : Nat) (f : Admission → Admission) (s : State) : State :=
  modSrv (fun v => { v with pass := tmod none v.pass p (fun x => x.map (fun x =>
    { x with admits := x.admits.map (fun a => if a.slot = n then f a else a) })) }) s

/-- Write token IDs into the prompt region, as the engine does on the partition's behalf. -/
def writePrompt (p a : Nat) (b : Bytes) (s : State) : State := rangeWrite p a b s

/-- PROMPT_FETCH_DONE: what the read of the admitted prompt gave. -/
def execPromptFetchDone (p jidx : Nat) (data : Option Bytes) (s : State) : Host.Outcome State Fault Refusal :=
  let n := slotBase s p + jidx
  match (tget none s.srv.pass p).bind (fun x => x.admits.find? (fun a => a.slot == n && !a.fetched && a.fail == 0)) with
  | none => .next s
  | some a =>
    let k := (slotOf s n).req.promptLen
    match data with
    | none => .next (srvEvent Reg.SRV_ERR_PROMPT_READ 2 p (modAdmit p n (fun a => { a with fail := 0x0581 }) s))
    | some b =>
      if b.length < 4 * k then
        .next (srvEvent Reg.SRV_ERR_PROMPT_READ 2 p (modAdmit p n (fun a => { a with fail := 0x0581 }) s))
      else
        let s := account (bump s (Reg.HIF_N_RD_BYTE_CNT (part s p).port) (4 * k)) p 0xC0 (4 * k)
        if (List.range k).any (fun i => decide (numAt (decl s p) 12 4 ≤ numAt b (4 * i) 4)) then
          .next (modAdmit p n (fun a => { a with fail := 0x0102 }) s)
        else .next (modAdmit p n (fun a => { a with fetched := true }) (writePrompt p a.addr (b.take (4 * k)) s))

/-! ### REQ_SUBMIT (R353, R345) -/

/-- TAU is BF16 +0 or positive and finite (R76). -/
def tauOk (t : Nat) : Bool := t == 0 || (t / 2 ^ 15 == 0 && t / 2 ^ 7 % 256 != 255 && decide (t < 2 ^ 15))

/-- Reserved fields of a request descriptor (Table 18-14). -/
def descReserved (d : Bytes) : Bool :=
  numAt d 14 1 / 64 == 0 && numAt d 15 1 / 64 == 0 && numAt d 23 1 == 0 && numAt d 47 1 == 0 && numAt d 80 48 == 0

/-- The fields of a turn are in range (0x0102). -/
def descRangeOk (d : Bytes) : Bool :=
  let n := numAt d 16 4
  decide (1 ≤ n) && decide (n ≤ 16777215) && decide (n + numAt d 20 3 ≤ 2 ^ 24) && tauOk (numAt d 40 2) &&
    decide (numAt d 15 1 % 16 < 8) && decide (numAt d 46 1 ≤ 4)

/-- The job can never admit a prompt of this length (0x0285). -/
def unservable (s : State) (p n : Nat) (cont : Bool) : Bool :=
  let b := srvSec s p
  if n ≤ 1 ∨ roleOf s p = 1 then
    (decide (2 ≤ n) && roleOf s p == 1 && !cont) || ((promptPlace { s with srv := { s.srv with slots := [] } } p n []).isNone)
  else
    let k := bucketOf n
    !servesBucket b k ||
      (List.range (nRun b)).all (fun j => runBucket b j != k || decide (runSlots b k < ceilDiv (if k = 7 then 1048576 else n) 256)) ||
      (promptPlace { s with srv := { s.srv with slots := [] } } p n []).isNone

/-- The turn's fields of a descriptor in a record. -/
def turnReq (d : Bytes) (r : ReqRec) : ReqRec :=
  { r with deadline := numAt d 8 6, promptLen := numAt d 16 3, bucket := bucketOf (numAt d 16 3), genLen := 0 }

/-- The turn's fields of a descriptor in a control record. -/
def turnCtl (d : Bytes) (t : Nat) (c : CtlRec) : CtlRec :=
  { c with tau := numAt d 40 2, topk := numAt d 42 2, topp := numAt d 44 2, nstop := numAt d 46 1,
           stops := (List.range 4).map (fun i => numAt d (48 + 4 * i) 4), maxNew := numAt d 20 3, submit := t,
           prompt := numAt d 24 8 }

/-- KV_RESV of a new request (R351). -/
def resvOf (s : State) (p n : Nat) : Nat := 64 * ceilDiv (n - 1 + 64 * rd s (Reg.SRV_P_RESV64 p)) 64

/-- The projected frame that REQ_SUBMIT returns: with the wait for the requests ahead in its queue (R352). -/
def submitFrame (s : State) (p : Nat) (r : ReqRec) : Nat :=
  let f := frameNo s + 1
  let ahead := ((queueList s p r.queue []).filter (fun n => decide (r.prio ≤ (slotOf s n).req.prio))).map
    (fun n => costOf s p (slotOf s n).req)
  let qs := (queueCycle s p 63).filter (fun q => q == r.queue || !(queueList s p q []).isEmpty)
  let w := (qs.map (fun q => rd s (Reg.SRV_Q_WEIGHT q))).sum
  let share := max 1 (batchSlots s p * rd s (Reg.SRV_Q_WEIGHT r.queue) / max 1 w)
  projectOf s p r f (projTarget s p r f) + ceilDiv ahead.sum share

/-- A rejected submission is counted. -/
def rejectReq (p st : Nat) (s : State) : CmdOut := ⟨st, [], [], bump s (Reg.SRV_P_REJECT_CNT p) 1, none⟩

/-- The request record and control record of a new submission. -/
def newSlot (s : State) (p n : Nat) (d : Bytes) : Slot :=
  let role := roleOf s p
  let r : ReqRec := turnReq d
    { ReqRec.free with
      state := stQueued, prio := numAt d 15 1 % 8, role := role, xepoch := bit (numAt d 15 1) 5, keep := bit (numAt d 15 1) 4,
      queue := numAt d 14 1 % 64, part := p, gen := ((slotOf s n).req.gen + 1) % 2 ^ 16, session := numAt d 0 8,
      ring := if role = 0 then 65535 else n - slotBase s p, epoch := (part s p).modelEpoch % 2 ^ 16 }
  let c : CtlRec := turnCtl d (applTime s) { CtlRec.free with key := numAt d 32 8, kvResv := resvOf s p (numAt d 16 3) }
  { Slot.free with req := r, ctl := c, order := s.srv.order }

/-- The FREE slots of a partition that nothing waits for, ascending. -/
def freeSlots (s : State) (p : Nat) : List Nat :=
  ((List.range (slotCount s p)).map (· + slotBase s p)).filter (fun n => (slotOf s n).req.state == stFree && !slotWaits s n)

/-- The lowest FREE slot of a partition, beyond those that it has granted to its sources. -/
def freeSlotOf (s : State) (p : Nat) : Option Nat :=
  let fs := freeSlots s p
  if fs.length ≤ ((List.range 4).map (fun i => (tget (0, 0) s.srv.granted (4 * p + i)).1)).sum then none else fs.head?

/-- What is wrong with a queue for a submission of a partition. -/
def queueStatus (s : State) (p q : Nat) : Bool := rdb s (Reg.SRV_Q_V q) && rd s (Reg.SRV_Q_OWNER q) == p

/-- A new request: the checks of Table 14-5 in order; it is QUEUED at once. -/
def submitNew (e : Entry) (d : Bytes) (s : State) : CmdOut :=
  let p := e.part
  let q := numAt d 14 1 % 64
  if !isLead s p then rejectReq p 0x0383 s
  else if !(part s p).job.busy then rejectReq p 0x0320 s
  else if !descRangeOk d then rejectReq p 0x0102 s
  else if unservable s p (numAt d 16 3) false then rejectReq p 0x0285 s
  else if !queueStatus s p q then rejectReq p 0x0400 s
  else match freeSlotOf s p with
    | none => rejectReq p 0x0281 s
    | some n =>
      let x := newSlot s p n d
      let f := submitFrame s p x.req
      if rd s (Reg.SRV_Q_DEPTH_MAX q) ≤ rd s (Reg.SRV_Q_DEPTH q) then rejectReq p 0x0283 s
      else if roleOf s p ≠ 0 ∧ poolPositions s p < x.ctl.kvResv then rejectReq p 0x0280 s
      else if x.req.deadline ≠ 2 ^ 48 - 1 ∧ x.req.deadline < f then rejectReq p 0x0282 s
      else
        let s := setSlot p n x (modSrv (fun v => { v with order := v.order + 1 }) s)
        doneCmd (leBytes 4 (handleOf s n) ++ leBytes 6 f) s

/-- A continuation (R345): a handle in HOLD with TURN as its only cause. -/
def submitTurn (e : Entry) (d : Bytes) (s : State) : CmdOut :=
  let p := e.part
  if !isLead s p then rejectReq p 0x0383 s
  else if !(part s p).job.busy then rejectReq p 0x0320 s
  else if !descRangeOk d then rejectReq p 0x0102 s
  else match handleSlot s p (arg e 16 4) with
    | none => rejectReq p 0x0382 s
    | some n =>
      let x := slotOf s n
      let q := x.req.queue
      let r := turnReq d x.req
      if roleOf s p = 0 ∨ x.req.state ≠ stHold ∨ x.req.cause ≠ 8 then rejectReq p 0x0300 s
      else if (replOf s p).isSome then rejectReq p 0x03A0 s
      else if unservable s p (numAt d 16 3) true then rejectReq p 0x0285 s
      else if !queueStatus s p q then rejectReq p 0x0400 s
      else if rd s (Reg.SRV_Q_DEPTH_MAX q) ≤ rd s (Reg.SRV_Q_DEPTH q) then rejectReq p 0x0283 s
      else if r.deadline ≠ 2 ^ 48 - 1 ∧ r.deadline < submitFrame s p r then rejectReq p 0x0282 s
      else doneCmd (leBytes 4 (handleOf s n) ++ leBytes 6 (submitFrame s p r)) (askSlot n (.cont d (applTime s)) s)

/-- REQ_SUBMIT; CONTINUE names a handle. -/
def cmdReqSubmit (e : Entry) (io : HostIo) (s : State) : CmdOut :=
  match inputOf e io 128 with
  | none => refuseCmd 0x0500 s
  | some d =>
    if d.length < 128 then refuseCmd 0x0500 s
    else if !descReserved d then refuseCmd 0x0101 s
    else if flag e 0 then submitTurn e d s
    else if arg e 16 4 ≠ 0 then refuseCmd 0x0101 s
    else submitNew e d s

/-- REQ_SUBMIT. -/
def execReqSubmit (e : Entry) (io : HostIo) (s : State) : Host.Outcome State Fault Refusal :=
  runRow Row.reqSubmit cmdReqSubmit e io s

/-- REQ_CONTINUE: REQ_SUBMIT with CONTINUE. -/
def execReqContinue (e : Entry) (io : HostIo) (s : State) : Host.Outcome State Fault Refusal :=
  runRow Row.reqSubmit cmdReqSubmit e io s

end Sys2Proof.Machine
end

