-- ==== Sys2Proof/Machine/Batch.lean ====
section
/-!
DEFINITION. Batches (R343, R349, R356–R358): decode steps and prefill runs, the batch table (Table 14-6), the results of a
step, stream records (Table 14-8) and latency statistics (R366).
-/

namespace Sys2Proof.Machine

/-! ### Steps and runs (R343, R349) -/

/-- NSTART of a partition's image. -/
def nStart (s : State) (p : Nat) : Nat :=
  match (part s p).image with
  | some im => im.nstart
  | none => 0

/-- The frame with phase counter `c` ends a decode step. -/
def stepCloses (s : State) (p c : Nat) : Bool :=
  roleOf s p != 0 && decide (nStart s p ≤ c) && (c - nStart s p + 1) % stepFrames (srvSec s p) == 0

/-- The frame with phase counter `c` ends a prefill run. -/
def runCloses (s : State) (p c : Nat) : Bool :=
  roleOf s p != 1 && decide (nStart s p ≤ c) && (batchesOf s p).left == 1

/-- Change the batches of a partition. -/
def modBatches (p : Nat) (f : Batches → Batches) (s : State) : State :=
  modSrv (fun v => { v with batches := tmod Batches.none v.batches p f }) s

/-- Input tokens of a request's next prefill pass. -/
def passInput (x : Slot) : Nat := min (passLen x.req.bucket) (x.req.promptLen - 1 - x.fed)

/-- Cut `len` positions from packed position `o` of a run whose rows hold `t` positions: (row, offset, length). -/
def cutRows (t : Nat) : Nat → Nat → Nat → List (Nat × Nat × Nat)
  | 0, _, _ => []
  | k + 1, o, len =>
    if len = 0 ∨ t = 0 then []
    else
      let m := min len (t - o % t)
      (o / t, o % t, m) :: cutRows t k (o + m) (len - m)

/-- The rows of a prefill run (R205): the requests in admission order, each from the next multiple of 256 positions on, with
segment numbers from 1 in each row. -/
def packRun (s : State) (t base : Nat) : List Nat → Nat → List BatchRow → List BatchRow
  | [], _, acc => acc
  | n :: r, o, acc =>
    let x := slotOf s n
    let len := passInput x
    let cs := cutRows t (len / max 1 t + 2) o len
    let rows := cs.foldl (fun (z : List BatchRow × Nat) c =>
      let row := base + c.1
      (z.1 ++ [⟨n, 8, x.req.ctxLen + z.2, c.2.2, (z.1.filter (fun y => y.row == row)).length + 1, row, c.2.1⟩],
        z.2 + c.2.2)) (acc, 0)
    packRun s t base r (o + 256 * ceilDiv len 256) rows.1

/-- The PREFILL requests of run `j`, in admission order. -/
def runRequests (s : State) (p j : Nat) : List Nat :=
  ((slotsIn s p stPrefill).filter (fun n => (slotOf s n).run == j)).mergeSort
    (fun a b => decide ((slotOf s a).shipOrder ≤ (slotOf s b).shipOrder))

/-- The first batch row of prefill entries: they follow the decode rows of a MIXED job. -/
def prefillBase (s : State) (p : Nat) : Nat := if roleOf s p = 2 then decodeRows (srvSec s p) else 0

/-- The next run of the cyclic schedule begins. -/
def beginRun (p : Nat) (s : State) : State :=
  let b := srvSec s p
  if roleOf s p = 1 ∨ nRun b = 0 then s
  else
    let j := (batchesOf s p).run + 1
    let k := runBucket b j
    let rows := packRun s (rowTokens b k) (prefillBase s p) (runRequests s p j) 0 []
    modBatches p (fun x => { x with prefill := rows, run := j, left := passFrames b k }) s

/-- The DECODE requests that take part in a step, in ascending slot order, as many as the batch has rows. -/
def stepRequests (s : State) (p : Nat) : List Nat := (slotsIn s p stDecode).take (decodeRows (srvSec s p))

/-- The flags of a decode row: SAMPLE where the step consumes the turn's last prompt token or a generated one, else FORCED;
FIRST in the first step of a turn. -/
def rowFlags (x : Slot) : Nat :=
  (if x.req.promptLen ≤ x.fed + 1 then 1 else 2) + (if x.req.genLen = 0 then 4 else 0)

/-- The next decode step begins. -/
def beginStep (p : Nat) (s : State) : State :=
  let ns := stepRequests s p
  let rows := (ns.zip (List.range ns.length)).map (fun e =>
    let x := slotOf s e.1
    (⟨e.1, rowFlags x, x.req.ctxLen, 1, 0, e.2, 0⟩ : BatchRow))
  modBatches p (fun x => { x with decode := rows, stepFrame := 0 }) s

/-- The batches of the frame that follows the frame with counter `c`. -/
def advanceBatches (p c : Nat) (s : State) : State :=
  if c + 1 < nStart s p then s
  else
    let opens : Bool := c + 1 == nStart s p
    let s := if roleOf s p = 0 then s
      else if opens ∨ stepCloses s p c then beginStep p s
      else modBatches p (fun x => { x with stepFrame := x.stepFrame + 1 }) s
    if roleOf s p = 1 then s
    else if opens ∨ (batchesOf s p).left ≤ 1 then beginRun p s
    else modBatches p (fun x => { x with left := x.left - 1 }) s

/-- The batches at the start of a job. -/
def startBatches (p : Nat) (s : State) : State :=
  let s := modSrv (fun v => { v with batches := tput Batches.none v.batches p Batches.none }) s
  if nStart s p = 0 then beginRun p s else s

/-! ### The batch table (R357) -/

/-- Entries of a buffer: the decode rows, and the segments of the largest run. -/
def tableRows (s : State) (p : Nat) : Nat :=
  let b := srvSec s p
  (if roleOf s p = 0 then 0 else decodeRows b) + (if roleOf s p = 1 then 0 else ((List.range 8).map (runSlots b)).foldl max 0)

/-- A token that the engine does not know. -/
def noToken : Nat := 2 ^ 32

/-- A request's next decode input token: a prompt token where the lead fetched the prompt, or the last token sampled. -/
def inputToken (s : State) (p : Nat) (x : Slot) : Nat :=
  if !isLead s p then noToken
  else if x.fed < x.req.promptLen then
    (if x.ctl.peerSlice = 255 ∧ rangeReachable s p (x.ctl.prompt + 4 * x.fed) 4 then
      leNat (rangeRead s p (x.ctl.prompt + 4 * x.fed) 4).1 else noToken)
  else x.tok

/-- An entry of the batch table (Table 14-6) with its TOKEN. -/
def batchEntry (s : State) (p : Nat) (r : BatchRow) (tok : Nat) : Bytes :=
  let x := slotOf s r.slot
  leBytes 2 (r.slot - slotBase s p) ++ leBytes 2 r.flags ++ leBytes 4 r.pos ++ leBytes 4 r.len ++ leBytes 2 r.seg ++
    leBytes 2 r.row ++ leBytes 4 r.ofs ++ leBytes 4 tok ++ leBytes 8 x.ctl.key ++ leBytes 8 x.req.samplerCtr ++
    leBytes 2 x.ctl.tau ++ leBytes 2 x.ctl.topk ++ leBytes 2 x.ctl.topp ++ leBytes 2 0 ++
    leBytes 8 (x.ctl.prompt + 4 * x.fed) ++ leBytes 8 0

/-- An entry of an empty row. -/
def emptyEntry : Bytes := leBytes 2 0xFFFF ++ List.replicate 62 0

/-- Write an entry; a decode input token that the engine is not given is a free value. -/
def writeEntry (p o : Nat) (n : State) (r : BatchRow) (s : State) : State :=
  if bit r.flags 3 then hubWrite p o (batchEntry n p r 0) s
  else
    let t := inputToken n p (slotOf n r.slot)
    if t < noToken then hubWrite p o (batchEntry n p r t) s
    else
      let d := draw 32 s
      hubWrite p o (batchEntry n p r d.1.toNat) d.2

/-- Write the batch table of frame epoch `e` as state `n` has it: decode entries by row, then the prefill entries. -/
def writeTable (p e : Nat) (n s : State) : State :=
  let k := tableRows n p
  let o := batchHofs (srvSec n p) + (e % 2) * (64 * k)
  let b := batchesOf n p
  let d := if roleOf n p = 0 then 0 else decodeRows (srvSec n p)
  let s := (List.range k).foldl (fun s i => hubWrite p (o + 64 * i) emptyEntry s) s
  let s := b.decode.foldl (fun s r => writeEntry p (o + 64 * r.row) n r s) s
  (b.prefill.zip (List.range b.prefill.length)).foldl (fun s r => writeEntry p (o + 64 * (d + r.2)) n r.1 s) s

/-- The frame epoch of a partition. -/
def frameEpoch (s : State) (p : Nat) : Nat := rd s (Reg.CTX_FRAME_EPOCH ((part s p).quads.headD 48))

/-! ### Results of a step (R358) -/

/-- The 8-byte result of a batch row. -/
def resultOf (s : State) (p row : Nat) : Bytes := hubBytes s p (resultHofs (srvSec s p) + 8 * row) 8

/-- A sampled row of the running step has no valid result. -/
def resultMissing (s : State) (p : Nat) : Bool :=
  (batchesOf s p).decode.any (fun r => bit r.flags 0 && !bit (numAt (resultOf s p r.row) 6 2) 0)

/-- A lead's complete head frame whose results are not all valid fails as an output guard violation. -/
def checkResults (p : Nat) (s : State) : State :=
  if isLead s p && stepCloses s p (part s p).phase && resultMissing s p then
    failFrame p ⟨0x0521, true, 14, 1⟩ s
  else s

/-! ### Stream records (R363–R366) -/

/-- A token record that a commit writes: slot, token, position, FIRST, log-probability, EPOCH. -/
structure TokenRec where
  slot : Nat
  token : Nat
  pos : Nat
  first : Bool
  logprob : Nat
  epoch : Bool
  deriving DecidableEq, Repr

/-- A 16-byte stream record (Table 14-8). -/
def recordOf (token pos frame flags logprob : Nat) : Bytes :=
  leBytes 4 token ++ leBytes 4 pos ++ leBytes 4 frame ++ leBytes 2 flags ++ leBytes 2 logprob

/-- Flags of a stream record. -/
def recFlags (first last : Bool) (reason : Nat) (kept epoch : Bool) : Nat :=
  bnat first + 2 * bnat last + 4 * reason + 32 * bnat kept + 64 * bnat epoch

/-- Write a record into a slot's ring and advance its TAIL. -/
def putRecord (p n : Nat) (b : Bytes) (s : State) : State :=
  match ringOf s n with
  | some r =>
    let x := (part s p).port
    let s := emit s (.hostWrite x (2 + p) (r.iova + 16 * (r.tail % 256)) b)
    let s := account (bump s (Reg.HIF_N_WR_BYTE_CNT x) 16) p 0xC8 16
    bump (setRing n (some { r with tail := (r.tail + 1) % 2 ^ 16 }) s) (Reg.SRV_P_RECORD_CNT p) 1
  | none => s

/-- Write the TAIL counts of the rings that changed, then raise the partition's vector (R365). -/
def putTails (p : Nat) (ns : List Nat) (s : State) : State :=
  if ns.isEmpty then s
  else
    let x := (part s p).port
    let s := ns.eraseDups.foldl (fun s n =>
      match ringOf s n with
      | some r =>
        account (bump (emit s (.hostWrite x (2 + p) r.tailIova (leBytes 4 r.tail))) (Reg.HIF_N_WR_BYTE_CNT x) 4) p 0xC8 4
      | none => s) s
    bump (msix s (2 + p) 0) (Reg.SRV_P_MSIX_CNT p) 1

/-- An average after a new value (R366); the first value of the slot is taken whole. -/
def average (first : Bool) (avg x : Nat) : Nat :=
  if first then x else ((avg : Int) + ((x : Int) - (avg : Int)) / 8).toNat

/-- Statistics at the commit of a turn's token: TTFT for its first, TBT for the others; an interval with a HOLD is not
counted (`lastAt` is 0 then). -/
def tokenStats (now : Nat) (x : Slot) : Slot :=
  let r := x.req
  let r := match x.lastAt with
    | none =>
      let v := min ((now - x.ctl.submit) / 1000) (2 ^ 24 - 1)
      { r with ttftLast := v, ttftAvg := average (r.ttftMax == 0) r.ttftAvg v, ttftMax := max r.ttftMax v }
    | some 0 => r
    | some t =>
      let v := min ((now - t) / 1000) (2 ^ 16 - 1)
      { r with tbtLast := v, tbtAvg := average (r.tbtMax == 0) r.tbtAvg v, tbtMax := max r.tbtMax v }
  { x with req := r, lastAt := some now }

/-- The stop test of a sampled token, in order: 1 STOP, 2 MAX_NEW, 3 CONTEXT, 0 none. -/
def stopReason (x : Slot) (token : Nat) : Nat :=
  if (x.ctl.stops.take x.ctl.nstop).contains token then 1
  else if x.ctl.maxNew ≠ 0 ∧ x.ctl.maxNew ≤ x.req.genLen then 2
  else if 2 ^ 24 ≤ x.req.ctxLen then 3 else 0

/-- The counters of a step. -/
def stepCounters (x : Slot) : Slot :=
  { x with req := { x.req with genLen := (x.req.genLen + 1) % 2 ^ 24, ctxLen := x.req.ctxLen + 1,
                               samplerCtr := (x.req.samplerCtr + 1) % 2 ^ 64 } }

/-- One row of the step that ends: the counters, and for a sampled row the statistics and the stop test. -/
def stepRow (p now : Nat) (y : State × List TokenRec) (r : BatchRow) : State × List TokenRec :=
  let s := y.1
  let x := slotOf s r.slot
  if x.req.state ≠ stDecode then y
  else if bit r.flags 0 then
    let b := resultOf s p r.row
    let tok := numAt b 0 4
    let z := tokenStats now (stepCounters x)
    let q := stopReason z tok
    let rec' : TokenRec := ⟨r.slot, tok, z.req.ctxLen, x.lastAt.isNone, numAt b 4 2, x.newEpoch⟩
    let z := { z with fed := x.req.promptLen, tok := tok, newEpoch := false }
    let s := if q = 0 then setSlot p r.slot z s
      else if x.req.keep then
        toState p r.slot stHold (fun _ => { z with ended := true, reason := q, req := { z.req with cause := 8 } }) s
      else toState p r.slot stDrain (fun _ => { z with ended := true, reason := q }) s
    (s, y.2 ++ [rec'])
  else (setSlot p r.slot { stepCounters x with fed := x.fed + 1 } s, y.2)

/-- The lead stages the changes of the step that the frame ends. -/
def stepResults (p now : Nat) (s : State) : State × List TokenRec := (batchesOf s p).decode.foldl (stepRow p now) (s, [])

/-! ### Entering DECODE and the ends of passes (R343, R362) -/

/-- A request enters DECODE; with its ring unbound it goes to DRAIN with RING_UNBOUND. -/
def enterDecode (p n : Nat) (s : State) : State :=
  let s := ensurePages p n (slotOf s n).ctl.kvResv s
  if isLead s p && (ringOf s n).isNone then
    toState p n stDrain (fun x => { x with req := { x.req with status := 0x0384 } }) s
  else toState p n stDecode (fun x => x) s

/-- A pass of the ended run commits for one request. -/
def passRow (p : Nat) (s : State) (n : Nat) : State :=
  let x := slotOf s n
  let k := passInput x
  if x.req.state ≠ stPrefill then s
  else
    let z := { x with fed := x.fed + k, req := { x.req with ctxLen := x.req.ctxLen + k } }
    if x.req.promptLen ≤ z.fed + 1 then
      (if roleOf s p = 0 then
        toState p n stShip (fun _ => { z with shipOrder := s.srv.order }) (modSrv (fun v => { v with order := v.order + 1 }) s)
      else enterDecode p n (setSlot p n z s))
    else setSlot p n { z with run := (nextRunOf s p x.req.bucket).getD 0 } s

/-- The requests of the run that the frame ends. -/
def passResults (p : Nat) (s : State) : State :=
  ((batchesOf s p).prefill.map (·.slot)).eraseDups.foldl (passRow p) s

/-- A running batch of the committing frame refers to a slot after this commit. -/
def inBatch (s : State) (p c n : Nat) : Bool :=
  ((batchesOf s p).decode.any (·.slot == n) && !stepCloses s p c) ||
    ((batchesOf s p).prefill.any (·.slot == n) && !runCloses s p c)

/-- The pages of a request that enters PREFILL: its prompt's on a PREFILL job, its whole reservation otherwise. -/
def enterPrefill (p n : Nat) (s : State) : State :=
  let x := slotOf s n
  let s := ensurePages p n (if roleOf s p = 0 then x.req.ctxLen + x.req.promptLen - 1 else x.ctl.kvResv) s
  toState p n stPrefill (fun x => { x with shipOrder := s.srv.order }) (modSrv (fun v => { v with order := v.order + 1 }) s)

end Sys2Proof.Machine
end

