-- ==== Sys2Proof/Machine/Ship.lean ====
section
/-!
DEFINITION. Prefill to decode (R354, R355, R359, R360): credits, ASSIGN and INSTALLED, the ship streams on the sending side,
and the arrival and confirmation of a shipment on the receiving side.
-/

namespace Sys2Proof.Machine

/-! ### Peers (R354, R355) -/

/-- The place of a slice in a list whose lead is a package's partition. -/
def peerIndex (l : List Nat) (pkg q : Nat) : Option Nat :=
  (List.range 4).find? (fun i => l.getD i 255 != 255 && Config.sliceLead (l.getD i 255) == (pkg, q))

/-- A message from a source that the receiver has not accepted is dropped, counted and answered NOT_AUTHORIZED. -/
def unaccepted (p : Nat) (s : State) : CtlAnswer × State :=
  (ackWith 0x0400, setEvent Reg.SRV_ERR_STALE_MSG 3 0x0E03 p p 0 noRecord (bump s Reg.SRV_STALE_MSG_CNT 1))

/-- Credits of target `i` of a prefill lead. -/
def setCredit (p i : Nat) (c : Nat × Nat) (s : State) : State :=
  modSrv (fun v => { v with credits := tput (0, 0) v.credits (4 * p + i) c }) s

/-- Credits that a target has granted to source `i`. -/
def setGrant (p i : Nat) (c : Nat × Nat) (s : State) : State :=
  modSrv (fun v => { v with granted := tput (0, 0) v.granted (4 * p + i) c }) s

/-- What CREDIT_GRANT does on the prefill lead. -/
def applyGrant (h : CtlHdr) (slots pages : Nat) (s : State) : CtlAnswer × State :=
  let p := h.dstPart
  match peerIndex (admitCfg s p).targets h.srcPkg h.srcPart with
  | none => unaccepted p s
  | some i =>
    let c := tget (0, 0) s.srv.credits (4 * p + i)
    (ackWith 0, setCredit p i (c.1 + slots, c.2 + pages) s)

/-- CREDIT_GRANT: a prefill lead adds granted slot and page credits of a target. -/
def execCreditGrant (h : CtlHdr) (slots pages : Nat) (s : State) : Host.Outcome State Fault Refusal :=
  .next (applyCtl h (applyGrant h slots pages) s)

/-- What CREDIT_RETURN does on the target's lead. -/
def applyReturn (h : CtlHdr) (slots pages : Nat) (s : State) : CtlAnswer × State :=
  let p := h.dstPart
  match peerIndex (admitCfg s p).sources h.srcPkg h.srcPart with
  | none => unaccepted p s
  | some i =>
    let c := tget (0, 0) s.srv.granted (4 * p + i)
    (ackWith 0, setGrant p i (c.1 - slots, c.2 - pages) s)

/-- CREDIT_RETURN: a target lead takes back unused credits. -/
def execCreditReturn (h : CtlHdr) (slots pages : Nat) (s : State) : Host.Outcome State Fault Refusal :=
  .next (applyCtl h (applyReturn h slots pages) s)

/-- After a commit a target's lead tops up the sources that are below half of either figure. -/
def topUp (p : Nat) (s : State) (i : Nat) : State :=
  let c := admitCfg s p
  let src := c.sources.getD i 255
  let g := tget (0, 0) s.srv.granted (4 * p + i)
  if src = 255 ∨ (c.slots ≤ 2 * g.1 ∧ c.pages ≤ 2 * g.2) then s
  else
    let free := (freeSlots s p).length - ((List.range 4).map (fun j => (tget (0, 0) s.srv.granted (4 * p + j)).1)).sum
    let n := min (c.slots - g.1) free
    let m := min (c.pages - g.2) ((poolPositions s p - kvReserved s p) / 64)
    if n = 0 ∧ m = 0 then s
    else
      let d := slicePeer s p src 0
      sendCtl d.1 0x30 d.2 0xFFFFFFFF (creditBody (n, m)) true (setGrant p i (g.1 + n, g.2 + m) s)

/-- The grants of a target's lead after a commit. -/
def grantCredits (p : Nat) (s : State) : State :=
  if isLead s p && (roleOf s p == 1 || roleOf s p == 2) then (List.range 4).foldl (topUp p) s else s

/-- At the commit of an admission the prefill lead spends the credits and sends ASSIGN. -/
def sendAssign (p n i : Nat) (s : State) : State :=
  let x := slotOf s n
  let t := (admitCfg s p).targets.getD i 255
  let c := tget (0, 0) s.srv.credits (4 * p + i)
  let s := setCredit p i (c.1 - 1, c.2 - x.ctl.kvResv / 64) s
  let d := slicePeer s p t 255
  sendCtl d.1 0x32 d.2 0xFFFFFFFF
    (reqBytes x.req ++ ctlBytes x.ctl ++ leBytes 2 (n - slotBase s p) ++ leBytes 2 x.req.gen) true s

/-- The slot that an ASSIGN body names on the prefill job of partition `p`, if it still holds that request. -/
def assignSlot (s : State) (p : Nat) (body : Bytes) : Option Nat :=
  let n := slotBase s p + numAt body 128 2
  let x := slotOf s n
  if numAt body 128 2 < slotCount s p ∧ x.req.gen = numAt body 130 2 ∧ (x.req.state = stPrefill ∨ x.req.state = stShip) then some n
  else none

/-- An ASSIGN is answered with a failure, or not at all: its request goes to DRAIN (R355, Table 14-10). -/
def assignFailed (p : Nat) (body : Bytes) (st : Nat) (s : State) : State :=
  match assignSlot s p body with
  | some n => askSlot n (.fail st) s
  | none => s

/-- The request that an ASSIGN installs on the target: in SHIP, with the prefill job as its peer. -/
def assignedSlot (s : State) (p n src : Nat) (req ctl : Bytes) (jidx gen : Nat) : Slot :=
  let r := reqOf req
  let c := ctlOf ctl
  { Slot.free with
    req := { r with state := stShip, cause := 0, status := 0, role := roleOf s p, part := p,
                    gen := ((slotOf s n).req.gen + 1) % 2 ^ 16, ring := n - slotBase s p, ptRoot := 0, ctxLen := 0 }
    ctl := { c with peerJidx := jidx, peerGen := gen, peerSlice := src }
    order := s.srv.order }

/-- What ASSIGN does on the target's lead: the request is installed by the next plan, and INSTALLED answers then. -/
def applyAssign (h : CtlHdr) (req ctl : Bytes) (jidx gen : Nat) (s : State) : CtlAnswer × State :=
  let p := h.dstPart
  match peerIndex (admitCfg s p).sources h.srcPkg h.srcPart with
  | none => unaccepted p s
  | some i =>
    let g := tget (0, 0) s.srv.granted (4 * p + i)
    let k := (ctlOf ctl).kvResv / 64
    if !isLead s p then (ackWith 0x0383, s)
    else if roleOf s p = 3 then (ackWith 0x0320, s)
    else if roleOf s p = 0 then (ackWith 0x0300, s)
    else if g.1 = 0 ∨ g.2 < k then (ackWith 0x0280, s)
    else match freeSlots s p with
      | [] => (ackWith 0x0281, s)
      | n :: _ =>
        let x := assignedSlot s p n ((admitCfg s p).sources.getD i 255) req ctl jidx gen
        let s := askSlot n (.install x h.srcPkg h.mseq) (modSrv (fun v => { v with order := v.order + 1 }) s)
        (none, setGrant p i (g.1 - 1, g.2 - k) s)

/-- ASSIGN: a target lead installs a request in SHIP through its frame plan and answers INSTALLED. -/
def execCtlAssign (h : CtlHdr) (req ctl : Bytes) (jidx gen : Nat) (s : State) : Host.Outcome State Fault Refusal :=
  .next (applyCtl h (applyAssign h req ctl jidx gen) s)

/-- An answer that a commit gives to a message that was applied before: copies get the same (R292). -/
def answerLater (pkg mseq srcPart dstPart mtype : Nat) (body : Bytes) (s : State) : State :=
  let s := { s with fab := { s.fab with seen := s.fab.seen.map (fun c =>
    if c.src = pkg ∧ c.mseq = mseq then { c with mtype := mtype, body := body } else c) } }
  sendCtl pkg mtype { kaolinTo with srcPart := srcPart, dstPart := dstPart } mseq body true s

/-- The commit installs an assigned request and answers INSTALLED. -/
def installSlot (p n : Nat) (x : Slot) (pkg mseq : Nat) (s : State) : State :=
  let s := setSlot p n x s
  answerLater pkg mseq p (Config.sliceLead x.ctl.peerSlice).2 0x33
    (leBytes 2 x.ctl.peerJidx ++ leBytes 2 x.ctl.peerGen ++ leBytes 2 (n - slotBase s p) ++ leBytes 2 x.req.gen) s

/-- What INSTALLED does on the prefill lead: the request joins the ship order at the next commit. -/
def applyInstalled (h : CtlHdr) (jidx gen tjidx tgen : Nat) (s : State) : CtlAnswer × State :=
  let p := h.dstPart
  match peerIndex (admitCfg s p).targets h.srcPkg h.srcPart with
  | none => unaccepted p s
  | some _ =>
    match assignSlot s p (List.replicate 128 0 ++ leBytes 2 jidx ++ leBytes 2 gen) with
    | some n => (ackWith 0, askSlot n (.installed tjidx tgen) s)
    | none => (ackWith 0x0382, s)

/-- INSTALLED: a prefill lead records the target's JIDX and GEN. -/
def execInstalled (h : CtlHdr) (jidx gen tjidx tgen : Nat) (s : State) : Host.Outcome State Fault Refusal :=
  .next (applyCtl h (applyInstalled h jidx gen tjidx tgen) s)

/-! ### Sending a shipment (R359) -/

/-- The ship streams that this package sends for a partition's job, ascending. -/
def shipStreams (s : State) (p : Nat) : List Nat :=
  (((partEnts s p).filter (fun e => !e.ingress && e.use == 4)).map (·.stream)).foldl (fun l x => insertAsc x l) []

/-- Transfers of a stream in the frame that runs. -/
def streamSlots (s : State) (p st : Nat) : List Nat :=
  match (part s p).image with
  | some im =>
    ((imageRoutes im).filter (fun r => r.stream == st && (r.phase == 0xFFFF || r.phase == phaseOf s p))).map (·.slot)
  | none => []

/-- The SHIP requests of a partition that have joined the ship order. -/
def shipOrderOf (s : State) (p : Nat) : List Nat :=
  ((slotsIn s p stShip).filter (fun n => (slotOf s n).installed)).mergeSort
    (fun a b => decide ((slotOf s a).shipOrder ≤ (slotOf s b).shipOrder))

/-- The pages of a request that a stream carries, in ascending (LG, LPAGE). -/
def shipPagesOf (s : State) (p n st : Nat) : List KvPage :=
  let x := slotOf s n
  let ss := shipStreams s p
  (x.pages.filter (fun g => decide (64 * g.lpage < x.req.ctxLen) &&
    ss[Config.shipStream x.ctl.peerSlice g.lg g.lpage % max 1 ss.length]? == some st)).mergeSort
      (fun a b => decide (a.lg < b.lg) || (a.lg == b.lg && decide (a.lpage ≤ b.lpage)))

/-- The pieces of a request that a stream has not shipped: page and piece of the page. -/
def piecesLeft (s : State) (p n st : Nat) : List (KvPage × Nat) :=
  let k := pagePieces (srvSec s p)
  ((shipPagesOf s p n st).map (fun g => (List.range k).map (fun j => (g, j)))).foldr (· ++ ·) []
    |>.drop (tget 0 (slotOf s n).shipped st)

/-- The data pieces of a stream in the running frame: slot, page, piece. At most 126 pages, as the manifest has entries. -/
def frameShip (s : State) (p st : Nat) : List (Nat × KvPage × Nat) :=
  let l := (((shipOrderOf s p).map (fun n => (piecesLeft s p n st).map (fun e => (n, e.1, e.2)))).foldr (· ++ ·) []).take
    ((streamSlots s p st).length - 1)
  let pages := (l.map (fun e => (e.1, e.2.1))).eraseDups.take 126
  l.filter (fun e => pages.contains (e.1, e.2.1))

/-- The manifest of a stream in the running frame (Table 14-7). The spec gives its header's contents and no layout: bytes 0–1
pages, 2–3 rank, 4–5 frame, 6 slice, 7 role, 8–15 model epoch. -/
def manifestOf (s : State) (p st : Nat) : Bytes :=
  let l := frameShip s p st
  let pages := (l.map (fun e => (e.1, e.2.1))).eraseDups
  let target := match l with | e :: _ => (slotOf s e.1).ctl.peerSlice | [] => 255
  let entry (g : Nat × KvPage) : Bytes :=
    let x := slotOf s g.1
    let mine := l.filter (fun e => e.1 == g.1 && e.2.1 == g.2)
    leBytes 2 x.ctl.peerJidx ++ leBytes 2 x.ctl.peerGen ++ leBytes 1 g.2.lg ++ leBytes 3 g.2.lpage ++
      leBytes 1 (min 64 (x.req.ctxLen - 64 * g.2.lpage)) ++ leBytes 2 (match mine with | e :: _ => e.2.2 | [] => 0) ++
      leBytes 2 mine.length ++ List.replicate 19 0
  padTo 4096 (padTo 64 (leBytes 2 pages.length ++ leBytes 2 (ownRank s p) ++ leBytes 2 (frameNo s) ++ leBytes 1 target ++
    leBytes 1 1 ++ leBytes 8 (part s p).modelEpoch) ++ joinBytes (pages.map entry))

/-- Piece `j` of a ship stream in the running frame: none where its memory cannot be read, some [] where there is none. -/
def shipPiece (s : State) (p st j : Nat) : Option Bytes :=
  if j = 0 then some (manifestOf s p st)
  else match (frameShip s p st)[j - 1]? with
    | none => some []
    | some e =>
      let z := kvPageBytes (decl s p)
      let n := min 4096 (z - 4096 * e.2.2)
      let a := e.2.1.addr + 4096 * e.2.2
      if anyBad s a n then none else some (padTo 4096 (readMem s a n))

/-- At the commit the ship positions advance, and a request whose last piece this frame carried leaves its slot (R360). -/
def shipAdvance (p : Nat) (s : State) : State :=
  if roleOf s p ≠ 0 then s
  else
    let ss := shipStreams s p
    let s := ss.foldl (fun s st =>
      let l := frameShip s p st
      l.foldl (fun s e => modSlot p e.1 (fun x => { x with shipped := tmod 0 x.shipped st (· + 1) }) s)
        (account s p 0x50 (4096 * l.length))) s
    (shipOrderOf s p).foldl (fun s n =>
      if ss.all (fun st => (piecesLeft s p n st).isEmpty) then freeSlot p n s else s) s

/-! ### Receiving a shipment (R359, R360) -/

/-- The slices whose shipments a partition takes, as far as this package knows them. -/
def shipSources (s : State) (p : Nat) : List Nat :=
  ((admitCfg s p).sources.filter (· != 255) ++ (s.srv.shipPages.filter (fun g => g.part == p)).map (·.src)).eraseDups

/-- The entries of a manifest as the data pieces that follow it, in order: entry bytes and piece of the page. -/
def manifestPieces (m : Bytes) : List (Bytes × Nat) :=
  (((List.range (min 126 (numAt m 0 2))).map (fun i => bytesAt m (64 + 32 * i) 32)).map (fun e =>
    (List.range (numAt e 11 2)).map (fun k => (e, numAt e 9 2 + k)))).foldr (· ++ ·) []

/-- A manifest is meant for this partition: its slice, role and model epoch (R355). -/
def manifestOk (s : State) (p : Nat) (m : Bytes) : Bool :=
  numAt m 6 1 == sliceOf s p && (numAt m 7 1 == roleOf s p || (numAt m 7 1 == 1 && roleOf s p == 2)) &&
    numAt m 8 8 == (part s p).modelEpoch

/-- The page that a shipped piece goes to: the one being filled, or a new page of the pool. -/
def shipTarget (p n lg lp src : Nat) (s : State) : Option Nat × State :=
  match s.srv.shipPages.find? (fun g => g.part == p && g.slot == n && g.page.lg == lg && g.page.lpage == lp) with
  | some g => (some g.page.addr, s)
  | none =>
    let z := kvPageBytes (decl s p)
    match poolPlace s p (kvPlace (srvSec s p) lg).2.2.1 z 256 with
    | some a => (some a, modSrv (fun v => { v with shipPages := v.shipPages ++ [⟨p, n, ⟨lg, lp, a⟩, src, []⟩] }) (pinPhys p a z true s))
    | none => (none, s)

/-- A data piece of a shipment arrives: it is written in place. A piece for a request that is not in SHIP here is dropped. -/
def shipArrive (p src : Nat) (manifest : Bytes) (idx : Nat) (data : Bytes) (s : State) : State :=
  let s := bump s Reg.SRV_SHIP_PIECE_CNT 1
  if idx = 0 then
    (if manifestOk s p data then s
     else setEvent Reg.SRV_ERR_STALE_MSG 3 0x0E03 p p 0 noRecord (bump s Reg.SRV_STALE_MSG_CNT 1))
  else if !manifestOk s p manifest then s
  else match (manifestPieces manifest)[idx - 1]? with
    | none => s
    | some (e, j) =>
      let n := slotBase s p + numAt e 0 2
      let x := slotOf s n
      if slotCount s p ≤ numAt e 0 2 ∨ x.req.gen ≠ numAt e 2 2 ∨ x.req.state ≠ stShip then s
      else
        let z := kvPageBytes (decl s p)
        let lg := numAt e 4 1
        let lp := numAt e 5 3 % 2 ^ 18
        match shipTarget p n lg lp src s with
        | (some a, s) =>
          let k := min 4096 (z - 4096 * j)
          let s := account (clearBad (a + 4096 * j) k (writeMem s (a + 4096 * j) (data.take k))) p 0x58 k
          modSrv (fun v => { v with shipPages := v.shipPages.map (fun g =>
            if g.part = p ∧ g.slot = n ∧ g.page.lg = lg ∧ g.page.lpage = lp then { g with src := src, got := insertAsc j g.got }
            else g) }) s
        | (none, s) => s

/-- Every piece of a request's share has arrived, from slices whose frame commits. -/
def shipWhole (s : State) (p n : Nat) (aborted : List Nat) : Bool :=
  let k := pagePieces (srvSec s p)
  (ownPages s p ((slotOf s n).req.promptLen - 1)).all (fun x =>
    s.srv.shipPages.any (fun g => g.part == p && g.slot == n && g.page.lg == x.1 && g.page.lpage == x.2 &&
      decide (k ≤ g.got.length) && !aborted.contains g.src))

/-- At a tick shipments are confirmed whose sending frames commit. -/
def shipConfirm (p : Nat) (aborted : List Nat) (s : State) : State :=
  if roleOf s p = 0 ∨ roleOf s p = 3 then s
  else (slotsIn s p stShip).foldl (fun s n =>
    if shipWhole s p n aborted then modSlot p n (fun x => { x with installed := true }) s else s) s

/-- At a commit a confirmed shipment's pages are linked and its request enters DECODE (R360). -/
def shipLink (p : Nat) (s : State) : State :=
  if roleOf s p = 0 then s
  else ((slotsIn s p stShip).filter (fun n => (slotOf s n).installed)).foldl (fun s n =>
    let mine := s.srv.shipPages.filter (fun g => g.part == p && g.slot == n)
    let s := modSrv (fun v => { v with shipPages := v.shipPages.filter (fun g => !(g.part == p && g.slot == n)) }) s
    let s := mine.foldl (fun s g =>
      linkPage p n (kvPlace (srvSec s p) g.page.lg).2.2.1 g.page (modSlot p n (fun y => { y with pages := y.pages ++ [g.page] }) s)) s
    enterDecode p n (modSlot p n (fun x =>
      { x with fed := x.req.promptLen - 1, req := { x.req with ctxLen := x.req.promptLen - 1 } }) s)) s

/-- The pages that shipments were filling for a slot go back. -/
def dropShipPages (p n : Nat) (s : State) : State :=
  let z := kvPageBytes (decl s p)
  let mine := s.srv.shipPages.filter (fun g => g.part == p && g.slot == n)
  mine.foldl (fun s g => pinPhys p g.page.addr z false s)
    (modSrv (fun v => { v with shipPages := v.shipPages.filter (fun g => !(g.part == p && g.slot == n)) }) s)

end Sys2Proof.Machine
end

