-- ==== Sys2Proof/Machine/Session.lean ====
section
/-!
DEFINITION. Fallow images (R372–R378), the session queue (R389), SESSION_FALLOW and the writing of an image (R379–R381).
-/

namespace Sys2Proof.Machine

/-! ### Errors and the session queue (R389, R390, Table 15-10) -/

/-- A set bit of the session error register (codes 0x0Fxx, source 3), without an error record. -/
def sessEvent (f : Field) (b p : Nat) (s : State) : State := setEvent f 3 (0x0F00 + b) p 0 0 noRecord s

/-- A failed session operation: its bit, an error record and its event, by its status (Table 15-7). -/
def sessFailed (p st : Nat) (s : State) : State :=
  let s := bump s Reg.SESS_FAIL_CNT 1
  let e (f : Field) (b : Nat) : State := unitError f 3 (0x0F00 + b) 14 1 1 23 p 0 0 [] false s
  if st = 0x0540 then e Reg.SESS_ERR_UE 0
  else if st = 0x04A2 then e Reg.SESS_ERR_AUTH 1
  else if st = 0x04A0 then e Reg.SESS_ERR_DIGEST 2
  else if st = 0x0582 then e Reg.SESS_ERR_IO 3
  else s

/-- QUEUED and RUNNING follow the session queue: operations run in order, at most MAX_OPS at once. -/
def showSess (s : State) : State :=
  let n := s.srv.sessOps.length
  let r := min n (min 16 (max 1 (rd s Reg.SESS_MAX_OPS)))
  wr (wr s Reg.SESS_RUNNING r) Reg.SESS_QUEUED (n - r)

/-- Change the session queue. -/
def setOps (l : List SessOp) (s : State) : State := showSess (modSrv (fun v => { v with sessOps := l }) s)

/-- Append an operation. -/
def addOp (o : SessOp) (s : State) : State := setOps (s.srv.sessOps ++ [o]) s

/-- The queue has room for `n` more operations; a command refused for want of it sets QUEUE_FULL. -/
def sessRoom (s : State) (n : Nat) : Bool := decide (s.srv.sessOps.length + n ≤ 4096)

/-- A command that the session queue has no room for. -/
def refuseQueue (p : Nat) (s : State) : CmdOut := ⟨0x0200, [], [], sessEvent Reg.SESS_ERR_QUEUE_FULL 5 p s, none⟩

/-- The operation of an OP_ID. -/
def opOf (s : State) (id : Nat) : Option SessOp := s.srv.sessOps.find? (fun o => o.op == some id)

/-- Change the operation of an OP_ID. -/
def modSess (id : Nat) (f : SessOp → SessOp) (s : State) : State :=
  setOps (s.srv.sessOps.map (fun o => if o.op = some id then f o else o)) s

/-! ### Images (R372–R375) -/

/-- An image that this package leads. -/
def imageOf (s : State) (id : Nat) : Option SessImage := s.srv.images.find? (fun x => x.id == id)

/-- Change an image that this package leads. -/
def modImage (id : Nat) (f : SessImage → SessImage) (s : State) : State :=
  modSrv (fun v => { v with images := v.images.map (fun x => if x.id = id then f x else x) }) s

/-- The lead package in an IMAGE_ID. -/
def imageLead (id : Nat) : Nat := id / 2 ^ 56

/-- Pages per layer group of a context length. -/
def npgOf (ctx : Nat) : Nat := ceilDiv ctx 64

/-- Geometry of a declaration and an image as the session core has them: NLG, G, NL and NP, SPAN_LOG2, R. -/
def geometry (s : State) (p : Nat) : List Nat :=
  let d := decl s p
  [nlgOf (srvSec s p), numAt d 8 1, numAt d 9 1 % 64, numAt d 10 1, kvRowBytes d]

/-- The geometry that an image header carries (bytes 60–65). -/
def headerGeometry (h : Bytes) : List Nat := [numAt h 60 1, numAt h 61 1, numAt h 62 1 % 64, numAt h 63 1, numAt h 64 2]

/-- Payload bytes of a unit with `nrows` rows. -/
def unitPayload (g r nrows : Nat) : Nat := g * nrows * r

/-- NROWS of logical page `lp`. -/
def unitRows (ctx lp : Nat) : Nat := min 64 (ctx - 64 * lp)

/-- Bytes that a unit takes in a segment. -/
def unitSize (g r nrows : Nat) : Nat := 256 + 256 * ceilDiv (unitPayload g r nrows) 256

/-- The header of a new image (Table 15-2), without DIGEST and NSEG. -/
def newHeader (s : State) (p id nonce keyId : Nat) (r : ReqRec) : Bytes :=
  let d := decl s p
  let nlg := nlgOf (srvSec s p)
  let npg := npgOf r.ctxLen
  let pay := nlg * (numAt d 8 1 * r.ctxLen * kvRowBytes d)
  leBytes 4 0x464C5753 ++ [1, 1] ++ leBytes 2 0 ++ leBytes 8 id ++ leBytes 8 nonce ++ leBytes 8 r.session ++
    leBytes 8 (part s p).modelId ++ leBytes 8 (part s p).modelEpoch ++ leBytes 4 r.ctxLen ++ leBytes 4 (nlg * npg) ++
    leBytes 4 npg ++ leBytes 1 nlg ++ leBytes 1 (numAt d 8 1) ++ leBytes 1 (numAt d 9 1 % 64) ++ leBytes 1 (numAt d 10 1) ++
    leBytes 2 (kvRowBytes d) ++ leBytes 6 0 ++ leBytes 8 pay ++ leBytes 6 (frameNo s) ++ leBytes 2 0 ++
    leBytes 1 (sliceOf s p) ++ leBytes 1 (pkgId s) ++ leBytes 1 0 ++ leBytes 1 0 ++ leBytes 4 keyId ++
    List.replicate 32 0 ++ List.replicate 128 0

/-- A turn is open: the request was in DECODE, or in HOLD with a cause other than TURN. -/
def turnOpen (r : ReqRec) : Bool := r.state == stDecode || r.cause != 8

/-- The plaintext of the record section (Table 15-3). -/
def recordSection (s : State) (n : Nat) (x : Slot) : Bytes :=
  let c := x.ctl
  leBytes 8 c.key ++ leBytes 2 c.tau ++ leBytes 2 c.topk ++ leBytes 2 c.topp ++ leBytes 1 (c.nstop % 8) ++
    leBytes 1 (bnat x.req.keep + 2 * bnat x.req.xepoch + 4 * bnat (turnOpen x.req)) ++
    joinBytes ((List.range 4).map (fun i => leBytes 4 (c.stops.getD i 0))) ++ leBytes 4 c.maxNew ++ leBytes 4 x.req.genLen ++
    leBytes 4 x.req.promptLen ++ leBytes 8 x.req.samplerCtr ++ leBytes 12 0 ++ reqBytes x.req ++ ctlBytes c ++
    leBytes 4 (match ringOf s n with | some r => r.tail | none => 0) ++ List.replicate 44 0

/-- The invariant block of a header: bytes 0–7 and 24–79. -/
def invariant (h : Bytes) : Bytes := bytesAt h 0 8 ++ bytesAt h 24 56

/-- The IV of part `i` of an image: NONCE ‖ i, each most significant byte first. -/
def imageIv (h : Bytes) (i : Nat) : Bytes := beBytes 8 (numAt h 16 8) ++ beBytes 4 i

/-- Seal a record section (R373): 240 bytes of cipher text and the tag. -/
def sealRecord (key h rec' : Bytes) : Bytes := padTo 256 (gcmSeal key (imageIv h 0xFFFFFFFE) (invariant h) rec')

/-- Open a sealed record section. -/
def openRecord (key h b : Bytes) : Option Bytes :=
  gcmOpen key (imageIv h 0xFFFFFFFE) (invariant h) (b.take 240) (bytesAt b 240 16)

/-- Bytes 0–15 of a unit header (Table 15-4). -/
def unitHead (lg lp nrows len i : Nat) : Bytes :=
  leBytes 1 lg ++ [0] ++ leBytes 3 lp ++ leBytes 1 nrows ++ leBytes 2 0 ++ leBytes 4 len ++ leBytes 4 i

/-- A unit as stored: header with the tag, cipher text, padding. -/
def sealUnit (key h head pay : Bytes) : Bytes :=
  let c := gcmSeal key (imageIv h (numAt head 12 4)) head pay
  padTo (256 + 256 * ceilDiv pay.length 256) (head ++ List.replicate 224 0 ++ bytesAt c pay.length 16 ++ c.take pay.length)

/-- The payload of a stored unit, none where its tag fails. -/
def openUnit (key h u : Bytes) : Option Bytes :=
  let n := numAt u 8 4
  gcmOpen key (imageIv h (numAt u 12 4)) (u.take 16) (bytesAt u 256 n) (bytesAt u 240 16)

/-- UH of a unit (R375). -/
def unitHash (head pay : Bytes) : BitVec 256 := sha256 (head ++ pay)

/-- The image digest (R375). -/
def imageDigest (h core : Bytes) (uhs : List (BitVec 256)) : BitVec 256 :=
  sha256 (invariant h ++ core ++ joinBytes (uhs.map (fun u => leBytes 32 u.toNat)))

/-- The bytes of a digest, first byte first. -/
def digestBytes (d : BitVec 256) : Bytes := leBytes 32 d.toNat

/-- The rows of a page in unit order: for each layer of the group, rows 0 to `nrows` − 1. -/
def pageRows (s : State) (a g r nrows : Nat) : Bytes :=
  joinBytes ((List.range g).map (fun l => readMem s (a + l * 64 * r) (nrows * r)))

/-- Write a unit's rows into a page (R183). -/
def putRows (a g r nrows : Nat) (pay : Bytes) (s : State) : State :=
  (List.range g).foldl (fun s l =>
    clearBad (a + l * 64 * r) (nrows * r) (writeMem s (a + l * 64 * r) (bytesAt pay (l * nrows * r) (nrows * r)))) s

/-! ### Segments and media (R376, R377) -/

/-- A segment that this package stores. -/
def segmentOf (s : State) (id : Nat) : Option Segment := s.srv.segments.find? (fun g => g.image == id)

/-- Fallow-store frames that segments take. -/
def storeUsed (s : State) : List Nat := (s.srv.segments.map (·.frames)).foldr (· ++ ·) []

/-- The lowest free frames of the fallow store, which lies directly above the free pool (R235). -/
def storeFrames (s : State) (n : Nat) : Option (List Nat) :=
  let free := ((List.range (rd s Reg.TIER_FALLOW_FRAMES)).map (· + poolFrames s)).filter (fun f => !(storeUsed s).contains f)
  if free.length < n then none else some (free.take n)

/-- The namespace of a medium. -/
def mediumNsid (s : State) (m : Nat) : Nat := if m = 1 then rd s Reg.SESS_S0_NSID else rd s Reg.SESS_S1_NSID

/-- A medium has room for `n` bytes on this package. -/
def mediumRoom (s : State) (m n : Nat) : Bool :=
  if m = 0 then (storeFrames s (ceilDiv n pageBytes)).isSome
  else if m ≤ 2 then mediumNsid s m != 0 && rdb s (Reg.HIF_DEV_PRESENT (m + 1)) else false

/-- The bytes of a segment of a session of `ctx` positions on this package. -/
def segmentSize (s : State) (p ctx : Nat) : Nat :=
  let d := decl s p
  ((ownPages s p ctx).map (fun x => unitSize (numAt d 8 1) (kvRowBytes d) (unitRows ctx x.2))).sum +
    (if isLead s p then 512 + 16 * (membersOf s p).length else 0)

/-- Store a segment; NVMe segments go to the drive. -/
def storeSegment (g : Segment) (s : State) : State :=
  let n := (g.units.map (fun u => u.2.length)).sum
  let s := modSrv (fun v => { v with segments := v.segments.filter (fun x => x.image != g.image) ++ [g] }) s
  let s := bump s Reg.SESS_BYTES_OUT_CNT n
  if g.medium = 0 then s
  else emit s (.nvme (g.medium - 1) (mediumNsid s g.medium) g.image true (joinBytes (g.units.map (·.2))))

/-- Remove a segment from its medium. -/
def dropSegment (id : Nat) (s : State) : State :=
  modSrv (fun v => { v with segments := v.segments.filter (fun g => g.image != id) }) s

/-! ### SESSION_FALLOW (R379) -/

/-- A fallow of the request waits for its commit. -/
def fallowPending (s : State) (n : Nat) : Bool :=
  (s.srv.asks ++ s.srv.lateAsks).any (fun r => r.slot == n && (match r.ask with | .fallow _ => true | _ => false))

/-- The next IMAGE_ID of a partition. -/
def nextImageId (s : State) (p : Nat) : Nat := pkgId s * 2 ^ 56 + p * 2 ^ 51 + tget 0 s.srv.nextImage p % 2 ^ 51

/-- A new image of a slot: its entry in the catalog, still to be written. -/
def newImage (p n medium keyId : Nat) (op : Option Nat) (s : State) : Nat × State :=
  let id := nextImageId s p
  let img : SessImage :=
    { id := id, part := p, medium := medium, keyId := keyId, header := [], record := [], segs := [], uh := [], reported := [],
      op := op, slot := n, state := 1, written := false }
  (id, modSrv (fun v => { v with images := v.images ++ [img], nextImage := tmod 0 v.nextImage p (· + 1) }) s)

/-- SESSION_FALLOW. -/
def cmdSessionFallow (e : Entry) (_ : HostIo) (s : State) : CmdOut :=
  let p := e.part
  if !isLead s p then refuseCmd 0x0383 s
  else match handleSlot s p (arg e 8 4) with
    | none => refuseCmd 0x0382 s
    | some n =>
      let r := (slotOf s n).req
      if (r.state ≠ stDecode ∧ r.state ≠ stHold) ∨ fallowPending s n then refuseCmd 0x0300 s
      else if (keyOf s 2 p (arg e 16 4)).isNone then refuseCmd 0x04A1 s
      else if !sessRoom s 1 then refuseQueue p s
      else if !mediumRoom s (arg e 12 1) (segmentSize s p r.ctxLen) then refuseCmd 0x0284 s
      else
        let i := newOp 0x0501 e p s
        let m := newImage p n (arg e 12 1) (arg e 16 4) (some i.1) i.2
        pendCmd i.1 (leBytes 8 m.1) (askSlot n (.fallow m.1) m.2)

/-- SESSION_FALLOW. -/
def execSessionFallow (e : Entry) (io : HostIo) (s : State) : Host.Outcome State Fault Refusal :=
  runRow Row.sessionFallow cmdSessionFallow e io s

/-- The event of an image operation, with the digest on success. -/
def imageDone (p st id : Nat) (op : Option Nat) (digest : Option (BitVec 256)) (s : State) : State :=
  match op with
  | some o =>
    outcome o 0x8005 p (leBytes 4 o ++ leBytes 2 st ++ leBytes 2 0 ++ leBytes 8 id)
      (match digest with | some d => [digestBytes d] | none => []) s
  | none => s

/-- A fallow that a DRAIN overtakes is dropped and its space released (R380). -/
def dropFallow (p id : Nat) (s : State) : State :=
  match imageOf s id with
  | some g => imageDone p 0x0300 id g.op none (modSrv (fun v => { v with images := v.images.filter (fun x => x.id != id) }) s)
  | none => s

/-- A request enters FALLOW on the lead (R380): its state is captured, and writing begins. -/
def enterFallow (p n id : Nat) (s : State) : State :=
  match imageOf s id with
  | none => s
  | some g =>
    let x := slotOf s n
    let d := draw 64 s
    let h := newHeader d.2 p id d.1.toNat g.keyId x.req
    let s := modImage id (fun y => { y with header := h, record := recordSection s n x }) d.2
    let s := addOp ⟨none, p, .write id n, [], [], 0, [], [], [], 0, false⟩ s
    toState p n stFallow (fun y => { y with image := id, imageState := 1 }) s

/-! ### Writing an image (R380) -/

/-- Forget the write operation of a slot. -/
def dropWrite (p n : Nat) (s : State) : State :=
  setOps (s.srv.sessOps.filter (fun o => !(o.part == p && (match o.kind with | .write _ m => m == n | _ => false)))) s

/-- The lead takes a segment's unit hashes; `last` carries the segment's size. -/
def takeReport (id pkg : Nat) (last : Bool) (medium bytes units : Nat) (uhs : List (Nat × BitVec 256)) (s : State) : State :=
  modImage id (fun g =>
    if g.state = 1 then
      { g with uh := uhs.foldl (fun t u => tput 0 t u.1 u.2) g.uh,
               segs := if last then g.segs.filter (fun x => x.1 != pkg) ++ [(pkg, medium, units, bytes)] else g.segs,
               reported := if last then insertAsc pkg g.reported else g.reported }
    else g) s

/-- The SEG_REPORT messages of a segment: 100 hashes each, the last with the segment's size. -/
def reportBodies (id medium bytes : Nat) (uhs : List (Nat × BitVec 256)) : List Bytes :=
  let k := max 1 (ceilDiv uhs.length 100)
  (List.range k).map (fun i =>
    let l := (uhs.drop (100 * i)).take 100
    let last : Bool := i + 1 == k
    leBytes 8 id ++ leBytes 4 (match l with | u :: _ => u.1 | [] => 0) ++ leBytes 2 l.length ++ leBytes 1 (bnat last) ++
      leBytes 1 medium ++ leBytes 8 (if last then bytes else 0) ++ leBytes 4 uhs.length ++ leBytes 4 0 ++
      joinBytes (l.map (fun u => leBytes 4 u.1 ++ digestBytes u.2)))

/-- A holding package's report reaches the lead. -/
def reportSegment (p id medium bytes : Nat) (uhs : List (Nat × BitVec 256)) (s : State) : State :=
  if isLead s p then takeReport id (pkgId s) true medium bytes uhs.length uhs s
  else
    let l := leadOf s p
    (reportBodies id medium bytes uhs).foldl (fun s b => sendCtl l.1 0x50 (memberTo s p l.2) 0xFFFFFFFF b true s) s

/-- An image fails (R381): its space is released, and SESSION_IMAGE_DONE reports the status. -/
def failImage (id st : Nat) (s : State) : State :=
  match imageOf s id with
  | none => s
  | some g =>
    if g.state ≠ 1 then s
    else
      let p := g.part
      let s := sessFailed p st (dropSegment id (dropWrite p g.slot s))
      let s := modImage id (fun y => { y with state := 3, uh := [], written := false }) s
      let s := (membersOf s p).foldl (fun s m =>
        if m.1 = pkgId s then s else sendCtl m.1 0x54 kaolinTo 0xFFFFFFFF (leBytes 8 id) true s) s
      let s := if (slotOf s g.slot).image = id then modSlot p g.slot (fun x => { x with imageState := 3 }) s else s
      imageDone p st id g.op none s

/-- FALLOW_IMAGE_FAILED: a holding package is lost, a page cannot be read, the medium fails or a message goes unanswered. -/
def execFallowImageFailed (image st : Nat) (s : State) : Host.Outcome State Fault Refusal := .next (failImage image st s)

/-- The units of a slot's pages on this package, ascending: index, header bytes 0–15, payload, and whether it could be read. -/
def slotUnits (s : State) (p n : Nat) (h : Bytes) : List (Nat × Bytes × Bytes × Bool) :=
  let g := numAt h 61 1
  let r := numAt h 64 2
  let ctx := numAt h 48 4
  let ps := (slotOf s n).pages.filter (fun k => decide (64 * k.lpage < ctx))
  let us := ps.map (fun k =>
    let nr := unitRows ctx k.lpage
    let i := k.lg * numAt h 56 4 + k.lpage
    let len := unitPayload g r nr
    (i, unitHead k.lg k.lpage nr len i, pageRows s k.addr g r nr, !anyBad s k.addr (kvPageBytes (decl s p))))
  us.mergeSort (fun a b => decide (a.1 ≤ b.1))

/-- FALLOW_SEGMENT_DONE on a holding package: slot `jidx` of partition `p`. The lead has the image's header; on another
package `hdr` and `medium` are what the lead's Kaolin gave it. `ok`: the medium took the segment. -/
def execFallowSegmentDone (p jidx : Nat) (hdr : Bytes) (medium : Nat) (ok : Bool) (s : State) : Host.Outcome State Fault Refusal :=
  let n := slotBase s p + jidx
  let x := slotOf s n
  let img := if isLead s p then imageOf s x.image else none
  let h := match img with | some g => g.header | none => padTo 256 hdr
  let m := match img with | some g => g.medium | none => medium
  let id := numAt h 8 8
  if slotCount s p ≤ jidx ∨ x.req.state ≠ stFallow ∨ (isLead s p && img.isNone) ∨ x.imageState = 2 ∨ x.imageState = 3 then .next s
  else
    let us := slotUnits s p n h
    let s := dropWrite p n s
    match keyOf s 2 p (numAt h 92 4) with
    | none => .next (failImage id 0x0582 s)
    | some key =>
      let size := (us.map (fun u => 256 + 256 * ceilDiv u.2.2.1.length 256)).sum + (if isLead s p then 512 + 16 * (membersOf s p).length else 0)
      let fs := if m = 0 then storeFrames s (ceilDiv size pageBytes) else some []
      if us.any (fun u => !u.2.2.2) then .next (if img.isSome then failImage id 0x0540 s else sessFailed p 0x0540 s)
      else match ok, fs with
        | true, some fs =>
          let seg : Segment := ⟨id, p, m, fs, us.map (fun u => (u.1, sealUnit key h u.2.1 u.2.2.1))⟩
          .next (reportSegment p id m size (us.map (fun u => (u.1, unitHash u.2.1 u.2.2.1))) (storeSegment seg s))
        | _, _ => .next (if img.isSome then failImage id 0x0582 s else sessFailed p 0x0582 s)

/-- What SEG_REPORT does on the lead. -/
def applySegReport (h : CtlHdr) (image : Nat) (last : Bool) (medium bytes units : Nat) (uhs : List (Nat × BitVec 256)) (s : State) :
    CtlAnswer × State :=
  match imageOf s image with
  | none => (ackWith 0x0382, s)
  | some _ => (ackWith 0, takeReport image h.srcPkg last medium bytes units uhs s)

/-- SEG_REPORT: a lead receives a segment's unit hashes. -/
def execSegReport (h : CtlHdr) (image : Nat) (last : Bool) (medium bytes units : Nat) (uhs : List (Nat × BitVec 256)) (s : State) :
    Host.Outcome State Fault Refusal := .next (applyCtl h (applySegReport h image last medium bytes units uhs) s)

/-- Every unit of an image has been reported. -/
def imageWhole (g : SessImage) : Bool :=
  (List.range (numAt g.header 52 4)).all (fun i => tget 0 g.uh i != 0)

/-- The header of an image whose segments are written: NSEG and DIGEST. -/
def finishHeader (g : SessImage) : Bytes :=
  let d := imageDigest g.header (g.record.take 64) ((List.range (numAt g.header 52 4)).map (tget 0 g.uh))
  bytesAt g.header 0 90 ++ leBytes 1 g.segs.length ++ bytesAt g.header 91 5 ++ digestBytes d ++ bytesAt g.header 128 128

/-- An image becomes COMPLETE (R380): its pages are released, and the event carries the digest. -/
def completeImage (id : Nat) (s : State) : State :=
  match imageOf s id with
  | none => s
  | some g =>
    let s := bump (modImage id (fun y => { y with state := 2 }) s) Reg.SESS_FALLOW_CNT 1
    let s := if (slotOf s g.slot).image = id then
        releasePages g.part g.slot (modSlot g.part g.slot (fun x => { x with imageState := 2 }) s)
      else s
    imageDone g.part 0 id g.op (some (BitVec.ofNat 256 (numAt g.header 96 32))) s

/-- FALLOW_IMAGE_COMPLETE: the lead has computed the digest and written the header segment. The image is COMPLETE at the
lead's next commit; with no job there is none, and it is COMPLETE at once. -/
def execFallowImageComplete (image : Nat) (s : State) : Host.Outcome State Fault Refusal :=
  match imageOf s image with
  | none => .next s
  | some g =>
    if g.state ≠ 1 ∨ g.written ∨ g.header.isEmpty ∨ !imageWhole g then .next s
    else
      let s := modImage image (fun y => { y with header := finishHeader y, written := true }) s
      .next (if (part s g.part).job.busy then s else completeImage image s)

/-- At a lead's commit the images whose headers are written become COMPLETE, and the pages of failed ones go (R381). -/
def commitImages (p : Nat) (s : State) : State :=
  let done := s.srv.images.filter (fun g => g.part == p && g.written && g.state == 1)
  let s := done.foldl (fun s g => completeImage g.id s) s
  (slotsIn s p stFallow).foldl (fun s n =>
    if (slotOf s n).imageState = 3 ∧ (slotOf s n).pages ≠ [] then releasePages p n s else s) s

end Sys2Proof.Machine
end

