-- ==== Sys2Proof/Machine/Thaw.lean ====
section
/-!
DEFINITION. Thawing, export, import and discard of fallow images (R383–R388).
-/

namespace Sys2Proof.Machine

/-! ### Reading units (R384, R387) -/

/-- INDEX of the header segment's start in a UNIT_FETCH; the spec gives it none. -/
def headerIndex : Nat := 0xFFFFFFFF

/-- The header segment of an image that this package leads: header, sealed record section, segment table (R376). -/
def headerSegment (s : State) (g : SessImage) : Bytes :=
  g.header ++ sealRecord ((keyOf s 2 g.part g.keyId).getD []) g.header g.record ++
    joinBytes (g.segs.map (fun x => leBytes 1 x.1 ++ leBytes 1 x.2.1 ++ leBytes 2 0 ++ leBytes 4 x.2.2.1 ++ leBytes 8 x.2.2.2))

/-- Packages in the segment table of a header segment. -/
def holdersOf (h : Bytes) : List Nat := (List.range (numAt h 90 1)).map (fun i => numAt h (512 + 16 * i) 1)

/-- The units that an operation needs: all of an image's for an export, this package's share for a thaw. -/
def unitsNeeded (s : State) (o : SessOp) : List Nat :=
  match o.kind with
  | .exporting _ _ _ _ => List.range (numAt o.hdr 52 4)
  | .thaw _ _ _ _ => ((ownPages s o.part (numAt o.hdr 48 4)).map (fun x => x.1 * numAt o.hdr 56 4 + x.2))
  | _ => []

/-- The image that an operation reads. -/
def opImage : SessKind → Option Nat
  | .thaw i _ _ _ => some i
  | .exporting i _ _ _ => some i
  | _ => none

/-- Bytes of unit `i` of an image as stored. -/
def storedSize (h : Bytes) (i : Nat) : Nat :=
  unitSize (numAt h 61 1) (numAt h 64 2) (unitRows (numAt h 48 4) (i % max 1 (numAt h 56 4)))

/-- A unit that an operation has: from a segment on this package, or fetched whole. -/
def unitHere (s : State) (o : SessOp) (i : Nat) : Option Bytes :=
  let seg := (opImage o.kind).bind (segmentOf s)
  match seg.bind (fun g => if (tget [] g.units i).isEmpty then none else some (tget [] g.units i)) with
  | some u => some u
  | none => let u := tget [] o.units i; if u.length < storedSize o.hdr i ∨ u.isEmpty then none else some u

/-- Ask for unit bytes: 4,032 at most in one message. -/
def askUnit (id dst i off want : Nat) (s : State) : State :=
  sendCtl dst 0x51 kaolinTo 0xFFFFFFFF (leBytes 8 id ++ leBytes 4 i ++ leBytes 4 off ++ leBytes 4 (min want 4032)) true s

/-- The next fetch of an operation: the header segment from the image's lead, then the missing units from the packages of the
segment table, one request at a time. -/
def nextFetch (o : SessOp) (lead : Nat) (s : State) : State :=
  match opImage o.kind with
  | none => s
  | some id =>
    if o.hdr.isEmpty then askUnit id lead headerIndex 0 4032 s
    else match (unitsNeeded s o).find? (fun i => (unitHere s o i).isNone), (holdersOf o.hdr)[o.holder]? with
      | some i, some q => if q = pkgId s then s else
          askUnit id q i (tget [] o.units i).length (storedSize o.hdr i - (tget [] o.units i).length) s
      | _, _ => s

/-! ### SESSION_THAW (R383) -/

/-- The pages that an operation has written go back. -/
def dropPages (o : SessOp) (s : State) : State :=
  o.pages.foldl (fun s g => pinPhys o.part g.addr (kvPageBytes (decl s o.part)) false s) s

/-- A session read operation ends: its event (0x8006 thaw, 0x8007 export and import) and its place in the queue. -/
def endOp (o : SessOp) (st result : Nat) (s : State) : State :=
  let s := if st = 0 then s else dropPages o (sessFailed o.part st s)
  let s := setOps (s.srv.sessOps.filter (· != o)) s
  match o.op with
  | some id =>
    (match o.kind with
     | .thaw _ _ _ _ => outcome id 0x8006 o.part (leBytes 4 id ++ leBytes 2 st ++ leBytes 2 0 ++ leBytes 4 result) [] s
     | _ => outcome id 0x8007 o.part (leBytes 4 id ++ leBytes 2 st ++ leBytes 2 0 ++ leBytes 8 result) [] s)
  | none => s

/-- The checks on an image header that thaw and import share (Table 15-5). -/
def headerStatus (s : State) (p : Nat) (h : Bytes) : Option Nat :=
  if (keyOf s 2 p (numAt h 92 4)).isNone then some 0x04A1
  else if numAt h 32 8 ≠ (part s p).modelId ∨ numAt h 40 8 ≠ (part s p).modelEpoch then some 0x0381
  else if numAt h 5 1 ≠ 1 then some 0x0385
  else if headerGeometry h ≠ geometry s p then some 0x0102
  else none

/-- The record section of a header segment, none where its tag fails. -/
def recordOfHeader (s : State) (p : Nat) (h : Bytes) : Option Bytes :=
  openRecord ((keyOf s 2 p (numAt h 92 4)).getD []) h (bytesAt h 256 256)

/-- Header checks of a thaw, in order; a new slot's continuation must match TURN_OPEN. -/
def thawStatus (s : State) (o : SessOp) : Option Nat :=
  match headerStatus s o.part o.hdr with
  | some st => some st
  | none =>
    match o.kind, recordOfHeader s o.part o.hdr with
    | _, none => some 0x04A2
    | .thaw _ _ _ true, some r =>
      if bit (numAt r 15 1) 2 == decide (1 ≤ numAt o.desc 16 3) then some 0x0102 else none
    | _, some _ => none

/-- KV_RESV of a thaw into a new slot. -/
def thawResv (s : State) (p ctx cont : Nat) : Nat := 64 * ceilDiv (ctx + cont + 64 * rd s (Reg.SRV_P_RESV64 p)) 64

/-- An operation's header has been read: the checks that need it, then the reading of units. -/
def headerRead (o : SessOp) (lead : Nat) (s : State) : State :=
  match o.kind with
  | .thaw _ _ _ fresh =>
    (match thawStatus s o with
     | some st => endOp o st 0 s
     | none =>
       let need := thawResv s o.part (numAt o.hdr 48 4) (numAt o.desc 16 3)
       if fresh && decide (o.resv < need) then
         (if poolPositions s o.part < kvReserved s o.part - o.resv + need then endOp o 0x0280 0 s
          else
            let o' := { o with resv := need }
            nextFetch o' lead (setOps (s.srv.sessOps.map (fun x => if x = o then o' else x)) s))
       else nextFetch o lead s)
  | _ => nextFetch o lead s

/-- Start a read operation: the header of an image led here is at hand. -/
def startRead (o : SessOp) (id lead : Nat) (s : State) : State :=
  match (if lead = pkgId s then imageOf s id else none) with
  | some g =>
    let o := { o with hdr := headerSegment s g }
    headerRead o lead (addOp o s)
  | none => nextFetch o lead (addOp o s)

/-- SESSION_THAW back into the image's own slot. -/
def thawOwn (e : Entry) (s : State) : CmdOut :=
  let p := e.part
  match handleSlot s p (arg e 8 4) with
  | none => refuseCmd 0x0382 s
  | some n =>
    let x := slotOf s n
    if x.req.state ≠ stFallow ∨ x.imageState = 1 then refuseCmd 0x0300 s
    else if x.imageState = 3 then refuseCmd 0x0386 s
    else if (replOf s p).isSome then refuseCmd 0x03A0 s
    else if !sessRoom s 1 then refuseQueue p s
    else if poolPositions s p < kvReserved s p + x.ctl.kvResv then refuseCmd 0x0280 s
    else
      let i := newOp 0x0502 e p s
      let o : SessOp := ⟨some i.1, p, .thaw x.image (imageLead x.image) n false, [], [], 0, [], [], [], x.ctl.kvResv, false⟩
      pendCmd i.1 [] (startRead o x.image (imageLead x.image) i.2)

/-- SESSION_THAW with NEW_SLOT. -/
def thawNew (e : Entry) (d : Bytes) (s : State) : CmdOut :=
  let p := e.part
  let id := arg e 16 8
  let lead := arg e 24 1
  let q := numAt d 14 1 % 64
  let ctx := match imageOf s id with | some g => numAt g.header 48 4 | none => 0
  if lead = pkgId s ∧ !((imageOf s id).any (fun g => g.state == 2)) then refuseCmd 0x0382 s
  else if (replOf s p).isSome then refuseCmd 0x03A0 s
  else if !queueStatus s p q then refuseCmd 0x0400 s
  else match freeSlotOf s p with
    | none => refuseCmd 0x0281 s
    | some n =>
      let resv := thawResv s p ctx (numAt d 16 3)
      if !sessRoom s 1 then refuseQueue p s
      else if poolPositions s p < kvReserved s p + resv then refuseCmd 0x0280 s
      else
        let i := newOp 0x0502 e p s
        let o : SessOp := ⟨some i.1, p, .thaw id lead n true, [], [], 0, [], [], d, resv, false⟩
        pendCmd i.1 [] (startRead o id lead i.2)

/-- SESSION_THAW, in the order of Table 15-5. -/
def cmdSessionThaw (e : Entry) (io : HostIo) (s : State) : CmdOut :=
  let p := e.part
  if !isLead s p then refuseCmd 0x0383 s
  else if !(part s p).job.busy then refuseCmd 0x0320 s
  else if roleOf s p = 0 then refuseCmd 0x0300 s
  else if flag e 0 then
    (match inputOf e io 128 with
     | some d =>
       if d.length < 128 then refuseCmd 0x0500 s
       else if numAt d 14 1 / 64 ≠ 0 ∨ numAt d 15 1 / 64 ≠ 0 ∨ numAt d 23 1 ≠ 0 ∨ numAt d 47 1 ≠ 0 ∨ numAt d 80 48 ≠ 0 then refuseCmd 0x0101 s
       else thawNew e d s
     | none => refuseCmd 0x0500 s)
  else thawOwn e s

/-- SESSION_THAW into its own slot. -/
def execSessionThawOwn (e : Entry) (io : HostIo) (s : State) : Host.Outcome State Fault Refusal :=
  runRow Row.sessionThaw cmdSessionThaw e io s

/-- SESSION_THAW into a new slot. -/
def execSessionThawNew (e : Entry) (io : HostIo) (s : State) : Host.Outcome State Fault Refusal :=
  runRow Row.sessionThaw cmdSessionThaw e io s

/-! ### UNIT_FETCH and UNIT_DATA -/

/-- The bytes that a UNIT_FETCH asks for, as this package stores them. -/
def fetchBytes (s : State) (image i off want : Nat) : Option Bytes :=
  if i = headerIndex then
    (imageOf s image).bind (fun g => if g.state = 2 then some (bytesAt (headerSegment s g) off (min want 4032)) else none)
  else (segmentOf s image).bind (fun g =>
    let u := tget [] g.units i
    if u.isEmpty then none else some (bytesAt u off (min want 4032)))

/-- The body of UNIT_DATA (Table 11-20). -/
def unitBody (image i off st : Nat) (b : Bytes) : Bytes :=
  leBytes 8 image ++ leBytes 4 i ++ leBytes 4 off ++ leBytes 4 b.length ++ leBytes 2 st ++ leBytes 10 0 ++ b

/-- What UNIT_FETCH does: the holder reads the bytes and answers UNIT_DATA. -/
def applyUnitFetch (image i off want : Nat) (s : State) : CtlAnswer × State :=
  match fetchBytes s image i off want with
  | some b => (some (0x52, unitBody image i off 0 b), bump s Reg.SESS_BYTES_IN_CNT b.length)
  | none => (some (0x52, unitBody image i off 0x0382 []), s)

/-- UNIT_FETCH. -/
def execUnitFetch (h : CtlHdr) (image i off want : Nat) (s : State) : Host.Outcome State Fault Refusal :=
  .next (applyCtl h (applyUnitFetch image i off want) s)

/-- Unit bytes that an import on another package places here. -/
def placeUnit (image i off : Nat) (b : Bytes) (s : State) : State :=
  let g := (segmentOf s image).getD ⟨image, 255, 0, [], []⟩
  let u := tget [] g.units i
  if off ≠ u.length then s
  else modSrv (fun v => { v with segments := v.segments.filter (fun x => x.image != image) ++ [{ g with units := tput [] g.units i (u ++ b) }] }) s

/-- Fetched bytes reach their operation: the header is checked, a unit grows, or the next holder is asked. -/
def takeUnit (o : SessOp) (lead i off st : Nat) (b : Bytes) (s : State) : State :=
  let set (o' : SessOp) (s : State) : State := setOps (s.srv.sessOps.map (fun x => if x = o then o' else x)) s
  if st ≠ 0 ∨ b.isEmpty then
    (if i = headerIndex ∨ (holdersOf o.hdr).length ≤ o.holder + 1 then endOp o 0x0582 0 s
     else let o' := { o with holder := o.holder + 1 }; nextFetch o' lead (set o' s))
  else if i = headerIndex then
    (if o.hdr.isEmpty then let o' := { o with hdr := b }; headerRead o' lead (set o' s) else s)
  else
    let u := tget [] o.units i
    if off ≠ u.length then s
    else
      let u' := u ++ b
      let o' := { o with units := tput [] o.units i u', holder := if storedSize o.hdr i ≤ u'.length then 0 else o.holder }
      nextFetch o' lead (set o' (bump s Reg.SESS_BYTES_IN_CNT b.length))

/-- What UNIT_DATA does: bytes for a thaw or export in progress, or units that an import places here. -/
def applyUnitData (image i off st : Nat) (b : Bytes) (s : State) : CtlAnswer × State :=
  match s.srv.sessOps.find? (fun o => opImage o.kind == some image) with
  | some o => (none, takeUnit o (imageLead image) i off st b s)
  | none => (none, if st = 0 then placeUnit image i off b s else s)

/-- UNIT_DATA: fetched unit bytes arrive. -/
def execUnitData (h : CtlHdr) (image i off st : Nat) (data : Bytes) (s : State) : Host.Outcome State Fault Refusal :=
  .next (applyCtl h (applyUnitData image i off st data) s)

/-! ### The end of a thaw (R384) -/

/-- Open the units of a thaw: index and payload, or the status of the first that fails. -/
def openUnits (s : State) (o : SessOp) (key : Bytes) (extra : Tab Bytes) : List Nat → Nat ⊕ List (Nat × Bytes)
  | [] => .inr []
  | i :: r =>
    match (match unitHere s o i with | some u => some u | none => (let u := tget [] extra i; if u.isEmpty then none else some u)) with
    | none => .inl 0x0582
    | some u =>
      match openUnit key o.hdr u with
      | none => .inl 0x04A2
      | some p =>
        match openUnits s o key extra r with
        | .inl st => .inl st
        | .inr l => .inr ((i, p) :: l)

/-- The digest over all units differs from the header's; where this package does not hold every unit it cannot tell. -/
def digestDiffers (s : State) (o : SessOp) (us : List (Nat × Bytes)) : Bool :=
  let h := o.hdr
  let npg := max 1 (numAt h 56 4)
  if us.length ≠ numAt h 52 4 then false
  else
    let uh := us.map (fun u =>
      let nr := unitRows (numAt h 48 4) (u.1 % npg)
      unitHash (unitHead (u.1 / npg) (u.1 % npg) nr (unitPayload (numAt h 61 1) (numAt h 64 2) nr) u.1) u.2)
    digestBytes (imageDigest h (((recordOfHeader s o.part h).getD []).take 64) uh) != bytesAt h 96 32

/-- Write the units of a thaw into pages of the pool (R183): none where the pool has no place. -/
def placeUnits (o : SessOp) : List (Nat × Bytes) → List KvPage × State → Option (List KvPage × State)
  | [], y => some y
  | u :: r, (ps, s) =>
    let p := o.part
    let npg := max 1 (numAt o.hdr 56 4)
    let lg := u.1 / npg
    let lp := u.1 % npg
    let z := kvPageBytes (decl s p)
    let s' := setOps (s.srv.sessOps.map (fun x => if x.op = o.op ∧ x.part = p ∧ x.kind = o.kind then { x with pages := ps } else x)) s
    match poolPlace s' p (kvPlace (srvSec s p) lg).2.2.1 z 256 with
    | none => none
    | some a =>
      let s := pinPhys p a z true (zeroRange s' a z)
      let s := putRows a (numAt o.hdr 61 1) (numAt o.hdr 64 2) (unitRows (numAt o.hdr 48 4) lp) u.2 s
      placeUnits o r (ps ++ [⟨lg, lp, a⟩], s)

/-- A package's part of a thaw has ended with a status: a member reports to the lead, the lead keeps it or fails the thaw. -/
def thawEnded (o : SessOp) (st units : Nat) (s : State) : State :=
  if o.op.isSome then (if st = 0 then s else endOp o st 0 s)
  else
    let l := leadOf s o.part
    let id := (opImage o.kind).getD 0
    let s := if st = 0 then s else endOp o st 0 s
    sendCtl l.1 0x53 (memberTo s o.part l.2) 0xFFFFFFFF
      (leBytes 8 id ++ leBytes 2 st ++ leBytes 6 0 ++ leBytes 4 units) true s

/-- The operation is the thaw of an image into slot `n` whose units have not been placed. -/
def isThawInto (p image n : Nat) (o : SessOp) : Bool :=
  o.part == p && !o.ready && (match o.kind with | .thaw i _ m _ => i == image && m == n | _ => false)

/-- THAW_READ_DONE: this package has read the units of its share. The lead has the operation; another package of the job
learns the image, the slot and what it has read with the command. `st` is the status of a read that failed. -/
def execThawReadDone (t : ThawIn) (s : State) : Host.Outcome State Fault Refusal :=
  let p := t.part
  let n := slotBase s p + t.jidx
  let own := s.srv.sessOps.find? (isThawInto p t.image n)
  let fresh : SessOp := ⟨none, p, .thaw t.image (imageLead t.image) n ((slotOf s n).req.state != stFallow), t.hdr, [], 0, [], [], [], 0, false⟩
  if own.isNone && (isLead s p || roleOf s p == 3 || roleOf s p == 0 || decide (slotCount s p ≤ t.jidx)) then .next s
  else
    let s := if own.isSome then s else addOp fresh s
    let o := own.getD fresh
    if o.hdr.isEmpty then .next s
    else if t.st ≠ 0 then .next (thawEnded o t.st 0 s)
    else match keyOf s 2 p (numAt o.hdr 92 4) with
      | none => .next (thawEnded o 0x04A1 0 s)
      | some key =>
        match openUnits s o key (t.units.foldl (fun m u => tput [] m u.1 u.2) []) (unitsNeeded s o) with
        | .inl st => .next (thawEnded o st 0 s)
        | .inr us =>
          if digestDiffers s o us then .next (thawEnded o 0x04A0 0 s)
          else match placeUnits o us ([], s) with
            | none => .next (thawEnded o 0x0280 0 s)
            | some (ps, s) =>
              let k := (us.map (fun u => u.2.length)).sum
              let s := bump s Reg.SESS_BYTES_IN_CNT k
              .next (thawEnded o 0 us.length (setOps (s.srv.sessOps.map (fun x =>
                if x.op = o.op ∧ x.part = p ∧ x.kind = o.kind then { x with pages := ps, ready := true } else x)) s))

/-- The operation is a thaw of the image that a host started. -/
def isThawOf (image : Nat) (o : SessOp) : Bool :=
  o.op.isSome && (match o.kind with | .thaw i _ _ _ => i == image | _ => false)

/-- What THAW_REPORT does on the lead. -/
def applyThawReport (h : CtlHdr) (image st units : Nat) (s : State) : CtlAnswer × State :=
  match s.srv.sessOps.find? (isThawOf image) with
  | none => (ackWith 0x0382, s)
  | some o =>
    if st ≠ 0 then (ackWith 0, endOp o st 0 s)
    else (ackWith 0, setOps (s.srv.sessOps.map (fun x =>
      if x = o then { x with reports := x.reports.filter (fun r => r.1 != h.srcPkg) ++ [(h.srcPkg, st, units)] } else x)) s)

/-- THAW_REPORT: a lead records a member's thaw result. -/
def execThawReport (h : CtlHdr) (image st units : Nat) (s : State) : Host.Outcome State Fault Refusal :=
  .next (applyCtl h (applyThawReport h image st units) s)

/-- Link the pages of a thaw into its slot's page table. -/
def linkThawed (p n : Nat) (ps : List KvPage) (s : State) : State :=
  let s := modSlot p n (fun x => { x with pages := ps }) s
  ps.foldl (fun s g => linkPage p n (kvPlace (srvSec s p) g.lg).2.2.1 g s) s

/-- The request that a thaw into a new slot submits. With an open turn it takes the turn from the image, and its next token
is not known to the engine; otherwise its tokens are a continuation. -/
def thawedSlot (s : State) (p n : Nat) (o : SessOp) (rec' : Bytes) : Slot :=
  let r0 := reqOf (bytesAt rec' 64 64)
  let c0 := ctlOf (bytesAt rec' 128 64)
  let d := o.desc
  let isOpen := bit (numAt rec' 15 1) 2
  let r : ReqRec := { r0 with
    state := stQueued, cause := 0, prio := numAt d 15 1 % 8, urgent := false, role := roleOf s p, keep := bit (numAt rec' 15 1) 0,
    xepoch := bit (numAt rec' 15 1) 1, queue := numAt d 14 1 % 64, part := p, gen := ((slotOf s n).req.gen + 1) % 2 ^ 16, status := 0,
    deadline := numAt d 8 6, ring := n - slotBase s p, ptRoot := 0, promptLen := if isOpen then 1 else numAt d 16 3,
    genLen := if isOpen then numAt rec' 36 3 else 0, bucket := bucketOf (numAt d 16 3), samplerCtr := numAt rec' 44 8 }
  let c1 : CtlRec := { c0 with kvResv := o.resv, submit := applTime s, peerJidx := 0, peerGen := 0, peerSlice := 255, prompt := numAt d 24 8 }
  let c := if isOpen then c1 else turnCtl d (applTime s) c1
  { Slot.free with req := r, ctl := c, order := s.srv.order, fed := if isOpen then 1 else 0, tok := noToken,
                   lastAt := if isOpen then some 0 else none, cont := true }

/-- A thaw takes effect at the lead's commit (R384). -/
def finishThaw (o : SessOp) (s : State) : State :=
  match o.kind with
  | .thaw _ _ n fresh =>
    let p := o.part
    let s := setOps (s.srv.sessOps.filter (· != o)) s
    let s :=
      if fresh then
        let x := thawedSlot s p n o ((recordOfHeader s p o.hdr).getD [])
        let s := setSlot p n x (modSrv (fun v => { v with order := v.order + 1 }) s)
        linkThawed p n o.pages (setRing n (some ⟨numAt o.desc 64 8, numAt o.desc 72 8, 0, 0⟩) s)
      else
        let back (x : Slot) : Slot :=
          { x with image := 0, imageState := 0, lastAt := x.lastAt.map (fun _ => 0), req := { x.req with cause := x.req.cause &&& 8 } }
        toState p n stHold back (linkThawed p n o.pages s)
    let s := bump s Reg.SESS_THAW_CNT 1
    (match o.op with
     | some id => outcome id 0x8006 p (leBytes 4 id ++ leBytes 2 0 ++ leBytes 2 0 ++ leBytes 4 (handleOf s n)) [] s
     | none => s)
  | _ => s

/-- The thaws that every package has reported, at the lead's commit. -/
def commitThaws (p : Nat) (s : State) : State :=
  (s.srv.sessOps.filter (fun o => o.part == p && o.op.isSome && o.ready && (match o.kind with | .thaw _ _ _ _ => true | _ => false) &&
    (membersOf s p).all (fun m => m.1 == pkgId s || o.reports.any (fun r => r.1 == m.1)))).foldl (fun s o => finishThaw o s) s

/-! ### SESSION_EXPORT and SESSION_IMPORT (R387) -/

/-- Bytes of an image's export form. -/
def exportSize (h : Bytes) : Nat := 512 + ((List.range (numAt h 52 4)).map (storedSize h)).sum

/-- SESSION_EXPORT. -/
def cmdSessionExport (e : Entry) (_ : HostIo) (s : State) : CmdOut :=
  match (if arg e 16 1 = pkgId s then imageOf s (arg e 8 8) else none) with
  | none => refuseCmd 0x0382 s
  | some g =>
    if g.state ≠ 2 then refuseCmd 0x0386 s
    else if arg e 32 8 < exportSize g.header then refuseCmd 0x0102 s
    else if !sessRoom s 1 then refuseQueue e.part s
    else
      let i := newOp 0x0503 e e.part s
      let o : SessOp := ⟨some i.1, e.part, .exporting g.id (pkgId s) (arg e 24 8) (arg e 32 8), [], [], 0, [], [], [], 0, false⟩
      pendCmd i.1 (leBytes 8 (exportSize g.header)) (startRead o g.id (pkgId s) i.2)

/-- SESSION_EXPORT. -/
def execSessionExport (e : Entry) (io : HostIo) (s : State) : Host.Outcome State Fault Refusal :=
  runRow Row.sessionExport cmdSessionExport e io s

/-- SESSION_IMPORT. -/
def cmdSessionImport (e : Entry) (_ : HostIo) (s : State) : CmdOut :=
  let p := e.part
  if !isLead s p then refuseCmd 0x0383 s
  else if !(part s p).job.busy then refuseCmd 0x0320 s
  else if !sessRoom s 1 then refuseQueue p s
  else if !mediumRoom s (arg e 8 1) (arg e 24 8 / (membersOf s p).length) then refuseCmd 0x0284 s
  else
    let i := newOp 0x0504 e p s
    pendCmd i.1 [] (addOp ⟨some i.1, p, .import 0 (arg e 8 1), [], [], 0, [], [], [], 0, false⟩ i.2)

/-- SESSION_IMPORT. -/
def execSessionImport (e : Entry) (io : HostIo) (s : State) : Host.Outcome State Fault Refusal :=
  runRow Row.sessionImport cmdSessionImport e io s

/-- The export form (R387): LEAD_PKG 255 and NSEG 0, the record section, the units. -/
def exportForm (hdr : Bytes) (units : List Bytes) : Bytes :=
  bytesAt hdr 0 89 ++ [255, 0] ++ bytesAt hdr 91 165 ++ bytesAt hdr 256 256 ++ joinBytes units

/-- The end of an export's transfer. -/
def finishExport (o : SessOp) (image iova : Nat) (s : State) : State :=
  let us := (List.range (numAt o.hdr 52 4)).map (unitHere s o)
  if us.any (·.isNone) then endOp o 0x0582 image s
  else
    let b := exportForm o.hdr (us.filterMap id)
    let x := (part s o.part).port
    endOp o 0 image (bump (bump (emit s (.hostWrite x (2 + o.part) iova b)) (Reg.HIF_N_WR_BYTE_CNT x) b.length)
      Reg.SESS_BYTES_OUT_CNT b.length)

/-- Offsets of the units of an export form. -/
def unitOffsets (h : Bytes) : List (Nat × Nat) :=
  ((List.range (numAt h 52 4)).foldl (fun (y : List (Nat × Nat) × Nat) i => (y.1 ++ [(i, y.2)], y.2 + storedSize h i)) ([], 512)).1

/-- Send a whole unit to a package that an import places it on. -/
def sendUnit (image dst i : Nat) (u : Bytes) (s : State) : State :=
  (List.range (ceilDiv u.length 4032)).foldl (fun s k =>
    sendCtl dst 0x52 kaolinTo 0xFFFFFFFF (unitBody image i (4032 * k) 0 (bytesAt u (4032 * k) 4032)) false s) s

/-- The end of an import's transfer: header, tags and digest are checked; the segments are placed by the KV placement of the
target job, and the image enters the catalog under a new IMAGE_ID. -/
def finishImport (o : SessOp) (medium : Nat) (b : Bytes) (s : State) : State :=
  let p := o.part
  let h := b.take 512
  let npg := max 1 (numAt h 56 4)
  let us := (unitOffsets h).map (fun x => (x.1, bytesAt b x.2 (storedSize h x.1)))
  let oh := { o with hdr := h }
  if b.length < 512 ∨ numAt h 0 4 ≠ 0x464C5753 ∨ numAt h 4 1 ≠ 1 ∨ b.length < exportSize h then endOp o 0x0102 0 s
  else match headerStatus s p h with
    | some st => endOp o st 0 s
    | none =>
      let key := (keyOf s 2 p (numAt h 92 4)).getD []
      match recordOfHeader s p h, openUnits s { oh with kind := .delete 0 } key (us.foldl (fun m u => tput [] m u.1 u.2) []) (List.range (numAt h 52 4)) with
      | none, _ => endOp o 0x04A2 0 s
      | _, .inl st => endOp o st 0 s
      | some rec', .inr pt =>
        if digestDiffers s oh pt then endOp o 0x04A0 0 s
        else
          let m := newImage p 0 medium (numAt h 92 4) none s
          let place (i : Nat) : Nat × Nat := (membersOf m.2 p).getD (kvRank m.2 p (i / npg) (i % npg)) (pkgId s, p)
          let pkgs := (membersOf m.2 p).map (·.1)
          let segs := (pkgs.map (fun q =>
            let mine := us.filter (fun u => (place u.1).1 == q)
            (q, medium, mine.length, (mine.map (fun u => u.2.length)).sum))).filter (fun g => g.2.2.1 != 0 || g.1 == pkgId s)
          let hd := bytesAt h 0 8 ++ leBytes 8 m.1 ++ bytesAt h 16 72 ++ [255] ++ leBytes 1 (pkgId s) ++ leBytes 1 segs.length ++ bytesAt h 91 165
          let mine := us.filter (fun u => (place u.1).1 == pkgId s)
          let fs := if medium = 0 then (storeFrames m.2 (ceilDiv ((mine.map (fun u => u.2.length)).sum + 512) pageBytes)).getD [] else []
          let s := storeSegment ⟨m.1, p, medium, fs, mine⟩ m.2
          let s := (us.filter (fun u => (place u.1).1 != pkgId s)).foldl (fun s u => sendUnit m.1 (place u.1).1 u.1 u.2 s) s
          let s := modImage m.1 (fun g => { g with header := hd, record := rec', segs := segs, state := 2, written := true }) s
          endOp o 0 m.1 (bump s Reg.SESS_BYTES_IN_CNT b.length)

/-- SESSION_XFER_DONE: the transfer of an export or import has ended, with the status of a failure, or for an import with the
export form that was read. -/
def execSessionXferDone (op st : Nat) (data : Option Bytes) (s : State) : Host.Outcome State Fault Refusal :=
  match opOf s op with
  | none => .next s
  | some o =>
    match o.kind with
    | .exporting image _ iova _ => .next (if st ≠ 0 then endOp o st image s else finishExport o image iova s)
    | .import _ medium =>
      (match data with
       | some b => .next (if st ≠ 0 then endOp o st 0 s else finishImport o medium b s)
       | none => .next (endOp o (if st ≠ 0 then st else 0x0500) 0 s))
    | _ => .next s

/-! ### SESSION_DISCARD (R388) -/

/-- A thaw or an export reads an image. -/
def imageInUse (s : State) (id : Nat) : Bool := s.srv.sessOps.any (fun o => opImage o.kind == some id)

/-- Remove an image from the catalog and its segments from every medium. -/
def deleteImage (id : Nat) (s : State) : State :=
  let others : List Nat := match imageOf s id with | some g => (g.segs.map (fun x => x.1)).filter (fun q => q != pkgId s) | none => []
  let s := dropSegment id (modSrv (fun v => { v with images := v.images.filter (fun g => g.id != id) }) s)
  others.foldl (fun s q => sendCtl q 0x54 kaolinTo 0xFFFFFFFF (leBytes 8 id) true s) s

/-- What a SESSION_DISCARD deletes: the image named, or that of the handle's slot. -/
def discardImage (e : Entry) (s : State) (n : Option Nat) : Option Nat :=
  if flag e 2 then some (arg e 16 8) else n.map (fun n => (slotOf s n).image)

/-- SESSION_DISCARD. -/
def cmdSessionDiscard (e : Entry) (_ : HostIo) (s : State) : CmdOut :=
  let p := e.part
  let n := if flag e 1 then handleSlot s p (arg e 8 4) else none
  let img := discardImage e s n
  let lead := if flag e 2 then arg e 24 1 else (img.map imageLead).getD (pkgId s)
  if !isLead s p then refuseCmd 0x0383 s
  else if flag e 1 && n.isNone then refuseCmd 0x0382 s
  else if !flag e 1 && !flag e 2 then refuseCmd 0x0102 s
  else if n.any (fun n => (slotOf s n).req.state != stFallow) then refuseCmd 0x0380 s
  else if n.any (fun n => (slotOf s n).imageState == 1) then refuseCmd 0x0300 s
  else if flag e 0 && lead == pkgId s && (img.bind (imageOf s)).isNone && flag e 2 then refuseCmd 0x0382 s
  else if flag e 0 && ((img.bind (imageOf s)).any (fun g => (keyOf s 2 p g.keyId).isNone)) then refuseCmd 0x0400 s
  else if flag e 0 && ((img.bind (imageOf s)).any (fun g => g.state == 1)) then refuseCmd 0x0300 s
  else if img.any (imageInUse s) then refuseCmd 0x0387 s
  else if flag e 0 && !sessRoom s 1 then refuseQueue p s
  else
    let s := match n with | some n => askSlot n .release s | none => s
    doneCmd [] (match flag e 0, img with
      | true, some id => if lead = pkgId s then deleteImage id s else sendCtl lead 0x54 kaolinTo 0xFFFFFFFF (leBytes 8 id) true s
      | _, _ => s)

/-- SESSION_DISCARD. -/
def execSessionDiscard (e : Entry) (io : HostIo) (s : State) : Host.Outcome State Fault Refusal :=
  runRow Row.sessionDiscard cmdSessionDiscard e io s

/-- SEG_DELETE: a package removes its segment of an image, and an image that it leads goes with all its segments. -/
def execSegDelete (h : CtlHdr) (image : Nat) (s : State) : Host.Outcome State Fault Refusal :=
  .next (applyCtl h (fun s => (ackWith 0, deleteImage image s)) s)

/-- What the catalog keeps when the package comes up (R378): the COMPLETE images on NVMe. -/
def rebuildCatalog (s : State) : State :=
  showSess (modSrv (fun v => { v with images := v.images.filter (fun g => g.medium != 0 && g.state == 2),
                                      segments := v.segments.filter (fun g => g.medium != 0), sessOps := [] }) s)

/-- Session operations on a storage port's images fail (R549). -/
def failMedium (medium : Nat) (s : State) : State :=
  let s := (s.srv.images.filter (fun g => g.medium == medium && g.state == 1)).foldl (fun s g => failImage g.id 0x0582 s) s
  (s.srv.sessOps.filter (fun o => (match o.kind with
    | .import _ m => m == medium
    | _ => ((opImage o.kind).bind (segmentOf s)).any (fun g => g.medium == medium)))).foldl (fun s o => endOp o 0x0582 0 s) s

end Sys2Proof.Machine
end

