-- ==== Sys2Proof/Machine/Replace.lean ====
section
/-!
DEFINITION. Weight replacement as the serving engine carries it out (R408–R412): REPLACE_BEGIN, the barrier, REPLACE_END,
the switch to the new epoch, and the end of a replacement by an abort or a stop.
-/

namespace Sys2Proof.Machine

/-! ### REPLACE_BEGIN (R408) -/

/-- The requests that a barrier would set fallow: those without XEPOCH that hold a session. -/
def barrierFallows (s : State) (p : Nat) : List Nat :=
  (liveSlots s p).filter (fun n =>
    let x := slotOf s n
    !x.req.xepoch && (x.req.state == stDecode || x.req.state == stHold || (x.req.state == stQueued && x.cont) ||
      (roleOf s p != 0 && (x.req.state == stPrefill || x.req.state == stShip))))

/-- The medium has room for every image of a list of requests, as far as this package stores them. -/
def roomForAll (s : State) (p m : Nat) (ns : List Nat) : Bool :=
  let sizes := ns.map (fun n => segmentSize s p (max (slotOf s n).req.ctxLen (slotOf s n).req.promptLen))
  if m = 0 then (storeFrames s ((sizes.map (fun z => ceilDiv z pageBytes)).sum)).isSome
  else ns.isEmpty || mediumRoom s m (sizes.sum)

/-- The reference table of a REPLACE_BEGIN: none named, unreadable, of the wrong length, or its bytes. -/
def referenceIn (e : Entry) (io : HostIo) (s : State) : Nat ⊕ Option Bytes :=
  if arg e 32 8 = 0 then (if arg e 40 4 = 0 then .inr none else .inl 0x0102)
  else if arg e 40 4 ≠ 16 * nUnit (decl s e.part) then .inl 0x0102
  else match inputOf e io (arg e 40 4) with
    | none => .inl 0x0500
    | some b => if b.length < arg e 40 4 then .inl 0x0500 else .inr (some b)

/-- REPLACE_BEGIN. -/
def cmdReplaceBegin (e : Entry) (io : HostIo) (s : State) : CmdOut :=
  let p := e.part
  if !isLead s p then refuseCmd 0x0383 s
  else if !(part s p).job.busy then refuseCmd 0x0320 s
  else if (replOf s p).isSome then refuseCmd 0x03A0 s
  else if arg e 8 8 ≤ (part s p).modelEpoch then refuseCmd 0x0102 s
  else match referenceIn e io s with
    | .inl st => if st = 0x0102 then refuseCmd 0x0102 s
        else if (keyOf s 2 p (arg e 24 4)).isNone then refuseCmd 0x04A1 s else refuseCmd st s
    | .inr table =>
      if (keyOf s 2 p (arg e 24 4)).isNone then refuseCmd 0x04A1 s
      else if !roomForAll s p (arg e 20 1) (barrierFallows s p) then refuseCmd 0x0284 s
      else
        let i := newOp 0x0304 e p s
        let r : Replacement := ⟨arg e 8 8, 1, frameNo s + arg e 16 4, false, arg e 20 1, arg e 24 4, some i.1, none, []⟩
        let s := voidVex p (setRepl p (some r) i.2)
        let s := modSrv (fun v => { v with pass := tput none v.pass p none }) s
        let s := match table with
          | some b => modWts (fun w => { w with refs := tput (0, []) w.refs p (arg e 8 8, b) }) s
          | none => s
        pendCmd i.1 [] s

/-- REPLACE_BEGIN. -/
def execReplaceBegin (e : Entry) (io : HostIo) (s : State) : Host.Outcome State Fault Refusal :=
  runRow Row.replaceBegin cmdReplaceBegin e io s

/-! ### The barrier (R409) -/

/-- Set a request fallow at the barrier, as by SESSION_FALLOW; no command waits for its image. -/
def barrierFallow (p : Nat) (r : Replacement) (s : State) (n : Nat) : State :=
  let m := newImage p n r.medium r.key (some 0) s
  enterFallow p n m.1 m.2

/-- A request's move at the barrier. -/
def barrierRow (p : Nat) (r : Replacement) (s : State) (n : Nat) : State :=
  let x := slotOf s n
  if x.req.state = stQueued ∧ x.cont ∧ !x.req.xepoch then
    let s := toState p n stHold (fun y => { y with cont := false, req := { y.req with cause := 8 } }) s
    let s := raise 0x800A p (leBytes 4 (handleOf s n) ++ leBytes 2 0x03A0) s
    barrierFallow p r s n
  else if x.req.state = stDecode ∨ x.req.state = stHold then
    if !x.req.xepoch then barrierFallow p r s n
    else if x.req.state = stDecode then
      toState p n stHold (fun y => { y with lastAt := y.lastAt.map (fun _ => 0), req := { y.req with cause := 2 } }) s
    else modSlot p n (fun y => { y with req := { y.req with cause := y.req.cause ||| 2 } }) s
  else s

/-- The barrier takes effect on the lead: every request moves, and REPLACE_READY is raised. -/
def takeBarrier (p : Nat) (r : Replacement) (s : State) : State :=
  let s := (liveSlots s p).foldl (barrierRow p r) s
  let s := setRepl p (some { r with stage := 2 }) s
  let s := reportUnits p s
  raise 0x8003 p (leBytes 4 (r.beginOp.getD 0) ++ leBytes 4 0 ++ leBytes 8 r.epoch) s

/-- No request of the job is in PREFILL or SHIP. -/
def barrierClear (s : State) (p : Nat) : Bool := (slotsIn s p stPrefill).isEmpty && (slotsIn s p stShip).isEmpty

/-- At a commit the barrier of a waiting replacement takes effect: at a boundary with nothing in PREFILL or SHIP, or when it
is forced. -/
def barrierAtCommit (p : Nat) (boundary : Bool) (s : State) : State :=
  match replOf s p with
  | some r => if r.stage = 1 ∧ ((boundary && barrierClear s p) ∨ r.forced) then takeBarrier p r s else s
  | none => s

/-- REPLACE_BARRIER_TIMEOUT: BARRIER_FRAMES have passed; the requests in PREFILL or SHIP go to DRAIN, and the barrier takes
effect at the next commit. -/
def execReplaceBarrierTimeout (p : Nat) (s : State) : Host.Outcome State Fault Refusal :=
  match replOf s p with
  | some r =>
    if r.stage = 1 ∧ !r.forced ∧ r.beginOp.isSome ∧ r.limit ≤ frameNo s then
      let s := (slotsIn s p stPrefill ++ slotsIn s p stShip).foldl (fun s n => askSlot n (.fail 0x03A0) s) s
      .next (setRepl p (some { r with forced := true }) s)
    else .next s
  | none => .next s

/-! ### REPLACE_END (R411) -/

/-- Every unit is complete on every package. -/
def allUnits (s : State) (p : Nat) (r : Replacement) : Bool :=
  (List.range (membersOf s p).length).all (fun k => (List.range (nUnit (decl s p))).all (fun u => r.units.contains (k, u)))

/-- Order a stop or pause of the job through the plan. -/
def orderStop (p mode status limit : Nat) (s : State) : State :=
  modPart s p (fun q => { q with stopReq := some ⟨mode, status, limit, false⟩ })

/-- REPLACE_END and, with ABORT, REPLACE_ABORT. -/
def cmdReplaceEnd (e : Entry) (_ : HostIo) (s : State) : CmdOut :=
  let p := e.part
  if !isLead s p then refuseCmd 0x0383 s
  else match replOf s p with
    | none => refuseCmd 0x0300 s
    | some r =>
      if r.endOp.isSome then refuseCmd 0x0300 s
      else if flag e 0 then
        let i := newOp 0x0306 e p s
        pendCmd i.1 [] (orderStop p 0 0x03A1 0 (setRepl p (some { r with endOp := some i.1 }) i.2))
      else if r.stage ≠ 2 ∨ !allUnits s p r then refuseCmd 0x04A3 s
      else
        let i := newOp 0x0306 e p s
        pendCmd i.1 [] (setRepl p (some { r with stage := 3, endOp := some i.1 }) i.2)

/-- REPLACE_END. -/
def execReplaceEnd (e : Entry) (io : HostIo) (s : State) : Host.Outcome State Fault Refusal :=
  runRow Row.replaceEnd cmdReplaceEnd e io s

/-- REPLACE_ABORT. -/
def execReplaceAbort (e : Entry) (io : HostIo) (s : State) : Host.Outcome State Fault Refusal :=
  runRow Row.replaceEnd cmdReplaceEnd e io s

/-- The outcome of a replacement, for each operation that waits for it. -/
def replaceDone (p st : Nat) (r : Replacement) (s : State) : State :=
  let say (o : Option Nat) (s : State) : State := match o with
    | some id => outcome id 0x8004 p (leBytes 4 id ++ leBytes 2 st ++ leBytes 2 0 ++ leBytes 8 (part s p).modelEpoch) [] s
    | none => s
  say r.endOp (say r.beginOp s)

/-- A package moves to the new epoch: the phase counter restarts, and the batches with it (R428). -/
def switchEpoch (p epoch : Nat) (s : State) : State :=
  let s := modPart s p (fun q => { q with modelEpoch := epoch, phase := 0 })
  startBatches p (setRepl p none s)

/-- The lead's commit under REPLACE_END: the barrier is released, and held requests take the new epoch. -/
def endReplacement (p : Nat) (s : State) : State :=
  match replOf s p with
  | some r =>
    if r.stage ≠ 3 then s
    else
      let s := switchEpoch p r.epoch s
      let s := (slotsIn s p stHold).foldl (fun s n =>
        modSlot p n (fun x =>
          if x.req.xepoch then
            { x with newEpoch := true, req := { x.req with epoch := r.epoch % 2 ^ 16, cause := x.req.cause - (x.req.cause &&& 2) } }
          else x) s) s
      replaceDone p 0 r s
  | none => s

/-- A job stops during a replacement: the records of the new epoch are discarded, and the partition keeps its epoch. -/
def abortReplacement (p st : Nat) (s : State) : State :=
  match replOf s p with
  | some r =>
    let s := discardRecs (fun x => x.part == p && x.epoch == r.epoch && r.epoch != 0) s
    replaceDone p st r (setRepl p none s)
  | none => s

end Sys2Proof.Machine
end

