-- ==== Sys2Proof/Machine/Commit.lean ====
section
/-!
DEFINITION. What a partition's commit does to its requests (R342, R343): the transitions of the frame, the requests of
mailbox commands in the order of their arrival, the step boundary, the barrier, images and thaws, the ends of drained
requests, and the stream records (R365).
-/

namespace Sys2Proof.Machine

/-! ### The admission pass (R351, R361) -/

/-- An admission whose prompt has come takes effect; one whose prompt could not be read fails its request. -/
def commitAdmission (p : Nat) (x : AdmitPass) (s : State) (a : Admission) : State :=
  let y := slotOf s a.slot
  let n := a.slot
  if y.req.state ≠ stQueued ∨ y.req.gen ≠ a.gen then s
  else if a.fail ≠ 0 then
    toState p n stFault (fun z => { z with reason := 5, req := { z.req with status := a.fail } }) (releasePages p n s)
  else if !a.fetched then s
  else
    let pre := needsPrefill s p y.req
    let q := y.req.queue
    let s := bump (bump s (Reg.SRV_P_ADMIT_CNT p) 1) (Reg.SRV_Q_Q_ADMIT_CNT q) 1
    let s := if x.urgentTaken.contains n then bump s (Reg.SRV_Q_Q_URGENT_CNT q) 1 else s
    let s := modSlot p n (fun z =>
      { z with run := if pre then a.run else 0, req := { z.req with epoch := (part s p).modelEpoch % 2 ^ 16 },
               ctl := { z.ctl with prompt := a.addr,
                                   peerSlice := if roleOf s p = 0 then (admitCfg s p).targets.getD a.target 255 else z.ctl.peerSlice } }) s
    let s := if pre then enterPrefill p n s
      else if roleOf s p = 0 then
        toState p n stShip (fun z => { z with shipOrder := s.srv.order }) (modSrv (fun v => { v with order := v.order + 1 }) s)
      else enterDecode p n s
    if roleOf s p = 0 then sendAssign p n a.target s else s

/-- The staged pass commits: late requests fail, admissions take effect, deficits, pointer and the urgent class stay. -/
def commitPass (p : Nat) (s : State) : State :=
  match tget none s.srv.pass p with
  | none => s
  | some x =>
    let s := modSrv (fun v => { v with pass := tput none v.pass p none, ptr := tput 63 v.ptr p x.ptr }) s
    let s := x.deficits.foldl (fun s d => wr s (Reg.SRV_Q_DEFICIT d.1) (unsigned 32 d.2)) s
    let s := x.urgent.foldl (fun s n =>
      if (slotOf s n).req.state = stQueued then modSlot p n (fun y => { y with req := { y.req with urgent := true } }) s else s) s
    let s := x.late.foldl (fun s n =>
      if (slotOf s n).req.state = stQueued then
        toState p n stFault (fun y => { y with reason := 5, req := { y.req with status := 0x0282 } }) (releasePages p n s)
      else s) s
    x.admits.foldl (commitAdmission p x) s

/-! ### Requests of commands (R342) -/

/-- A session's turn starts anew: the fields of a continuation. -/
def continueSlot (s : State) (p : Nat) (d : Bytes) (t : Nat) (x : Slot) : Slot :=
  let r := turnReq d x.req
  let c := turnCtl d t x.ctl
  let need := 64 * ceilDiv (r.ctxLen + r.promptLen - 1 + 64 * rd s (Reg.SRV_P_RESV64 p)) 64
  { x with req := { r with state := stQueued, cause := 0, urgent := false },
           ctl := { c with kvResv := if roleOf s p = 2 ∧ c.kvResv < r.ctxLen + r.promptLen then min (2 ^ 24) need else c.kvResv,
                           peerSlice := 255 },
           order := s.srv.order, fed := 0, ended := false, reason := 0, lastAt := none, cont := true }

/-- To DRAIN with a status and reason; `told`: a token record of this commit carries LAST for it. -/
def drainSlot (p n st reason : Nat) (told : Bool) (s : State) : State :=
  let f (x : Slot) : Slot := { x with reason := reason, ended := x.ended || told, req := { x.req with status := st, cause := 0 } }
  toState p n stDrain f s

/-- A cancelled or failed request in QUEUED ends at once, with its pages. -/
def endQueued (p n into st reason : Nat) (s : State) : State :=
  toState p n into (fun x => { x with reason := reason, req := { x.req with status := st } }) (releasePages p n s)

/-- Apply what a command asks of a request: the state after it, and whether it waits for a later commit. -/
def applyAsk (p : Nat) (boundary : Bool) (told : List Nat) (r : SlotReq) (s : State) : State × Bool :=
  let n := r.slot
  let x := slotOf s n
  let st := x.req.state
  if x.req.gen ≠ r.gen then (s, false)
  else match r.ask with
    | .cancel =>
      if st = stQueued then (endQueued p n stDone 0 4 s, false)
      else if st = stPrefill ∨ st = stShip ∨ st = stHold then (drainSlot p n 0 4 false s, false)
      else if st = stDecode then (if boundary then (drainSlot p n 0 4 (told.contains n) s, false) else (s, true))
      else (s, false)
    | .release =>
      if 8 ≤ st ∨ (st = stFallow ∧ 2 ≤ x.imageState) then (freeSlot p n s, false) else (s, false)
    | .cont d t =>
      if st = stHold ∧ x.req.cause = 8 ∧ (replOf s p).isNone then
        (setSlot p n (continueSlot s p d t x) (modSrv (fun v => { v with order := v.order + 1 }) s), false)
      else (s, false)
    | .fallow img =>
      if st = stHold then (enterFallow p n img s, false)
      else if st = stDecode then (if boundary then (enterFallow p n img s, false) else (s, true))
      else (dropFallow p img s, false)
    | .fail c =>
      if st = stQueued then (endQueued p n stFault c 5 s, false)
      else if 2 ≤ st ∧ st ≤ 5 then (drainSlot p n c 5 (told.contains n) s, false)
      else (s, false)
    | .lost => if st = stShip then (endQueued p n stFault 0x0580 5 s, false) else (s, false)
    | .install y pkg mseq => if st = stFree then (installSlot p n y pkg mseq s, false) else (s, false)
    | .installed tj tg =>
      if st = stPrefill ∨ st = stShip then
        (modSlot p n (fun y => { y with installed := true, ctl := { y.ctl with peerJidx := tj, peerGen := tg } }) s, false)
      else (s, false)

/-- The waiting requests for slots of a partition, in the order of their arrival. -/
def applyAsks (p : Nat) (boundary : Bool) (told : List Nat) (s : State) : State :=
  let mine (r : SlotReq) : Bool := decide (slotBase s p ≤ r.slot) && decide (r.slot < slotBase s p + slotCount s p)
  let todo := s.srv.asks.filter mine
  let s := modSrv (fun v => { v with asks := v.asks.filter (fun r => !mine r) }) s
  let z := todo.foldl (fun (y : State × List SlotReq) r =>
    let o := applyAsk p boundary told r y.1
    (o.1, if o.2 then y.2 ++ [r] else y.2)) (s, [])
  modSrv (fun v => { v with asks := z.2 ++ v.asks }) z.1

/-! ### The step boundary (R343, R358, R364) -/

/-- The reservation lasts for the next step, extended by RESV where it does not: none where the pool cannot supply it. -/
def extendKv (s : State) (p n : Nat) : Option State :=
  let x := slotOf s n
  if x.req.ctxLen + 1 ≤ x.ctl.kvResv then some s
  else
    let r := 64 * rd s (Reg.SRV_P_RESV64 p)
    if poolPositions s p < kvReserved s p + r ∨ r = 0 ∨ 2 ^ 24 < x.ctl.kvResv + r then none
    else
      let s := modSlot p n (fun y => { y with ctl := { y.ctl with kvResv := y.ctl.kvResv + r } }) s
      some (ensurePages p n (slotOf s n).ctl.kvResv s)

/-- A request in DECODE or HOLD at a step boundary: its hold causes are found anew. One that waits for a turn stays. -/
def boundaryRow (p : Nat) (s : State) (n : Nat) : State :=
  let x := slotOf s n
  if x.req.state = stHold ∧ bit x.req.cause 3 then s
  else
    let e := extendKv s p n
    let s := e.getD s
    let c := bnat (ringShort s p n) + (x.req.cause &&& 2) + (if e.isNone then 4 else 0)
    if c = 0 then (if x.req.state = stDecode then s else toState p n stDecode (fun y => { y with req := { y.req with cause := 0 } }) s)
    else if x.req.state = stHold then modSlot p n (fun y => { y with req := { y.req with cause := c } }) s
    else toState p n stHold (fun y => { y with lastAt := y.lastAt.map (fun _ => 0), req := { y.req with cause := c } }) s

/-- The lead's step boundary. -/
def stepBoundary (p : Nat) (s : State) : State := (slotsIn s p stDecode ++ slotsIn s p stHold).foldl (boundaryRow p) s

/-! ### The end of drained requests (R343, R363) -/

/-- A request leaves DRAIN: its pages are released. -/
def drained (p n : Nat) (s : State) : State :=
  let x := slotOf s n
  let t := dropShipPages p n (releasePages p n s)
  toState p n (if x.req.status = 0 then stDone else stFault)
    (fun z => { z with reason := if x.req.status = 0 then x.reason else 5 }) t

/-- It leaves DRAIN; without a record with LAST it writes a terminal record. -/
def endDrain (p : Nat) (y : State × List Nat) (n : Nat) : State × List Nat :=
  let x := slotOf y.1 n
  let s := drained p n y.1
  (s, if x.ended ∨ x.req.role = 0 ∨ (ringOf s n).isNone then y.2 else y.2 ++ [n])

/-- The drained requests that no running batch refers to after the commit of the frame with counter `c`. -/
def endDrains (p c : Nat) (idle : Bool) (ns : List Nat) (s : State) : State × List Nat :=
  (ns.filter (fun n => (slotOf s n).req.state == stDrain && (idle || !inBatch s p c n))).foldl (endDrain p) (s, [])

/-! ### A commit -/

/-- The contexts of the partition issue nothing: the barrier of a replacement holds (R409). -/
def atBarrier (s : State) (p : Nat) : Bool := match replOf s p with | some r => decide (2 ≤ r.stage) | none => false

/-- What a lead's commit does to its requests: the state, the token records, the requests with a terminal record. -/
def commitLead (p now : Nat) (s : State) : State × List TokenRec × List Nat :=
  let c := (part s p).phase
  let idle := atBarrier s p
  let closes := !idle && stepCloses s p c
  let runs := !idle && runCloses s p c
  let drains := slotsIn s p stDrain
  let s := shipLink p (shipAdvance p s)
  let s := commitPass p s
  let z := if closes then stepResults p now s else (s, [])
  let s := if runs then passResults p z.1 else z.1
  let s := applyAsks p (closes || idle) (z.2.map (·.slot)) s
  let s := if closes then stepBoundary p s else s
  let d := endDrains p c idle drains s
  let s := barrierAtCommit p (closes || runs) d.1
  let s := if idle then s else advanceBatches p c s
  let s := commitThaws p (commitImages p (endReplacement p s))
  (grantCredits p s, z.2, d.2)

/-- The stream records of a lead's commit, in the frame that committed. -/
def writeRecords (p f : Nat) (recs : List TokenRec) (ends : List Nat) (s : State) : State :=
  let s := recs.foldl (fun s r =>
    let x := slotOf s r.slot
    let last := x.ended
    putRecord p r.slot (recordOf r.token r.pos (f % 2 ^ 32)
      (recFlags r.first last (if last then x.reason else 0) (last && x.req.state == stHold) r.epoch) r.logprob) s) s
  let s := ends.foldl (fun s n =>
    let x := slotOf s n
    putRecord p n (recordOf 0xFFFFFFFF x.req.ctxLen (f % 2 ^ 32) (recFlags false true x.reason false false) 0xFF80) s) s
  putTails p (recs.map (·.slot) ++ ends) s

/-! ### The frame plan (R356, R370) -/

/-- The records of a slot as a plan carries them: REQUEST and bytes 0–47 of CONTROL. -/
def planRecords (x : Slot) : Bytes := reqBytes x.req ++ (ctlBytes x.ctl).take 48

/-- A slot changes in a way that a plan carries. -/
def planChange (a b : Slot) : Bool :=
  planRecords a != planRecords b || a.installed != b.installed || a.imageState != b.imageState

/-- The slots of a partition that differ between two states. -/
def changedSlots (s t : State) (p : Nat) : List Nat :=
  ((liveSlots s p ++ liveSlots t p).foldl (fun l n => insertAsc n l) []).filter (fun n => planChange (slotOf s n) (slotOf t n))

/-- KIND of a change (Table 14-16). -/
def planKind (a b : Slot) : Nat :=
  let u := a.req.state
  let v := b.req.state
  if v = stFree then 4
  else if v = stShip ∧ u = stFree then 1
  else if (v = stPrefill ∨ v = stDecode ∨ v = stShip) ∧ (u = stQueued ∨ (u = stFree ∧ v ≠ stShip)) then 2
  else if u = stShip ∧ v = stDecode then 5
  else if a.installed ≠ b.installed ∧ v = stShip then 1
  else if u = stFallow ∧ v = stHold then 5
  else if a.imageState ≠ 2 ∧ b.imageState = 2 then 10
  else 3

/-- A plan entry of 128 bytes. -/
def planEntry (s : State) (p n kind : Nat) (a b : Slot) : Bytes :=
  let side : Bool := b.req.role == 0 && kind == 1
  let pages := if kind = 1 ∨ kind = 2 then b.ctl.kvResv / 64 else if kind = 4 ∨ kind = 10 then a.ctl.kvResv / 64 else 0
  leBytes 1 kind ++ leBytes 1 (bnat side + 2 * bnat (a.req.samplerCtr != b.req.samplerCtr && kind == 3)) ++
    leBytes 2 (n - slotBase s p) ++ leBytes 2 b.req.gen ++ leBytes 2 (if b.req.state = stDrain ∨ b.req.state = stFault then b.req.status else 0) ++
    leBytes 4 pages ++ leBytes 4 0 ++ planRecords b

/-- A job-wide plan entry. -/
def wideEntry (kind status epoch : Nat) : Bytes :=
  leBytes 1 kind ++ [0] ++ leBytes 2 0xFFFF ++ leBytes 2 0 ++ leBytes 2 status ++ leBytes 8 0 ++ leBytes 8 epoch ++ List.replicate 104 0

/-- The job-wide entries of the running frame: a stop or pause that stands in it, a barrier and an epoch switch. -/
def wideEntries (s t : State) (p : Nat) : List Bytes :=
  let stop := match (part s p).stopReq with
    | some r => if r.placed then [if r.mode < 2 then wideEntry 6 r.status 0 else wideEntry 7 0 0] else []
    | none => []
  let bar := if !atBarrier s p && atBarrier t p then [wideEntry 8 0 0] else []
  let ep := if (part s p).modelEpoch ≠ (part t p).modelEpoch then [wideEntry 9 0 (part t p).modelEpoch] else []
  stop ++ bar ++ ep

/-- The plan of the running frame: header (Table 14-15), job-wide entries, and the entries of the slots that this commit would
change or that no plan has carried. A slot that is only QUEUED on the lead needs none. -/
def buildPlan (p : Nat) (s : State) : State :=
  let t := (commitLead p (applTime s) s).1
  let wide := wideEntries s t p
  let ns := (s.srv.dirty.filter (fun n => decide (slotBase s p ≤ n) && decide (n < slotBase s p + slotCount s p))).foldl
    (fun l n => insertAsc n l) (changedSlots s t p)
  let ns := (ns.filter (fun n => (slotOf t n).req.state != stQueued || (slotOf t n).cont)).take
    (32 * planPieces (srvSec s p) - 1 - wide.length)
  let es := wide ++ ns.map (fun n => planEntry s p n (planKind (slotOf s n) (slotOf t n)) (slotOf s n) (slotOf t n))
  let np := ceilDiv (1 + es.length) 32
  let im := match (part s p).image with | some im => im.imageId | none => 0
  let hd := leBytes 4 0x4E414C50 ++ [1] ++ leBytes 1 (sliceOf s p) ++ leBytes 2 es.length ++ leBytes 6 (frameNo s) ++ leBytes 2 np ++
    leBytes 8 im ++ leBytes 8 (part s p).modelEpoch ++ leBytes 8 (frameEpoch s p) ++ List.replicate 88 0
  modSrv (fun v => { v with plans := tput [] v.plans p (padTo (4096 * np) (hd ++ joinBytes es)),
                            planned := v.planned ++ ns.map (fun n => (n, planRecords (slotOf t n))) }) s

/-- A slice of several packages whose image declares plan transfers. -/
def plansRun (s : State) (p : Nat) : Bool := decide (1 < (membersOf s p).length) && planPieces (srvSec s p) != 0

/-- A piece of the plan that the lead sends, built when the frame's first plan transfer leaves. -/
def planPiece (p j : Nat) (s : State) : Option Bytes × State :=
  let s := if tget [] s.srv.plans p = [] then buildPlan p s else s
  let b := bytesAt (tget [] s.srv.plans p) (4096 * j) 4096
  (if b.isEmpty then none else some b, s)

/-- After a commit or a failed frame the plan is over; slots whose committed change it did not carry wait for the next. -/
def closePlan (p : Nat) (old : State) (s : State) : State :=
  let mine (n : Nat) : Bool := decide (slotBase s p ≤ n) && decide (n < slotBase s p + slotCount s p)
  let ch := (s.srv.dirty.filter mine).foldl (fun l n => insertAsc n l) (changedSlots old s p)
  let left := if plansRun s p then ch.filter (fun n => !s.srv.planned.contains (n, planRecords (slotOf s n))) else []
  modSrv (fun v => { v with plans := tput [] v.plans p [], planned := v.planned.filter (fun e => !mine e.1),
                            dirty := v.dirty.filter (fun n => !mine n) ++ left }) s

/-- A partition's commit on the lead. -/
def commitAsLead (p f now : Nat) (s : State) : State :=
  let z := commitLead p now s
  closePlan p s (writeRecords p f z.2.1 z.2.2 z.1)

/-! ### The plan on a member -/

/-- The plan that a member has received in the running frame: its entries, none where it is not whole or not this job's. -/
def receivedPlan (s : State) (p : Nat) : Option (List Bytes) :=
  let st := ((partEnts s p).filter (fun e => e.ingress && e.use == 3)).map (·.stream)
  let piece (j : Nat) : Bytes :=
    match s.fab.rxPieces.find? (fun x => x.slice == sliceOf s p && st.contains x.stream && x.idx == j) with
    | some x => x.data.getD []
    | none => []
  let h := piece 0
  let n := numAt h 6 2
  let b := joinBytes ((List.range (ceilDiv (1 + n) 32)).map piece)
  let im := match (part s p).image with | some im => im.imageId | none => 0
  if numAt h 0 4 ≠ 0x4E414C50 ∨ numAt h 4 1 ≠ 1 ∨ numAt h 5 1 ≠ sliceOf s p ∨ numAt h 8 6 ≠ frameNo s ∨ numAt h 16 8 ≠ im ∨
      b.length < 128 * (1 + n) then none
  else
    let es := (List.range n).map (fun i => bytesAt b (128 * (i + 1)) 128)
    if es.any (fun e => decide (numAt e 0 1 = 0) || decide (10 < numAt e 0 1)) then none else some es

/-- A member whose plan is not whole treats it as a lost scheduled slot (R370). -/
def checkPlan (p : Nat) (s : State) : State :=
  if !isLead s p && plansRun s p && (receivedPlan s p).isNone then failFrame p ⟨0x0560, false, 14, 0⟩ s else s

/-- A member's slot from a plan entry. The lead keeps bytes 48–63 of the control record: on a slot that was FREE here they are
free values. -/
def entrySlot (s : State) (n : Nat) (e : Bytes) : Slot × State :=
  let x := slotOf s n
  let r := reqOf (bytesAt e 16 64)
  if x.req.state ≠ stFree then
    ({ x with req := { r with ptRoot := x.req.ptRoot }, ctl := ctlOf (bytesAt e 80 48 ++ (ctlBytes x.ctl).drop 48) }, s)
  else
    let d := drawBytes 16 s
    ({ Slot.free with req := { r with ptRoot := 0 }, ctl := ctlOf (bytesAt e 80 48 ++ d.1) }, d.2)

/-- A member applies an entry of the plan at the commit. -/
def applyEntry (p : Nat) (s : State) (e : Bytes) : State :=
  let kind := numAt e 0 1
  let n := slotBase s p + numAt e 2 2
  if kind = 6 then stopJob s p (numAt e 6 2)
  else if kind = 7 then modPart s p (fun q => { q with pauseDue := true })
  else if kind = 8 then
    setRepl p (some (match replOf s p with | some r => { r with stage := 2 } | none => ⟨0, 2, 0, false, 0, 0, none, none, []⟩)) s
  else if kind = 9 then switchEpoch p (numAt e 16 8) s
  else if slotCount s p ≤ numAt e 2 2 then s
  else if kind = 4 then freeSlot p n (dropShipPages p n s)
  else if kind = 1 ∧ bit (numAt e 1 1) 0 then modSlot p n (fun x => { x with installed := true }) s
  else
    let z := entrySlot s n e
    let v := z.1.req.state
    let s := setSlot p n z.1 z.2
    if kind = 2 then
      (if v = stPrefill then
        enterPrefill p n (modSlot p n (fun x => { x with run := (nextRunOf s p x.req.bucket).getD 0 }) s)
      else if v = stShip then modSlot p n (fun x => { x with shipOrder := s.srv.order }) (modSrv (fun y => { y with order := y.order + 1 }) s)
      else ensurePages p n z.1.ctl.kvResv s)
    else if kind = 5 then
      (match s.srv.sessOps.find? (fun o => o.part == p && o.op.isNone && o.ready && (match o.kind with | .thaw _ _ m _ => m == n | _ => false)) with
       | some o => linkThawed p n o.pages (setOps (s.srv.sessOps.filter (· != o)) s)
       | none => ensurePages p n z.1.ctl.kvResv s)
    else if kind = 10 then modSlot p n (fun x => { x with imageState := 2 }) (releasePages p n s)
    else if v = stShip ∧ kind = 3 then modSlot p n (fun x => { x with shipOrder := s.srv.order }) (modSrv (fun y => { y with order := y.order + 1 }) s)
    else if 8 ≤ v then dropShipPages p n (releasePages p n s)
    else if v = stDecode ∨ v = stHold then ensurePages p n z.1.ctl.kvResv s
    else s

/-- A partition's commit on a package that is not the lead. -/
def commitAsMember (p : Nat) (s : State) : State :=
  let c := (part s p).phase
  let idle := atBarrier s p
  let s := shipLink p (shipAdvance p s)
  let s := ((receivedPlan s p).getD []).foldl (applyEntry p) s
  if idle then s else advanceBatches p c s

/-- A partition's commit: `f` is the frame that commits, `now` the appliance time of the tick that closes it. -/
def commitServing (p f now : Nat) (s : State) : State :=
  if (srvSec s p).isEmpty then s
  else if isLead s p then commitAsLead p f now s else commitAsMember p s

/-- A job stops (R344): its requests from QUEUED to DRAIN become FAULT with the stop status, and their pages go. -/
def stopRequests (p st : Nat) (s : State) : State :=
  let s := modSrv (fun v => { v with pass := tput none v.pass p none, batches := tput Batches.none v.batches p Batches.none,
                                     plans := tput [] v.plans p [] }) s
  (liveSlots s p).foldl (fun s n =>
    let x := slotOf s n
    if (1 ≤ x.req.state ∧ x.req.state ≤ 5) ∨ x.req.state = stDrain then
      toState p n stFault (fun y => { y with reason := 5, req := { y.req with status := st } }) (dropShipPages p n (releasePages p n s))
    else s) s

/-- A target job has stopped: the prefill lead's requests in SHIP towards it go (R344). -/
def loseTarget (p sl : Nat) (s : State) : State :=
  (slotsIn s p stShip).foldl (fun s n => if (slotOf s n).ctl.peerSlice = sl then askSlot n .lost s else s) s

end Sys2Proof.Machine
end

