-- ==== Sys2Proof/Machine/Parts.lean ====
section
/-!
DEFINITION. Partitions (chapter 17): creation, assignment and destruction (R416–R421), slice binding (R426), queries and
accounting (R438–R443).
-/

namespace Sys2Proof.Machine

/-! ### The VF of a partition (R416, R421, R452) -/

/-- A Function Level Reset of VF `p` (R452, R546): its rings, its Bus Master Enable and its pending interrupts go. -/
def resetVf (p : Nat) (s : State) : State :=
  let s := resetMbox s (2 + p)
  { s with hif := { s.hif with bme := tput false s.hif.bme (2 + p) false },
           kao := { s.kao with msixPending := s.kao.msixPending.filter (fun x => x.1 != 2 + p) } }

/-- The serving registers of a partition at their reset values (Table 14-13). -/
def resetSrvPart (p : Nat) (s : State) : State :=
  ([Reg.SRV_P_SLOT_BASE p, Reg.SRV_P_SLOT_COUNT p, Reg.SRV_P_URGENT_SLACK p, Reg.SRV_P_RESV64 p, Reg.SRV_P_ADMIT_EN p,
    Reg.SRV_P_DROP_LATE p, Reg.SRV_P_LINGER64 p, Reg.SRV_P_ADMIT_CNT p, Reg.SRV_P_REJECT_CNT p, Reg.SRV_P_RECORD_CNT p,
    Reg.SRV_P_MSIX_CNT p, Reg.SRV_P_HOLD_CNT p] ++ (List.range 10).map (Reg.SRV_P_STATE_CNT p)).foldl
    (fun s f => wr s f f.reset) s

/-- PART_CREATE (R416): WRONG_STATE where the partition exists. -/
def cmdPartCreate (e : Entry) (_ : HostIo) (s : State) : CmdOut :=
  if 1 < arg e 8 1 then refuseCmd 0x0102 s
  else if (part s e.part).present then refuseCmd 0x0300 s
  else doneCmd [] (resetSrvPart e.part (resetVf e.part
    (modPart s e.part (fun _ => { Part.absent with present := true, port := arg e 8 1 }))))

/-- PART_CREATE. -/
def execPartCreate (e : Entry) (io : HostIo) (s : State) : Host.Outcome State Fault Refusal :=
  runRow Row.partCreate cmdPartCreate e io s

/-! ### Quadrants, threads, slots and map entries (R418–R420, R233) -/

/-- Quadrants in ascending placement number P = 12q + s (R419). -/
def placement : List Nat := (List.range 48).map (fun P => 4 * (P % 12) + P / 12)

/-- The quadrants a partition has after PART_ASSIGN to `n`, ascending; none where too few are free (R418, R419). -/
def newQuads (s : State) (p n : Nat) : Option (List Nat) :=
  let keep := placement.filter (fun G => (part s p).quads.contains G && !quadFenced s G)
  let free := placement.filter (fun G => ownerOf s G == 255 && !quadFenced s G)
  let got := if n ≤ keep.length then keep.take n else keep ++ free.take (n - keep.length)
  if got.length < n then none else some ((List.range 48).filter got.contains)

/-- The threads it has then, ascending. -/
def newThreads (s : State) (p n : Nat) : Option (List Nat) :=
  let keep := (part s p).threads.filter (fun t => !threadFenced s t)
  let free := (List.range 256).filter (fun t => threadOwner s t == 255 && !threadFenced s t)
  let got := if n ≤ keep.length then keep.take n else keep ++ free.take (n - keep.length)
  if got.length < n then none else some ((List.range 256).filter got.contains)

/-- The lowest base of a block of `n` below `cap` that meets no block of `used`. -/
def lowestFit (cap n : Nat) (used : List (Nat × Nat)) : Option Nat :=
  let fits (b : Nat) : Bool := decide (b + n ≤ cap) && used.all (fun u => u.2 == 0 || n == 0 || !overlaps b n u.1 u.2)
  (((0 :: used.map (fun u => u.1 + u.2)).filter fits).min?)

/-- The other partitions that exist. -/
def otherParts (s : State) (p : Nat) : List Nat := (List.range 32).filter (fun q => q != p && (part s q).present)

/-- SLOT_BASE of a block of `n` slots (R338): a partition whose SLOT_COUNT stays keeps its block. -/
def newSlotBase (s : State) (p n : Nat) : Option Nat :=
  if n = slotCount s p then some (slotBase s p)
  else lowestFit 65536 n ((otherParts s p).map (fun q => (slotBase s q, slotCount s q)))

/-- MAP_BASE of a range of `n` pages. -/
def newMapBase (s : State) (n : Nat) (p : Nat) : Option Nat :=
  lowestFit 589824 n ((otherParts s p).map (fun q => (rd s (Reg.TIER_P_MAP_BASE q), rangePages s q)))

/-- The tier-2 frames that the pages of a partition lie in, as physical address div 2 MiB. -/
def t2Frames (t : TierPart) : List Nat :=
  let t1 := 6144 * t.quads.length
  ((List.range t.t2.length).filter (fun i => !t.pages.any (fun e => e.1 == t1 + i))).map (fun i => 524288 + t.t2.getD i 0) ++
    (t.pages.filter (fun e => tierOf e.2.frame == 2)).map (·.2.frame)

/-- The moves of a partition end, and its tier-1 frames on the release list are zeroed now. -/
def settleTier (p cause : Nat) (s : State) : State :=
  let s := abortMoves (fun _ m => m.part == p) cause
    { s with tier := { s.tier with queue := s.tier.queue.filter (·.part != p), staged := s.tier.staged.filter (·.part != p) } }
  let mine := s.tier.release.filter (fun r => r.part == p)
  mine.foldl (fun s r => zeroRange s (r.frame * pageBytes) pageBytes)
    { s with tier := { s.tier with release := s.tier.release.filter (fun r => r.part != p) } }

/-- Zero a quadrant for its next owner: its 24 banks and its tier-1 frames (R168, R233). -/
def zeroQuadrant (G : Nat) (s : State) : State :=
  let s := zeroRange (zeroRange s (spmAddr G 0) 0xC00000) (t1Addr G 0) 0x300000000
  modCtx s G (fun _ => Ctx.fresh)

/-- Automatic gating of the domains of quadrants, stacks and clusters (R502): on where a partition owns a part of one, off
where the last owner has left. -/
def gateDomains (quads threads : List Nat) (s : State) : State :=
  if rdb s Reg.PWR_AUTO_GATE then
    let s := quads.foldl (fun s G => setDomain G (ownerOf s G != 255) s) s
    let s := ((quads.map (· / 4)).eraseDups).foldl (fun s n => setDomain (48 + n) (stackOwned s n) s) s
    ((threads.map (· / 64)).eraseDups).foldl (fun s k =>
      setDomain (64 + k) ((List.range 64).any (fun t => threadOwner s (64 * k + t) != 255)) s) s
  else s

/-- The request slots `l` of a partition return to FREE, with their rings and what was asked of them. -/
def dropSlots (p : Nat) (l : List Nat) (s : State) : State :=
  let s := l.foldl (fun s n => setRing n none (freeSlot p n s)) s
  modSrv (fun v => { v with asks := v.asks.filter (fun r => !l.contains r.slot),
                            lateAsks := v.lateAsks.filter (fun r => !l.contains r.slot) }) s

/-- Rebuild the map of a partition (R233): its tier-1 frames in ascending G, its tier-2 frames as far as it keeps them and
new ones from the pool. Write protection follows the shard records. -/
def rebuildMap (p t2 : Nat) (quads new : List Nat) (s : State) : State :=
  let old := t2Frames (tierPart s p)
  let s := (old.drop t2).foldl (fun s f => releaseFrame 255 f false s) (usePool new s)
  let s := modTier s p (fun _ => ⟨quads, ((old.take t2).map (· - 524288)) ++ new, [], []⟩)
  let s := wr (wr s (Reg.TIER_P_RANGE_PAGES p) (6144 * quads.length + t2)) (Reg.TIER_P_T2_QUOTA p) t2
  refreshTier p ((s.wts.recs.filter (·.part == p)).foldl (fun s r => setWp p r.dst r.len true s) s)

/-- What PART_ASSIGN has found for its targets. -/
structure Assignment where
  quads : List Nat
  threads : List Nat
  slotBase : Nat
  slots : Nat
  t2 : Nat
  newT2 : List Nat
  mapBase : Nat
  budget : Nat
  deriving DecidableEq, Repr

/-- Give the partition its new resources (R418, R168). -/
def assign (p : Nat) (a : Assignment) (s : State) : State :=
  let q := part s p
  let remap := q.quads != a.quads || rd s (Reg.TIER_P_T2_QUOTA p) != a.t2
  let s := dropSlots p (if a.slotBase = slotBase s p ∧ a.slots = slotCount s p then []
    else (liveSlots s p).filter (fun n => decide (n < a.slotBase) || decide (a.slotBase + a.slots ≤ n))) s
  let s := if remap then (liveSlots s p).foldl (fun s n => releasePages p n s) (settleTier p 3 s) else s
  let s := modPart s p (fun q => { q with quads := a.quads, threads := a.threads, slotBudget := a.budget })
  let gained := a.quads.filter (fun G => !q.quads.contains G)
  let lost := q.quads.filter (fun G => !a.quads.contains G)
  let s := gateDomains gained (a.threads.filter (fun t => !q.threads.contains t)) s
  let s := (lost ++ gained).foldl (fun s G => zeroQuadrant G s) s
  let s := gateDomains lost (q.threads.filter (fun t => !a.threads.contains t)) s
  let s := wr (if remap then rebuildMap p a.t2 a.quads a.newT2 s else s) (Reg.TIER_P_MAP_BASE p) a.mapBase
  let s := wr (wr s (Reg.SRV_P_SLOT_BASE p) a.slotBase) (Reg.SRV_P_SLOT_COUNT p) a.slots
  wr s (Reg.SRV_P_STATE_CNT p 0) (a.slots - (liveSlots s p).length)

/-- PART_ASSIGN (R418): all-or-nothing. -/
def cmdPartAssign (e : Entry) (_ : HostIo) (s : State) : CmdOut :=
  let p := e.part
  let nq := arg e 8 1
  let nt := arg e 10 2
  let ns := arg e 12 4
  let t2 := arg e 16 4
  if 48 < nq ∨ 256 < nt ∨ 65536 < ns ∨ 2552 < arg e 20 2 then refuseCmd 0x0102 s
  else if (part s p).job.busy then refuseCmd 0x0301 s
  else match newQuads s p nq, newThreads s p nt, newSlotBase s p ns with
    | some qs, some ts, some b =>
      let held := (t2Frames (tierPart s p)).length
      (match takePool s (t2 - held), newMapBase s (6144 * nq + t2) p with
       | some new, some m =>
         if t2 ≠ 0 ∧ rdb s Reg.TIER_T2_FENCED then refuseCmd 0x0240 s
         else doneCmd (leBytes 6 (bitmap qs) ++ leBytes 2 b ++ leBytes 4 m ++ leBytes 4 (6144 * nq + t2))
           (assign p ⟨qs, ts, b, ns, t2, new, m, arg e 20 2⟩ s)
       | _, _ => refuseCmd 0x0240 s)
    | _, _, _ => refuseCmd 0x0200 s

/-- PART_ASSIGN. -/
def execPartAssign (e : Entry) (io : HostIo) (s : State) : Host.Outcome State Fault Refusal :=
  runRow Row.partAssign cmdPartAssign e io s

/-! ### Destruction (R421) -/

/-- End partition `p` and release everything it owns. -/
def destroyPart (p : Nat) (s : State) : State :=
  let q := part s p
  let s := settleTier p 0 (dropSlots p (liveSlots s p) s)
  let s := (t2Frames (tierPart s p)).foldl (fun s f => releaseFrame 255 f false s) s
  let s := (List.range 64).foldl (fun s x => if queueStatus s p x then writeQueue x none s else s) s
  let s := discardRecs (fun r => r.part == p) s
  let owned (b : Bytes) : Bool := !b.isEmpty && numAt b 0 1 % 32 == p
  let s := { s with
    coll := { s.coll with groups := s.coll.groups.filter (fun g => !owned g.2),
                          stagedGroups := s.coll.stagedGroups.filter (fun g => !owned g.2) },
    decls := tput [] s.decls p [],
    vex := tput VexPart.empty s.vex p VexPart.empty,
    wts := { s.wts with repl := tput none s.wts.repl p none, refs := tput (0, []) s.wts.refs p (0, []) } }
  let s := setKeys (s.keys.filter (fun k => 3 ≤ k.cls || k.owner != p)) s
  let s := modSrv (fun v => { v with
    pass := tput none v.pass p none, batches := tput Batches.none v.batches p Batches.none,
    admitCfgs := tput AdmitCfg.none v.admitCfgs p AdmitCfg.none, ptr := tput 0 v.ptr p 0,
    admitNext := v.admitNext.filter (·.1 != p),
    queueNext := v.queueNext.filter (fun x => match x.2 with | some c => c.1 != p | none => true),
    granted := v.granted.filter (fun x => x.1 / 4 != p), credits := v.credits.filter (fun x => x.1 / 4 != p) }) s
  let s := { s with parts := tput Part.absent s.parts p Part.absent }
  let s := gateDomains q.quads q.threads (q.quads.foldl (fun s G => zeroQuadrant G s) s)
  let s := modTier s p (fun _ => TierPart.empty)
  let s := wr (wr (wr s (Reg.TIER_P_MAP_BASE p) 0) (Reg.TIER_P_RANGE_PAGES p) 0) (Reg.TIER_P_T2_QUOTA p) 0
  resetSrvPart p (resetVf p (refreshTier p s))

/-- PART_DESTROY (R421, R462). -/
def cmdPartDestroy (e : Entry) (_ : HostIo) (s : State) : CmdOut :=
  if (part s e.part).job.busy || s.kao.ops.any (fun o => o.part == e.part) then refuseCmd 0x0301 s
  else doneCmd [] (destroyPart e.part s)

/-- PART_DESTROY. -/
def execPartDestroy (e : Entry) (io : HostIo) (s : State) : Host.Outcome State Fault Refusal :=
  runRow Row.partDestroy cmdPartDestroy e io s

/-! ### Slice binding (R426) -/

/-- The (package, partition) pairs of a member list. -/
def memberList (b : Bytes) (n : Nat) : List (Nat × Nat) := (List.range n).map (fun r => (numAt b (2 * r) 1, numAt b (2 * r + 1) 1))

/-- A job bound to slice `sl` stopped here less than 4 × TIMEOUT_US ago. -/
def quarantined (s : State) (sl : Nat) : Bool :=
  s.kao.sliceStops.any (fun x => x.1 == sl && decide (pkgNs s < x.2 + 4000 * rd s Reg.RMT_TIMEOUT_US))

/-- SLICE_BIND: the first status of R426 that applies. -/
def cmdSliceBind (e : Entry) (io : HostIo) (s : State) : CmdOut :=
  let p := e.part
  let sl := arg e 8 1
  let n := arg e 10 2
  let r := arg e 12 2
  match inputOf e io (arg e 24 4) with
  | none => refuseCmd 0x0500 s
  | some b =>
    if b.length ≠ arg e 24 4 ∨ b.length < 2 * n then refuseCmd 0x0104 s
    else if (part s p).job.busy then refuseCmd 0x0301 s
    else if n = 0 then doneCmd (leBytes 8 0) (modPart s p (fun q => { q with slice := none }))
    else
      let ms := memberList b n
      if sl = 255 ∨ 144 < n ∨ n ≤ r ∨ !commonRange Row.sliceBind e ∨ ms.any (fun m => m.1 == 255 || decide (31 < m.2)) ∨
          ms.eraseDups.length ≠ n ∨ ms[r]? ≠ some (pkgId s, p) then refuseCmd 0x0102 s
      else if (otherParts s p).any (fun q => sliceOf s q == sl) ∨ quarantined s sl then refuseCmd 0x03C0 s
      else
        let d := (sha256 (b.take (2 * n))).toNat % 2 ^ 64
        doneCmd (leBytes 8 d) (modPart s p (fun q => { q with slice := some ⟨sl, r, ms, d⟩ }))

/-- SLICE_BIND. -/
def execSliceBind (e : Entry) (io : HostIo) (s : State) : Host.Outcome State Fault Refusal :=
  runRow Row.sliceBind cmdSliceBind e io s

/-! ### Queries and accounting (R438, R443) -/

/-- IMAGE_ID of the partition's job, or of the last one. -/
def imageIdOf (q : Part) : Nat := match q.image with | some im => im.imageId | none => q.lastImage

/-- JOB_QUERY (Table 18-11). -/
def cmdJobQuery (e : Entry) (_ : HostIo) (s : State) : CmdOut :=
  let q := part s e.part
  let pg := arg e 8 1
  if 1 < pg then refuseCmd 0x0102 s
  else if pg = 0 then
    doneCmd (leBytes 1 q.job.code ++ leBytes 1 (sliceOf s e.part) ++ leBytes 2 (ownRank s e.part) ++
      leBytes 8 (frameEpoch s e.part) ++ leBytes 2 q.phase ++ leBytes 6 q.startFrame ++ leBytes 6 q.lastCheap) s
  else doneCmd (leBytes 8 (imageIdOf q) ++ leBytes 6 q.stopFrame ++ leBytes 2 q.stopStatus) s

/-- JOB_QUERY. -/
def execJobQuery (e : Entry) (io : HostIo) (s : State) : Host.Outcome State Fault Refusal :=
  runRow Row.jobQuery cmdJobQuery e io s

/-- A counter set as PART_ACCOUNTING writes it, 256 bytes (Table 17-7). -/
def counterSet (f : Nat → Nat) (q : Nat) : Bytes :=
  joinBytes ((List.range 27).map (fun i => leBytes 8 (f (8 * i)))) ++ List.replicate 32 0 ++ leBytes 1 q ++ List.replicate 7 0

/-- What PART_ACCOUNTING writes (R462): a header, the partition's set and the sets of its queues. -/
def accountingBytes (s : State) (p : Nat) : Bytes :=
  let qs := (List.range 64).filter (queueStatus s p)
  padTo 64 (leBytes 1 p ++ leBytes 1 qs.length ++ leBytes 6 (frameNo s)) ++
    counterSet (fun o => tget 0 (part s p).acct o) 0 ++
    joinBytes (qs.map (fun q => counterSet (fun o => if o = 8 then 0 else tget 0 s.qacct (256 * q + o)) q))

/-- PART_ACCOUNTING (R443). -/
def cmdPartAccounting (e : Entry) (io : HostIo) (s : State) : CmdOut :=
  let b := accountingBytes s e.part
  if arg e 16 4 < b.length ∨ (isMgmt e ∧ 8192 < b.length) then refuseCmd 0x0104 s
  else withOutput e io (arg e 8 8) b (leBytes 4 b.length ++ leBytes 6 (frameNo s)) s

/-- PART_ACCOUNTING. -/
def execPartAccounting (e : Entry) (io : HostIo) (s : State) : Host.Outcome State Fault Refusal :=
  runRow Row.partAccounting cmdPartAccounting e io s

end Sys2Proof.Machine
end

