-- ==== Sys2Proof/Machine/Valid.lean ====
section
/-!
DEFINITION. Validation of an image part at JOB_START (R427–R429, R445, Table 17-4): the header, the directory and the
sections, the checks against the partition's bindings, and the shares and slots that the part needs.
-/

namespace Sys2Proof.Machine

/-! ### Findings -/

/-- What an invalid part is refused for (Table 18-11): context rank, phase, program index, section type, entry index. -/
structure Finding where
  ctx : Nat
  phase : Nat
  pc : Nat
  type : Nat
  idx : Nat
  deriving DecidableEq, Repr

/-- Result bytes 4–15 of IMAGE_INVALID. -/
def Finding.bytes (f : Finding) : Bytes :=
  leBytes 1 f.ctx ++ leBytes 1 0 ++ leBytes 2 f.phase ++ leBytes 2 f.pc ++ leBytes 2 f.type ++ leBytes 4 f.idx

/-- A finding about entry `i` of a section. -/
def inSection (ty cx i : Nat) : Finding := ⟨cx, 0, 0, ty, i⟩

/-- `n` bytes from `o` are 0. -/
def zeros (b : Bytes) (o n : Nat) : Bool := (bytesAt b o n).all (· == 0)

/-- The first index below `n` that fails a test. -/
def firstFail (n : Nat) (ok : Nat → Bool) : Option Nat := (List.range n).find? (fun i => !ok i)

/-! ### Header and directory (R427) -/

/-- The header's fields and reserved bytes are as Table 17-3a has them. -/
def headerOk (b : Bytes) : Bool :=
  decide (256 ≤ b.length) && numAt b 0 4 == 0x47494D46 && numAt b 4 1 == 1 && numAt b 5 1 % 4 != 3 && decide (numAt b 5 1 < 8) &&
    decide (numAt b 6 2 < 4096) && decide (1 ≤ numAt b 33 1) && decide (numAt b 33 1 ≤ 48) && decide (1 ≤ numAt b 38 2) &&
    decide (numAt b 38 2 ≤ 4096) && decide (numAt b 40 2 < numAt b 38 2) && decide (1 ≤ numAt b 42 2) &&
    decide (numAt b 42 2 ≤ 1024) && zeros b 44 20 && zeros b 96 160 &&
    (sha256 (b.drop 256)) == BitVec.ofNat 256 (numAt b 64 32)

/-- Directory entry `i`: type, context, offset, length. -/
def dirEntry (b : Bytes) (i : Nat) : Nat × Nat × Nat × Nat :=
  let e := bytesAt b (256 + 16 * i) 16
  (numAt e 0 2, numAt e 2 1, numAt e 3 5, numAt e 8 8)

/-- The sections of a part. -/
def partSections (b : Bytes) : List Section :=
  (List.range (numAt b 42 2)).map (fun i => let e := dirEntry b i; ⟨e.1, e.2.1, bytesAt b e.2.2.1 e.2.2.2⟩)

/-- The image of a part. -/
def imageOfPart (b : Bytes) : Image :=
  { role := numAt b 5 1 % 4, optOut := bit (numAt b 5 1) 2, frameSlots := numAt b 6 2, imageId := numAt b 8 8,
    modelId := numAt b 16 8, modelEpoch := numAt b 24 8, numerics := numAt b 32 1, nctx := numAt b 33 1,
    nmemb := numAt b 34 2, rank := numAt b 36 2, nphase := numAt b 38 2, nstart := numAt b 40 2, sections := partSections b }

/-- The CTX of a section fits its type (R445). -/
def ctxFits (nctx ty cx : Nat) : Bool :=
  if ty = 0x0B then decide (cx < 12) else if 1 ≤ ty ∧ ty ≤ 6 then decide (cx < nctx)
  else cx == 255 && decide (7 ≤ ty) && decide (ty ≤ 0x11)

/-- Directory entry `i` is well formed: a section type with its CTX, aligned, inside the part, and not a repetition. -/
def dirOk (b : Bytes) (i : Nat) : Bool :=
  let e := dirEntry b i
  ctxFits (numAt b 33 1) e.1 e.2.1 && e.2.2.1 % 256 == 0 && decide (e.2.2.1 + e.2.2.2 ≤ b.length) &&
    (List.range i).all (fun j => !((dirEntry b j).1 == e.1 && (dirEntry b j).2.1 == e.2.1))

/-! ### Section layouts (Table 17-9) -/

/-- The entries that a phase table spans. -/
def phaseTotal (b : Bytes) (nph : Nat) : Nat :=
  (List.range nph).foldl (fun m i => max m ((phaseSpan b i).1 + (phaseSpan b i).2)) 0

/-- A section with a phase table and entries of `z` bytes: the first entry that is wrong. -/
def phaseTableBad (b : Bytes) (nph z extra : Nat) (ok : Bytes → Bool) : Option Nat :=
  let n := phaseTotal b nph
  if b.length ≠ 8 * nph + z * n + extra then some 0
  else firstFail n (fun i => ok (bytesAt b (8 * nph + z * i) z))

/-- A section of `k` entries of `z` bytes after `o` bytes, and nothing more. -/
def tableBad (b : Bytes) (o z k : Nat) (ok : Bytes → Bool) : Option Nat :=
  if b.length ≠ o + z * k then some 0 else firstFail k (fun i => ok (bytesAt b (o + z * i) z))

/-- STREAMS (Table 6-12). -/
def streamsBad (b : Bytes) : Option Nat :=
  let ns := numAt b 6 2
  let nd := numAt b 8 4
  if b.length ≠ 32 + 4 * ns + 32 * nd ∨ !zeros b 5 1 ∨ !zeros b 12 20 then some 0
  else firstFail nd (fun i =>
    let e := bytesAt b (32 + 4 * ns + 32 * i) 32
    decide (numAt e 0 8 < 2 ^ 52) && decide (numAt e 8 4 < 2 ^ 18) && decide (numAt e 12 4 < 2 ^ 27) && zeros e 16 16)

/-- A SCHED entry. -/
def schedOk (e : Bytes) : Bool := decide (numAt e 1 1 < 2) && zeros e 7 1

/-- SLOTMAP. -/
def slotMapBad (b : Bytes) : Option Nat :=
  let ns := numAt b 0 4
  let nr := numAt b 4 4
  if b.length ≠ 16 + 8 * ns + 16 * nr ∨ !zeros b 8 8 then some 0
  else match firstFail ns (fun i => schedOk (bytesAt b (16 + 8 * i) 8)) with
    | some i => some i
    | none => (firstFail nr (fun i => zeros b (16 + 8 * ns + 16 * i + 13) 3)).map (ns + ·)

/-- TRANSIT. -/
def transitBad (b : Bytes) : Option Nat :=
  let np := numAt b 0 4
  let n := ((List.range np).map (fun i => numAt b (16 + 16 * i + 2) 4)).sum
  if b.length ≠ 16 + 16 * np + 8 * n ∨ !zeros b 4 12 then some 0
  else match firstFail np (fun i => zeros b (16 + 16 * i + 1) 1 && zeros b (16 + 16 * i + 10) 6) with
    | some i => some i
    | none => (firstFail n (fun i => schedOk (bytesAt b (16 + 16 * np + 8 * i) 8))).map (np + ·)

/-- SERVING. -/
def servingBad (b : Bytes) : Option Nat :=
  let nr := numAt b 14 2
  let nl := numAt b 5 1
  if b.length ≠ 256 + 4 * nr + 8 * nl ∨ !zeros b 40 88 then some 0
  else match firstFail 8 (fun i => zeros b (128 + 16 * i + 8) 8) with
    | some i => some i
    | none => match firstFail nr (fun i => zeros b (256 + 4 * i + 1) 3) with
      | some i => some i
      | none => firstFail nl (fun i => zeros b (256 + 4 * nr + 8 * i + 6) 2)

/-- Words of the cheap mask. -/
def cheapWords (nph : Nat) : Nat := ceilDiv nph 64

/-- CHEAP. -/
def cheapBad (b : Bytes) (nph : Nat) : Option Nat :=
  tableBad b (8 * cheapWords nph + 8) 24 (numAt b (8 * cheapWords nph) 8) (fun e => zeros e 4 4)

/-- The first wrong entry of a section's layout (R445); `hub` is the hub banks of the part's SHARES section. -/
def layoutBad (im : Image) (hub : Nat) (x : Section) : Option Nat :=
  let b := x.bytes
  match x.type with
  | 0x01 => phaseTableBad b im.nphase 16 0 (fun _ => true)
  | 0x02 => phaseTableBad b im.nphase 32 0 (fun e =>
      decide (numAt e 0 2 < 2 ^ 14) && zeros e 11 1 && decide (numAt e 20 4 < 2 ^ 17) && zeros e 24 8)
  | 0x03 => phaseTableBad b im.nphase 8 0 (fun e => numAt e 0 8 / 2 ^ 28 % 16 == 0)
  | 0x04 => streamsBad b
  | 0x05 =>
    if b.length ≠ 8 * ceilDiv (16 + hub) 8 ∨ !zeros b 12 4 ∨ !zeros b (16 + hub) 8 then some 0
    else firstFail hub (fun i => decide (numAt b (16 + i) 1 < 16))
  | 0x06 =>
    let n := phaseTotal b im.nphase
    let es := (List.range n).map (fun i => bytesAt b (8 * im.nphase + 16 * i) 16)
    let m := es.foldl (fun m e => max m (numAt e 8 4 + numAt e 4 2)) 0
    match phaseTableBad b im.nphase 16 (8 * m) (fun e =>
      decide (numAt e 0 2 < 2 ^ 14) && decide (numAt e 2 2 < 2 ^ 12) && zeros e 6 2 && zeros e 12 4) with
    | some i => some i
    | none => (firstFail m (fun i =>
        let e := bytesAt b (8 * im.nphase + 16 * n + 8 * i) 8
        decide (numAt e 3 1 < 4) && zeros e 6 2)).map (n + ·)
  | 0x07 => slotMapBad b
  | 0x08 => transitBad b
  | 0x09 => tableBad b 0 16 (b.length / 16) (fun e => zeros e 2 6)
  | 0x0A => tableBad b 0 24 (b.length / 24) (fun e => zeros e 2 6)
  | 0x0B =>
    if !zeros b 4 4 then some 0
    else tableBad b 8 32 (numAt b 0 4) (fun e =>
      zeros e 6 2 && decide (numAt e 8 4 < 2 ^ 20) && decide (numAt e 12 4 < 2 ^ 25) && decide (numAt e 16 4 ≤ 2 ^ 24) &&
        decide (numAt e 20 4 < 2 ^ 20) && decide (numAt e 24 4 < 2 ^ 18) && zeros e 28 4)
  | 0x0C => tableBad b 0 8 (b.length / 8) (fun _ => true)
  | 0x0D => if b.length ≠ 64 ∨ !zeros b 14 2 ∨ !zeros b 40 24 then some 0 else none
  | 0x0E => servingBad b
  | 0x0F => cheapBad b im.nphase
  | 0x10 => tableBad b 0 24 (b.length / 24) (fun e => zeros e 2 6)
  | 0x11 =>
    if b.length ≠ 32 + numAt b 16 8 ∨ !zeros b 2 6 ∨ !zeros b 24 8 then some 0 else none
  | _ => some 0

/-- The first layout finding of a part: its directory, a section that is missing, and the sections in directory order. -/
def layoutFinding (b : Bytes) (im : Image) : Option Finding :=
  match firstFail (numAt b 42 2) (dirOk b) with
  | some i => some (inSection (dirEntry b i).1 (dirEntry b i).2.1 i)
  | none =>
    match (List.range im.nctx).find? (fun k => !im.sections.any (fun x => x.type == 1 && x.ctx == k)) with
    | some k => some (inSection 1 k 0)
    | none =>
      if !im.sections.any (fun x => x.type == 8) then some (inSection 8 255 0)
      else
        let hub := numAt (sectionOf im 0x0D 255) 0 2
        im.sections.findSome? (fun x => (layoutBad im hub x).map (inSection x.type x.ctx))

/-- The part's header or directory is wrong, or disagrees with the partition (the first IMAGE_INVALID of Table 17-4). -/
def partFinding (s : State) (p : Nat) (b : Bytes) : Option Finding :=
  let im := imageOfPart b
  if !headerOk b then some ⟨0, 0, 0, 0, 0⟩
  else match layoutFinding b im with
    | some f => some f
    | none =>
      if im.nmemb ≠ (membersOf s p).length ∨ im.rank ≠ ownRank s p ∨ im.nctx ≠ (part s p).quads.length then some ⟨0, 0, 0, 0, 0⟩
      else none

/-! ### Bindings: seeds, groups, weights, regions (R86, R318, R402, R238) -/

/-- Every listed group is valid, owned by the partition, and as the image has it (R318). -/
def groupsMatch (s : State) (p : Nat) (im : Image) : Bool :=
  let b := sectionOf im 0x09 255
  (List.range (b.length / 16)).all (fun i =>
    let g := groupEnt s (numAt b (16 * i) 1)
    !g.isEmpty && numAt g 0 1 % 32 == p && numAt g 1 1 == numAt b (16 * i + 1) 1 &&
      numAt g 4 8 == numAt b (16 * i + 8) 8)

/-- Every byte of the Vexsum regions lies in a VERIFIED record of the bound epoch (R402). -/
def weightsVerified (s : State) (p : Nat) (im : Image) : Bool :=
  let vs := verifiedRanges s p (part s p).modelEpoch
  (regionsOf im (fun _ => true)).all (fun e => coveredAll vs (regionSpan (decl s p) e).1 (regionSpan (decl s p) e).2)

/-- The entries of the REGIONS section: KIND, context, start, length. -/
def regionList (im : Image) : List (Nat × Nat × Nat × Nat) :=
  let b := sectionOf im 0x0A 255
  (List.range (b.length / 24)).map (fun i =>
    (numAt b (24 * i) 1, numAt b (24 * i + 1) 1, numAt b (24 * i + 8) 8, numAt b (24 * i + 16) 8))

/-- The pages behind a KIND 0 region of quadrant G: none for a frame that no page maps. -/
def quadPages (s : State) (p G a n : Nat) : List (Option Nat) :=
  (pagesOf a n).map (fun k => if k < 6144 then pageOfFrame s p (6144 * G + k) else none)

/-- The pages that a region declares; none for a frame or page that is not there. -/
def regionPages (s : State) (p : Nat) (r : Nat × Nat × Nat × Nat) : List (Option Nat) :=
  if r.1 = 0 then
    let qs := (part s p).quads
    ((if r.2.1 = 255 then qs else (qs[r.2.1]?).toList).map (fun G => quadPages s p G r.2.2.1 r.2.2.2)).foldr (· ++ ·) []
  else (pagesOf r.2.2.1 r.2.2.2).map (fun n => if n < rangePages s p then some n else none)

/-- Every declared region has its frames (R238). -/
def regionsMapped (s : State) (p : Nat) (im : Image) : Bool :=
  (regionList im).all (fun r => (regionPages s p r).all (·.isSome))

/-- The windows in the tiered range (R425): start and length. -/
def rangeWindows (im : Image) : List (Nat × Nat) :=
  let b := sectionOf im 0x10 255
  ((List.range (b.length / 24)).filter (fun i => numAt b (24 * i) 1 == 0)).map
    (fun i => (numAt b (24 * i + 8) 8, numAt b (24 * i + 16) 8))

/-- The pages that a job pins while it runs: its declared regions and its remote windows (R238, R425). -/
def jobPages (s : State) (p : Nat) (im : Image) : List Nat :=
  ((regionList im).map (fun r => (regionPages s p r).filterMap id)).foldr (· ++ ·) [] ++
    ((rangeWindows im).map (fun w => (pagesOf w.1 w.2).filter (fun n => decide (n < rangePages s p)))).foldr (· ++ ·) []

/-! ### Shares and capacities (R13, R576, R124, R405) -/

/-- Capacity of the resource whose share lies at byte `o` of SHARES (Table 17-10). -/
def capacity (s : State) (o : Nat) : Nat :=
  if o = 2 then 256 else if o = 4 then 16384 else if o = 6 then (if rdb s Reg.TIER_T2_FENCED then 0 else 520)
  else if o = 8 then 256 else if o = 10 then 256 else if o = 12 then 256 else 1600

/-- The shares of SHARES beyond the hub banks: byte offsets. -/
def shareOffsets : List Nat := [2, 4, 6, 8, 10, 12] ++ (List.range 12).map (fun n => 16 + 2 * n)

/-- A share at byte `o` of the jobs that are reserved. -/
def reserved (s : State) (o : Nat) : Nat :=
  ((List.range 32).map (fun p => if (part s p).job.busy then numAt (sharesOf s p) o 2 else 0)).sum

/-- The part's shares fit beside the others (R13, R576), and its hub banks are free (R167). -/
def sharesFit (s : State) (im : Image) : Bool :=
  let b := sectionOf im 0x0D 255
  decide (numAt b 0 2 ≤ (freeHubBanks s).length) &&
    shareOffsets.all (fun o => decide (reserved s o + numAt b o 2 ≤ capacity s o) || numAt b o 2 == 0)

/-- The commands of every context fit its program memory (R124). -/
def programsFit (im : Image) : Bool :=
  (List.range im.nctx).all (fun k => decide (phaseTotal (sectionOf im 1 k) im.nphase ≤ 16384))

/-- No digest unit has too many groups on a stack (R405). -/
def unitsFit (s : State) (p : Nat) (im : Image) : Bool :=
  let d := decl s p
  (List.range (nUnit d)).all (fun u => (List.range 12).all (fun n =>
    let us := unitAt d u
    let es := (vexEntries im n).filter (fun e =>
      let t := numAt e 8 4 % 2 ^ 20
      !bit (numAt e 15 1) 0 && decide (us.1 ≤ t) && decide (t < us.1 + us.2))
    decide ((es.map (fun e => (numAt e 16 4) * (numAt e 24 4 % 2 ^ 18))).sum ≤ 4194304)))

/-- The partition's threads suffice for the control-core program (Table 17-4). -/
def threadsFit (s : State) (p : Nat) (im : Image) : Bool :=
  decide (numAt (sectionOf im 0x11 255) 0 2 ≤ (part s p).threads.length)

/-! ### Scheduled slots (R28, R268, R271, R280, R432) -/

/-- SCHED slots of a list on one position and direction. -/
def schedOn (es : List SlotEnt) (ingress : Bool) (b pos : Nat) : Nat :=
  (es.filter (fun e => e.ingress == ingress && e.bundle == b && e.pos == pos)).length

/-- SCHED slots that each link may hold in frames of `n` slots (R28). -/
def schedMax (n : Nat) : Nat := n - ceilDiv n 16

/-- New entries fit the slot map: none is SCHED already, every position has a link, and every link keeps its open slots. -/
def entriesFit (s : State) (n : Nat) (new : List SlotEnt) : Bool :=
  let old := nextSlotMap s
  new.all (fun e => !old.any (sameSlot e) && decide (subLink s e.bundle e.pos < 96) &&
    decide (schedOn (old ++ new) e.ingress e.bundle e.pos ≤ schedMax n))

/-- The slots of a part are available (0x0260 NO_SLOTS otherwise). -/
def slotsFit (s : State) (p : Nat) (im : Image) : Bool :=
  let es := imageEnts im (sliceOf s p)
  entriesFit s im.frameSlots es &&
    es.all (fun e => e.ingress || decide (schedOn es false e.bundle e.pos ≤ (part s p).slotBudget)) &&
    (imageRoutes im).all (fun r => decide (r.slot + 2 * r.nhop + 1 + 8 ≤ im.frameSlots))

/-! ### Other rules of the sections -/

/-- Two ranges meet. -/
def meet (a b : Nat × Nat) : Bool := overlaps a.1 a.2 b.1 b.2

/-- No two ranges of a list meet. -/
def disjoint : List (Nat × Nat) → Bool
  | [] => true
  | r :: l => l.all (fun x => x.2 == 0 || r.2 == 0 || !meet r x) && disjoint l

/-- A phase ends at a cheap point (R436). -/
def cheapBit (im : Image) (k : Nat) : Bool := bit (numAt (sectionOf im 0x0F 255) (8 * (k / 64)) 8) (k % 64)

/-- Phases whose end is the end of a decode step or of a prefill pass: the counts since the first of them that recur, and
their period (R343, R349). -/
def boundaries (im : Image) : List (List Nat × Nat) :=
  let b := sectionOf im 0x0E 255
  let runs := (List.range (nRun b)).map (fun j => passFrames b (numAt b (256 + 4 * j) 1))
  (if im.role = 0 then [] else [([0], stepFrames b)]) ++
    (if im.role = 1 ∨ runs = [] then [] else
      [((List.range (runs.length + 1)).drop 1 |>.map (fun j => (runs.take j).sum), runs.sum)])

/-- The CHEAP section marks every step and pass end, no bit beyond NPHASE, and lists live ranges of other phase ends only
(R436). -/
def cheapOk (im : Image) : Bool :=
  let b := sectionOf im 0x0F 255
  let n := im.nphase - im.nstart
  (b.isEmpty || (List.range (64 * cheapWords im.nphase)).all (fun k => decide (k < im.nphase) || !cheapBit im k)) &&
    (List.range (numAt b (8 * cheapWords im.nphase) 8)).all (fun i =>
      let k := numAt b (8 * cheapWords im.nphase + 8 + 24 * i) 2
      decide (k < im.nphase) && !cheapBit im k) &&
    (im.sections.all (fun x => x.type != 0x0E) ||
      (List.range n).all (fun k => cheapBit im (im.nstart + k) ||
        (boundaries im).all (fun x => x.1.all (fun a => (k + 1 + x.2 * n - a % x.2) % Nat.gcd n x.2 != 0))))

/-- The batch tables and results lie in the job's hub allotment and apart from one another (R357). -/
def servingPlaced (im : Image) : Bool :=
  let b := sectionOf im 0x0E 255
  let hub := numAt (sectionOf im 0x0D 255) 0 2 * 0x80000
  let pre := ((List.range (nRun b)).map (fun j => runSlots b (numAt b (256 + 4 * j) 1))).foldl max 0
  let rows := (if im.role = 0 then 0 else decodeRows b) + (if im.role = 1 then 0 else pre)
  b.isEmpty ||
    (disjoint [(batchHofs b, 128 * rows), (resultHofs b, 8 * rows)] && decide (batchHofs b + 128 * rows ≤ hub) &&
      decide (resultHofs b + 8 * rows ≤ hub) && decide (1 ≤ numAt b 0 2) &&
      (List.range (nRun b)).all (fun j => decide (numAt b (256 + 4 * j) 1 < 8)))

/-- A SCHED entry names a slot before the verdict window, a bundle position that exists, and a use that Table 17-9 has. -/
def entryOk (n : Nat) (transit : Bool) (e : SlotEnt) : Bool :=
  decide (e.slot + 8 < n) && decide (e.bundle < 12) && decide (e.pos < bundleSize e.bundle) &&
    decide (e.use ≤ 4) && (!transit || e.use == 2)

/-- The Vexsum entries of a stack keep the rules of R405. -/
def vexOk (d : Bytes) (es : List Bytes) : Bool :=
  decide (es.length ≤ 1024) && disjoint (es.map (regionSpan d)) &&
    es.all (fun e =>
      let t := numAt e 8 4
      let td := tensorAt d t
      decide (t < nTensor d) && numAt e 0 8 % 64 == 0 && decide (1 ≤ numAt e 16 4) && decide (1 ≤ numAt e 24 4) &&
        decide (numAt e 24 4 ≤ 131072) && decide (numAt e 12 3 + numAt e 16 4 ≤ numAt td 8 4) &&
        decide (numAt e 20 4 + numAt e 24 4 ≤ numAt td 4 4 / 128))

/-- Remote windows name a space of the job. -/
def windowOk (nctx hub : Nat) (e : Bytes) : Bool :=
  let k := numAt e 0 1
  let c := numAt e 1 1
  let z := numAt e 8 8 + numAt e 16 8
  if k = 0 then c == 255
  else if k = 1 then decide (c < nctx) && decide (z ≤ 0xC00000)
  else if k = 2 then decide (z ≤ hub * 0x80000)
  else false

/-- The part-wide sections whose entries break a rule of their own chapter (the last check of Table 17-4). -/
def sectionRules (s : State) (p : Nat) (im : Image) : Option Finding :=
  let hub := numAt (sectionOf im 0x0D 255) 0 2
  let es := imageEnts im (sliceOf s p)
  let win := sectionOf im 0x10 255
  let cc := sectionOf im 0x11 255
  match firstFail es.length (fun i => match es[i]? with
    | some e => entryOk im.frameSlots false e && !(es.take i).any (sameSlot e)
    | none => true) with
  | some i => some (inSection 7 255 i)
  | none =>
    if !(imageRoutes im).all (fun r => decide (1 ≤ r.nhop) && decide (r.nhop ≤ 5)) then some (inSection 7 255 es.length)
    else if im.rank ≠ 0 ∧ (List.range (numAt (sectionOf im 8 255) 0 4)).any (fun i => numAt (sectionOf im 8 255) (18 + 16 * i) 4 != 0) then
      some (inSection 8 255 0)
    else if (List.range 12).any (fun n => !vexOk (decl s p) (vexEntries im n)) then some (inSection 0x0B 0 0)
    else if (regionList im).any (fun r => decide (3 < r.1) || (decide (im.nctx ≤ r.2.1) && r.2.1 != 255)) then
      some (inSection 0x0A 255 0)
    else if 64 < (sectionOf im 0x0C 255).length / 8 then some (inSection 0x0C 255 64)
    else if !servingPlaced im then some (inSection 0x0E 255 0)
    else if !cheapOk im then some (inSection 0x0F 255 0)
    else match firstFail (win.length / 24) (fun i => windowOk im.nctx hub (bytesAt win (24 * i) 24)) with
      | some i => some (inSection 0x10 255 i)
      | none => if !cc.isEmpty ∧ numAt cc 16 8 ≤ numAt cc 8 8 then some (inSection 0x11 255 0) else none

end Sys2Proof.Machine
end

