-- ==== Sys2Proof/Machine/Sets.lean ====
section
/-!
DEFINITION. The operand ranges of a frame command (R127, R162): for each operand what it is, the port classes that reach it,
and its spans of scratchpad. Validation at JOB_START, the contention bound of R166 and the abort of a command read them.
-/

namespace Sys2Proof.Machine

/-- A span of the quadrant's scratchpad or, with `hub`, of the job's hub allotment; `reps` accesses of each byte. -/
structure Span where
  hub : Bool
  off : Nat
  len : Nat
  reps : Nat
  deriving DecidableEq, Repr

/-- What an operand is: read; an output; an output that must be apart from every other range; an area that the command uses
and leaves undefined, apart from its outputs. -/
inductive Role where
  | input
  | output
  | apart
  | area
  deriving DecidableEq, Repr

/-- An operand: its role, the port classes that reach it as a mask (Tables 7-1, 7-2), and its spans. -/
structure Operand where
  role : Role
  need : Nat
  spans : List Span
  deriving DecidableEq, Repr

/-- A frame command without its place: class, opcode, flag bits 115:112, arguments. -/
structure PCmd where
  cls : Nat
  op : Nat
  fl : Nat
  a : BitVec 112
  deriving DecidableEq, Repr

/-- A 128-bit command: opcode in bits 127:120, class in bits 119:116 (R22). -/
def pcmd (w : Nat) : PCmd := ⟨bits w 116 4, bits w 120 8, bits w 112 4, BitVec.ofNat 112 w⟩

/-- An operand of one span in the quadrant. -/
def one (r : Role) (need off len : Nat) : Operand := ⟨r, need, [⟨false, off, len, 1⟩]⟩

/-- A span in the quadrant or the hub. -/
def spanIn (hub : Bool) (off len : Nat) : Span := ⟨hub, off, len, 1⟩

/-- Source segments of a BDU_LOAD (R109). -/
def loadSpans (a : BitVec 112) : List Span :=
  (((selDies a).map (fun d => ((selGroups a).map (fun j => (List.range (fld a 91 87)).map (fun v =>
    fld a 63 40 + 64 * (d * fld a 78 65 + j * fld a 25 12 + v * fld a 39 26)))).foldr (· ++ ·) [])).foldr (· ++ ·) []).eraseDups.map
      (fun o => ⟨false, o, fld a 86 79 * 128, 1⟩)

/-- Results of a BDU_GEMV and their bytes (R111). -/
def gemvOut (a : BitVec 112) : Nat :=
  let mode := fld a 92 91
  let per := if mode < 2 then (selDies a).length * (selGroups a).length else (selDies a).length
  fld a 86 82 * per * fld a 80 70 * (if mode % 2 = 0 then 8 else 4)

/-- Operands of a BDU command. -/
def bduOperands (op : Nat) (a : BitVec 112) : List Operand :=
  match op with
  | 1 => [⟨.input, 4, loadSpans a⟩]
  | 2 => one .output 4 (fld a 41 24 * 64) (gemvOut a) ::
      (if fld a 92 91 % 2 = 0 then [] else [one .input 4 (fld a 15 0 * 256) (4 * fld a 86 82)])
  | _ => []

/-- Operands of MXA_GEMM: every pass reads its tokens and rows again (R134–R136). -/
def mxaOperands (op : Nat) (a cfg : BitVec 112) : List Operand :=
  match op with
  | 2 =>
    let g := gemmOf a cfg
    [⟨.input, 1, [⟨false, g.aOfs, g.m * g.aRow, ceilDiv g.n (8 * g.gc)⟩]⟩,
     ⟨.input, 1, [⟨false, g.bOfs, g.n * g.bRow, ceilDiv g.m (8 * g.gr)⟩]⟩] ++
      (if g.mode ≠ 0 ∧ g.ty < 2 then [one .input 1 g.ascl (4 * g.m)] else []) ++
      (if g.mode ≠ 0 ∧ g.ty = 1 then [one .input 1 g.bscl (4 * g.n)] else []) ++
      (if g.mode = 4 then [one .input 1 g.oscl 4] else []) ++
      (if g.mode = 3 then [one .area 1 g.oscl (4 * g.m)] else []) ++
      [one .output 1 g.dOfs (if g.mode = 3 then 4 * g.m * g.n else g.m * g.n * g.outSize)]
  | _ => []

/-- Operands of a VEC command (Table 6-6, R141). -/
def vecOperands (op : Nat) (a : BitVec 112) : List Operand :=
  let v := vecOf a
  let n := v.n
  let src0 (z : Nat) := one .input 2 v.src0 (z * n)
  let src1 (l : Nat) := one .input 2 v.src1 l
  let aux := one .input 2 v.aux (4 * v.nvec)
  let dst (l : Nat) := one .output 2 v.dst l
  match op with
  | 0x02 => [src0 4, src1 (4 * n), dst (4 * n)]
  | 0x03 => [src0 4, src1 (4 * n), dst (4 * n)]
  | 0x04 => [src0 4, aux, dst (4 * n)]
  | 0x05 => [src0 4, dst (4 * n)]
  | 0x06 => [src0 4, src1 (4 * n), dst (4 * n)]
  | 0x07 => [src0 4, dst (4 * v.nvec)]
  | 0x08 => [src0 4, src1 (4 * v.nlen), aux, dst (4 * n)]
  | 0x09 => if v.sub = 0 then [src0 4, aux, dst n, one .apart 2 v.src1 (4 * v.nvec)] else [src0 4, one .input 2 v.aux 4, dst n]
  | 0x0A => [src0 8, aux, dst (4 * n)] ++ (if v.sub = 1 then [src1 (4 * v.nlen)] else [])
  | 0x0B => [src0 8, src1 (8 * n), dst (8 * n)]
  | 0x0C =>
    (match v.sub with
     | 0 => [src0 4, dst (2 * n)]
     | 1 => [src0 2, dst (4 * n)]
     | _ => [src0 1, aux, dst (4 * n)])
  | _ => []

/-- Elements per vector of a ROT command. -/
def rotLen (a : BitVec 112) : Nat := fld a 87 76 * 2 ^ fld a 111 108

/-- Operands of a ROT command (Table 4-3). -/
def rotOperands (op : Nat) (a : BitVec 112) : List Operand :=
  let n := fld a 99 88 * rotLen a
  [one .input 2 (fld a 63 40) (n * (if fld a 107 106 = 1 then 2 else 4)),
   one .apart 2 (fld a 39 16) (n * (if op = 2 then 1 else 4))] ++
    (if op = 2 then [one .apart 2 (fld a 15 0 * 256) (4 * fld a 99 88)] else [])

/-- Bytes of the states or final outputs of `nq` queries (R195). -/
def attOutLen (final : Bool) (nl nq : Nat) : Nat := if final then 512 * nl * nq else (64 + 512 * nl) * nq

/-- The outputs of ATT_RUN and ATT_MERGE. -/
def attOuts (final : Bool) (nl nq out aux : Nat) : List Operand :=
  one .output 2 out (attOutLen final nl nq) :: (if final then [one .output 2 aux (8 * nq)] else [])

/-- Operands of an ATT command. The BDU phases of ATT_RUN take queries and fresh rows, and the combiner writes scores. -/
def attOperands (op : Nat) (a cfg : BitVec 112) : List Operand :=
  let c := attCfgOf cfg
  let n := c.nl + c.np
  let row := latentRow c.nl c.np
  match op with
  | 2 => [one .input 2 (fld a 95 80 * 256) (512 * n * fld a 111 96), one .output 2 (fld a 79 64 * 256) (row * fld a 111 96)]
  | 3 =>
    let nq := fld a 110 99
    [one .input 4 (fld a 98 83 * 256) (128 * n * nq), one .input 2 (fld a 82 67 * 256) (4 * nq),
     one .input 2 (fld a 66 51 * 256) (2 * c.lbuf), one .input 4 c.fresh (c.fmax * row),
     one .area 6 c.sbuf (320 * c.span * nq + (c.tree + 1) * nq * (64 + 512 * c.nl))] ++
      attOuts (fld a 111 111 == 1) c.nl nq (fld a 50 35 * 256) (fld a 34 19 * 256)
  | 4 =>
    let nq := fld a 110 99
    one .input 2 (fld a 94 79 * 256) (2 ^ fld a 98 95 * nq * (64 + 512 * c.nl)) ::
      attOuts (fld a 111 111 == 1) c.nl nq (fld a 78 63 * 256) (fld a 62 47 * 256)
  | _ => []

/-- Destinations of a LOESS_STEP. -/
def stepSpans (t : Bytes) (j : Nat) : List Span :=
  (stepDescs t j).map (fun d => ⟨false, stepBuffer t j + 256 * bits (numAt d 12 4) 0 16, 256 * (numAt d 8 4 % 2 ^ 18), 1⟩)

/-- Operands of a MOV command or LOESS_STEP. -/
def movOperands (op : Nat) (a : BitVec 112) (t : Bytes) : List Operand :=
  match op with
  | 0x01 => [one .output 8 (fld a 47 24) (8 * fld a 23 0)]
  | 0x02 =>
    let rows (o st : Nat) : List Span := ((List.range (fld a 47 36)).map (fun r => (⟨false, o + 8 * r * st, 8 * fld a 63 48, 1⟩ : Span)))
    [⟨.input, 8, rows (fld a 111 88) (fld a 35 18)⟩, ⟨.output, 8, rows (fld a 87 64) (fld a 17 0)⟩]
  | 0x03 =>
    let q := spanIn false (fld a 103 80) (64 * fld a 53 36)
    let h := spanIn true (fld a 79 54) (64 * fld a 53 36)
    if fld a 111 111 = 0 then [⟨.input, 8, [q]⟩, ⟨.output, 2, [h]⟩] else [⟨.input, 2, [h]⟩, ⟨.output, 8, [q]⟩]
  | 0x10 => [⟨.output, 4, stepSpans t (fld a 111 96)⟩]
  | _ => []

/-- Operands of an SRT command (R215, R226). -/
def srtOperands (op : Nat) (a cfg : BitVec 112) : List Operand :=
  let c := srtCfgOf cfg
  let o1 := fld a 111 96 * 256
  let o2 := fld a 95 80 * 256
  let o3 := fld a 79 64 * 256
  let o4 := fld a 63 48 * 256
  let o5 := fld a 47 32 * 256
  let inp := one .input 2
  let out := one .output 2
  let rt := 3072 + 4 * c.maxtok * c.k
  let ret := 1024 + c.np * c.capR * c.seg * c.rb
  match op with
  | 2 => [inp o1 (4 * c.ne * c.maxtok), inp o3 c.maxtok, out o4 (8 * c.k * c.maxtok)] ++
      (if c.bias then [inp o2 (4 * c.ne)] else [])
  | 3 => [inp o1 (8 * c.k * c.maxtok), inp o2 (4 * c.ne), inp o3 (c.seg * c.maxtok), inp o4 (4 * c.maxtok),
      out o5 (c.maxtok * min c.k c.np * c.rs), out (fld a 31 16 * 256) rt]
  | 4 => [inp o1 (1024 + c.np * c.maxtok * c.rs), out o2 (c.nx * c.capX * c.seg), out o3 (4 * c.nx * c.capX),
      out o4 (8 * c.nx), out o5 (4 * c.nx * c.capX)]
  | 5 => [inp o1 (4 * c.seg * c.nx * c.capX), inp o2 (4 * c.nx * c.capX), inp o3 (8 * c.nx), out o4 ret]
  | 6 => [inp o1 (8 * c.k * c.maxtok), inp o2 rt, inp o3 ret, out o5 (4 * c.seg * c.maxtok)] ++
      (if c.shared then [inp o4 (4 * c.seg * c.maxtok)] else [])
  | _ => []

/-- A COL command of a member, for its fields. -/
def colOf (op rank : Nat) (a : BitVec 112) : ColOp := { ColOp.none with op := op, rank := rank, args := a }

/-- Operands of a COL command of rank `rank` in a group of `np` members (R319–R326), and of RMT_ATOMIC. -/
def colOperands (np rank op : Nat) (a : BitVec 112) : List Operand :=
  if op = 0x30 then [one .input 8 (fld a 95 72) (16 * fld a 71 56)]
  else if 1 ≤ op ∧ op ≤ 6 then
    let o := colOf op rank a
    let at' (r : Role) (hub : Bool) (off len : Nat) : Operand := ⟨r, if hub then 1 else 8, [spanIn hub off len]⟩
    let src := match op with
      | 2 => if fld a 29 29 = 1 then 1024 + np * o.cap * o.rs else np * o.cap * o.rs
      | 3 => o.blk
      | 4 => if o.root = rank then o.blk else 0
      | _ => np * o.blk
    [at' .input o.srcHub o.src src, at' .output o.dstHub o.dst (o.dstLen np)] ++
      (if op = 2 ∧ fld a 29 29 = 0 then [at' .input o.srcHub (fld a 28 11 * 256) 2048] else []) ++
      (if op = 5 ∨ op = 6 then [at' .area true (fld a 38 21 * 256) (if o.red = 1 then np * o.blk else o.blk)] else [])
  else []

/-- Operands of a TIER command or KV_PUT. -/
def tierOperands (op : Nat) (a : BitVec 112) : List Operand :=
  match op with
  | 0x01 => [one .output 8 (fld a 59 36) (256 * fld a 35 18)]
  | 0x02 => [one .input 8 (fld a 59 36) (256 * fld a 35 18)]
  | 0x40 => [one .input 8 (fld a 111 96 * 256) (2 * (fld a 79 64 * 256)),
      one .input 8 (fld a 95 80 * 256) (16 * fld a 44 37 * (64 * fld a 63 59))]
  | _ => []

/-- The operands of a command: `cfg` is the CFG of its class in force, `t` the context's stream table, `np` and `rank` the
size of its group and its rank there. -/
def operandsOf (t : Bytes) (np rank : Nat) (cfg : BitVec 112) (x : PCmd) : List Operand :=
  match x.cls with
  | 0 => if x.op = 4 then [one .input 2 (fld x.a 87 64) 4] else []
  | 1 => bduOperands x.op x.a
  | 2 => mxaOperands x.op x.a cfg
  | 3 => vecOperands x.op x.a
  | 4 => rotOperands x.op x.a
  | 5 => attOperands x.op x.a cfg
  | 6 => movOperands x.op x.a t
  | 7 => srtOperands x.op x.a cfg
  | 8 => colOperands np rank x.op x.a
  | 9 => tierOperands x.op x.a
  | _ => []

/-- The spans that a command writes. -/
def writeSpans (l : List Operand) : List Span := ((l.filter (·.role != .input)).map (·.spans)).foldr (· ++ ·) []

/-- The spans that a command reads. -/
def readSpans (l : List Operand) : List Span := ((l.filter (·.role == .input)).map (·.spans)).foldr (· ++ ·) []

end Sys2Proof.Machine
end

