-- ==== Sys2Proof/Machine/Check.lean ====
section
/-!
DEFINITION. Validation of the frame programs of an image part at JOB_START: reserved fields and legal values of every command
(R4, R49, R50, R88–R90, R107–R112, R131–R137, R140–R142, R169–R173, R196–R201, R214–R226, R249–R251, R308, R309, R319–R333),
loops and the commit command (R42, R50), advance tables (R222, R223), guards (R147), stream tables (R150–R152), bank maps
(R162), shares (R13), and the worst-case duration of every command (R126, R166).
-/

namespace Sys2Proof.Machine

/-! ### What a context's program is checked against -/

/-- The part being validated, a context of it, and its tables. -/
structure CheckEnv where
  s : State
  p : Nat
  im : Image
  cx : Nat
  G : Nat

/-- Section bytes of the context. -/
def CheckEnv.sec (v : CheckEnv) (ty : Nat) : Bytes := sectionOf v.im ty v.cx

/-- Hub banks, and a share of SHARES. -/
def CheckEnv.share (v : CheckEnv) (o : Nat) : Nat := numAt (sectionOf v.im 0x0D 255) o 2

/-- The bridge share of the context's stack, in GB/s. -/
def CheckEnv.bridge (v : CheckEnv) : Nat := v.share (16 + 2 * (v.G / 4))

/-- The class mask of a bank of the quadrant, or of the job's hub allotment (R162). -/
def CheckEnv.mask (v : CheckEnv) (hub : Bool) (b : Nat) : Nat :=
  if hub then numAt (sectionOf v.im 0x05 0) (16 + b) 1 else bits (numAt (v.sec 5) (b / 2) 1) (4 * (b % 2)) 4

/-- Declared regions of a KIND for this context. -/
def CheckEnv.regions (v : CheckEnv) (k : Nat) : List (Nat × Nat) :=
  ((regionList v.im).filter (fun r => r.1 == k && (r.2.1 == 255 || r.2.1 == v.cx))).map (fun r => r.2.2)

/-- Bits `hi : lo` are reserved. -/
def rz (a : BitVec 112) (hi lo : Nat) : Bool := fld a hi lo == 0

/-- A field lies in a range. -/
def inR (lo hi x : Nat) : Bool := decide (lo ≤ x) && decide (x ≤ hi)

/-! ### Fields of one issued command -/

/-- SYN (R49). -/
def synOk (v : CheckEnv) (op : Nat) (a : BitVec 112) : Bool :=
  match op with
  | 0 => a == 0
  | 1 => rz a 111 10
  | 2 => rz a 111 14 && rz a 7 4 && inR 1 48 (fld a 13 8)
  | 3 => rz a 111 12 && decide (fld a 11 0 + 9 ≤ v.im.frameSlots)
  | 4 => inR 1 65535 (fld a 111 96) && rz a 95 88 && fld a 87 64 % 4 == 0 && inR 1 4096 (fld a 63 48) && rz a 47 0
  | 5 => a == 0
  | _ => false

/-- The fields that both BDU commands share (R112). -/
def bduOk (a : BitVec 112) (nvec klen : Nat) (slot : Nat) : Bool :=
  fld a 111 100 != 0 && fld a 99 96 != 0 && inR 1 16 nvec && decide (slot + nvec ≤ 16) && inR 1 64 klen

/-- BDU_GEMV reads declared regions only (R121). -/
def gemvRegions (v : CheckEnv) (a : BitVec 112) : Bool :=
  let n := fld a 80 70 * rowLen (fld a 95 93) (fld a 69 62)
  decide (fld a 61 42 * 256 + n ≤ 2 ^ 28) &&
    (selDies a).all (fun d => (selGroups a).all (fun j => covered (v.regions 0) (bankGroupOff d j + fld a 61 42 * 256) n))

/-- BDU (R107, R108, R110, R112). -/
def bduCmdOk (v : CheckEnv) (op : Nat) (a : BitVec 112) : Bool :=
  match op with
  | 1 => bduOk a (fld a 91 87) (fld a 86 79) (fld a 95 92) && rz a 64 64 && fld a 63 40 % 64 == 0 && rz a 11 0
  | 2 => bduOk a (fld a 86 82) (fld a 69 62) (fld a 90 87) && decide (fld a 95 93 ≤ 4) && fld a 80 70 != 0 &&
      (fld a 92 91 % 2 == 1 || (rz a 23 16 && rz a 15 0)) && gemvRegions v a
  | _ => false

/-- The largest threshold of R135. -/
def acMax (g : Gemm) (cfg : BitVec 112) : Nat :=
  fld cfg 43 36 + fld cfg 35 28 * (if fld cfg 48 48 = 0 then ceilDiv g.n (8 * g.gc) else ceilDiv g.m (8 * g.gr))

/-- MXA (R131, R132, R136, R137). -/
def mxaCmdOk (op : Nat) (a cfg : BitVec 112) : Bool :=
  match op with
  | 1 => rz a 27 0 && decide (fld a 63 50 ≤ 8192)
  | 2 =>
    let g := gemmOf a cfg
    decide (g.ty ≤ 2) && (if g.ty = 0 then decide (g.fmt ≤ 4) else g.fmt == 0) && decide (g.mode ≤ 4) &&
      !(g.ty == 2 && g.mode == 0) && inR 1 4096 g.m && g.n != 0 && g.kg != 0 && fld a 99 94 % (g.gr * g.gc) == 0 &&
      ((g.ty == 0 && g.mode != 0) || rz a 7 0) && (fld cfg 49 49 == 0 || decide (acMax g cfg ≤ 65535))
  | _ => false

/-- The SUB values of a VEC opcode (Table 6-6). -/
def vecSubs (op : Nat) : Nat :=
  match op with
  | 0x05 => 9
  | 0x07 => 5
  | 0x09 => 2
  | 0x0A => 2
  | 0x0C => 3
  | _ => 1

/-- A VEC opcode uses SRC1, and uses AUX. -/
def vecUses (op sub : Nat) : Bool × Bool :=
  match op with
  | 0x02 => (true, false)
  | 0x03 => (true, false)
  | 0x04 => (false, true)
  | 0x06 => (true, false)
  | 0x08 => (true, true)
  | 0x09 => (sub == 0, true)
  | 0x0A => (sub == 1, true)
  | 0x0B => (true, false)
  | 0x0C => (false, sub == 2)
  | _ => (false, false)

/-- VEC (R140–R142). -/
def vecCmdOk (op : Nat) (a : BitVec 112) : Bool :=
  let eps : F32 := BitVec.ofNat 32 (fld a 63 32)
  if op = 1 then decide (fld a 111 98 ≤ 8192) && rz a 73 64 && rz a 31 0 && isFinite eps && (isZeroF eps || !f32Neg eps)
  else if 2 ≤ op ∧ op ≤ 0x0C then
    let v := vecOf a
    let u := vecUses op v.sub
    decide (v.sub < vecSubs op) && rz a 103 102 && rz a 1 0 && v.nvec != 0 && v.nlen != 0 && (u.1 || rz a 57 42) &&
      (u.2 || rz a 25 10) && ((op == 0x0A && v.sub == 0) || rz a 9 2)
  else false

/-- ROT (R88, R90). -/
def rotCmdOk (v : CheckEnv) (op : Nat) (a : BitVec 112) : Bool :=
  let k := fld a 111 108
  inR 1 3 op && decide (6 ≤ k) && decide (k ≤ 15) && decide (fld a 107 106 ≤ 1) && fld a 99 88 != 0 && fld a 87 76 != 0 &&
    decide ((fld a 75 64 + fld a 87 76) * 2 ^ k ≤ 2 ^ 24) &&
    decide (fld a 105 100 < (sectionOf v.im 0x0C 255).length / 8) && fld a 63 40 % 256 == 0 && fld a 39 16 % 256 == 0 &&
    (if op = 2 then decide (rotLen a ≤ 32768) else rz a 15 0)

/-- The parameters of ATT_CFG are in range (R197, R201). -/
def attCfgOk (a : BitVec 112) : Bool :=
  let c := attCfgOf a
  inR 1 8 c.nl && decide (c.np ≤ 2) && decide (c.layer < c.g) && decide (c.tree ≤ 18) && c.c0 % 2 ^ c.tree == 0 &&
    decide ((c.c0 + 2 ^ c.tree) * c.span ≤ 2 ^ 18) && c.lbuf != 0 && c.dmax != 0 && rz a 1 0

/-- ATT (R196–R201). -/
def attCmdOk (op : Nat) (a cfg : BitVec 112) : Bool :=
  let c := attCfgOf cfg
  match op with
  | 1 => attCfgOk a
  | 2 => fld a 111 96 != 0 && rz a 63 0 && decide (-126 ≤ c.e) && decide (c.e ≤ 100)
  | 3 => fld a 110 99 != 0 && rz a 18 0 && (if fld a 111 111 = 1 then c.c0 == 0 else rz a 34 19) &&
      decide (32 + 32 * c.dmax + 8 * c.fmax + 8 * fld a 110 99 ≤ c.lbuf)
  | 4 => fld a 110 99 != 0 && inR 1 12 (fld a 98 95) && rz a 46 0 && (fld a 111 111 == 1 || rz a 62 47)
  | _ => false

/-- MOV and LOESS_STEP (R151, R169–R173, R13). -/
def movCmdOk (v : CheckEnv) (op : Nat) (a : BitVec 112) : Bool :=
  match op with
  | 0x01 => fld a 47 24 % 8 == 0 && fld a 23 0 != 0
  | 0x02 => fld a 111 88 % 8 == 0 && fld a 87 64 % 8 == 0 && fld a 63 48 != 0 && fld a 47 36 != 0 &&
      (fld a 47 36 == 1 || decide (fld a 63 48 ≤ fld a 17 0))
  | 0x03 => rz a 110 104 && fld a 103 80 % 64 == 0 && fld a 79 54 % 64 == 0 && inR 1 196608 (fld a 53 36) && rz a 35 0 &&
      v.bridge != 0
  | 0x10 => rz a 95 0 && decide (fld a 111 96 < numAt (v.sec 4) 6 2)
  | _ => false

/-- SRT (R214, R215, R226). -/
def srtCmdOk (op : Nat) (a cfg : BitVec 112) : Bool :=
  let c := srtCfgOf (if op = 1 then a else cfg)
  match op with
  | 1 => decide (c.gate ≤ 2) && c.seg != 0 && c.maxtok != 0 && inR 1 16 c.tripv && rz a 47 32 && goodScale c.rscale
  | 2 => rz a 47 0 && (c.bias || rz a 95 80)
  | 3 => rz a 15 0
  | 4 => rz a 31 0
  | 5 => rz a 47 0
  | 6 => rz a 31 0 && (c.shared || rz a 63 48)
  | _ => false

/-- The group of a COL command, listed by the image (R318). -/
def listedGroup (im : Image) (g : Nat) : Bool :=
  let b := sectionOf im 0x09 255
  (List.range (b.length / 16)).any (fun i => numAt b (16 * i) 1 == g)

/-- Members of a group, and the context's rank in it where it is a member. -/
def CheckEnv.rankOf (v : CheckEnv) (g : Nat) : Option Nat := findIdx? (· == (pkgId v.s, v.G)) (groupMembers (groupEnt v.s g))

/-- COL and RMT_ATOMIC fields (R308, R309, R318–R320, R333, R13). -/
def colCmdOk (v : CheckEnv) (op fl : Nat) (a : BitVec 112) : Bool :=
  if op = 0x30 then
    inR 0x10 0x17 (fld a 111 104) && rz a 102 96 && fld a 95 72 % 16 == 0 && inR 1 4096 (fld a 71 56) && rz a 55 0 && v.bridge != 0
  else if 1 ≤ op ∧ op ≤ 6 then
    let o := colOf op 0 a
    let np := groupNp (groupEnt v.s o.gid)
    listedGroup v.im o.gid && (v.rankOf o.gid).isSome && !bit fl 2 && decide (fld a 60 57 ≤ 12) &&
      !(fld a 65 65 == 1 && (op == 2 || o.dstHub)) && v.share 2 != 0 && ((o.srcHub && o.dstHub) || v.bridge != 0) &&
      (if op = 2 then o.cap != 0 && inR 1 1024 (fld a 40 30) && rz a 10 0 && (fld a 29 29 == 0 || rz a 28 11)
       else inR 1 49152 (fld a 56 41)) &&
      (match op with
       | 1 => rz a 40 0
       | 3 => rz a 32 0 && (decide (o.root < np) || o.root == 255)
       | 4 => rz a 32 0 && decide (o.root < np) && o.root != 255
       | 5 => rz a 20 0
       | 6 => rz a 20 0
       | _ => true)
  else false

/-- TIER and KV_PUT (R203, R249, R251, R13). -/
def tierCmdOk (v : CheckEnv) (op : Nat) (a : BitVec 112) : Bool :=
  let lim := rangePages v.s v.p
  v.share 12 != 0 &&
    (match op with
     | 0x03 => inR 1 4095 (fld a 80 69) && inR 1 2 (fld a 68 67) && rz a 66 0 && decide (fld a 111 81 + fld a 80 69 ≤ lim)
     | 0x40 =>
       fld a 63 59 % 2 == 1 && inR 3 21 (fld a 63 59) && decide (fld a 58 56 ≤ fld a 55 53) && fld a 52 45 != 0 &&
         fld a 79 64 != 0 && rz a 36 0 && v.bridge != 0
     | _ =>
       inR 1 2 op && fld a 111 60 % 256 == 0 && fld a 59 36 % 256 == 0 && inR 1 49152 (fld a 35 18) && rz a 17 0 &&
         decide (fld a 111 60 + 256 * fld a 35 18 ≤ lim * pageBytes) && v.share 6 != 0 && v.bridge != 0)

/-- The fields of an issued command are legal; flag bit 115 is reserved (R222). -/
def fieldsOk (v : CheckEnv) (cfg : BitVec 112) (x : PCmd) : Bool :=
  !bit x.fl 3 &&
    (match x.cls with
     | 0 => synOk v x.op x.a
     | 1 => bduCmdOk v x.op x.a
     | 2 => mxaCmdOk x.op x.a cfg
     | 3 => vecCmdOk x.op x.a
     | 4 => rotCmdOk v x.op x.a
     | 5 => attCmdOk x.op x.a cfg
     | 6 => movCmdOk v x.op x.a
     | 7 => srtCmdOk x.op x.a cfg
     | 8 => colCmdOk v x.op x.fl x.a
     | 9 => tierCmdOk v x.op x.a
     | _ => false)

/-! ### Ranges and bank maps (R9, R162, and the range rules of each class) -/

/-- The operands of an issued command of the context. -/
def CheckEnv.operands (v : CheckEnv) (cfg : BitVec 112) (x : PCmd) : List Operand :=
  let g := fld x.a 111 104
  operandsOf (v.sec 4) (groupNp (groupEnt v.s g)) ((v.rankOf g).getD 0) cfg x

/-- Two spans meet. -/
def spansMeet (a b : Span) : Bool := a.hub == b.hub && a.len != 0 && b.len != 0 && overlaps a.off a.len b.off b.len

/-- Two operands share a byte. -/
def operandsMeet (a b : Operand) : Bool := a.spans.any (fun x => b.spans.any (spansMeet x))

/-- Two operands of one command must be apart. -/
def mustBeApart : Role → Role → Bool
  | .input, .output => true
  | .output, .input => true
  | .input, .input => false
  | .output, .output => false
  | .area, .output => true
  | .output, .area => true
  | .area, .input => false
  | .input, .area => false
  | .area, .area => false
  | .apart, _ => true
  | _, .apart => true

/-- No pair of a list breaks a relation. -/
def pairsOk {α : Type} (f : α → α → Bool) : List α → Bool
  | [] => true
  | x :: l => l.all (f x) && pairsOk f l

/-- A span lies inside its space. -/
def spanFits (v : CheckEnv) (r : Span) : Bool := decide (r.off + r.len ≤ if r.hub then v.share 0 * 0x80000 else 0xC00000)

/-- The ranges of a command lie in the quadrant and the hub allotment, apart where the class asks it. -/
def rangesOk (v : CheckEnv) (ops : List Operand) : Bool :=
  ops.all (fun o => o.spans.all (spanFits v)) && pairsOk (fun a b => !mustBeApart a.role b.role || !operandsMeet a b) ops

/-- The banks of a span. -/
def spanBanks (r : Span) : List Nat :=
  if r.len = 0 then [] else (List.range ((r.off + r.len - 1) / 0x80000 - r.off / 0x80000 + 1)).map (r.off / 0x80000 + ·)

/-- Every bank that an operand touches admits its port classes. -/
def banksOk (v : CheckEnv) (ops : List Operand) : Bool :=
  ops.all (fun o => o.spans.all (fun r => (spanBanks r).all (fun b => (v.mask r.hub b &&& o.need) == o.need)))

/-! ### Worst-case durations (R92, R114, R115, R139, R144, R174, R204, R206, R227, R252, R310, R332) -/

/-- Picoseconds of `n` bytes at `b` GB/s. -/
def psOf (n b : Nat) : Nat := if b = 0 then 0 else ceilDiv (1000 * n) b

/-- Vectors that a BDU multiplies at once (Table 5-3). -/
def bduV (fmt : Nat) : Nat := if fmt = 0 then 4 else if fmt < 3 then 8 else 16

/-- T_w of a BDU command without contention, in ns. -/
def bduCost (op : Nat) (a : BitVec 112) : Nat :=
  let nd := (selDies a).length
  let nbg := (selGroups a).length
  if op = 1 then
    24 + ceilDiv ((if fld a 78 65 = 0 then 1 else nd) * (if fld a 25 12 = 0 then 1 else nbg) * fld a 91 87 * fld a 86 79 * 128) 256
  else
    let fmt := fld a 95 93
    let w := fld a 80 70 * (rowLen fmt (fld a 69 62) / 64) * ceilDiv (fld a 86 82) (bduV fmt)
    let t := 40 + max w (ceilDiv (nbg * fld a 80 70 * fld a 86 82) 4) + (if fld a 92 91 % 2 = 0 then 24 else 32)
    let t' := t + ceilDiv w 16
    t' + 160 * (t' / 3040 + 1)

/-- Cycles of an MXA_GEMM. -/
def mxaCost (a cfg : BitVec 112) : Nat :=
  let g := gemmOf a cfg
  40 + passCount g * max ((if g.ty = 2 then 64 else 16) * g.kg) (g.gr * g.gc / 2) +
    (match g.mode with
     | 0 => 16
     | 3 => 48 + ceilDiv (5 * g.m * g.n) 1024
     | _ => 24)

/-- c and TAIL of a VEC opcode (Table 6-9). -/
def vecFactors (op sub : Nat) : Nat × Nat :=
  match op with
  | 0x05 => if sub = 8 then (7, 0) else if sub = 6 ∨ sub = 7 then (6, 0) else if sub = 2 ∨ sub = 3 then (4, 0) else (3, 0)
  | 0x06 => (7, 0)
  | 0x07 => (1, 16)
  | 0x08 => (2, 0)
  | 0x09 => (2, 24)
  | 0x0A => (2, 0)
  | 0x0B => (2, 0)
  | _ => (1, 0)

/-- Cycles of a ROT command. -/
def rotCost (op : Nat) (a : BitVec 112) : Nat :=
  let p := if fld a 111 108 ≤ 8 then 1 else 2
  2 + fld a 99 88 * (if op = 2 then p + 1 else p) * ceilDiv (rotLen a) 256 + 14 * p + (if op = 2 then 24 else 0)

/-- Cycles of ATT_KVQ and ATT_MERGE. -/
def attCost (op : Nat) (a cfg : BitVec 112) : Nat :=
  let c := attCfgOf cfg
  if op = 2 then 12 + 6 * ceilDiv (fld a 111 96 * 128 * (c.nl + c.np)) 2048
  else
    let m := 4 * ceilDiv (fld a 110 99 * 128 * c.nl) 2048
    12 + (2 ^ fld a 98 95 - 1) * m + (if fld a 111 111 = 1 then 12 + m + 24 else 0)

/-- Cycles of an SRT command (Table 9-6). -/
def srtCost (op : Nat) (cfg : BitVec 112) : Nat :=
  let c := srtCfgOf cfg
  let k := min c.k c.nx
  match op with
  | 2 => 40 + c.maxtok * (8 * ceilDiv c.ne 2048 + 4 * c.k + 24)
  | 3 => 40 + 2 * c.np + c.maxtok * (2 * c.k + 8) + ceilDiv (c.maxtok * min c.k c.np * c.rs) 1024
  | 4 => 40 + 2 * c.np + 4 * c.np * c.maxtok + ceilDiv ((c.np * c.maxtok * k + c.nx * (c.tripv - 1)) * c.seg) 1024
  | 5 => 40 + 2 * c.np + ceilDiv (c.np * c.maxtok * k * c.seg * c.rb) 512
  | _ => 40 + 2 * c.np + c.maxtok * ceilDiv c.seg 2048 * (2 * (c.k + bnat c.shared) + 8)

/-- Bytes of a step from the quadrant's own tier 1, and from elsewhere (R153). -/
def stepBytes (v : CheckEnv) (j : Nat) : Nat × Nat :=
  (stepDescs (v.sec 4) j).foldl (fun x d =>
    let n := numAt d 8 4 % 2 ^ 18
    let own := ((List.range n).filter (fun i =>
      match unitPhys v.s v.p (numAt d 0 8 % 2 ^ 52 + 256 * i) with | some c => ownTier1 v.G c | none => false)).length
    (x.1 + 256 * own, x.2 + 256 * (n - own))) (0, 0)

/-- Picoseconds of a MOV command or LOESS_STEP. -/
def movCost (v : CheckEnv) (op : Nat) (a : BitVec 112) : Nat :=
  match op with
  | 0x01 => 625 * (12 + ceilDiv (8 * fld a 23 0) 512)
  | 0x02 => 625 * (16 + fld a 47 36 * (ceilDiv (8 * fld a 63 48) 512 + 1))
  | 0x03 => 400000 + (if v.bridge < 820 then psOf (64 * fld a 53 36) v.bridge else ceilDiv (64 * fld a 53 36 * 10000) 8192)
  | _ =>
    let b := stepBytes v (fld a 111 96)
    let rate := if v.share 6 = 0 then v.bridge else min v.bridge (v.share 6)
    400000 + ceilDiv (b.1 * 10000) 4096 + (if rate < 410 then psOf b.2 rate else ceilDiv (b.2 * 10000) 4096)

/-- Insert into an ascending list. -/
def insertNat (x : Nat) : List Nat → List Nat
  | [] => [x]
  | y :: r => if x ≤ y then x :: y :: r else y :: insertNat x r

/-- Arrival slots of a receive stream: of each of its transfers, ascending (R269, R271). -/
def arrivals (v : CheckEnv) (stream : Nat) : List Nat :=
  (((imageEnts v.im (sliceOf v.s v.p)).filter (fun e => e.ingress && e.use == 1 && e.stream == stream)).map (·.slot + 3)).foldr insertNat []

/-- Departure slots of a send stream in a phase, ascending (R328). -/
def departures (v : CheckEnv) (ph stream : Nat) : List Nat :=
  (((imageRoutes v.im).filter (fun r => r.stream == stream && (r.phase == ph || r.phase == 65535))).map (·.slot)).foldr insertNat []

/-- The plan entries of a phase of the context. -/
def CheckEnv.plan (v : CheckEnv) (ph : Nat) : List PlanEnt := planTable v.im v.cx ph

/-- The plan entry of a command. -/
def CheckEnv.planAt (v : CheckEnv) (ph pc : Nat) : PlanEnt := ((v.plan ph).find? (·.pc == pc)).getD ⟨pc, 0, []⟩

/-- Bytes that a member exchanges within its package (R330). -/
def localBytes (v : CheckEnv) (o : ColOp) : Nat :=
  let ms := groupMembers (groupEnt v.s o.gid)
  let one := if o.op = 2 then o.cap * o.rs else o.blk
  ((List.range ms.length).filter (fun r => (ms.getD r (255, 0)).1 == pkgId v.s && colPair o o.rank r)).length * one

/-- Picoseconds of a COL command from the tick: START_SLOT and T_w (R332). -/
def colCost (v : CheckEnv) (ph pc op : Nat) (a : BitVec 112) : Nat :=
  if op = 0x30 then 625 * (40 + 2 * fld a 71 56)
  else
    let o := colOf op ((v.rankOf (fld a 111 104)).getD 0) a
    let e := v.planAt ph pc
    let last := ((e.streams.filter (·.recv)).map (fun t => (arrivals v t.stream).getLastD 0)).foldl max e.start
    let n := localBytes v o
    100000 * last + 300000 + (if op = 5 ∨ op = 6 then 9000 * groupNp (groupEnt v.s o.gid) else 0) +
      (if n = 0 then 0 else 400000 + psOf n v.bridge)

/-- Picoseconds of a TIER command or KV_PUT. -/
def tierCost (v : CheckEnv) (op : Nat) (a : BitVec 112) : Nat :=
  match op with
  | 0x03 => 0
  | 0x40 => 400000 + 16 * fld a 44 37 * (psOf (64 * fld a 63 59) v.bridge + 8000)
  | _ => 600000 + psOf (256 * fld a 35 18) (min v.bridge (v.share 6))

/-- A command whose T_w validation evaluates: all but those that complete at issue, and ATT_RUN (R126). -/
def budgeted (x : PCmd) : Bool :=
  match x.cls with
  | 0 => false
  | 5 => x.op == 2 || x.op == 4
  | 9 => x.op != 3
  | _ => x.op != 1 || x.cls == 1 || x.cls == 4 || x.cls == 6 || x.cls == 8

/-- The contention-free end of a command in picoseconds, from the tick. -/
def costPs (v : CheckEnv) (ph pc : Nat) (cfg : BitVec 112) (x : PCmd) : Nat :=
  match x.cls with
  | 1 => 1000 * bduCost x.op x.a
  | 2 => 625 * mxaCost x.a cfg
  | 3 =>
    let f := vecFactors x.op (fld x.a 111 104)
    625 * (12 + ceilDiv (vecOf x.a).n 2048 * f.1 + f.2)
  | 4 => 625 * rotCost x.op x.a
  | 5 => 625 * attCost x.op x.a cfg
  | 6 => movCost v x.op x.a
  | 7 => 625 * srtCost x.op cfg
  | 8 => colCost v ph pc x.op x.a
  | _ => tierCost v x.op x.a

/-! ### Contention (R166) -/

/-- A command of a phase with its program index and its operands. -/
structure Placed where
  pc : Nat
  cmd : PCmd
  ops : List Operand
  deriving DecidableEq, Repr

/-- The engine that runs a command, and whether it runs its commands one at a time (R91, R113, R125, R128, R151, R204, R252). -/
def engineOf (x : PCmd) : Nat × Bool :=
  match x.cls with
  | 0 => (3, true)
  | 1 => (1, false)
  | 2 => (2, false)
  | 4 => (4, true)
  | 6 => if x.op = 0x10 then (7, true) else (6, true)
  | 8 => if x.op = 0x30 then (10, true) else (8, false)
  | 9 => if x.op = 0x40 then (11, true) else (9, true)
  | _ => (3, true)

/-- Two commands of one engine never run at the same time. -/
def serialPair (x y : PCmd) : Bool :=
  let e := engineOf x
  let meetBits (m n : Nat) : Bool := (m &&& n) != 0
  let arrays (z : PCmd) : Nat × Nat := (fld z.a 99 94, 2 ^ (fld z.a 103 102 + fld z.a 101 100))
  if (x.cls = 5 ∧ x.op = 3 ∧ y.cls = 1) ∨ (y.cls = 5 ∧ y.op = 3 ∧ x.cls = 1) then true
  else if e.1 ≠ (engineOf y).1 then false
  else if e.2 then true
  else if e.1 = 1 then
    x.op == 2 && y.op == 2 && meetBits (fld x.a 111 100) (fld y.a 111 100) && meetBits (fld x.a 99 96) (fld y.a 99 96)
  else if e.1 = 2 then overlaps (arrays x).1 (arrays x).2 (arrays y).1 (arrays y).2
  else false

/-- A span widened to 256-byte boundaries (R127). -/
def widen (r : Span) : Span :=
  { r with off := r.off / 256 * 256, len := if r.len = 0 then 0 else ceilDiv (r.off + r.len) 256 * 256 - r.off / 256 * 256 }

/-- The scoreboard orders two commands (R127). -/
def hazard (x y : Placed) : Bool :=
  let hit (a b : List Span) : Bool := a.any (fun r => !r.hub && b.any (fun q => !q.hub && spansMeet (widen r) (widen q)))
  hit (writeSpans x.ops) (writeSpans y.ops) || hit (writeSpans x.ops) (readSpans y.ops) || hit (readSpans x.ops) (writeSpans y.ops)

/-- A SYN WAIT for the class of the earlier command stands between two commands. -/
def waitBetween (l : List Placed) (x y : Placed) : Bool :=
  let e := if x.pc < y.pc then x else y
  l.any (fun w => w.cmd.cls == 0 && w.cmd.op == 1 && decide (min x.pc y.pc < w.pc) && decide (w.pc < max x.pc y.pc) &&
    bit (fld w.cmd.a 9 0) e.cmd.cls)

/-- Two commands of a program can run at the same time. -/
def mayOverlap (l : List Placed) (x y : Placed) : Bool :=
  x.pc != y.pc && !serialPair x.cmd y.cmd && !hazard x y && !waitBetween l x y

/-- The operands of a list that touch a bank. -/
def inBank (ops : List Operand) (hub : Bool) (b : Nat) : List Operand :=
  ops.filter (fun o => o.spans.any (fun r => r.hub == hub && (spanBanks r).contains b))

/-- Streams of other commands in a bank, of a port class that `need` names: one command at a time of a serial engine, every
command of the others. -/
def ownStreams (l : List Placed) (x : Placed) (need : Nat) (hub : Bool) (b : Nat) : Nat :=
  let cnt (y : Placed) : Nat := ((inBank y.ops hub b).filter (fun o => (o.need &&& need) != 0)).length
  let ys := l.filter (mayOverlap l x)
  ((List.range 12).map (fun e =>
    let zs := (ys.filter (fun y => (engineOf y.cmd).1 == e)).map cnt
    if (ys.find? (fun y => (engineOf y.cmd).1 == e)).elim true (fun y => (engineOf y.cmd).2) then zs.foldl max 0 else zs.sum)).sum

/-- Agents outside the program that reach a bank beside the move engine's class: control cores and remote windows. -/
def outsideStreams (v : CheckEnv) (hub : Bool) (b : Nat) : Nat :=
  let win := sectionOf v.im 0x10 255
  bnat (!(sectionOf v.im 0x11 255).isEmpty) +
    bnat ((List.range (win.length / 24)).any (fun i =>
      let k := numAt win (24 * i) 1
      (if hub then k == 2 else k == 1 && numAt win (24 * i + 1) 1 == v.cx) &&
        overlaps (numAt win (24 * i + 8) 8) (numAt win (24 * i + 16) 8) (b * 0x80000) 0x80000))

/-- Set bits of a class mask. -/
def popcount4 (n : Nat) : Nat := (bitsSet 4 n).length

/-- Port cycles of an operand in a bank: the rows that its spans touch there, and one more for each word written in part. -/
def bankBeats (o : Operand) (hub : Bool) (b : Nat) : Nat :=
  (o.spans.map (fun r =>
    let lo := max r.off (b * 0x80000)
    let hi := min (r.off + r.len) ((b + 1) * 0x80000)
    if r.hub = hub ∧ lo < hi then r.reps * beats lo (hi - lo) (o.role != .input) else 0)).sum

/-- D of a command in picoseconds. Base-die banks run at 1.6 GHz, hub banks at 1.8 GHz. -/
def delayPs (v : CheckEnv) (l : List Placed) (x : Placed) : Nat :=
  let banks := ((x.ops.map (fun o => (o.spans.map (fun r => (spanBanks r).map (fun b => (r.hub, b)))).foldr (· ++ ·) [])).foldr
    (· ++ ·) []).eraseDups
  let cyc (k : Bool × Nat) : Nat :=
    let own := inBank x.ops k.1 k.2
    let need := own.foldl (fun m o => m ||| o.need) 0
    let u := popcount4 (v.mask k.1 k.2) - popcount4 (v.mask k.1 k.2 &&& need) + (own.length - 1) +
      ownStreams l x need k.1 k.2 + (if !k.1 && bit need 3 then outsideStreams v k.1 k.2 else 0)
    8 * u * ceilDiv ((own.map (fun o => bankBeats o k.1 k.2)).sum) 8
  625 * ((banks.filter (fun k => !k.1)).map cyc).sum + ceilDiv (5000 * ((banks.filter (·.1)).map cyc).sum) 9

/-- A command ends before the commit deadline of the image's frame length (R126). -/
def endsInTime (v : CheckEnv) (l : List Placed) (ph : Nat) (cfg : BitVec 112) (x : Placed) : Bool :=
  !budgeted x.cmd || decide (costPs v ph x.pc cfg x.cmd + delayPs v l x ≤ 100000 * (v.im.frameSlots - 8))

/-! ### Loops and advance tables (R50, R222, R223) -/

/-- A loop: the LOOP command's index, the index of its LOOP_END, and its MAX_TRIPS. -/
structure LoopSpan where
  start : Nat
  stop : Nat
  trips : Nat
  deriving DecidableEq, Repr

/-- The loops of a program by their LOOP commands. -/
def loopsOf (cs : List PCmd) : List LoopSpan :=
  ((cs.zip (List.range cs.length)).filter (fun c => c.1.cls == 0 && c.1.op == 4)).map
    (fun c => ⟨c.2, c.2 + fld c.1.a 63 48, fld c.1.a 111 96⟩)

/-- The loops around a command, innermost first. -/
def around (ls : List LoopSpan) (pc : Nat) : List LoopSpan :=
  (ls.filter (fun l => decide (l.start < pc) && decide (pc ≤ l.stop))).reverse

/-- The first command at which loops do not close as R50 has it. -/
def loopFault (cs : List PCmd) : Option Nat :=
  let ls := loopsOf cs
  let isEnd (i : Nat) : Bool := match cs[i]? with | some c => c.cls == 0 && c.op == 5 | none => false
  let bad (l : LoopSpan) : Bool :=
    !isEnd l.stop || decide (4 < (around ls l.start).length + 1) ||
      (around ls l.start).any (fun o => decide (o.stop ≤ l.stop))
  match ls.find? bad with
  | some l => some l.start
  | none => (List.range cs.length).find? (fun i => isEnd i && !ls.any (·.stop == i))

/-- An advance entry (Table 9-5). -/
structure AdvEnt where
  stride : Int
  width : Nat
  lsb : Nat
  level : Nat
  pc : Nat
  deriving DecidableEq, Repr

/-- Read an entry. -/
def advEnt (b : Bytes) : AdvEnt :=
  let w := numAt b 0 8
  ⟨signed 32 (bits w 32 32), bits w 23 5 + 1, bits w 16 7, bits w 14 2, bits w 0 14⟩

/-- One field of a command advanced; none where it leaves its width. -/
def advance (a : BitVec 112) (e : AdvEnt) (i : Nat) : Option (BitVec 112) :=
  let n : Int := (bits a.toNat e.lsb e.width : Nat) + e.stride * (i : Int)
  if e.lsb + e.width ≤ 112 ∧ 0 ≤ n ∧ n < (2 ^ e.width : Nat) then
    some (BitVec.ofNat 112 (setBits a.toNat e.lsb e.width n.toNat))
  else none

/-- The combinations of iteration indices of the loops that `levels` names. -/
def iterations (trips : List Nat) : List Nat → List (List (Nat × Nat))
  | [] => [[]]
  | lv :: r => ((iterations trips r).map (fun x => (List.range (trips.getD lv 0)).map (fun i => (lv, i) :: x))).foldr (· ++ ·) []

/-- The issued instances of a command; none where a field leaves its width. -/
def instancesOf (trips : List Nat) (es : List AdvEnt) (a : BitVec 112) : Option (List (BitVec 112)) :=
  allOf ((iterations trips (es.map (·.level)).eraseDups).map (fun it =>
    es.foldl (fun o e => o.bind (fun a => advance a e (((it.find? (·.1 == e.level)).map (·.2)).getD 0))) (some a)))

/-- A phase of a context as validation reads it. -/
structure PhaseView where
  cmds : List PCmd
  loops : List LoopSpan
  adv : List AdvEnt
  deriving DecidableEq, Repr

/-- Read a phase. -/
def phaseView (v : CheckEnv) (ph : Nat) : PhaseView :=
  let cs := (programOf v.im v.cx ph).map pcmd
  ⟨cs, loopsOf cs, (phaseEntries v.im 0x03 v.cx ph 8).map advEnt⟩

/-- The advance entries of a command. -/
def PhaseView.entries (w : PhaseView) (pc : Nat) : List AdvEnt := w.adv.filter (·.pc == pc)

/-- MAX_TRIPS of the loops around a command, innermost first. -/
def PhaseView.trips (w : PhaseView) (pc : Nat) : List Nat := (around w.loops pc).map (·.trips)

/-- The instances of the command at `pc`. -/
def PhaseView.instances (w : PhaseView) (pc : Nat) (c : PCmd) : Option (List PCmd) :=
  (instancesOf (w.trips pc) (if bit c.fl 2 then w.entries pc else []) c.a).map (fun l => l.map (fun a => { c with a := a }))

/-- The first advance entry that breaks R222 or R223: sorted by PC, at most 4 per command, for commands with flag bit 114, and
no level beyond the nesting of the command. -/
def advFault (w : PhaseView) : Option Nat :=
  (List.range w.adv.length).find? (fun i =>
    match w.adv[i]? with
    | some e =>
      decide (w.cmds.length ≤ e.pc) || (w.adv.take i).any (fun x => decide (e.pc < x.pc)) ||
        decide (4 < (w.entries e.pc).length) || (match w.cmds[e.pc]? with | some c => !bit c.fl 2 | none => true) ||
        decide ((w.trips e.pc).length ≤ e.level)
    | none => false)

/-! ### CFG commands in force (R132, R197, R214) -/

/-- A CFG command of a class. -/
def isCfg (cls : Nat) (c : PCmd) : Bool := c.cls == cls && c.op == 1

/-- The program indices of the CFG commands that may be in force at `pc`: the last one before it, and, for a loop that has none
between its start and `pc`, the last one of its body. -/
def cfgsAt (w : PhaseView) (cls pc : Nat) : List Nat :=
  let is := (List.range w.cmds.length).filter (fun i => match w.cmds[i]? with | some c => isCfg cls c | none => false)
  let before := is.filter (· < pc)
  before.getLast?.toList ++
    ((around w.loops pc).filterMap (fun l =>
      if before.any (fun i => decide (l.start < i)) then none
      else (is.filter (fun i => decide (pc < i) && decide (i ≤ l.stop))).getLast?))

/-- A class whose commands need a CFG of the frame before them. -/
def needsCfg (c : PCmd) : Bool := (c.cls == 2 || c.cls == 5 || c.cls == 7) && c.op != 1

/-- The parameters that may be in force for the command at `pc`; one empty word where its class has none. -/
def PhaseView.cfgs (w : PhaseView) (pc : Nat) (c : PCmd) : List (BitVec 112) :=
  if needsCfg c then
    ((cfgsAt w c.cls pc).map (fun i =>
      match w.cmds[i]? with
      | some x => ((w.instances i x).getD []).map (·.a)
      | none => [])).foldr (· ++ ·) []
  else [0]

/-- A CFG stands before the command. -/
def cfgBefore (w : PhaseView) (pc : Nat) (c : PCmd) : Bool := !needsCfg c || (w.cmds.take pc).any (isCfg c.cls)

/-! ### Stream tables (R150–R152) -/

/-- The first step of a stream table that breaks R150, or 0 for its header. -/
def streamFault (v : CheckEnv) : Option Nat :=
  let t := v.sec 4
  let ns := numAt t 6 2
  let nd := numAt t 8 4
  let buf := numAt t 2 2
  if t.isEmpty then none
  else if !inR 1 8 (numAt t 4 1) || ns == 0 || !inR 1 1048576 nd || decide (0xC00000 < 256 * (numAt t 0 2 + numAt t 4 1 * buf)) then
    some 0
  else
    firstFail ns (fun j =>
      let ds := stepDescs t j
      let dst (d : Bytes) : Nat × Nat := (bits (numAt d 12 4) 0 16, numAt d 8 4 % 2 ^ 18)
      decide (numAt t (32 + 4 * j) 4 < nd) && (ds.getLast?.elim false (fun d => bit (numAt d 12 4) 26)) &&
        disjoint (ds.map dst) &&
        ds.all (fun d =>
          let n := numAt d 8 4 % 2 ^ 18
          numAt d 0 8 % 256 == 0 && inR 1 49152 n && decide (bits (numAt d 12 4) 20 4 ≤ 12) &&
            decide ((dst d).1 + n ≤ buf) && covered (v.regions 1) (numAt d 0 8) (256 * n)) &&
        ((stepBytes v j).2 == 0 || v.bridge != 0))

/-- The quadrant ranges that a phase's command reads, over its instances. -/
def readsOf (v : CheckEnv) (w : PhaseView) (pc : Nat) (c : PCmd) : List Span :=
  (((w.instances pc c).getD []).map (fun x => ((w.cfgs pc c).map (fun g => readSpans (v.operands g x))).foldr (· ++ ·) [])).foldr
    (· ++ ·) []

/-- The buffers of the Loess window that a span meets. -/
def windowHit (t : Bytes) (r : Span) : List Nat :=
  let z := 256 * numAt t 2 2
  (List.range (numAt t 4 1)).filter (fun b => !r.hub && r.len != 0 && overlaps r.off r.len (256 * numAt t 0 2 + b * z) z)

/-- The steps that LOESS_STEP instances of a command issue. -/
def stepsIssued (w : PhaseView) (pc : Nat) (c : PCmd) : List Nat :=
  if c.cls = 6 ∧ c.op = 0x10 then ((w.instances pc c).getD []).map (fun x => fld x.a 111 96) else []

/-- R152 over a phase in text order: `held` gives the step that each buffer holds. Answers the command that reads a step
outside the reach of one that the frame streams. -/
def windowFault (v : CheckEnv) (w : PhaseView) : Option Nat :=
  let t := v.sec 4
  let nb := numAt t 4 1
  let cs := w.cmds.zip (List.range w.cmds.length)
  let js : List Nat := (cs.map (fun c => stepsIssued w c.2 c.1)).foldr (· ++ ·) []
  match js with
  | [] => none
  | j0 :: _ =>
    let start (b : Nat) : Int := (j0 : Int) - 1 - (((j0 + 8 * nb - 1 - b) % nb : Nat) : Int)
    let fits (k : Int) : Bool := js.all (fun (j : Nat) => decide ((j : Int) - (nb : Int) + 1 ≤ k) && decide (k ≤ (j : Int)))
    let run := cs.foldl (fun (x : Option Nat × List (Nat × Nat)) c =>
      let step (b : Nat) : Int := match x.2.find? (·.1 == b) with | some e => (e.2 : Int) | none => start b
      let bad := ((readsOf v w c.2 c.1).map (windowHit t)).any (fun bs => bs.any (fun b => !fits (step b)))
      (if x.1.isNone && bad then some c.2 else x.1, (stepsIssued w c.2 c.1).foldl (fun h j => (j % nb, j) :: h) x.2)) (none, [])
    run.1

/-! ### Guards (R147) -/

/-- A guard entry is legal. -/
def guardOk (b : Bytes) : Bool :=
  let kind := numAt b 2 1
  let ty := numAt b 3 1
  let nv := numAt b 6 2
  let nl := numAt b 8 3
  let lo : F32 := BitVec.ofNat 32 (numAt b 12 4)
  let hi : F32 := BitVec.ofNat 32 (numAt b 16 4)
  let tile := numAt b 20 3
  decide (kind ≤ 3) && decide (ty ≤ 3) && (kind == 0 || decide (ty ≤ 1)) && nv != 0 && nl != 0 &&
    decide (256 * numAt b 4 2 + nv * nl * guardSize ty ≤ 0xC00000) && isFinite lo && isFinite hi &&
    decide (fkey lo ≤ fkey hi) && (if kind < 2 then tile == 0 else tile % 8 == 0 && decide (tile ≤ 65536))

/-! ### Plans of COL commands (R327, R333) -/

/-- A COL command with a plan. -/
def isCol (c : PCmd) : Bool := c.cls == 8 && inR 1 6 c.op

/-- Pieces that a stream of a command carries at capacity (R328). -/
def piecesNeeded (o : ColOp) : Nat := if o.op = 2 then ceilDiv (64 + o.cap * o.rs) 4096 else ceilDiv o.blk 4096

/-- The stream numbers and capacities of a plan entry suffice (0x0260 otherwise). -/
def planFits (v : CheckEnv) (ph : Nat) (o : ColOp) (e : PlanEnt) : Bool :=
  e.streams.all (fun t =>
    decide (t.npiece ≤ (if t.recv then arrivals v t.stream else departures v ph t.stream).length) &&
      decide (piecesNeeded o ≤ t.npiece))

/-- The streams of a direction and phase whose peer is `m`. -/
def streamsTo (e : PlanEnt) (recv : Bool) (phase m : Nat) : Nat :=
  (e.streams.filter (fun t => t.recv == recv && t.phase == phase && t.peer == m)).length

/-- A plan entry of a command serves what R333 asks. -/
def planOk (v : CheckEnv) (ph : Nat) (o : ColOp) (e : PlanEnt) : Bool :=
  let ms := groupMembers (groupEnt v.s o.gid)
  let np := ms.length
  let far (m : Nat) : Bool := (ms.getD m (255, 0)).1 != pkgId v.s
  let others := (List.range np).filter (fun m => m != o.rank && far m)
  let pairs (phase : Nat) (f : Nat → Nat → Bool) : Bool :=
    others.all (fun m => (!f o.rank m || streamsTo e false phase m == 1) && (!f m o.rank || streamsTo e true phase m == 1))
  let recv0 := e.streams.filter (fun t => t.recv && t.phase == 0)
  let due (j : Nat) : Nat := (recv0.map (fun t => (arrivals v t.stream).getD j e.start)).foldl max e.start
  e.streams.all (fun t => decide (t.peer < np) && far t.peer && (t.phase == 0 || o.op == 6)) &&
    pairs 0 (colPair o) && (o.op != 6 || pairs 1 (fun _ _ => true)) &&
    e.streams.all (fun t =>
      if t.recv then (arrivals v t.stream).all (fun x => decide (e.start ≤ x))
      else (departures v ph t.stream).all (fun x => decide (e.start + 2 ≤ x))) &&
    (e.streams.filter (fun t => !t.recv && t.phase == 1)).all (fun t =>
      let ds := departures v ph t.stream
      (List.range (min ds.length t.npiece)).all (fun j => decide (due j + 5 + ceilDiv (9 * np) 100 ≤ ds.getD j 0)))

/-- Plan entries of a phase and its COL commands belong together: exactly one entry each. -/
def planFault (v : CheckEnv) (ph : Nat) (w : PhaseView) : Option Nat :=
  (List.range w.cmds.length).find? (fun pc =>
    match w.cmds[pc]? with
    | some c =>
      isCol c &&
        !(((v.plan ph).filter (·.pc == pc)).length == 1 &&
          planOk v ph (colOf c.op ((v.rankOf (fld c.a 111 104)).getD 0) c.a) (v.planAt ph pc))
    | none => false)

/-! ### The checks of a phase -/

/-- The commands of a phase with the operands of their first instances. -/
def placed (v : CheckEnv) (w : PhaseView) : List Placed :=
  (w.cmds.zip (List.range w.cmds.length)).map (fun c => ⟨c.2, c.1, v.operands ((w.cfgs c.2 c.1).headD 0) c.1⟩)

/-- The first fault of a command: (section, entry). -/
def commandFault (v : CheckEnv) (ph : Nat) (w : PhaseView) (l : List Placed) (pc : Nat) (c : PCmd) : Option (Nat × Nat) :=
  if bit c.fl 2 && (w.entries pc).isEmpty then some (3, 0)
  else if !cfgBefore w pc c then some (1, pc)
  else if isCol c && !(around w.loops pc).isEmpty then some (1, pc)
  else match w.instances pc c with
    | none => some (3, 0)
    | some xs =>
      let pairs := (xs.map (fun x => (w.cfgs pc c).map (fun g => (x, g)))).foldr (· ++ ·) []
      if pairs.any (fun y => !fieldsOk v y.2 y.1) then some (1, pc)
      else if xs.any (fun x => x.cls == 0 && x.op == 4 && (fld x.a 63 48 != fld c.a 63 48 || fld x.a 111 96 != fld c.a 111 96)) then
        some (3, 0)
      else if pairs.any (fun y => !rangesOk v (v.operands y.2 y.1)) then some (1, pc)
      else if pairs.any (fun y => !banksOk v (v.operands y.2 y.1)) then some (5, 0)
      else if pairs.any (fun y => !endsInTime v l ph y.2 ⟨pc, y.1, v.operands y.2 y.1⟩) then some (1, pc)
      else none

/-- The first finding of a phase. -/
def phaseFinding (v : CheckEnv) (ph : Nat) : Option Finding :=
  let w := phaseView v ph
  let n := w.cmds.length
  let at' (pc ty i : Nat) : Finding := ⟨v.cx, ph, pc, ty, i⟩
  let commits := (List.range n).filter (fun i => match w.cmds[i]? with | some c => bit c.fl 0 | none => false)
  if n = 0 ∨ commits ≠ [n - 1] then some (at' ((commits.headD (n - 1))) 1 0)
  else match loopFault w.cmds with
    | some i => some (at' i 1 0)
    | none => match advFault w with
      | some i => some (at' 0 3 i)
      | none =>
        let l := placed v w
        match (w.cmds.zip (List.range n)).findSome? (fun c => (commandFault v ph w l c.2 c.1).map (fun x => at' c.2 x.1 x.2)) with
        | some f => some f
        | none => match firstFail (phaseEntries v.im 0x02 v.cx ph 32).length
            (fun i => guardOk ((phaseEntries v.im 0x02 v.cx ph 32).getD i [])) with
          | some i => some (at' 0 2 i)
          | none => match windowFault v w with
            | some pc => some (at' pc 4 0)
            | none => (planFault v ph w).map (fun pc => at' pc 6 0)

/-- The sizes of a context's tables (R147, R222), and its stream table. -/
def contextFinding (v : CheckEnv) : Option Finding :=
  if 4096 < phaseTotal (v.sec 2) v.im.nphase then some (inSection 2 v.cx 4096)
  else if 1024 < phaseTotal (v.sec 3) v.im.nphase then some (inSection 3 v.cx 1024)
  else if (v.sec 5).isEmpty then some (inSection 5 v.cx 0)
  else match streamFault v with
    | some j => some (inSection 4 v.cx j)
    | none => (List.range v.im.nphase).findSome? (phaseFinding v)

/-- The contexts of a part. -/
def checkEnvs (s : State) (p : Nat) (im : Image) : List CheckEnv :=
  let qs := (part s p).quads
  (qs.zip (List.range qs.length)).map (fun q => ⟨s, p, im, q.2, q.1⟩)

/-- The STREAM numbers of the receive streams of a context's plan section. -/
def recvStreams (im : Image) (cx : Nat) : List Nat :=
  let sec := sectionOf im 0x06 cx
  let n := phaseTotal sec im.nphase
  let base := 8 * im.nphase + 16 * n
  ((List.range ((sec.length - base) / 8)).map (fun i => bytesAt sec (base + 8 * i) 8)).filterMap
    (fun t => if bit (numAt t 3 1) 0 then some (numAt t 0 2) else none)

/-- Records that the RMT_ATOMIC commands of a part may place: NREC times the MAX_TRIPS of every loop around them (R309). -/
def atomicDemand (v : CheckEnv) : Nat :=
  ((List.range v.im.nphase).map (fun ph =>
    let w := phaseView v ph
    ((w.cmds.zip (List.range w.cmds.length)).map (fun c =>
      if c.1.cls = 8 ∧ c.1.op = 0x30 then
        (((w.instances c.2 c.1).getD []).map (fun x => fld x.a 71 56)).foldl max 0 * (w.trips c.2).foldl (· * ·) 1
      else 0)).sum)).sum

/-- The first finding of the frame programs of a part. -/
def programFinding (s : State) (p : Nat) (im : Image) : Option Finding :=
  let vs := checkEnvs s p im
  match vs.findSome? contextFinding with
  | some f => some f
  | none =>
    let rs := (vs.map (fun v => recvStreams im v.cx)).foldr (· ++ ·) []
    if rs.eraseDups.length ≠ rs.length then some (inSection 6 255 0)
    else if numAt (sectionOf im 0x0D 255) 4 2 < (vs.map atomicDemand).sum then some (inSection 0x0D 255 0)
    else none

/-- Every stream of the plans has the transfers and pieces it needs (R219, R333). -/
def plansFit (s : State) (p : Nat) (im : Image) : Bool :=
  (checkEnvs s p im).all (fun v => (List.range im.nphase).all (fun ph =>
    let w := phaseView v ph
    (w.cmds.zip (List.range w.cmds.length)).all (fun c =>
      !isCol c.1 || planFits v ph (colOf c.1.op 0 c.1.a) (v.planAt ph c.2))))

end Sys2Proof.Machine
end

