-- ==== Sys2Proof/Machine/Jobs.lean ====
section
/-!
DEFINITION. Jobs (chapter 17): JOB_START and the slice start (R429–R431), stops, pauses and resumption (R434–R437), and the
CTL messages READY, TRANSIT_INSTALL, TRANSIT_REPLY, GO, ABANDON and TRANSIT_RELEASE.
-/

namespace Sys2Proof.Machine

/-! ### Reservations (R417, R429) -/

/-- The lowest free hub banks go to the job, zeroed (R167, R168), with the masks of its bank map (R162). -/
def allotHub (p n : Nat) (map : Bytes) (s : State) : State :=
  let bs := (freeHubBanks s).take n
  (bs.zip (List.range n)).foldl (fun s x =>
    let s := zeroHubBank x.1 (setHubByte x.1 (128 + p) s)
    let f := Reg.SPM_HUB_MAP (x.1 / 8)
    wr s f (setBits (rd s f) (4 * (x.1 % 8)) 4 (numAt map (16 + x.2) 1))) s

/-- The hub banks of a job are zeroed and free again; a fenced one stays fenced. -/
def freeHub (p : Nat) (s : State) : State :=
  (hubBanks s p).foldl (fun s h =>
    let f := Reg.SPM_HUB_MAP (h / 8)
    setHubByte h (hubByte s h &&& 0x40) (wr (zeroHubBank h s) f (setBits (rd s f) (4 * (h % 8)) 4 0))) s

/-- Write the seed registers of a rotation unit (R86). -/
def loadSeeds (G : Nat) (seeds : Bytes) (s : State) : State :=
  let n := min 64 (seeds.length / 8)
  let s := wr s (Reg.ROT_SEED_VALID G) (2 ^ n - 1)
  (List.range 64).foldl (fun s j =>
    wr (wr s (Reg.ROT_SEED_LO G j) (numAt seeds (8 * j) 4)) (Reg.ROT_SEED_HI G j) (numAt seeds (8 * j + 4) 4)) s

/-- Load the class masks of a quadrant's banks (R162). -/
def loadBankMap (G : Nat) (map : Bytes) (s : State) : State :=
  (List.range 3).foldl (fun s m => wr s (Reg.SPM_BANK_MAP G m) (numAt map (4 * m) 4)) s

/-- Reserve what a validated part needs: hub banks, bank maps, seeds, and pins. Its shares and slot-map entries count from
now on. -/
def reserve (p : Nat) (im : Image) (s : State) : State :=
  let qs := (part s p).quads
  let s := allotHub p (numAt (sectionOf im 0x0D 255) 0 2) (sectionOf im 0x05 0) s
  let s := (qs.zip (List.range qs.length)).foldl (fun s x =>
    loadSeeds x.1 (sectionOf im 0x0C 255) (loadBankMap x.1 (sectionOf im 0x05 x.2) s)) s
  (jobPages s p im).foldl (fun s n => pinPage p n s) s

/-- Release the reservations of a job (R435). -/
def unreserve (p : Nat) (s : State) : State :=
  match (part s p).image with
  | some im =>
    let s := (jobPages s p im).foldl (fun s n => unpinPage p n s) s
    freeHub p ((part s p).quads.foldl (fun s G => loadSeeds G [] s) s)
  | none => s

/-- Event JOB_STATE (Table 18-19). -/
def jobEvent (p st : Nat) (s : State) : State :=
  raise 0x8008 p (leBytes 1 (part s p).job.code ++ [0, 0, 0] ++ leBytes 2 st ++ [0, 0] ++ leBytes 8 (imageIdOf (part s p))) s

/-! ### The slice start (R430, R431) -/

/-- To the partition of a member of the slice, nothing but the slice expected there. -/
def sliceTo (s : State) (p q : Nat) : CtlTo := ⟨p, q, sliceOf s p, 255, 0⟩

/-- The other members of a slice. -/
def others (s : State) (p : Nat) : List (Nat × Nat) := (membersOf s p).filter (· != (pkgId s, p))

/-- The transit packages of an image, each with its SCHED entries (TRANSIT section). -/
def transitList (im : Image) : List (Nat × Bytes) :=
  let b := sectionOf im 0x08 255
  let np := numAt b 0 4
  (List.range np).map (fun i =>
    let e := bytesAt b (16 + 16 * i) 16
    (numAt e 0 1, bytesAt b (16 + 16 * np + 8 * numAt e 6 4) (8 * numAt e 2 4)))

/-- Entries of one TRANSIT_INSTALL: a body holds at most 506. -/
def chunkEnts : Nat → Bytes → List Bytes
  | 0, _ => []
  | n + 1, b => if b.length ≤ 4048 then [b] else b.take 4048 :: chunkEnts n (b.drop 4048)

/-- The TRANSIT_INSTALL bodies for a transit package. -/
def installBodies (im : Image) (slice : Nat) (ents : Bytes) : List Bytes :=
  (chunkEnts (ents.length / 4048 + 1) ents).map (fun c =>
    leBytes 8 im.imageId ++ leBytes 1 slice ++ [0, 0, 0] ++ leBytes 4 (c.length / 8) ++ c)

/-- The lead sends the TRANSIT section to the packages it names. -/
def sendInstalls (p : Nat) (im : Image) (s : State) : State :=
  (transitList im).foldl (fun s t =>
    (installBodies im (sliceOf s p) t.2).foldl (fun s b => sendCtl t.1 0x21 ⟨p, 255, 255, 255, 0⟩ 0xFFFFFFFF b true s) s) s

/-- Every transit package has accepted every TRANSIT_INSTALL. -/
def allAccepted (s : State) (p : Nat) (im : Image) : Bool :=
  (transitList im).all (fun t =>
    decide ((installBodies im (sliceOf s p) t.2).length ≤ ((part s p).accepts.filter (· == t.1)).length))

/-- Send a message to the other members and, with `transit`, to the transit packages. -/
def toSlice (p mtype : Nat) (body : Bytes) (transit : Bool) (s : State) : State :=
  let s' := (others s p).foldl (fun s m => sendCtl m.1 mtype (sliceTo s p m.2) 0xFFFFFFFF body true s) s
  match (part s p).image with
  | some im =>
    if transit then (transitList im).foldl (fun s t => sendCtl t.1 mtype ⟨p, 255, 255, 255, 0⟩ 0xFFFFFFFF body true s) s' else s'
  | none => s'

/-- A start that has failed ends here: reservations go, and the previous job state returns. A resumption that failed leaves
the job paused. -/
def endStart (p : Nat) (s : State) : State :=
  let q := part s p
  if q.job = .starting then
    let s := modPart (unreserve p s) p (fun q => { q with
      job := q.prevJob, readies := [], accepts := [], goAcks := [], goFrame := none, resume := false })
    modPart (jobEvent p 0x03C2 s) p (fun q => { q with image := none })
  else if q.job = .paused ∧ q.goFrame.isSome then
    jobEvent p 0x03C2 (modPart s p (fun q => { q with goFrame := none, resume := false, goAcks := [] }))
  else s

/-- The lead abandons a start (R430). -/
def abandonStart (p : Nat) (s : State) : State :=
  endStart p (toSlice p 0x24 (leBytes 8 (imageIdOf (part s p)) ++ leBytes 2 0x03C2 ++ leBytes 6 0) true s)

/-- The lead sends GO naming the frame 64 ahead. -/
def sendGo (p : Nat) (resume : Bool) (s : State) : State :=
  let f := frameNo s + 64
  let s := toSlice p 0x23 (leBytes 8 (imageIdOf (part s p)) ++ leBytes 6 f ++ leBytes 1 (bnat resume) ++ [0]) false s
  modPart s p (fun q => { q with goFrame := some f, resume := resume, goAcks := [0] })

/-- The lead sends GO when every rank is ready and every transit package has accepted; it abandons the start on a
mismatch. -/
def advanceStart (p : Nat) (s : State) : State :=
  let q := part s p
  match q.image with
  | some im =>
    if q.job ≠ .starting ∨ !isLead s p ∨ q.goFrame.isSome then s
    else
      let d := match q.slice with | some b => b.digest | none => 0
      if q.readies.any (fun r => r.2 != (im.imageId, d, slotCount s p)) then abandonStart p s
      else if (List.range (membersOf s p).length).all (fun k => q.readies.any (·.1 == k)) ∧ allAccepted s p im then sendGo p false s
      else s
  | none => s

/-- A member becomes ready: READY goes to the lead, and the lead's own counts at once. -/
def sendReady (p : Nat) (im : Image) (s : State) : State :=
  match (part s p).slice with
  | some b =>
    if b.rank = 0 then
      let s := modPart s p (fun q => { q with readies := q.readies ++ [(0, im.imageId, b.digest, slotCount s p)] })
      advanceStart p (sendInstalls p im s)
    else
      let l := leadOf s p
      sendCtl l.1 0x20 (sliceTo s p l.2) 0xFFFFFFFF
        (leBytes 8 im.imageId ++ leBytes 8 b.digest ++ leBytes 2 b.rank ++ leBytes 4 (slotCount s p) ++ leBytes 2 0) true s
  | none => s

/-- A message of the lead of partition `p`'s slice. -/
def fromLead (s : State) (h : CtlHdr) : Bool := leadOf s h.dstPart == (h.srcPkg, h.srcPart)

/-- READY. A message that names another rank than its sender's counts as a mismatch. -/
def applyReady (h : CtlHdr) (imageId digest rank slots : Nat) (s : State) : CtlAnswer × State :=
  let p := h.dstPart
  match rankOf s p h.srcPkg h.srcPart with
  | some r =>
    let d := if r = rank then digest else digest + 2 ^ 64
    (ackWith 0, advanceStart p (modPart s p (fun q =>
      { q with readies := q.readies.filter (·.1 != r) ++ [(r, imageId, d, slots)] })))
  | none => (ackWith 0x0300, s)

/-- READY. -/
def execCtlReady (h : CtlHdr) (imageId digest rank slotCount : Nat) (s : State) : Host.Outcome State Fault Refusal :=
  .next (applyCtl h (applyReady h imageId digest rank slotCount) s)

/-- TRANSIT_INSTALL: the entries are held where the slot map has them OPEN. -/
def applyInstall (imageId slice : Nat) (entries : Bytes) (s : State) : CtlAnswer × State :=
  let es := slotEnts slice entries 0 (entries.length / 8)
  let n := rd s Reg.TICK_BASE
  let ok := es.all (entryOk n true) && entriesFit s n es
  let answer (r : Nat) : CtlAnswer := some (0x22, leBytes 8 imageId ++ leBytes 1 r ++ leBytes 7 0)
  if ok then
    let ts := s.fab.transit
    let ts := if ts.any (fun t => t.imageId == imageId && t.slice == slice && !t.released) then
        ts.map (fun t => if t.imageId = imageId ∧ t.slice = slice ∧ !t.released then { t with ents := t.ents ++ es } else t)
      else ts ++ [⟨imageId, slice, es, false⟩]
    (answer 0, { s with fab := { s.fab with transit := ts } })
  else (answer 1, s)

/-- TRANSIT_INSTALL. -/
def execTransitInstall (h : CtlHdr) (imageId slice : Nat) (entries : Bytes) (s : State) : Host.Outcome State Fault Refusal :=
  .next (applyCtl h (applyInstall imageId slice entries) s)

/-- TRANSIT_REPLY: the lead counts an ACCEPT; a REFUSE abandons the start. -/
def applyTransitReply (h : CtlHdr) (imageId result : Nat) (s : State) : CtlAnswer × State :=
  let p := h.dstPart
  if (part s p).job = .starting ∧ isLead s p ∧ imageIdOf (part s p) = imageId then
    (none, if result = 0 then advanceStart p (modPart s p (fun q => { q with accepts := q.accepts ++ [h.srcPkg] })) else abandonStart p s)
  else (none, s)

/-- TRANSIT_REPLY. -/
def execTransitReply (h : CtlHdr) (imageId result : Nat) (s : State) : Host.Outcome State Fault Refusal :=
  .next (applyCtl h (applyTransitReply h imageId result) s)

/-- GO: a member that is STARTING, or PAUSED for a resumption, begins at the tick of F. -/
def applyGo (h : CtlHdr) (imageId f : Nat) (resume : Bool) (s : State) : CtlAnswer × State :=
  let p := h.dstPart
  let q := part s p
  if fromLead s h ∧ imageIdOf q = imageId ∧ q.job = (if resume then .paused else .starting) then
    (ackWith 0, modPart s p (fun q => { q with goFrame := some f, resume := resume }))
  else (ackWith 0x0300, s)

/-- GO. -/
def execCtlGo (h : CtlHdr) (imageId frame : Nat) (resume : Bool) (s : State) : Host.Outcome State Fault Refusal :=
  .next (applyCtl h (applyGo h imageId frame resume) s)

/-- Transit entries of an image revert to OPEN at the next tick (R431). -/
def releaseTransit (f : TransitJob → Bool) (s : State) : State :=
  { s with fab := { s.fab with transit := s.fab.transit.map (fun t => if f t then { t with released := true } else t) } }

/-- ABANDON, to a member or, with no partition, to a transit package. -/
def applyAbandon (h : CtlHdr) (imageId : Nat) (s : State) : CtlAnswer × State :=
  let p := h.dstPart
  if p = 255 then (ackWith 0, releaseTransit (fun t => t.imageId == imageId) s)
  else if fromLead s h ∧ imageIdOf (part s p) = imageId then (ackWith 0, endStart p s)
  else (ackWith 0, s)

/-- ABANDON. -/
def execCtlAbandon (h : CtlHdr) (imageId _status : Nat) (s : State) : Host.Outcome State Fault Refusal :=
  .next (applyCtl h (applyAbandon h imageId) s)

/-- TRANSIT_RELEASE. -/
def applyTransitRelease (imageId slice : Nat) (s : State) : CtlAnswer × State :=
  (ackWith 0, releaseTransit (fun t => t.imageId == imageId && t.slice == slice) s)

/-- TRANSIT_RELEASE. -/
def execTransitRelease (h : CtlHdr) (imageId slice : Nat) (s : State) : Host.Outcome State Fault Refusal :=
  .next (applyCtl h (applyTransitRelease imageId slice) s)

/-- An acknowledgement of GO. -/
def goAcked (p : Nat) (h : CtlHdr) (s : State) : State :=
  match rankOf s p h.srcPkg h.srcPart with
  | some r => modPart s p (fun q => { q with goAcks := q.goAcks ++ [r] })
  | none => s

/-- SLICE_START_TIMEOUT (R430): the lead's READY set is incomplete 65,536 frames after its JOB_START, or a member holds
STARTING for 131,072 frames without GO or ABANDON. -/
def execSliceStartTimeout (p : Nat) (s : State) : Host.Outcome State Fault Refusal :=
  let q := part s p
  let age := frameNo s - q.startedAt
  if q.job ≠ .starting ∨ q.goFrame.isSome then .next s
  else if isLead s p ∧ 65536 ≤ age then .next (abandonStart p s)
  else if 131072 ≤ age then .next (endStart p s)
  else .next s

/-- At a tick: the lead abandons a start whose GO was not acknowledged by every rank at frame F − 16. -/
def checkGoAcks (p : Nat) (s : State) : State :=
  let q := part s p
  match q.goFrame with
  | some f =>
    if isLead s p ∧ frameNo s + 16 = f ∧ (List.range (membersOf s p).length).any (fun k => !q.goAcks.contains k) then abandonStart p s
    else s
  | none => s

/-! ### JOB_START (R429, Table 17-4) -/

/-- The part that the command names: inline data or host memory for SRC 0, storage for SRC 1 and 2. -/
def partInput (e : Entry) (io : HostIo) : Option Bytes :=
  if arg e 8 1 = 0 then inputOf e io (arg e 24 8) else io.rd.map (·.take (arg e 24 8))

/-- The package may start a job: in SERVICE, or in READY under a bring-up map (R535). -/
def mayStart (s : State) : Bool := pstate s == 7 || (pstate s == 6 && rd s Reg.RTR_MAP_KIND == 2)

/-- A page that the job will pin is being moved (R238). -/
def movesPending (s : State) (p : Nat) (im : Image) : Bool := (jobPages s p im).any (fun n => (pageOf s p n).mig)

/-- The checks of Table 17-4 from FRAME_LENGTH_MISMATCH to ROT_SELFTEST_FAIL. -/
def startRefusal (s : State) (p : Nat) (im : Image) (kat : List Nat) : Option Nat :=
  let q := part s p
  if im.frameSlots ≠ rd s Reg.TICK_BASE then some 0x0321
  else if im.modelId ≠ q.modelId ∨ im.modelEpoch ≠ q.modelEpoch ∨ q.modelEpoch = 0 then some 0x0381
  else if im.numerics ≠ 1 then some 0x0385
  else if sha256 (sectionOf im 0x0C 255) ≠ sha256 (seedBytes (decl s p)) then some 0x04A0
  else if !groupsMatch s p im then some 0x0361
  else if !weightsVerified s p im then some 0x04A3
  else if !regionsMapped s p im then some 0x0241
  else if !(sharesFit s im && programsFit im && unitsFit s p im && threadsFit s p im) then some 0x0200
  else if !(slotsFit s p im && plansFit s p im) then some 0x0260
  else if q.quads.any kat.contains then some 0x0523
  else none

/-- The rotation units whose self-test has run (R94): those that fail set KAT_FAIL and report an error. -/
def katResults (p : Nat) (kat : List Nat) (s : State) : State :=
  (part s p).quads.foldl (fun s G =>
    if kat.contains G then
      unitError (Reg.ROT_ERR_KAT_FAIL G) (0x0100 + G / 4) 0x0802 4 G 1 4 p 0 0 [] true
        (wr (wr s (Reg.ROT_KAT_FAIL G) 1) (Reg.ROT_KAT_PASS G) 0)
    else wr (wr s (Reg.ROT_KAT_FAIL G) 0) (Reg.ROT_KAT_PASS G) 1) s

/-- The part is valid and everything it needs is reserved: STARTING (R430). -/
def startJob (p : Nat) (im : Image) (s : State) : State :=
  let s := reserve p im (fixedFrequency s)
  let s := modPart s p (fun q => { q with
    prevJob := q.job, job := .starting, image := some im, startedAt := frameNo s, accepts := [], goAcks := [],
    goFrame := none, resume := false, phase := 0, conds := [], floorFail := false, failures := 0, allowance := 2,
    lockPhase := none, stopDue := none, pauseDue := false, stopReq := none, fills := [] })
  sendReady p im s

/-- JOB_START of a new job. -/
def cmdStartNew (kat : List Nat) (e : Entry) (io : HostIo) (s : State) : CmdOut :=
  let p := e.part
  let q := part s p
  let bad (f : Finding) : CmdOut := ⟨0x01C0, f.bytes, [], s, none⟩
  if arg e 24 8 < 256 ∨ (isMgmt e ∧ arg e 8 1 = 0 ∧ 8192 < arg e 24 8) then refuseCmd 0x0104 s
  else if 2 < arg e 8 1 ∨ (isMgmt e ∧ arg e 8 1 = 0 ∧ arg e 16 8 ≠ 0) then refuseCmd 0x0102 s
  else if (q.job ≠ .idle ∧ q.job ≠ .stopped) ∨ !mayStart s then refuseCmd 0x0300 s
  else if s.pwr.tripped then refuseCmd 0x05C2 s
  else if s.cal.lasting then refuseCmd 0x05E3 s
  else if q.slice.isNone then refuseCmd 0x03C1 s
  else match partInput e io with
    | none => refuseCmd 0x05C0 s
    | some b =>
      if b.length ≠ arg e 24 8 then refuseCmd 0x05C0 s
      else match partFinding s p b with
        | some f => bad f
        | none =>
          let im := imageOfPart b
          match startRefusal s p im kat with
          | some st =>
            if st = 0x0523 then { refuseCmd st s with st := katResults p kat s }
            else refuseCmd st s
          | none => match (sectionRules s p im <|> programFinding s p im) with
            | some f => bad f
            | none =>
              if movesPending s p im then waitCmd (.jobStart p kat) s
              else doneCmd (leBytes 8 im.imageId) (startJob p im (katResults p kat s))

/-- A unit of the job has been fenced. -/
def jobFenced (s : State) (p : Nat) : Bool :=
  (part s p).quads.any (quadFenced s) || (part s p).threads.any (threadFenced s) || (hubBanks s p).any (fun h => bit (hubByte s h) 6)

/-- JOB_START with RESUME (R437): GO goes out, with no image and no new checks. -/
def cmdResume (e : Entry) (s : State) : CmdOut :=
  let p := e.part
  if !isLead s p then refuseCmd 0x0383 s
  else if (part s p).job ≠ .paused ∨ !mayStart s then refuseCmd 0x0300 s
  else if s.pwr.tripped then refuseCmd 0x05C2 s
  else if s.cal.lasting then refuseCmd 0x05E3 s
  else if jobFenced s p then refuseCmd 0x05E0 s
  else doneCmd (leBytes 8 (imageIdOf (part s p))) (sendGo p true s)

/-- JOB_START: F8 selects a resumption. `kat` names the rotation units that fail their self-test. -/
def cmdJobStart (kat : List Nat) (e : Entry) (io : HostIo) (s : State) : CmdOut :=
  if flag e 0 then cmdResume e s else cmdStartNew kat e io s

/-- JOB_START. -/
def execJobStart (e : Entry) (io : HostIo) (kat : List Nat) (s : State) : Host.Outcome State Fault Refusal :=
  runRow Row.jobStart (cmdJobStart kat) e io s

/-- JOB_RESUME: JOB_START with the RESUME flag. -/
def execJobResume (e : Entry) (io : HostIo) (s : State) : Host.Outcome State Fault Refusal :=
  runRow Row.jobStart (cmdJobStart []) e io s

/-- JOB_STARTs that wait for moves are tried again after a tick's switches (R238). -/
def retryStarts (s : State) : State :=
  let mine (c : InFlight) : Option (List Nat) := match c.wait with | .jobStart _ k => some k | _ => none
  let cs := s.kao.waiting.filter (fun c => (mine c).isSome)
  let s := { s with kao := { s.kao with waiting := s.kao.waiting.filter (fun c => (mine c).isNone) } }
  cs.foldl (fun s c =>
    let o := cmdStartNew ((mine c).getD []) c.ent c.io s
    match o.wait with
    | some w => { o.st with kao := { o.st.kao with waiting := o.st.kao.waiting ++ [{ c with wait := w }] } }
    | none => endWaiting c o.status o.res o.inl o.st) s

/-! ### Stops and pauses (R434–R437) -/

/-- JOB_STOP (Table 17-6): the lead orders a stop or a pause through the plan, abandons a start, or stops a paused job. -/
def cmdJobStop (e : Entry) (_ : HostIo) (s : State) : CmdOut :=
  let p := e.part
  let q := part s p
  if 3 < arg e 8 1 ∨ arg e 10 2 = 0 then refuseCmd 0x0102 s
  else if !isLead s p then refuseCmd 0x0383 s
  else match q.job with
    | .starting => doneCmd (leBytes 6 (frameNo s) ++ [0, 0] ++ leBytes 8 0 ++ leBytes 2 0x03C2) (abandonStart p s)
    | .running => waitCmd (.jobStop p) (orderStop p (arg e 8 1) 0x03C3 (frameNo s + arg e 10 2) s)
    | .paused => waitCmd (.jobStop p) (stopJob s p 0x03C3)
    | _ => refuseCmd 0x0320 s

/-- JOB_STOP MODE 0. -/
def execJobStopImmediate (e : Entry) (io : HostIo) (s : State) : Host.Outcome State Fault Refusal :=
  runRow Row.jobStop cmdJobStop e io s

/-- JOB_STOP MODE 1. -/
def execJobStopCheap (e : Entry) (io : HostIo) (s : State) : Host.Outcome State Fault Refusal :=
  runRow Row.jobStop cmdJobStop e io s

/-- JOB_STOP MODE 2. -/
def execJobPause (e : Entry) (io : HostIo) (s : State) : Host.Outcome State Fault Refusal :=
  runRow Row.jobStop cmdJobStop e io s

/-- JOB_STOP MODE 3. -/
def execJobPauseCheap (e : Entry) (io : HostIo) (s : State) : Host.Outcome State Fault Refusal :=
  runRow Row.jobStop cmdJobStop e io s

/-- JOB_STOP completes when its entry takes effect: stop frame, frame epoch, final status. -/
def answerStops (p st : Nat) (s : State) : State :=
  completeWaiting (.jobStop p) 0 (fun s _ => leBytes 6 (frameNo s) ++ [0, 0] ++ leBytes 8 (frameEpoch s p) ++ leBytes 2 st) s

/-- A stop takes effect at a tick (R435): the requests end, the reservations go, the lead releases the transit packages, and
the slice ID is quarantined. -/
def stopNow (p st : Nat) (s : State) : State :=
  let q := part s p
  let sl := sliceOf s p
  let s := if q.job = .starting ∧ isLead s p then
      toSlice p 0x24 (leBytes 8 (imageIdOf q) ++ leBytes 2 0x03C2 ++ leBytes 6 0) true s else s
  let s := abortReplacement p st (stopRequests p st s)
  let s := modSrv (fun v => { v with shipPages := v.shipPages.filter (·.part != p) }) s
  let s := (otherParts s p).foldl (fun s x => loseTarget x sl s) s
  let s := if isLead s p then
      (match q.image with
       | some im => (transitList im).foldl (fun s t =>
           sendCtl t.1 0x25 ⟨p, 255, 255, 255, 0⟩ 0xFFFFFFFF (leBytes 8 im.imageId ++ leBytes 1 sl ++ leBytes 7 0) true s) s
       | none => s)
    else s
  let s := unreserve p s
  let s := modPart s p (fun q => { q with
    job := .stopped, stopStatus := st, stopFrame := frameNo s, stopDue := none, pauseDue := false, stopReq := none,
    goFrame := none, resume := false, readies := [], accepts := [], goAcks := [], fills := [], conds := [],
    floorFail := false, lockPhase := none, lastImage := imageIdOf q })
  let s := { s with kao := { s.kao with sliceStops := (sl, pkgNs s) :: s.kao.sliceStops.filter (·.1 != sl) } }
  let s := answerStops p st (jobEvent p st s)
  modPart s p (fun q => { q with image := none })

/-- A pause takes effect at a tick: the live ranges of the phase end are locked until the job resumes (R437). -/
def pauseNow (p : Nat) (s : State) : State :=
  let q := part s p
  let last : Option Nat := match q.image with
    | some im =>
      if q.phase = 0 then none
      else if cheapBit im (phaseIndex im (q.phase - 1)) then none else some (phaseIndex im (q.phase - 1))
    | none => none
  let s := modPart s p (fun q => { q with job := .paused, pauseDue := false, stopReq := none, lockPhase := last })
  answerStops p 0 (jobEvent p 0 s)

/-- The job begins phase 0 with frame epoch 0 at the tick of F, or goes on after a pause (R430, R437). -/
def beginJob (p : Nat) (s : State) : State :=
  let q := part s p
  if q.resume then
    jobEvent p 0 (modPart s p (fun q => { q with job := .running, goFrame := none, resume := false, goAcks := [], lockPhase := none }))
  else
    let s := q.quads.foldl (fun s G => wr s (Reg.CTX_FRAME_EPOCH G) 0) s
    let s := modPart s p (fun q => { q with
      job := .running, goFrame := none, readies := [], accepts := [], goAcks := [], phase := 0, startFrame := frameNo s })
    let s := startBatches p (startVex p s)
    writeTable p 0 s (jobEvent p 0 s)

end Sys2Proof.Machine
end

