-- ==== Sys2Proof/Machine/Verdict.lean ====
section
/-!
DEFINITION. The commit deadline and the verdict (R27, R42–R46): missed deadlines, the commit of a partition's frame (R25),
a frame that fails, and the accounting of both (R441, R442, R517).
-/

namespace Sys2Proof.Machine

/-! ### Accounting at the close of a frame (R441, R442, R517) -/

/-- Input tokens of the running batches of a partition per tenant queue, ascending. -/
def queueLens (s : State) (p : Nat) : Tab Nat :=
  ((batchesOf s p).decode ++ (batchesOf s p).prefill).foldl
    (fun t r => tmod 0 t (slotOf s r.slot).req.queue (· + r.len)) []

/-- Split an amount among queues: floors of the exact shares, and the remainder to the queue with the most tokens, the lowest
of equals. -/
def splitAmount (qs : Tab Nat) (a : Nat) : List (Nat × Nat) :=
  let n := (qs.map (·.2)).sum
  if n = 0 then []
  else
    let sh := qs.map (fun q => (q.1, a * q.2 / n))
    let rest := a - (sh.map (·.2)).sum
    let top := qs.foldl (fun b q => if b.2 < q.2 then q else b) (0, 0)
    sh.map (fun x => if x.1 = top.1 then (x.1, x.2 + rest) else x)

/-- Add to the counter at `off` of a queue's set. -/
def addQueue (off : Nat) (s : State) (x : Nat × Nat) : State :=
  { s with qacct := tmod 0 s.qacct (256 * x.1 + off) (fun v => (v + x.2) % 2 ^ 64) }

/-- Add energy to a queue, in nJ; ENERGY_UJ shows it in µJ. -/
def addQueueNj (s : State) (x : Nat × Nat) : State :=
  let e := tget 0 s.qEnergy x.1 + x.2
  { s with qEnergy := tput 0 s.qEnergy x.1 e, qacct := tput 0 s.qacct (256 * x.1 + 0xD0) (e / 1000 % 2 ^ 64) }

/-- Add amounts and energy to a partition's set. -/
def addSet (amts : Tab Nat) (nj : Nat) (q : Part) : Part :=
  let e := q.energyNj + nj
  let a := amts.foldl (fun t x => tmod 0 t x.1 (fun v => (v + x.2) % 2 ^ 64)) q.acct
  { q with acct := tput 0 a 0xD0 (e / 1000 % 2 ^ 64), energyNj := e }

/-- The accumulators of a partition are added at its commit, and split among the tenant queues. -/
def commitAccounts (p : Nat) (s : State) : State :=
  let q := part s p
  let qs := queueLens s p
  let amts := q.outAcc.foldl (fun t x => tmod 0 t x.1 (· + x.2)) (tmod 0 q.accum 0 (· + 1))
  let nj := (q.accumPj + q.outPj) / 1000
  let s := amts.foldl (fun s x => (splitAmount qs x.2).foldl (addQueue x.1) s) s
  let s := (splitAmount qs nj).foldl addQueueNj s
  modPart s p (fun q => { addSet amts nj q with accum := [], accumPj := 0, outAcc := [], outPj := 0 })

/-- Work outside frames is added at each tick while the job does not run. -/
def addOutside (p : Nat) (s : State) : State :=
  modPart s p (fun q => { addSet q.outAcc (q.outPj / 1000) q with outAcc := [], outPj := 0 })

/-- The static energy of the owned quadrants over a frame. -/
def staticEnergy (ns : Nat) (s : State) (p : Nat) : State :=
  modPart s p (fun q => { q with outPj := q.outPj + 4000 * ns * q.quads.length })

/-! ### The commit deadline (R27, R43) -/

/-- A context has not reached its commit command at the deadline. -/
def lateContext (p : Nat) (s : State) (G : Nat) : State :=
  let n := 2 * (G / 4) + (G % 4) / 2
  let s := unitError Reg.TICK_EV_OVERRUN 1 0x0101 5 n 1 255 p 1 0 [] true (bump s Reg.TICK_OVERRUN_CNT 1)
  failFrame p ⟨0x0520, false, 5, n⟩ s

/-- The deadline of one partition's frame: late contexts fail it; a complete frame has its results and its plan checked; and
the engine writes the batch table of the next frame epoch (R357, R358, R370). A frame that the floor failed counts under R511
alone. -/
def deadlineFor (s : State) (p : Nat) : State :=
  if !runs s p then s
  else
    let late := if (part s p).floorFail then [] else (part s p).quads.filter (fun G => !(ctx s G).atCommit)
    let s := late.foldl (lateContext p) s
    let s := if frameComplete s p then checkPlan p (checkResults p s) else s
    if frameFailed s p then s
    else
      let n := commitServing p (frameNo s) (s.tick.applNs + 100 * s.tick.len) s
      writeTable p (frameEpoch s p + (if atBarrier s p then 0 else 1)) n s

/-- The verdict window opens at slot N − 8. -/
def deadline (s : State) : State :=
  let s := slotBegins (s.tick.len - 8) s
  (List.range 32).foldl deadlineFor { s with tick := { s.tick with verdict := true } }

/-- The package keeps frames: it is in HUB_UP or above and its clocks run. -/
def keepsFrames (s : State) : Bool := decide (2 ≤ pstate s) && !frozen s

/-- COMMIT_DEADLINE. -/
def execCommitDeadline (s : State) : Host.Outcome State Fault Refusal :=
  if !keepsFrames s || s.tick.verdict then .next s else .next (deadline s)

/-! ### The verdict (R43–R46) -/

/-- The slices that some abort has named in the running frame. -/
def abortedSlices (s : State) : List Nat := s.tick.one ++ s.tick.counted ++ s.tick.floorB

/-- A partition's frame commits. -/
def frameCommits (s : State) (p : Nat) : Bool :=
  runs s p && frameComplete s p && !frameFailed s p && !(abortedSlices s).contains (sliceOf s p)

/-- The frame epochs of the partition's contexts advance. -/
def advanceEpochs (p : Nat) (s : State) : State :=
  (part s p).quads.foldl (fun s G => bump s (Reg.CTX_FRAME_EPOCH G) 1) s

/-- The frame ends at a cheap point. -/
def endsCheap (s : State) (p : Nat) : Bool :=
  match (part s p).image with
  | some im => cheapBit im (phaseIndex im (part s p).phase)
  | none => false

/-- A stop or pause that stood in the plan of the committed frame takes effect (Table 17-6). -/
def takeStop (p : Nat) (s : State) : State :=
  match (part s p).stopReq with
  | some r =>
    if !r.placed then s
    else
      let s := modPart s p (fun q => { q with stopReq := none })
      if r.mode < 2 then stopJob s p r.status else modPart s p (fun q => { q with pauseDue := true })
  | none => s

/-- The commit of frame `f` of a partition, in the order of R25. At the barrier of a replacement neither the frame epoch nor
the phase advances (R409). -/
def commitPart (p f now : Nat) (s : State) : State :=
  let idle := atBarrier s p
  let cheap := endsCheap s p && !idle
  let s := commitAccounts p (closeDeferred p true s)
  let s := commitServing p f now s
  let s := closeStagedMoves p true (closeVex p true s)
  let s := if idle then s else advanceEpochs p (modPart s p (fun q => { q with phase := q.phase + 1 }))
  let s := modPart s p (fun q => { q with
    lastCheap := if cheap then f else q.lastCheap, failures := 0, allowance := 2, conds := [], floorFail := false })
  let s := { s with pwr := { s.pwr with floorFrames := tput 0 s.pwr.floorFrames p 0 } }
  let s := takeStop p s
  writeTable p (frameEpoch s p) s s

/-- The staged effects of a frame that does not commit go (R41, R441). -/
def dropStaged (p : Nat) (s : State) : State :=
  let s := closeStagedMoves p false (closeVex p false (closeDeferred p false s))
  let s := modSrv (fun v => { v with pass := tput none v.pass p none }) (closePlan p s s)
  modPart s p (fun q => { q with
    acct := tmod 0 q.acct 8 (fun v => (v + 1) % 2 ^ 64), accum := [], accumPj := 0,
    stopReq := q.stopReq.map (fun r => { r with placed := false }) })

/-- A job stops under R46: the FATAL record of the package that detected a condition (R578), and the stop. -/
def exhausted (p : Nat) (s : State) : State :=
  match (part s p).conds with
  | c :: _ =>
    stopJob (report (mkRec s c.unitType c.unit 3 0 0x8008 255 p 2 c.status 0 []) false s) p c.status
  | [] => stopJob s p 0x052D

/-- A partition's frame does not commit (R45, R46): a failure by FLOOR alone does not count; after k counted failures the job
stops when k − 1 has reached the smallest allowance among them. -/
def failPart (p : Nat) (s : State) : State :=
  let sl := sliceOf s p
  let one := s.tick.one.contains sl
  let floorOnly := s.tick.floorB.contains sl && !one && !s.tick.counted.contains sl
  let s := tickEvent Reg.TICK_EV_REPLAY 2 (bump s Reg.TICK_REPLAY_CNT 1)
  let s := dropStaged p s
  let s := if floorOnly then s
    else
      let k := (part s p).failures + 1
      let al := min (part s p).allowance (if one then 1 else 2)
      let s := modPart s p (fun q => { q with failures := k, allowance := al })
      if al ≤ k - 1 then exhausted p s else s
  modPart s p (fun q => { q with conds := [], floorFail := false })

/-- One partition at the tick that closes frame `f`. -/
def closeFrame (f now : Nat) (ok : Nat → Bool) (s : State) (p : Nat) : State :=
  if !(part s p).present then s
  else if !runs s p then addOutside p s
  else if ok p then commitPart p f now s
  else failPart p s

end Sys2Proof.Machine
end

