-- ==== Sys2Proof/Machine/Clock.lean ====
section
/-!
DEFINITION. The tick symbol (R29–R39, R47, R481, R532–R534): the master's symbol, a follower's acceptance and relay, fences,
missing ticks and takeover, TICK_SYNC_IN, and TICK_CONFIG.
-/

namespace Sys2Proof.Machine

/-! ### Fenced packages (R37, R38) -/

/-- A job of this package has a member on package `x`, or crosses it as a transit package. -/
def touchesPkg (s : State) (p x : Nat) : Bool :=
  (membersOf s p).any (·.1 == x) ||
    (match (part s p).image with | some im => (transitList im).any (·.1 == x) | none => false)

/-- This package is fenced: no scheduled traffic, and every job on it stops at the next tick. -/
def fenceSelf (s : State) : State :=
  stopAll { (wr s Reg.TICK_FENCED 1) with tick := { s.tick with schedStopped := true } } 0x0561

/-- A tick symbol names package `x` in FENCE. -/
def noteFence (x : Nat) (s : State) : State :=
  if x = 255 then s
  else
    let s := tickEvent Reg.TICK_EV_FENCE_SEEN 6 s
    let s := { s with tick := { s.tick with
      fencedPkgs := if s.tick.fencedPkgs.contains x then s.tick.fencedPkgs else s.tick.fencedPkgs ++ [x],
      requests := tput 0 s.tick.requests x 0 } }
    if x = pkgId s then fenceSelf s
    else (List.range 32).foldl (fun s p => if touchesPkg s p x then stopJob s p 0x0561 else s) s

/-! ### The symbol (Table 2-2) -/

/-- Bytes 1–14 of a TICK symbol. -/
def tickBytes (y : TickSym) : Bytes :=
  leBytes 6 y.frame ++ leBytes 2 y.lenNext ++ leBytes 2 y.base ++ leBytes 1 y.master ++ leBytes 1 y.standby ++
    leBytes 1 y.fence ++ leBytes 1 y.gen

/-- The link that carries a designated tick link: the one that holds its position (R282). -/
def tickCarrier (s : State) (l : Nat) : Nat := subLink s (bundleOf s l) (linkPos l)

/-- The links in service that carry the designated downstream links. -/
def downLinks (s : State) : List Nat :=
  ((((List.range 96).filter (fun l => bit (rd s (Reg.TICK_LINK_MASK (l / 32))) (l % 32))).map (tickCarrier s)).filter
    (isUp s)).eraseDups

/-- The stretch that the outstanding requests ask for at a base length (R47). -/
def stretchFor (s : State) (base : Nat) : Nat :=
  min ((s.tick.requests.map (·.2)).foldl max 0) (min base (2560 - base))

/-- The master sends the symbol of the tick that opened the running frame: it announces the length and the base of the next
one, and its FENCE takes effect here as on every other package. -/
def masterSymbol (s : State) : State :=
  let base := rd s Reg.TICK_FRAME_SLOTS
  let x := s.tick.fenceNext
  let s := if x ≠ 255 ∧ x = rd s Reg.TICK_STANDBY_ID then
      electStandby { s with tick := { s.tick with fencedPkgs := s.tick.fencedPkgs ++ [x] } } else s
  let y : TickSym :=
    { frame := frameNo s, lenNext := base + stretchFor s base, base := base, master := pkgId s,
      standby := rd s Reg.TICK_STANDBY_ID, fence := x, gen := rd s Reg.TICK_GEN }
  let s := sendSymbol (downLinks s) 1 (tickBytes y) (wr s Reg.TICK_LEN_NEXT y.lenNext)
  noteFence x { s with tick := { s.tick with nextBase := base, fenceNext := 255, gotSymbol := true, missed := 0 } }

/-- The link that a follower takes the tick from (R32). -/
def upstream (s : State) : Nat :=
  let l := tickCarrier s (rd s Reg.TICK_PRIM_UP)
  if isUp s l then l else tickCarrier s (rd s Reg.TICK_ALT_UP)

/-- `g` is greater than `h` as an 8-bit serial number (R39). -/
def genAfter (g h : Nat) : Bool := decide (1 ≤ subMod 8 g h) && decide (subMod 8 g h ≤ 127)

/-- The offset of a symbol from the own timer, in 0.125 ns: outside ±6 ns it raises DRIFT_WARN, outside ±4 ns the timer is
not locked (R34). -/
def noteOffset (o : Int) (s : State) : State :=
  let a := o.natAbs
  let s := wr (wr s Reg.TICK_OFFSET (unsigned 16 o)) Reg.TICK_OFFSET_MAX (max (rd s Reg.TICK_OFFSET_MAX) (min a 65535))
  let s := if 32 < a then wr s Reg.TICK_LOCKED 0 else s
  if 48 < a then tickEvent Reg.TICK_EV_DRIFT_WARN 0 s else s

/-- PRIM_UP and ALT_UP of this package's map record (R534). -/
def mapUpstream (s : State) : State :=
  match s.fab.map with
  | some _ =>
    let o := 64 + 208 * pkgId s
    wr (wr s Reg.TICK_PRIM_UP (mapField s (o + 192) 1)) Reg.TICK_ALT_UP (mapField s (o + 193) 1)
  | none => s

/-- The standby that the symbols name; a new one gets this package's stretch request again (R47). -/
def noteStandby (x : Nat) (s : State) : State :=
  let old := rd s Reg.TICK_STANDBY_ID
  let s := wrb (wr s Reg.TICK_STANDBY_ID x) Reg.TICK_NO_STANDBY (x == 255)
  if x ≠ old ∧ x ≠ 255 ∧ rd s Reg.PWR_STRETCH_REQ ≠ 0 then
    sendCtl x 0x0010 kaolinTo 0xFFFFFFFF (leBytes 2 (rd s Reg.PWR_STRETCH_REQ) ++ leBytes 6 0) true s
  else s

/-- A follower accepts a tick symbol and relays it on its downstream links. -/
def acceptSymbol (y : TickSym) (o : Int) (s : State) : State :=
  let s := if genAfter y.gen (rd s Reg.TICK_GEN) ∧ rd s Reg.TICK_ROLE ≠ 0 then tickEvent Reg.TICK_EV_TAKEOVER 5 s else s
  let s := wr (wr s Reg.TICK_GEN y.gen) Reg.TICK_MASTER_ID y.master
  let s := wr (wr (noteStandby y.standby s) Reg.TICK_ROLE (if y.standby = pkgId s then 2 else 3)) Reg.TICK_HOLDOVER 0
  let s := noteOffset o (wr s Reg.TICK_LEN_NEXT y.lenNext)
  let s := { s with tick := { s.tick with
    nextBase := y.base, missed := 0, gotSymbol := true, everTicked := true, candidate := false, takeoverAge := none } }
  noteFence y.fence (sendSymbol (downLinks s) 1 (tickBytes y) s)

/-- A package in TOPO_CHECK joins as a follower (R534). -/
def joinMaster (y : TickSym) (o : Int) (s : State) : State :=
  let s := mapUpstream (wr s Reg.TICK_FRAME_LO y.frame)
  let s := acceptSymbol y o { s with tick := { s.tick with one := [], counted := [], floorB := [] } }
  sendCtl y.master 0x0012 kaolinTo 0xFFFFFFFF
    (leBytes 1 (rd s Reg.TICK_MASTER_ELIG) ++ leBytes 1 (rd s Reg.TICK_MASTER_PRIO) ++ leBytes 1 (trayOf (pkgId s)) ++ leBytes 5 0)
    true s

/-- A symbol of another master that is not newer is discarded (R534). -/
def foreignTick (s : State) : State :=
  pwrEvent Reg.SEQ_EV_FOREIGN_TICK 0x23 (bump s Reg.SEQ_FOREIGN_TICK_CNT 1)

/-- TICK_SYMBOL_RECEIVE: `offset` is its arrival against the own timer, in 0.125 ns. A follower whose counter differs from
FRAME has a faulty tick: it sends no scheduled traffic and counts an edge reject for each slot of the frame (R32). -/
def execTickSymbolReceive (l : Nat) (crcOk : Bool) (sym : TickSym) (offset : Int) (s : State) :
    Host.Outcome State Fault Refusal :=
  let role := rd s Reg.TICK_ROLE
  let newer := genAfter sym.gen (rd s Reg.TICK_GEN)
  if !isUp s l then .next s
  else if !crcOk then .next (badSymbol s)
  else if sym.master = pkgId s then .next s
  else if role = 0 then
    (if pstate s = 5 ∧ s.tick.mapChecked ∧ l = upstream s then .next (joinMaster sym offset s) else .next s)
  else if sym.master ≠ rd s Reg.TICK_MASTER_ID ∧ !newer then .next (foreignTick s)
  else if role = 1 then .next (acceptSymbol sym offset (mapUpstream s))
  else if l ≠ upstream s ∨ (sym.gen ≠ rd s Reg.TICK_GEN ∧ !newer) then .next s
  else if sym.frame ≠ frameNo s then
    .next (edgeReject l s.tick.len { s with tick := { s.tick with schedStopped := true } })
  else .next (acceptSymbol sym offset s)

/-! ### Missing ticks (R39, R481) -/

/-- MISSING_TICK: the tick that opened the running frame brought no symbol. The package runs on holdover; at the second in a
row the standby becomes master and sends its first symbol. -/
def execMissingTick (s : State) : Host.Outcome State Fault Refusal :=
  let role := rd s Reg.TICK_ROLE
  if role < 2 ∨ s.tick.gotSymbol ∨ !keepsFrames s then .next s
  else
    let s := tickEvent Reg.TICK_EV_MASTER_MISS 4 (wr s Reg.TICK_HOLDOVER 1)
    let s := { s with tick := { s.tick with missed := s.tick.missed + 1, gotSymbol := true } }
    if role = 2 ∧ 2 ≤ s.tick.missed then .next (masterSymbol (takeover s)) else .next s

/-- TICK_LOSS_SELF_FENCE: three ticks in a row without an accepted symbol. -/
def execTickLossSelfFence (s : State) : Host.Outcome State Fault Refusal :=
  if rd s Reg.TICK_ROLE < 2 ∨ s.tick.missed < 3 ∨ rdb s Reg.TICK_FENCED then .next s
  else
    let s := report (mkRec s 14 4 3 1 0x0104 24 255 (if anyJob s then 2 else 0) (if anyJob s then 0x0561 else 0) 0 []) true s
    .next (floodReport (pkgId s) (pkgId s) (frameNo s) (fenceSelf s))

/-! ### TICK_SYNC_IN and TICK_CONFIG (R33, R466) -/

/-- TICK_SYNC_IN_EDGE: on a master with SYNC_IN_EN a pulse within its frame's window aligns the ticks; a missing or misplaced
one sets SYNC_IN_LOST. -/
def execTickSyncInEdge (inTime : Bool) (s : State) : Host.Outcome State Fault Refusal :=
  if rd s Reg.TICK_ROLE = 1 ∧ rdb s Reg.TICK_SYNC_IN_EN ∧ !inTime then
    .next (tickEvent Reg.TICK_EV_SYNC_IN_LOST 7 s)
  else .next s

/-- TICK_CONFIG. -/
def cmdTickConfig (e : Entry) (_ : HostIo) (s : State) : CmdOut :=
  let v := arg e 8 4
  let n := v % 4096
  if n < 80 ∨ 2560 < n then refuseCmd 0x0102 s
  else if anyJob s then refuseCmd 0x0301 s
  else
    let s := wr (wr s Reg.TICK_FRAME_SLOTS n) Reg.TICK_MASTER_PRIO (v / 2 ^ 16)
    let s := wrb (wrb s Reg.TICK_MASTER_ELIG (bit v 20)) Reg.TICK_SYNC_IN_EN (bit v 21)
    doneCmd [] (wrb s Reg.TICK_SYNC_OUT_EN (bit v 22))

/-- TICK_CONFIG. -/
def execTickConfig (e : Entry) (io : HostIo) (s : State) : Host.Outcome State Fault Refusal :=
  runRow Row.tickConfig cmdTickConfig e io s

end Sys2Proof.Machine
end

