-- ==== Sys2Proof/Machine/Watchdog.lean ====
section
/-!
DEFINITION. Engine watchdogs (R118, R126): a command that its engine does not complete in time is aborted, its outputs hold
no defined value, and the frame fails.
-/

namespace Sys2Proof.Machine

/-- A command that a watchdog covers: one of an engine, other than those that complete at issue. -/
def watched (x : FrameCmd) : Bool :=
  match x.cls with
  | 0 => false
  | 2 => x.op != 1
  | 3 => x.op != 1
  | 5 => x.op != 1
  | 7 => x.op != 1
  | 9 => x.op != 3
  | _ => true

/-- Free bytes over a span. -/
def loseSpan (G cls : Nat) (s : State) (r : Span) : State :=
  let d := drawBytes r.len s
  if r.hub then hubWrite (ownerOf s G) r.off d.1 d.2 else spmWrite G r.off 3 cls d.1 d.2

/-- Free bytes over units of the tiered range. -/
def loseTiered (p a n : Nat) (s : State) : State :=
  (List.range n).foldl (fun s i => let d := drawBytes 256 s; (tierWrite p (a + 256 * i) d.1 d.2).2) s

/-- Free bytes over the rows that a KV_PUT writes. -/
def loseRows (G : Nat) (a : BitVec 112) (s : State) : State :=
  let row := 64 * fld a 63 59
  let l := descList s G (listAt s G (fld a 111 96 * 256) (fld a 79 64 * 256))
  l.fresh.foldl (fun s f =>
    match l.descs.find? (fun d => d.seg == f.seg && d.lpage == f.pos / 64) with
    | some d =>
      let b := drawBytes row s
      putRow (ownerOf s G) (pageRow G d.qofs (fld a 58 56) row (f.pos % 64)) b.1 false b.2
    | none => s) s

/-- The collectives engine drops a command: it sends no more pieces and takes no more. -/
def dropCol (G pc : Nat) (s : State) : State :=
  let sl := sliceOf s (ownerOf s G)
  let mine := (planOf s G pc).streams
  let s := { s with fab := { s.fab with txPieces := s.fab.txPieces.filter (fun x =>
    !(x.slice == sl && mine.any (fun t => !t.recv && t.stream == x.stream))) } }
  (List.range s.coll.ops.length).foldl (fun s i =>
    if (opAt s i).G = G ∧ (opAt s i).pc = pc then modOp i (fun o => { o with part := 32 }) s else s) s

/-- The outputs of an aborted command hold no defined value. -/
def loseOutputs (G : Nat) (x : FrameCmd) (s : State) : State :=
  let o := colOf x.op 0 x.args
  let np := groupNp (groupEnt s o.gid)
  let ops := operandsOf (streamTable s G) np (rankIn s o.gid G) x.cfg ⟨x.cls, x.op, x.flags, x.args⟩
  let s := (writeSpans ops).foldl (loseSpan G x.cls) s
  if x.cls = 1 then
    (selDies x.args).foldl (fun s d => (selGroups x.args).foldl (fun s j =>
      (List.range 16).foldl (fun s v => putArf (bduUnit G d j) v ArfSlot.empty s) s) s) s
  else if x.cls = 5 ∧ x.op = 3 then clearArf G s
  else if x.cls = 8 then dropCol G x.pc s
  else if x.cls = 9 ∧ x.op = 2 then loseTiered (ownerOf s G) (fld x.args 111 60) (fld x.args 35 18) s
  else if x.cls = 9 ∧ x.op = 0x40 then loseRows G x.args s
  else s

/-- A watchdog with a register bit: bit, record and event; the frame fails with two replays. -/
def watchdogBit (f : Field) (src code ty n st G : Nat) (x : FrameCmd) (s : State) : State :=
  failFrame (ownerOf s G) ⟨st, false, ty, n⟩
    (unitError f src code ty n 1 x.cls (ownerOf s G) 1 x.pc (leBytes 2 x.pc ++ leBytes 1 (G % 4)) true s)

/-- The stack sequencer that serves a quadrant. -/
def seqUnit (G : Nat) : Nat := 2 * (G / 4) + (G % 4) / 2

/-- The report of an expiry. MOV, ROT and RMT_ATOMIC have no register bit: event FRAME_CONDITION. -/
def watchdogReport (G : Nat) (x : FrameCmd) (s : State) : State :=
  let src := 0x0100 + G / 4
  let q := seqUnit G
  let bare (ty n : Nat) (s : State) : State :=
    let idx := nextIdx s
    let synd := leBytes 2 x.pc ++ leBytes 1 (G % 4)
    let p := ownerOf s G
    let s := report (mkRec s ty n 1 src 0x8012 x.cls p 1 0 x.pc synd) true s
    let s := raiseWith src 0x8012 p
      (fun _ => leBytes 2 n ++ leBytes 1 ty ++ leBytes 1 0 ++ leBytes 2 0x0526 ++ leBytes 2 x.pc ++ leBytes 4 0 ++ leBytes 4 idx) [] s
    failFrame p ⟨0x0526, false, ty, n⟩ s
  match x.cls with
  | 1 => (selDies x.args).foldl (fun s d =>
      watchdogBit (Reg.BDU_ERR_WATCHDOG (dieUnit G d)) src 0x0205 1 (bduUnit G d ((selGroups x.args).headD 0)) 0x0524 G x s) s
  | 4 => bare 4 G s
  | 5 => watchdogBit (Reg.ATT_ERR_WATCHDOG G) src 0x0606 5 q 0x0526 G x s
  | 6 => if x.op = 0x10 then watchdogBit (Reg.ENG_ERR_WATCHDOG G) src 0x0505 5 q 0x0526 G x s else bare 5 q s
  | 7 => watchdogBit (Reg.SRT_ERR_WATCHDOG G) src 0x0704 5 q 0x0526 G x s
  | 8 =>
    if x.op = 0x30 then bare 14 0 s
    else watchdogBit Reg.COLL_ERR_WATCHDOG 4 0x0D04 14 2 0x0526 G x (wr (wr (wr s Reg.COLL_ERR_GID (fld x.args 111 104))
      Reg.COLL_ERR_RANK (rankIn s (fld x.args 111 104) G)) Reg.COLL_ERR_PC x.pc)
  | 9 =>
    if x.op = 0x40 then watchdogBit (Reg.ATT_ERR_WATCHDOG G) src 0x0606 14 5 0x0526 G x s
    else watchdogBit Reg.TIER_ERR_WATCHDOG 5 0x0905 14 5 0x0526 G x s
  | _ => watchdogBit (Reg.ENG_ERR_WATCHDOG G) src 0x0505 5 q 0x0526 G x s

/-- A watchdog expires: the report, the failed frame, and the lost outputs. -/
def expire (G : Nat) (x : FrameCmd) (s : State) : State := loseOutputs G x (watchdogReport G x s)

/-- ENGINE_WATCHDOG_EXPIRY: the i-th command in flight of a context is aborted. -/
def execEngineWatchdogExpiry (G i : Nat) (s : State) : Host.Outcome State Fault Refusal :=
  match (ctx s G).inflight[i]? with
  | some x =>
    if watched x && !frozen s then
      let s := modCtx (expire G x s) G (fun c => { c with inflight := c.inflight.eraseIdx i })
      .next (showColl (showCtx G (releaseWait G s)))
    else .next s
  | none => .next s

/-- Commands still running at a tick expire with the frame that missed its deadline (R126); a pass that waits on its arrival
counter is held, not running (Table 6-13). -/
def expireAtTick (s : State) : State :=
  (List.range 32).foldl (fun s p =>
    if runs s p && !(part s p).floorFail then
      (part s p).quads.foldl (fun s G =>
        ((ctx s G).inflight.filter (fun x => watched x && x.waitsAc.isNone)).foldl (fun s x => expire G x s) s) s
    else s) s

end Sys2Proof.Machine
end

