-- ==== Sys2Proof/Machine/Tick.lean ====
section
/-!
DEFINITION. The tick (R26, R30, R43–R46, R435): it closes the running frame, switches what waits for a tick, and opens the
next frame. With it the fences that take effect (R487–R490) and the compare pass over the hardened state (R478, R479).
-/

namespace Sys2Proof.Machine

/-! ### Fences (R487–R490, Table 19-3) -/

/-- What a fence of a unit does at its tick. -/
def fenceEffect (t n : Nat) (s : State) : State :=
  if t = 7 then
    let h := n - 1152
    let s := (jobsOfUnit s t n).foldl (fun s p => stopJob s p 0x05E0) s
    setHubByte h (hubByte s h ||| 0x40) s
  else if t = 11 then fenceTier2 s
  else if t = 12 then leaveService n 6 (effectiveNow s) s
  else (jobsOfUnit s t n).foldl (fun s p => stopJob s p 0x05E0) s

/-- A fence enters the lowest free entry of the fence table. -/
def enterFence (t n : Nat) (s : State) : State :=
  if inFenceTable s t n then s
  else match (List.range 256).find? (fun i => !rdb s (Reg.CAL_FENCE_V i)) with
    | some i =>
      let s := wr (wr (wr s (Reg.CAL_FENCE_V i) 1) (Reg.CAL_FENCE_TYPE i) t) (Reg.CAL_FENCE_UNIT i) n
      fenceEffect t n (bump s Reg.CAL_FENCE_USED 1)
    | none => s

/-- A hub bank whose unfence takes effect returns to the free pool. -/
def unfenceEffect (t n : Nat) (s : State) : State :=
  if t = 7 ∧ !inFenceTable s t n then setHubByte (n - 1152) (hubByte s (n - 1152) &&& 0xBF) s else s

/-- The status registers that show fenced units. -/
def showFences (s : State) : State :=
  let us := fencedUnits s
  let s := (List.range 48).foldl (fun s G => wrb s (Reg.ROT_FENCED G) (us.contains (4, G))) s
  let s := (List.range 32).foldl (fun s n => wrb s (Reg.TIER_CH_FENCED n) (us.contains (11, n))) s
  (List.range 144).foldl (fun s d =>
    wr s (Reg.BDU_DIE_FENCED d)
      (if us.contains (0, d) then 65535 else bitmap ((List.range 16).filter (fun k => us.contains (1, 16 * d + k))))) s

/-- The fences and unfences that wait for the tick, in order. -/
def applyFences (s : State) : State :=
  if s.cal.pendFence.isEmpty then s
  else
    let rs := s.cal.pendFence
    let s := { s with cal := { s.cal with pendFence := [] } }
    showFences (rs.foldl (fun s r =>
      if r.fence then enterFence r.unitType r.unit s else unfenceEffect r.unitType r.unit s) s)

/-! ### Hardened state (R478, R479) -/

/-- Families of hardened fields other than TICK_CONFIG and Caliche's tables. -/
def hardFamilies : List Family :=
  [⟨Reg.ROT_SEED_LO 0 0, [(12, 0x100000), (4, 0x1000), (64, 8)]⟩, ⟨Reg.ROT_SEED_HI 0 0, [(12, 0x100000), (4, 0x1000), (64, 8)]⟩,
   ⟨Reg.SPM_BANK_MAP 0 0, [(12, 0x100000), (4, 0x100), (3, 4)]⟩, ⟨Reg.SPM_HUB_MAP 0, [(16, 4)]⟩,
   ⟨Reg.SPM_HUB_OWNER 0, [(32, 4)]⟩, ⟨Reg.TIER_FALLOW_FRAMES, []⟩, ⟨Reg.TIER_P_MAP_BASE 0, [(32, 0x40)]⟩,
   ⟨Reg.TIER_P_RANGE_PAGES 0, [(32, 0x40)]⟩, ⟨Reg.TIER_P_T2_QUOTA 0, [(32, 0x40)]⟩, ⟨Reg.SRV_P_SLOT_BASE 0, [(32, 0x80)]⟩,
   ⟨Reg.SRV_P_SLOT_COUNT 0, [(32, 0x80)]⟩]

/-- ROT_SEED_VALID, of 64 bits. -/
def seedValid : Family := ⟨Reg.ROT_SEED_VALID 0, [(12, 0x100000), (4, 0x1000)]⟩

/-- The parts of fields in the hardened register word at an offset: the field, its first bit there, and the first bit and
number of bits of the word. -/
def hardParts (off : Nat) : List (Field × Nat × Nat × Nat) :=
  let whole (f : Field) : Field × Nat × Nat × Nat := (f, 0, f.lo, f.width)
  if off = 0x100004 then
    [Reg.TICK_FRAME_SLOTS, Reg.TICK_MASTER_PRIO, Reg.TICK_MASTER_ELIG, Reg.TICK_SYNC_IN_EN, Reg.TICK_SYNC_OUT_EN].map whole
  else if 0x900100 ≤ off ∧ off < 0x900140 ∧ off % 4 = 0 then
    [Reg.CAL_ACTION ((off - 0x900100) / 4), Reg.CAL_THRESHOLD ((off - 0x900100) / 4)].map whole
  else if 0x900800 ≤ off ∧ off < 0x900C00 ∧ off % 4 = 0 then
    let i := (off - 0x900800) / 4
    [Reg.CAL_FENCE_UNIT i, Reg.CAL_FENCE_TYPE i, Reg.CAL_FENCE_V i].map whole
  else
    (fieldsAt hardFamilies off).map whole ++ (famField seedValid off).toList.map (fun f => (f, 0, 0, 32)) ++
      (famField seedValid (off - 4)).toList.map (fun f => (f, 32, 0, 32))

/-- The word of the group table's view at an offset (Table 13-10): group and byte. -/
def groupWord (off : Nat) : Option (Nat × Nat) :=
  if 0x310000 ≤ off ∧ off < 0x350000 ∧ off % 4 = 0 ∧ (off - 0x310000) % 0x400 < 0x210 then
    some ((off - 0x310000) / 0x400, (off - 0x310000) % 0x400)
  else none

/-- The word at an offset is hardened. -/
def isHardened (off : Nat) : Bool := !(hardParts off).isEmpty || (groupWord off).isSome

/-- A hardened word. -/
def hardWord (s : State) (off : Nat) : Nat :=
  match groupWord off with
  | some (g, b) => numAt (groupEnt s g) b 4
  | none => (hardParts off).foldl (fun v x => v + bits (rd s x.1) x.2.1 x.2.2.2 * 2 ^ x.2.2.1) 0

/-- Write a hardened word. -/
def putHardWord (off v : Nat) (s : State) : State :=
  match groupWord off with
  | some (g, b) =>
    if numAt (groupEnt s g) b 4 = v then s
    else
      let e := padTo 0x210 (groupEnt s g)
      { s with coll := { s.coll with groups := tput [] s.coll.groups g (e.take b ++ leBytes 4 v ++ e.drop (b + 4)) } }
  | none => (hardParts off).foldl (fun s x => wr s x.1 (setBits (rd s x.1) x.2.1 x.2.2.2 (bits v x.2.2.1 x.2.2.2))) s

/-- The partition that owns a hardened word, where it is one partition's. -/
def hardOwner (s : State) (off : Nat) : Option Nat :=
  match regPart s off with
  | some p => some p
  | none =>
    let q := (off - 0x1000000) % 0x100000
    let n := (off - 0x1000000) / 0x100000
    if 0x1000000 ≤ off then
      some (ownerOf s (4 * n + if 0xE0000 ≤ q then (q - 0xE0000) / 0x1000 else (q - 0xA1000) / 0x100))
    else match groupWord off with
      | some (g, _) => some (numAt (groupEnt s g) 0 1 % 32)
      | none => none

/-- The bitwise majority of three copies. -/
def majority3 (a b c : BitVec 32) : BitVec 32 := (a &&& b) ||| (a &&& c) ||| (b &&& c)

/-- A word whose copies disagree: one that differs is rewritten from the other two; three that differ lose the word, whose jobs
stop at the next tick. Hardware reads the majority. -/
def compareWord (s : State) (u : Upset) : State :=
  if !isHardened u.off ∨ (u.a = u.b ∧ u.b = u.c) then s
  else
    let synd := leBytes 4 u.off ++ leBytes 4 u.a.toNat ++ leBytes 4 u.b.toNat ++ leBytes 4 u.c.toNat
    let idx := rd s Reg.CAL_LOG_NEXT
    let old := hardWord s u.off
    if u.a = u.b ∨ u.a = u.c ∨ u.b = u.c then
      let s := writeRecord (mkRec s 15 0 0 9 0x1302 21 255 0 0 u.off synd) false s
      let s := putHardWord u.off (majority3 u.a u.b u.c).toNat (bump s Reg.CAL_HARD_REPAIR_CNT 1)
      calEvent Reg.CAL_EV_HARD_REPAIR 2 idx s
    else
      let ps := match hardOwner s u.off with
        | some p => [p]
        | none => List.range 32
      let hit := ps.any (fun p => (part s p).job.busy)
      let s := writeRecord (mkRec s 15 0 3 9 0x1303 21 (if ps.length = 1 then ps.headD 255 else 255) (if hit then 2 else 0)
        (if hit then 0x05E2 else 0) u.off synd) false s
      let s := putHardWord u.off (majority3 u.a u.b u.c).toNat (bump s Reg.CAL_HARD_LOST_CNT 1)
      let s := ps.foldl (fun s p => stopJob s p 0x05E2) s
      calEvent Reg.CAL_EV_HARD_LOST 3 idx { s with cal := { s.cal with lostWords := s.cal.lostWords ++ [(u.off, old)] } }

/-- The compare pass that Caliche starts at a tick. -/
def comparePass (us : List Upset) (s : State) : State :=
  if calAlive s then bump (us.foldl compareWord s) Reg.CAL_HARD_PASS_CNT 1 else s

/-- Kaolin writes lost words back from its copy, once the jobs that they concern have stopped. -/
def restoreWords (s : State) : State :=
  let ws := s.cal.lostWords
  ws.foldl (fun s w => putHardWord w.1 w.2 s) { s with cal := { s.cal with lostWords := [] } }

/-! ### The tick -/

/-- Close the running frame: the verdict of every partition. -/
def closeFrames (f : Nat) (s : State) : State :=
  let now := s.tick.applNs
  let ps := List.range 32
  let ok := ps.filter (frameCommits s)
  let ab := abortedSlices s
  let s := ps.foldl (fun s p => shipConfirm p ab s) s
  let s := ps.foldl (closeFrame f now ok.contains) s
  let s := modSrv (fun v => { v with asks := v.asks ++ v.lateAsks, lateAsks := [] }) s
  ps.foldl (fun s p => if (part s p).present && !runs s p then voidVex p s else s) s

/-- The time of the frame that ends passes. -/
def passTime (s : State) : State :=
  let ns := 100 * s.tick.len
  let s := { s with cal := { s.cal with upNs := s.cal.upNs + ns }, tick := { s.tick with applNs := s.tick.applNs + ns } }
  (List.range 32).foldl (fun s p => if (part s p).present then staticEnergy ns s p else s) (wr s Reg.TICK_SLOT 0)

/-- The frame counter and the length of the frame that opens (R29, R30, R39, R47, R532). A new base length stops every job. -/
def openFrame (s : State) : State :=
  let free : Bool := !s.tick.everTicked && rd s Reg.TICK_ROLE != 1
  let s := wr s Reg.TICK_FRAME_LO (match s.tick.startFrame with | some n => n | none => frameNo s + 1)
  let slots := rd s Reg.TICK_FRAME_SLOTS
  let len := if free then slots else rd s Reg.TICK_LEN_NEXT
  let base := if free then slots else s.tick.nextBase
  let old := rd s Reg.TICK_BASE
  let s := if free then wr s Reg.TICK_LEN_NEXT slots else wr s Reg.TICK_BASE base
  let s := wr s Reg.TICK_STRETCH (len - base)
  let s := { s with tick := { s.tick with
    len := len, nextBase := base, startFrame := none, gotSymbol := false, one := [], counted := [], floorB := [], verdict := false } }
  if !free && old != base then stopAll s 0x0321 else s

/-- Diagnostics that DIAG_RUN started end, with a result that the spec leaves to the test (R467). -/
def diagDone (s : State) : State :=
  (s.kao.ops.filter (·.op == 0x0904)).foldl (fun s o =>
    let z := drawBytes 8 s
    outcome o.id 0x8011 255 (leBytes 4 o.id ++ leBytes 4 0 ++ z.1) [] z.2) s

/-- What waits for a tick switches: fences, groups, serving configurations, links and the slot map, pages. -/
def switchAtTick (s : State) : State :=
  let s := serveConfigs (switchGroups (applyFences s))
  let s := { s with fab := { s.fab with transit := s.fab.transit.filter (fun t => !t.released) } }
  let s := tierAtTick (linksAtTick (frameNo s) s)
  diagDone (completeWaiting .tick 0 (fun _ _ => []) s)

/-- The stop or pause that falls due for a partition. -/
def endJobs (s : State) (p : Nat) : State :=
  let q := part s p
  if !q.job.busy then s
  else match q.stopDue with
    | some st => stopNow p st s
    | none => if q.pauseDue then pauseNow p s else s

/-- The contexts of a partition at the opening of a frame: they begin the frame program where the job runs. At the barrier of
a replacement they issue nothing, and their part of the frame is complete. -/
def openContexts (s : State) (p : Nat) : State :=
  let q := part s p
  let st := match q.job with | .running => 1 | .stopped => 3 | _ => 0
  let idle := atBarrier s p
  q.quads.foldl (fun s G =>
    let s := modCtx s G (fun _ => { Ctx.fresh with atCommit := q.job == .running && idle })
    let s := wr (wr s (Reg.CTX_PC G) 0) (Reg.CTX_STATE G) st
    showCtx G ((List.range 16).foldl (fun s i => wr s (Reg.CTX_AC G i) 0) s)) s

/-- The entry of an ordered stop is placed in the plan of the frame that opens (Table 17-6). -/
def placeStop (s : State) (p : Nat) : State :=
  match (part s p).stopReq with
  | some r =>
    let now := r.mode % 2 == 0 || endsCheap s p || decide (r.limit ≤ frameNo s)
    if runs s p && now then modPart s p (fun q => { q with stopReq := some { r with placed := true } }) else s
  | none => s

/-- A partition whose start frame has come begins. -/
def startIfDue (s : State) (p : Nat) : State :=
  match (part s p).goFrame with
  | some f => if (part s p).job.busy ∧ f ≤ frameNo s then beginJob p s else checkGoAcks p s
  | none => s

/-- SERVICE is entered at the tick after its request (R535). -/
def enterService (s : State) : State :=
  if s.pwr.toService then
    let s := { s with pwr := { s.pwr with toService := false } }
    if pstate s = 6 then powerOutcome 0 (setPstate s 7) else s
  else s

/-- Edge rejects of the last second per neighbour (Table 2-12). -/
def showRejects (s : State) : State :=
  s.fab.rejects.foldl (fun s e => wr s (Reg.TICK_NBR_REJECT e.1) (min 255 (recentRejects s e.1).length)) s

/-- The master's part of a tick: a standby after a takeover (R31), and the symbol. TICK_SYNC_OUT goes high for one slot
(R33). -/
def driveTick (s : State) : State :=
  let s := if rd s Reg.TICK_ROLE = 1 then
      let s := if s.tick.takeoverAge.isSome then electStandby { s with tick := { s.tick with takeoverAge := none } } else s
      masterSymbol s
    else s
  if rdb s Reg.TICK_SYNC_OUT_EN then emit (emit s (.pin 3 true)) (.pin 3 false) else s

/-- The tick that closes a frame and opens the next. -/
def tick (us : List Upset) (s : State) : State :=
  let ps := List.range 32
  let s := expireAtTick (if s.tick.verdict then s else deadline s)
  let s := switchAtTick (openFrame (closeFrames (frameNo s) (passTime s)))
  let s := restoreWords (ps.foldl endJobs s)
  let s := ps.foldl startIfDue s
  let s := { s with coll := { s.coll with ops := [] }, arf := [], pwr := { s.pwr with floorTick := floorHolds s && !floorMayEnd s } }
  let s := ps.foldl placeStop (ps.foldl openContexts s)
  let s := ps.foldl (fun s p => stagePass p (frameNo s) s) (floorAtTick s)
  let s := enterService (retryStarts (showColl s))
  showRejects (driveTick (comparePass us s))

/-- TICK: `upsets` are the hardened words whose copies disagree at the compare pass. -/
def execTick (upsets : List Upset) (s : State) : Host.Outcome State Fault Refusal :=
  .next (if keepsFrames s then tick upsets s else s)

end Sys2Proof.Machine
end

