-- ==== Sys2Proof/Machine/Slots.lean ====
section
/-!
DEFINITION. Slots on the links (R26–R28, R35, R36, R263–R277): what a package sends in a slot, what it does with a slot that
arrives, the forwarding of scheduled slots and open packets, credits, acknowledgement and retry.
-/

namespace Sys2Proof.Machine

/-! ### The header (Table 11-5) -/

/-- What a slot carries in its scheduled part: flags, hop, route, ends, stream and payload. -/
structure Sent where
  empty : Bool
  lost : Bool
  hop : Nat
  route : List Nat
  slice : Nat
  src : Nat
  dest : Nat
  stream : Nat
  data : Bytes
  deriving DecidableEq, Repr

/-- Bytes 0–59 of a header; byte counts of the flits, and the link's own ACK, NAK and credits. -/
def slotHeader (s : State) (l i kind nflit : Nat) (x : Sent) : Bytes :=
  let k := linkX s l
  leBytes 2 (i + 4096 * kind + 16384 * bnat x.empty + 32768 * bnat x.lost) ++ leBytes 2 (frameNo s) ++ leBytes 1 nflit ++
    leBytes 1 (x.hop + 16 * x.route.length) ++ padTo 5 (joinBytes (x.route.map (leBytes 1))) ++ leBytes 1 x.slice ++
    leBytes 1 x.src ++ leBytes 1 x.dest ++ leBytes 2 x.stream ++ leBytes 2 k.rxSeq ++ leBytes 2 (bnat k.nak) ++
    joinBytes ((k.freed.map (· % 256)).map (leBytes 1)) ++ List.replicate 36 0

/-- Direction index of a bundle in the accounting (Table 17-13): the tray, +X, −X, +Y, −Y. -/
def accountDir (b : Nat) : Nat := if b < 8 then 0 else b - 7

/-- Fabric bytes of a partition on a bundle: sent at 0x70, received at 0x78 (R441, R517). -/
def fabricBytes (p b : Nat) (rx : Bool) (n : Nat) (s : State) : State :=
  if p < 32 then energy (account s p (0x70 + 16 * accountDir b + 8 * bnat rx) n) p (17 * n) else s

/-! ### Sending a scheduled slot (R269, R270, R328) -/

/-- A slot with nothing to send. -/
def Sent.nothing : Sent := ⟨true, false, 0, [], 255, 255, 255, 0, []⟩

/-- A marker in place of a slot that cannot be sent. -/
def Sent.marker : Sent := ⟨false, true, 0, [], 255, 255, 255, 0, []⟩

/-- A route entry of the running phase. -/
def inPhase (s : State) (p : Nat) (r : RouteEnt) : Bool := r.phase == 0xFFFF || r.phase == phaseOf s p

/-- The route entries of the running phase of a partition's image. -/
def routesNow (s : State) (p : Nat) : List RouteEnt :=
  match (part s p).image with
  | some im => (imageRoutes im).filter (inPhase s p)
  | none => []

/-- The scheduled transfer whose route names a position and slot. -/
def routeAt (s : State) (p b pos i : Nat) : Option RouteEnt :=
  (routesNow s p).find? (fun r => r.slot == i && r.route.headD 255 == 16 * b + pos)

/-- The number of a transfer within its stream: transfers in ascending order of departure slot. -/
def pieceIndex (s : State) (p : Nat) (r : RouteEnt) : Nat :=
  ((routesNow s p).filter (fun x => x.stream == r.stream && decide (x.slot < r.slot))).length

/-- A command that should have piece `j` of a stream ready and has not: it has not started and its context has not passed
it, or it has not reduced the piece. -/
def unready (s : State) (p stream j : Nat) : Option ColOp :=
  ((part s p).quads.map (fun G =>
    ((planNow s G).filter (fun e => e.streams.any (fun t => !t.recv && t.stream == stream))).filterMap (fun e =>
      let code := (match (part s p).image with
        | some im => (programOf im (ctxRank s G) (phaseOf s p)).getD e.pc 0
        | none => 0)
      let op : ColOp := { ColOp.none with G := G, op := code / 2 ^ 116 % 256, pc := e.pc, args := BitVec.ofNat 112 code, part := p }
      match opOfCmd s G e.pc with
      | none =>
        if (ctx s G).atCommit ∨ e.pc < rd s (Reg.CTX_PC G) then none
        else some { op with rank := rankIn s op.gid G }
      | some o =>
        if e.streams.any (fun t => !t.recv && t.stream == stream && t.phase == 1) && decide (j < ceilDiv o.blk 4096) then some o
        else none))).foldr (· ++ ·) [] |>.head?

/-- The slot of a route entry, with its payload. -/
def sentOf (s : State) (p : Nat) (r : RouteEnt) (data : Bytes) : Sent :=
  ⟨false, false, 0, r.route.take r.nhop, sliceOf s p, pkgId s, r.dest, r.stream, data⟩

/-- A slot of a route entry without payload. -/
def emptyOf (s : State) (p : Nat) (r : RouteEnt) : Sent := { sentOf s p r [] with empty := true }

/-- What a slot of use 0 carries: piece `j` of its stream. -/
def sendPiece (p j : Nat) (r : RouteEnt) (s : State) : Sent × State :=
  match s.fab.txPieces.find? (fun x => x.slice == sliceOf s p && x.stream == r.stream && x.idx == j) with
  | some x =>
    let s := { s with fab := { s.fab with txPieces := s.fab.txPieces.filter (· != x) } }
    let s := bump s Reg.COLL_PIECE_TX_CNT 1
    (match x.data with
     | some d => (sentOf s p r d, s)
     | none => (Sent.marker, s))
  | none =>
    if frameFailed s p && (part s p).floorFail then (emptyOf s p r, s)
    else match unready s p r.stream j with
      | some o => (Sent.marker, colLate o s)
      | none => (emptyOf s p r, s)

/-- What a slot of use 3 carries: piece `j` of the plan. -/
def sendPlan (p j : Nat) (r : RouteEnt) (s : State) : Sent × State :=
  if isLead s p && plansRun s p then
    (match planPiece p j s with
     | (some b, s) => (sentOf s p r b, s)
     | (none, s) => (emptyOf s p r, s))
  else (emptyOf s p r, s)

/-- What a slot of use 4 carries: piece `j` of a ship stream. -/
def sendShip (p j : Nat) (r : RouteEnt) (s : State) : Sent × State :=
  match shipPiece s p r.stream j with
  | none =>
    let a := match (frameShip s p r.stream)[j - 1]? with | some e => e.2.1.addr + 4096 * e.2.2 | none => 0
    (Sent.marker, memUe a 23 p false s)
  | some [] => (emptyOf s p r, s)
  | some b => (sentOf s p r b, bump s Reg.SRV_SHIP_PIECE_CNT 1)

/-- The contexts of a partition send nothing in this frame. -/
def silent (s : State) (p : Nat) : Bool := !runs s p || (s.pwr.floorTick && (part s p).floorFail)

/-- What this package sends as source in a slot of its slot map. -/
def sendSource (e : SlotEnt) (s : State) : Sent × State :=
  match partOfSlice s e.slice with
  | none => (Sent.nothing, s)
  | some p =>
    match routeAt s p e.bundle e.pos e.slot with
    | none => (Sent.nothing, s)
    | some r =>
      if silent s p || (atBarrier s p && e.use != 3) then (emptyOf s p r, s)
      else
        let j := pieceIndex s p r
        let z := if e.use = 3 then sendPlan p j r s else if e.use = 4 then sendShip p j r s else sendPiece p j r s
        (z.1, if z.1.empty || z.1.lost then z.2 else fabricBytes p e.bundle false 4096 z.2)

/-- What this package forwards in a transit slot: the slot that came in for it, with HOP incremented, else a marker. -/
def sendTransit (e : SlotEnt) (s : State) : Sent × State :=
  match s.fab.forwards.find? (fun f => f.bundle == e.bundle && f.pos == e.pos && f.slot == e.slot && f.rx.slice == e.slice) with
  | some f =>
    (⟨f.rx.empty, false, f.rx.hop + 1, f.rx.route.take f.rx.nhop, f.rx.slice, f.rx.src, f.rx.dest, f.rx.stream, f.rx.payload⟩,
     bump { s with fab := { s.fab with forwards := s.fab.forwards.filter (· != f) } } Reg.RTR_FWD_SCHED_CNT 1)
  | none => (Sent.marker, s)

/-- NAK has gone out. -/
def clearNak (l : Nat) (s : State) : State := modLink s l (fun x => { x with nak := false })

/-- Send a slot that the slot map marks SCHED. A package that has stopped scheduled traffic sends none (R32, R38). -/
def sendSched (l : Nat) (e : SlotEnt) (s : State) : State :=
  if s.tick.schedStopped then s
  else
    let z := if e.use = 2 then sendTransit e s else sendSource e s
    let x := z.1
    let s := bump z.2 (Reg.LINK_TX_SCHED_CNT l) 1
    let s := if x.lost then bump s Reg.RTR_STOMP_CNT 1 else s
    let bare := x.empty || x.lost
    clearNak l (emit s (.slot l e.slot 1 (slotHeader s l e.slot 1 (if bare then 0 else 16) x ++ (if bare then [] else padTo 4096 x.data))))

/-! ### Sending an open slot (R273, R274) -/

/-- Queue of a flit: VC0 REQ, VC0 RSP, VC1 REQ, VC1 RSP. -/
def flitQueue (f : Flit) : Nat := 2 * f.vc + bnat f.rsp

/-- The transmitter holds a credit for a queue: it has sent fewer than 128 flits that are not freed. -/
def hasCredit (x : LinkX) (q : Nat) : Bool := decide (subMod 8 (x.sentQ.getD q 0) (x.farFreed.getD q 0) < 128)

/-- A request waits in its queue for others to combine with (R305). -/
def heldFlit (s : State) (l : Nat) (f : Flit) : Bool :=
  f.type == 1 && !f.rsp && f.first && f.last &&
    (let q := decodeReq f.pay f.src f.spart
     s.rmt.window.contains (l, f.src, q.reqid, q.tag))

/-- The place of the next new flit: VC1 before VC0, RSP before REQ, the oldest of a queue that has a credit. -/
def nextFlit (s : State) (l : Nat) (x : LinkX) : Option Nat :=
  [3, 2, 1, 0].findSome? (fun q =>
    if hasCredit x q then
      (match findIdx? (fun f => flitQueue f == q) x.txq with
       | some i => if (x.txq[i]?).any (heldFlit s l) then none else some i
       | none => none)
    else none)

/-- Take up to `n` new flits into the retry buffer; it holds 1,024. -/
def takeFlits (s : State) (l : Nat) : Nat → LinkX → LinkX
  | 0, x => x
  | n + 1, x =>
    if 1024 ≤ x.retry.length then x
    else match nextFlit s l x with
      | none => x
      | some i =>
        match x.txq[i]? with
        | none => x
        | some f =>
          takeFlits s l n { x with
            txq := x.txq.eraseIdx i, retry := x.retry ++ [f], txSeq := (x.txSeq + 1) % 2 ^ 16,
            sentQ := (x.sentQ.zip (List.range 4)).map (fun e => if e.2 = flitQueue f then (e.1 + 1) % 256 else e.1) }

/-- A flit as it is sent (Table 11-7). -/
def flitBytes (f : Flit) : Bytes :=
  leBytes 1 (f.type + 16 * bnat f.rsp + 32 * f.vc) ++ leBytes 1 f.dest ++ leBytes 1 f.src ++ leBytes 1 f.spart ++
    leBytes 2 f.flow ++ leBytes 1 f.pay.length ++ leBytes 1 (bnat f.first + 2 * bnat f.last) ++ List.replicate 8 0 ++
    padTo 240 f.pay

/-- The fabric bytes of an open flit that leaves this package for a partition's request (R441). -/
def accountFlit (b : Nat) (s : State) (f : Flit) : State :=
  if f.type = 1 ∧ !f.rsp ∧ f.src = pkgId s then outside f.spart (fabricBytes f.spart b false f.pay.length) s else s

/-- Send an open slot: first the flits to resend, then new ones, at most 16. -/
def sendOpen (l i : Nat) (s : State) : State :=
  let x := linkX s l
  let seq := subMod 16 x.txSeq x.resend
  let old := (x.retry.drop (x.retry.length - x.resend)).take 16
  let room := if x.resend ≤ 16 then 16 - old.length else 0
  let y := takeFlits s l room { x with resend := x.resend - old.length }
  let new := y.retry.drop x.retry.length
  let s := modLink s l (fun _ => y)
  let s := if old.isEmpty then s else
    linkError (Reg.LINK_ERR_RETX l) 3 l 0 true (bump s (Reg.LINK_RETX_FLIT_CNT l) old.length)
  let s := if decide (1024 ≤ y.retry.length) && !y.txq.isEmpty then rtrEvent Reg.RTR_ERR_RETRY_FULL 6 l s else s
  let s := new.foldl (accountFlit (bundleOf s l)) (bump s (Reg.LINK_TX_OPEN_CNT l) (old.length + new.length))
  let h := { Sent.nothing with empty := false, slice := 0, src := 0, dest := 0, stream := seq }
  clearNak l (emit s (.slot l i 0 (slotHeader s l i 0 (old.length + new.length) h ++ joinBytes ((old ++ new).map flitBytes))))

/-- SLOT_SEND: this package sends slot `slot` on a link. -/
def execSlotSend (l slot : Nat) (s : State) : Host.Outcome State Fault Refusal :=
  if !isUp s l || decide (s.tick.len ≤ slot) then .next s
  else
    let s := slotBegins slot s
    match slotAt s false (bundleOf s l) (heldPos s l) slot with
    | some e => .next (sendSched l e s)
    | none => .next (sendOpen l slot s)

/-! ### Receiving -/

/-- How a slot fails (R35, R36, R264). -/
inductive SlotFault where
  /-- No marker. -/
  | absent
  /-- The marker came outside ±8 ns. -/
  | edge
  /-- The header or the trailer fails its CRC. -/
  | crc
  /-- The trailer is stomped. -/
  | stomped
  deriving DecidableEq, Repr

/-- What is wrong with a slot, none where it is accepted. Before its first tick a package has no time to expect a marker
at. -/
def slotFault (s : State) (x : SlotRx) : Option SlotFault :=
  match x.offset with
  | none => some .absent
  | some o =>
    if 64 < o.natAbs ∧ (s.tick.everTicked ∨ rd s Reg.TICK_ROLE = 1) then some .edge
    else if !x.headerOk then some .crc
    else if x.trailerOk then none
    else if x.stomped then some .stomped else some .crc

/-- A failing slot is counted. -/
def countFault (l : Nat) (f : SlotFault) (s : State) : State :=
  match f with
  | .absent => s
  | .edge => edgeReject l 1 s
  | .crc => linkError (Reg.LINK_ERR_SLOT_CRC l) 5 l 1 true (bump s (Reg.LINK_SLOT_CRC_CNT l) 1)
  | .stomped => linkError (Reg.LINK_ERR_STOMP_RX l) 6 l 1 true (bump s (Reg.LINK_STOMP_RX_CNT l) 1)

/-- The acknowledgement, NAK and credits of an accepted header. -/
def takeAck (l : Nat) (x : SlotRx) (s : State) : State :=
  modLink s l (fun k =>
    let oldest := subMod 16 k.txSeq k.retry.length
    let n := subMod 16 x.ackSeq oldest
    let k := if n ≤ k.retry.length then
        { k with retry := k.retry.drop n, resend := min k.resend (k.retry.length - n) } else k
    { k with farFreed := x.crd.map (· % 256), resend := if x.nak then k.retry.length else k.resend })

/-! ### A scheduled slot -/

/-- The header of a slot matches the slot map's entry. The stream of a transit slot is not in the entry's reach; that of a
shipment is (its slice is the sender's). -/
def schedMatches (e : SlotEnt) (x : SlotRx) : Bool :=
  x.kind == 1 && !x.lost && (e.use == 4 || x.slice == e.slice) && (e.use == 2 || x.stream == e.stream)

/-- A scheduled slot addressed to this package is lost (R36, R44). A ship stream fails its sender's frame. -/
def schedLost (l : Nat) (e : SlotEnt) (s : State) : State :=
  match partOfSlice s e.slice with
  | none => s
  | some p =>
    if e.use = 4 then (shipSources s p).foldl (fun s sl => sendAbort sl 0 s) s
    else failFrame p ⟨0x0560, false, 12, l⟩ s

/-- A piece of a receive stream: the j-th slot that carries it in the frame. -/
def addPiece (e : SlotEnt) (empty : Bool) (data : Option Bytes) (s : State) : Nat × State :=
  let j := (s.fab.rxPieces.filter (fun x => x.slice == e.slice && x.stream == e.stream)).length
  (j, { s with fab := { s.fab with rxPieces := s.fab.rxPieces ++ [⟨e.slice, e.stream, j, empty, data⟩] } })

/-- A scheduled slot arrives for a partition of this package: none is a lost one. -/
def schedArrives (l : Nat) (e : SlotEnt) (x : Option SlotRx) (s : State) : State :=
  match partOfSlice s e.slice with
  | none => s
  | some p =>
    if !runs s p then s
    else
      let empty := match x with | some r => r.empty | none => false
      let data := match x with | some r => if r.empty then none else some r.payload | none => none
      let z := addPiece e empty data s
      let s := match data with | some _ => fabricBytes p (bundleOf s l) true 4096 z.2 | none => z.2
      let s := if x.isNone then schedLost l e s else s
      if e.use = 4 then
        (match x, data with
         | some r, some b =>
           let m := match s.fab.rxPieces.find? (fun k => k.slice == e.slice && k.stream == e.stream && k.idx == 0) with
             | some k => k.data.getD []
             | none => []
           shipArrive p r.slice m z.1 b s
         | _, _ => s)
      else if e.use = 1 then colAdvance s
      else s

/-- A transit slot is forwarded two slots later on the position that its route names next, where the slot map reserves that
slot for its slice (R269, R270). -/
def forward (x : SlotRx) (s : State) : State :=
  let h := x.route.getD (x.hop + 1) 255
  match slotAt s false (h / 16) (h % 16) (x.slot + 2) with
  | some e =>
    if decide (x.hop + 1 < x.nhop) && e.use == 2 && e.slice == x.slice then
      { s with fab := { s.fab with forwards := s.fab.forwards ++ [⟨h / 16, h % 16, x.slot + 2, x⟩] } }
    else rtrEvent Reg.RTR_ERR_ROUTE_ERR 3 0 (bump s Reg.RTR_ROUTE_ERR_CNT 1)
  | none => rtrEvent Reg.RTR_ERR_ROUTE_ERR 3 0 (bump s Reg.RTR_ROUTE_ERR_CNT 1)

/-- What a SCHED ingress slot does: `ok` where it was accepted. -/
def receiveSched (l : Nat) (e : SlotEnt) (ok : Bool) (x : SlotRx) (s : State) : State :=
  let good := ok && schedMatches e x
  let s := if ok && !good && !x.lost then rtrEvent Reg.RTR_ERR_ROUTE_ERR 3 l (bump s Reg.RTR_ROUTE_ERR_CNT 1) else s
  if e.use = 2 then (if good then forward x s else s)
  else schedArrives l e (if good then some x else none) s

/-! ### Open flits (R272–R275) -/

/-- A packet for this package: to Kaolin's ring, to the home's input, or to a requester. Fabric bytes of a response are its
requester's. -/
def takeOwn (b : Nat) (f : Flit) (pay : Bytes) (s : State) : State :=
  if f.type = 2 then { s with fab := { s.fab with ring := s.fab.ring ++ [⟨2, f.rsp, f.src, f.spart, pay⟩] } }
  else if f.type ≠ 1 then s
  else if f.rsp then
    outside f.spart (fabricBytes f.spart b true pay.length)
      { s with fab := { s.fab with packets := s.fab.packets ++ [⟨1, true, f.src, f.spart, pay⟩] } }
  else homeInput (decodeReq pay f.src f.spart) s

/-- A packet for another package goes on along its route; with none it is dropped. -/
def passOn (b : Nat) (f : Flit) (n : Nat) (pay : Bytes) (s : State) : State :=
  match egressLink s f.dest f.flow (some (b, f.vc)) with
  | some (l, vc) =>
    let s := bump s Reg.RTR_FWD_OPEN_CNT n
    if f.type = 1 ∧ !f.rsp then queueReq l vc f.dest (decodeReq pay f.src f.spart) s
    else modLink s l (fun x => { x with txq := x.txq ++ flitsOf f.type f.rsp vc f.dest f.src f.spart f.flow pay })
  | none => s

/-- One flit in sequence: the packet that it ends leaves its queue. -/
def takeFlit (l : Nat) (s : State) (f : Flit) : State :=
  let x := linkX s l
  let q := flitQueue f
  let mine := x.partial_.filter (fun g => flitQueue g == q) ++ [f]
  if !f.last then modLink s l (fun x => { x with rxSeq := (x.rxSeq + 1) % 2 ^ 16, partial_ := x.partial_ ++ [f] })
  else
    let s := modLink s l (fun x => { x with
      rxSeq := (x.rxSeq + 1) % 2 ^ 16, partial_ := x.partial_.filter (fun g => flitQueue g != q),
      freed := (x.freed.zip (List.range 4)).map (fun e => if e.2 = q then (e.1 + mine.length) % 256 else e.1) })
    let pay := joinBytes (mine.map (·.pay))
    let b := bundleOf s l
    if f.dest = pkgId s then takeOwn b f pay s else passOn b f mine.length pay s

/-- The flits of an open slot: taken where the slot is accepted and starts at the expected sequence number, else NAK. -/
def receiveOpen (l : Nat) (ok : Bool) (x : SlotRx) (s : State) : State :=
  if ok && x.kind == 0 && (x.flits.isEmpty || x.stream == (linkX s l).rxSeq) then (x.flits.take 16).foldl (takeFlit l) s
  else modLink s l (fun k => { k with nak := true })

/-- SLOT_RECEIVE: a slot comes in, or its time passes without a marker. -/
def execSlotReceive (l : Nat) (rx : SlotRx) (s : State) : Host.Outcome State Fault Refusal :=
  if !isUp s l || decide (s.tick.len ≤ rx.slot) then .next s
  else
    let s := slotBegins rx.slot s
    let e := slotAt s true (bundleOf s l) (heldPos s l) rx.slot
    let f := slotFault s rx
    let s := match f with | some k => countFault l k s | none => takeAck l rx s
    match e with
    | some e => .next (receiveSched l e f.isNone rx s)
    | none => .next (receiveOpen l f.isNone rx s)

/-- OPEN_RETRY_TIMEOUT: 32 slots have passed with unacknowledged flits and no advance of ACK_SEQ. -/
def execOpenRetryTimeout (l : Nat) (s : State) : Host.Outcome State Fault Refusal :=
  .next (if isUp s l then modLink s l (fun x => { x with resend := x.retry.length }) else s)

end Sys2Proof.Machine
end

