-- ==== Sys2Proof/Machine/Startup.lean ====
section
/-!
DEFINITION. Start-up and shutdown (chapter 21, R566–R568, R574): the stages of the up sequence, boot, the down sequence, the
pins PWR_EN and RESET_N, the Caliche supply, DEV_SET_POWER_STATE, the rails, and the thermal trip.
-/

namespace Sys2Proof.Machine

/-! ### What the package keeps without its hub (R482, R526, R529, R530) -/

/-- Firmware slot `i` of the boot flash: 0 A, 1 B, 2 the Caliche image. -/
def fwSlot (s : State) (i : Nat) : FwImage := tget FwImage.none s.hif.slots i

/-- Registers that the Caliche supply keeps while the hub is off: the CALICHE block, the sequencer, the levels of the pins
and the management port. -/
def calKeeps (k : Nat) : Bool :=
  let o := k / 32
  (decide (0x900000 ≤ o) && decide (o < 0xA00000)) || (decide (0x800600 ≤ o) && decide (o < 0x800700)) ||
    (decide (0xA00030 ≤ o) && decide (o < 0xA00040)) || k == Reg.PWR_VR_PIN.key

/-- Registers that RESET_N leaves: of the sequencer, what fuses, the flash and Caliche's power-up give. -/
def resetKeeps (k : Nat) : Bool :=
  calKeeps k && (decide (k / 32 < 0x800600) || decide (0x800700 ≤ k / 32) ||
    k == Reg.SEQ_ROLLBACK.key || k == Reg.SEQ_ACTIVE_SLOT.key || k == Reg.SEQ_STAGE_FAIL_CNT.key ||
    k == Reg.SEQ_HUB_UP_CNT.key)

/-- Registers that outlast the Caliche supply: fuses and the boot flash. -/
def offKeeps (k : Nat) : Bool := k == Reg.SEQ_ROLLBACK.key || k == Reg.SEQ_ACTIVE_SLOT.key

/-- Sessions on NVMe drives: what a catalog can be rebuilt from (R378). -/
def driveSessions (s : State) : Serving :=
  { Serving.reset with images := s.srv.images.filter (fun g => g.medium != 0 && g.state == 2),
                       segments := s.srv.segments.filter (fun g => g.medium != 0),
                       nextImage := s.srv.nextImage }

/-- The package with its hub off: everything at its reset value but what is kept. -/
def dark (keeps : Nat → Bool) (s : State) : State :=
  let t : State := { State.reset with
    pending := s.pending, freeCtr := s.freeCtr, out := s.out,
    regs := s.regs.filter (fun e => keeps e.1),
    hif := { HostIf.reset with slots := s.hif.slots, running := s.hif.running, eid := s.hif.eid, dynAddr := s.hif.dynAddr,
                               jtagIr := s.hif.jtagIr, chain := s.hif.chain, boundary := s.hif.boundary, meas5 := s.hif.meas5 },
    cal := s.cal,
    pwr := { Power.reset with
      fallowFrames := s.pwr.fallowFrames, resetLow := s.pwr.resetLow, powerOp := s.pwr.powerOp,
      nextTarget := s.pwr.nextTarget, readyRuns := s.pwr.readyRuns, readySeen := s.pwr.readySeen,
      refLost := s.pwr.refLost, pinRise := s.pwr.pinRise, tripped := s.pwr.tripped, calSupply := s.pwr.calSupply },
    kao := { Kaolin.reset with nextOp := s.kao.nextOp, ops := s.kao.ops.filter (·.op == 0x0103), kept := s.kao.kept,
                               subs := s.kao.subs, seq := s.kao.seq },
    srv := driveSessions s }
  setPstate t 1

/-! ### Rails and domains (Tables 21-2, 21-3) -/

/-- Switch rails in order. -/
def rails (l : List Nat) (on : Bool) (s : State) : State := l.foldl (fun s r => emit s (.rail r on)) s

/-- Rails of a stage, in the order of its up steps. -/
def stageRails : Nat → List Nat
  | 2 => [7, 0, 3]
  | 3 => [5, 4, 1, 2, 6]
  | _ => []

/-- Domains of a stage. -/
def stageDomains : Nat → List Nat
  | 2 => [63, 69, 70, 71]
  | 3 => List.range 60 ++ [64, 65, 66, 67, 68]
  | _ => [60, 61, 62]

/-- Domains go to a state at once, with any ramp of theirs over. -/
def putDomains (l : List Nat) (v : Nat) (s : State) : State :=
  l.foldl (fun s d => wr s (Reg.PWR_DOMAIN d) v)
    { s with pwr := { s.pwr with ramps := s.pwr.ramps.filter (fun r => !l.contains r.1) } }

/-- A link goes to OFF or DOWN. -/
def quietLink (v l : Nat) (s : State) : State :=
  wr (wr (wr (wr s (Reg.LINK_STATE l) v) (Reg.LINK_LANE0_LOCK l) 0) (Reg.LINK_LANE1_LOCK l) 0) (Reg.LINK_ROLE l) 0

/-! ### The down sequence (R528, R530, R531) -/

/-- A package that leaves READY or TOPO_CHECK follows no master and sends no tick symbol. -/
def leaveTick (s : State) : State :=
  let s := wr (wr (wr (wr s Reg.TICK_ROLE 0) Reg.TICK_LOCKED 0) Reg.TICK_HOLDOVER 0) Reg.TICK_MASTER_ID 255
  { (wr s Reg.TICK_STANDBY_ID 255) with tick := { s.tick with candidate := false, heard := [], mapChecked := false, startFrame := none } }

/-- The links leave service, as by LINK_CTRL.OUT. -/
def leaveLinks (s : State) : State := (upLinks s).foldl (fun s l => leaveService l 7 (effectiveNow s) s) s

/-- The link dies LD0–LD2 go off; LD3 keeps its power, and its fabric links rest in DOWN. -/
def fabricOff (s : State) : State :=
  let s := (List.range 3).foldl (fun s n => wr s (Reg.LD_POWERED n) 0) (putDomains (stageDomains 4) 0 s)
  (List.range 96).foldl (fun s l => quietLink (if l < 84 then 0 else 1) l s) s

/-- What the package loses below STACKS_UP: jobs and partitions end, memory and tier 2 go, and with them the fallow store
and its catalog. -/
def stacksOff (s : State) : State :=
  let s := s.srv.sessOps.foldl (fun s o => endOp o 0x0582 0 s) s
  let s := (List.range 32).foldl (fun s p => if (part s p).present then destroyPart p s else s) s
  let s := rails [6, 2, 1, 4, 5] false (putDomains (stageDomains 3) 0 s)
  let s := (List.range 32).foldl (fun s c => wr s (Reg.TIER_CH_TRAINED c) 0) s
  { s with mem := [], bad := [], arf := [], tier := TierUnit.reset, srv := driveSessions s }

/-- Commands and operations in flight are interrupted when Kaolin stops; the power request lives on in Caliche. -/
def kaolinStops (s : State) : State :=
  let mine := s.kao.ops.filter (·.op == 0x0103)
  let s := interruptAll { s with kao := { s.kao with ops := s.kao.ops.filter (·.op != 0x0103) } }
  { s with kao := { s.kao with ops := mine } }

/-- The hub goes off: PGOOD low first, the rails last. -/
def hubOff (s : State) : State :=
  dark calKeeps (rails [3, 0, 7] false (kaolinStops (emit s (.pin 1 false))))

/-- What the step that leaves the state in force does first. -/
def downStart (s : State) : State :=
  match pstate s with
  | 6 => leaveTick s
  | 5 => leaveTick s
  | 4 => leaveLinks s
  | _ => s

/-- The down sequence has reached its target. -/
def downArrives (s : State) : State := powerOutcome 0 (wr (wr s Reg.SEQ_DOWN 0) Reg.SEQ_FORCED 0)

/-- An interrupted stage is undone: the package is back in the state below it. -/
def leaveStage (s : State) : State :=
  match s.pwr.stage with
  | none => s
  | some n =>
    let s := { s with pwr := { s.pwr with stage := none } }
    if n = 4 then fabricOff (leaveLinks s)
    else if n = 3 then rails (stageRails 3).reverse false s
    else rails (stageRails 2).reverse false s

/-- The down sequence begins. SERVICE is left at once. -/
def beginDown (target : Nat) (forced : Bool) (s : State) : State :=
  let s := leaveStage { s with pwr := { s.pwr with toService := false } }
  let s := wrb (wr (wr s Reg.SEQ_TARGET target) Reg.SEQ_DOWN 1) Reg.SEQ_FORCED forced
  let s := if pstate s = 7 then setPstate s 6 else s
  if pstate s ≤ target then downArrives s else downStart s

/-! ### The up sequence (R524) -/

/-- A stage fails (R528): the FATAL record, the event, the report, and the way down to STANDBY. A rail fault names its
rail. -/
def stageFail (st rail : Nat) (s : State) : State :=
  let s := report { mkRec s 15 0 3 8 0x1220 24 255 0 st 0 [] with rail := rail } false s
  let s := pwrEvent Reg.SEQ_EV_STAGE_FAIL 0x20 (wr (bump s Reg.SEQ_STAGE_FAIL_CNT 1) Reg.SEQ_LAST_FAIL st)
  beginDown 1 false (powerOutcome st s)

/-- The fabric links begin to train. -/
def trainFabric (s : State) : State :=
  let s := (List.range 3).foldl (fun s n =>
    wrb (wr s (Reg.LD_POWERED n) 1) (Reg.LD_REFCLK_LOCK n) (!s.pwr.refLost.contains n)) (putDomains (stageDomains 4) 2 s)
  (List.range 96).foldl (fun s l =>
    let s := quietLink 1 l s
    if dieReady s l && !rdb s (Reg.LINK_CTRL_DISABLE l) && !inFenceTable s 12 l then startTrain l s else s) s

/-- Some DRAM sensor reads below 0 °C (R574). -/
def dramCold (s : State) : Bool := (List.range 144).any (fun i => decide (temp s (56 + i) < 0))

/-- The stage above the state in force begins. READY is entered by TICK_LOCKED, SERVICE by a tick. -/
def beginStage (s : State) : State :=
  match pstate s with
  | 1 => rails (stageRails 2) true { s with pwr := { s.pwr with stage := some 2 } }
  | 2 =>
    if dramCold s then stageFail 0x05C3 255 s
    else rails (stageRails 3) true { s with pwr := { s.pwr with stage := some 3 } }
  | 3 => trainFabric { s with pwr := { s.pwr with stage := some 4 } }
  | 4 => enterTopo s
  | 6 => { (fixedFrequency s) with pwr := { s.pwr with toService := true, boost := 0 } }
  | _ => s

/-- A stage is reached: the next one begins where the target lies above it. -/
def reached (n : Nat) (s : State) : State :=
  let s := setPstate { s with pwr := { s.pwr with stage := none } } n
  if rd s Reg.SEQ_TARGET ≤ n then powerOutcome 0 s else beginStage s

/-- A request for a power state (R523, R531). -/
def onRequest (t : Nat) (s : State) : State :=
  let reversal := pwrEvent Reg.SEQ_EV_REVERSAL 0x22
  if rdb s Reg.SEQ_DOWN then
    if t ≤ rd s Reg.SEQ_TARGET then wr { s with pwr := { s.pwr with nextTarget := none } } Reg.SEQ_TARGET t
    else reversal { s with pwr := { s.pwr with nextTarget := some t } }
  else match s.pwr.stage with
    | some k => if k ≤ t then wr s Reg.SEQ_TARGET t else beginDown t false (reversal s)
    | none =>
      if t < pstate s then beginDown t false s
      else
        let s := wr s Reg.SEQ_TARGET t
        if t = pstate s then powerOutcome 0 s else beginStage s

/-! ### Boot (R526, R527, R555) -/

/-- An image that the boot ROM runs. -/
def bootable (s : State) (f : FwImage) : Bool := f.signed && decide (rd s Reg.SEQ_ROLLBACK ≤ f.security)

/-- The slot that the boot ROM runs: the active one first. -/
def bootSlot (s : State) : Option Nat :=
  let a := rd s Reg.SEQ_ACTIVE_SLOT
  [a, 1 - a].find? (fun i => bootable s (fwSlot s i))

/-- The hub comes up with the image of slot `i`, under the sampled straps. -/
def hubUp (i strap : Nat) (s : State) : State :=
  let f := fwSlot s i
  let s := bump s Reg.SEQ_HUB_UP_CNT 1
  let s := if s.cal.strapped && rd s Reg.HIF_PIN_STRAP_ID != strap then hifEvent Reg.HIF_EV_STRAP_CHANGE 9 s else s
  let s := wr (wr s Reg.HIF_PIN_STRAP_ID strap) Reg.KAO_PKG_ID strap
  let same := s.pwr.readySeen && s.hif.running == f
  let s := { s with cal := { s.cal with strapped := true }, hif := { s.hif with running := f },
                    pwr := { s.pwr with readyRuns := if same then s.pwr.readyRuns else 0, readySeen := false } }
  let s := wr (wr (wr s Reg.KAO_FW_VERSION f.version) Reg.KAO_FW_READY 1) Reg.SEQ_RUNNING_SLOT i
  let s := if i = rd s Reg.SEQ_ACTIVE_SLOT then s else pwrEvent Reg.SEQ_EV_BOOT_FALLBACK 0x24 s
  let s := putDomains (stageDomains 2) 2 (wr s Reg.CRY_KAT_PASS 1)
  let s := wrb (wr s (Reg.LD_POWERED 3) 1) (Reg.LD_REFCLK_LOCK 3) (!s.pwr.refLost.contains 3)
  let s := (List.range 12).foldl (fun s j => quietLink 1 (84 + j) s) s
  let s := (List.range 4).foldl (fun s n => wr s (Reg.HIF_LTSSM n) 1) s
  rebuildCatalog (emit s (.pin 1 true))

/-- The exit of HUB_UP. -/
def exitHub (strap : Nat) (s : State) : State :=
  if strap = 255 then stageFail 0x05C3 255 s
  else match bootSlot s with
    | none => stageFail 0x04C0 255 s
    | some i => reached 2 (hubUp i strap s)

/-- The exit of STACKS_UP: self-tests, zeroed memory, trained channels, FALLOW_FRAMES, and automatic gating of what no
partition owns. A unit that failed its self-test has a LASTING record. -/
def exitStacks (failed : List (Nat × Nat)) (untrained : List Nat) (s : State) : State :=
  let s := { s with mem := [], bad := [], arf := [], tier := TierUnit.reset }
  let s := putDomains (stageDomains 3) 2 s
  let s := (List.range 32).foldl (fun s c => wrb s (Reg.TIER_CH_TRAINED c) (!untrained.contains c)) s
  let s := refreshTier 0 (wr s Reg.TIER_FALLOW_FRAMES s.pwr.fallowFrames)
  let s := (failed ++ untrained.map (fun c => (11, c))).foldl
    (fun s (u : Nat × Nat) => report (mkRec s u.1 u.2 2 9 0x1220 24 255 0 0 0 []) false s) s
  let s := if untrained.isEmpty then s else fenceTier2 s
  let s := if rdb s Reg.PWR_AUTO_GATE then putDomains (List.range 60 ++ [64, 65, 66, 67]) 0 s else s
  reached 3 s

/-- LINKS_TRAIN ends: TOPO_CHECK follows where the target lies above. -/
def exitTrain (s : State) : State := reached 4 s

/-- POWER_STAGE_EXIT: the exit condition of the running stage holds. `strap` is 8 × TRAY_ID + POS_ID; `failed` are units
that failed their self-test, `untrained` channels that failed their training. -/
def execPowerStageExit (strap : Nat) (failed : List (Nat × Nat)) (untrained : List Nat) (s : State) :
    Host.Outcome State Fault Refusal :=
  match s.pwr.stage with
  | some 2 => .next (exitHub (strap % 256) s)
  | some 3 => .next (exitStacks failed untrained s)
  | some 4 => .next (if (List.range 96).all (isUp s) then exitTrain s else s)
  | _ => .next s

/-- TRAIN_WAIT_EXPIRY: links still training carry on. -/
def execTrainWaitExpiry (s : State) : Host.Outcome State Fault Refusal :=
  .next (if s.pwr.stage = some 4 then exitTrain s else s)

/-- POWER_STAGE_TIMEOUT: the running stage misses its limit, or rail `rail` faults (R528); 255 names no rail. -/
def execPowerStageTimeout (rail : Nat) (s : State) : Host.Outcome State Fault Refusal :=
  .next (if s.pwr.stage.isSome then stageFail 0x05C3 rail s else s)

/-- One step down from the present state (R530). -/
def downStep (s : State) : State :=
  match pstate s with
  | 6 => setPstate s 5
  | 5 => setPstate s 4
  | 4 => setPstate (fabricOff s) 3
  | 3 => setPstate (stacksOff s) 2
  | 2 => hubOff s
  | _ => setPstate (wr { s with pwr := { s.pwr with tripped := false } } Reg.HIF_PIN_THERMTRIP_N 1) 0

/-- DOWN_STEP_DONE: the step ends, and the next lower state is reached. Jobs that the request stops do so at the next tick,
before any step ends. An on request that came meanwhile starts the up sequence at the target. -/
def execDownStepDone (s : State) : Host.Outcome State Fault Refusal :=
  if !rdb s Reg.SEQ_DOWN || anyJob s || frozen s then .next s
  else
    let s := downStep s
    if rd s Reg.SEQ_TARGET < pstate s then .next (downStart s)
    else
      let s := mapCheck (downArrives s)
      match s.pwr.nextTarget with
      | some t =>
        let s := { s with pwr := { s.pwr with nextTarget := none } }
        .next (if pstate s = 0 ∨ !rdb s Reg.HIF_PIN_PWR_EN then s else onRequest t s)
      | none => .next s

/-! ### PWR_EN, RESET_N and the Caliche supply (R523, R528, R529, R566) -/

/-- Target of an on request by pin. -/
def autoTarget (s : State) : Nat :=
  let t := rd s Reg.SEQ_AUTO_TARGET
  if 2 ≤ t ∧ t ≤ 6 then t else 6

/-- Another request takes the place of a pending DEV_SET_POWER_STATE. -/
def replaceRequest (s : State) : State := powerOutcome 0x03C4 s

/-- PWR_EN is high: an on request, where the package is not already there. -/
def powerOn (s : State) : State :=
  let t := autoTarget s
  if pstate s = 0 ∨ s.pwr.resetLow then s
  else if !rdb s Reg.SEQ_DOWN ∧ t ≤ pstate s then s
  else onRequest t (replaceRequest s)

/-- PWR_EN_RISE. -/
def execPwrEnRise (s : State) : Host.Outcome State Fault Refusal :=
  .next (if s.pwr.calSupply then powerOn (wr s Reg.HIF_PIN_PWR_EN 1) else s)

/-- A forced off request with a stop status (R528). -/
def forcedOff (st : Nat) (s : State) : State :=
  if pstate s < 2 ∧ s.pwr.stage = none then s
  else
    let s := stopAll s st
    let s := (s.srv.images.filter (fun g => g.state == 1)).foldl (fun s g => failImage g.id 0x0582 s) s
    let s := { s with pwr := { s.pwr with nextTarget := none } }
    let s := pwrEvent Reg.SEQ_EV_FORCED_DOWN 0x21 (replaceRequest s)
    if rdb s Reg.SEQ_DOWN then wr (wr s Reg.SEQ_FORCED 1) Reg.SEQ_TARGET (min 1 (rd s Reg.SEQ_TARGET)) else beginDown 1 true s

/-- PWR_EN_FALL. -/
def execPwrEnFall (s : State) : Host.Outcome State Fault Refusal :=
  .next (if s.pwr.calSupply then forcedOff 0x05C4 (wr s Reg.HIF_PIN_PWR_EN 0) else s)

/-- RESET_N_ASSERT: every rail off at once, in the reverse of the order they came on; the package rests in STANDBY. -/
def execResetNAssert (s : State) : Host.Outcome State Fault Refusal :=
  if !s.pwr.calSupply ∨ pstate s = 0 then .next s
  else
    let s := rails [6, 2, 1, 4, 5, 3, 0, 7] false (emit s (.pin 1 false))
    let s := dark resetKeeps { s with pwr := { s.pwr with powerOp := none, nextTarget := none, tripped := false } }
    let s := wr { s with kao := { s.kao with ops := [] }, hif := { s.hif with meas5 := 0 } } Reg.HIF_PIN_THERMTRIP_N 1
    .next { s with pwr := { s.pwr with resetLow := true } }

/-- RESET_N_RELEASE. -/
def execResetNRelease (s : State) : Host.Outcome State Fault Refusal :=
  if !s.pwr.calSupply ∨ !s.pwr.resetLow then .next s
  else
    let s := { s with pwr := { s.pwr with resetLow := false } }
    .next (if rdb s Reg.HIF_PIN_PWR_EN then powerOn s else s)

/-- OFF: all that is left lies in fuses, in the boot flash and on the drives. -/
def offState (s : State) : State :=
  let t := dark offKeeps { s with pwr := { s.pwr with powerOp := none, nextTarget := none, fallowFrames := 0, refLost := [] } }
  let t := { t with kao := Kaolin.reset, cal := Caliche.reset, hif := { HostIf.reset with slots := s.hif.slots },
                    pwr := { t.pwr with resetLow := false, tripped := false, pinRise := [], calSupply := false } }
  setPstate t 0

/-- CALICHE_SUPPLY_ON: Caliche starts, and the package rests in STANDBY. PWR_EN that is already high counts as a rising
edge (R566). -/
def execCalicheSupplyOn (pwrEn : Bool) (s : State) : Host.Outcome State Fault Refusal :=
  if s.pwr.calSupply then .next s
  else
    let s := offState s
    let s := setPstate { s with pwr := { s.pwr with calSupply := true } } 1
    let s := wr (wr (wr s Reg.CAL_RUNNING 1) Reg.CAL_LOCKSTEP_OK 1) Reg.CAL_XTAL_OK 1
    let s := wr s Reg.CAL_FW_VERSION (fwSlot s 2).version
    let mac : Bytes := 2 :: (leBytes 8 Config.serial.toNat).drop 3
    let s := wr (wr s Reg.HIF_MAC_HI (numAt mac 0 2)) Reg.HIF_MAC_LO (numAt mac 2 4)
    .next (if pwrEn then powerOn (wr s Reg.HIF_PIN_PWR_EN 1) else s)

/-- CALICHE_SUPPLY_OFF. -/
def execCalicheSupplyOff (s : State) : Host.Outcome State Fault Refusal := .next (offState s)

/-! ### DEV_SET_POWER_STATE (R523, R235, R535) -/

/-- FALLOW_FRAMES may become `n` at once (R235). -/
def fallowMovable (s : State) (n : Nat) : Bool :=
  let a := poolFrames s
  let b := 261120 - n
  s.srv.segments.all (·.medium != 0) && s.tier.t2Used.all (fun f => decide (f < min a b) || decide (max a b ≤ f))

/-- Set FALLOW_FRAMES. -/
def setFallow (n : Nat) (s : State) : State :=
  let s := { s with pwr := { s.pwr with fallowFrames := n } }
  if 3 ≤ pstate s then refreshTier 0 (wr s Reg.TIER_FALLOW_FRAMES n) else s

/-- DEV_SET_POWER_STATE. -/
def cmdDevSetPowerState (e : Entry) (_ : HostIo) (s : State) : CmdOut :=
  let t := arg e 8 1
  let ff := arg e 12 4
  let n := if ff = 0xFFFFFFFF then s.pwr.fallowFrames else ff
  if 7 < t ∨ 261120 < n then refuseCmd 0x0102 s
  else if 1 < t && !rdb s Reg.HIF_PIN_PWR_EN then refuseCmd 0x0300 s
  else if t < 7 && anyJob s then refuseCmd 0x0301 s
  else if 3 ≤ pstate s && n != s.pwr.fallowFrames && !fallowMovable s n then refuseCmd 0x0301 s
  else if t = 7 && pstate s != 7 && rd s Reg.RTR_MAP_KIND == 2 then refuseCmd 0x0360 s
  else if t = 7 && pstate s != 7 && !(pstate s == 6 && rd s Reg.RTR_MAP_KIND == 1 && rdb s Reg.RTR_VERIFIED && rdb s Reg.TICK_LOCKED &&
      !rdb s Reg.SEQ_DOWN) then refuseCmd 0x0300 s
  else
    let z := newOp 0x0103 e 255 (setFallow n s)
    let s := replaceRequest z.2
    pendCmd z.1 [] (onRequest t { s with pwr := { s.pwr with powerOp := some z.1 } })

/-- DEV_SET_POWER_STATE. -/
def execDevSetPowerState (e : Entry) (io : HostIo) (s : State) : Host.Outcome State Fault Refusal :=
  runRow Row.devSetPowerState cmdDevSetPowerState e io s

/-! ### READY (R526, R534) -/

/-- Kaolin raises the anti-rollback counter at an entry into READY, where everything of R526 holds. -/
def raiseRollback (s : State) : State :=
  let v := s.hif.running.security
  if s.hif.running.rollbackCommit && rd s Reg.SEQ_RUNNING_SLOT == rd s Reg.SEQ_ACTIVE_SLOT && !rdb s Reg.SEQ_EV_BOOT_FALLBACK &&
      decide (3 ≤ s.pwr.readyRuns) && decide (rd s Reg.SEQ_ROLLBACK < v) && decide (v ≤ 64) &&
      decide (v ≤ (fwSlot s 2).security) then wr s Reg.SEQ_ROLLBACK v
  else s

/-- READY is entered; each HUB_UP counts once. -/
def enterReady (s : State) : State :=
  let s := if s.pwr.readySeen then s
    else { s with pwr := { s.pwr with readySeen := true, readyRuns := s.pwr.readyRuns + 1 } }
  let s := raiseRollback (setPstate s 6)
  if rd s Reg.SEQ_TARGET ≤ 6 then powerOutcome 0 s else s

/-- TICK_LOCKED: the tick timer has been locked for 1 s. -/
def execTickLocked (s : State) : Host.Outcome State Fault Refusal :=
  if rd s Reg.TICK_ROLE = 0 ∨ frozen s then .next s
  else
    let s := wr s Reg.TICK_LOCKED 1
    .next (if pstate s = 5 ∧ !rdb s Reg.SEQ_DOWN ∧ 6 ≤ rd s Reg.SEQ_TARGET then enterReady s else s)

/-! ### Rails, references and temperatures in operation (R505, R513–R515, R553, R568) -/

/-- A regulator that does not answer counts as a rail fault: it fails the running stage, and above it leaves a TRANSIENT
record (R553). -/
def railFault (r : Nat) (s : State) : State :=
  if s.pwr.stage.isSome then stageFail 0x05C3 r s
  else if 2 ≤ pstate s then report { mkRec s 15 0 1 8 0x1200 24 255 0 0 0 [] with rail := r } false s
  else s

/-- PMBUS_SAMPLE: what the poll of the eight regulators read. -/
def execPmbusSample (reads : List RailRead) (s : State) : Host.Outcome State Fault Refusal :=
  if !calAlive s ∨ pstate s = 0 then .next s
  else
    let xs := (reads ++ List.replicate 8 none).take 8
    let s := (xs.zip (List.range 8)).foldl (fun s x => railSample x.2 x.1 s) s
    let mw := packageMw xs
    let s := wr s Reg.PWR_PEAK_MW (max mw (rd s Reg.PWR_PEAK_MW))
    let s := addEnergy mw { s with pwr := { s.pwr with samples := mw :: s.pwr.samples } }
    .next ((xs.zip (List.range 8)).foldl (fun s x => if x.1.isNone then railFault x.2 s else s) s)

/-- REFCLK100_LOSS (R568). -/
def execRefclk100Loss (s : State) : Host.Outcome State Fault Refusal :=
  if pstate s < 2 ∧ s.pwr.stage = none then .next s
  else .next (forcedOff 0x05C3 (report (mkRec s 15 0 3 9 0x1220 24 255 (if anyJob s then 2 else 0) 0x05C3 0 []) false s))

/-- XTAL_LOSS: Caliche runs on its internal oscillator. -/
def execXtalLoss (s : State) : Host.Outcome State Fault Refusal := .next (wr s Reg.CAL_XTAL_OK 0)

/-- XTAL_RETURN. -/
def execXtalReturn (s : State) : Host.Outcome State Fault Refusal :=
  .next (if s.pwr.calSupply then wr s Reg.CAL_XTAL_OK 1 else s)

/-- A trip: the floor, THERMTRIP_N low, the stops, the FATAL record and the way down (R515, R528). -/
def thermTrip (i : Nat) (s : State) : State :=
  let s := emit (wr { s with pwr := { s.pwr with tripped := true } } Reg.HIF_PIN_THERMTRIP_N 0) (.pin 2 false)
  let s := urgentBoth 0 (pwrEvent Reg.PWR_EV_THERMTRIP 4 s)
  let s := stopAll s 0x05C2
  let s := report { mkRec s 15 0 3 8 0x1204 24 255 (if anyJob s then 2 else 0) (if anyJob s then 0x05C2 else 0) 0 (leBytes 2 i) with
    rail := 255, temp := rd s (Reg.PWR_TEMP i) } false s
  forcedOff 0x05C2 s

/-- The readings of a sample (R513). -/
def takeTemps (temps : List Int) (s : State) : State :=
  (temps.zip (List.range 208)).foldl (fun s t => wr s (Reg.PWR_TEMP t.2) (unsigned 16 t.1)) s

/-- Throttling (R514): its time counts while a sensor is above its throttle point, its event rises with the crossing. -/
def throttlePass (was : Bool) (s : State) : State :=
  let hot := hotter s throttleAt 0
  let s := if hot then bump s Reg.PWR_THROTTLE_NS 10000 else s
  if hot && !was then pwrEvent Reg.PWR_EV_THERM_THROTTLE 2 s else s

/-- The thermal floor (R515): entered with the crossing, or while the point is passed and no floor holds. -/
def floorPass (was : Bool) (s : State) : State :=
  match firstHot s floorAt with
  | some i =>
    if !was || !floorHolds s then
      enterFloor 2 255 (rd s (Reg.PWR_TEMP i)) (leBytes 2 i) (pwrEvent Reg.PWR_EV_THERM_FLOOR 3 s)
    else s
  | none => s

/-- The thermal trip (R515), once. -/
def tripPass (s : State) : State :=
  match firstHot s tripAt with
  | some i => if s.pwr.tripped then s else thermTrip i s
  | none => s

/-- SENSOR_SAMPLE: the readings of the 208 sensors, 1/8 °C. Each threshold acts when a sensor crosses it. -/
def execSensorSample (temps : List Int) (s : State) : Host.Outcome State Fault Refusal :=
  let t := takeTemps temps s
  .next (if pstate t < 2 then t else tripPass (floorPass (hotter s floorAt 0) (throttlePass (hotter s throttleAt 0) t)))

end Sys2Proof.Machine
end

