-- ==== Sys2Proof/Machine/Freeze.lean ====
section
/-!
DEFINITION. SCRUB_CONFIG and DIAG_RUN (R467), freeze capture (R556–R558, R468), and scan read-out and JTAG (R559, R560).
-/

namespace Sys2Proof.Machine

/-! ### SCRUB_CONFIG and DIAG_RUN (R467) -/

/-- SCRUB_CONFIG: target 0 sets every stack's scratchpad scrubbing, target 1 the tier-2 patrol, where 0 hours is off. -/
def cmdScrubConfig (e : Entry) (_ : HostIo) (s : State) : CmdOut :=
  let on := bit (arg e 9 1) 0
  let n := arg e 12 4
  if arg e 8 1 = 0 ∧ n ≤ 65535 then
    doneCmd [] ((List.range 12).foldl (fun s k => wr (wrb s (Reg.SPM_SCRUB_EN k) on) (Reg.SPM_SCRUB_ROW_US k) n) s)
  else if arg e 8 1 = 1 ∧ n ≤ 255 then doneCmd [] (wr s Reg.TIER_T2_SCRUB_HOURS (if on then n else 0))
  else refuseCmd 0x0102 s

/-- SCRUB_CONFIG. -/
def execScrubConfig (e : Entry) (io : HostIo) (s : State) : Host.Outcome State Fault Refusal :=
  runRow Row.scrubConfig cmdScrubConfig e io s

/-- DIAG_RUN: the unit must exist, and no job may use it. The outcome arrives at the next tick. -/
def cmdDiagRun (e : Entry) (_ : HostIo) (s : State) : CmdOut :=
  let ty := arg e 10 1
  let n := arg e 12 2
  if 12 < ty || !unitExists ty n then refuseCmd 0x0102 s
  else if !(jobsOfUnit s ty n).isEmpty then refuseCmd 0x0301 s
  else
    let z := newOp 0x0904 e 255 s
    pendCmd z.1 [] z.2

/-- DIAG_RUN. -/
def execDiagRun (e : Entry) (io : HostIo) (s : State) : Host.Outcome State Fault Refusal :=
  runRow Row.diagRun cmdDiagRun e io s

/-! ### Freeze (R556, R557) -/

/-- The clocks stop. Nothing happens in STANDBY or below, or while the package is frozen already. -/
def freezeNow (s : State) : State :=
  if frozen s ∨ pstate s < 2 then s
  else
    let s := (List.range 2).foldl (fun s x =>
      if bit (rd s (Reg.HIF_HOSTIF_URGENT x)) 4 then s
      else
        let s := orReg s (Reg.HIF_HOSTIF_URGENT x) 16
        { s with kao := { s.kao with msixPending := s.kao.msixPending ++ [(x, 6)] } }) s
    let s := (List.range 4).foldl (fun s n => wr (wr s (Reg.HIF_LTSSM n) 0) (Reg.HIF_DEV_PRESENT n) 0) s
    wr { s with hif := { s.hif with meas5 := s.hif.meas5 ||| 2 } } Reg.KAO_FROZEN 1

/-- FREEZE. -/
def cmdFreeze (_ : Entry) (_ : HostIo) (s : State) : CmdOut :=
  if pstate s < 2 then refuseCmd 0x0300 s else doneCmd [] (freezeNow s)

/-- FREEZE: its completion is sent once the clocks have stopped. -/
def execFreeze (e : Entry) (io : HostIo) (s : State) : Host.Outcome State Fault Refusal :=
  runRow Row.freeze cmdFreeze e io s

/-- FREEZE_N_FALL. -/
def execFreezeNFall (s : State) : Host.Outcome State Fault Refusal :=
  .next (if s.pwr.calSupply then freezeNow (wr s Reg.HIF_PIN_FREEZE_N 0) else s)

/-! ### Release (R558) -/

/-- A job on the package stops with DEBUG_FREEZE; its running frame is discarded. -/
def freezeStop (p : Nat) (s : State) : State :=
  if (part s p).job.busy then stopNow p 0x05E6 (dropStaged p s) else s

/-- What the running frames held goes with them. -/
def dropFrames (s : State) : State :=
  { s with ctxs := [], arf := [], coll := { s.coll with ops := [] },
           fab := { s.fab with forwards := [], txPieces := [], rxPieces := [] } }

/-- The package is in LINKS_TRAIN, on its way to READY. -/
def retrainAll (s : State) : State :=
  let s := leaveTick ((upLinks s).foldl (fun s l => leaveService l 1 (effectiveNow s) s) s)
  trainFabric { (wr (wr (wr (setPstate s 4) Reg.SEQ_TARGET 6) Reg.SEQ_DOWN 0) Reg.SEQ_FORCED 0) with
    pwr := { s.pwr with stage := some 4, nextTarget := none, toService := false } }

/-- Loads in progress end; their ranges are zeroed (R400). -/
def freezeLoads (s : State) : State :=
  (s.wts.loads).foldl (fun s l => shardFail l.op l.part l.dst (numAt l.hdr 40 8) 0x0501 (numAt l.hdr 28 4) s)
    (modWts (fun w => { w with loads := [] }) s)

/-- The clocks run again. -/
def releaseNow (s : State) : State :=
  let s := wr s Reg.KAO_FROZEN 0
  let s := dropFrames ((List.range 32).foldl (fun s p => freezeStop p s) s)
  let s := (s.srv.images.filter (fun g => g.state == 1)).foldl (fun s g => failImage g.id 0x0582 s) s
  let s := s.srv.sessOps.foldl (fun s o => endOp o 0x0582 0 s) s
  let s := interruptAll (freezeLoads s)
  retrainAll (collectLatches { s with pwr := { s.pwr with powerOp := none } })

/-- CLOCK_RELEASE: the package must be frozen and FREEZE_N high. -/
def cmdClockRelease (_ : Entry) (_ : HostIo) (s : State) : CmdOut :=
  if !frozen s || !rdb s Reg.HIF_PIN_FREEZE_N then refuseCmd 0x0300 s else doneCmd [] (releaseNow s)

/-- CLOCK_RELEASE; `freezeN` is the level of FREEZE_N at the command. -/
def execClockRelease (e : Entry) (io : HostIo) (freezeN : Bool) (s : State) : Host.Outcome State Fault Refusal :=
  runRow Row.clockRelease cmdClockRelease e io (wrb s Reg.HIF_PIN_FREEZE_N freezeN)

/-! ### Scan chains (R560) -/

/-- Length of a chain: 0 where its number names no unit. -/
def chainBits (c : Nat) : Nat := if unitExists (c / 4096) (c % 4096) then Config.chainLength c else 0

/-- Draw `n` free bits. -/
def drawBits (n : Nat) (s : State) : List Bool × State :=
  ((List.range n).map (fun i => Config.freeValue 1 (s.freeCtr + i) == 1), { s with freeCtr := s.freeCtr + n })

/-- Bits packed in bytes, bit 0 of byte 0 first. -/
def packBits (b : List Bool) : Bytes :=
  (List.range (ceilDiv b.length 8)).map (fun i => BitVec.ofNat 8 (bitmap ((List.range 8).filter (fun j => b.getD (8 * i + j) false))))

/-- SCAN_READ: as many bits of the chain as there are from the first bit on, up to NBITS. -/
def cmdScanRead (e : Entry) (_ : HostIo) (s : State) : CmdOut :=
  if arg e 16 2 = 0 then refuseCmd 0x0102 s
  else if !frozen s then refuseCmd 0x0300 s
  else
    let n := min (arg e 16 2) (chainBits (arg e 8 2) - arg e 12 4)
    let z := drawBits n s
    ⟨0, leBytes 4 n, packBits z.1, z.2, none⟩

/-- SCAN_READ. -/
def execScanRead (e : Entry) (io : HostIo) (s : State) : Host.Outcome State Fault Refusal :=
  runRow Row.scanRead cmdScanRead e io s

/-! ### JTAG (R559) -/

/-- The TAP acts as BYPASS: TDO follows TDI one bit later, after a 0. -/
def jtagBypass (tdi : List Bool) (s : State) : State :=
  emit { s with hif := { s.hif with jtagIr := .bypass } } (.tdo ((false :: tdi).take tdi.length))

/-- An instruction where the table allows it, BYPASS elsewhere, nothing without the Caliche supply. -/
def jtagRow (ok : Bool) (tdi : List Bool) (f : State → State) (s : State) : Host.Outcome State Fault Refusal :=
  .next (if !s.pwr.calSupply then s else if ok then f s else jtagBypass tdi s)

/-- The current instruction. -/
def setIr (i : JtagIr) (s : State) : State := { s with hif := { s.hif with jtagIr := i } }

/-- TRST_N_ASSERT: the TAP is reset, and IDCODE is its instruction. -/
def execTrstNAssert (s : State) : Host.Outcome State Fault Refusal :=
  .next { s with hif := { s.hif with jtagIr := .idcode, chainPos := 0 } }

/-- JTAG_BYPASS. -/
def execJtagBypass (tdi : List Bool) (s : State) : Host.Outcome State Fault Refusal := jtagRow false tdi id s

/-- The 32 bits of IDCODE, bit 0 first. -/
def idcodeBits : List Bool := (List.range 32).map (fun i => bit 0xBC008C77 i)

/-- JTAG_IDCODE: the register, then what has been shifted in. -/
def execJtagIdcode (tdi : List Bool) (s : State) : Host.Outcome State Fault Refusal :=
  jtagRow true tdi (fun s => emit (setIr .idcode s) (.tdo ((idcodeBits ++ tdi).take tdi.length))) s

/-- The boundary register captures levels of pins, which the spec leaves open, and takes what is shifted in. -/
def boundaryScan (i : JtagIr) (tdi : List Bool) (s : State) : State :=
  let z := drawBits tdi.length s
  emit { z.2 with hif := { z.2.hif with jtagIr := i, boundary := tdi } } (.tdo z.1)

/-- HUB_UP with no partition. -/
def boundaryAllowed (s : State) : Bool := pstate s == 2 && !anyPart s

/-- JTAG_SAMPLE_PRELOAD. -/
def execJtagSamplePreload (tdi : List Bool) (s : State) : Host.Outcome State Fault Refusal :=
  jtagRow (decide (2 ≤ pstate s)) tdi (boundaryScan .samplePreload tdi) s

/-- JTAG_EXTEST. -/
def execJtagExtest (tdi : List Bool) (s : State) : Host.Outcome State Fault Refusal :=
  jtagRow (boundaryAllowed s) tdi (boundaryScan .extest tdi) s

/-- JTAG_CLAMP: the pins keep what the boundary register holds, and the bypass register is between TDI and TDO. -/
def execJtagClamp (tdi : List Bool) (s : State) : Host.Outcome State Fault Refusal :=
  jtagRow (boundaryAllowed s) tdi (fun s => setIr .clamp (jtagBypass tdi s)) s

/-- JTAG_HIGHZ: the pins float, and the bypass register is between TDI and TDO. -/
def execJtagHighz (tdi : List Bool) (s : State) : Host.Outcome State Fault Refusal :=
  jtagRow (boundaryAllowed s) tdi (fun s => setIr .highz (jtagBypass tdi s)) s

/-- SCAN_SEL: a chain is selected; the first one after RESET_N sets the JTAG bit of measurement block 5. -/
def execScanSel (chain : Nat) (s : State) : Host.Outcome State Fault Refusal :=
  jtagRow (frozen s) ((List.range 16).map (fun i => bit chain i))
    (fun s => { s with hif := { s.hif with jtagIr := .scanSel, chain := chain % 65536, chainPos := 0, meas5 := s.hif.meas5 ||| 1 } }) s

/-- SCAN_SHIFT: one bit of the selected chain goes out for each bit shifted in, and beyond its end free bits do. -/
def execScanShift (tdi : List Bool) (s : State) : Host.Outcome State Fault Refusal :=
  jtagRow (frozen s) tdi (fun s =>
    let z := drawBits tdi.length s
    emit { z.2 with hif := { z.2.hif with
      jtagIr := .scanShift, chainPos := min (chainBits s.hif.chain) (s.hif.chainPos + tdi.length) } } (.tdo z.1)) s

end Sys2Proof.Machine
end

