-- ==== Sys2Proof/Machine/Hosts.lean ====
section
/-!
DEFINITION. The host and storage ports (R364, R539–R549) and the management, I3C and security interfaces (R395, R550, R551).
-/

namespace Sys2Proof.Machine

/-! ### Port state (Table 22-10) -/

/-- A port changed its LTSSM or its device. -/
def portChange (n : Nat) (s : State) : State :=
  raiseBit 10 (0x1400 + n) 255 n 0 noRecord (orReg s Reg.HIF_EV_PORT_CHANGE (2 ^ n))

/-- A port's LTSSM changes: exits from L0 other than recovery are counted. A host port that leaves or enters L0 is an urgent
condition of the other one (Table 22-3), and one that enters it raises the vector of a freeze that it has missed (R558). -/
def setLtssm (n v : Nat) (s : State) : State :=
  let old := rd s (Reg.HIF_LTSSM n)
  if old = v then s
  else
    let s := portChange n (wr s (Reg.HIF_LTSSM n) v)
    let s := if old = 2 ∧ v ≠ 3 then bump s (Reg.HIF_N_LINK_DOWN_CNT n) 1 else s
    if n < 2 ∧ (old = 2 ∨ v = 2) then
      let s := urgent (1 - n) 5 s
      if v = 2 then
        let mine := s.kao.msixPending.filter (·.1 == n)
        mine.foldl (fun s m => msix s m.1 m.2) { s with kao := { s.kao with msixPending := s.kao.msixPending.filter (·.1 != n) } }
      else s
    else s

/-- The interfaces are powered and clocked. -/
def portsRun (s : State) : Bool := decide (2 ≤ pstate s) && !frozen s

/-- HOST_PORT_L0_CHANGE: the port's LTSSM, rate, width and mode. -/
def execHostPortL0Change (x ltssm rate width : Nat) (flit : Bool) (s : State) : Host.Outcome State Fault Refusal :=
  if 2 ≤ x ∨ 8 ≤ ltssm ∨ !portsRun s then .next s
  else
    let s := wrb (wr (wr s (Reg.HIF_RATE x) rate) (Reg.HIF_WIDTH x) width) (Reg.HIF_FLIT x) flit
    .next (setLtssm x ltssm s)

/-! ### Sessions and IDE streams of a port (R395, R544) -/

/-- SPDM sessions that meet a test end. -/
def endSessions (f : SpdmSession → Bool) (s : State) : State :=
  let ss := s.wts.sessions.filter (fun x => !f x)
  wr { s with wts := { s.wts with sessions := ss } } Reg.CRY_SESSIONS ss.length

/-- IDE_SECURE: every stream in use of the port is Secure. -/
def showIde (x : Nat) (s : State) : State :=
  wrb s (Reg.HIF_IDE_SECURE x) (s.hif.ideKeyed.any (fun k => k / 4 == x) && s.hif.ideFailed.all (fun k => k / 4 != x))

/-- IDE_STREAM_INSECURE: a stream in use leaves Secure. -/
def execIdeStreamInsecure (x stream : Nat) (s : State) : Host.Outcome State Fault Refusal :=
  let k := x * 4 + stream
  if 2 ≤ x ∨ 3 ≤ stream ∨ !portsRun s ∨ !s.hif.ideKeyed.contains k ∨ s.hif.ideFailed.contains k then .next s
  else
    let s := bump { s with hif := { s.hif with ideFailed := s.hif.ideFailed ++ [k] } } (Reg.HIF_N_IDE_FAIL_CNT x) 1
    .next (hifEvent Reg.HIF_EV_IDE_FAIL 6 (showIde x s))

/-- Kaolin serves security requests: from HUB_UP, where a host port's DOE mailbox needs its link. -/
def spdmServed (s : State) (port : Nat) : Bool :=
  portsRun s && !s.kao.down && !rdb s Reg.CAL_HUB_FAILED &&
    (if port < 2 then rd s (Reg.HIF_LTSSM port) == 2 else port == 2 && calAlive s)

/-- IDE_KM_REQUEST: a stream of a host port is keyed over a session of the port, and is Secure. -/
def execIdeKmRequest (x session stream : Nat) (s : State) : Host.Outcome State Fault Refusal :=
  let k := x * 4 + stream
  if 2 ≤ x ∨ 3 ≤ stream ∨ !spdmServed s x ∨ !sessionOn s session x then .next s
  else
    let s := { s with hif := { s.hif with
      ideKeyed := s.hif.ideKeyed.filter (· != k) ++ [k], ideFailed := s.hif.ideFailed.filter (· != k) } }
    .next (emit (showIde x s) (.spdm [1]))

/-! ### SPDM (R395, Table 16-4) -/

/-- Measurement block `i`: the security state, the map digest, or a SHA-384 digest that the spec does not give. -/
def measurement (i : Nat) (s : State) : Bytes × State :=
  if i = 5 then (leBytes 1 s.hif.meas5 ++ [0xB0, 1] ++ leBytes 5 0, s)
  else if i = 6 then
    (match s.fab.map with
     | some m => leBytes 32 (sha256 m).toNat
     | none => leBytes 32 0, s)
  else drawBytes 48 s

/-- SPDM_REQUEST. -/
def execSpdmRequest (r : SpdmReq) (s : State) : Host.Outcome State Fault Refusal :=
  match r with
  | .establish port id =>
    if !spdmServed s port then .next s
    else if 8 ≤ s.wts.sessions.length ∨ s.wts.sessions.any (·.id == id) then .next (emit s (.spdm [0x7F]))
    else
      let ss := s.wts.sessions ++ [⟨id, port⟩]
      .next (emit (wr { s with wts := { s.wts with sessions := ss } } Reg.CRY_SESSIONS ss.length) (.spdm [0x64]))
  | .endSession port id =>
    if !spdmServed s port then .next s
    else .next (emit (endSessions (fun x => x.id == id && x.port == port) s) (.spdm [0x6C]))
  | .measurements port i =>
    if !spdmServed s port then .next s
    else if i = 0 ∨ 6 < i then .next (emit s (.spdm [0x7F]))
    else
      let z := measurement i s
      .next (emit z.2 (.spdm (0x60 :: z.1)))
  | .other port =>
    if !spdmServed s port then .next s
    else
      let z := drawBytes 1 s
      .next (emit z.2 (.spdm z.1))

/-! ### Resets of functions (R452, R546) -/

/-- The configuration space of a port's PF and VFs is reset, and their mailboxes; the transport's sessions and keys of the link
end. -/
def resetPort (x : Nat) (s : State) : State :=
  let s := (List.range 32).foldl (fun s p => if (part s p).present && (part s p).port == x then resetVf p s else s) s
  let s := wr (resetMbox s x) (Reg.HIF_BME x) 0
  let s := { s with hif := { s.hif with
    vfEnable := tput false s.hif.vfEnable x false, bme := tput false s.hif.bme x false,
    ideKeyed := s.hif.ideKeyed.filter (fun k => k / 4 != x), ideFailed := s.hif.ideFailed.filter (fun k => k / 4 != x) } }
  endSessions (·.port == x) (showIde x s)

/-- HOST_HOT_RESET: a hot reset or a link disable. -/
def execHostHotReset (x : Nat) (s : State) : Host.Outcome State Fault Refusal :=
  .next (if 2 ≤ x ∨ !portsRun s then s else setLtssm x 5 (resetPort x s))

/-- PF_FLR: the link stays up. -/
def execPfFlr (x : Nat) (s : State) : Host.Outcome State Fault Refusal :=
  .next (if 2 ≤ x ∨ !portsRun s then s else resetPort x s)

/-- VF_FLR: that VF alone. -/
def execVfFlr (p : Nat) (s : State) : Host.Outcome State Fault Refusal :=
  .next (if 32 ≤ p ∨ !portsRun s then s else resetVf p s)

/-- VF_ENABLE_CHANGE: a clear VF Enable disables every VF of the port. -/
def execVfEnableChange (x : Nat) (on : Bool) (s : State) : Host.Outcome State Fault Refusal :=
  if 2 ≤ x ∨ !portsRun s then .next s
  else
    let mine : List Nat := (List.range 32).filter (fun p => !on && (part s p).port == x)
    let bme : Tab Bool := mine.foldl (fun t p => tput false t (2 + p) false) s.hif.bme
    .next { s with hif := { s.hif with vfEnable := tput false s.hif.vfEnable x on, bme := bme } }

/-- BUS_MASTER_ENABLE_CHANGE of a function: 0, 1 the PFs, 2 + p VF p. -/
def execBusMasterEnableChange (fn : Nat) (on : Bool) (s : State) : Host.Outcome State Fault Refusal :=
  if 34 ≤ fn ∨ !portsRun s then .next s
  else
    let s := { s with hif := { s.hif with bme := tput false s.hif.bme fn on } }
    .next (if fn < 2 then wrb s (Reg.HIF_BME fn) on else s)

/-! ### Port errors (R545) -/

/-- A request to a BAR that is not served: dropped, or completed with UR. -/
def execHostBarRequest (x : Nat) (k : BarError) (s : State) : Host.Outcome State Fault Refusal :=
  match k with
  | .poisoned => .next s
  | .unsupported => .next (if 2 ≤ x ∨ !portsRun s then s else emit s (.unsupported x))

/-- What a port's error counts and logs. -/
def portError (x : Nat) (k : PortError) (s : State) : State :=
  match k with
  | .timeout =>
    hifEvent Reg.HIF_EV_AER_UNCORR 5 (hifEvent Reg.HIF_EV_CPL_TIMEOUT 7 (bump s (Reg.HIF_N_CPL_TIMEOUT_CNT x) 1))
  | .badCompletion => hifEvent Reg.HIF_EV_AER_UNCORR 5 (bump s (Reg.HIF_N_ERR_CPL_CNT x) 1)
  | .uncorrectable => hifEvent Reg.HIF_EV_AER_UNCORR 5 s
  | .correctable => hifEvent Reg.HIF_EV_AER_CORR 4 (bump s (Reg.HIF_N_CORR_CNT x) 1)

/-! ### Storage (R548, R549) -/

/-- Loads that stream from a drive end with 0x05A1. -/
def failLoads (src : Nat) (s : State) : State :=
  (s.wts.loads.filter (·.src == src)).foldl (fun s l =>
    let s := modWts (fun w => { w with loads := w.loads.filter (fun x => x.op != l.op) }) s
    cryEvent Reg.CRY_ERR_IO 3 l.part
      (shardFail l.op l.part l.dst (numAt l.hdr 40 8) 0x05A1 (numAt l.hdr 28 4) s)) s

/-- The drive behind S`x` is gone. -/
def loseDrive (x : Nat) (s : State) : State :=
  if rd s (Reg.HIF_LTSSM (2 + x)) ≠ 2 ∧ !rdb s (Reg.HIF_DEV_PRESENT (2 + x)) then s
  else
    let s := if rd s (Reg.HIF_LTSSM (2 + x)) = 2 then bump s (Reg.HIF_N_LINK_DOWN_CNT (2 + x)) 1 else s
    let s := wr (wr s (Reg.HIF_LTSSM (2 + x)) 0) (Reg.HIF_DEV_PRESENT (2 + x)) 0
    portChange (2 + x) (failMedium (x + 1) (failLoads (x + 1) s))

/-- NVME_DRIVE_LOSS: the drive behind S`x` leaves, or its controller fails. -/
def execNvmeDriveLoss (x : Nat) (s : State) : Host.Outcome State Fault Refusal :=
  .next (if 2 ≤ x ∨ !portsRun s then s else loseDrive x s)

/-- A port's part of the catalog is rebuilt: images that were not complete are not found on the drive. -/
def rebuildPort (medium : Nat) (s : State) : State :=
  showSess (modSrv (fun v => { v with images := v.images.filter (fun g => g.medium != medium || g.state == 2) }) s)

/-- NVME_DRIVE_RETURN: the link is up and the controller ready. -/
def execNvmeDriveReturn (x : Nat) (s : State) : Host.Outcome State Fault Refusal :=
  if 2 ≤ x ∨ !portsRun s ∨ (rd s (Reg.HIF_LTSSM (2 + x)) = 2 ∧ rdb s (Reg.HIF_DEV_PRESENT (2 + x))) then .next s
  else
    let s := wr (wr s (Reg.HIF_LTSSM (2 + x)) 2) (Reg.HIF_DEV_PRESENT (2 + x)) 1
    .next (portChange (2 + x) (rebuildPort (x + 1) s))

/-! ### Management Ethernet, I3C, PLDM and MCTP (R550, R551) -/

/-- MGMT_LINK_CHANGE. -/
def execMgmtLinkChange (up : Bool) (s : State) : Host.Outcome State Fault Refusal :=
  if !s.pwr.calSupply ∨ rdb s Reg.HIF_MGMT_UP = up then .next s
  else .next (hifEvent Reg.HIF_EV_MGMT_LINK 8 (wrb s Reg.HIF_MGMT_UP up))

/-- MGMT_ICMPV6_PACKET: echo requests, neighbour solicitations and listener queries are answered; a router advertisement with a
prefix for SLAAC configures a global address. Other packets are discarded. -/
def execMgmtIcmpv6Packet (type : Nat) (slaac : Bool) (body : Bytes) (s : State) : Host.Outcome State Fault Refusal :=
  if !calAlive s ∨ !rdb s Reg.HIF_MGMT_UP then .next s
  else if type = 128 then .next (emit s (.mgmtReply (129 :: body)))
  else if type = 135 then .next (emit s (.mgmtReply (136 :: body)))
  else if type = 130 then .next (emit s (.mgmtReply (143 :: body)))
  else if type = 134 ∧ slaac then .next (wr s Reg.HIF_MGMT_ADDR 1)
  else .next s

/-- I3C_SETDASA: the target takes its dynamic address. -/
def execI3cSetdasa (dyn : Nat) (s : State) : Host.Outcome State Fault Refusal :=
  .next (if s.pwr.calSupply then { s with hif := { s.hif with dynAddr := dyn % 128 } } else s)

/-- MCTP_CONTROL_REQUEST. -/
def execMctpControlRequest (r : MctpReq) (s : State) : Host.Outcome State Fault Refusal :=
  if !calAlive s then .next s
  else match r with
    | .setEid n =>
      if n < 8 ∨ 254 < n then .next (emit s (.mctp 2 []))
      else .next (emit { s with hif := { s.hif with eid := n } } (.mctp 0 [0, BitVec.ofNat 8 n, 0]))
    | .getEid => .next (emit s (.mctp 0 [BitVec.ofNat 8 s.hif.eid, 0, 0]))
    | .other =>
      let z := drawBytes 1 s
      .next (emit z.2 (.mctp 0 z.1))

/-- The value of a numeric sensor: 0–207 the temperatures, 208–215 the power of each rail, 216 package power. -/
def sensorValue (s : State) (i : Nat) : Option Bytes :=
  if i < 208 then some (leBytes 2 (rd s (Reg.PWR_TEMP i)))
  else if i < 216 then some (leBytes 4 (rd s (Reg.PWR_POUT_MW (i - 208))))
  else if i = 216 then some (leBytes 4 (rd s Reg.PWR_P_MW))
  else none

/-- PLDM_REQUEST. -/
def execPldmRequest (r : PldmReq) (s : State) : Host.Outcome State Fault Refusal :=
  if !calAlive s then .next s
  else match r with
    | .sensor i =>
      (match sensorValue s i with
       | some b => .next (emit s (.mctp 0 b))
       | none => .next (emit s (.mctp 0x80 [])))
    | .other =>
      let z := drawBytes 1 s
      .next (emit z.2 (.mctp 0 z.1))

/-- PLDM_FIRMWARE_UPDATE: the image is stored, and activated for the next time it is started (R527, R551). -/
def execPldmFirmwareUpdate (t : FwTarget) (img : FwImage) (s : State) : Host.Outcome State Fault Refusal :=
  if !calAlive s then .next s
  else
    let i := match t with | .kaolin => 1 - rd s Reg.SEQ_ACTIVE_SLOT | .caliche => 2
    let s := { s with hif := { s.hif with slots := tput FwImage.none s.hif.slots i img } }
    match t with
    | .kaolin => .next (wr s Reg.SEQ_ACTIVE_SLOT i)
    | .caliche => .next s

/-! ### SerDes references (R568) -/

/-- SERDES_REF_LOSS of link die `n`: its fabric links leave service, and those in training fail; the PCIe ports of LD3 go down
with its reference. -/
def execSerdesRefLoss (n : Nat) (s : State) : Host.Outcome State Fault Refusal :=
  if 4 ≤ n ∨ !s.pwr.calSupply ∨ s.pwr.refLost.contains n then .next s
  else
    let s := wr { s with pwr := { s.pwr with refLost := s.pwr.refLost ++ [n] } } (Reg.LD_REFCLK_LOCK n) 0
    if !portsRun s then .next s
    else
      let s := (dieLinks n).foldl (fun s l =>
        if isUp s l then leaveService l 1 (effectiveNow s) s
        else if 2 ≤ rd s (Reg.LINK_STATE l) ∧ rd s (Reg.LINK_STATE l) ≤ 5 then trainFault l 1 s
        else s) s
      .next (if n = 3 then loseDrive 1 (loseDrive 0 (setLtssm 1 0 (setLtssm 0 0 s))) else s)

/-- SERDES_REF_RETURN: the links of the die may retrain. -/
def execSerdesRefReturn (n : Nat) (s : State) : Host.Outcome State Fault Refusal :=
  if 4 ≤ n ∨ !s.pwr.refLost.contains n then .next s
  else
    let s := { s with pwr := { s.pwr with refLost := s.pwr.refLost.filter (· != n) } }
    .next (wrb s (Reg.LD_REFCLK_LOCK n) (rdb s (Reg.LD_POWERED n)))

end Sys2Proof.Machine
end

