-- ==== Sys2Proof/Machine/Elect.lean ====
section
/-!
DEFINITION. The election of a tick master (R31, R533), joining (R534), and the CTL layer's receive and retry (R291, R292, R354).
-/

namespace Sys2Proof.Machine

/-! ### Candidates (R533) -/

/-- Digest of the loaded map. -/
def mapDigest (s : State) : Nat :=
  match s.fab.map with
  | some m => (sha256 m).toNat
  | none => 0

/-- The package may be tick master: MASTER_ELIG, and the dies of its designated tick links are powered (R31). -/
def eligible (s : State) : Bool :=
  rdb s Reg.TICK_MASTER_ELIG &&
    (List.range 96).all (fun l => !bit (rd s (Reg.TICK_LINK_MASK (l / 32))) (l % 32) || rdb s (Reg.LD_POWERED (l / 28)))

/-- What the package says of itself. -/
def ownCandidate (s : State) : Candidate :=
  { pkg := pkgId s, tray := trayOf (pkgId s), prio := rd s Reg.TICK_MASTER_PRIO, eligible := eligible s, mapDigest := mapDigest s,
    frame := frameNo s, gen := rd s Reg.TICK_GEN, ticked := s.tick.everTicked }

/-- The body of CANDIDATE (Table 11-20). -/
def candidateBody (c : Candidate) : Bytes :=
  leBytes 1 (bnat c.eligible + 2 * bnat c.ticked) ++ leBytes 1 c.prio ++ leBytes 1 c.pkg ++ leBytes 1 c.tray ++ leBytes 6 c.frame ++
    leBytes 1 c.gen ++ leBytes 5 0 ++ leBytes 32 c.mapDigest

/-- A CANDIDATE message to every other package of the map. -/
def floodCandidate (s : State) : State :=
  let body := candidateBody (ownCandidate s)
  ((List.range (mapField s 8 1)).filter (· != pkgId s)).foldl (fun s d => sendCtl d 0x11 kaolinTo 0xFFFFFFFF body false s) s

/-- The package is in TOPO_CHECK with its check passed, and follows no master. -/
def listens (s : State) : Bool :=
  pstate s == 5 && s.tick.mapChecked && rd s Reg.TICK_ROLE == 0 && !rdb s Reg.SEQ_DOWN && !frozen s && !s.kao.down

/-- ELECT_LISTEN_EXPIRY: a candidate floods its message, once if it is not eligible. -/
def execElectListenExpiry (s : State) : Host.Outcome State Fault Refusal :=
  if listens s ∧ !s.tick.candidate then
    .next (floodCandidate { s with tick := { s.tick with candidate := true, heard := [] } })
  else .next s

/-- CANDIDATE_FLOOD_TIMER. -/
def execCandidateFloodTimer (s : State) : Host.Outcome State Fault Refusal :=
  .next (if listens s ∧ s.tick.candidate ∧ eligible s then floodCandidate s else s)

/-- What CANDIDATE does: a candidate collects the messages whose map digest equals its own. -/
def applyCandidate (c : Candidate) (s : State) : CtlAnswer × State :=
  if listens s ∧ s.tick.candidate ∧ c.mapDigest = mapDigest s then
    (none, { s with tick := { s.tick with heard := s.tick.heard.filter (fun x => x.pkg != c.pkg) ++ [c] } })
  else (none, s)

/-- CANDIDATE. -/
def execCandidate (h : CtlHdr) (c : Candidate) (s : State) : Host.Outcome State Fault Refusal :=
  .next (applyCtl h (applyCandidate c) s)

/-- A candidate is better than another (R31). -/
def betterMaster (a b : Candidate) : Bool := decide (b.prio < a.prio) || (a.prio == b.prio && decide (a.pkg < b.pkg))

/-- The best eligible candidate. -/
def bestOf (l : List Candidate) : Option Candidate :=
  (l.filter (·.eligible)).foldl (fun (b : Option Candidate) c =>
    match b with
    | none => some c
    | some x => if betterMaster c x then some c else some x) none

/-- The package becomes master, and sends its first symbol at its next tick: FRAME and GEN go on from what the candidates have
seen, from 0 where none has accepted a symbol since HUB_UP (R30). -/
def becomeMaster (l : List Candidate) (s : State) : State :=
  let seen := l.any (·.ticked)
  let frame := if seen then (l.map (·.frame)).foldl max 0 + 1 else 0
  let gen := if seen then
      ((l.map (·.gen)).foldl (fun g h => if genAfter h g then h else g) ((l.map (·.gen)).headD 0) + 1) % 256 else 0
  let s := wr (wr (wr s Reg.TICK_ROLE 1) Reg.TICK_MASTER_ID (pkgId s)) Reg.TICK_GEN gen
  electStandby { s with tick := { s.tick with startFrame := some frame, candidate := false, heard := [], fencedPkgs := [] } }

/-- ELECTION_CLOSE. -/
def execElectionClose (s : State) : Host.Outcome State Fault Refusal :=
  if !(listens s && s.tick.candidate) then .next s
  else
    let l := ownCandidate s :: s.tick.heard
    match bestOf l with
    | none =>
      let s := pwrEvent Reg.SEQ_EV_NO_ELIGIBLE 0x25 s
      let s := if 6 ≤ rd s Reg.SEQ_TARGET then powerOutcome 0x05C5 s else s
      .next { s with tick := { s.tick with candidate := false, heard := [] } }
    | some b =>
      let js : List (Nat × Nat × Nat) := (s.tick.heard.filter (·.eligible)).map (fun c => (c.pkg, c.prio, c.tray))
      let s := { s with tick := { s.tick with joined := js } }
      if b.pkg = pkgId s then .next (becomeMaster l s)
      else .next { s with tick := { s.tick with candidate := false, heard := [] } }

/-- What JOIN does: the master records the follower, which its fence no longer names, and names a standby where it has none. -/
def applyJoin (h : CtlHdr) (elig : Bool) (prio tray : Nat) (s : State) : CtlAnswer × State :=
  if rd s Reg.TICK_ROLE = 1 then
    let js := s.tick.joined.filter (fun j => j.1 != h.srcPkg) ++ (if elig then [(h.srcPkg, prio, tray)] else [])
    let s := { s with tick := { s.tick with joined := js, fencedPkgs := s.tick.fencedPkgs.filter (· != h.srcPkg) } }
    (ackWith 0, if rd s Reg.TICK_STANDBY_ID = 255 ∧ elig then electStandby s else s)
  else (ackWith 0, s)

/-- JOIN. -/
def execCtlJoin (h : CtlHdr) (elig : Bool) (prio tray : Nat) (s : State) : Host.Outcome State Fault Refusal :=
  .next (applyCtl h (applyJoin h elig prio tray) s)

/-! ### ACK (R292) -/

/-- An ACK of a message ends its repetition; the acknowledgement of GO is counted, and a failure of ASSIGN drains its request. -/
def applyAck (h : CtlHdr) (st : Nat) (s : State) : State :=
  match s.fab.unanswered.find? (fun o => o.dst == h.srcPkg && o.mseq == h.replyTo) with
  | none => s
  | some o =>
    let s := answered h s
    if o.mtype = 0x23 ∧ st = 0 then goAcked o.part h s
    else if o.mtype = 0x32 ∧ st ≠ 0 then assignFailed o.part o.body st s
    else s

/-- CTL_ACK. -/
def execCtlAck (h : CtlHdr) (st : Nat) (s : State) : Host.Outcome State Fault Refusal := .next (applyAck h st s)

/-! ### Messages from Kaolin's fabric ring (R291, Table 11-20) -/

/-- Reserved bytes of a body, as (first byte, count) pairs, and bits of a byte that are not reserved, as (byte, mask). -/
def bodyReserved (mtype : Nat) : Option (List (Nat × Nat) × List (Nat × Nat)) :=
  match mtype with
  | 0x01 => some ([(2, 6)], [])
  | 0x10 => some ([(2, 6)], [])
  | 0x11 => some ([(11, 5)], [(0, 3)])
  | 0x12 => some ([(3, 5)], [(0, 1)])
  | 0x20 => some ([(22, 2)], [])
  | 0x21 => some ([(9, 3)], [])
  | 0x22 => some ([(9, 7)], [])
  | 0x23 => some ([(15, 1)], [(14, 1)])
  | 0x24 => some ([(10, 6)], [])
  | 0x25 => some ([(9, 7)], [])
  | 0x30 => some ([(2, 2)], [])
  | 0x31 => some ([(2, 2)], [])
  | 0x32 => some ([], [])
  | 0x33 => some ([], [])
  | 0x34 => some ([(1, 7)], [])
  | 0x40 => some ([(9, 7)], [(8, 1)])
  | 0x41 => some ([(9, 7)], [(8, 1)])
  | 0x42 => some ([(2, 6)], [])
  | 0x50 => some ([(28, 4)], [(14, 1)])
  | 0x51 => some ([], [])
  | 0x52 => some ([(22, 10)], [])
  | 0x53 => some ([(10, 6)], [])
  | 0x54 => some ([], [])
  | _ => none

/-- A message that is not dropped: its MTYPE is not reserved, its LEN is that of its packet, and reserved bytes are 0. -/
def messageOk (m : Bytes) : Bool :=
  decide (32 ≤ m.length) && numAt m 2 2 == m.length - 32 && numAt m 30 2 == 0 &&
    (match bodyReserved (numAt m 0 2) with
     | some r => r.1.all (fun z => numAt m (32 + z.1) z.2 == 0) && r.2.all (fun z => (numAt m (32 + z.1) 1 &&& (255 - z.2)) == 0)
     | none => false)

/-- The header of a message from package `src`. -/
def headerOf (src : Nat) (m : Bytes) : CtlHdr :=
  { srcPkg := src, srcPart := numAt m 4 1, dstPart := numAt m 5 1, slice := numAt m 6 1, role := numAt m 7 1, epoch := numAt m 8 8,
    mseq := numAt m 16 4, replyTo := numAt m 20 4, frame := numAt m 24 6 }

/-- A candidate's message. -/
def candidateOf (b : Bytes) : Candidate :=
  { pkg := numAt b 2 1, tray := numAt b 3 1, prio := numAt b 1 1, eligible := bit (numAt b 0 1) 0, mapDigest := numAt b 16 32,
    frame := numAt b 4 6, gen := numAt b 10 1, ticked := bit (numAt b 0 1) 1 }

/-- The entries of SEG_REPORT. -/
def reportEntries (b : Bytes) : List (Nat × BitVec 256) :=
  (List.range (numAt b 12 2)).map (fun i => (numAt b (32 + 36 * i) 4, BitVec.ofNat 256 (numAt b (36 + 36 * i) 32)))

/-- Apply a message by its MTYPE. -/
def applyMessage (t : Nat) (h : CtlHdr) (b : Bytes) (s : State) : State :=
  let n (o k : Nat) : Nat := numAt b o k
  match t with
  | 0x01 => applyAck h (n 0 2) s
  | 0x10 => applyCtl h (applyStretch h (n 0 2)) s
  | 0x11 => applyCtl h (applyCandidate (candidateOf b)) s
  | 0x12 => applyCtl h (applyJoin h (bit (n 0 1) 0) (n 1 1) (n 2 1)) s
  | 0x20 => applyCtl h (applyReady h (n 0 8) (n 8 8) (n 16 2) (n 18 4)) s
  | 0x21 => applyCtl h (applyInstall (n 0 8) (n 8 1) (bytesAt b 16 (8 * n 12 4))) s
  | 0x22 => applyCtl h (applyTransitReply h (n 0 8) (n 8 1)) s
  | 0x23 => applyCtl h (applyGo h (n 0 8) (n 8 6) (bit (n 14 1) 0)) s
  | 0x24 => applyCtl h (applyAbandon h (n 0 8)) s
  | 0x25 => applyCtl h (applyTransitRelease (n 0 8) (n 8 1)) s
  | 0x30 => applyCtl h (applyGrant h (n 0 2) (n 4 4)) s
  | 0x31 => applyCtl h (applyReturn h (n 0 2) (n 4 4)) s
  | 0x32 => applyCtl h (applyAssign h (bytesAt b 0 64) (bytesAt b 64 64) (n 128 2) (n 130 2)) s
  | 0x33 => applyCtl h (applyInstalled h (n 0 2) (n 2 2) (n 4 2) (n 6 2)) s
  | 0x34 => applyCtl h (applyFill h (n 0 1)) s
  | 0x40 => applyCtl h (applyPkgDigest h (n 0 2) (n 2 6) (bit (n 8 1) 0) (n 16 16)) s
  | 0x41 => applyCtl h (applySliceDigest h (n 0 2) (n 2 6) (bit (n 8 1) 0) (n 16 8) (n 24 8) (n 32 16)) s
  | 0x42 => applyCtl h (applyUnitDone h (n 0 2) (n 8 8)) s
  | 0x50 => applyCtl h (applySegReport h (n 0 8) (bit (n 14 1) 0) (n 15 1) (n 16 8) (n 24 4) (reportEntries b)) s
  | 0x51 => applyCtl h (applyUnitFetch (n 0 8) (n 8 4) (n 12 4) (n 16 4)) s
  | 0x52 => applyCtl h (applyUnitData (n 0 8) (n 8 4) (n 12 4) (n 20 2) (bytesAt b 32 (n 16 4))) s
  | 0x53 => applyCtl h (applyThawReport h (n 0 8) (n 8 2) (n 16 4)) s
  | 0x54 => applyCtl h (fun s => (ackWith 0, deleteImage (n 0 8) s)) s
  | _ => s

/-- CTL_MESSAGE_RECEIVE: Kaolin takes the oldest message of its ring. -/
def execCtlMessageReceive (s : State) : Host.Outcome State Fault Refusal :=
  if s.kao.down ∨ !keepsFrames s then .next s
  else match s.fab.ring with
    | [] => .next s
    | k :: r =>
      let s := { s with fab := { s.fab with ring := r } }
      if messageOk k.bytes then .next (applyMessage (numAt k.bytes 0 2) (headerOf k.src k.bytes) (k.bytes.drop 32) s)
      else .next (dropCtl s)

/-! ### Repetition (R354, R380, Tables 14-10 and 15-7) -/

/-- A serving message, which fails after 16 repeats. -/
def servingMsg (t : Nat) : Bool := decide (0x30 ≤ t) && decide (t ≤ 0x33)

/-- A session message, which fails after 16 repeats. -/
def sessionMsg (t : Nat) : Bool := decide (0x50 ≤ t) && decide (t ≤ 0x54)

/-- A message went unanswered after 16 repeats: its operation fails. -/
def giveUp (o : CtlOut) (s : State) : State :=
  let s := { s with fab := { s.fab with unanswered := s.fab.unanswered.filter (· != o) } }
  if servingMsg o.mtype then
    let s := srvEvent Reg.SRV_ERR_MSG_RETRY 4 o.part s
    if o.mtype = 0x32 then assignFailed o.part o.body 0x0580 s else s
  else
    let id := numAt o.body 0 8
    let s := sessEvent Reg.SESS_ERR_MSG_RETRY 4 o.part s
    (s.srv.sessOps.filter (fun x => opImage x.kind == some id)).foldl (fun s x => endOp x 0x0582 0 s) (failImage id 0x0582 s)

/-- Send a copy of an unanswered message. -/
def repeatMsg (o : CtlOut) (s : State) : State :=
  let us := s.fab.unanswered.map (fun x => if x = o then { x with repeats := x.repeats + 1 } else x)
  putCtl o.dst o.mtype o.mseq o.hdr o.body { s with fab := { s.fab with unanswered := us } }

/-- MESSAGE_RETRY: RETRY_FRAMES frames have passed since the last copies. -/
def execMessageRetry (s : State) : Host.Outcome State Fault Refusal :=
  if s.kao.down ∨ !keepsFrames s then .next s
  else .next (s.fab.unanswered.foldl (fun s o =>
    if (servingMsg o.mtype || sessionMsg o.mtype) && decide (16 ≤ o.repeats) then giveUp o s else repeatMsg o s) s)

end Sys2Proof.Machine
end

