-- ==== Sys2Proof/Machine/Fetch.lean ====
section
/-!
DEFINITION. How commands reach Kaolin: the fetch from the PF and VF mailboxes (R448–R450), management datagrams (R453–R455), and
the port errors that fail a command (R545).
-/

namespace Sys2Proof.Machine

/-- A mailbox command: its row of the command tables and its meaning. -/
abbrev Handler := CmdRow × (Entry → HostIo → State → CmdOut)

/-- Every opcode (Tables 18-10 to 18-18). -/
def handlers : List Handler :=
  [(Row.devIdentify, cmdDevIdentify),
   (Row.devGetState, cmdDevGetState),
   (Row.devSetPowerState, cmdDevSetPowerState),
   (Row.devGetTelemetry, cmdDevGetTelemetry),
   (Row.devSetTime, cmdDevSetTime),
   (Row.partCreate, cmdPartCreate),
   (Row.partDestroy, cmdPartDestroy),
   (Row.partAssign, cmdPartAssign),
   (Row.jobStart, cmdJobStart []),
   (Row.jobStop, cmdJobStop),
   (Row.jobQuery, cmdJobQuery),
   (Row.partAccounting, cmdPartAccounting),
   (Row.modelDeclare, cmdModelDeclare)] ++
  [(Row.weightLoadShard, cmdWeightLoadShard),
   (Row.weightVerify, cmdWeightVerify),
   (Row.replaceBegin, cmdReplaceBegin),
   (Row.replaceLayer, cmdReplaceLayer),
   (Row.replaceEnd, cmdReplaceEnd),
   (Row.keyInstall, cmdKeyInstall),
   (Row.reqSubmit, cmdReqSubmit),
   (Row.reqCancel, cmdReqCancel),
   (Row.reqQuery, cmdReqQuery),
   (Row.queueConfig, cmdQueueConfig),
   (Row.streamBind, cmdStreamBind),
   (Row.admissionConfig, cmdAdmissionConfig),
   (Row.sessionFallow, cmdSessionFallow)] ++
  [(Row.sessionThaw, cmdSessionThaw),
   (Row.sessionExport, cmdSessionExport),
   (Row.sessionImport, cmdSessionImport),
   (Row.sessionDiscard, cmdSessionDiscard),
   (Row.topoLoadMap, cmdTopoLoadMap),
   (Row.topoVerify, cmdTopoVerify),
   (Row.linkQuery, cmdLinkQuery),
   (Row.groupWrite, cmdGroupWrite),
   (Row.tickConfig, cmdTickConfig),
   (Row.sliceBind, cmdSliceBind),
   (Row.pwrSetCap, cmdPwrSetCap),
   (Row.pwrSetMode, cmdPwrSetMode),
   (Row.pwrDomain, cmdPwrDomain)] ++
  [(Row.energyRead, cmdEnergyRead),
   (Row.faultLogRead, cmdFaultLogRead),
   (Row.faultPolicySet, cmdFaultPolicySet),
   (Row.scrubConfig, cmdScrubConfig),
   (Row.replicaCompareConfig, cmdReplicaCompareConfig),
   (Row.unitFence, cmdUnitFence),
   (Row.unitUnfence, cmdUnitUnfence),
   (Row.freeze, cmdFreeze),
   (Row.clockRelease, cmdClockRelease),
   (Row.scanRead, cmdScanRead),
   (Row.diagRun, cmdDiagRun)]

/-- A submission entry as it stands in a ring or a datagram (Table 18-6); `resv` is 0 unless a reserved field around it is not. -/
def entryOf (src : Src) (resv : Nat) (b : Bytes) : Entry :=
  { src := src, tag := numAt b 2 2, noInt := bit (numAt b 4 1) 0, resv4 := numAt b 4 1 / 2, flags := numAt b 5 1,
    part := numAt b 6 1, resv7 := numAt b 7 1 + 256 * resv, args := padTo 56 (b.drop 8) }

/-- One entry from its fetch on, step 1 of R457 included. -/
def runEntry (op : Nat) (e : Entry) (io : HostIo) (s : State) : State :=
  match handlers.find? (fun h => h.1.op == op) with
  | some h => mailboxCommand h.1 h.2 e io s
  | none => if servedBox s e.src then complete e 0x0100 [] [] (startCmd e s) else s

/-! ### Rings (R449, R450) -/

/-- The source of a mailbox window. -/
def boxSource (m : Nat) : Src := if m < 2 then .pf m else .vf (m - 2)

/-- A window holds an entry that Kaolin may fetch. -/
def fetchable (s : State) (m : Nat) : Bool :=
  let b := mbox s m
  servedBox s (boxSource m) && b.sqHead != b.sqTail && decide (b.inflight < 16) &&
    decide (b.inflight + subMod 16 b.cqTail b.cqHead < 64)

/-- MAILBOX_FETCH: the next window in round robin that holds a fetchable entry. `io` is what host memory answers the command. -/
def execMailboxFetch (io : HostIo) (s : State) : Host.Outcome State Fault Refusal :=
  match ((List.range 34).map (fun i => (s.kao.lastServed + 1 + i) % 34)).find? (fetchable s) with
  | none => .next s
  | some m =>
    let b := mbox s m
    let x := padTo 64 (tget [] b.sq (b.sqHead % 64))
    let s := modMbox { s with kao := { s.kao with lastServed := m } } m (fun b => { b with sqHead := (b.sqHead + 1) % 2 ^ 16 })
    .next (runEntry (numAt x 0 2) (entryOf (boxSource m) 0 x) io s)

/-! ### Datagrams (R453, R455, R460) -/

/-- MAGIC, VERSION and length are right, and the datagram is a request. -/
def datagramOk (d : Bytes) : Bool :=
  decide (96 ≤ d.length) && numAt d 0 4 == 0x4D424F58 && numAt d 4 1 == 1 && !bit (numAt d 5 1) 7 &&
    decide (numAt d 12 4 ≤ 8192) && d.length == 96 + numAt d 12 4

/-- The sources that events go to: the two most recent that subscribed. -/
def subscribe (src flags : Nat) (s : State) : State :=
  let subs := if bit flags 0 then (src :: s.kao.subs.filter (· != src)).take 2 else s.kao.subs
  { s with kao := { s.kao with subs := if bit flags 1 then subs.filter (· != src) else subs } }

/-- A new XID of a source is kept; of each source, the last 64. -/
def keepXid (src xid : Nat) (s : State) : State :=
  let mine := s.kao.kept.filter (·.src == src)
  { s with kao := { s.kao with kept := s.kao.kept.filter (·.src != src) ++ (mine.drop (mine.length - 63)) ++ [⟨src, xid, []⟩] } }

/-- MANAGEMENT_DATAGRAM from a source address. -/
def execManagementDatagram (src : Nat) (d : Bytes) (io : HostIo) (s : State) : Host.Outcome State Fault Refusal :=
  let xid := numAt d 8 4
  let f := numAt d 5 1
  let from_ : Src := .mgmt src xid (d.drop 96)
  if !datagramOk d ∨ !servedBox s from_ then .next s
  else match s.kao.kept.find? (fun k => k.src == src && k.xid == xid) with
    | some k => .next (if k.bytes.isEmpty then s else emit s (.datagram src k.bytes))
    | none =>
      if 16 ≤ s.kao.mgmtInflight then .next s
      else
        let resv := bnat ((f &&& 0x7C) != 0 || numAt d 6 2 != 0 || numAt d 16 16 != 0)
        let x := bytesAt d 32 64
        .next (runEntry (numAt x 0 2) (entryOf from_ resv x) io (keepXid src xid (subscribe src f s)))

/-! ### Errors of package reads (R545) -/

/-- HOST_DMA_ERROR: a read that the package makes for a command fails, and the command with it; `cmd` is the opcode and entry where
the read is that of a mailbox command of this port. -/
def execHostDmaError (x : Nat) (k : PortError) (cmd : Option (Nat × Entry)) (s : State) : Host.Outcome State Fault Refusal :=
  if 2 ≤ x ∨ !portsRun s then .next s
  else
    let s := portError x k s
    match cmd with
    | some c => .next (if srcPort s c.2.src = x then runEntry c.1 c.2 ⟨none, true, none⟩ s else s)
    | none => .next s

end Sys2Proof.Machine
end

