-- ==== Sys2Proof/Machine/Dispatch.lean ====
section
/-!
DEFINITION. The meaning of each command: one arm per constructor of `Instr`, in the order of the opcode table.
-/

namespace Sys2Proof.Machine

def exec (i : Instr) (s : State) : Host.Outcome State Fault Refusal :=
  match i with
  | .devIdentify e io => Sys2Proof.Machine.execDevIdentify e io s
  | .devGetState e io => Sys2Proof.Machine.execDevGetState e io s
  | .devSetPowerState e io => Sys2Proof.Machine.execDevSetPowerState e io s
  | .devGetTelemetry e io => Sys2Proof.Machine.execDevGetTelemetry e io s
  | .devSetTime e io => Sys2Proof.Machine.execDevSetTime e io s
  | .partCreate e io => Sys2Proof.Machine.execPartCreate e io s
  | .partDestroy e io => Sys2Proof.Machine.execPartDestroy e io s
  | .partAssign e io => Sys2Proof.Machine.execPartAssign e io s
  | .jobStart e io kat => Sys2Proof.Machine.execJobStart e io kat s
  | .jobResume e io => Sys2Proof.Machine.execJobResume e io s
  | .jobStopImmediate e io => Sys2Proof.Machine.execJobStopImmediate e io s
  | .jobStopCheap e io => Sys2Proof.Machine.execJobStopCheap e io s
  | .jobPause e io => Sys2Proof.Machine.execJobPause e io s
  | .jobPauseCheap e io => Sys2Proof.Machine.execJobPauseCheap e io s
  | .jobQuery e io => Sys2Proof.Machine.execJobQuery e io s
  | .partAccounting e io => Sys2Proof.Machine.execPartAccounting e io s
  | .modelDeclare e io => Sys2Proof.Machine.execModelDeclare e io s
  | .weightLoadShard e io => Sys2Proof.Machine.execWeightLoadShard e io s
  | .weightVerify e io => Sys2Proof.Machine.execWeightVerify e io s
  | .replaceBegin e io => Sys2Proof.Machine.execReplaceBegin e io s
  | .replaceLayer e io => Sys2Proof.Machine.execReplaceLayer e io s
  | .replaceEnd e io => Sys2Proof.Machine.execReplaceEnd e io s
  | .replaceAbort e io => Sys2Proof.Machine.execReplaceAbort e io s
  | .keyInstall e io => Sys2Proof.Machine.execKeyInstall e io s
  | .keyDelete e io => Sys2Proof.Machine.execKeyDelete e io s
  | .reqSubmit e io => Sys2Proof.Machine.execReqSubmit e io s
  | .reqContinue e io => Sys2Proof.Machine.execReqContinue e io s
  | .reqCancel e io => Sys2Proof.Machine.execReqCancel e io s
  | .reqQuery e io => Sys2Proof.Machine.execReqQuery e io s
  | .reqRelease e io => Sys2Proof.Machine.execReqRelease e io s
  | .queueConfig e io => Sys2Proof.Machine.execQueueConfig e io s
  | .queueRemove e io => Sys2Proof.Machine.execQueueRemove e io s
  | .streamBind e io => Sys2Proof.Machine.execStreamBind e io s
  | .streamUnbind e io => Sys2Proof.Machine.execStreamUnbind e io s
  | .admissionConfig e io => Sys2Proof.Machine.execAdmissionConfig e io s
  | .sessionFallow e io => Sys2Proof.Machine.execSessionFallow e io s
  | .sessionThawOwn e io => Sys2Proof.Machine.execSessionThawOwn e io s
  | .sessionThawNew e io => Sys2Proof.Machine.execSessionThawNew e io s
  | .sessionExport e io => Sys2Proof.Machine.execSessionExport e io s
  | .sessionImport e io => Sys2Proof.Machine.execSessionImport e io s
  | .sessionDiscard e io => Sys2Proof.Machine.execSessionDiscard e io s
  | .topoLoadMap e io => Sys2Proof.Machine.execTopoLoadMap e io s
  | .topoVerify e io => Sys2Proof.Machine.execTopoVerify e io s
  | .linkQuery e io => Sys2Proof.Machine.execLinkQuery e io s
  | .groupWrite e io => Sys2Proof.Machine.execGroupWrite e io s
  | .tickConfig e io => Sys2Proof.Machine.execTickConfig e io s
  | .sliceBind e io => Sys2Proof.Machine.execSliceBind e io s
  | .pwrSetCap e io => Sys2Proof.Machine.execPwrSetCap e io s
  | .pwrSetMode e io => Sys2Proof.Machine.execPwrSetMode e io s
  | .pwrDomain e io => Sys2Proof.Machine.execPwrDomain e io s
  | .energyRead e io => Sys2Proof.Machine.execEnergyRead e io s
  | .faultLogRead e io => Sys2Proof.Machine.execFaultLogRead e io s
  | .faultPolicySet e io => Sys2Proof.Machine.execFaultPolicySet e io s
  | .scrubConfig e io => Sys2Proof.Machine.execScrubConfig e io s
  | .replicaCompareConfig e io => Sys2Proof.Machine.execReplicaCompareConfig e io s
  | .unitFence e io => Sys2Proof.Machine.execUnitFence e io s
  | .unitUnfence e io => Sys2Proof.Machine.execUnitUnfence e io s
  | .freeze e io => Sys2Proof.Machine.execFreeze e io s
  | .clockRelease e io freezeN => Sys2Proof.Machine.execClockRelease e io freezeN s
  | .scanRead e io => Sys2Proof.Machine.execScanRead e io s
  | .diagRun e io => Sys2Proof.Machine.execDiagRun e io s
  | .mbSqTailWrite mb tail entries => Sys2Proof.Machine.execMbSqTailWrite mb tail entries s
  | .mbCqHeadWrite mb v => Sys2Proof.Machine.execMbCqHeadWrite mb v s
  | .mbEvHeadWrite mb v => Sys2Proof.Machine.execMbEvHeadWrite mb v s
  | .srvRingHead p ring head => Sys2Proof.Machine.execSrvRingHead p ring head s
  | .mailboxFetch io => Sys2Proof.Machine.execMailboxFetch io s
  | .managementDatagram src d io => Sys2Proof.Machine.execManagementDatagram src d io s
  | .tierProbeWrite p page => Sys2Proof.Machine.execTierProbeWrite p page s
  | .linkOut l => Sys2Proof.Machine.execLinkOut l s
  | .linkRetrain l => Sys2Proof.Machine.execLinkRetrain l s
  | .linkDisable l on => Sys2Proof.Machine.execLinkDisable l on s
  | .counterLowRead path off => Sys2Proof.Machine.execCounterLowRead path off s
  | .rcFieldRead path off => Sys2Proof.Machine.execRcFieldRead path off s
  | .registerWrite path off w => Sys2Proof.Machine.execRegisterWrite path off w s
  | .spdmRequest r => Sys2Proof.Machine.execSpdmRequest r s
  | .ideKmRequest x session stream => Sys2Proof.Machine.execIdeKmRequest x session stream s
  | .staemGet idx => Sys2Proof.Machine.execStaemGet idx s
  | .staemSetCollector addr port => Sys2Proof.Machine.execStaemSetCollector addr port s
  | .staemAck idx => Sys2Proof.Machine.execStaemAck idx s
  | .calicheStatus => Sys2Proof.Machine.execCalicheStatus s
  | .staemCollectorAck addr first => Sys2Proof.Machine.execStaemCollectorAck addr first s
  | .staemResendTimer => Sys2Proof.Machine.execStaemResendTimer s
  | .staemSend => Sys2Proof.Machine.execStaemSend s
  | .pldmFirmwareUpdate t img => Sys2Proof.Machine.execPldmFirmwareUpdate t img s
  | .pldmRequest r => Sys2Proof.Machine.execPldmRequest r s
  | .mctpControlRequest r => Sys2Proof.Machine.execMctpControlRequest r s
  | .pwrEnRise => Sys2Proof.Machine.execPwrEnRise s
  | .pwrEnFall => Sys2Proof.Machine.execPwrEnFall s
  | .resetNAssert => Sys2Proof.Machine.execResetNAssert s
  | .resetNRelease => Sys2Proof.Machine.execResetNRelease s
  | .calicheSupplyOn pwrEn => Sys2Proof.Machine.execCalicheSupplyOn pwrEn s
  | .freezeNFall => Sys2Proof.Machine.execFreezeNFall s
  | .vrAlert r statusWord => Sys2Proof.Machine.execVrAlert r statusWord s
  | .tickSyncInEdge inTime => Sys2Proof.Machine.execTickSyncInEdge inTime s
  | .sensorSample temps => Sys2Proof.Machine.execSensorSample temps s
  | .refclk100Loss => Sys2Proof.Machine.execRefclk100Loss s
  | .serdesRefLoss n => Sys2Proof.Machine.execSerdesRefLoss n s
  | .xtalLoss => Sys2Proof.Machine.execXtalLoss s
  | .trstNAssert => Sys2Proof.Machine.execTrstNAssert s
  | .jtagBypass tdi => Sys2Proof.Machine.execJtagBypass tdi s
  | .jtagIdcode tdi => Sys2Proof.Machine.execJtagIdcode tdi s
  | .jtagSamplePreload tdi => Sys2Proof.Machine.execJtagSamplePreload tdi s
  | .jtagExtest tdi => Sys2Proof.Machine.execJtagExtest tdi s
  | .jtagClamp tdi => Sys2Proof.Machine.execJtagClamp tdi s
  | .jtagHighz tdi => Sys2Proof.Machine.execJtagHighz tdi s
  | .scanSel chain => Sys2Proof.Machine.execScanSel chain s
  | .scanShift tdi => Sys2Proof.Machine.execScanShift tdi s
  | .tick upsets => Sys2Proof.Machine.execTick upsets s
  | .commitDeadline => Sys2Proof.Machine.execCommitDeadline s
  | .tickSymbolReceive l crcOk sym offset => Sys2Proof.Machine.execTickSymbolReceive l crcOk sym offset s
  | .missingTick => Sys2Proof.Machine.execMissingTick s
  | .tickLossSelfFence => Sys2Proof.Machine.execTickLossSelfFence s
  | .slotReceive l rx => Sys2Proof.Machine.execSlotReceive l rx s
  | .slotSend l slot => Sys2Proof.Machine.execSlotSend l slot s
  | .openRetryTimeout l => Sys2Proof.Machine.execOpenRetryTimeout l s
  | .abortSymbolReceive l crcOk kind frame slices => Sys2Proof.Machine.execAbortSymbolReceive l crcOk kind frame slices s
  | .linkDownSymbol l crcOk pos effective => Sys2Proof.Machine.execLinkDownSymbol l crcOk pos effective s
  | .faultRptSymbol l crcOk reporter accused frame => Sys2Proof.Machine.execFaultRptSymbol l crcOk reporter accused frame s
  | .echoSymbol l crcOk response roundTrip turnaround => Sys2Proof.Machine.execEchoSymbol l crcOk response roundTrip turnaround s
  | .identSymbol l crcOk sym => Sys2Proof.Machine.execIdentSymbol l crcOk sym s
  | .laneLockLoss l lane fecAlign => Sys2Proof.Machine.execLaneLockLoss l lane fecAlign s
  | .fecUeLimit l count => Sys2Proof.Machine.execFecUeLimit l count s
  | .trainingStepDone l => Sys2Proof.Machine.execTrainingStepDone l s
  | .trainingStepTimeout l => Sys2Proof.Machine.execTrainingStepTimeout l s
  | .retrainTimer l => Sys2Proof.Machine.execRetrainTimer l s
  | .detourTableRebuild => Sys2Proof.Machine.execDetourTableRebuild s
  | .remoteRequestHome q ue => Sys2Proof.Machine.execRemoteRequestHome q ue s
  | .remoteResponse r => Sys2Proof.Machine.execRemoteResponse r s
  | .remoteTimeout reqid tag => Sys2Proof.Machine.execRemoteTimeout reqid tag s
  | .combineWindowExpiry entry => Sys2Proof.Machine.execCombineWindowExpiry entry s
  | .ccRemoteAccess a => Sys2Proof.Machine.execCcRemoteAccess a s
  | .ccFence thread => Sys2Proof.Machine.execCcFence thread s
  | .deferredAtomicResponse tag code => Sys2Proof.Machine.execDeferredAtomicResponse tag code s
  | .ctlAck h st => Sys2Proof.Machine.execCtlAck h st s
  | .stretchReq h k => Sys2Proof.Machine.execStretchReq h k s
  | .candidate h c => Sys2Proof.Machine.execCandidate h c s
  | .ctlJoin h elig prio tray => Sys2Proof.Machine.execCtlJoin h elig prio tray s
  | .ctlReady h imageId digest rank slotCount => Sys2Proof.Machine.execCtlReady h imageId digest rank slotCount s
  | .transitInstall h imageId slice entries => Sys2Proof.Machine.execTransitInstall h imageId slice entries s
  | .transitReply h imageId result => Sys2Proof.Machine.execTransitReply h imageId result s
  | .ctlGo h imageId frame resume => Sys2Proof.Machine.execCtlGo h imageId frame resume s
  | .ctlAbandon h imageId status => Sys2Proof.Machine.execCtlAbandon h imageId status s
  | .transitRelease h imageId slice => Sys2Proof.Machine.execTransitRelease h imageId slice s
  | .creditGrant h slots pages => Sys2Proof.Machine.execCreditGrant h slots pages s
  | .creditReturn h slots pages => Sys2Proof.Machine.execCreditReturn h slots pages s
  | .ctlAssign h req ctl jidx gen => Sys2Proof.Machine.execCtlAssign h req ctl jidx gen s
  | .installed h jidx gen tjidx tgen => Sys2Proof.Machine.execInstalled h jidx gen tjidx tgen s
  | .ctlFill h v => Sys2Proof.Machine.execCtlFill h v s
  | .pkgDigest h unit window void digest => Sys2Proof.Machine.execPkgDigest h unit window void digest s
  | .sliceDigest h unit window void modelId epoch digest => Sys2Proof.Machine.execSliceDigest h unit window void modelId epoch digest s
  | .unitDone h unit epoch => Sys2Proof.Machine.execUnitDone h unit epoch s
  | .segReport h image last medium bytes units uhs => Sys2Proof.Machine.execSegReport h image last medium bytes units uhs s
  | .unitFetch h image index offset want => Sys2Proof.Machine.execUnitFetch h image index offset want s
  | .unitData h image index offset st data => Sys2Proof.Machine.execUnitData h image index offset st data s
  | .thawReport h image st units => Sys2Proof.Machine.execThawReport h image st units s
  | .segDelete h image => Sys2Proof.Machine.execSegDelete h image s
  | .ctlMessageReceive => Sys2Proof.Machine.execCtlMessageReceive s
  | .messageRetry => Sys2Proof.Machine.execMessageRetry s
  | .synNop G fl a => Sys2Proof.Machine.execSynNop G fl a s
  | .synWait G fl a => Sys2Proof.Machine.execSynWait G fl a s
  | .synBarrier G fl a => Sys2Proof.Machine.execSynBarrier G fl a s
  | .barrierRelease p id => Sys2Proof.Machine.execBarrierRelease p id s
  | .synSlotWait G fl a => Sys2Proof.Machine.execSynSlotWait G fl a s
  | .synLoop G fl a ue => Sys2Proof.Machine.execSynLoop G fl a ue s
  | .synLoopEnd G fl a => Sys2Proof.Machine.execSynLoopEnd G fl a s
  | .bduLoad G fl a ue flt => Sys2Proof.Machine.execBduLoad G fl a ue flt s
  | .bduGemv G fl a ue flt => Sys2Proof.Machine.execBduGemv G fl a ue flt s
  | .mxaCfg G fl a ue => Sys2Proof.Machine.execMxaCfg G fl a ue s
  | .mxaGemm G fl a ue par => Sys2Proof.Machine.execMxaGemm G fl a ue par s
  | .arrivalThresholdReached G k par => Sys2Proof.Machine.execArrivalThresholdReached G k par s
  | .vecCfg G fl a ue => Sys2Proof.Machine.execVecCfg G fl a ue s
  | .vadd G fl a ue => Sys2Proof.Machine.execVadd G fl a ue s
  | .vmul G fl a ue => Sys2Proof.Machine.execVmul G fl a ue s
  | .vscale G fl a ue => Sys2Proof.Machine.execVscale G fl a ue s
  | .vfunc G fl a ue => Sys2Proof.Machine.execVfunc G fl a ue s
  | .vglu G fl a ue => Sys2Proof.Machine.execVglu G fl a ue s
  | .vred G fl a ue => Sys2Proof.Machine.execVred G fl a ue s
  | .vnorm G fl a ue => Sys2Proof.Machine.execVnorm G fl a ue s
  | .vquant G fl a ue => Sys2Proof.Machine.execVquant G fl a ue s
  | .vi64r G fl a ue => Sys2Proof.Machine.execVi64r G fl a ue s
  | .vi64add G fl a ue => Sys2Proof.Machine.execVi64add G fl a ue s
  | .vcvt G fl a ue => Sys2Proof.Machine.execVcvt G fl a ue s
  | .guardEvaluation G ue => Sys2Proof.Machine.execGuardEvaluation G ue s
  | .rotFwd G fl a ue => Sys2Proof.Machine.execRotFwd G fl a ue s
  | .rotFwdQ G fl a ue => Sys2Proof.Machine.execRotFwdQ G fl a ue s
  | .rotInv G fl a ue => Sys2Proof.Machine.execRotInv G fl a ue s
  | .attCfg G fl a ue => Sys2Proof.Machine.execAttCfg G fl a ue s
  | .attKvq G fl a ue => Sys2Proof.Machine.execAttKvq G fl a ue s
  | .attRun G fl a ue flt => Sys2Proof.Machine.execAttRun G fl a ue flt s
  | .attMerge G fl a ue => Sys2Proof.Machine.execAttMerge G fl a ue s
  | .kvPut G fl a ue => Sys2Proof.Machine.execKvPut G fl a ue s
  | .movFill G fl a ue => Sys2Proof.Machine.execMovFill G fl a ue s
  | .movCopy G fl a ue => Sys2Proof.Machine.execMovCopy G fl a ue s
  | .movHcopy G fl a ue => Sys2Proof.Machine.execMovHcopy G fl a ue s
  | .loessStep G fl a ue crc => Sys2Proof.Machine.execLoessStep G fl a ue crc s
  | .srtCfg G fl a ue => Sys2Proof.Machine.execSrtCfg G fl a ue s
  | .srtTopk G fl a ue => Sys2Proof.Machine.execSrtTopk G fl a ue s
  | .srtRoute G fl a ue => Sys2Proof.Machine.execSrtRoute G fl a ue s
  | .srtBin G fl a ue => Sys2Proof.Machine.execSrtBin G fl a ue s
  | .srtReturn G fl a ue => Sys2Proof.Machine.execSrtReturn G fl a ue s
  | .srtCombine G fl a ue => Sys2Proof.Machine.execSrtCombine G fl a ue s
  | .colA2a G fl a ue => Sys2Proof.Machine.execColA2a G fl a ue s
  | .colA2av G fl a ue => Sys2Proof.Machine.execColA2av G fl a ue s
  | .colGather G fl a ue => Sys2Proof.Machine.execColGather G fl a ue s
  | .colBcast G fl a ue => Sys2Proof.Machine.execColBcast G fl a ue s
  | .colRedscat G fl a ue => Sys2Proof.Machine.execColRedscat G fl a ue s
  | .colAllred G fl a ue => Sys2Proof.Machine.execColAllred G fl a ue s
  | .rmtAtomic G fl a ue => Sys2Proof.Machine.execRmtAtomic G fl a ue s
  | .tierLoad G fl a ue => Sys2Proof.Machine.execTierLoad G fl a ue s
  | .tierStore G fl a ue => Sys2Proof.Machine.execTierStore G fl a ue s
  | .tierMigrate G fl a ue => Sys2Proof.Machine.execTierMigrate G fl a ue s
  | .frameCommandComplete G k ns => Sys2Proof.Machine.execFrameCommandComplete G k ns s
  | .engineWatchdogExpiry G k => Sys2Proof.Machine.execEngineWatchdogExpiry G k s
  | .dramRefreshWindow n d => Sys2Proof.Machine.execDramRefreshWindow n d s
  | .heldAccessServe p ue => Sys2Proof.Machine.execHeldAccessServe p ue s
  | .scrubRow n hits => Sys2Proof.Machine.execScrubRow n hits s
  | .tier2Patrol hits => Sys2Proof.Machine.execTier2Patrol hits s
  | .moveCopyDone p page => Sys2Proof.Machine.execMoveCopyDone p page s
  | .moveAbort p page cause => Sys2Proof.Machine.execMoveAbort p page cause s
  | .frameZeroingDone f => Sys2Proof.Machine.execFrameZeroingDone f s
  | .policyPass => Sys2Proof.Machine.execPolicyPass s
  | .requestLingerExpiry p jidx => Sys2Proof.Machine.execRequestLingerExpiry p jidx s
  | .promptFetchDone p jidx data => Sys2Proof.Machine.execPromptFetchDone p jidx data s
  | .replaceBarrierTimeout p => Sys2Proof.Machine.execReplaceBarrierTimeout p s
  | .fallowSegmentDone p jidx hdr medium ok => Sys2Proof.Machine.execFallowSegmentDone p jidx hdr medium ok s
  | .fallowImageComplete image => Sys2Proof.Machine.execFallowImageComplete image s
  | .fallowImageFailed image st => Sys2Proof.Machine.execFallowImageFailed image st s
  | .thawReadDone t => Sys2Proof.Machine.execThawReadDone t s
  | .sessionXferDone op st data => Sys2Proof.Machine.execSessionXferDone op st data s
  | .shardIngressDone op body => Sys2Proof.Machine.execShardIngressDone op body s
  | .v6RecheckTimer ue => Sys2Proof.Machine.execV6RecheckTimer ue s
  | .vexsumWindowEnd p => Sys2Proof.Machine.execVexsumWindowEnd p s
  | .vexsumFillDone p stack ue => Sys2Proof.Machine.execVexsumFillDone p stack ue s
  | .vexsumCompare p w => Sys2Proof.Machine.execVexsumCompare p w s
  | .sliceStartTimeout p => Sys2Proof.Machine.execSliceStartTimeout p s
  | .errorLatchRaise x => Sys2Proof.Machine.execErrorLatchRaise x s
  | .leakyLeak => Sys2Proof.Machine.execLeakyLeak s
  | .ceRateSecond => Sys2Proof.Machine.execCeRateSecond s
  | .calicheLockstepMismatch => Sys2Proof.Machine.execCalicheLockstepMismatch s
  | .calicheRestartDone => Sys2Proof.Machine.execCalicheRestartDone s
  | .kaolinHeartbeat => Sys2Proof.Machine.execKaolinHeartbeat s
  | .kaolinHeartbeatLost => Sys2Proof.Machine.execKaolinHeartbeatLost s
  | .kaolinRecovered => Sys2Proof.Machine.execKaolinRecovered s
  | .hubFailTimeout => Sys2Proof.Machine.execHubFailTimeout s
  | .pmbusSample reads => Sys2Proof.Machine.execPmbusSample reads s
  | .controlPeriodEnd minCap => Sys2Proof.Machine.execControlPeriodEnd minCap s
  | .boostStep => Sys2Proof.Machine.execBoostStep s
  | .domainRampDone d => Sys2Proof.Machine.execDomainRampDone d s
  | .powerStageExit strap failed untrained => Sys2Proof.Machine.execPowerStageExit strap failed untrained s
  | .powerStageTimeout rail => Sys2Proof.Machine.execPowerStageTimeout rail s
  | .downStepDone => Sys2Proof.Machine.execDownStepDone s
  | .trainWaitExpiry => Sys2Proof.Machine.execTrainWaitExpiry s
  | .electListenExpiry => Sys2Proof.Machine.execElectListenExpiry s
  | .candidateFloodTimer => Sys2Proof.Machine.execCandidateFloodTimer s
  | .electionClose => Sys2Proof.Machine.execElectionClose s
  | .tickLocked => Sys2Proof.Machine.execTickLocked s
  | .hostHotReset x => Sys2Proof.Machine.execHostHotReset x s
  | .vfFlr p => Sys2Proof.Machine.execVfFlr p s
  | .pfFlr x => Sys2Proof.Machine.execPfFlr x s
  | .vfEnableChange x on => Sys2Proof.Machine.execVfEnableChange x on s
  | .hostPortL0Change x ltssm rate width flit => Sys2Proof.Machine.execHostPortL0Change x ltssm rate width flit s
  | .ideStreamInsecure x stream => Sys2Proof.Machine.execIdeStreamInsecure x stream s
  | .hostDmaError x k cmd => Sys2Proof.Machine.execHostDmaError x k cmd s
  | .hostBarRequest x k => Sys2Proof.Machine.execHostBarRequest x k s
  | .nvmeDriveLoss x => Sys2Proof.Machine.execNvmeDriveLoss x s
  | .nvmeDriveReturn x => Sys2Proof.Machine.execNvmeDriveReturn x s
  | .mgmtLinkChange up => Sys2Proof.Machine.execMgmtLinkChange up s
  | .ccLocalAccess a ue => Sys2Proof.Machine.execCcLocalAccess a ue s
  | .calicheSupplyOff => Sys2Proof.Machine.execCalicheSupplyOff s
  | .vrAlertRelease r => Sys2Proof.Machine.execVrAlertRelease r s
  | .xtalReturn => Sys2Proof.Machine.execXtalReturn s
  | .serdesRefReturn n => Sys2Proof.Machine.execSerdesRefReturn n s
  | .busMasterEnableChange fn on => Sys2Proof.Machine.execBusMasterEnableChange fn on s
  | .rtrProbeWrite link ingress slot => Sys2Proof.Machine.execRtrProbeWrite link ingress slot s
  | .mgmtIcmpv6Packet type slaac body => Sys2Proof.Machine.execMgmtIcmpv6Packet type slaac body s
  | .i3cSetdasa dyn => Sys2Proof.Machine.execI3cSetdasa dyn s

end Sys2Proof.Machine
end

