-- ==== Sys2Proof/Safety.lean ====
section
/-!
DEFINITION. The words the statements use: what every step keeps (memory and its error marks in their one form, no byte in a
hole of the map, register fields listed once, in order), and when a mailbox command reaches its own effect.
-/

namespace Sys2Proof.Machine

/-- The keys of a table rise strictly from a lower bound. -/
def risesFrom {α : Type} : Nat → Tab α → Bool
  | _, [] => true
  | lo, (a, _) :: r => decide (lo ≤ a) && risesFrom (a + 1) r

/-- Memory in its canonical form (no listed byte is 0), bytes only where memory stands (R14), error marks only where set,
register fields in order. -/
structure State.Inv (s : State) : Prop where
  mem : Memory.wf s.mem = true
  holes : s.mem.all (fun c => populated c.1) = true
  bad : tabWf false s.bad = true
  regs : risesFrom 0 s.regs = true

/-! ### What a command may change -/

/-- The areas of the state, one per field but the queue. -/
inductive Area
  | freeCtr | out | regs | mem | bad | shadows | kao | mbs | cal | pwr | hif | parts | ctxs | tick
  | fab | keys | qacct | qEnergy | tier | arf | vex | decls | rmt | coll | wts | srv
  deriving DecidableEq, Repr

/-- The area holds the same in both states. -/
def Area.same (a : Area) (s t : State) : Prop :=
  match a with
  | .freeCtr => t.freeCtr = s.freeCtr
  | .out => t.out = s.out
  | .regs => t.regs = s.regs
  | .mem => t.mem = s.mem
  | .bad => t.bad = s.bad
  | .shadows => t.shadows = s.shadows
  | .kao => t.kao = s.kao
  | .mbs => t.mbs = s.mbs
  | .cal => t.cal = s.cal
  | .pwr => t.pwr = s.pwr
  | .hif => t.hif = s.hif
  | .parts => t.parts = s.parts
  | .ctxs => t.ctxs = s.ctxs
  | .tick => t.tick = s.tick
  | .fab => t.fab = s.fab
  | .keys => t.keys = s.keys
  | .qacct => t.qacct = s.qacct
  | .qEnergy => t.qEnergy = s.qEnergy
  | .tier => t.tier = s.tier
  | .arf => t.arf = s.arf
  | .vex => t.vex = s.vex
  | .decls => t.decls = s.decls
  | .rmt => t.rmt = s.rmt
  | .coll => t.coll = s.coll
  | .wts => t.wts = s.wts
  | .srv => t.srv = s.srv

/-- The areas a command may change, whatever the state: a completion or an event writes registers, mailboxes, Kaolin's bookkeeping
and the outputs; the rest is the command's own. -/
def mayChange : Instr → List Area
  | .staemGet _ | .calicheStatus | .hostBarRequest _ _ =>
      [.out]
  | .tierProbeWrite _ _ | .xtalLoss | .trainingStepTimeout _ | .dramRefreshWindow _ _ | .kaolinHeartbeat | .xtalReturn
  | .rtrProbeWrite _ _ _ =>
      [.regs]
  | .mbSqTailWrite _ _ _ | .mbCqHeadWrite _ _ | .mbEvHeadWrite _ _ =>
      [.mbs]
  | .leakyLeak | .ceRateSecond =>
      [.cal]
  | .boostStep =>
      [.pwr]
  | .trstNAssert | .vfEnableChange _ _ | .i3cSetdasa _ =>
      [.hif]
  | .openRetryTimeout _ | .detourTableRebuild =>
      [.fab]
  | .combineWindowExpiry _ =>
      [.rmt]
  | .srvRingHead _ _ _ | .requestLingerExpiry _ _ =>
      [.srv]
  | .pldmRequest _ =>
      [.freeCtr, .out]
  | .mgmtIcmpv6Packet _ _ _ =>
      [.out, .regs]
  | .counterLowRead _ _ =>
      [.out, .shadows]
  | .staemCollectorAck _ _ =>
      [.regs, .cal]
  | .vrAlertRelease _ | .serdesRefReturn _ =>
      [.regs, .pwr]
  | .jtagBypass _ | .jtagIdcode _ | .jtagClamp _ | .jtagHighz _ | .scanSel _ =>
      [.out, .hif]
  | .pldmFirmwareUpdate _ _ | .busMasterEnableChange _ _ =>
      [.regs, .hif]
  | .hubFailTimeout =>
      [.regs, .parts]
  | .synNop _ _ _ | .synWait _ _ _ | .synBarrier _ _ _ | .barrierRelease _ _ | .synSlotWait _ _ _ | .synLoopEnd _ _ _ =>
      [.regs, .ctxs]
  | .linkRetrain _ | .retrainTimer _ =>
      [.regs, .fab]
  | .vexsumWindowEnd _ =>
      [.regs, .vex]
  | .ccFence _ =>
      [.out, .rmt]
  | .rcFieldRead _ _ | .registerWrite _ _ _ =>
      [.out, .regs, .mbs]
  | .staemSetCollector _ _ | .staemAck _ | .staemResendTimer | .staemSend =>
      [.out, .regs, .cal]
  | .mctpControlRequest _ | .jtagSamplePreload _ | .jtagExtest _ | .scanShift _ =>
      [.freeCtr, .out, .hif]
  | .ideKmRequest _ _ _ =>
      [.out, .regs, .hif]
  | .freezeNFall =>
      [.regs, .kao, .hif]
  | .vfFlr _ =>
      [.kao, .mbs, .hif]
  | .mxaCfg _ _ _ _ | .vecCfg _ _ _ _ | .attCfg _ _ _ _ | .srtCfg _ _ _ _ =>
      [.regs, .bad, .ctxs]
  | .frameCommandComplete _ _ _ =>
      [.regs, .parts, .ctxs]
  | .candidateFloodTimer =>
      [.out, .regs, .fab]
  | .ctlAck _ _ =>
      [.parts, .fab, .srv]
  | .replaceBarrierTimeout _ =>
      [.regs, .wts, .srv]
  | .devIdentify _ _ | .devGetState _ _ | .devGetTelemetry _ _ | .jobQuery _ _ | .partAccounting _ _ | .linkQuery _ _
  | .tickConfig _ _ | .energyRead _ _ | .faultLogRead _ _ | .faultPolicySet _ _ | .scrubConfig _ _ | .diagRun _ _
  | .tickSyncInEdge _ | .kaolinRecovered | .hostPortL0Change _ _ _ _ _ | .mgmtLinkChange _ =>
      [.out, .regs, .kao, .mbs]
  | .electListenExpiry =>
      [.out, .regs, .tick, .fab]
  | .frameZeroingDone _ =>
      [.regs, .mem, .bad, .tier]
  | .tierMigrate _ _ _ _ =>
      [.regs, .bad, .ctxs, .tier]
  | .spdmRequest _ =>
      [.freeCtr, .out, .regs, .wts]
  | .scanRead _ _ =>
      [.freeCtr, .out, .regs, .kao, .mbs]
  | .devSetTime _ _ | .unitFence _ _ | .unitUnfence _ _ =>
      [.out, .regs, .kao, .mbs, .cal]
  | .pwrSetMode _ _ | .tickLocked =>
      [.out, .regs, .kao, .mbs, .pwr]
  | .freeze _ _ | .ideStreamInsecure _ _ =>
      [.out, .regs, .kao, .mbs, .hif]
  | .sliceBind _ _ =>
      [.out, .regs, .kao, .mbs, .parts]
  | .topoVerify _ _ | .abortSymbolReceive _ _ _ _ _ | .faultRptSymbol _ _ _ _ _ =>
      [.out, .regs, .kao, .mbs, .tick]
  | .pwrSetCap _ _ | .linkOut _ | .linkDisable _ _ | .linkDownSymbol _ _ _ _ | .echoSymbol _ _ _ _ _
  | .transitInstall _ _ _ _ | .transitRelease _ _ _ | .unitFetch _ _ _ _ _ =>
      [.out, .regs, .kao, .mbs, .fab]
  | .keyInstall _ _ | .keyDelete _ _ =>
      [.out, .regs, .kao, .mbs, .keys]
  | .moveAbort _ _ _ | .policyPass =>
      [.out, .regs, .kao, .mbs, .tier]
  | .replicaCompareConfig _ _ =>
      [.out, .regs, .kao, .mbs, .vex]
  | .deferredAtomicResponse _ _ =>
      [.out, .regs, .kao, .mbs, .rmt]
  | .groupWrite _ _ =>
      [.out, .regs, .kao, .mbs, .coll]
  | .pfFlr _ =>
      [.regs, .kao, .mbs, .hif, .wts]
  | .reqSubmit _ _ | .reqContinue _ _ | .reqCancel _ _ | .reqQuery _ _ | .reqRelease _ _ | .queueConfig _ _
  | .queueRemove _ _ | .streamBind _ _ | .streamUnbind _ _ | .admissionConfig _ _ | .sessionFallow _ _
  | .sessionImport _ _ | .nvmeDriveReturn _ =>
      [.out, .regs, .kao, .mbs, .srv]
  | .calicheLockstepMismatch | .calicheRestartDone | .kaolinHeartbeatLost =>
      [.out, .regs, .kao, .mbs, .cal, .parts]
  | .partCreate _ _ =>
      [.out, .regs, .kao, .mbs, .hif, .parts]
  | .electionClose =>
      [.out, .regs, .kao, .mbs, .pwr, .tick]
  | .missingTick =>
      [.out, .regs, .kao, .mbs, .parts, .tick]
  | .pwrDomain _ _ | .controlPeriodEnd _ =>
      [.out, .regs, .kao, .mbs, .pwr, .fab]
  | .ctlGo _ _ _ _ | .ctlFill _ _ =>
      [.out, .regs, .kao, .mbs, .parts, .fab]
  | .stretchReq _ _ | .candidate _ _ | .ctlJoin _ _ _ _ =>
      [.out, .regs, .kao, .mbs, .tick, .fab]
  | .pkgDigest _ _ _ _ _ | .sliceDigest _ _ _ _ _ _ _ =>
      [.out, .regs, .kao, .mbs, .fab, .vex]
  | .remoteResponse _ | .remoteTimeout _ _ | .ccRemoteAccess _ =>
      [.out, .regs, .kao, .mbs, .fab, .rmt]
  | .hostHotReset _ =>
      [.out, .regs, .kao, .mbs, .hif, .wts]
  | .replaceEnd _ _ | .replaceAbort _ _ =>
      [.out, .regs, .kao, .mbs, .parts, .wts]
  | .unitDone _ _ _ =>
      [.out, .regs, .kao, .mbs, .fab, .wts]
  | .sessionDiscard _ _ | .creditGrant _ _ _ | .creditReturn _ _ _ | .ctlAssign _ _ _ _ _ | .installed _ _ _ _ _
  | .segReport _ _ _ _ _ _ _ | .segDelete _ _ =>
      [.out, .regs, .kao, .mbs, .fab, .srv]
  | .tier2Patrol _ =>
      [.out, .regs, .bad, .kao, .mbs, .cal, .parts]
  | .tickLossSelfFence =>
      [.out, .regs, .kao, .mbs, .cal, .parts, .tick]
  | .errorLatchRaise _ =>
      [.out, .regs, .kao, .mbs, .cal, .parts, .tick, .srv]
  | .identSymbol _ _ _ | .laneLockLoss _ _ _ | .fecUeLimit _ _ =>
      [.out, .regs, .kao, .mbs, .cal, .parts, .fab]
  | .vexsumCompare _ _ =>
      [.out, .regs, .kao, .mbs, .cal, .parts, .vex]
  | .replaceBegin _ _ =>
      [.out, .regs, .kao, .mbs, .vex, .wts, .srv]
  | .scrubRow _ _ =>
      [.freeCtr, .out, .regs, .bad, .kao, .mbs, .cal, .parts]
  | .vrAlert _ _ =>
      [.out, .regs, .kao, .mbs, .cal, .pwr, .parts, .tick]
  | .domainRampDone _ =>
      [.out, .regs, .mem, .bad, .kao, .mbs, .pwr, .fab]
  | .tickSymbolReceive _ _ _ _ | .trainingStepDone _ =>
      [.out, .regs, .kao, .mbs, .cal, .parts, .tick, .fab]
  | .v6RecheckTimer _ =>
      [.out, .regs, .bad, .kao, .mbs, .cal, .parts, .wts]
  | .weightLoadShard _ _ | .replaceLayer _ _ =>
      [.out, .regs, .mem, .bad, .kao, .mbs, .tier, .wts]
  | .weightVerify _ _ =>
      [.out, .regs, .kao, .mbs, .cal, .parts, .vex, .wts]
  | .modelDeclare _ _ =>
      [.out, .regs, .kao, .mbs, .parts, .tier, .decls, .wts]
  | .promptFetchDone _ _ _ =>
      [.out, .regs, .mem, .bad, .kao, .mbs, .parts, .srv]
  | .fallowSegmentDone _ _ _ _ _ | .fallowImageFailed _ _ =>
      [.out, .regs, .kao, .mbs, .cal, .parts, .fab, .srv]
  | .fallowImageComplete _ =>
      [.out, .regs, .mem, .bad, .kao, .mbs, .tier, .srv]
  | .devSetPowerState _ _ | .topoLoadMap _ _ | .pwrEnRise | .resetNRelease | .pmbusSample _ | .powerStageTimeout _
  | .trainWaitExpiry =>
      [.out, .regs, .kao, .mbs, .cal, .pwr, .parts, .tick, .fab]
  | .moveCopyDone _ _ =>
      [.out, .regs, .mem, .bad, .kao, .mbs, .cal, .parts, .tier]
  | .jobStopImmediate _ _ | .jobStopCheap _ _ | .jobPause _ _ | .jobPauseCheap _ _ | .ctlReady _ _ _ _ _
  | .transitReply _ _ _ | .ctlAbandon _ _ _ | .sliceStartTimeout _ =>
      [.out, .regs, .mem, .bad, .kao, .mbs, .parts, .fab, .tier]
  | .shardIngressDone _ _ =>
      [.out, .regs, .mem, .bad, .kao, .mbs, .fab, .tier, .wts]
  | .sessionThawOwn _ _ | .sessionThawNew _ _ | .sessionExport _ _ | .unitData _ _ _ _ _ _ | .thawReport _ _ _ _
  | .messageRetry | .sessionXferDone _ _ _ =>
      [.out, .regs, .kao, .mbs, .cal, .parts, .fab, .tier, .srv]
  | .movFill _ _ _ _ =>
      [.freeCtr, .out, .regs, .mem, .bad, .kao, .mbs, .cal, .parts, .ctxs]
  | .synLoop _ _ _ _ | .guardEvaluation _ _ =>
      [.freeCtr, .out, .regs, .bad, .kao, .mbs, .cal, .parts, .ctxs, .tick]
  | .vexsumFillDone _ _ _ =>
      [.freeCtr, .out, .regs, .bad, .kao, .mbs, .cal, .parts, .fab, .vex]
  | .pwrEnFall | .sensorSample _ | .refclk100Loss =>
      [.out, .regs, .kao, .mbs, .cal, .pwr, .parts, .tick, .fab, .srv]
  | .mxaGemm _ _ _ _ _ | .arrivalThresholdReached _ _ _ | .vadd _ _ _ _ | .vmul _ _ _ _ | .vscale _ _ _ _
  | .vfunc _ _ _ _ | .vglu _ _ _ _ | .vred _ _ _ _ | .vnorm _ _ _ _ | .vquant _ _ _ _ | .vi64r _ _ _ _ | .vi64add _ _ _ _
  | .vcvt _ _ _ _ | .rotFwd _ _ _ _ | .rotFwdQ _ _ _ _ | .rotInv _ _ _ _ | .attKvq _ _ _ _ | .attMerge _ _ _ _
  | .kvPut _ _ _ _ | .movCopy _ _ _ _ | .movHcopy _ _ _ _ | .srtTopk _ _ _ _ | .srtRoute _ _ _ _ | .srtBin _ _ _ _
  | .srtReturn _ _ _ _ | .srtCombine _ _ _ _ =>
      [.freeCtr, .out, .regs, .mem, .bad, .kao, .mbs, .cal, .parts, .ctxs, .tick]
  | .jobStart _ _ _ | .jobResume _ _ =>
      [.out, .regs, .mem, .bad, .kao, .mbs, .cal, .pwr, .parts, .fab, .tier]
  | .bduLoad _ _ _ _ _ =>
      [.freeCtr, .out, .regs, .bad, .kao, .mbs, .cal, .parts, .ctxs, .tick, .arf]
  | .rmtAtomic _ _ _ _ =>
      [.freeCtr, .out, .regs, .bad, .kao, .mbs, .cal, .parts, .ctxs, .tick, .rmt]
  | .remoteRequestHome _ _ | .heldAccessServe _ _ =>
      [.freeCtr, .out, .regs, .mem, .bad, .kao, .mbs, .cal, .parts, .fab, .rmt]
  | .ccLocalAccess _ _ =>
      [.freeCtr, .out, .regs, .mem, .bad, .kao, .mbs, .cal, .parts, .tier, .rmt]
  | .thawReadDone _ =>
      [.out, .regs, .mem, .bad, .kao, .mbs, .cal, .parts, .fab, .tier, .srv]
  | .tierLoad _ _ _ _ | .tierStore _ _ _ _ =>
      [.freeCtr, .out, .regs, .mem, .bad, .kao, .mbs, .cal, .parts, .ctxs, .tick, .tier]
  | .attRun _ _ _ _ _ =>
      [.freeCtr, .out, .regs, .mem, .bad, .kao, .mbs, .cal, .parts, .ctxs, .tick, .arf]
  | .bduGemv _ _ _ _ _ =>
      [.freeCtr, .out, .regs, .mem, .bad, .kao, .mbs, .cal, .parts, .ctxs, .tick, .vex]
  | .partAssign _ _ =>
      [.out, .regs, .mem, .bad, .kao, .mbs, .pwr, .parts, .ctxs, .fab, .tier, .srv]
  | .nvmeDriveLoss _ =>
      [.out, .regs, .mem, .bad, .kao, .mbs, .cal, .parts, .fab, .tier, .wts, .srv]
  | .loessStep _ _ _ _ _ =>
      [.freeCtr, .out, .regs, .mem, .bad, .kao, .mbs, .cal, .parts, .ctxs, .tick, .tier, .vex]
  | .colA2a _ _ _ _ | .colA2av _ _ _ _ | .colGather _ _ _ _ | .colBcast _ _ _ _ | .colRedscat _ _ _ _
  | .colAllred _ _ _ _ =>
      [.freeCtr, .out, .regs, .mem, .bad, .kao, .mbs, .cal, .parts, .ctxs, .tick, .fab, .coll]
  | .serdesRefLoss _ =>
      [.out, .regs, .mem, .bad, .kao, .mbs, .cal, .pwr, .parts, .fab, .tier, .wts, .srv]
  | .ctlMessageReceive =>
      [.out, .regs, .mem, .bad, .kao, .mbs, .cal, .parts, .tick, .fab, .tier, .vex, .wts, .srv]
  | .engineWatchdogExpiry _ _ =>
      [.freeCtr, .out, .regs, .mem, .bad, .kao, .mbs, .cal, .parts, .ctxs, .tick, .fab, .tier, .arf, .coll]
  | .powerStageExit _ _ _ =>
      [.out, .regs, .mem, .bad, .kao, .mbs, .cal, .pwr, .hif, .parts, .tick, .fab, .tier, .arf, .srv]
  | .commitDeadline | .slotSend _ _ =>
      [.freeCtr, .out, .regs, .mem, .bad, .kao, .mbs, .cal, .parts, .ctxs, .tick, .fab, .tier, .wts, .srv]
  | .slotReceive _ _ =>
      [.freeCtr, .out, .regs, .mem, .bad, .kao, .mbs, .cal, .parts, .ctxs, .tick, .fab, .tier, .rmt, .coll, .srv]
  | .clockRelease _ _ _ =>
      [.out, .regs, .mem, .bad, .kao, .mbs, .cal, .pwr, .parts, .ctxs, .tick, .fab, .tier, .arf, .vex, .rmt, .coll,
      .wts, .srv]
  | .partDestroy _ _ =>
      [.out, .regs, .mem, .bad, .kao, .mbs, .pwr, .hif, .parts, .ctxs, .fab, .keys, .qacct, .qEnergy, .tier, .vex,
      .decls, .coll, .wts, .srv]
  | .tick _ =>
      [.freeCtr, .out, .regs, .mem, .bad, .kao, .mbs, .cal, .pwr, .parts, .ctxs, .tick, .fab, .qacct, .qEnergy, .tier,
      .arf, .vex, .rmt, .coll, .wts, .srv]
  | .mailboxFetch _ | .managementDatagram _ _ _ | .hostDmaError _ _ _ =>
      [.freeCtr, .out, .regs, .mem, .bad, .kao, .mbs, .cal, .pwr, .hif, .parts, .ctxs, .tick, .fab, .keys, .qacct,
      .qEnergy, .tier, .arf, .vex, .decls, .rmt, .coll, .wts, .srv]
  | .resetNAssert | .calicheSupplyOn _ | .downStepDone | .calicheSupplyOff =>
      [.freeCtr, .out, .regs, .mem, .bad, .shadows, .kao, .mbs, .cal, .pwr, .hif, .parts, .ctxs, .tick, .fab, .keys,
      .qacct, .qEnergy, .tier, .arf, .vex, .decls, .rmt, .coll, .wts, .srv]

/-! ### Mailbox commands that reach their effect -/

/-- The mailbox is served in the present state, the command passes steps 2 to 5 of R457 and the range checks every row shares. -/
def fetched (r : CmdRow) (e : Entry) (s : State) : Bool :=
  servedBox s e.src && !((frozen s || rdb s Reg.CAL_HUB_FAILED) && !calicheServes r.op) &&
    !(pstate s == 1 && !standbyServes r.op) && (preChecks r e (startCmd e s)).isNone && commonRange r e

/-- What the host answers the command: nothing where its function may not master the bus (R544). -/
def granted (r : CmdRow) (e : Entry) (io : HostIo) (s : State) : HostIo := gateIo (startCmd e s) r.op e io

/-- The output buffer of a command reaches the host: inline on the management mailbox (R454), or written by a function that may
master the bus. -/
def delivered (r : CmdRow) (e : Entry) (io : HostIo) (s : State) : Bool := isMgmt e || (granted r e io s).wrOk

/-- Inline data of a response (R454). -/
def inlineOf (e : Entry) (b : Bytes) : Bytes := if isMgmt e then b else []

/-- The host write of an output buffer, which the management mailbox does not make. -/
def sentTo (e : Entry) (iova : Nat) (b : Bytes) (s : State) : State :=
  if isMgmt e then s
  else bump (emit s (.hostWrite (srcPort s e.src) (srcBox e.src) iova b)) (Reg.HIF_N_WR_BYTE_CNT (srcPort s e.src)) b.length

/-- A command that has not completed waits in the order of R450. -/
def waitsFor (r : CmdRow) (e : Entry) (io : HostIo) (w : WaitFor) (s : State) : State :=
  { s with kao := { s.kao with waiting := s.kao.waiting ++ [⟨r.op, e, io, w, false⟩] } }

/-! ### Hardened register fields -/

/-- The register fields of access RWH (Table 1-8): those of TICK_CONFIG, the rotation seeds, the bank maps, the tier shares and the slot
ranges. -/
def hardenedField (f : Field) : Prop :=
  f ∈ [Reg.TICK_SYNC_OUT_EN, Reg.TICK_SYNC_IN_EN, Reg.TICK_MASTER_ELIG, Reg.TICK_MASTER_PRIO, Reg.TICK_FRAME_SLOTS,
       Reg.TIER_FALLOW_FRAMES] ∨
  (∃ G j, G < 48 ∧ j < 64 ∧ (f = Reg.ROT_SEED_VALID G ∨ f = Reg.ROT_SEED_LO G j ∨ f = Reg.ROT_SEED_HI G j)) ∨
  (∃ G m, G < 48 ∧ m < 3 ∧ f = Reg.SPM_BANK_MAP G m) ∨
  (∃ m, m < 16 ∧ f = Reg.SPM_HUB_MAP m) ∨ (∃ m, m < 32 ∧ f = Reg.SPM_HUB_OWNER m) ∨
  (∃ p, p < 32 ∧ (f = Reg.TIER_P_MAP_BASE p ∨ f = Reg.TIER_P_RANGE_PAGES p ∨ f = Reg.TIER_P_T2_QUOTA p ∨
    f = Reg.SRV_P_SLOT_BASE p ∨ f = Reg.SRV_P_SLOT_COUNT p))

/-! ### CTL messages that are heard for the first time -/

/-- An expected message that is new has been applied: it is remembered with its answer, and answered (R292). -/
def heardCtl (h : CtlHdr) (a : CtlAnswer) (s : State) : State :=
  answerCtl h a (noteSeen (match a with
    | some (t, b) => ⟨h.srcPkg, h.mseq, t, b⟩
    | none => ⟨h.srcPkg, h.mseq, 0, []⟩) s)

end Sys2Proof.Machine
end

