-- ==== Sys2Proof/Certificates/Slice0/Obligations.lean ====
section
/-!
DEFINITION. The statements for the provers. First the whole machine: the step, the queue, the frame and the invariant of every
command; memory, arithmetic, stores, the mailboxes' checks. Then, family by family, what every command does when it reaches its
own effect, the next state in full.
-/

open Sys2Proof Sys2Proof.Machine

/-! ### The step, the queue, and what every command leaves -/

/-- A step takes the command at the front of the queue and has its effect on the state with the queue's rest
(log entry 1). -/
def Obligations.StepRunsFrontCommand : Prop :=
  (∀ (c : Instr) (s : State), step { s with pending := c :: s.pending } = exec c s) ∧
  (∀ (c : Instr) (q : List Instr) (s : State), s.pending = c :: q → step s = exec c { s with pending := q })

/-- With no command waiting the block idles: the model's choice, log entry 1. -/
def Obligations.EmptyQueueIdles : Prop :=
  ∀ s : State, s.pending = [] → step s = .next s

/-- Every command answers a next state: none stops the block. The command itself leaves the queue as it is, and takes free values in
order (log entries 1 and 3). -/
def Obligations.EveryCommandAnswers : Prop :=
  ∀ (i : Instr) (s : State), ∃ t, exec i s = .next t ∧ t.pending = s.pending ∧ s.freeCtr ≤ t.freeCtr

/-- The frame of every command: an area of the state outside its list holds what it held. -/
def Obligations.CommandsChangeOnlyTheirAreas : Prop :=
  ∀ (i : Instr) (s t : State), exec i s = .next t → ∀ a : Area, (mayChange i).contains a = false → a.same s t

/-- Reset meets the invariant. -/
def Obligations.ResetMeetsInvariant : Prop := State.reset.Inv

/-- Every step keeps the invariant: memory in its canonical form and only where memory stands (R14), error marks only where set,
register fields in order. -/
def Obligations.StepKeepsInvariant : Prop :=
  ∀ s t : State, s.Inv → step s = .next t → t.Inv

/-! ### Memory (R14, R15) -/

/-- A write reads back where memory stands and leaves every other byte. -/
def Obligations.MemoryReadsBackWrites : Prop :=
  ∀ (s : State) (a : Nat) (b : Bytes), s.Inv →
    (∀ i, i < b.length → populated (a + i) = true → memByte (writeMem s a b) (a + i) = b.getD i 0) ∧
    (∀ x, (x < a ∨ a + b.length ≤ x) → memByte (writeMem s a b) x = memByte s x)

/-- A hole of Table 1-5 holds nothing: it reads 0 in the model's memory, and a write there has no effect. -/
def Obligations.HolesHoldNothing : Prop :=
  ∀ (s : State) (a : Nat) (b : Byte), s.Inv →
    ((0x9000000000 ≤ a ∧ a < 0x10000000000) ∨ (0x18000000000 ≤ a ∧ a < 0x20000000000) ∨
     (0x20034000000 ≤ a ∧ a < 0x30000000000) ∨ 0x30004000000 ≤ a) →
    place a = .hole ∧ memByte s a = 0 ∧ writeMem s a [b] = s

/-! ### Arithmetic (R54, R64) -/

/-- FP32 to BF16 (R64): a NaN gives 0x7FC0. Any other value gives the nearest of the two BF16 neighbours, the even one at the middle, the carry
running into the exponent; BF16 to FP32 appends 16 zero bits. -/
def Obligations.Bf16RoundsToNearestEven : Prop :=
  ∀ x : BitVec 32,
    (isNaN x = true → toBf16 x = 0x7FC0) ∧
    (isNaN x = false →
      (x.toNat % 2 ^ 16 < 2 ^ 15 → toBf16 x = x.toNat / 2 ^ 16) ∧
      (2 ^ 15 < x.toNat % 2 ^ 16 → toBf16 x = x.toNat / 2 ^ 16 + 1) ∧
      (x.toNat % 2 ^ 16 = 2 ^ 15 → toBf16 x % 2 = 0 ∧ (toBf16 x = x.toNat / 2 ^ 16 ∨ toBf16 x = x.toNat / 2 ^ 16 + 1))) ∧
    (∀ h : BitVec 16, ofBf16 h.toNat = h ++ (0 : BitVec 16))

/-- Where weight i of a group stands (R54, Table 3-2), and what its bits say (R53, R55). -/
def Obligations.WeightPositions : Prop :=
  ∀ (g : Bytes) (i : Nat), i < 128 →
    weightAt 0 g i = (if (g.getD (i / 8) 0).getLsbD (i % 8) then 1 else -1) ∧
    (∀ t : Nat → Nat, (∀ k, t k < 3) → (g.getD (i / 5) 0).toNat = t 0 + 3 * t 1 + 9 * t 2 + 27 * t 3 + 81 * t 4 →
      weightAt 1 g i = (t (i % 5) : Int) - 1) ∧
    weightAt 2 g i = ((g.getD (i / 4) 0).extractLsb' (2 * (i % 4)) 2).toInt ∧
    weightAt 3 g i = ((g.getD (i / 2) 0).extractLsb' (4 * (i % 2)) 4).toInt ∧
    weightAt 4 g i = (g.getD i 0).toInt

/-! ### Frame commands: what they store -/

/-- VADD, VMUL and VGLU (R143, R147): element i of the output is the operation on elements i of both inputs, four bytes each from the output's
place; every other byte of memory is as before. -/
def Obligations.VectorPairsStoreTheirOutput : Prop :=
  ∀ (s u t : State) (G : Nat) (fl : BitVec 4) (a : BitVec 112) (ue : List Nat) (i : Instr) (op : Nat) (f : F32 → F32 → F32),
    s.Inv → canIssue s G = true →
    ((i = .vadd G fl a ue ∧ op = 2 ∧ f = fadd) ∨ (i = .vmul G fl a ue ∧ op = 3 ∧ f = fmul) ∨
     (i = .vglu G fl a ue ∧ op = 6 ∧ f = fun g x => fmul (siluF g) x)) →
    issueCmd 3 op G fl.toNat a (takeUe ue s) = u → exec i s = .next t →
    (∀ b k, b < 4 → k < (vecOf a).n → populated (spmAddr G ((vecOf a).dst + 4 * k + b)) = true →
      memByte t (spmAddr G ((vecOf a).dst + 4 * k + b)) =
        (leBytes 4 (map2 f ((f32s u G (vecOf a).src0 (vecOf a).n).getD k none)
          ((f32s u G (vecOf a).src1 (vecOf a).n).getD k none)).v.toNat).getD b 0) ∧
    (∀ x, (x < spmAddr G (vecOf a).dst ∨ spmAddr G (vecOf a).dst + 4 * (vecOf a).n ≤ x) → memByte t x = memByte s x)

/-- MOV_FILL (R170): PATTERN (bits 111:48), little-endian, in each of the LEN8 (bits 23:0) words from DST_OFS (bits 47:24); every other byte of
memory is as before. -/
def Obligations.MovFillWritesPattern : Prop :=
  ∀ (s : State) (G : Nat) (fl : BitVec 4) (a : BitVec 112) (ue : List Nat), s.Inv → canIssue s G = true →
    ∃ t, exec (.movFill G fl a ue) s = .next t ∧
      (∀ k b, b < 8 → k < (a.extractLsb' 0 24).toNat → populated (spmAddr G ((a.extractLsb' 24 24).toNat + 8 * k + b)) = true →
        memByte t (spmAddr G ((a.extractLsb' 24 24).toNat + 8 * k + b)) = (a.extractLsb' 48 64).extractLsb' (8 * b) 8) ∧
      (∀ x, (x < spmAddr G (a.extractLsb' 24 24).toNat ∨
          spmAddr G (a.extractLsb' 24 24).toNat + 8 * (a.extractLsb' 0 24).toNat ≤ x) → memByte t x = memByte s x)

/-- A frame command of a context that may not issue (it waits, has reached its commit command, or holds 64 commands in flight; its job does not
run) waits: nothing changes. -/
def Obligations.FrameCommandsWaitTheirTurn : Prop :=
  ∀ (s : State) (G : Nat) (fl : BitVec 4) (a : BitVec 112) (ue : List Nat), canIssue s G = false →
    exec (.synNop G fl a) s = .next s ∧ exec (.synWait G fl a) s = .next s ∧ exec (.synBarrier G fl a) s = .next s ∧
    exec (.synSlotWait G fl a) s = .next s ∧ exec (.synLoop G fl a ue) s = .next s ∧ exec (.synLoopEnd G fl a) s = .next s ∧
    exec (.mxaCfg G fl a ue) s = .next s ∧ (∀ par, exec (.mxaGemm G fl a ue par) s = .next s) ∧
    exec (.vecCfg G fl a ue) s = .next s ∧ exec (.vadd G fl a ue) s = .next s ∧ exec (.vmul G fl a ue) s = .next s ∧
    exec (.vscale G fl a ue) s = .next s ∧ exec (.vfunc G fl a ue) s = .next s ∧ exec (.vglu G fl a ue) s = .next s ∧
    exec (.vred G fl a ue) s = .next s ∧ exec (.vnorm G fl a ue) s = .next s ∧ exec (.vquant G fl a ue) s = .next s ∧
    exec (.vi64r G fl a ue) s = .next s ∧ exec (.vi64add G fl a ue) s = .next s ∧ exec (.vcvt G fl a ue) s = .next s ∧
    exec (.rotFwd G fl a ue) s = .next s ∧ exec (.rotFwdQ G fl a ue) s = .next s ∧ exec (.rotInv G fl a ue) s = .next s ∧
    exec (.attCfg G fl a ue) s = .next s ∧ exec (.attKvq G fl a ue) s = .next s ∧ exec (.attMerge G fl a ue) s = .next s ∧
    exec (.movFill G fl a ue) s = .next s ∧ exec (.movCopy G fl a ue) s = .next s ∧ exec (.movHcopy G fl a ue) s = .next s ∧
    exec (.kvPut G fl a ue) s = .next s ∧ exec (.srtCfg G fl a ue) s = .next s ∧ exec (.srtTopk G fl a ue) s = .next s ∧
    exec (.srtRoute G fl a ue) s = .next s ∧ exec (.srtBin G fl a ue) s = .next s ∧ exec (.srtReturn G fl a ue) s = .next s ∧
    exec (.srtCombine G fl a ue) s = .next s

/-! ### Mailbox commands: order of the checks, completions, rings -/

/-- The checks of R457 in order, for every row: a source that the row does not list (R446), then a reserved field that is not 0 (R4), then
the partition named (R416), then authority over it (R422), then, where no length or alignment of the row's own fails, the
ranges all rows share (SLICE_BIND has its own list). The first that fails completes the command with its status, and nothing else changes. -/
def Obligations.ChecksComeInOrder : Prop :=
  ∀ (r : CmdRow) (h : Entry → HostIo → State → CmdOut) (e : Entry) (io : HostIo) (s u : State), startCmd e s = u →
    servedBox s e.src = true → frozen s = false → rdb s Reg.CAL_HUB_FAILED = false → 2 ≤ pstate s →
    (sourceOk r e = false → runRow r h e io s = .next (complete e 0x0400 [] [] u)) ∧
    (sourceOk r e = true → reservedOk r e = false → runRow r h e io s = .next (complete e 0x0101 [] [] u)) ∧
    (sourceOk r e = true → reservedOk r e = true → partitionOk r e u = false →
      runRow r h e io s = .next (complete e 0x0105 [] [] u)) ∧
    (sourceOk r e = true → reservedOk r e = true → partitionOk r e u = true → authorityOk r e u = false →
      runRow r h e io s = .next (complete e 0x0400 [] [] u)) ∧
    (preChecks r e u = none → commonRange r e = false → r.op ≠ 0x0606 →
      (h e (granted r e io s) u).status ≠ 0x0103 → (h e (granted r e io s) u).status ≠ 0x0104 →
      runRow r h e io s = .next (complete e 0x0102 [] [] u))

/-- Every opcode of Tables 18-10 to 18-18 that an entry names runs its row; an entry with any other opcode completes with 0x0100 (R457 step 1). -/
def Obligations.EntryRunsItsRow : Prop :=
  ∀ (e : Entry) (io : HostIo) (s : State),
    (exec (.devIdentify e io) s = .next (runEntry 0x0101 e io s) ∧ exec (.devGetState e io) s = .next (runEntry 0x0102 e io s) ∧
     exec (.devSetPowerState e io) s = .next (runEntry 0x0103 e io s) ∧ exec (.devGetTelemetry e io) s = .next (runEntry 0x0104 e io s) ∧
     exec (.devSetTime e io) s = .next (runEntry 0x0105 e io s) ∧ exec (.partCreate e io) s = .next (runEntry 0x0201 e io s) ∧
     exec (.partDestroy e io) s = .next (runEntry 0x0202 e io s) ∧ exec (.partAssign e io) s = .next (runEntry 0x0203 e io s) ∧
     exec (.jobStart e io []) s = .next (runEntry 0x0204 e io s) ∧ exec (.jobStopImmediate e io) s = .next (runEntry 0x0205 e io s) ∧
     exec (.jobQuery e io) s = .next (runEntry 0x0206 e io s) ∧ exec (.partAccounting e io) s = .next (runEntry 0x0207 e io s)) ∧
    (exec (.modelDeclare e io) s = .next (runEntry 0x0301 e io s) ∧ exec (.weightLoadShard e io) s = .next (runEntry 0x0302 e io s) ∧
     exec (.weightVerify e io) s = .next (runEntry 0x0303 e io s) ∧ exec (.replaceBegin e io) s = .next (runEntry 0x0304 e io s) ∧
     exec (.replaceLayer e io) s = .next (runEntry 0x0305 e io s) ∧ exec (.replaceEnd e io) s = .next (runEntry 0x0306 e io s) ∧
     exec (.keyInstall e io) s = .next (runEntry 0x0307 e io s) ∧ exec (.reqSubmit e io) s = .next (runEntry 0x0401 e io s) ∧
     exec (.reqCancel e io) s = .next (runEntry 0x0402 e io s) ∧ exec (.reqQuery e io) s = .next (runEntry 0x0403 e io s) ∧
     exec (.queueConfig e io) s = .next (runEntry 0x0404 e io s) ∧ exec (.streamBind e io) s = .next (runEntry 0x0405 e io s) ∧
     exec (.admissionConfig e io) s = .next (runEntry 0x0406 e io s)) ∧
    (exec (.sessionFallow e io) s = .next (runEntry 0x0501 e io s) ∧ exec (.sessionThawOwn e io) s = .next (runEntry 0x0502 e io s) ∧
     exec (.sessionExport e io) s = .next (runEntry 0x0503 e io s) ∧ exec (.sessionImport e io) s = .next (runEntry 0x0504 e io s) ∧
     exec (.sessionDiscard e io) s = .next (runEntry 0x0505 e io s)) ∧
    (∀ op, handlers.all (fun h => h.1.op != op) = true → servedBox s e.src = true →
      runEntry op e io s = complete e 0x0100 [] [] (startCmd e s))

/-- The completion of a command of a PF or VF mailbox (R451): 32 bytes in slot MB_CQ_TAIL mod 64, the count advanced, one command fewer in
flight, the window's vector unless NO_INT; every other slot, window and part of the state is as before, but for Kaolin's count of commands. -/
def Obligations.CompletionWrittenToRing : Prop :=
  ∀ (e : Entry) (st : Nat) (res inl : Bytes) (s : State), isMgmt e = false →
    (let m := srcBox e.src
     let b := mbox s m
     let t := complete e st res inl s
     tget [] (mbox t m).cq (b.cqTail % 64) = leBytes 2 e.tag ++ leBytes 2 st ++ padTo 28 res ∧
     (∀ k, k ≠ b.cqTail % 64 → tget [] (mbox t m).cq k = tget [] b.cq k) ∧
     (mbox t m).cqTail = (b.cqTail + 1) % 2 ^ 16 ∧ (mbox t m).inflight = b.inflight - 1 ∧
     (mbox t m).sqHead = b.sqHead ∧ (mbox t m).sqTail = b.sqTail ∧ (mbox t m).cqHead = b.cqHead ∧
     (∀ k, k ≠ m → mbox t k = mbox s k) ∧
     t.out = (if e.noInt then s.out else .msix m 0 :: s.out) ∧
     (∀ a : Area, a ≠ .regs → a ≠ .mbs → a ≠ .out → a.same s t))

/-- Kaolin fetches from no window that has no served entry, 16 commands in flight, or no room in its completion ring (R449). -/
def Obligations.FetchNeedsRoom : Prop :=
  ∀ (io : HostIo) (s : State),
    (∀ m, m < 34 → servedBox s (boxSource m) = false ∨ (mbox s m).sqHead = (mbox s m).sqTail ∨ 16 ≤ (mbox s m).inflight ∨
      64 ≤ (mbox s m).inflight + subMod 16 (mbox s m).cqTail (mbox s m).cqHead) →
    exec (.mailboxFetch io) s = .next s

/-- A doorbell that R448 rejects sets its bit of MB_ERR and changes nothing else of the window. -/
def Obligations.RejectedDoorbellsSetError : Prop :=
  ∀ (mb v : Nat) (es : List Bytes) (s : State),
    (64 < (v % 2 ^ 16 + 2 ^ 16 - (mbox s mb).sqHead % 2 ^ 16) % 2 ^ 16 →
      exec (.mbSqTailWrite mb v es) s = .next (modMbox s mb (fun b => { b with err := b.err ||| 1 }))) ∧
    (subMod 16 (mbox s mb).cqTail (mbox s mb).cqHead < subMod 16 (v % 2 ^ 16) (mbox s mb).cqHead →
      exec (.mbCqHeadWrite mb v) s = .next (modMbox s mb (fun b => { b with err := b.err ||| 2 }))) ∧
    (subMod 16 (mbox s mb).evTail (mbox s mb).evHead < subMod 16 (v % 2 ^ 16) (mbox s mb).evHead →
      exec (.mbEvHeadWrite mb v) s = .next (modMbox s mb (fun b => { b with err := b.err ||| 4 })))

/-! ### States that turn commands away -/

/-- Once the package is frozen, the management mailbox serves only DEV_IDENTIFY, DEV_GET_STATE, SCAN_READ and CLOCK_RELEASE, and the others complete
with 0x0300; PF and VF mailboxes wait (R468). -/
def Obligations.FrozenServesFour : Prop :=
  ∀ (r : CmdRow) (h : Entry → HostIo → State → CmdOut) (e : Entry) (io : HostIo) (s : State),
    frozen s = true → s.pwr.calSupply = true → 1 ≤ pstate s →
    (isMgmt e = true → r.op ≠ 0x0101 → r.op ≠ 0x0102 → r.op ≠ 0x0902 → r.op ≠ 0x0903 →
      runRow r h e io s = .next (complete e 0x0300 [] [] (startCmd e s))) ∧
    (isMgmt e = false → runRow r h e io s = .next s)

/-- PART_DESTROY completes with 0x0301 unless the job state is IDLE or STOPPED (R421), and while an OK_PENDING operation of the partition is
open (R462); nothing else changes. -/
def Obligations.DestroyNeedsIdle : Prop :=
  ∀ (e : Entry) (io : HostIo) (s u : State), startCmd e s = u → fetched Row.partDestroy e s = true →
    (((part u e.part).job ≠ .idle ∧ (part u e.part).job ≠ .stopped) ∨ u.kao.ops.any (fun o => o.part == e.part) = true) →
    exec (.partDestroy e io) s = .next (complete e 0x0301 [] [] u)

/-- On a slot in FALLOW, REQ_CANCEL, a continuing REQ_SUBMIT and a second SESSION_FALLOW complete with 0x0300 (R382). -/
def Obligations.FallowSlotsRefuse : Prop :=
  ∀ (e : Entry) (io : HostIo) (s u : State) (n : Nat), startCmd e s = u → isLead u e.part = true →
    (slotOf u n).req.state = stFallow →
    (fetched Row.reqCancel e s = true → handleSlot u e.part (arg e 8 4) = some n →
      exec (.reqCancel e io) s = .next (complete e 0x0300 [] [] u)) ∧
    (fetched Row.sessionFallow e s = true → handleSlot u e.part (arg e 8 4) = some n →
      exec (.sessionFallow e io) s = .next (complete e 0x0300 [] [] u)) ∧
    (∀ d, fetched Row.reqSubmit e s = true → flag e 0 = true → handleSlot u e.part (arg e 16 4) = some n →
      inputOf e (granted Row.reqSubmit e io s) 128 = some d → 128 ≤ d.length → descReserved d = true → descRangeOk d = true →
      (part u e.part).job.busy = true →
      exec (.reqContinue e io) s = .next (complete e 0x0300 [] [] (bump u (Reg.SRV_P_REJECT_CNT e.part) 1)))

/-! ### Registers and the debug port -/

/-- The fields of access RWH (R18): TICK_CONFIG, the rotation seeds, the bank maps, the tier shares and the slot ranges. -/
def Obligations.HardenedFieldsKeepTheirValue : Prop :=
  ∀ (path off : Nat) (w : BitVec 32) (s : State), off % 4 = 0 →
    ∃ t, exec (.registerWrite path off w) s = .next t ∧ t.out = s.out ∧
      (∀ f, hardenedField f → rd t f = rd s f) ∧
      (0x900000 ≤ off → off < 0xA00000 → t = s)

/-- A counter's low half, then its high half, read on one path give one value, whatever other paths read in between (R21). -/
def Obligations.CounterHalvesAgree : Prop :=
  ∀ (path off : Nat) (s : State),
    ∃ t, exec (.counterLowRead path off) s = .next t ∧
      t.out = .readData path (counterAt s path off % 2 ^ 32) :: s.out ∧
      highHalf t path off = counterAt s path off / 2 ^ 32 ∧
      (∀ p off', p ≠ path → ∃ v, exec (.counterLowRead p off') t = .next v ∧ highHalf v path off = counterAt s path off / 2 ^ 32)

/-- IDCODE shifts out 0xBC00_8C77, bit 0 first, from STANDBY on (R559). -/
def Obligations.IdcodeReads : Prop :=
  ∀ (tdi : List Bool) (s : State), s.pwr.calSupply = true → 32 ≤ tdi.length →
    ∃ t rest, exec (.jtagIdcode tdi) s = .next t ∧
      t.out = .tdo ((List.range 32).map (fun i => (0xBC008C77#32).getLsbD i) ++ rest) :: s.out

/-- UNIT_UNFENCE removes the unit's entry and sets its leaky counter to 0; the unit returns at the next tick (R490). -/
def Obligations.UnfenceClearsEntry : Prop :=
  ∀ (e : Entry) (io : HostIo) (s u : State), s.Inv → startCmd e s = u → fetched Row.unitUnfence e s = true → arg e 8 1 ≤ 12 →
    unitExists (arg e 8 1) (arg e 10 2) = true → inFenceTable u (arg e 8 1) (arg e 10 2) = true →
    ∃ v, exec (.unitUnfence e io) s = .next (complete e 0 [] [] v) ∧
      v.cal.leaky = tput 0 u.cal.leaky (unitKey (arg e 8 1) (arg e 10 2)) 0 ∧
      v.cal.pendFence = u.cal.pendFence ++ [⟨arg e 8 1, arg e 10 2, false⟩] ∧
      rd v Reg.CAL_FENCE_USED = (rd u Reg.CAL_FENCE_USED - 1) % 2 ^ Reg.CAL_FENCE_USED.width

/-! ### Sealing (R397, R401) -/

/-- What is sealed under a key, an IV and associated data opens to itself under the same three, the 16 tag bytes at the end. -/
def Obligations.SealedOpens : Prop :=
  ∀ key iv aad pt : Bytes,
    gcmOpen key iv aad ((gcmSeal key iv aad pt).take pt.length) ((gcmSeal key iv aad pt).drop pt.length) = some pt

/-! ### Mailbox commands: what each does when it reaches its effect -/

/-- The device commands (R461, R482, R519, R523, R533): the results of DEV_IDENTIFY and DEV_GET_STATE, a new power target that answers
OK_PENDING, the telemetry block, the time base. -/
def Obligations.DeviceCommandsComplete : Prop :=
  ∀ (e : Entry) (io : HostIo) (s u : State), startCmd e s = u →
    (fetched Row.devIdentify e s = true →
      exec (.devIdentify e io) s = .next (complete e 0 ([0xB0, 1] ++ leBytes 1 (pkgId u) ++ leBytes 1 (pstate u) ++
        leBytes 8 Config.serial.toNat ++ leBytes 4 (rd u Reg.KAO_FW_VERSION) ++ leBytes 4 (rd u Reg.CAL_FW_VERSION) ++
        leBytes 4 Config.bootRomVersion.toNat) [] u)) ∧
    (fetched Row.devGetState e s = true →
      exec (.devGetState e io) s = .next (complete e 0 (leBytes 1 (pstate u) ++
        leBytes 1 (rd u Reg.RTR_MAP_KIND + 4 * rd u Reg.RTR_VERIFIED) ++ leBytes 1 (rd u Reg.TICK_ROLE) ++
        leBytes 1 (rd u Reg.TICK_FENCED) ++ leBytes 6 (frameNo u) ++ leBytes 2 0 ++ leBytes 4 (partBitmap u e (·.present)) ++
        leBytes 4 (partBitmap u e (fun q => q.job == .running)) ++ leBytes 4 (rd u Reg.CAL_FENCE_USED)) [] u)) ∧
    (∀ n, fetched Row.devSetPowerState e s = true → n = (if arg e 12 4 = 0xFFFFFFFF then u.pwr.fallowFrames else arg e 12 4) →
      arg e 8 1 ≤ 7 → n ≤ 261120 → (arg e 8 1 ≤ 1 ∨ rdb u Reg.HIF_PIN_PWR_EN = true) →
      (arg e 8 1 < 7 → anyJob u = false) → (3 ≤ pstate u → n = u.pwr.fallowFrames ∨ fallowMovable u n = true) →
      (arg e 8 1 = 7 → pstate u = 7 ∨ (pstate u = 6 ∧ rd u Reg.RTR_MAP_KIND = 1 ∧ rdb u Reg.RTR_VERIFIED = true ∧
        rdb u Reg.TICK_LOCKED = true ∧ rdb u Reg.SEQ_DOWN = false)) →
      exec (.devSetPowerState e io) s =
        (let z := newOp 0x0103 e 255 (setFallow n u)
         let v := replaceRequest z.2
         .next (complete e 1 (leBytes 4 z.1) [] (onRequest (arg e 8 1) { v with pwr := { v.pwr with powerOp := some z.1 } })))) ∧
    (fetched Row.devGetTelemetry e s = true → delivered Row.devGetTelemetry e io s = true → 608 ≤ arg e 16 4 →
      exec (.devGetTelemetry e io) s = .next (complete e 0 (leBytes 4 608) (inlineOf e (telemetryBytes u))
        (sentTo e (arg e 8 8) (telemetryBytes u) u))) ∧
    (fetched Row.devSetTime e s = true →
      exec (.devSetTime e io) s = .next (complete e 0 [] []
        { u with cal := { u.cal with utcOff := (arg e 8 8 : Int) - ((u.cal.upNs + inFrameNs u : Nat) : Int) } }))

/-- The partition commands (R416, R418, R421, R438, R443): a new partition with its port, a destroyed one, an assignment with the
quadrants, threads, slots and tier map it answers, the pages of JOB_QUERY, the counter sets. -/
def Obligations.PartitionCommandsComplete : Prop :=
  ∀ (e : Entry) (io : HostIo) (s u : State), startCmd e s = u →
    (fetched Row.partCreate e s = true → arg e 8 1 ≤ 1 → (part u e.part).present = false →
      exec (.partCreate e io) s = .next (complete e 0 [] [] (resetSrvPart e.part (resetVf e.part
        (modPart u e.part (fun _ => { Part.absent with present := true, port := arg e 8 1 })))))) ∧
    (fetched Row.partDestroy e s = true → (part u e.part).job.busy = false → u.kao.ops.all (fun o => o.part != e.part) = true →
      exec (.partDestroy e io) s = .next (complete e 0 [] [] (destroyPart e.part u))) ∧
    (∀ qs ts b new m, fetched Row.partAssign e s = true → arg e 8 1 ≤ 48 → arg e 10 2 ≤ 256 → arg e 12 4 ≤ 65536 →
      arg e 20 2 ≤ 2552 → (part u e.part).job.busy = false →
      newQuads u e.part (arg e 8 1) = some qs → newThreads u e.part (arg e 10 2) = some ts →
      newSlotBase u e.part (arg e 12 4) = some b →
      takePool u (arg e 16 4 - (t2Frames (tierPart u e.part)).length) = some new →
      newMapBase u (6144 * arg e 8 1 + arg e 16 4) e.part = some m →
      (arg e 16 4 = 0 ∨ rdb u Reg.TIER_T2_FENCED = false) →
      exec (.partAssign e io) s = .next (complete e 0
        (leBytes 6 (bitmap qs) ++ leBytes 2 b ++ leBytes 4 m ++ leBytes 4 (6144 * arg e 8 1 + arg e 16 4)) []
        (assign e.part ⟨qs, ts, b, arg e 12 4, arg e 16 4, new, m, arg e 20 2⟩ u))) ∧
    (fetched Row.jobQuery e s = true → arg e 8 1 = 0 →
      exec (.jobQuery e io) s = .next (complete e 0 (leBytes 1 (part u e.part).job.code ++ leBytes 1 (sliceOf u e.part) ++
        leBytes 2 (ownRank u e.part) ++ leBytes 8 (frameEpoch u e.part) ++ leBytes 2 (part u e.part).phase ++
        leBytes 6 (part u e.part).startFrame ++ leBytes 6 (part u e.part).lastCheap) [] u)) ∧
    (fetched Row.jobQuery e s = true → arg e 8 1 = 1 →
      exec (.jobQuery e io) s = .next (complete e 0 (leBytes 8 (imageIdOf (part u e.part)) ++
        leBytes 6 (part u e.part).stopFrame ++ leBytes 2 (part u e.part).stopStatus) [] u)) ∧
    (fetched Row.partAccounting e s = true → delivered Row.partAccounting e io s = true →
      (accountingBytes u e.part).length ≤ arg e 16 4 → (isMgmt e = true → (accountingBytes u e.part).length ≤ 8192) →
      exec (.partAccounting e io) s = .next (complete e 0
        (leBytes 4 (accountingBytes u e.part).length ++ leBytes 6 (frameNo u)) (inlineOf e (accountingBytes u e.part))
        (sentTo e (arg e 8 8) (accountingBytes u e.part) u)))

/-- The job commands (R429, R434, R437): JOB_START of a valid image starts the job or waits for the moves of its pages, JOB_RESUME sends
the GO, the four stops order it and wait, or end a start. -/
def Obligations.JobCommandsComplete : Prop :=
  ∀ (e : Entry) (io : HostIo) (s u : State), startCmd e s = u →
    (∀ kat b, fetched Row.jobStart e s = true → flag e 0 = false → 256 ≤ arg e 24 8 → arg e 8 1 ≤ 2 →
      (isMgmt e = true → arg e 8 1 = 0 → arg e 24 8 ≤ 8192 ∧ arg e 16 8 = 0) →
      ((part u e.part).job = .idle ∨ (part u e.part).job = .stopped) → mayStart u = true →
      u.pwr.tripped = false → u.cal.lasting = false → (part u e.part).slice.isSome = true →
      partInput e (granted Row.jobStart e io s) = some b → b.length = arg e 24 8 → partFinding u e.part b = none →
      startRefusal u e.part (imageOfPart b) kat = none →
      sectionRules u e.part (imageOfPart b) = none → programFinding u e.part (imageOfPart b) = none →
      exec (.jobStart e io kat) s = .next (if movesPending u e.part (imageOfPart b) then
          waitsFor Row.jobStart e io (.jobStart e.part kat) u
        else complete e 0 (leBytes 8 (imageOfPart b).imageId) []
          (startJob e.part (imageOfPart b) (katResults e.part kat u)))) ∧
    (fetched Row.jobStart e s = true → flag e 0 = true → isLead u e.part = true → (part u e.part).job = .paused →
      mayStart u = true → u.pwr.tripped = false → u.cal.lasting = false → jobFenced u e.part = false →
      exec (.jobResume e io) s = .next (complete e 0 (leBytes 8 (imageIdOf (part u e.part))) [] (sendGo e.part true u))) ∧
    (fetched Row.jobStop e s = true → arg e 8 1 ≤ 3 → arg e 10 2 ≠ 0 → isLead u e.part = true → (part u e.part).job = .running →
      (let t := waitsFor Row.jobStop e io (.jobStop e.part)
        (orderStop e.part (arg e 8 1) 0x03C3 (frameNo u + arg e 10 2) u)
       exec (.jobStopImmediate e io) s = .next t ∧ exec (.jobStopCheap e io) s = .next t ∧
       exec (.jobPause e io) s = .next t ∧ exec (.jobPauseCheap e io) s = .next t)) ∧
    (fetched Row.jobStop e s = true → arg e 8 1 ≤ 3 → arg e 10 2 ≠ 0 → isLead u e.part = true → (part u e.part).job = .starting →
      (let t := complete e 0 (leBytes 6 (frameNo u) ++ [0, 0] ++ leBytes 8 0 ++ leBytes 2 0x03C2) [] (abandonStart e.part u)
       exec (.jobStopImmediate e io) s = .next t ∧ exec (.jobStopCheap e io) s = .next t ∧
       exec (.jobPause e io) s = .next t ∧ exec (.jobPauseCheap e io) s = .next t))

/-- The model, weight and key commands (R393, R397, R400, R403, R408, R410, R411). -/
def Obligations.WeightCommandsComplete : Prop :=
  ∀ (e : Entry) (io : HostIo) (s u : State), startCmd e s = u →
    (∀ d, fetched Row.modelDeclare e s = true → inputOf e (granted Row.modelDeclare e io s) (arg e 16 4) = some d →
      d.length = arg e 16 4 → 64 ≤ d.length → declLen d = d.length → declHeaderOk d = true → declSectionsOk d = true →
      arg e 24 8 ≠ 0 → (part u e.part).job.busy = false →
      exec (.modelDeclare e io) s = .next (complete e 0 (leBytes 8 (modelIdOf d)) []
        (modPart (modWts (fun w => { w with refs := tput (0, []) w.refs e.part (0, []) })
          (discardRecs (fun r => r.part == e.part) { u with decls := tput [] u.decls e.part d })) e.part
          (fun q => { q with modelId := modelIdOf d, modelEpoch := arg e 24 8 })))) ∧
    (∀ h, shardHeader e (granted Row.weightLoadShard e io s) = h → fetched Row.weightLoadShard e s = true →
      (part u e.part).job.busy = false → meetsLoad u e.part (arg e 24 8) ((h.map (fun b => numAt b 40 8)).getD 0) = false →
      arg e 24 8 % pageBytes = 0 → u.wts.recs.length + u.wts.loads.length < 8192 → arg e 8 1 ≤ 2 →
      exec (.weightLoadShard e io) s = .next (complete e 1 (leBytes 4 u.kao.nextOp) []
        (startLoad u.kao.nextOp e.part (arg e 24 8) (part u e.part).modelEpoch (arg e 8 1) h (newOp 0x0302 e e.part u).2))) ∧
    (fetched Row.weightVerify e s = true → (replOf u e.part).isNone = true → arg e 10 2 ≠ 0 →
      arg e 8 2 + arg e 10 2 ≤ nUnit (decl u e.part) →
      exec (.weightVerify e io) s = .next (complete e 1 (leBytes 4 u.kao.nextOp) []
        (let o := (newOp 0x0303 e e.part u).2
         let x := (o.wts.recs.filter (fun r => r.part == e.part && decide (arg e 8 2 ≤ r.unit) &&
             decide (r.unit < arg e 8 2 + arg e 10 2) && recheckable o r)).foldl
           (fun (x : List Nat × State) r =>
             (if (recheckOne r x.2).1 then x.1 ++ [r.unit] else x.1, (recheckOne r x.2).2)) ([], o)
         modVex x.2 e.part (fun v => { v with fills := v.fills ++ (List.range (arg e 10 2)).map (fun i =>
           { window := 0, unit := arg e 8 2 + i, op := some u.kao.nextOp, stks := [], waiting := List.range 12,
             frame := frameNo u, void := x.1.contains (arg e 8 2 + i) }) })))) ∧
    (∀ table, fetched Row.replaceBegin e s = true → isLead u e.part = true → (part u e.part).job.busy = true →
      (replOf u e.part).isNone = true → (part u e.part).modelEpoch < arg e 8 8 →
      referenceIn e (granted Row.replaceBegin e io s) u = .inr table → (keyOf u 2 e.part (arg e 24 4)).isSome = true →
      roomForAll u e.part (arg e 20 1) (barrierFallows u e.part) = true →
      exec (.replaceBegin e io) s = .next (complete e 1 (leBytes 4 u.kao.nextOp) []
        (let r : Replacement :=
           ⟨arg e 8 8, 1, frameNo u + arg e 16 4, false, arg e 20 1, arg e 24 4, some u.kao.nextOp, none, []⟩
         let v := modSrv (fun v => { v with pass := tput none v.pass e.part none })
           (voidVex e.part (setRepl e.part (some r) (newOp 0x0304 e e.part u).2))
         match table with
         | some b => modWts (fun w => { w with refs := tput (0, []) w.refs e.part (arg e 8 8, b) }) v
         | none => v))) ∧
    (∀ r h, shardHeader e (granted Row.replaceLayer e io s) = h → fetched Row.replaceLayer e s = true →
      replOf u e.part = some r → r.stage = 2 → meetsLoad u e.part (arg e 24 8) ((h.map (fun b => numAt b 40 8)).getD 0) = false →
      arg e 24 8 % pageBytes = 0 → u.wts.recs.length + u.wts.loads.length < 8192 → arg e 8 1 ≤ 2 →
      exec (.replaceLayer e io) s = .next (complete e 1 (leBytes 4 u.kao.nextOp) []
        (let t := startLoad u.kao.nextOp e.part (arg e 24 8) r.epoch (arg e 8 1) h (newOp 0x0305 e e.part u).2
         match h with
         | some b => if r.epoch = 0 ∧ t.wts.loads.length = u.wts.loads.length + 1 then
             setRepl e.part (some { r with epoch := numAt b 16 8 }) t else t
         | none => t))) ∧
    (∀ r, fetched Row.replaceEnd e s = true → isLead u e.part = true → replOf u e.part = some r → r.endOp = none →
      flag e 0 = false → r.stage = 2 → allUnits u e.part r = true →
      exec (.replaceEnd e io) s = .next (complete e 1 (leBytes 4 u.kao.nextOp) []
        (setRepl e.part (some { r with stage := 3, endOp := some u.kao.nextOp }) (newOp 0x0306 e e.part u).2))) ∧
    (∀ r, fetched Row.replaceEnd e s = true → isLead u e.part = true → replOf u e.part = some r → r.endOp = none →
      flag e 0 = true →
      exec (.replaceAbort e io) s = .next (complete e 1 (leBytes 4 u.kao.nextOp) []
        (orderStop e.part 0 0x03A1 0 (setRepl e.part (some { r with endOp := some u.kao.nextOp })
          (newOp 0x0306 e e.part u).2)))) ∧
    (∀ b k, fetched Row.keyInstall e s = true → isMgmt e = false → (arg e 16 1 = 1 ∨ arg e 16 1 = 2) → arg e 32 4 = 60 →
      inputOf e (granted Row.keyInstall e io s) 60 = some b → b.length = 60 →
      sessionOn u (arg e 8 4) (srcPort u e.src) = true → (granted Row.keyInstall e io s).crypt = some k →
      u.keys.any (fun x => decide (x.cls < 3) && x.owner == e.part && x.keyId == arg e 12 4) = false → u.keys.length < 256 →
      exec (.keyInstall e io) s = .next (complete e 0 [] []
        (setKeys (u.keys ++ [⟨arg e 16 1, e.part, arg e 12 4, k⟩]) u))) ∧
    (∀ b, fetched Row.keyInstall e s = true → isMgmt e = true → (arg e 16 1 = 3 ∨ arg e 16 1 = 4) → arg e 32 4 = 97 →
      inputOf e (granted Row.keyInstall e io s) 97 = some b → b.length = 97 → numAt b 0 1 = 4 → anyJob u = false →
      (u.keys.filter (fun x => x.cls != arg e 16 1)).length < 256 →
      exec (.keyInstall e io) s = .next (complete e 0 [] []
        (setKeys (u.keys.filter (fun x => x.cls != arg e 16 1) ++ [⟨arg e 16 1, 0, 0, b⟩]) u))) ∧
    (fetched Row.keyInstall e s = true → arg e 16 1 = 0 → arg e 32 4 = 0 →
      u.keys.any (fun x => decide (x.cls < 3) && x.owner == e.part && x.keyId == arg e 12 4) = true →
      exec (.keyDelete e io) s = .next (complete e 0 [] []
        (setKeys (u.keys.filter (fun x => !(decide (x.cls < 3) && x.owner == e.part && x.keyId == arg e 12 4))) u)))

/-- The request and queue commands on the lead (R343, R345, R346, R347, R353, R354, R362, R464): a new request takes a slot, a turn, a
cancel and a release are asked of the engine, queues and admission limits change at the next tick, a ring is bound or unbound. -/
def Obligations.RequestCommandsComplete : Prop :=
  ∀ (e : Entry) (io : HostIo) (s u : State), startCmd e s = u →
    (∀ d n, fetched Row.reqSubmit e s = true → inputOf e (granted Row.reqSubmit e io s) 128 = some d → 128 ≤ d.length →
      descReserved d = true → flag e 0 = false → arg e 16 4 = 0 → isLead u e.part = true → (part u e.part).job.busy = true →
      descRangeOk d = true → unservable u e.part (numAt d 16 3) false = false →
      queueStatus u e.part (numAt d 14 1 % 64) = true → freeSlotOf u e.part = some n →
      rd u (Reg.SRV_Q_DEPTH (numAt d 14 1 % 64)) < rd u (Reg.SRV_Q_DEPTH_MAX (numAt d 14 1 % 64)) →
      (roleOf u e.part = 0 ∨ (newSlot u e.part n d).ctl.kvResv ≤ poolPositions u e.part) →
      ((newSlot u e.part n d).req.deadline = 2 ^ 48 - 1 ∨
        submitFrame u e.part (newSlot u e.part n d).req ≤ (newSlot u e.part n d).req.deadline) →
      exec (.reqSubmit e io) s =
        (let t := setSlot e.part n (newSlot u e.part n d) (modSrv (fun v => { v with order := v.order + 1 }) u)
         .next (complete e 0 (leBytes 4 (handleOf t n) ++ leBytes 6 (submitFrame u e.part (newSlot u e.part n d).req)) [] t))) ∧
    (∀ d n, fetched Row.reqSubmit e s = true → inputOf e (granted Row.reqSubmit e io s) 128 = some d → 128 ≤ d.length →
      descReserved d = true → flag e 0 = true → isLead u e.part = true → (part u e.part).job.busy = true →
      descRangeOk d = true → handleSlot u e.part (arg e 16 4) = some n → roleOf u e.part ≠ 0 →
      (slotOf u n).req.state = stHold → (slotOf u n).req.cause = 8 → (replOf u e.part).isNone = true →
      unservable u e.part (numAt d 16 3) true = false → queueStatus u e.part (slotOf u n).req.queue = true →
      rd u (Reg.SRV_Q_DEPTH (slotOf u n).req.queue) < rd u (Reg.SRV_Q_DEPTH_MAX (slotOf u n).req.queue) →
      ((turnReq d (slotOf u n).req).deadline = 2 ^ 48 - 1 ∨
        submitFrame u e.part (turnReq d (slotOf u n).req) ≤ (turnReq d (slotOf u n).req).deadline) →
      exec (.reqContinue e io) s = .next (complete e 0
        (leBytes 4 (handleOf u n) ++ leBytes 6 (submitFrame u e.part (turnReq d (slotOf u n).req))) []
        (askSlot n (.cont d (applTime u)) u))) ∧
    (∀ n, fetched Row.reqCancel e s = true → isLead u e.part = true → handleSlot u e.part (arg e 8 4) = some n →
      (slotOf u n).req.state ≠ stDrain → (slotOf u n).req.state < 8 → (slotOf u n).req.state ≠ stFallow →
      exec (.reqCancel e io) s = .next (complete e 0 [] [] (askSlot n .cancel u))) ∧
    (∀ n, fetched Row.reqQuery e s = true → isLead u e.part = true → handleSlot u e.part (arg e 8 4) = some n →
      flag e 0 = false → (arg e 16 8 = 0 ∨ delivered Row.reqQuery e io s = true) →
      exec (.reqQuery e io) s = .next (if arg e 16 8 = 0 then complete e 0 (queryResult (slotOf u n)) [] u
        else complete e 0 (queryResult (slotOf u n)) (inlineOf e (reqBytes (slotOf u n).req ++ ctlBytes (slotOf u n).ctl))
          (sentTo e (arg e 16 8) (reqBytes (slotOf u n).req ++ ctlBytes (slotOf u n).ctl) u))) ∧
    (∀ n, fetched Row.reqQuery e s = true → isLead u e.part = true → handleSlot u e.part (arg e 8 4) = some n →
      flag e 0 = true → 8 ≤ (slotOf u n).req.state → (arg e 16 8 = 0 ∨ delivered Row.reqQuery e io s = true) →
      exec (.reqRelease e io) s = .next (if arg e 16 8 = 0 then complete e 0 (queryResult (slotOf u n)) [] (askSlot n .release u)
        else complete e 0 (queryResult (slotOf u n)) (inlineOf e (reqBytes (slotOf u n).req ++ ctlBytes (slotOf u n).ctl))
          (sentTo e (arg e 16 8) (reqBytes (slotOf u n).req ++ ctlBytes (slotOf u n).ctl) (askSlot n .release u)))) ∧
    (fetched Row.queueConfig e s = true → arg e 8 1 ≤ 63 → flag e 0 = false → arg e 9 1 ≠ 0 →
      (queueSoon u (arg e 8 1) = none ∧ isVf e = false ∨ ∃ c, queueSoon u (arg e 8 1) = some c ∧ c.1 = e.part) →
      exec (.queueConfig e io) s = .next (complete e 0 [] []
        (modSrv (fun v => { v with queueNext := v.queueNext ++ [(arg e 8 1, some (e.part, arg e 9 1, arg e 10 2))] }) u))) ∧
    (∀ c, fetched Row.queueConfig e s = true → arg e 8 1 ≤ 63 → flag e 0 = true → isVf e = false →
      queueSoon u (arg e 8 1) = some c → c.1 = e.part → rd u (Reg.SRV_Q_DEPTH (arg e 8 1)) = 0 →
      exec (.queueRemove e io) s = .next (complete e 0 [] []
        (modSrv (fun v => { v with queueNext := v.queueNext ++ [(arg e 8 1, none)] }) u))) ∧
    (fetched Row.queueConfig e s = true → arg e 8 1 ≤ 63 → flag e 0 = true → isVf e = false →
      queueSoon u (arg e 8 1) = none → exec (.queueRemove e io) s = .next (complete e 0 [] [] u)) ∧
    (fetched Row.streamBind e s = true → flag e 0 = false → arg e 16 8 % 4096 = 0 → arg e 24 8 % 8 = 0 →
      arg e 8 2 < slotCount u e.part → roleOf u e.part ≠ 0 →
      (slotOf u (slotBase u e.part + arg e 8 2)).req.state ≠ stDecode →
      (slotOf u (slotBase u e.part + arg e 8 2)).req.state ≠ stHold →
      (slotOf u (slotBase u e.part + arg e 8 2)).req.state ≠ stDrain →
      exec (.streamBind e io) s = .next (complete e 0 [] []
        (setRing (slotBase u e.part + arg e 8 2) (some ⟨arg e 16 8, arg e 24 8, 0, 0⟩) u))) ∧
    (fetched Row.streamBind e s = true → flag e 0 = true → arg e 8 2 < slotCount u e.part → roleOf u e.part ≠ 0 →
      (slotOf u (slotBase u e.part + arg e 8 2)).req.state ≠ stDecode →
      (slotOf u (slotBase u e.part + arg e 8 2)).req.state ≠ stHold →
      (slotOf u (slotBase u e.part + arg e 8 2)).req.state ≠ stDrain →
      exec (.streamUnbind e io) s = .next (complete e 0 [] [] (setRing (slotBase u e.part + arg e 8 2) none u))) ∧
    (fetched Row.admissionConfig e s = true →
      exec (.admissionConfig e io) s = .next (complete e 0 [] []
        (modSrv (fun v => { v with admitNext := v.admitNext ++ [(e.part, bytesAt e.args 0 24)] }) u)))

/-- The session commands on the lead (R379, R383, R387, R388): an image is opened and the slot asked to fallow, a thaw, export or import
starts, an image is deleted or asked of its lead. -/
def Obligations.SessionCommandsComplete : Prop :=
  ∀ (e : Entry) (io : HostIo) (s u : State), startCmd e s = u →
    (∀ n, fetched Row.sessionFallow e s = true → isLead u e.part = true → handleSlot u e.part (arg e 8 4) = some n →
      ((slotOf u n).req.state = stDecode ∨ (slotOf u n).req.state = stHold) → fallowPending u n = false →
      (keyOf u 2 e.part (arg e 16 4)).isSome = true → sessRoom u 1 = true →
      mediumRoom u (arg e 12 1) (segmentSize u e.part (slotOf u n).req.ctxLen) = true →
      exec (.sessionFallow e io) s =
        (let m := newImage e.part n (arg e 12 1) (arg e 16 4) (some u.kao.nextOp) (newOp 0x0501 e e.part u).2
         .next (complete e 1 (leBytes 4 u.kao.nextOp ++ leBytes 8 m.1) [] (askSlot n (.fallow m.1) m.2)))) ∧
    (∀ n, fetched Row.sessionThaw e s = true → isLead u e.part = true → (part u e.part).job.busy = true →
      roleOf u e.part ≠ 0 → flag e 0 = false → handleSlot u e.part (arg e 8 4) = some n →
      (slotOf u n).req.state = stFallow → (slotOf u n).imageState ≠ 1 → (slotOf u n).imageState ≠ 3 →
      (replOf u e.part).isNone = true → sessRoom u 1 = true →
      kvReserved u e.part + (slotOf u n).ctl.kvResv ≤ poolPositions u e.part →
      exec (.sessionThawOwn e io) s = .next (complete e 1 (leBytes 4 u.kao.nextOp) []
        (startRead ⟨some u.kao.nextOp, e.part, .thaw (slotOf u n).image (imageLead (slotOf u n).image) n false, [], [], 0, [], [], [],
          (slotOf u n).ctl.kvResv, false⟩ (slotOf u n).image (imageLead (slotOf u n).image) (newOp 0x0502 e e.part u).2))) ∧
    (∀ d n c, fetched Row.sessionThaw e s = true → isLead u e.part = true → (part u e.part).job.busy = true →
      roleOf u e.part ≠ 0 → flag e 0 = true → inputOf e (granted Row.sessionThaw e io s) 128 = some d → 128 ≤ d.length →
      descReserved d = true → (arg e 24 1 = pkgId u → (imageOf u (arg e 16 8)).any (fun g => g.state == 2) = true) →
      ((imageOf u (arg e 16 8)).map (fun g => numAt g.header 48 4)).getD 0 = c → (replOf u e.part).isNone = true →
      queueStatus u e.part (numAt d 14 1 % 64) = true → freeSlotOf u e.part = some n → sessRoom u 1 = true →
      kvReserved u e.part + thawResv u e.part c (numAt d 16 3) ≤ poolPositions u e.part →
      exec (.sessionThawNew e io) s = .next (complete e 1 (leBytes 4 u.kao.nextOp) []
        (startRead ⟨some u.kao.nextOp, e.part, .thaw (arg e 16 8) (arg e 24 1) n true, [], [], 0, [], [], d,
          thawResv u e.part c (numAt d 16 3), false⟩ (arg e 16 8) (arg e 24 1) (newOp 0x0502 e e.part u).2))) ∧
    (∀ g, fetched Row.sessionExport e s = true → arg e 16 1 = pkgId u → imageOf u (arg e 8 8) = some g → g.state = 2 →
      exportSize g.header ≤ arg e 32 8 → sessRoom u 1 = true →
      exec (.sessionExport e io) s = .next (complete e 1 (leBytes 4 u.kao.nextOp ++ leBytes 8 (exportSize g.header)) []
        (startRead ⟨some u.kao.nextOp, e.part, .exporting g.id (pkgId u) (arg e 24 8) (arg e 32 8), [], [], 0, [], [], [], 0, false⟩
          g.id (pkgId u) (newOp 0x0503 e e.part u).2))) ∧
    (fetched Row.sessionImport e s = true → isLead u e.part = true → (part u e.part).job.busy = true → sessRoom u 1 = true →
      mediumRoom u (arg e 8 1) (arg e 24 8 / (membersOf u e.part).length) = true →
      exec (.sessionImport e io) s = .next (complete e 1 (leBytes 4 u.kao.nextOp) []
        (addOp ⟨some u.kao.nextOp, e.part, .import 0 (arg e 8 1), [], [], 0, [], [], [], 0, false⟩
          (newOp 0x0504 e e.part u).2))) ∧
    (∀ n img lead, fetched Row.sessionDiscard e s = true → isLead u e.part = true →
      (if flag e 1 then handleSlot u e.part (arg e 8 4) else none) = n → discardImage e u n = img →
      (if flag e 2 then arg e 24 1 else (img.map imageLead).getD (pkgId u)) = lead →
      (flag e 1 = true ∨ flag e 2 = true) → (flag e 1 = true → n.isSome = true) →
      n.all (fun n => (slotOf u n).req.state == stFallow && (slotOf u n).imageState != 1) = true →
      (flag e 0 = true → sessRoom u 1 = true ∧ (lead = pkgId u → flag e 2 = true → (img.bind (imageOf u)).isSome = true) ∧
        (img.bind (imageOf u)).all (fun g => (keyOf u 2 e.part g.keyId).isSome && g.state != 1) = true) →
      img.any (imageInUse u) = false →
      exec (.sessionDiscard e io) s = .next (complete e 0 [] []
        (let t := (n.map (fun n => askSlot n .release u)).getD u
         if flag e 0 then (img.map (fun id => if lead = pkgId t then deleteImage id t
           else sendCtl lead 0x54 kaolinTo 0xFFFFFFFF (leBytes 8 id) true t)).getD t else t)))

/-- The topology commands (R284, R286, R316, R426, R466): a signed map is loaded and checked, TOPO_VERIFY answers, a link is reported, a
group entry is staged until the next tick, the tick is configured, a slice is bound or unbound. -/
def Obligations.TopologyCommandsComplete : Prop :=
  ∀ (e : Entry) (io : HostIo) (s u : State), startCmd e s = u →
    (∀ m, fetched Row.topoLoadMap e s = true → anyJob u = false → inputOf e (granted Row.topoLoadMap e io s) (arg e 16 4) = some m →
      m.length = arg e 16 4 → 160 ≤ m.length → mapSigned u m = true → mapHeaderOk m = true → pkgId u < numAt m 8 1 →
      (numAt m 5 1 ≠ 0 ∨ pairingOk u m = true) →
      exec (.topoLoadMap e io) s = .next (complete e 0 (leBytes 8 (numAt m 16 8)) []
        (let t := wr (wr { u with fab := { u.fab with map := some m } } Reg.RTR_MAP_KIND (numAt m 5 1 + 1)) Reg.RTR_MAP_SEQ
           (numAt m 16 8)
         mapCheck (enterTopo (compareLinks (loadTickLinks
           (wr (wr t Reg.RTR_MAP_DIGEST ((sha256 m).toNat % 2 ^ 64)) Reg.RTR_VERIFIED 0))))))) ∧
    (fetched Row.topoVerify e s = true → exec (.topoVerify e io) s = .next (if topoOk u then
        complete e 0 [] [] { (wr u Reg.RTR_VERIFIED 1) with tick := { u.tick with mapChecked := true } }
      else complete e 0x0360 (leBytes 12 (bitmap (failingLinks u))) [] (wr u Reg.RTR_VERIFIED 0))) ∧
    (fetched Row.linkQuery e s = true → arg e 8 1 ≤ 111 →
      exec (.linkQuery e io) s = .next (complete e 0 (leBytes 4 (linkStatusWord u (arg e 8 1)) ++
        leBytes 2 (rd u (Reg.LINK_DELAY (arg e 8 1))) ++ leBytes 1 (rd u (Reg.LINK_FAR_PKG (arg e 8 1))) ++
        leBytes 1 (rd u (Reg.LINK_FAR_LINK (arg e 8 1))) ++ leBytes 8 (rd u (Reg.LINK_FEC_CORR_CNT (arg e 8 1))) ++
        leBytes 8 (rd u (Reg.LINK_FEC_UE_CNT (arg e 8 1))) ++ leBytes 4 (rd u (Reg.LINK_EDGE_REJECT_CNT (arg e 8 1)))) [] u)) ∧
    (∀ b, fetched Row.groupWrite e s = true → arg e 9 1 ≠ 0 → inputOf e (granted Row.groupWrite e io s) (arg e 12 4) = some b →
      b.length = arg e 12 4 → 18 ≤ b.length → b.length = 16 + 2 * groupNp b → groupFieldsOk u b = true →
      groupAllowed u e (numAt b 0 1 % 32) = true → groupInUse u (arg e 8 1) = false →
      exec (.groupWrite e io) s = .next (waitsFor Row.groupWrite e io .tick (wr { u with coll := { u.coll with
        stagedGroups := u.coll.stagedGroups ++ [(arg e 8 1, groupDigested b)] } } Reg.COLL_TABLE_PENDING 1))) ∧
    (fetched Row.groupWrite e s = true → arg e 9 1 = 0 → groupAllowed u e e.part = true → groupInUse u (arg e 8 1) = false →
      exec (.groupWrite e io) s = .next (waitsFor Row.groupWrite e io .tick (wr { u with coll := { u.coll with
        stagedGroups := u.coll.stagedGroups ++ [(arg e 8 1, [])] } } Reg.COLL_TABLE_PENDING 1))) ∧
    (fetched Row.tickConfig e s = true → 80 ≤ arg e 8 4 % 4096 → arg e 8 4 % 4096 ≤ 2560 → anyJob u = false →
      exec (.tickConfig e io) s = .next (complete e 0 [] []
        (wrb (wrb (wrb (wr (wr u Reg.TICK_FRAME_SLOTS (arg e 8 4 % 4096)) Reg.TICK_MASTER_PRIO (arg e 8 4 / 2 ^ 16))
          Reg.TICK_MASTER_ELIG (bit (arg e 8 4) 20)) Reg.TICK_SYNC_IN_EN (bit (arg e 8 4) 21))
          Reg.TICK_SYNC_OUT_EN (bit (arg e 8 4) 22)))) ∧
    (∀ b, fetched Row.sliceBind e s = true → inputOf e (granted Row.sliceBind e io s) (arg e 24 4) = some b →
      b.length = arg e 24 4 → 2 * arg e 10 2 ≤ b.length → (part u e.part).job.busy = false → arg e 10 2 ≠ 0 →
      arg e 8 1 ≠ 255 → arg e 10 2 ≤ 144 → arg e 12 2 < arg e 10 2 →
      (memberList b (arg e 10 2)).any (fun m => m.1 == 255 || decide (31 < m.2)) = false →
      (memberList b (arg e 10 2)).eraseDups.length = arg e 10 2 →
      (memberList b (arg e 10 2))[arg e 12 2]? = some (pkgId u, e.part) →
      (otherParts u e.part).any (fun q => sliceOf u q == arg e 8 1) = false → quarantined u (arg e 8 1) = false →
      exec (.sliceBind e io) s =
        (let d := (sha256 (b.take (2 * arg e 10 2))).toNat % 2 ^ 64
         .next (complete e 0 (leBytes 8 d) []
           (modPart u e.part (fun q => { q with slice := some ⟨arg e 8 1, arg e 12 2, memberList b (arg e 10 2), d⟩ }))))) ∧
    (∀ b, fetched Row.sliceBind e s = true → inputOf e (granted Row.sliceBind e io s) (arg e 24 4) = some b →
      b.length = arg e 24 4 → (part u e.part).job.busy = false → arg e 10 2 = 0 →
      exec (.sliceBind e io) s = .next (complete e 0 (leBytes 8 0) [] (modPart u e.part (fun q => { q with slice := none }))))

/-- The power commands (R501, R504, R506, R518): a cap, a mode, a domain switched by its ramp, the three energies. -/
def Obligations.PowerCommandsComplete : Prop :=
  ∀ (e : Entry) (io : HostIo) (s u : State), startCmd e s = u →
    (fetched Row.pwrSetCap e s = true → 450 ≤ arg e 8 2 → arg e 8 2 ≤ 1200 → arg e 8 2 % 5 = 0 →
      rd u Reg.PWR_MIN_CAP_W ≤ arg e 8 2 →
      exec (.pwrSetCap e io) s = .next (complete e 0 (leBytes 2 (arg e 8 2)) []
        (let t := wr u Reg.PWR_CAP_W (arg e 8 2)
         if arg e 8 2 = 1200 ∧ rd t Reg.PWR_STRETCH_REQ ≠ 0 then sendStretch (wr t Reg.PWR_STRETCH_REQ 0) else t))) ∧
    (fetched Row.pwrSetMode e s = true → arg e 8 1 = 0 →
      exec (.pwrSetMode e io) s = .next (complete e 0 [] [] (fixedFrequency u))) ∧
    (fetched Row.pwrSetMode e s = true → arg e 8 1 = 1 → pstate u ≠ 7 → anyJob u = false →
      exec (.pwrSetMode e io) s = .next (complete e 0 [] []
        (let t := wr u Reg.PWR_MODE 1
         if rd t Reg.PWR_PERF = 0 then wr t Reg.PWR_PERF 1 else t))) ∧
    (fetched Row.pwrDomain e s = true → arg e 8 1 ≤ 71 → arg e 9 1 ≤ 1 → arg e 8 1 ≠ 68 → 2 ≤ pstate u →
      rd u (Reg.PWR_DOMAIN (arg e 8 1)) = (if arg e 9 1 = 1 then 2 else 0) →
      exec (.pwrDomain e io) s = .next (complete e 0 (leBytes 1 (rd u (Reg.PWR_DOMAIN (arg e 8 1)))) [] u)) ∧
    (fetched Row.pwrDomain e s = true → arg e 8 1 ≤ 71 → arg e 9 1 ≤ 1 → arg e 8 1 ≠ 68 → 2 ≤ pstate u →
      rd u (Reg.PWR_DOMAIN (arg e 8 1)) = (if arg e 9 1 = 1 then 0 else 2) →
      domainRefuses u (arg e 8 1) (arg e 9 1 == 1) = none →
      exec (.pwrDomain e io) s = .next (waitsFor Row.pwrDomain e io (.domain (arg e 8 1))
        (startRamp (arg e 8 1) (arg e 9 1 == 1) u))) ∧
    (fetched Row.pwrDomain e s = true → arg e 8 1 ≤ 71 → arg e 9 1 ≤ 1 → arg e 8 1 ≠ 68 → 2 ≤ pstate u →
      (rd u (Reg.PWR_DOMAIN (arg e 8 1)) = 1 ∨ rd u (Reg.PWR_DOMAIN (arg e 8 1)) = 3) →
      exec (.pwrDomain e io) s = .next (waitsFor Row.pwrDomain e io (.domain (arg e 8 1)) u)) ∧
    (fetched Row.energyRead e s = true → arg e 8 1 = 0 → isVf e = false →
      exec (.energyRead e io) s = .next (complete e 0 (leBytes 8 (rd u Reg.PWR_PKG_ENERGY) ++ leBytes 6 (frameNo u)) [] u)) ∧
    (fetched Row.energyRead e s = true → arg e 8 1 = 1 →
      exec (.energyRead e io) s = .next
        (complete e 0 (leBytes 8 (tget 0 (part u e.part).acct 0xD0) ++ leBytes 6 (frameNo u)) [] u)) ∧
    (fetched Row.energyRead e s = true → arg e 8 1 = 2 → arg e 9 1 ≤ 63 → queueStatus u e.part (arg e 9 1) = true →
      exec (.energyRead e io) s = .next
        (complete e 0 (leBytes 8 (tget 0 u.qacct (256 * arg e 9 1 + 0xD0)) ++ leBytes 6 (frameNo u)) [] u))

/-- The reliability commands (R407, R467, R487, R489, R490, R493): log records, the policy of a unit type, the scrub rates, the replica
comparison, a fence that is applied at the next tick, its removal. -/
def Obligations.ReliabilityCommandsComplete : Prop :=
  ∀ (e : Entry) (io : HostIo) (s u : State), startCmd e s = u →
    (fetched Row.faultLogRead e s = true → delivered Row.faultLogRead e io s = true → 1 ≤ arg e 12 2 → arg e 12 2 ≤ 128 →
      exec (.faultLogRead e io) s =
        (let a := max (arg e 8 4) (rd u Reg.CAL_LOG_OLDEST)
         let rs := logRange u a (a + arg e 12 2)
         let b := joinBytes (rs.map recordBytes)
         .next (complete e 0
           (leBytes 4 rs.length ++ leBytes 4 (if rs.isEmpty then rd u Reg.CAL_LOG_NEXT else a + rs.length))
           (inlineOf e b) (sentTo e (arg e 16 8) b u)))) ∧
    (fetched Row.faultPolicySet e s = true → arg e 8 1 ≤ 15 → 1 ≤ arg e 10 1 → arg e 10 1 ≤ 15 → arg e 9 1 ≤ 2 →
      (arg e 9 1 = 2 → arg e 8 1 < 13) →
      exec (.faultPolicySet e io) s = .next (complete e 0 [] []
        (wr (wr u (Reg.CAL_ACTION (arg e 8 1)) (arg e 9 1)) (Reg.CAL_THRESHOLD (arg e 8 1)) (arg e 10 1)))) ∧
    (fetched Row.scrubConfig e s = true → arg e 8 1 = 0 → arg e 12 4 ≤ 65535 →
      exec (.scrubConfig e io) s = .next (complete e 0 [] [] ((List.range 12).foldl
        (fun t k => wr (wrb t (Reg.SPM_SCRUB_EN k) (bit (arg e 9 1) 0)) (Reg.SPM_SCRUB_ROW_US k) (arg e 12 4)) u))) ∧
    (fetched Row.scrubConfig e s = true → arg e 8 1 = 1 → arg e 12 4 ≤ 255 →
      exec (.scrubConfig e io) s = .next (complete e 0 [] []
        (wr u Reg.TIER_T2_SCRUB_HOURS (if bit (arg e 9 1) 0 then arg e 12 4 else 0)))) ∧
    (fetched Row.replicaCompareConfig e s = true → 8 ≤ arg e 9 1 → arg e 9 1 ≤ 16 → arg e 10 2 ≤ 4095 →
      (List.range 7).all (fun i => arg e (12 + 2 * i) 1 == 255 ||
        decide (arg e (12 + 2 * i) 1 ≤ 143 ∧ arg e (13 + 2 * i) 1 ≤ 31)) = true →
      exec (.replicaCompareConfig e io) s = .next (complete e 0 [] [] (if (part u e.part).job = .running then
        modVex u e.part (fun v => { v with cfg := some (bytesAt e.args 0 18) })
        else writeVexCfg e.part (bytesAt e.args 0 18) u))) ∧
    (fetched Row.unitFence e s = true → arg e 8 1 ≤ 12 → unitExists (arg e 8 1) (arg e 10 2) = true →
      inFenceTable u (arg e 8 1) (arg e 10 2) = false →
      (u.cal.pendFence.contains ⟨arg e 8 1, arg e 10 2, true⟩ = true ∨ fenceRoom u = true) →
      exec (.unitFence e io) s = .next (waitsFor Row.unitFence e io .tick
        (if u.cal.pendFence.contains ⟨arg e 8 1, arg e 10 2, true⟩ then u
         else { u with cal := { u.cal with pendFence := u.cal.pendFence ++ [⟨arg e 8 1, arg e 10 2, true⟩] } }))) ∧
    (fetched Row.unitUnfence e s = true → arg e 8 1 ≤ 12 → unitExists (arg e 8 1) (arg e 10 2) = true →
      inFenceTable u (arg e 8 1) (arg e 10 2) = true →
      exec (.unitUnfence e io) s = .next (complete e 0 [] []
        (let t := clearFence u (arg e 8 1) (arg e 10 2)
         { t with cal := { t.cal with
            leaky := tput 0 t.cal.leaky (unitKey (arg e 8 1) (arg e 10 2)) 0,
            pendFence := t.cal.pendFence ++ [⟨arg e 8 1, arg e 10 2, false⟩] } })))

/-- The debug commands (R467, R556, R558, R560): a freeze from HUB_UP, a release with FREEZE_N high, a scan of free bits while frozen, a
self-test that answers OK_PENDING. -/
def Obligations.DebugCommandsComplete : Prop :=
  ∀ (e : Entry) (io : HostIo) (s u : State), startCmd e s = u →
    (fetched Row.freeze e s = true → 2 ≤ pstate u →
      exec (.freeze e io) s = .next (complete e 0 [] [] (freezeNow u))) ∧
    (s.Inv → fetched Row.clockRelease e (wrb s Reg.HIF_PIN_FREEZE_N true) = true →
      frozen (startCmd e (wrb s Reg.HIF_PIN_FREEZE_N true)) = true →
      exec (.clockRelease e io true) s = .next
        (complete e 0 [] [] (releaseNow (startCmd e (wrb s Reg.HIF_PIN_FREEZE_N true))))) ∧
    (fetched Row.scanRead e s = true → arg e 16 2 ≠ 0 → frozen u = true →
      exec (.scanRead e io) s =
        (let n := min (arg e 16 2) (chainBits (arg e 8 2) - arg e 12 4)
         .next (complete e 0 (leBytes 4 n) (packBits (drawBits n u).1) (drawBits n u).2))) ∧
    (fetched Row.diagRun e s = true → arg e 10 1 ≤ 12 → unitExists (arg e 10 1) (arg e 12 2) = true →
      (jobsOfUnit u (arg e 10 1) (arg e 12 2)).isEmpty = true →
      exec (.diagRun e io) s = .next (complete e 1 (leBytes 4 u.kao.nextOp) [] (newOp 0x0904 e 255 u).2))

/-- The doorbells of a mailbox window, the ring head of a slot, the fetch in round robin, a management datagram, the tier-map probe
(R255, R364, R448, R449, R453). -/
def Obligations.WindowCommandsComplete : Prop :=
  ∀ s : State,
    (∀ mb tail entries, subMod 16 (tail % 2 ^ 16) (mbox s mb).sqHead ≤ 64 →
      exec (.mbSqTailWrite mb tail entries) s = .next (modMbox s mb (fun b =>
        { b with sq := (entries.zip (List.range entries.length)).foldl
                         (fun t r => tput [] t ((b.sqTail + r.2) % 64) (padTo 64 r.1)) b.sq,
                 sqTail := tail % 2 ^ 16 }))) ∧
    (∀ mb v, subMod 16 (v % 2 ^ 16) (mbox s mb).cqHead ≤ subMod 16 (mbox s mb).cqTail (mbox s mb).cqHead →
      exec (.mbCqHeadWrite mb v) s = .next (modMbox s mb (fun b => { b with cqHead := v % 2 ^ 16 }))) ∧
    (∀ mb v, subMod 16 (v % 2 ^ 16) (mbox s mb).evHead ≤ subMod 16 (mbox s mb).evTail (mbox s mb).evHead →
      exec (.mbEvHeadWrite mb v) s = .next (modMbox s mb (fun b => { b with evHead := v % 2 ^ 16 }))) ∧
    (∀ p ring head r, ring < slotCount s p → ringOf s (slotBase s p + ring) = some r →
      exec (.srvRingHead p ring head) s =
        .next (setRing (slotBase s p + ring) (some { r with head := head % 2 ^ 16 }) s)) ∧
    (∀ io m x, ((List.range 34).map (fun i => (s.kao.lastServed + 1 + i) % 34)).find? (fetchable s) = some m →
      padTo 64 (tget [] (mbox s m).sq ((mbox s m).sqHead % 64)) = x →
      exec (.mailboxFetch io) s = .next (runEntry (numAt x 0 2) (entryOf (boxSource m) 0 x) io
        (modMbox { s with kao := { s.kao with lastServed := m } } m (fun b => { b with sqHead := (b.sqHead + 1) % 2 ^ 16 })))) ∧
    (∀ src d io, datagramOk d = true → servedBox s (.mgmt src (numAt d 8 4) (d.drop 96)) = true →
      s.kao.kept.find? (fun k => k.src == src && k.xid == numAt d 8 4) = none → s.kao.mgmtInflight < 16 →
      exec (.managementDatagram src d io) s = .next (runEntry (numAt d 32 2)
        (entryOf (.mgmt src (numAt d 8 4) (d.drop 96))
          (bnat ((numAt d 5 1 &&& 0x7C) != 0 || numAt d 6 2 != 0 || numAt d 16 16 != 0)) (bytesAt d 32 64)) io
        (keepXid src (numAt d 8 4) (subscribe src (numAt d 5 1) s)))) ∧
    (∀ src d io k, datagramOk d = true → servedBox s (.mgmt src (numAt d 8 4) (d.drop 96)) = true →
      s.kao.kept.find? (fun k => k.src == src && k.xid == numAt d 8 4) = some k → k.bytes.isEmpty = false →
      exec (.managementDatagram src d io) s = .next (emit s (.datagram src k.bytes))) ∧
    (∀ p page, exec (.tierProbeWrite p page) s =
      (let n := rd s Reg.TIER_PROBE_PAGE_HI * 2 ^ 27 + page
       .next (if n < rangePages s p then
           wr (wr s Reg.TIER_PROBE_CUR (curHalf (pageOf s p n))) Reg.TIER_PROBE_NXT (nxtHalf (pageOf s p n))
         else wr (wr s Reg.TIER_PROBE_CUR 0) Reg.TIER_PROBE_NXT 0)))

/-- The link rows (R259, R260, R261, R262, R276, R285, R289): service ends, training starts, an identity is taken, training moves on or
fails, the table of detours is made. -/
def Obligations.LinkCommandsComplete : Prop :=
  ∀ (s : State) (l : Nat),
    exec (.linkOut l) s = .next (leaveService l 7 (effectiveNow s) s) ∧
    (mayRetrain s l = true → exec (.linkRetrain l) s =
      .next (startTrain l (wr (bump s (Reg.LINK_RETRAINS l) 1) (Reg.LINK_CTRL_RETRAIN l) 0))) ∧
    (l < 96 → exec (.linkDisable l true) s =
      (let u := wrb s (Reg.LINK_CTRL_DISABLE l) true
       let t := leaveService l 7 (effectiveNow u) u
       .next (if rd t (Reg.LINK_STATE l) = 0 then t else wr t (Reg.LINK_STATE l) 1))) ∧
    (l < 96 → exec (.linkDisable l false) s =
      (let t := wrb s (Reg.LINK_CTRL_DISABLE l) false
       .next (if rd t (Reg.LINK_STATE l) = 1 ∧ dieReady t l ∧ fabricTrains t then startTrain l t else t))) ∧
    (∀ sym, l < 96 → 4 ≤ rd s (Reg.LINK_STATE l) → rd s (Reg.LINK_STATE l) ≤ 6 →
      exec (.identSymbol l true sym) s =
        (let t := modLink s l (fun x => { x with farDigest := sym.digest % 2 ^ 64 })
         let t := wr (wr (wr t (Reg.LINK_FAR_PKG l) sym.pkg) (Reg.LINK_FAR_LINK l) sym.link) (Reg.LINK_IDENT_VALID l) 1
         let t := wrb t (Reg.LINK_MATCH l) (rd t Reg.RTR_MAP_KIND != 0 && identMatches t l)
         .next (if isUp t l && rd t Reg.RTR_MAP_KIND != 0 && !identMatches t l then
           enterMismatch l (leaveService l 0 (effectiveNow t) t) else t))) ∧
    (∀ lane, l < 96 → 2 ≤ rd s (Reg.LINK_STATE l) → exec (.laneLockLoss l lane true) s =
      .next (leaveService l 2 (effectiveNow s) (linkError (Reg.LINK_ERR_FEC_ALIGN l) 1 l 1 true s))) ∧
    (∀ lane, l < 96 → 2 ≤ rd s (Reg.LINK_STATE l) → exec (.laneLockLoss l lane false) s =
      (let t := linkError (Reg.LINK_ERR_LOCK_LOSS l) 0 l 1 true
         (wr s (if lane = 0 then Reg.LINK_LANE0_LOCK l else Reg.LINK_LANE1_LOCK l) 0)
       let eff := effectiveNow (wr s (if lane = 0 then Reg.LINK_LANE0_LOCK l else Reg.LINK_LANE1_LOCK l) 0)
       .next (leaveService l 1 eff t))) ∧
    (∀ count, l < 96 → count ≠ 0 → exec (.fecUeLimit l count) s =
      (let t := linkError (Reg.LINK_ERR_FEC_UE l) 2 l 1 true (bump s (Reg.LINK_FEC_UE_CNT l) count)
       .next (if rd t Reg.RTR_UE_LIMIT < count then leaveService l 3 (effectiveNow t) t else t))) ∧
    (l < 96 → exec (.trainingStepDone l) s = .next (trainingStep l s)) ∧
    (l < 96 → rd s (Reg.LINK_STATE l) = 2 →
      exec (.trainingStepTimeout l) s = .next (trainFault l (if (linkX s l).laneOk then 2 else 1) s)) ∧
    (l < 96 → rd s (Reg.LINK_STATE l) = 3 → exec (.trainingStepTimeout l) s = .next (trainFault l 4 s)) ∧
    (l < 96 → rd s (Reg.LINK_STATE l) = 4 → exec (.trainingStepTimeout l) s = .next (trainFault l 1 s)) ∧
    (l < 96 → rd s (Reg.LINK_STATE l) = 5 → exec (.trainingStepTimeout l) s = .next (trainFault l 5 s)) ∧
    (mayRetrain s l = true → rd s (Reg.LINK_RETRAINS l) < rd s Reg.RTR_RETRAIN_MAX →
      exec (.retrainTimer l) s = .next (startTrain l (bump s (Reg.LINK_RETRAINS l) 1))) ∧
    exec .detourTableRebuild s = .next { s with fab := { s.fab with detourNext := some (detourSet s) } } ∧
    (∀ ingress slot, l < 96 → heldPos s l ≠ 15 → slot < s.tick.len →
      exec (.rtrProbeWrite l ingress slot) s =
        (let t := wrb s Reg.RTR_PROBE_VALID true
         .next (match slotAt s ingress (bundleOf s l) (heldPos s l) slot with
           | some e => wr (wr t Reg.RTR_PROBE_KIND 1) Reg.RTR_PROBE_SLICE e.slice
           | none => wr (wr t Reg.RTR_PROBE_KIND 0) Reg.RTR_PROBE_SLICE 0)))

/-- Register access from the host (R18, R21, R395, R544) and what comes over SPDM and IDE_KM (R395, R396, R553): a counter read keeps
its high half, a read that clears, a write to each field's kind, sessions and streams. -/
def Obligations.HostPathCommandsComplete : Prop :=
  ∀ s : State,
    (∀ path off, exec (.counterLowRead path off) s =
      .next (emit { s with shadows := tput (0, 0) s.shadows path (off + 1, counterAt s path off / 2 ^ 32) }
        (.readData path (counterAt s path off % 2 ^ 32)))) ∧
    (∀ path off, off = mbErrOff path + 4 → exec (.rcFieldRead path off) s =
      .next (emit (modMbox s path (fun b => { b with evLost := 0 })) (.readData path (mbox s path).evLost))) ∧
    (∀ path off f r, off ≠ mbErrOff path + 4 → (path < 2 ∨ path = 34) → fieldsAt Reg.readClear off = f :: r →
      exec (.rcFieldRead path off) s = .next (emit (wr s f f.reset) (.readData path (rd s f)))) ∧
    (∀ path off w, off % 4 = 0 → off = mbErrOff path → exec (.registerWrite path off w) s =
      .next (modMbox s path (fun b => { b with err := b.err - (b.err &&& w.toNat % 16) }))) ∧
    (∀ path off w, off % 4 = 0 → off ≠ mbErrOff path → path < 2 → ownRow off = false → (off < 0x900000 ∨ 0xA00000 ≤ off) →
      hiddenReg s path off = false →
      exec (.registerWrite path off w) s = .next ((fieldsAt Reg.writable off).foldl (writeField w) s)) ∧
    (∀ port id, spdmServed s port = true → s.wts.sessions.length < 8 → s.wts.sessions.any (·.id == id) = false →
      exec (.spdmRequest (.establish port id)) s =
        .next (emit (wr { s with wts := { s.wts with sessions := s.wts.sessions ++ [⟨id, port⟩] } } Reg.CRY_SESSIONS
          (s.wts.sessions.length + 1)) (.spdm [0x64]))) ∧
    (∀ port id, spdmServed s port = true → exec (.spdmRequest (.endSession port id)) s =
      .next (emit (endSessions (fun x => x.id == id && x.port == port) s) (.spdm [0x6C]))) ∧
    (∀ port i, spdmServed s port = true → 1 ≤ i → i ≤ 6 → exec (.spdmRequest (.measurements port i)) s =
      .next (emit (measurement i s).2 (.spdm (0x60 :: (measurement i s).1)))) ∧
    (∀ port, spdmServed s port = true → exec (.spdmRequest (.other port)) s =
      .next (emit (drawBytes 1 s).2 (.spdm (drawBytes 1 s).1))) ∧
    (∀ x session stream, x < 2 → stream < 3 → spdmServed s x = true → sessionOn s session x = true →
      exec (.ideKmRequest x session stream) s =
        (let k := x * 4 + stream
         .next (emit (showIde x { s with hif := { s.hif with
           ideKeyed := s.hif.ideKeyed.filter (· != k) ++ [k], ideFailed := s.hif.ideFailed.filter (· != k) } }) (.spdm [1]))))

/-- The management commands that Caliche answers (R495, R496, R550, R551): Staem reads and settings, deliveries, an update, sensors,
MCTP control, ICMPv6, an I3C address. -/
def Obligations.ManagementCommandsComplete : Prop :=
  ∀ s : State,
    (∀ idx, calAlive s = true → 1 ≤ pstate s → exec (.staemGet idx) s =
      .next (match logRange s (max idx (rd s Reg.CAL_LOG_OLDEST)) (rd s Reg.CAL_LOG_NEXT) with
        | r :: _ => emit s (.mctp 0 (leBytes 4 r.index ++ staemRecord s r))
        | [] => emit s (.mctp 0 []))) ∧
    (∀ addr port, calAlive s = true → 1 ≤ pstate s → exec (.staemSetCollector addr port) s =
      .next (emit (wrb { s with cal := { s.cal with collector := if port = 0 then none else some (addr, port) } }
        Reg.CAL_COLLECTOR_SET (port != 0)) (.mctp 0 []))) ∧
    (∀ idx, calAlive s = true → 1 ≤ pstate s → exec (.staemAck idx) s = .next (emit (deliverTo idx s) (.mctp 0 []))) ∧
    (calAlive s = true → 1 ≤ pstate s → exec .calicheStatus s =
      .next (emit s (.mctp 0 (leBytes 4 (calStatusWord s) ++ leBytes 4 (rd s Reg.CAL_LOG_NEXT) ++
        leBytes 4 (rd s Reg.CAL_LOG_OLDEST) ++ leBytes 4 (rd s Reg.CAL_DELIVERED))))) ∧
    (∀ addr port first, s.cal.collector = some (addr, port) → calAlive s = true →
      exec (.staemCollectorAck addr first) s = .next (deliverTo first s)) ∧
    (rd s Reg.CAL_DELIVERED < s.cal.sent → exec .staemResendTimer s = .next (sendStaem (rd s Reg.CAL_DELIVERED) s)) ∧
    exec .staemSend s = .next (sendStaem s.cal.sent s) ∧
    (∀ img, calAlive s = true → exec (.pldmFirmwareUpdate .kaolin img) s =
      .next (wr { s with hif := { s.hif with slots := tput FwImage.none s.hif.slots (1 - rd s Reg.SEQ_ACTIVE_SLOT) img } }
        Reg.SEQ_ACTIVE_SLOT (1 - rd s Reg.SEQ_ACTIVE_SLOT))) ∧
    (∀ img, calAlive s = true → exec (.pldmFirmwareUpdate .caliche img) s =
      .next { s with hif := { s.hif with slots := tput FwImage.none s.hif.slots 2 img } }) ∧
    (∀ i b, calAlive s = true → sensorValue s i = some b → exec (.pldmRequest (.sensor i)) s = .next (emit s (.mctp 0 b))) ∧
    (calAlive s = true → exec (.pldmRequest .other) s = .next (emit (drawBytes 1 s).2 (.mctp 0 (drawBytes 1 s).1))) ∧
    (∀ n, calAlive s = true → 8 ≤ n → n ≤ 254 → exec (.mctpControlRequest (.setEid n)) s =
      .next (emit { s with hif := { s.hif with eid := n } } (.mctp 0 [0, BitVec.ofNat 8 n, 0]))) ∧
    (calAlive s = true → exec (.mctpControlRequest .getEid) s =
      .next (emit s (.mctp 0 [BitVec.ofNat 8 s.hif.eid, 0, 0]))) ∧
    (calAlive s = true → exec (.mctpControlRequest .other) s =
      .next (emit (drawBytes 1 s).2 (.mctp 0 (drawBytes 1 s).1))) ∧
    (∀ slaac body, calAlive s = true → rdb s Reg.HIF_MGMT_UP = true →
      exec (.mgmtIcmpv6Packet 128 slaac body) s = .next (emit s (.mgmtReply (129 :: body))) ∧
      exec (.mgmtIcmpv6Packet 135 slaac body) s = .next (emit s (.mgmtReply (136 :: body))) ∧
      exec (.mgmtIcmpv6Packet 130 slaac body) s = .next (emit s (.mgmtReply (143 :: body))) ∧
      exec (.mgmtIcmpv6Packet 134 true body) s = .next (wr s Reg.HIF_MGMT_ADDR 1)) ∧
    (∀ dyn, s.pwr.calSupply = true → exec (.i3cSetdasa dyn) s =
      .next { s with hif := { s.hif with dynAddr := dyn % 128 } })

/-- The pins, the supplies and the clocks (R33, R482, R510, R512, R513, R523, R524, R528, R529, R556, R559, R568). -/
def Obligations.PinCommandsComplete : Prop :=
  ∀ s : State,
    (s.pwr.calSupply = true → exec .pwrEnRise s = .next (powerOn (wr s Reg.HIF_PIN_PWR_EN 1))) ∧
    (s.pwr.calSupply = true → exec .pwrEnFall s = .next (forcedOff 0x05C4 (wr s Reg.HIF_PIN_PWR_EN 0))) ∧
    (s.pwr.calSupply = true → pstate s ≠ 0 → exec .resetNAssert s =
      (let t := rails [6, 2, 1, 4, 5, 3, 0, 7] false (emit s (.pin 1 false))
       let t := dark resetKeeps { t with pwr := { t.pwr with powerOp := none, nextTarget := none, tripped := false } }
       let t := wr { t with kao := { t.kao with ops := [] }, hif := { t.hif with meas5 := 0 } } Reg.HIF_PIN_THERMTRIP_N 1
       .next { t with pwr := { t.pwr with resetLow := true } })) ∧
    (s.pwr.calSupply = true → s.pwr.resetLow = true → exec .resetNRelease s =
      (let t := { s with pwr := { s.pwr with resetLow := false } }
       .next (if rdb t Reg.HIF_PIN_PWR_EN then powerOn t else t))) ∧
    (∀ pwrEn, s.pwr.calSupply = false → exec (.calicheSupplyOn pwrEn) s =
      (let t := setPstate { (offState s) with pwr := { (offState s).pwr with calSupply := true } } 1
       let t := wr (wr (wr t Reg.CAL_RUNNING 1) Reg.CAL_LOCKSTEP_OK 1) Reg.CAL_XTAL_OK 1
       let t := wr t Reg.CAL_FW_VERSION (fwSlot t 2).version
       let mac : Bytes := 2 :: (leBytes 8 Config.serial.toNat).drop 3
       let t := wr (wr t Reg.HIF_MAC_HI (numAt mac 0 2)) Reg.HIF_MAC_LO (numAt mac 2 4)
       .next (if pwrEn then powerOn (wr t Reg.HIF_PIN_PWR_EN 1) else t))) ∧
    exec .calicheSupplyOff s = .next (offState s) ∧
    (s.pwr.calSupply = true → exec .freezeNFall s = .next (freezeNow (wr s Reg.HIF_PIN_FREEZE_N 0))) ∧
    (∀ r word, r ≤ 7 → exec (.vrAlert r word) s =
      (let t := setAlertPin r false s
       .next (if bit (rd t Reg.PWR_VR_MASK) r && decide (2 ≤ pstate t) then
           enterFloor 1 r 0 (leBytes 2 word) (wr (pwrEvent Reg.PWR_EV_VR_ALERT 0 (orReg t Reg.PWR_VR_LATCH (2 ^ r)))
             (Reg.PWR_STATUS_WORD r) word)
         else t))) ∧
    (∀ r, r ≤ 7 → exec (.vrAlertRelease r) s =
      .next { (setAlertPin r true s) with pwr := { s.pwr with pinRise := tput 0 s.pwr.pinRise r (pkgNs s) } }) ∧
    (rd s Reg.TICK_ROLE = 1 → rdb s Reg.TICK_SYNC_IN_EN = true → exec (.tickSyncInEdge false) s =
      .next (tickEvent Reg.TICK_EV_SYNC_IN_LOST 7 s)) ∧
    (exec (.tickSyncInEdge true) s = .next s) ∧
    (∀ temps, exec (.sensorSample temps) s = .next (if pstate (takeTemps temps s) < 2 then takeTemps temps s
      else tripPass (floorPass (hotter s floorAt 0) (throttlePass (hotter s throttleAt 0) (takeTemps temps s))))) ∧
    (2 ≤ pstate s → exec .refclk100Loss s = .next (forcedOff 0x05C3 (report (mkRec s 15 0 3 9 0x1220 24 255
      (if anyJob s then 2 else 0) 0x05C3 0 []) false s))) ∧
    (∀ n, n < 4 → s.pwr.calSupply = true → s.pwr.refLost.contains n = false → exec (.serdesRefLoss n) s =
      (let t := wr { s with pwr := { s.pwr with refLost := s.pwr.refLost ++ [n] } } (Reg.LD_REFCLK_LOCK n) 0
       let u := (dieLinks n).foldl (fun s l =>
         if isUp s l then leaveService l 1 (effectiveNow s) s
         else if 2 ≤ rd s (Reg.LINK_STATE l) ∧ rd s (Reg.LINK_STATE l) ≤ 5 then trainFault l 1 s
         else s) t
       .next (if !portsRun t then t
         else if n = 3 then loseDrive 1 (loseDrive 0 (setLtssm 1 0 (setLtssm 0 0 u))) else u))) ∧
    (∀ n, n < 4 → s.pwr.refLost.contains n = true → exec (.serdesRefReturn n) s =
      (let t := { s with pwr := { s.pwr with refLost := s.pwr.refLost.filter (· != n) } }
       .next (wrb t (Reg.LD_REFCLK_LOCK n) (rdb t (Reg.LD_POWERED n))))) ∧
    exec .xtalLoss s = .next (wr s Reg.CAL_XTAL_OK 0) ∧
    (s.pwr.calSupply = true → exec .xtalReturn s = .next (wr s Reg.CAL_XTAL_OK 1)) ∧
    exec .trstNAssert s = .next { s with hif := { s.hif with jtagIr := .idcode, chainPos := 0 } }

/-- The JTAG instructions (R559, R560): each shifts out what its register holds; scans of boundary and chain draw free bits. -/
def Obligations.JtagCommandsComplete : Prop :=
  ∀ (s : State) (tdi : List Bool), s.pwr.calSupply = true →
    exec (.jtagBypass tdi) s = .next (emit { s with hif := { s.hif with jtagIr := .bypass } }
      (.tdo ((false :: tdi).take tdi.length))) ∧
    exec (.jtagIdcode tdi) s = .next (emit { s with hif := { s.hif with jtagIr := .idcode } }
      (.tdo ((idcodeBits ++ tdi).take tdi.length))) ∧
    (2 ≤ pstate s → exec (.jtagSamplePreload tdi) s =
      .next (emit { (drawBits tdi.length s).2 with hif := { s.hif with jtagIr := .samplePreload, boundary := tdi } }
        (.tdo (drawBits tdi.length s).1))) ∧
    (boundaryAllowed s = true →
      exec (.jtagExtest tdi) s =
        .next (emit { (drawBits tdi.length s).2 with hif := { s.hif with jtagIr := .extest, boundary := tdi } }
          (.tdo (drawBits tdi.length s).1)) ∧
      exec (.jtagClamp tdi) s = .next (emit { s with hif := { s.hif with jtagIr := .clamp } }
        (.tdo ((false :: tdi).take tdi.length))) ∧
      exec (.jtagHighz tdi) s = .next (emit { s with hif := { s.hif with jtagIr := .highz } }
        (.tdo ((false :: tdi).take tdi.length)))) ∧
    (∀ chain, frozen s = true → exec (.scanSel chain) s = .next { s with hif := { s.hif with
      jtagIr := .scanSel, chain := chain % 65536, chainPos := 0, meas5 := s.hif.meas5 ||| 1 } }) ∧
    (frozen s = true → exec (.scanShift tdi) s =
      .next (emit { (drawBits tdi.length s).2 with hif := { s.hif with
        jtagIr := .scanShift, chainPos := min (chainBits s.hif.chain) (s.hif.chainPos + tdi.length) } }
        (.tdo (drawBits tdi.length s).1)))

/-- The frame clock (R26, R27, R32, R39, R481): the tick, the commit deadline, a symbol accepted or joined on, a missing one, the fence
of a package that lost the tick. -/
def Obligations.FrameClockCommandsComplete : Prop :=
  ∀ s : State,
    (∀ ups, keepsFrames s = true → exec (.tick ups) s = .next (tick ups s)) ∧
    (keepsFrames s = true → s.tick.verdict = false → exec .commitDeadline s = .next (deadline s)) ∧
    (∀ l sym o, isUp s l = true → sym.master ≠ pkgId s → 2 ≤ rd s Reg.TICK_ROLE → l = upstream s →
      (sym.master = rd s Reg.TICK_MASTER_ID ∨ genAfter sym.gen (rd s Reg.TICK_GEN) = true) →
      (sym.gen = rd s Reg.TICK_GEN ∨ genAfter sym.gen (rd s Reg.TICK_GEN) = true) → sym.frame = frameNo s →
      exec (.tickSymbolReceive l true sym o) s = .next (acceptSymbol sym o s)) ∧
    (∀ l sym o, isUp s l = true → sym.master ≠ pkgId s → rd s Reg.TICK_ROLE = 0 → pstate s = 5 → s.tick.mapChecked = true →
      l = upstream s → exec (.tickSymbolReceive l true sym o) s = .next (joinMaster sym o s)) ∧
    (∀ l sym o, isUp s l = true → sym.master ≠ pkgId s → rd s Reg.TICK_ROLE = 1 →
      genAfter sym.gen (rd s Reg.TICK_GEN) = true →
      exec (.tickSymbolReceive l true sym o) s = .next (acceptSymbol sym o (mapUpstream s))) ∧
    (2 ≤ rd s Reg.TICK_ROLE → s.tick.gotSymbol = false → keepsFrames s = true → exec .missingTick s =
      (let t := tickEvent Reg.TICK_EV_MASTER_MISS 4 (wr s Reg.TICK_HOLDOVER 1)
       let u := { t with tick := { t.tick with missed := t.tick.missed + 1, gotSymbol := true } }
       .next (if rd s Reg.TICK_ROLE = 2 ∧ 2 ≤ u.tick.missed then masterSymbol (takeover u) else u))) ∧
    (2 ≤ rd s Reg.TICK_ROLE → 3 ≤ s.tick.missed → rdb s Reg.TICK_FENCED = false → exec .tickLossSelfFence s =
      (let t := report (mkRec s 14 4 3 1 0x0104 24 255 (if anyJob s then 2 else 0) (if anyJob s then 0x0561 else 0) 0 []) true s
       .next (floodReport (pkgId t) (pkgId t) (frameNo t) (fenceSelf t))))

/-- Slots and control symbols on a link (R37, R44, R260, R264, R270, R274, R279). -/
def Obligations.SlotCommandsComplete : Prop :=
  ∀ (s : State) (l : Nat), isUp s l = true →
    (∀ rx t, rx.slot < s.tick.len → slotBegins rx.slot s = t → exec (.slotReceive l rx) s =
      (let u := match slotFault t rx with | some k => countFault l k t | none => takeAck l rx t
       .next (match slotAt t true (bundleOf t l) (heldPos t l) rx.slot with
         | some e => receiveSched l e (slotFault t rx).isNone rx u
         | none => receiveOpen l (slotFault t rx).isNone rx u))) ∧
    (∀ slot t, slot < s.tick.len → slotBegins slot s = t → exec (.slotSend l slot) s =
      .next (match slotAt t false (bundleOf t l) (heldPos t l) slot with
        | some e => sendSched l e t
        | none => sendOpen l slot t)) ∧
    exec (.openRetryTimeout l) s = .next (modLink s l (fun x => { x with resend := x.retry.length })) ∧
    (∀ kind frame slices new, kind ≤ 2 → frame % 2 ^ 16 = frameNo s % 2 ^ 16 →
      slices.filter (fun x => !(abortMap s kind).contains x) = new → new ≠ [] →
      exec (.abortSymbolReceive l true kind frame slices) s =
        .next (floodAbort kind { s with tick := new.foldl (fun t x => markAbort t kind x) s.tick })) ∧
    (∀ pos eff, isUp s (subLink s (bundleOf s l) pos) = true → exec (.linkDownSymbol l true pos eff) s =
      .next (leaveService (subLink s (bundleOf s l) pos) 1 (eff % 2 ^ 16) s)) ∧
    (∀ pos eff k, subLink s (bundleOf s l) pos = k → isUp s k = false → k ≠ 127 →
      exec (.linkDownSymbol l true pos eff) s = .next (noteSub ⟨bundleOf s l, pos, k, eff % 2 ^ 16⟩ s)) ∧
    (∀ reporter accused frame, exec (.faultRptSymbol l true reporter accused frame) s =
      .next (floodReport reporter accused frame s)) ∧
    (∀ t, l < 96 → rd t (Reg.LINK_STATE l) = 3 →
      (∀ trip turn, exec (.echoSymbol l true true trip turn) t =
        .next (modLink t l (fun x => { x with echoes := x.echoes + 1, echoSum := x.echoSum + (trip - turn) }))) ∧
      (∀ trip turn, exec (.echoSymbol l true false trip turn) t =
        .next (sendSymbol [l] 5 (leBytes 1 1 ++ leBytes 2 turn) t)))

/-- Remote memory (R297, R299, R300, R301, R304, R305, R311, R424): a request at its home, a response, a timeout, the combining window,
a control core's remote access, fence and local access, a deferred atomic's answer. -/
def Obligations.RemoteCommandsComplete : Prop :=
  ∀ s : State,
    (∀ q ue, frozen s = false → waitsBehind s q = false → exec (.remoteRequestHome q ue) s =
      .next (serveReq q (takeUe ue (takePacket false q.src (encodeReq q) s)))) ∧
    (∀ r, frozen s = false → exec (.remoteResponse r) s =
      .next (receiveRsp r.reqid r.tag r.code r.data (takePacket true r.src (encodeRsp r) s))) ∧
    (∀ reqid tag, awaits s reqid tag = true → exec (.remoteTimeout reqid tag) s =
      .next (receiveRsp reqid tag 5 [] (bump s Reg.RMT_TIMEOUT_CNT 1))) ∧
    (∀ i, exec (.combineWindowExpiry i) s = .next { s with rmt := { s.rmt with window := s.rmt.window.eraseIdx i } }) ∧
    (∀ a q t, threadReady s a.thread = true → a.addr / 2 ^ 56 = 128 →
      ccRequest s a = q →
      wellFormedReq q = true → acceptsPkg s (q.addr / 2 ^ 48) = true → hasRoom s a.thread = true →
      issueReq q s = (t, true) → exec (.ccRemoteAccess a) s = .next t) ∧
    (∀ t, threadReady s t = true → (outOf s (threadReqid t)).isEmpty = true → exec (.ccFence t) s = .next (endFence t s)) ∧
    (∀ t, threadReady s t = true → (outOf s (threadReqid t)).isEmpty = false →
      exec (.ccFence t) s = .next { s with rmt := { s.rmt with fences := s.rmt.fences ++ [t] } }) ∧
    (∀ tag code, exec (.deferredAtomicResponse tag code) s = .next (deferDone tag code s)) ∧
    (∀ a ue, a.thread < 256 → threadReady s a.thread = true → plainAccess a = true →
      a.addr < rangePages (takeUe ue s) (threadOwner s a.thread) * pageBytes →
      exec (.ccLocalAccess a ue) s = .next (coreTier (threadOwner s a.thread) a (takeUe ue s))) ∧
    (∀ a ue, a.thread < 256 → threadReady s a.thread = true → plainAccess a = true →
      rangePages (takeUe ue s) (threadOwner s a.thread) * pageBytes ≤ a.addr →
      ownScratch (takeUe ue s) (threadOwner s a.thread) a.addr = true →
      (a.op = .store → liveLocked (takeUe ue s) a.addr (2 ^ a.size) = false) →
      exec (.ccLocalAccess a ue) s = .next (if holds (takeUe ue s) a.addr then holdAccess (.core a) a.addr (takeUe ue s)
        else coreScratch a (takeUe ue s)))

/-- CTL messages of the tick and start families (R47, R430, R431, R508, R533, R534) that are expected and heard for the first time. -/
def Obligations.StartMessagesComplete : Prop :=
  ∀ (h : CtlHdr) (s u : State), answered h s = u →
    s.fab.seen.find? (fun c => c.src == h.srcPkg && c.mseq == h.mseq) = none → expected u h = true →
    (∀ k, k ≤ 2480 → (rd u Reg.TICK_ROLE = 1 ∨ rd u Reg.TICK_ROLE = 2) → exec (.stretchReq h k) s =
      .next (heardCtl h (ackWith 0) { u with tick := { u.tick with requests := tput 0 u.tick.requests h.srcPkg k } })) ∧
    (∀ c, listens u = true → u.tick.candidate = true → c.mapDigest = mapDigest u → exec (.candidate h c) s =
      .next (heardCtl h none { u with tick := { u.tick with heard := u.tick.heard.filter (fun x => x.pkg != c.pkg) ++ [c] } })) ∧
    (∀ elig prio tray, rd u Reg.TICK_ROLE = 1 → exec (.ctlJoin h elig prio tray) s =
      (let t := { u with tick := { u.tick with
         joined := u.tick.joined.filter (fun j => j.1 != h.srcPkg) ++ (if elig then [(h.srcPkg, prio, tray)] else []),
         fencedPkgs := u.tick.fencedPkgs.filter (· != h.srcPkg) } }
       .next (heardCtl h (ackWith 0) (if rd t Reg.TICK_STANDBY_ID = 255 ∧ elig = true then electStandby t else t)))) ∧
    (∀ id digest rank slots r, rankOf u h.dstPart h.srcPkg h.srcPart = some r → exec (.ctlReady h id digest rank slots) s =
      .next (heardCtl h (ackWith 0) (advanceStart h.dstPart (modPart u h.dstPart (fun q => { q with
        readies := q.readies.filter (·.1 != r) ++ [(r, id, if r = rank then digest else digest + 2 ^ 64, slots)] }))))) ∧
    (∀ id slice ents es ts, slotEnts slice ents 0 (ents.length / 8) = es →
      es.all (entryOk (rd u Reg.TICK_BASE) true) = true → entriesFit u (rd u Reg.TICK_BASE) es = true →
      (if u.fab.transit.any (fun t => t.imageId == id && t.slice == slice && !t.released) then
        u.fab.transit.map (fun t => if t.imageId = id ∧ t.slice = slice ∧ !t.released then { t with ents := t.ents ++ es } else t)
       else u.fab.transit ++ [⟨id, slice, es, false⟩]) = ts →
      exec (.transitInstall h id slice ents) s =
        .next (heardCtl h (some (0x22, leBytes 8 id ++ leBytes 1 0 ++ leBytes 7 0)) { u with fab := { u.fab with transit := ts } })) ∧
    (∀ id, (part u h.dstPart).job = .starting → isLead u h.dstPart = true → imageIdOf (part u h.dstPart) = id →
      exec (.transitReply h id 0) s = .next (heardCtl h none (advanceStart h.dstPart
        (modPart u h.dstPart (fun q => { q with accepts := q.accepts ++ [h.srcPkg] })))) ∧
      exec (.transitReply h id 1) s = .next (heardCtl h none (abandonStart h.dstPart u))) ∧
    (∀ id f resume, fromLead u h = true → imageIdOf (part u h.dstPart) = id →
      (part u h.dstPart).job = (if resume then .paused else .starting) → exec (.ctlGo h id f resume) s =
      .next (heardCtl h (ackWith 0) (modPart u h.dstPart (fun q => { q with goFrame := some f, resume := resume })))) ∧
    (∀ id st, h.dstPart = 255 → exec (.ctlAbandon h id st) s =
      .next (heardCtl h (ackWith 0) (releaseTransit (fun t => t.imageId == id) u))) ∧
    (∀ id st, h.dstPart ≠ 255 → fromLead u h = true → imageIdOf (part u h.dstPart) = id → exec (.ctlAbandon h id st) s =
      .next (heardCtl h (ackWith 0) (endStart h.dstPart u))) ∧
    (∀ id slice, exec (.transitRelease h id slice) s =
      .next (heardCtl h (ackWith 0) (releaseTransit (fun t => t.imageId == id && t.slice == slice) u))) ∧
    (∀ v r, rankOf u h.dstPart h.srcPkg h.srcPart = some r → v ≤ 16 → exec (.ctlFill h v) s =
      .next (heardCtl h (ackWith 0) (modPart u h.dstPart (fun q => { q with fills := tput none q.fills r (some v) }))))

/-- CTL messages of serving, weights and sessions (R354, R380, R384, R388, R406, R407, R410) that are expected and heard for the first
time. -/
def Obligations.ServiceMessagesComplete : Prop :=
  ∀ (h : CtlHdr) (s u : State), answered h s = u →
    s.fab.seen.find? (fun c => c.src == h.srcPkg && c.mseq == h.mseq) = none → expected u h = true →
    (∀ slots pages i, peerIndex (admitCfg u h.dstPart).targets h.srcPkg h.srcPart = some i → exec (.creditGrant h slots pages) s =
      .next (heardCtl h (ackWith 0) (setCredit h.dstPart i ((tget (0, 0) u.srv.credits (4 * h.dstPart + i)).1 + slots,
        (tget (0, 0) u.srv.credits (4 * h.dstPart + i)).2 + pages) u))) ∧
    (∀ slots pages i, peerIndex (admitCfg u h.dstPart).sources h.srcPkg h.srcPart = some i → exec (.creditReturn h slots pages) s =
      .next (heardCtl h (ackWith 0) (setGrant h.dstPart i ((tget (0, 0) u.srv.granted (4 * h.dstPart + i)).1 - slots,
        (tget (0, 0) u.srv.granted (4 * h.dstPart + i)).2 - pages) u))) ∧
    (∀ req ctl jidx gen i g n r, peerIndex (admitCfg u h.dstPart).sources h.srcPkg h.srcPart = some i →
      tget (0, 0) u.srv.granted (4 * h.dstPart + i) = g → isLead u h.dstPart = true → roleOf u h.dstPart ≠ 3 →
      roleOf u h.dstPart ≠ 0 → g.1 ≠ 0 → (ctlOf ctl).kvResv / 64 ≤ g.2 → freeSlots u h.dstPart = n :: r →
      exec (.ctlAssign h req ctl jidx gen) s =
        .next (heardCtl h none (setGrant h.dstPart i (g.1 - 1, g.2 - (ctlOf ctl).kvResv / 64)
          (askSlot n (.install (assignedSlot u h.dstPart n ((admitCfg u h.dstPart).sources.getD i 255) req ctl jidx gen)
            h.srcPkg h.mseq) (modSrv (fun v => { v with order := v.order + 1 }) u))))) ∧
    (∀ jidx gen tjidx tgen i n, peerIndex (admitCfg u h.dstPart).targets h.srcPkg h.srcPart = some i →
      assignSlot u h.dstPart (List.replicate 128 0 ++ leBytes 2 jidx ++ leBytes 2 gen) = some n →
      exec (.installed h jidx gen tjidx tgen) s = .next (heardCtl h (ackWith 0) (askSlot n (.installed tjidx tgen) u))) ∧
    (∀ unit w void d k, rankOf u h.dstPart h.srcPkg h.srcPart = some k → exec (.pkgDigest h unit w void d) s =
      .next (heardCtl h (ackWith 0) (shareDigest h.dstPart w unit (addDigest h.dstPart ⟨w, unit, k, d, void⟩ u)))) ∧
    (∀ unit w void mid epoch d k, (vexPeers u h.dstPart).find? (fun k => k.2.1 == h.srcPkg && k.2.2 == h.srcPart) = some k →
      mid = (part u h.dstPart).modelId → epoch = (part u h.dstPart).modelEpoch → unit = windowUnit u h.dstPart w →
      exec (.sliceDigest h unit w void mid epoch d) s =
        .next (heardCtl h (ackWith 0) (addDigest h.dstPart ⟨w, unit, 256 + k.1, d, void⟩ u))) ∧
    (∀ unit epoch r k, replOf u h.dstPart = some r → rankOf u h.dstPart h.srcPkg h.srcPart = some k → r.epoch = epoch →
      r.units.contains (k, unit) = false → exec (.unitDone h unit epoch) s =
      .next (heardCtl h (ackWith 0) (setRepl h.dstPart (some { r with units := r.units ++ [(k, unit)] }) u))) ∧
    (∀ image last medium bytes units uhs, (imageOf u image).isSome = true →
      exec (.segReport h image last medium bytes units uhs) s =
        .next (heardCtl h (ackWith 0) (takeReport image h.srcPkg last medium bytes units uhs u))) ∧
    (∀ image i off want b, fetchBytes u image i off want = some b → exec (.unitFetch h image i off want) s =
      .next (heardCtl h (some (0x52, unitBody image i off 0 b)) (bump u Reg.SESS_BYTES_IN_CNT b.length))) ∧
    (∀ image i off st data o, u.srv.sessOps.find? (fun o => opImage o.kind == some image) = some o →
      exec (.unitData h image i off st data) s = .next (heardCtl h none (takeUnit o (imageLead image) i off st data u))) ∧
    (∀ image i off data, u.srv.sessOps.find? (fun o => opImage o.kind == some image) = none →
      exec (.unitData h image i off 0 data) s = .next (heardCtl h none (placeUnit image i off data u))) ∧
    (∀ image st units o, u.srv.sessOps.find? (isThawOf image) = some o →
      exec (.thawReport h image st units) s = .next (heardCtl h (ackWith 0) (if st ≠ 0 then endOp o st 0 u else
        setOps (u.srv.sessOps.map (fun x => if x = o then
          { x with reports := x.reports.filter (fun r => r.1 != h.srcPkg) ++ [(h.srcPkg, st, units)] } else x)) u))) ∧
    (∀ image, exec (.segDelete h image) s = .next (heardCtl h (ackWith 0) (deleteImage image u)))

/-- The CTL ring and the repeats (R291, R292, R354): a message at the front of the ring is applied, an answer ends its message, the
messages without an answer are repeated or given up. -/
def Obligations.MessageRingComplete : Prop :=
  ∀ s : State,
    (∀ k r, s.kao.down = false → keepsFrames s = true → s.fab.ring = k :: r → messageOk k.bytes = true →
      exec .ctlMessageReceive s = .next (applyMessage (numAt k.bytes 0 2) (headerOf k.src k.bytes) (k.bytes.drop 32)
        { s with fab := { s.fab with ring := r } })) ∧
    (∀ h st o, s.fab.unanswered.find? (fun o => o.dst == h.srcPkg && o.mseq == h.replyTo) = some o →
      exec (.ctlAck h st) s = .next (if o.mtype = 0x23 ∧ st = 0 then goAcked o.part h (answered h s)
        else if o.mtype = 0x32 ∧ st ≠ 0 then assignFailed o.part o.body st (answered h s) else answered h s)) ∧
    (s.kao.down = false → keepsFrames s = true → exec .messageRetry s =
      .next (s.fab.unanswered.foldl (fun s o =>
        if (servingMsg o.mtype || sessionMsg o.mtype) && decide (16 ≤ o.repeats) then giveUp o s else repeatMsg o s) s))

/-- A message in the ring does what its own row does (Table 11-20): the row reads its fields from the places of the body. -/
def Obligations.MessageBodiesMatchRows : Prop :=
  ∀ (h : CtlHdr) (b : Bytes) (s : State),
    exec (.ctlAck h (numAt b 0 2)) s = .next (applyMessage 0x01 h b s) ∧
    exec (.stretchReq h (numAt b 0 2)) s = .next (applyMessage 0x10 h b s) ∧
    exec (.candidate h (candidateOf b)) s = .next (applyMessage 0x11 h b s) ∧
    exec (.ctlJoin h (bit (numAt b 0 1) 0) (numAt b 1 1) (numAt b 2 1)) s = .next (applyMessage 0x12 h b s) ∧
    exec (.ctlReady h (numAt b 0 8) (numAt b 8 8) (numAt b 16 2) (numAt b 18 4)) s = .next (applyMessage 0x20 h b s) ∧
    exec (.transitInstall h (numAt b 0 8) (numAt b 8 1) (bytesAt b 16 (8 * numAt b 12 4))) s = .next (applyMessage 0x21 h b s) ∧
    exec (.transitReply h (numAt b 0 8) (numAt b 8 1)) s = .next (applyMessage 0x22 h b s) ∧
    exec (.ctlGo h (numAt b 0 8) (numAt b 8 6) (bit (numAt b 14 1) 0)) s = .next (applyMessage 0x23 h b s) ∧
    exec (.ctlAbandon h (numAt b 0 8) (numAt b 8 2)) s = .next (applyMessage 0x24 h b s) ∧
    exec (.transitRelease h (numAt b 0 8) (numAt b 8 1)) s = .next (applyMessage 0x25 h b s) ∧
    exec (.creditGrant h (numAt b 0 2) (numAt b 4 4)) s = .next (applyMessage 0x30 h b s) ∧
    exec (.creditReturn h (numAt b 0 2) (numAt b 4 4)) s = .next (applyMessage 0x31 h b s) ∧
    exec (.ctlAssign h (bytesAt b 0 64) (bytesAt b 64 64) (numAt b 128 2) (numAt b 130 2)) s = .next (applyMessage 0x32 h b s) ∧
    exec (.installed h (numAt b 0 2) (numAt b 2 2) (numAt b 4 2) (numAt b 6 2)) s = .next (applyMessage 0x33 h b s) ∧
    exec (.ctlFill h (numAt b 0 1)) s = .next (applyMessage 0x34 h b s) ∧
    exec (.pkgDigest h (numAt b 0 2) (numAt b 2 6) (bit (numAt b 8 1) 0) (numAt b 16 16)) s = .next (applyMessage 0x40 h b s) ∧
    exec (.sliceDigest h (numAt b 0 2) (numAt b 2 6) (bit (numAt b 8 1) 0) (numAt b 16 8) (numAt b 24 8) (numAt b 32 16)) s =
      .next (applyMessage 0x41 h b s) ∧
    exec (.unitDone h (numAt b 0 2) (numAt b 8 8)) s = .next (applyMessage 0x42 h b s) ∧
    exec (.segReport h (numAt b 0 8) (bit (numAt b 14 1) 0) (numAt b 15 1) (numAt b 16 8) (numAt b 24 4) (reportEntries b)) s =
      .next (applyMessage 0x50 h b s) ∧
    exec (.unitFetch h (numAt b 0 8) (numAt b 8 4) (numAt b 12 4) (numAt b 16 4)) s = .next (applyMessage 0x51 h b s) ∧
    exec (.unitData h (numAt b 0 8) (numAt b 8 4) (numAt b 12 4) (numAt b 20 2) (bytesAt b 32 (numAt b 16 4))) s =
      .next (applyMessage 0x52 h b s) ∧
    exec (.thawReport h (numAt b 0 8) (numAt b 8 2) (numAt b 16 4)) s = .next (applyMessage 0x53 h b s) ∧
    exec (.segDelete h (numAt b 0 8)) s = .next (applyMessage 0x54 h b s)

/-- The sequencer's own commands (R49, R50, R577): none starts an engine; each takes its place in the program, without completion where
it does not end the phase, and has its effect on the context. -/
def Obligations.SequencerCommandsComplete : Prop :=
  ∀ (s : State) (G : Nat), canIssue s G = true →
    (∀ fl a t, issueSyn 0 G fl a s = t → exec (.synNop G fl a) s = .next (showCtx G t)) ∧
    (∀ fl a t, issueSyn 1 G fl a s = t → exec (.synWait G fl a) s = .next (showCtx G (if bit fl.toNat 0 then t
      else releaseWait G (modCtx t G (fun c => { c with wait := some (.classes (fld a 9 0)) }))))) ∧
    (∀ fl a t u, issueSyn 2 G fl a s = t →
      modCtx t G (fun c => { c with arrivals := tput 0 c.arrivals (fld a 3 0) (arrivedAt t G (fld a 3 0) + 1) }) = u →
      exec (.synBarrier G fl a) s = .next (showCtx G (if bit fl.toNat 0 then u
        else modCtx u G (fun c => { c with wait := some (.barrier (fld a 3 0) (arrivedAt t G (fld a 3 0) + 1) (fld a 13 8)) })))) ∧
    (∀ fl a t, issueSyn 3 G fl a s = t → exec (.synSlotWait G fl a) s = .next (showCtx G
      (if bit fl.toNat 0 || decide (fld a 11 0 ≤ rd t Reg.TICK_SLOT) then t
       else modCtx t G (fun c => { c with wait := some (.slot (fld a 11 0)) })))) ∧
    (∀ fl a ue t v, spmRead G (fld a 87 64) 4 (takeUe ue (issueSyn 4 G fl a s)) = t → (spmBad t G (fld a 87 64) 4).isEmpty = true →
      readNum t (spmAddr G (fld a 87 64)) 4 = v → v ≤ fld a 111 96 →
      exec (.synLoop G fl a ue) s = .next (showCtx G (if v = 0 then wr t (Reg.CTX_PC G) (rd t (Reg.CTX_PC G) + fld a 63 48)
        else modCtx t G (fun c => { c with loops := ⟨rd t (Reg.CTX_PC G), fld a 63 48, v, 0⟩ :: c.loops })))) ∧
    (∀ fl a, exec (.synLoopEnd G fl a) s = .next (showCtx G (loopNext G (issueSyn 5 G fl a s))))

/-- The compute commands (chapters 4 to 8): each is issued in program order and has its engine's effect; a configuration command does
not stay in flight. -/
def Obligations.ComputeCommandsComplete : Prop :=
  ∀ (s : State) (G : Nat), canIssue s G = true →
    (∀ fl a ue flt t, issueCmd 1 0x01 G fl.toNat a (takeUe ue s) = t →
      exec (.bduLoad G fl a ue flt) s = .next (showCtx G (doBduLoad G a flt t))) ∧
    (∀ fl a ue flt t, issueCmd 1 0x02 G fl.toNat a (takeUe ue s) = t →
      exec (.bduGemv G fl a ue flt) s = .next (showCtx G (doBduGemv G a flt t))) ∧
    (∀ fl a ue t, issueCmd 2 0x01 G fl.toNat a (takeUe ue s) = t →
      exec (.mxaCfg G fl a ue) s = .next (showCtx G (modCtx (dropUnlessEnd G fl t) G (fun c => { c with mxa := some a })))) ∧
    (∀ fl a ue par t, issueCmd 2 0x02 G fl.toNat a (takeUe ue s) = t →
      exec (.mxaGemm G fl a ue par) s = .next (showCtx G (startGemm G a par t))) ∧
    (∀ fl a ue t, issueCmd 3 0x01 G fl.toNat a (takeUe ue s) = t →
      exec (.vecCfg G fl a ue) s = .next (showCtx G (modCtx (dropUnlessEnd G fl t) G (fun c =>
        { c with tile8 := fld a 111 98, ntotal := fld a 97 74, eps := BitVec.ofNat 32 (fld a 63 32) })))) ∧
    (∀ fl a ue t, issueCmd 3 0x02 G fl.toNat a (takeUe ue s) = t →
      exec (.vadd G fl a ue) s = .next (showCtx G (doBinary fadd G a t))) ∧
    (∀ fl a ue t, issueCmd 3 0x03 G fl.toNat a (takeUe ue s) = t →
      exec (.vmul G fl a ue) s = .next (showCtx G (doBinary fmul G a t))) ∧
    (∀ fl a ue t, issueCmd 3 0x04 G fl.toNat a (takeUe ue s) = t →
      exec (.vscale G fl a ue) s = .next (showCtx G (doVscale G a t))) ∧
    (∀ fl a ue t, issueCmd 3 0x05 G fl.toNat a (takeUe ue s) = t →
      exec (.vfunc G fl a ue) s = .next (showCtx G (doVfunc G a t))) ∧
    (∀ fl a ue t, issueCmd 3 0x06 G fl.toNat a (takeUe ue s) = t →
      exec (.vglu G fl a ue) s = .next (showCtx G (doBinary (fun g u => fmul (siluF g) u) G a t))) ∧
    (∀ fl a ue t, issueCmd 3 0x07 G fl.toNat a (takeUe ue s) = t →
      exec (.vred G fl a ue) s = .next (showCtx G (doVred G a t))) ∧
    (∀ fl a ue t, issueCmd 3 0x08 G fl.toNat a (takeUe ue s) = t →
      exec (.vnorm G fl a ue) s = .next (showCtx G (doVnorm G a t))) ∧
    (∀ fl a ue t, issueCmd 3 0x09 G fl.toNat a (takeUe ue s) = t →
      exec (.vquant G fl a ue) s = .next (showCtx G (doVquant G a t))) ∧
    (∀ fl a ue t, issueCmd 3 0x0A G fl.toNat a (takeUe ue s) = t →
      exec (.vi64r G fl a ue) s = .next (showCtx G (doVi64r G a t))) ∧
    (∀ fl a ue t, issueCmd 3 0x0B G fl.toNat a (takeUe ue s) = t →
      exec (.vi64add G fl a ue) s = .next (showCtx G (doVi64add G a t))) ∧
    (∀ fl a ue t, issueCmd 3 0x0C G fl.toNat a (takeUe ue s) = t →
      exec (.vcvt G fl a ue) s = .next (showCtx G (doVcvt G a t))) ∧
    (∀ fl a ue t, issueCmd 4 0x01 G fl.toNat a (takeUe ue s) = t →
      exec (.rotFwd G fl a ue) s = .next (showCtx G (doRot false false G a t))) ∧
    (∀ fl a ue t, issueCmd 4 0x02 G fl.toNat a (takeUe ue s) = t →
      exec (.rotFwdQ G fl a ue) s = .next (showCtx G (doRot false true G a t))) ∧
    (∀ fl a ue t, issueCmd 4 0x03 G fl.toNat a (takeUe ue s) = t →
      exec (.rotInv G fl a ue) s = .next (showCtx G (doRot true false G a t))) ∧
    (∀ fl a ue t, issueCmd 5 0x01 G fl.toNat a (takeUe ue s) = t →
      exec (.attCfg G fl a ue) s = .next (showCtx G (modCtx (dropUnlessEnd G fl t) G (fun c => { c with att := some a })))) ∧
    (∀ fl a ue t, issueCmd 5 0x02 G fl.toNat a (takeUe ue s) = t →
      exec (.attKvq G fl a ue) s = .next (showCtx G (doAttKvq G a t))) ∧
    (∀ fl a ue flt t, issueCmd 5 0x03 G fl.toNat a (takeUe ue s) = t →
      exec (.attRun G fl a ue flt) s = .next (showCtx G (doAttRun G a flt t))) ∧
    (∀ fl a ue t, issueCmd 5 0x04 G fl.toNat a (takeUe ue s) = t →
      exec (.attMerge G fl a ue) s = .next (showCtx G (doAttMerge G a t)))

/-- The commands that move data (chapters 9, 10, 12, 15): fills and copies, cache writes, Loess steps, tier loads, stores and moves,
package atomics. -/
def Obligations.MoveCommandsComplete : Prop :=
  ∀ (s : State) (G : Nat), canIssue s G = true →
    (∀ fl a ue t, issueCmd 9 0x40 G fl.toNat a (takeUe ue s) = t →
      exec (.kvPut G fl a ue) s = .next (showCtx G (doKvPut G a t))) ∧
    (∀ fl a ue t, issueCmd 6 0x01 G fl.toNat a (takeUe ue s) = t →
      exec (.movFill G fl a ue) s = .next (showCtx G (doMovFill G a t))) ∧
    (∀ fl a ue t, issueCmd 6 0x02 G fl.toNat a (takeUe ue s) = t →
      exec (.movCopy G fl a ue) s = .next (showCtx G (doMovCopy G a t))) ∧
    (∀ fl a ue t, issueCmd 6 0x03 G fl.toNat a (takeUe ue s) = t →
      exec (.movHcopy G fl a ue) s = .next (showCtx G (doMovHcopy G a t))) ∧
    (∀ fl a ue crc t, issueCmd 6 0x10 G fl.toNat a (takeUe ue s) = t →
      exec (.loessStep G fl a ue crc) s = .next (showCtx G (doLoessStep G a crc t))) ∧
    (∀ fl a ue t, issueCmd 8 0x30 G fl.toNat a (takeUe ue s) = t →
      exec (.rmtAtomic G fl a ue) s = .next (showCtx G (doRmtAtomic G a t))) ∧
    (∀ fl a ue t, issueCmd 9 0x01 G fl.toNat a (takeUe ue s) = t →
      exec (.tierLoad G fl a ue) s = .next (showCtx G ((List.range (fld a 35 18)).foldl (fun s i =>
        loadUnit G (ownerOf s G) (fld a 111 60 + 256 * i) (fld a 59 36 + 256 * i) s) t))) ∧
    (∀ fl a ue t, issueCmd 9 0x02 G fl.toNat a (takeUe ue s) = t →
      exec (.tierStore G fl a ue) s = .next (showCtx G ((List.range (fld a 35 18)).foldl (fun s i =>
        storeUnit G (ownerOf s G) (fld a 59 36 + 256 * i) (fld a 111 60 + 256 * i) s) t))) ∧
    (∀ fl a ue t, issueCmd 9 0x03 G fl.toNat a (takeUe ue s) = t →
      exec (.tierMigrate G fl a ue) s = .next (showCtx G (
        let u := dropUnlessEnd G fl t
        { u with tier := { u.tier with staged := u.tier.staged ++ (List.range (fld a 80 69)).map (fun i =>
          ⟨ownerOf u G, fld a 111 81 + i, fld a 68 67⟩) } })))

/-- The routing and collective commands (R211, R214, R217, R220, R224, R225, R319, R321, R323): a collective also waits for room in the
job's share (R331). -/
def Obligations.RoutingCommandsComplete : Prop :=
  ∀ (s : State) (G : Nat), canIssue s G = true →
    (∀ fl a ue t, issueCmd 7 0x01 G fl.toNat a (takeUe ue s) = t →
      exec (.srtCfg G fl a ue) s = .next (showCtx G (modCtx (dropUnlessEnd G fl t) G (fun c => { c with srt := some a })))) ∧
    (∀ fl a ue t, issueCmd 7 0x02 G fl.toNat a (takeUe ue s) = t →
      exec (.srtTopk G fl a ue) s = .next (showCtx G (doSrtTopk G a t))) ∧
    (∀ fl a ue t, issueCmd 7 0x03 G fl.toNat a (takeUe ue s) = t →
      exec (.srtRoute G fl a ue) s = .next (showCtx G (doSrtRoute G a t))) ∧
    (∀ fl a ue t, issueCmd 7 0x04 G fl.toNat a (takeUe ue s) = t →
      exec (.srtBin G fl a ue) s = .next (showCtx G (doSrtBin G a t))) ∧
    (∀ fl a ue t, issueCmd 7 0x05 G fl.toNat a (takeUe ue s) = t →
      exec (.srtReturn G fl a ue) s = .next (showCtx G (doSrtReturn G a t))) ∧
    (∀ fl a ue t, issueCmd 7 0x06 G fl.toNat a (takeUe ue s) = t →
      exec (.srtCombine G fl a ue) s = .next (showCtx G (doSrtCombine G a t))) ∧
    (colRoom s G = true →
     (∀ fl a ue t, issueCmd 8 1 G fl.toNat a (takeUe ue s) = t →
      exec (.colA2a G fl a ue) s = .next (showCtx G (startCol 1 G a t))) ∧
     (∀ fl a ue t, issueCmd 8 2 G fl.toNat a (takeUe ue s) = t →
      exec (.colA2av G fl a ue) s = .next (showCtx G (startCol 2 G a t))) ∧
     (∀ fl a ue t, issueCmd 8 3 G fl.toNat a (takeUe ue s) = t →
      exec (.colGather G fl a ue) s = .next (showCtx G (startCol 3 G a t))) ∧
     (∀ fl a ue t, issueCmd 8 4 G fl.toNat a (takeUe ue s) = t →
      exec (.colBcast G fl a ue) s = .next (showCtx G (startCol 4 G a t))) ∧
     (∀ fl a ue t, issueCmd 8 5 G fl.toNat a (takeUe ue s) = t →
      exec (.colRedscat G fl a ue) s = .next (showCtx G (startCol 5 G a t))) ∧
     (∀ fl a ue t, issueCmd 8 6 G fl.toNat a (takeUe ue s) = t →
      exec (.colAllred G fl a ue) s = .next (showCtx G (startCol 6 G a t))))

/-- What ends a command or waits beside it (R42, R126, R135, R146, R577): a completion, a watchdog, a barrier's release, an accumulate
count, a guard. -/
def Obligations.CommandEndsComplete : Prop :=
  ∀ (s : State) (G i : Nat) (x : FrameCmd), (ctx s G).inflight[i]? = some x →
    (∀ ns, mayComplete (ctx s G) x = true → colHolds s G x = false → exec (.frameCommandComplete G i ns) s =
      .next (if bit x.flags 0 then showColl (showCtx G (wr (modCtx (attRunDone G x ns (bduBusyNs G x ns (classBusy G x.cls ns
          (modCtx s G (fun c => { c with inflight := c.inflight.eraseIdx i }))))) G
          (fun c => { c with atCommit := true, wait := none })) (Reg.CTX_STATE G) 2))
        else showColl (showCtx G (releaseWait G (attRunDone G x ns (bduBusyNs G x ns (classBusy G x.cls ns
          (modCtx s G (fun c => { c with inflight := c.inflight.eraseIdx i })))))))) ) ∧
    (watched x = true → frozen s = false → exec (.engineWatchdogExpiry G i) s = .next (showColl (showCtx G (releaseWait G
      (modCtx (expire G x s) G (fun c => { c with inflight := c.inflight.eraseIdx i })))))) ∧
    (∀ k j par r, x.waitsAc = some (k, j) → gemmRun G (fld x.args 99 94) j (gemmOf x.args x.cfg) x.cfg par s = r →
      exec (.arrivalThresholdReached G i par) s = .next (modCtx r.1 G (fun c => { c with
        inflight := c.inflight.modify i (fun x => { x with waitsAc := r.2.map (fun j => (k, j)) }) }))) ∧
    (∀ ue grp pc r, (ctx s G).guards = (grp, pc) :: r → groupDone (ctx s G) grp = true → exec (.guardEvaluation G ue) s =
      .next (modCtx ((guardsAt s G pc).foldl (runGuard G pc) (takeUe ue s)) G (fun c => { c with guards := r }))) ∧
    (∀ p id, exec (.barrierRelease p id) s = .next ((part s p).quads.foldl (fun s Q => passBarrier id Q s) s))

/-- DRAM refresh, held accesses, the two scrubs and the tier map (R101, R163, R178, R240, R242, R243, R244, R246). -/
def Obligations.TierCommandsComplete : Prop :=
  ∀ s : State,
    (∀ n d, n < 12 → d < 12 → 3 ≤ pstate s → exec (.dramRefreshWindow n d) s = .next (wr s (Reg.BDU_REFRESH_PHASE n) (200 * d))) ∧
    (∀ p ue due, openNow s p = true → frozen s = false →
      s.rmt.held.filter (fun h => heldFor s h == some p || heldFor s h == none) = due →
      exec (.heldAccessServe p ue) s = .next (due.foldl (fun s h => serveHeld h s)
        (takeUe ue { s with rmt := { s.rmt with held := s.rmt.held.filter (fun h => !due.contains h) } }))) ∧
    (∀ n hits row, n < 12 → rdb s (Reg.SPM_SCRUB_EN n) = true → frozen s = false → 3 ≤ pstate s → rd s (Reg.SPM_SCRUB_ROW n) = row →
      exec (.scrubRow n hits) s =
        (let t := wr (hits.foldl (fun s h => scrubWord n row h s) s) (Reg.SPM_SCRUB_ROW n) ((row + 1) % 512)
         .next (if row = 511 then bump t (Reg.SPM_SCRUB_PASS_CNT n) 1 else t))) ∧
    (∀ hits, rd s Reg.TIER_T2_SCRUB_HOURS ≠ 0 → 3 ≤ pstate s →
      exec (.tier2Patrol hits) s = .next (hits.foldl (fun s h => patrolHit h s) s)) ∧
    (∀ p page m t, s.tier.moves.find? (fun m => m.part == p && m.page == page && !m.ready) = some m →
      reportFrame (pageOf s p page).frame p (copyFrame (pageOf s p page).frame m.dst s) = t →
      exec (.moveCopyDone p page) s = .next (bump { t with tier := { t.tier with
        moves := t.tier.moves.map (fun x => if x = m then { x with ready := true } else x) } } Reg.TIER_MIG_BYTE_CNT pageBytes)) ∧
    (∀ p page cause, exec (.moveAbort p page cause) s = .next (abortMoves (fun _ m => m.part == p && m.page == page) cause s)) ∧
    (∀ f r t, s.tier.release.find? (fun r => r.frame == f && r.ripe) = some r →
      bump (zeroRange { s with tier := { s.tier with release := s.tier.release.filter (· != r) } } (f * pageBytes) pageBytes)
        Reg.TIER_MIG_BYTE_CNT pageBytes = t →
      exec (.frameZeroingDone f) s = .next (refreshTier (if r.part < 32 then r.part else 0)
        (if tierOf f = 2 then { t with tier := { t.tier with t2Used := t.tier.t2Used.filter (· != f - 524288) } }
         else if (tierPart t r.part).quads.contains (frameQuad f) then
           modTier t r.part (fun x => { x with t1Free := insertAsc f x.t1Free })
         else t))) ∧
    (rdb s Reg.TIER_AUTO = true → exec .policyPass s = .next ((List.range 32).foldl (fun s p =>
      if optsOut s p then s else coolPages p (requestMoves (policyMoves s p) s)) s))

/-- What time and the outside bring to requests and sessions (R343, R361, R380, R381, R384, R387, R409): a record released after its
linger time, a prompt fetched, a barrier forced, a segment written, an image finished or failed, a thaw's units placed, a transfer
ended. -/
def Obligations.SessionEventsComplete : Prop :=
  ∀ s : State,
    (∀ p j, j < slotCount s p → 8 ≤ (slotOf s (slotBase s p + j)).req.state →
      (slotOf s (slotBase s p + j)).since + 64 * rd s (Reg.SRV_P_LINGER64 p) ≤ frameNo s →
      exec (.requestLingerExpiry p j) s = .next (askSlot (slotBase s p + j) .release s)) ∧
    (∀ p j a b k n t, slotBase s p + j = n → (tget none s.srv.pass p).bind (fun x =>
        x.admits.find? (fun a => a.slot == n && !a.fetched && a.fail == 0)) = some a →
      (slotOf s n).req.promptLen = k → 4 * k ≤ b.length →
      account (bump s (Reg.HIF_N_RD_BYTE_CNT (part s p).port) (4 * k)) p 0xC0 (4 * k) = t →
      (List.range k).any (fun i => decide (numAt (decl t p) 12 4 ≤ numAt b (4 * i) 4)) = false →
      exec (.promptFetchDone p j (some b)) s =
        .next (modAdmit p n (fun a => { a with fetched := true }) (writePrompt p a.addr (b.take (4 * k)) t))) ∧
    (∀ p j a, (tget none s.srv.pass p).bind (fun x =>
        x.admits.find? (fun a => a.slot == slotBase s p + j && !a.fetched && a.fail == 0)) = some a →
      exec (.promptFetchDone p j none) s = .next (srvEvent Reg.SRV_ERR_PROMPT_READ 2 p
        (modAdmit p (slotBase s p + j) (fun a => { a with fail := 0x0581 }) s))) ∧
    (∀ p r, replOf s p = some r → r.stage = 1 → r.forced = false → r.beginOp.isSome = true → r.limit ≤ frameNo s →
      exec (.replaceBarrierTimeout p) s = .next (setRepl p (some { r with forced := true })
        ((slotsIn s p stPrefill ++ slotsIn s p stShip).foldl (fun s n => askSlot n (.fail 0x03A0) s) s))) ∧
    (∀ p j hdr medium g n us t key size fs, slotBase s p + j = n → isLead s p = true → imageOf s (slotOf s n).image = some g →
      j < slotCount s p → (slotOf s n).req.state = stFallow → (slotOf s n).imageState ≠ 2 → (slotOf s n).imageState ≠ 3 →
      slotUnits s p n g.header = us → dropWrite p n s = t → keyOf t 2 p (numAt g.header 92 4) = some key →
      (us.map (fun u => 256 + 256 * ceilDiv u.2.2.1.length 256)).sum + (512 + 16 * (membersOf t p).length) = size →
      (if g.medium = 0 then storeFrames t (ceilDiv size pageBytes) else some []) = some fs → us.all (fun u => u.2.2.2) = true →
      isLead t p = true →
      exec (.fallowSegmentDone p j hdr medium true) s = .next (reportSegment p (numAt g.header 8 8) g.medium size
        (us.map (fun u => (u.1, unitHash u.2.1 u.2.2.1))) (storeSegment ⟨numAt g.header 8 8, p, g.medium, fs,
          us.map (fun u => (u.1, sealUnit key g.header u.2.1 u.2.2.1))⟩ t))) ∧
    (∀ image g, imageOf s image = some g → g.state = 1 → g.written = false → g.header ≠ [] → imageWhole g = true →
      exec (.fallowImageComplete image) s =
        (let t := modImage image (fun y => { y with header := finishHeader y, written := true }) s
         .next (if (part t g.part).job.busy then t else completeImage image t))) ∧
    (∀ image st, exec (.fallowImageFailed image st) s = .next (failImage image st s)) ∧
    (∀ x o key us ps t, s.srv.sessOps.find? (isThawInto x.part x.image (slotBase s x.part + x.jidx)) = some o → o.hdr ≠ [] →
      x.st = 0 → keyOf s 2 x.part (numAt o.hdr 92 4) = some key →
      openUnits s o key (x.units.foldl (fun m u => tput [] m u.1 u.2) []) (unitsNeeded s o) = .inr us →
      digestDiffers s o us = false → placeUnits o us ([], s) = some (ps, t) →
      exec (.thawReadDone x) s =
        (let v := bump t Reg.SESS_BYTES_IN_CNT ((us.map (fun u => u.2.length)).sum)
         .next (thawEnded o 0 us.length (setOps (v.srv.sessOps.map (fun y =>
           if y.op = o.op ∧ y.part = x.part ∧ y.kind = o.kind then { y with pages := ps, ready := true } else y)) v)))) ∧
    (∀ x o, s.srv.sessOps.find? (isThawInto x.part x.image (slotBase s x.part + x.jidx)) = some o → o.hdr ≠ [] →
      x.st ≠ 0 → exec (.thawReadDone x) s = .next (thawEnded o x.st 0 s)) ∧
    (∀ op o image l iova k data, opOf s op = some o → o.kind = .exporting image l iova k →
      exec (.sessionXferDone op 0 data) s = .next (finishExport o image iova s)) ∧
    (∀ op o k medium b, opOf s op = some o → o.kind = .import k medium →
      exec (.sessionXferDone op 0 (some b)) s = .next (finishImport o medium b s))

/-- Weight custody and slice start in time (R401, R403, R406, R407, R430): a shard's stream ends, a recheck, a digest window, its
filling groups, the comparison, the start that takes too long. -/
def Obligations.WeightEventsComplete : Prop :=
  ∀ s : State,
    (∀ op l b pt t, s.wts.loads.find? (fun l => l.op == op) = some l →
      modWts (fun w => { w with loads := w.loads.filter (fun x => x.op != op) }) s = t → b.length = numAt l.hdr 40 8 + 16 →
      gcmOpen l.key (bytesAt l.hdr 48 12) l.hdr (b.take (numAt l.hdr 40 8)) (b.drop (numAt l.hdr 40 8)) = some pt →
      (bit (numAt l.hdr 5 1) 0 = true → sha256 pt = BitVec.ofNat 256 (numAt l.hdr 64 32)) →
      exec (.shardIngressDone op (some b)) s = .next (shardLoaded l pt t)) ∧
    (∀ op l t, s.wts.loads.find? (fun l => l.op == op) = some l →
      modWts (fun w => { w with loads := w.loads.filter (fun x => x.op != op) }) s = t →
      exec (.shardIngressDone op none) s = .next (cryEvent Reg.CRY_ERR_IO 3 l.part
        (shardFail op l.part l.dst (numAt l.hdr 40 8) 0x05A1 (numAt l.hdr 28 4) t))) ∧
    (∀ ue, rd s Reg.CRY_V6_RECHECK_S ≠ 0 → exec (.v6RecheckTimer ue) s =
      .next ((s.wts.recs.filter (recheckable s)).foldl (fun s r => (recheckOne r s).2) (takeUe ue s))) ∧
    (∀ p v, p < 32 → (part s p).job = .running → vexPart s p = v → v.window < windowNo s p → exec (.vexsumWindowEnd p) s =
      (let t := if rdb s (Reg.LOESS_VXS_EN p) then modVex s p (fun x => { x with fills := x.fills ++
         [⟨v.window, windowUnit s p v.window, none, v.stks, List.range 12, frameNo s, v.void || (replOf s p).isSome⟩] }) else s
       let u := match v.cfg with
         | some b => writeVexCfg p b (modVex t p (fun v => { v with cfg := none }))
         | none => t
       .next (modVex u p (fun v => { v with window := windowNo u p, void := (replOf u p).isSome, stks := [] })))) ∧
    (∀ p k ue f, (vexPart s p).fills.find? (fun f => f.waiting.contains k) = some f →
      exec (.vexsumFillDone p k ue) s =
        (let old := tget VexStack.empty f.stks k
         let gs := (unitGroups s p k f.unit (fun _ _ => true)).filter (fun g => !old.seen.contains g.num)
         let x := gs.foldl (fillGroup p) (old.sum, takeUe ue s)
         let t := bump x.2 (Reg.LOESS_FILL_GROUP_CNT p) gs.length
         let late : Bool := f.op == none && decide (f.frame + rd t (Reg.LOESS_FILL_FRAMES p) < frameNo t)
         let t := if late then loessEvent Reg.LOESS_EV_FILL_LATE 2 p t else t
         let g : VexFill := { f with stks := tput VexStack.empty f.stks k ⟨old.seen ++ gs.map (·.num), x.1, [], 0⟩,
                                     waiting := f.waiting.filter (· != k), void := f.void || late }
         let t := modVex t p (fun v => { v with fills := v.fills.map (fun y => if y = f then g else y) })
         .next (if g.waiting.isEmpty then finishFill p g t else t))) ∧
    (∀ p w ds, p < 32 → isLead s p = true → packageDigests s p w = some ds → (sliceDigest ds).2 = false →
      (windowLimit s p w < frameNo s ∨ (vexPeers s p).all (fun k =>
        ((vexPart s p).digests.filter (fun d => d.window == w)).any (fun d => d.who == 256 + k.1)) = true) →
      exec (.vexsumCompare p w) s = .next (modVex (compareDigest p w (windowUnit s p w) ds s) p
        (fun v => { v with digests := v.digests.filter (fun d => d.window != w) }))) ∧
    (∀ p, (part s p).job = .starting → (part s p).goFrame = none → isLead s p = true →
      65536 ≤ frameNo s - (part s p).startedAt → exec (.sliceStartTimeout p) s = .next (abandonStart p s)) ∧
    (∀ p, (part s p).job = .starting → (part s p).goFrame = none → isLead s p = false →
      131072 ≤ frameNo s - (part s p).startedAt → exec (.sliceStartTimeout p) s = .next (endStart p s))

/-- Errors and Caliche (R475, R483, R484, R485): a latched error, the leaky counters, a lockstep mismatch and the restart, Kaolin's
heartbeat, its reset and the failure of the hub. -/
def Obligations.ReliabilityEventsComplete : Prop :=
  ∀ s : State,
    (∀ x, exec (.errorLatchRaise x) s = .next (latchError x s)) ∧
    exec .leakyLeak s = .next { s with cal := { s.cal with
      leaky := (s.cal.leaky.map (fun e => (e.1, e.2 - 1))).filter (fun e => e.2 != 0) } } ∧
    exec .ceRateSecond s = .next { s with cal := { s.cal with ceSecond := [], ceGained := [] } } ∧
    (∀ t rs, s.pwr.calSupply = true → s.cal.lasting = false → writeRecord (mkRec s 15 0 3 9 0x1300 24 255 0 0 0 []) false s = t →
      (t.cal.upNs :: t.cal.restarts).filter (fun x => decide (t.cal.upNs ≤ x + 3600000000000)) = rs →
      exec .calicheLockstepMismatch s =
        (let u := wr (bump { t with cal := { t.cal with restarts := rs, restarting := true, lasting := decide (3 ≤ rs.length) } }
           Reg.CAL_RESTARTS 1) Reg.CAL_LOCKSTEP_OK 0
         .next (if 3 ≤ rs.length then stopAll (wr u Reg.CAL_RUNNING 0) 0x05E3 else u))) ∧
    (s.cal.restarting = true → s.cal.lasting = false → exec .calicheRestartDone s =
      (let t := wr (wr { s with cal := { s.cal with restarting := false } } Reg.CAL_LOCKSTEP_OK 1) Reg.CAL_RUNNING 1
       .next (collectLatches (calEvent Reg.CAL_EV_LOCKSTEP 0 (rd t Reg.CAL_LOG_NEXT - 1) t)))) ∧
    (s.kao.down = false → exec .kaolinHeartbeat s = .next (wr s Reg.CAL_KAOLIN_ALIVE 1)) ∧
    (∀ t ks, calAlive s = true → 2 ≤ pstate s → frozen s = false → rdb s Reg.CAL_HUB_FAILED = false →
      calEvent Reg.CAL_EV_KAOLIN_RESET 1 (rd s Reg.CAL_LOG_NEXT) (wr (bump (writeRecord
        (mkRec s 14 6 3 9 0x1301 20 255 0 0 0 []) true s) Reg.CAL_KAOLIN_RESET_CNT 1) Reg.CAL_KAOLIN_ALIVE 0) = t →
      (t.cal.upNs :: t.cal.kaoResets).filter (fun x => decide (t.cal.upNs ≤ x + 60000000000)) = ks →
      exec .kaolinHeartbeatLost s =
        (let u := wr { t with kao := { t.kao with down := true }, cal := { t.cal with kaoResets := ks } } Reg.KAO_FW_READY 0
         .next (if 3 ≤ ks.length then hubFailed u else u))) ∧
    (s.kao.down = true → rdb s Reg.CAL_HUB_FAILED = false → exec .kaolinRecovered s =
      .next (interruptAll (wr { s with kao := { s.kao with down := false } } Reg.KAO_FW_READY 1))) ∧
    (s.kao.down = true → calAlive s = true → exec .hubFailTimeout s = .next (hubFailed s))

/-- Power control and the sequence (R501, R504, R505, R507, R524, R528, R530, R533, R534): samples, control periods, boost, ramps, the
stages up and down, the election of a tick master, the lock. -/
def Obligations.PowerEventsComplete : Prop :=
  ∀ s : State,
    (∀ reads xs, calAlive s = true → pstate s ≠ 0 → (reads ++ List.replicate 8 none).take 8 = xs → exec (.pmbusSample reads) s =
      (let t := (xs.zip (List.range 8)).foldl (fun s x => railSample x.2 x.1 s) s
       let t := wr t Reg.PWR_PEAK_MW (max (packageMw xs) (rd t Reg.PWR_PEAK_MW))
       let t := addEnergy (packageMw xs) { t with pwr := { t.pwr with samples := packageMw xs :: t.pwr.samples } }
       .next ((xs.zip (List.range 8)).foldl (fun s x => if x.1.isNone then railFault x.2 s else s) t))) ∧
    (∀ cap p t, (if s.pwr.samples.length = 0 then rd s Reg.PWR_P_MW else s.pwr.samples.foldl (· + ·) 0 / s.pwr.samples.length) = p →
      wr (wr { s with pwr := { s.pwr with samples := [] } } Reg.PWR_P_MW p) Reg.PWR_MIN_CAP_W cap = t →
      ((rd t Reg.PWR_CAP_W * 1000 < p ∨ hotter t throttleAt 0 = true) → exec (.controlPeriodEnd cap) s = .next (overPeriod t)) ∧
      (p + 5000 * rd t Reg.PWR_HYST_STEP ≤ rd t Reg.PWR_CAP_W * 1000 → hotter t throttleAt 0 = false → hotter t throttleAt 24 = false →
        exec (.controlPeriodEnd cap) s = .next (underPeriod t)) ∧
      (p ≤ rd t Reg.PWR_CAP_W * 1000 → hotter t throttleAt 0 = false →
        (rd t Reg.PWR_CAP_W * 1000 < p + 5000 * rd t Reg.PWR_HYST_STEP ∨ hotter t throttleAt 24 = true) →
        exec (.controlPeriodEnd cap) s = .next { t with pwr := { t.pwr with escCount := 0, underCount := 0 } })) ∧
    (∀ b, rd s Reg.PWR_PERF = 1 →
      (if s.pwr.samples.headD (rd s Reg.PWR_P_MW) < rd s Reg.PWR_CAP_W * 1000 ∧ hotter s throttleAt 0 = false then
        min 4 (s.pwr.boost + 1) else s.pwr.boost - 1) = b →
      exec .boostStep s = .next { s with pwr := { s.pwr with boost := b } }) ∧
    (∀ d r, s.pwr.ramps.find? (·.1 == d) = some r → exec (.domainRampDone d) s = .next (domainServed d (endRamp d r.2 s))) ∧
    (∀ strap failed untrained, s.pwr.stage = some 2 → exec (.powerStageExit strap failed untrained) s =
      .next (exitHub (strap % 256) s)) ∧
    (∀ strap failed untrained, s.pwr.stage = some 3 → exec (.powerStageExit strap failed untrained) s =
      .next (exitStacks failed untrained s)) ∧
    (∀ strap failed untrained, s.pwr.stage = some 4 → (List.range 96).all (isUp s) = true →
      exec (.powerStageExit strap failed untrained) s = .next (exitTrain s)) ∧
    (∀ rail, s.pwr.stage.isSome = true → exec (.powerStageTimeout rail) s = .next (stageFail 0x05C3 rail s)) ∧
    (rdb s Reg.SEQ_DOWN = true → anyJob s = false → frozen s = false →
      rd (downStep s) Reg.SEQ_TARGET < pstate (downStep s) → exec .downStepDone s = .next (downStart (downStep s))) ∧
    (rdb s Reg.SEQ_DOWN = true → anyJob s = false → frozen s = false →
      pstate (downStep s) ≤ rd (downStep s) Reg.SEQ_TARGET →
      (∀ n, (mapCheck (downArrives (downStep s))).pwr.nextTarget = some n → ∀ u,
        { mapCheck (downArrives (downStep s)) with pwr := { (mapCheck (downArrives (downStep s))).pwr with nextTarget := none } } = u →
        exec .downStepDone s = .next (if pstate u = 0 ∨ !rdb u Reg.HIF_PIN_PWR_EN then u else onRequest n u)) ∧
      ((mapCheck (downArrives (downStep s))).pwr.nextTarget = none →
        exec .downStepDone s = .next (mapCheck (downArrives (downStep s))))) ∧
    (s.pwr.stage = some 4 → exec .trainWaitExpiry s = .next (exitTrain s)) ∧
    (listens s = true → s.tick.candidate = false → exec .electListenExpiry s =
      .next (floodCandidate { s with tick := { s.tick with candidate := true, heard := [] } })) ∧
    (listens s = true → s.tick.candidate = true → eligible s = true → exec .candidateFloodTimer s = .next (floodCandidate s)) ∧
    (∀ b, listens s = true → s.tick.candidate = true → bestOf (ownCandidate s :: s.tick.heard) = some b →
      exec .electionClose s =
        (let t := { s with tick := { s.tick with
           joined := (s.tick.heard.filter (·.eligible)).map (fun c => (c.pkg, c.prio, c.tray)) } }
         .next (if b.pkg = pkgId t then becomeMaster (ownCandidate s :: s.tick.heard) t
           else { t with tick := { t.tick with candidate := false, heard := [] } }))) ∧
    (listens s = true → s.tick.candidate = true → bestOf (ownCandidate s :: s.tick.heard) = none →
      exec .electionClose s =
        (let t := pwrEvent Reg.SEQ_EV_NO_ELIGIBLE 0x25 s
         let u := if 6 ≤ rd t Reg.SEQ_TARGET then powerOutcome 0x05C5 t else t
         .next { u with tick := { u.tick with candidate := false, heard := [] } })) ∧
    (rd s Reg.TICK_ROLE ≠ 0 → frozen s = false → exec .tickLocked s =
      (let t := wr s Reg.TICK_LOCKED 1
       .next (if pstate t = 5 ∧ !rdb t Reg.SEQ_DOWN ∧ 6 ≤ rd t Reg.SEQ_TARGET then enterReady t else t)))

/-- The host ports, their functions, the drives and the management link (R364, R452, R541, R544, R545, R546, R549, R550): resets,
enables, link states, streams, errors. -/
def Obligations.PortEventsComplete : Prop :=
  ∀ s : State,
    (∀ x, x < 2 → portsRun s = true → exec (.hostHotReset x) s = .next (setLtssm x 5 (resetPort x s))) ∧
    (∀ p, p < 32 → portsRun s = true → exec (.vfFlr p) s = .next (resetVf p s)) ∧
    (∀ x, x < 2 → portsRun s = true → exec (.pfFlr x) s = .next (resetPort x s)) ∧
    (∀ x on, x < 2 → portsRun s = true → exec (.vfEnableChange x on) s = .next { s with hif := { s.hif with
      vfEnable := tput false s.hif.vfEnable x on,
      bme := ((List.range 32).filter (fun p => !on && (part s p).port == x)).foldl (fun t p => tput false t (2 + p) false) s.hif.bme } }) ∧
    (∀ fn on, fn < 34 → portsRun s = true → exec (.busMasterEnableChange fn on) s =
      (let t := { s with hif := { s.hif with bme := tput false s.hif.bme fn on } }
       .next (if fn < 2 then wrb t (Reg.HIF_BME fn) on else t))) ∧
    (∀ x ltssm rate width flit, x < 2 → ltssm < 8 → portsRun s = true → exec (.hostPortL0Change x ltssm rate width flit) s =
      .next (setLtssm x ltssm (wrb (wr (wr s (Reg.HIF_RATE x) rate) (Reg.HIF_WIDTH x) width) (Reg.HIF_FLIT x) flit))) ∧
    (∀ x stream, x < 2 → stream < 3 → portsRun s = true → s.hif.ideKeyed.contains (x * 4 + stream) = true →
      s.hif.ideFailed.contains (x * 4 + stream) = false → exec (.ideStreamInsecure x stream) s =
      .next (hifEvent Reg.HIF_EV_IDE_FAIL 6 (showIde x (bump { s with hif := { s.hif with
        ideFailed := s.hif.ideFailed ++ [x * 4 + stream] } } (Reg.HIF_N_IDE_FAIL_CNT x) 1)))) ∧
    (∀ x k op e, x < 2 → portsRun s = true → srcPort (portError x k s) e.src = x → exec (.hostDmaError x k (some (op, e))) s =
      .next (runEntry op e ⟨none, true, none⟩ (portError x k s))) ∧
    (∀ x k, x < 2 → portsRun s = true → exec (.hostDmaError x k none) s = .next (portError x k s)) ∧
    (∀ x, exec (.hostBarRequest x .poisoned) s = .next s) ∧
    (∀ x, x < 2 → portsRun s = true → exec (.hostBarRequest x .unsupported) s = .next (emit s (.unsupported x))) ∧
    (∀ x, x < 2 → portsRun s = true → exec (.nvmeDriveLoss x) s = .next (loseDrive x s)) ∧
    (∀ x, x < 2 → portsRun s = true → (rd s (Reg.HIF_LTSSM (2 + x)) ≠ 2 ∨ rdb s (Reg.HIF_DEV_PRESENT (2 + x)) = false) →
      exec (.nvmeDriveReturn x) s = .next (portChange (2 + x) (rebuildPort (x + 1)
        (wr (wr s (Reg.HIF_LTSSM (2 + x)) 2) (Reg.HIF_DEV_PRESENT (2 + x)) 1)))) ∧
    (∀ up, s.pwr.calSupply = true → rdb s Reg.HIF_MGMT_UP = !up → exec (.mgmtLinkChange up) s =
      .next (hifEvent Reg.HIF_EV_MGMT_LINK 8 (wrb s Reg.HIF_MGMT_UP up)))
end

