-- ==== Sys2Proof/Laws/Frame.lean ====
section
/-!
SUPPORT. A frame command whose context may issue has its engine's effect on the state in which it has been issued; one whose context
may not issue waits, and nothing changes.
-/

namespace Sys2Proof.Machine

theorem frameCommand_issued {s : State} {G : Nat} (h : canIssue s G = true) (cls op : Nat) (fl : BitVec 4) (a : BitVec 112)
    (ue : List Nat) (eff : State → State) :
    frameCommand cls op G fl a ue eff s = .next (showCtx G (eff (issueCmd cls op G fl.toNat a (takeUe ue s)))) := by
  unfold frameCommand; rw [if_pos h]

theorem frameCommand_waits {s : State} {G : Nat} (h : canIssue s G = false) (cls op : Nat) (fl : BitVec 4) (a : BitVec 112)
    (ue : List Nat) (eff : State → State) : frameCommand cls op G fl a ue eff s = .next s := by
  unfold frameCommand; rw [if_neg (by simp [h])]

theorem frameCommandNow_issued {s : State} {G : Nat} (h : canIssue s G = true) (cls op : Nat) (fl : BitVec 4) (a : BitVec 112)
    (ue : List Nat) (eff : State → State) : frameCommandNow cls op G fl a ue eff s =
      .next (showCtx G (eff (dropUnlessEnd G fl (issueCmd cls op G fl.toNat a (takeUe ue s))))) := by
  unfold frameCommandNow; rw [frameCommand_issued h]

theorem colCommand_issued {s : State} {G : Nat} (h : canIssue s G = true) (r : colRoom s G = true) (op : Nat) (fl : BitVec 4)
    (a : BitVec 112) (ue : List Nat) : colCommand op G fl a ue s =
      .next (showCtx G (startCol op G a (issueCmd 8 op G fl.toNat a (takeUe ue s)))) := by
  unfold colCommand; rw [if_pos r, frameCommand_issued h]

theorem synCommand_issued {s : State} {G : Nat} (h : canIssue s G = true) (op : Nat) (fl : BitVec 4) (a : BitVec 112)
    (eff : State → State) : synCommand op G fl a eff s = .next (showCtx G (eff (issueSyn op G fl a s))) := by
  unfold synCommand; rw [if_pos h]

end Sys2Proof.Machine
end

