-- ==== Sys2Proof/Laws/Tab.lean ====
section
/-!
SUPPORT. What the operations on sparse data do: a read after a write, and the two forms they keep.
-/

namespace Sys2Proof.Machine

variable {α : Type}

theorem risesFrom_mono {lo hi : Nat} {t : Tab α} (h : hi ≤ lo) (w : risesFrom lo t = true) : risesFrom hi t = true := by
  cases t with
  | nil => rfl
  | cons e r => obtain ⟨a, v⟩ := e; simp [risesFrom] at w ⊢; exact ⟨by omega, w.2⟩

theorem tabWfFrom_mono [DecidableEq α] {d : α} {lo hi : Nat} {t : Tab α} (h : hi ≤ lo) (w : tabWfFrom d lo t = true) :
    tabWfFrom d hi t = true := by
  cases t with
  | nil => rfl
  | cons e r => obtain ⟨a, v⟩ := e; simp [tabWfFrom] at w ⊢; exact ⟨⟨by omega, w.1.2⟩, w.2⟩

theorem risesFrom_of_tabWfFrom [DecidableEq α] {d : α} {lo : Nat} {t : Tab α} (w : tabWfFrom d lo t = true) :
    risesFrom lo t = true := by
  induction t generalizing lo with
  | nil => rfl
  | cons e r ih => obtain ⟨a, v⟩ := e; simp [tabWfFrom, risesFrom] at w ⊢; exact ⟨w.1.1, ih w.2⟩

/-- A key below every listed one reads as unlisted. -/
theorem tget_low {d : α} {lo k : Nat} {t : Tab α} (w : risesFrom lo t = true) (h : k < lo) : tget d t k = d := by
  induction t generalizing lo with
  | nil => rfl
  | cons e r ih =>
    obtain ⟨a, v⟩ := e
    simp [risesFrom] at w
    simp only [tget]
    rw [if_neg (by omega)]
    exact ih w.2 (by omega)

/-- A write leaves every other key alone. -/
theorem tget_tput_ne [DecidableEq α] (d' d v : α) (t : Tab α) {j k : Nat} (h : j ≠ k) :
    tget d' (tput d t k v) j = tget d' t j := by
  induction t with
  | nil => simp only [tput]; split <;> simp [tget, Ne.symm h]
  | cons e r ih =>
    obtain ⟨a, w⟩ := e
    simp only [tput]
    split
    · split <;> simp [tget, Ne.symm h]
    · split
      · rename_i ha
        subst ha
        split <;> simp [tget, Ne.symm h]
      · simp only [tget, ih]

/-- A read after a write to the same key gives what was written. -/
theorem tget_tput_self [DecidableEq α] (d v : α) {lo : Nat} (t : Tab α) (k : Nat) (w : risesFrom lo t = true) :
    tget d (tput d t k v) k = v := by
  induction t generalizing lo with
  | nil => simp only [tput]; split <;> simp_all [tget]
  | cons e r ih =>
    obtain ⟨a, x⟩ := e
    simp [risesFrom] at w
    simp only [tput]
    split
    · split
      · rename_i hv
        subst hv
        simp only [tget]
        rw [if_neg (by omega)]
        exact tget_low w.2 (by omega)
      · simp [tget]
    · split
      · rename_i hk
        subst hk
        split
        · rename_i hv
          subst hv
          exact tget_low w.2 (by omega)
        · simp [tget]
      · simp only [tget]
        rw [if_neg (by omega)]
        exact ih w.2

/-- What every key reads as after a write. -/
theorem tget_tput [DecidableEq α] (d v : α) {lo : Nat} (t : Tab α) (j k : Nat) (w : risesFrom lo t = true) :
    tget d (tput d t k v) j = if j = k then v else tget d t j := by
  by_cases h : j = k
  · subst h; simp [tget_tput_self d v t j w]
  · simp [h, tget_tput_ne d d v t h]

theorem tput_risesFrom [DecidableEq α] (d v : α) {lo : Nat} (t : Tab α) (k : Nat) (w : risesFrom lo t = true) (h : lo ≤ k) :
    risesFrom lo (tput d t k v) = true := by
  induction t generalizing lo with
  | nil => simp only [tput]; split <;> simp [risesFrom, h]
  | cons e r ih =>
    obtain ⟨a, x⟩ := e
    simp [risesFrom] at w
    simp only [tput]
    split
    · split
      · simp [risesFrom, w]
      · simp [risesFrom, h, w.2]; omega
    · split
      · rename_i hk
        subst hk
        split
        · exact risesFrom_mono (by omega) w.2
        · simp [risesFrom, h, w.2]
      · simp only [risesFrom, Bool.and_eq_true, decide_eq_true_eq]
        exact ⟨w.1, ih w.2 (by omega)⟩

theorem tput_wfFrom [DecidableEq α] (d v : α) {lo : Nat} (t : Tab α) (k : Nat) (w : tabWfFrom d lo t = true) (h : lo ≤ k) :
    tabWfFrom d lo (tput d t k v) = true := by
  induction t generalizing lo with
  | nil => simp only [tput]; split <;> simp_all [tabWfFrom]
  | cons e r ih =>
    obtain ⟨a, x⟩ := e
    simp [tabWfFrom] at w
    simp only [tput]
    split
    · split
      · simp [tabWfFrom, w]
      · simp_all [tabWfFrom] <;> omega
    · split
      · rename_i hk
        subst hk
        split
        · exact tabWfFrom_mono (by omega) w.2
        · simp_all [tabWfFrom]
      · simp only [tabWfFrom, Bool.and_eq_true, decide_eq_true_eq]
        exact ⟨⟨w.1.1, w.1.2⟩, ih w.2 (by omega)⟩

/-- A write keeps the canonical form. -/
theorem tput_wf [DecidableEq α] {d : α} (v : α) {t : Tab α} (k : Nat) (w : tabWf d t = true) : tabWf d (tput d t k v) = true :=
  tput_wfFrom d v t k w (Nat.zero_le k)

theorem tput_rises [DecidableEq α] {d : α} (v : α) {t : Tab α} (k : Nat) (w : risesFrom 0 t = true) :
    risesFrom 0 (tput d t k v) = true := tput_risesFrom d v t k w (Nat.zero_le k)

theorem filter_wfFrom [DecidableEq α] {d : α} {lo : Nat} {t : Tab α} (p : Nat × α → Bool) (w : tabWfFrom d lo t = true) :
    tabWfFrom d lo (t.filter p) = true := by
  induction t generalizing lo with
  | nil => rfl
  | cons e r ih =>
    obtain ⟨a, x⟩ := e
    simp [tabWfFrom] at w
    by_cases h : p (a, x)
    · simp only [List.filter_cons_of_pos h, tabWfFrom, Bool.and_eq_true, decide_eq_true_eq]
      exact ⟨⟨w.1.1, w.1.2⟩, ih w.2⟩
    · simp only [List.filter_cons_of_neg h]
      exact ih (tabWfFrom_mono (by omega) w.2)

/-- Leaving entries out keeps the canonical form. -/
theorem filter_wf [DecidableEq α] {d : α} {t : Tab α} (p : Nat × α → Bool) (w : tabWf d t = true) : tabWf d (t.filter p) = true :=
  filter_wfFrom p w

theorem filter_risesFrom {lo : Nat} {t : Tab α} (p : Nat × α → Bool) (w : risesFrom lo t = true) :
    risesFrom lo (t.filter p) = true := by
  induction t generalizing lo with
  | nil => rfl
  | cons e r ih =>
    obtain ⟨a, x⟩ := e
    simp [risesFrom] at w
    by_cases h : p (a, x)
    · simp only [List.filter_cons_of_pos h, risesFrom, Bool.and_eq_true, decide_eq_true_eq]
      exact ⟨w.1, ih w.2⟩
    · simp only [List.filter_cons_of_neg h]
      exact ih (risesFrom_mono (by omega) w.2)

/-- A write lists no key that was not listed but its own. -/
theorem mem_keys_tput [DecidableEq α] {d v : α} {t : Tab α} {k : Nat} {c : Nat × α} (h : c ∈ tput d t k v) :
    c.1 = k ∨ c ∈ t := by
  induction t with
  | nil => simp only [tput] at h; split at h <;> simp_all
  | cons e r ih =>
    obtain ⟨a, x⟩ := e
    simp only [tput] at h
    split at h
    · split at h <;> simp_all; rcases h with rfl | h | h <;> simp_all
    · split at h
      · rename_i hk
        subst hk
        split at h
        · exact .inr (List.mem_cons_of_mem _ h)
        · rcases List.mem_cons.1 h with rfl | h
          · exact .inl rfl
          · exact .inr (List.mem_cons_of_mem _ h)
      · rcases List.mem_cons.1 h with rfl | h
        · exact .inr (by simp)
        · rcases ih h with h | h
          · exact .inl h
          · exact .inr (List.mem_cons_of_mem _ h)

end Sys2Proof.Machine
end

