-- ==== Sys2Proof/Laws/Keep.lean ====
section
/-!
SUPPORT. What one operation after another keeps: the queue, the count of free values, the forms of memory and registers.
-/

set_option Elab.async false

namespace Sys2Proof.Machine

/-- The bits of `a` are bits of `W`. -/
structure Sub (a W : Nat) : Prop where
  eq : a &&& W = a

theorem Sub.of {a b W : Nat} (h : Sub a W) (hb : b &&& a = b) : Sub b W := by
  constructor
  rw [← hb, Nat.and_assoc, h.eq]

theorem Sub.bit {a W i : Nat} (h : Sub a W) (hi : W.testBit i = false) : a.testBit i = false := by
  rw [← h.eq, Nat.testBit_and, hi, Bool.and_false]

theorem Sub.rfl {W : Nat} : Sub W W := ⟨Nat.and_self W⟩

/-- The bit of an area in the sets of areas below. -/
def Area.bit : Area → Nat
  | .freeCtr => 1
  | .out => 2
  | .regs => 3
  | .mem => 4
  | .bad => 5
  | .shadows => 6
  | .kao => 7
  | .mbs => 8
  | .cal => 9
  | .pwr => 10
  | .hif => 11
  | .parts => 12
  | .ctxs => 13
  | .tick => 14
  | .fab => 15
  | .keys => 16
  | .qacct => 17
  | .qEnergy => 18
  | .tier => 19
  | .arf => 20
  | .vex => 21
  | .decls => 22
  | .rmt => 23
  | .coll => 24
  | .wts => 25
  | .srv => 26

theorem Area.same_refl (a : Area) (s : State) : a.same s s := by cases a <;> rfl

theorem Area.same_trans {a : Area} {s t u : State} (h : a.same s t) (k : a.same t u) : a.same s u := by
  cases a <;> exact Eq.trans k h

/-- From `s` to `t` the queue is the same, free values were only drawn, the forms are kept, and the areas outside the set `W`
are the same. -/
structure Keeps (W : Nat) (s t : State) : Prop where
  queue : t.pending = s.pending
  free : s.freeCtr ≤ t.freeCtr
  inv : s.Inv → t.Inv
  same : ∀ a : Area, W.testBit a.bit = false → a.same s t

theorem Keeps.refl (W : Nat) (s : State) : Keeps W s s := ⟨Eq.refl _, Nat.le_refl _, id, fun a _ => a.same_refl s⟩

/-- One more change, within a set of areas. -/
theorem Keeps.step {W M : Nat} {a b c : State} (h : Keeps W a b) (hw : Sub M W) (hp : c.pending = b.pending)
    (hf : b.freeCtr ≤ c.freeCtr) (hi : b.Inv → c.Inv) (hs : ∀ x : Area, M.testBit x.bit = false → x.same b c) : Keeps W a c :=
  ⟨hp.trans h.queue, Nat.le_trans h.free hf, hi ∘ h.inv, fun x hx => Area.same_trans (h.same x hx) (hs x (hw.bit hx))⟩

/-- One more change of areas other than the queue and the count of free values. -/
theorem Keeps.other {W M : Nat} {a b c : State} (h : Keeps W a b) (hw : Sub M W) (hi : b.Inv → c.Inv)
    (hs : ∀ x : Area, M.testBit x.bit = false → x.same b c) (hp : c.pending = b.pending := by exact Eq.refl _)
    (hf : c.freeCtr = b.freeCtr := by exact Eq.refl _) : Keeps W a c :=
  h.step hw hp (Nat.le_of_eq hf.symm) hi hs

theorem Keeps.mk_out (out_ : List Output) {W : Nat} {a b : State} (h : Keeps W a b) (hw : Sub 4 W := by apply Sub.of; assumption; decide) :
    Keeps W a ⟨b.pending, b.freeCtr, out_, b.regs, b.mem, b.bad, b.shadows, b.kao, b.mbs, b.cal, b.pwr, b.hif, b.parts, b.ctxs, b.tick, b.fab, b.keys, b.qacct, b.qEnergy, b.tier, b.arf, b.vex, b.decls, b.rmt, b.coll, b.wts, b.srv⟩ :=
  h.other hw (fun i => ⟨i.mem, i.holes, i.bad, i.regs⟩) (by intro x hx; cases x <;> first | rfl | exact absurd hx (by decide))

theorem Keeps.mk_shadows (shadows_ : Tab (Nat × Nat)) {W : Nat} {a b : State} (h : Keeps W a b) (hw : Sub 64 W := by apply Sub.of; assumption; decide) :
    Keeps W a ⟨b.pending, b.freeCtr, b.out, b.regs, b.mem, b.bad, shadows_, b.kao, b.mbs, b.cal, b.pwr, b.hif, b.parts, b.ctxs, b.tick, b.fab, b.keys, b.qacct, b.qEnergy, b.tier, b.arf, b.vex, b.decls, b.rmt, b.coll, b.wts, b.srv⟩ :=
  h.other hw (fun i => ⟨i.mem, i.holes, i.bad, i.regs⟩) (by intro x hx; cases x <;> first | rfl | exact absurd hx (by decide))

theorem Keeps.mk_kao (kao_ : Kaolin) {W : Nat} {a b : State} (h : Keeps W a b) (hw : Sub 128 W := by apply Sub.of; assumption; decide) :
    Keeps W a ⟨b.pending, b.freeCtr, b.out, b.regs, b.mem, b.bad, b.shadows, kao_, b.mbs, b.cal, b.pwr, b.hif, b.parts, b.ctxs, b.tick, b.fab, b.keys, b.qacct, b.qEnergy, b.tier, b.arf, b.vex, b.decls, b.rmt, b.coll, b.wts, b.srv⟩ :=
  h.other hw (fun i => ⟨i.mem, i.holes, i.bad, i.regs⟩) (by intro x hx; cases x <;> first | rfl | exact absurd hx (by decide))

theorem Keeps.mk_mbs (mbs_ : Tab Mailbox) {W : Nat} {a b : State} (h : Keeps W a b) (hw : Sub 256 W := by apply Sub.of; assumption; decide) :
    Keeps W a ⟨b.pending, b.freeCtr, b.out, b.regs, b.mem, b.bad, b.shadows, b.kao, mbs_, b.cal, b.pwr, b.hif, b.parts, b.ctxs, b.tick, b.fab, b.keys, b.qacct, b.qEnergy, b.tier, b.arf, b.vex, b.decls, b.rmt, b.coll, b.wts, b.srv⟩ :=
  h.other hw (fun i => ⟨i.mem, i.holes, i.bad, i.regs⟩) (by intro x hx; cases x <;> first | rfl | exact absurd hx (by decide))

theorem Keeps.mk_kao_mbs (kao_ : Kaolin) (mbs_ : Tab Mailbox) {W : Nat} {a b : State} (h : Keeps W a b) (hw : Sub 384 W := by apply Sub.of; assumption; decide) :
    Keeps W a ⟨b.pending, b.freeCtr, b.out, b.regs, b.mem, b.bad, b.shadows, kao_, mbs_, b.cal, b.pwr, b.hif, b.parts, b.ctxs, b.tick, b.fab, b.keys, b.qacct, b.qEnergy, b.tier, b.arf, b.vex, b.decls, b.rmt, b.coll, b.wts, b.srv⟩ :=
  h.other hw (fun i => ⟨i.mem, i.holes, i.bad, i.regs⟩) (by intro x hx; cases x <;> first | rfl | exact absurd hx (by decide))

theorem Keeps.mk_cal (cal_ : Caliche) {W : Nat} {a b : State} (h : Keeps W a b) (hw : Sub 512 W := by apply Sub.of; assumption; decide) :
    Keeps W a ⟨b.pending, b.freeCtr, b.out, b.regs, b.mem, b.bad, b.shadows, b.kao, b.mbs, cal_, b.pwr, b.hif, b.parts, b.ctxs, b.tick, b.fab, b.keys, b.qacct, b.qEnergy, b.tier, b.arf, b.vex, b.decls, b.rmt, b.coll, b.wts, b.srv⟩ :=
  h.other hw (fun i => ⟨i.mem, i.holes, i.bad, i.regs⟩) (by intro x hx; cases x <;> first | rfl | exact absurd hx (by decide))

theorem Keeps.mk_kao_cal (kao_ : Kaolin) (cal_ : Caliche) {W : Nat} {a b : State} (h : Keeps W a b) (hw : Sub 640 W := by apply Sub.of; assumption; decide) :
    Keeps W a ⟨b.pending, b.freeCtr, b.out, b.regs, b.mem, b.bad, b.shadows, kao_, b.mbs, cal_, b.pwr, b.hif, b.parts, b.ctxs, b.tick, b.fab, b.keys, b.qacct, b.qEnergy, b.tier, b.arf, b.vex, b.decls, b.rmt, b.coll, b.wts, b.srv⟩ :=
  h.other hw (fun i => ⟨i.mem, i.holes, i.bad, i.regs⟩) (by intro x hx; cases x <;> first | rfl | exact absurd hx (by decide))

theorem Keeps.mk_pwr (pwr_ : Power) {W : Nat} {a b : State} (h : Keeps W a b) (hw : Sub 1024 W := by apply Sub.of; assumption; decide) :
    Keeps W a ⟨b.pending, b.freeCtr, b.out, b.regs, b.mem, b.bad, b.shadows, b.kao, b.mbs, b.cal, pwr_, b.hif, b.parts, b.ctxs, b.tick, b.fab, b.keys, b.qacct, b.qEnergy, b.tier, b.arf, b.vex, b.decls, b.rmt, b.coll, b.wts, b.srv⟩ :=
  h.other hw (fun i => ⟨i.mem, i.holes, i.bad, i.regs⟩) (by intro x hx; cases x <;> first | rfl | exact absurd hx (by decide))

theorem Keeps.mk_hif (hif_ : HostIf) {W : Nat} {a b : State} (h : Keeps W a b) (hw : Sub 2048 W := by apply Sub.of; assumption; decide) :
    Keeps W a ⟨b.pending, b.freeCtr, b.out, b.regs, b.mem, b.bad, b.shadows, b.kao, b.mbs, b.cal, b.pwr, hif_, b.parts, b.ctxs, b.tick, b.fab, b.keys, b.qacct, b.qEnergy, b.tier, b.arf, b.vex, b.decls, b.rmt, b.coll, b.wts, b.srv⟩ :=
  h.other hw (fun i => ⟨i.mem, i.holes, i.bad, i.regs⟩) (by intro x hx; cases x <;> first | rfl | exact absurd hx (by decide))

theorem Keeps.mk_kao_hif (kao_ : Kaolin) (hif_ : HostIf) {W : Nat} {a b : State} (h : Keeps W a b) (hw : Sub 2176 W := by apply Sub.of; assumption; decide) :
    Keeps W a ⟨b.pending, b.freeCtr, b.out, b.regs, b.mem, b.bad, b.shadows, kao_, b.mbs, b.cal, b.pwr, hif_, b.parts, b.ctxs, b.tick, b.fab, b.keys, b.qacct, b.qEnergy, b.tier, b.arf, b.vex, b.decls, b.rmt, b.coll, b.wts, b.srv⟩ :=
  h.other hw (fun i => ⟨i.mem, i.holes, i.bad, i.regs⟩) (by intro x hx; cases x <;> first | rfl | exact absurd hx (by decide))

theorem Keeps.mk_cal_pwr_hif (cal_ : Caliche) (pwr_ : Power) (hif_ : HostIf) {W : Nat} {a b : State} (h : Keeps W a b) (hw : Sub 3584 W := by apply Sub.of; assumption; decide) :
    Keeps W a ⟨b.pending, b.freeCtr, b.out, b.regs, b.mem, b.bad, b.shadows, b.kao, b.mbs, cal_, pwr_, hif_, b.parts, b.ctxs, b.tick, b.fab, b.keys, b.qacct, b.qEnergy, b.tier, b.arf, b.vex, b.decls, b.rmt, b.coll, b.wts, b.srv⟩ :=
  h.other hw (fun i => ⟨i.mem, i.holes, i.bad, i.regs⟩) (by intro x hx; cases x <;> first | rfl | exact absurd hx (by decide))

theorem Keeps.mk_kao_cal_pwr_hif (kao_ : Kaolin) (cal_ : Caliche) (pwr_ : Power) (hif_ : HostIf) {W : Nat} {a b : State} (h : Keeps W a b) (hw : Sub 3712 W := by apply Sub.of; assumption; decide) :
    Keeps W a ⟨b.pending, b.freeCtr, b.out, b.regs, b.mem, b.bad, b.shadows, kao_, b.mbs, cal_, pwr_, hif_, b.parts, b.ctxs, b.tick, b.fab, b.keys, b.qacct, b.qEnergy, b.tier, b.arf, b.vex, b.decls, b.rmt, b.coll, b.wts, b.srv⟩ :=
  h.other hw (fun i => ⟨i.mem, i.holes, i.bad, i.regs⟩) (by intro x hx; cases x <;> first | rfl | exact absurd hx (by decide))

theorem Keeps.mk_parts (parts_ : Tab Part) {W : Nat} {a b : State} (h : Keeps W a b) (hw : Sub 4096 W := by apply Sub.of; assumption; decide) :
    Keeps W a ⟨b.pending, b.freeCtr, b.out, b.regs, b.mem, b.bad, b.shadows, b.kao, b.mbs, b.cal, b.pwr, b.hif, parts_, b.ctxs, b.tick, b.fab, b.keys, b.qacct, b.qEnergy, b.tier, b.arf, b.vex, b.decls, b.rmt, b.coll, b.wts, b.srv⟩ :=
  h.other hw (fun i => ⟨i.mem, i.holes, i.bad, i.regs⟩) (by intro x hx; cases x <;> first | rfl | exact absurd hx (by decide))

theorem Keeps.mk_ctxs (ctxs_ : Tab Ctx) {W : Nat} {a b : State} (h : Keeps W a b) (hw : Sub 8192 W := by apply Sub.of; assumption; decide) :
    Keeps W a ⟨b.pending, b.freeCtr, b.out, b.regs, b.mem, b.bad, b.shadows, b.kao, b.mbs, b.cal, b.pwr, b.hif, b.parts, ctxs_, b.tick, b.fab, b.keys, b.qacct, b.qEnergy, b.tier, b.arf, b.vex, b.decls, b.rmt, b.coll, b.wts, b.srv⟩ :=
  h.other hw (fun i => ⟨i.mem, i.holes, i.bad, i.regs⟩) (by intro x hx; cases x <;> first | rfl | exact absurd hx (by decide))

theorem Keeps.mk_tick (tick_ : TickUnit) {W : Nat} {a b : State} (h : Keeps W a b) (hw : Sub 16384 W := by apply Sub.of; assumption; decide) :
    Keeps W a ⟨b.pending, b.freeCtr, b.out, b.regs, b.mem, b.bad, b.shadows, b.kao, b.mbs, b.cal, b.pwr, b.hif, b.parts, b.ctxs, tick_, b.fab, b.keys, b.qacct, b.qEnergy, b.tier, b.arf, b.vex, b.decls, b.rmt, b.coll, b.wts, b.srv⟩ :=
  h.other hw (fun i => ⟨i.mem, i.holes, i.bad, i.regs⟩) (by intro x hx; cases x <;> first | rfl | exact absurd hx (by decide))

theorem Keeps.mk_cal_tick (cal_ : Caliche) (tick_ : TickUnit) {W : Nat} {a b : State} (h : Keeps W a b) (hw : Sub 16896 W := by apply Sub.of; assumption; decide) :
    Keeps W a ⟨b.pending, b.freeCtr, b.out, b.regs, b.mem, b.bad, b.shadows, b.kao, b.mbs, cal_, b.pwr, b.hif, b.parts, b.ctxs, tick_, b.fab, b.keys, b.qacct, b.qEnergy, b.tier, b.arf, b.vex, b.decls, b.rmt, b.coll, b.wts, b.srv⟩ :=
  h.other hw (fun i => ⟨i.mem, i.holes, i.bad, i.regs⟩) (by intro x hx; cases x <;> first | rfl | exact absurd hx (by decide))

theorem Keeps.mk_fab (fab_ : Fabric) {W : Nat} {a b : State} (h : Keeps W a b) (hw : Sub 32768 W := by apply Sub.of; assumption; decide) :
    Keeps W a ⟨b.pending, b.freeCtr, b.out, b.regs, b.mem, b.bad, b.shadows, b.kao, b.mbs, b.cal, b.pwr, b.hif, b.parts, b.ctxs, b.tick, fab_, b.keys, b.qacct, b.qEnergy, b.tier, b.arf, b.vex, b.decls, b.rmt, b.coll, b.wts, b.srv⟩ :=
  h.other hw (fun i => ⟨i.mem, i.holes, i.bad, i.regs⟩) (by intro x hx; cases x <;> first | rfl | exact absurd hx (by decide))

theorem Keeps.mk_keys (keys_ : List KeyEnt) {W : Nat} {a b : State} (h : Keeps W a b) (hw : Sub 65536 W := by apply Sub.of; assumption; decide) :
    Keeps W a ⟨b.pending, b.freeCtr, b.out, b.regs, b.mem, b.bad, b.shadows, b.kao, b.mbs, b.cal, b.pwr, b.hif, b.parts, b.ctxs, b.tick, b.fab, keys_, b.qacct, b.qEnergy, b.tier, b.arf, b.vex, b.decls, b.rmt, b.coll, b.wts, b.srv⟩ :=
  h.other hw (fun i => ⟨i.mem, i.holes, i.bad, i.regs⟩) (by intro x hx; cases x <;> first | rfl | exact absurd hx (by decide))

theorem Keeps.mk_qacct (qacct_ : Tab Nat) {W : Nat} {a b : State} (h : Keeps W a b) (hw : Sub 131072 W := by apply Sub.of; assumption; decide) :
    Keeps W a ⟨b.pending, b.freeCtr, b.out, b.regs, b.mem, b.bad, b.shadows, b.kao, b.mbs, b.cal, b.pwr, b.hif, b.parts, b.ctxs, b.tick, b.fab, b.keys, qacct_, b.qEnergy, b.tier, b.arf, b.vex, b.decls, b.rmt, b.coll, b.wts, b.srv⟩ :=
  h.other hw (fun i => ⟨i.mem, i.holes, i.bad, i.regs⟩) (by intro x hx; cases x <;> first | rfl | exact absurd hx (by decide))

theorem Keeps.mk_qacct_qEnergy (qacct_ : Tab Nat) (qEnergy_ : Tab Nat) {W : Nat} {a b : State} (h : Keeps W a b) (hw : Sub 393216 W := by apply Sub.of; assumption; decide) :
    Keeps W a ⟨b.pending, b.freeCtr, b.out, b.regs, b.mem, b.bad, b.shadows, b.kao, b.mbs, b.cal, b.pwr, b.hif, b.parts, b.ctxs, b.tick, b.fab, b.keys, qacct_, qEnergy_, b.tier, b.arf, b.vex, b.decls, b.rmt, b.coll, b.wts, b.srv⟩ :=
  h.other hw (fun i => ⟨i.mem, i.holes, i.bad, i.regs⟩) (by intro x hx; cases x <;> first | rfl | exact absurd hx (by decide))

theorem Keeps.mk_tier (tier_ : TierUnit) {W : Nat} {a b : State} (h : Keeps W a b) (hw : Sub 524288 W := by apply Sub.of; assumption; decide) :
    Keeps W a ⟨b.pending, b.freeCtr, b.out, b.regs, b.mem, b.bad, b.shadows, b.kao, b.mbs, b.cal, b.pwr, b.hif, b.parts, b.ctxs, b.tick, b.fab, b.keys, b.qacct, b.qEnergy, tier_, b.arf, b.vex, b.decls, b.rmt, b.coll, b.wts, b.srv⟩ :=
  h.other hw (fun i => ⟨i.mem, i.holes, i.bad, i.regs⟩) (by intro x hx; cases x <;> first | rfl | exact absurd hx (by decide))

theorem Keeps.mk_arf (arf_ : Tab ArfSlot) {W : Nat} {a b : State} (h : Keeps W a b) (hw : Sub 1048576 W := by apply Sub.of; assumption; decide) :
    Keeps W a ⟨b.pending, b.freeCtr, b.out, b.regs, b.mem, b.bad, b.shadows, b.kao, b.mbs, b.cal, b.pwr, b.hif, b.parts, b.ctxs, b.tick, b.fab, b.keys, b.qacct, b.qEnergy, b.tier, arf_, b.vex, b.decls, b.rmt, b.coll, b.wts, b.srv⟩ :=
  h.other hw (fun i => ⟨i.mem, i.holes, i.bad, i.regs⟩) (by intro x hx; cases x <;> first | rfl | exact absurd hx (by decide))

theorem Keeps.mk_vex (vex_ : Tab VexPart) {W : Nat} {a b : State} (h : Keeps W a b) (hw : Sub 2097152 W := by apply Sub.of; assumption; decide) :
    Keeps W a ⟨b.pending, b.freeCtr, b.out, b.regs, b.mem, b.bad, b.shadows, b.kao, b.mbs, b.cal, b.pwr, b.hif, b.parts, b.ctxs, b.tick, b.fab, b.keys, b.qacct, b.qEnergy, b.tier, b.arf, vex_, b.decls, b.rmt, b.coll, b.wts, b.srv⟩ :=
  h.other hw (fun i => ⟨i.mem, i.holes, i.bad, i.regs⟩) (by intro x hx; cases x <;> first | rfl | exact absurd hx (by decide))

theorem Keeps.mk_decls (decls_ : Tab Bytes) {W : Nat} {a b : State} (h : Keeps W a b) (hw : Sub 4194304 W := by apply Sub.of; assumption; decide) :
    Keeps W a ⟨b.pending, b.freeCtr, b.out, b.regs, b.mem, b.bad, b.shadows, b.kao, b.mbs, b.cal, b.pwr, b.hif, b.parts, b.ctxs, b.tick, b.fab, b.keys, b.qacct, b.qEnergy, b.tier, b.arf, b.vex, decls_, b.rmt, b.coll, b.wts, b.srv⟩ :=
  h.other hw (fun i => ⟨i.mem, i.holes, i.bad, i.regs⟩) (by intro x hx; cases x <;> first | rfl | exact absurd hx (by decide))

theorem Keeps.mk_rmt (rmt_ : Remote) {W : Nat} {a b : State} (h : Keeps W a b) (hw : Sub 8388608 W := by apply Sub.of; assumption; decide) :
    Keeps W a ⟨b.pending, b.freeCtr, b.out, b.regs, b.mem, b.bad, b.shadows, b.kao, b.mbs, b.cal, b.pwr, b.hif, b.parts, b.ctxs, b.tick, b.fab, b.keys, b.qacct, b.qEnergy, b.tier, b.arf, b.vex, b.decls, rmt_, b.coll, b.wts, b.srv⟩ :=
  h.other hw (fun i => ⟨i.mem, i.holes, i.bad, i.regs⟩) (by intro x hx; cases x <;> first | rfl | exact absurd hx (by decide))

theorem Keeps.mk_coll (coll_ : Coll) {W : Nat} {a b : State} (h : Keeps W a b) (hw : Sub 16777216 W := by apply Sub.of; assumption; decide) :
    Keeps W a ⟨b.pending, b.freeCtr, b.out, b.regs, b.mem, b.bad, b.shadows, b.kao, b.mbs, b.cal, b.pwr, b.hif, b.parts, b.ctxs, b.tick, b.fab, b.keys, b.qacct, b.qEnergy, b.tier, b.arf, b.vex, b.decls, b.rmt, coll_, b.wts, b.srv⟩ :=
  h.other hw (fun i => ⟨i.mem, i.holes, i.bad, i.regs⟩) (by intro x hx; cases x <;> first | rfl | exact absurd hx (by decide))

theorem Keeps.mk_pwr_arf_coll (pwr_ : Power) (arf_ : Tab ArfSlot) (coll_ : Coll) {W : Nat} {a b : State} (h : Keeps W a b) (hw : Sub 17826816 W := by apply Sub.of; assumption; decide) :
    Keeps W a ⟨b.pending, b.freeCtr, b.out, b.regs, b.mem, b.bad, b.shadows, b.kao, b.mbs, b.cal, pwr_, b.hif, b.parts, b.ctxs, b.tick, b.fab, b.keys, b.qacct, b.qEnergy, b.tier, arf_, b.vex, b.decls, b.rmt, coll_, b.wts, b.srv⟩ :=
  h.other hw (fun i => ⟨i.mem, i.holes, i.bad, i.regs⟩) (by intro x hx; cases x <;> first | rfl | exact absurd hx (by decide))

theorem Keeps.mk_ctxs_fab_arf_coll (ctxs_ : Tab Ctx) (fab_ : Fabric) (arf_ : Tab ArfSlot) (coll_ : Coll) {W : Nat} {a b : State} (h : Keeps W a b) (hw : Sub 17866752 W := by apply Sub.of; assumption; decide) :
    Keeps W a ⟨b.pending, b.freeCtr, b.out, b.regs, b.mem, b.bad, b.shadows, b.kao, b.mbs, b.cal, b.pwr, b.hif, b.parts, ctxs_, b.tick, fab_, b.keys, b.qacct, b.qEnergy, b.tier, arf_, b.vex, b.decls, b.rmt, coll_, b.wts, b.srv⟩ :=
  h.other hw (fun i => ⟨i.mem, i.holes, i.bad, i.regs⟩) (by intro x hx; cases x <;> first | rfl | exact absurd hx (by decide))

theorem Keeps.mk_wts (wts_ : Weights) {W : Nat} {a b : State} (h : Keeps W a b) (hw : Sub 33554432 W := by apply Sub.of; assumption; decide) :
    Keeps W a ⟨b.pending, b.freeCtr, b.out, b.regs, b.mem, b.bad, b.shadows, b.kao, b.mbs, b.cal, b.pwr, b.hif, b.parts, b.ctxs, b.tick, b.fab, b.keys, b.qacct, b.qEnergy, b.tier, b.arf, b.vex, b.decls, b.rmt, b.coll, wts_, b.srv⟩ :=
  h.other hw (fun i => ⟨i.mem, i.holes, i.bad, i.regs⟩) (by intro x hx; cases x <;> first | rfl | exact absurd hx (by decide))

theorem Keeps.mk_vex_decls_coll_wts (vex_ : Tab VexPart) (decls_ : Tab Bytes) (coll_ : Coll) (wts_ : Weights) {W : Nat} {a b : State} (h : Keeps W a b) (hw : Sub 56623104 W := by apply Sub.of; assumption; decide) :
    Keeps W a ⟨b.pending, b.freeCtr, b.out, b.regs, b.mem, b.bad, b.shadows, b.kao, b.mbs, b.cal, b.pwr, b.hif, b.parts, b.ctxs, b.tick, b.fab, b.keys, b.qacct, b.qEnergy, b.tier, b.arf, vex_, decls_, b.rmt, coll_, wts_, b.srv⟩ :=
  h.other hw (fun i => ⟨i.mem, i.holes, i.bad, i.regs⟩) (by intro x hx; cases x <;> first | rfl | exact absurd hx (by decide))

theorem Keeps.mk_srv (srv_ : Serving) {W : Nat} {a b : State} (h : Keeps W a b) (hw : Sub 67108864 W := by apply Sub.of; assumption; decide) :
    Keeps W a ⟨b.pending, b.freeCtr, b.out, b.regs, b.mem, b.bad, b.shadows, b.kao, b.mbs, b.cal, b.pwr, b.hif, b.parts, b.ctxs, b.tick, b.fab, b.keys, b.qacct, b.qEnergy, b.tier, b.arf, b.vex, b.decls, b.rmt, b.coll, b.wts, srv_⟩ :=
  h.other hw (fun i => ⟨i.mem, i.holes, i.bad, i.regs⟩) (by intro x hx; cases x <;> first | rfl | exact absurd hx (by decide))

theorem wr_keeps (f : Field) (v : Nat) {W : Nat} {a s : State} (h : Keeps W a s) (hw : Sub 8 W := by apply Sub.of; assumption; decide) :
    Keeps W a (wr s f v) :=
  h.other hw (fun j => ⟨j.mem, j.holes, j.bad, tput_rises _ _ j.regs⟩)
    (by intro x hx; cases x <;> first | rfl | exact absurd hx (by decide))

theorem bump_keeps (f : Field) (n : Nat) {W : Nat} {a s : State} (h : Keeps W a s) (hw : Sub 8 W := by apply Sub.of; assumption; decide) :
    Keeps W a (bump s f n) := wr_keeps f _ h hw
theorem wrb_keeps (f : Field) (b : Bool) {W : Nat} {a s : State} (h : Keeps W a s) (hw : Sub 8 W := by apply Sub.of; assumption; decide) :
    Keeps W a (wrb s f b) := wr_keeps f _ h hw
theorem orReg_keeps (f : Field) (n : Nat) {W : Nat} {a s : State} (h : Keeps W a s) (hw : Sub 8 W := by apply Sub.of; assumption; decide) :
    Keeps W a (orReg s f n) := wr_keeps f _ h hw
theorem emit_keeps (o : Output) {W : Nat} {a s : State} (h : Keeps W a s) (hw : Sub 4 W := by apply Sub.of; assumption; decide) : Keeps W a (emit s o) :=
  Keeps.mk_out _ h hw

theorem draw_keeps (w : Nat) {W : Nat} {a s : State} (h : Keeps W a s) (hw : Sub 2 W := by apply Sub.of; assumption; decide) : Keeps W a (draw w s).2 :=
  h.step hw (Eq.refl _) (Nat.le_succ _) (fun j => ⟨j.mem, j.holes, j.bad, j.regs⟩)
    (by intro x hx; cases x <;> first | rfl | exact absurd hx (by decide))

theorem drawBytes_keeps (n : Nat) {W : Nat} {a s : State} (h : Keeps W a s) (hw : Sub 2 W := by apply Sub.of; assumption; decide) :
    Keeps W a (drawBytes n s).2 :=
  h.step hw (Eq.refl _) (Nat.le_add_right _ _) (fun j => ⟨j.mem, j.holes, j.bad, j.regs⟩)
    (by intro x hx; cases x <;> first | rfl | exact absurd hx (by decide))

/-! ### Memory -/

theorem pokeMem_wf {m : List Host.Cell} (a : Nat) (b : Byte) (h : Memory.wf m = true) : Memory.wf (pokeMem m a b) = true := by
  unfold pokeMem; split
  · exact tput_wf b a h
  · exact h

theorem pokeMem_holes {m : List Host.Cell} (a : Nat) (b : Byte) (h : m.all (fun c => populated c.1) = true) :
    (pokeMem m a b).all (fun c => populated c.1) = true := by
  unfold pokeMem; split
  · rename_i hp
    simp only [List.all_eq_true] at h ⊢
    intro c hc
    rcases mem_keys_tput hc with hk | hc
    · exact hk ▸ hp
    · exact h c hc
  · exact h

theorem pokeBytes_wf (b : Bytes) {m : List Host.Cell} (a : Nat) (h : Memory.wf m = true) :
    Memory.wf (pokeBytes m a b) = true := by
  induction b generalizing m a with
  | nil => exact h
  | cons x r ih => exact ih (a + 1) (pokeMem_wf a x h)

theorem pokeBytes_holes (b : Bytes) {m : List Host.Cell} (a : Nat) (h : m.all (fun c => populated c.1) = true) :
    (pokeBytes m a b).all (fun c => populated c.1) = true := by
  induction b generalizing m a with
  | nil => exact h
  | cons x r ih => exact ih (a + 1) (pokeMem_holes a x h)

theorem writeMem_keeps (x : Nat) (b : Bytes) {W : Nat} {a s : State} (h : Keeps W a s) (hw : Sub 16 W := by apply Sub.of; assumption; decide) :
    Keeps W a (writeMem s x b) :=
  h.other hw (fun j => ⟨pokeBytes_wf b x j.mem, pokeBytes_holes b x j.holes, j.bad, j.regs⟩)
    (by intro x hx; cases x <;> first | rfl | exact absurd hx (by decide))

theorem setBad_keeps (x : Nat) (b : Bool) {W : Nat} {a s : State} (h : Keeps W a s) (hw : Sub 32 W := by apply Sub.of; assumption; decide) :
    Keeps W a (setBad s x b) :=
  h.other hw (fun j => ⟨j.mem, j.holes, tput_wf _ _ j.bad, j.regs⟩)
    (by intro x hx; cases x <;> first | rfl | exact absurd hx (by decide))

theorem foldl_tput_wf {α β : Type} [DecidableEq α] {d : α} (k : β → Nat) (v : β → α) (l : List β) {t : Tab α}
    (w : tabWf d t = true) : tabWf d (l.foldl (fun t x => tput d t (k x) (v x)) t) = true := by
  induction l generalizing t with
  | nil => exact w
  | cons x r ih => exact ih (tput_wf _ _ w)

theorem setBadRange_keeps (x n : Nat) (b : Bool) {W : Nat} {a s : State} (h : Keeps W a s) (hw : Sub 32 W := by apply Sub.of; assumption; decide) :
    Keeps W a (setBadRange s x n b) := by
  unfold setBadRange; split
  · exact h
  · exact h.other hw (fun j => ⟨j.mem, j.holes, foldl_tput_wf (fun i => x / 8 + i) (fun _ => b) _ j.bad, j.regs⟩)
      (by intro x hx; cases x <;> first | rfl | exact absurd hx (by decide))

theorem all_filter {α : Type} {p q : α → Bool} {l : List α} (h : l.all p = true) : (l.filter q).all p = true := by
  simp only [List.all_eq_true, List.mem_filter] at h ⊢
  exact fun c hc => h c hc.1

theorem zeroRange_keeps (x n : Nat) {W : Nat} {a s : State} (h : Keeps W a s) (hw : Sub 48 W := by apply Sub.of; assumption; decide) :
    Keeps W a (zeroRange s x n) :=
  h.other hw (fun j => ⟨filter_wf _ j.mem, all_filter j.holes, filter_wf _ j.bad, j.regs⟩)
    (by intro x hx; cases x <;> first | rfl | exact absurd hx (by decide))

/-! ### Control -/

theorem foldl_keeps {β : Type} {W : Nat} {a s : State} {l : List β} {f : State → β → State} (h : Keeps W a s)
    (hf : ∀ t x, Keeps W a t → Keeps W a (f t x)) : Keeps W a (l.foldl f s) := by
  induction l generalizing s with
  | nil => exact h
  | cons x r ih => exact ih (hf s x h)

theorem ite_keeps {c : Prop} [Decidable c] {W : Nat} {a s t : State} (h : Keeps W a s) (k : Keeps W a t) : Keeps W a (if c then s else t) := by
  split <;> assumption

/-- A meaning that answers only states which keep. -/
structure KeepsO (W : Nat) (s : State) (o : Host.Outcome State Fault Refusal) : Prop where
  all : ∀ t, o = .next t → Keeps W s t

theorem KeepsO.next {W : Nat} {a s : State} (h : Keeps W a s) : KeepsO W a (.next s) := ⟨fun _ e => Host.Outcome.next.inj e ▸ h⟩

theorem KeepsO.ite {c : Prop} [Decidable c] {W : Nat} {a : State} {o p : Host.Outcome State Fault Refusal} (h : KeepsO W a o)
    (k : KeepsO W a p) : KeepsO W a (if c then o else p) := by split <;> assumption

theorem ite_keeps_snd {β : Type} {c : Prop} [Decidable c] {W : Nat} {a : State} {x y : β × State} (h : Keeps W a x.2) (k : Keeps W a y.2) :
    Keeps W a (if c then x else y).2 := by split <;> assumption

theorem ite_keeps_fst {β : Type} {c : Prop} [Decidable c] {W : Nat} {a : State} {x y : State × β} (h : Keeps W a x.1) (k : Keeps W a y.1) :
    Keeps W a (if c then x else y).1 := by split <;> assumption

theorem ite_keeps_st {c : Prop} [Decidable c] {W : Nat} {a : State} {x y : CmdOut} (h : Keeps W a x.st) (k : Keeps W a y.st) :
    Keeps W a (if c then x else y).st := by split <;> assumption

theorem foldl_keeps_snd {β γ : Type} {W : Nat} {a : State} {l : List β} {x : γ × State} {f : γ × State → β → γ × State} (h : Keeps W a x.2)
    (hf : ∀ t y, Keeps W a t.2 → Keeps W a (f t y).2) : Keeps W a (l.foldl f x).2 := by
  induction l generalizing x with
  | nil => exact h
  | cons y r ih => exact ih (hf x y h)

theorem foldl_keeps_fst {β γ : Type} {W : Nat} {a : State} {l : List β} {x : State × γ} {f : State × γ → β → State × γ} (h : Keeps W a x.1)
    (hf : ∀ t y, Keeps W a t.1 → Keeps W a (f t y).1) : Keeps W a (l.foldl f x).1 := by
  induction l generalizing x with
  | nil => exact h
  | cons y r ih => exact ih (hf x y h)

/-! ### Sets of areas -/

/-- The set of a list of areas. -/
def maskOf : List Area → Nat
  | [] => 0
  | a :: r => 2 ^ a.bit ||| maskOf r

theorem bit_inj {a b : Area} (h : a.bit = b.bit) : a = b := by
  cases a <;> first | (cases b <;> first | rfl | cases h) | skip

theorem maskOf_bit {a : Area} {l : List Area} (h : a ∉ l) : (maskOf l).testBit a.bit = false := by
  induction l with
  | nil => exact Nat.zero_testBit _
  | cons b r ih =>
    simp only [List.mem_cons, not_or] at h
    simp only [maskOf, Nat.testBit_or, ih h.2, Bool.or_false, Nat.testBit_two_pow]
    exact decide_eq_false (fun e => h.1 (bit_inj e.symm))

/-- A meaning that keeps everything outside a list of areas leaves the others the same. -/
theorem KeepsO.outside {l : List Area} {s t : State} {o : Host.Outcome State Fault Refusal} (h : KeepsO (maskOf l) s o)
    (e : o = .next t) {a : Area} (ha : a ∉ l) : a.same s t := (h.all t e).same a (maskOf_bit ha)

end Sys2Proof.Machine
end

