-- ==== Sys2Proof/Laws/KeepOps.lean ====
section
/-!
SUPPORT. The operations of Ops keep the queue, the count of free values and the forms of memory and registers.
-/

set_option Elab.async false

namespace Sys2Proof.Machine

theorem modPart_keeps (s : State) (p : Nat) (f : Part → Part) {s₀ : State} {W : Nat} (hs : Keeps W s₀ s)
    (hw : Sub 4096 W := by apply Sub.of; assumption; decide) : Keeps W s₀ (modPart s p f) := by
  unfold modPart
  with_reducible
    repeat' first
      | assumption | apply Keeps.mk_parts

theorem modCtx_keeps (s : State) (G : Nat) (f : Ctx → Ctx) {s₀ : State} {W : Nat} (hs : Keeps W s₀ s)
    (hw : Sub 8192 W := by apply Sub.of; assumption; decide) : Keeps W s₀ (modCtx s G f) := by
  unfold modCtx
  with_reducible
    repeat' first
      | assumption | apply Keeps.mk_ctxs

theorem stopJob_keeps (s : State) (p : Nat) (st : Nat) {s₀ : State} {W : Nat} (hs : Keeps W s₀ s)
    (hw : Sub 4096 W := by apply Sub.of; assumption; decide) : Keeps W s₀ (stopJob s p st) := by
  unfold stopJob
  with_reducible
    repeat' first
      | assumption | apply modPart_keeps | apply ite_keeps

theorem stopAll_keeps (s : State) (st : Nat) {s₀ : State} {W : Nat} (hs : Keeps W s₀ s)
    (hw : Sub 4096 W := by apply Sub.of; assumption; decide) : Keeps W s₀ (stopAll s st) := by
  unfold stopAll
  with_reducible
    repeat' first
      | assumption | intro _ | apply stopJob_keeps | apply foldl_keeps

theorem account_keeps (s : State) (p : Nat) (off : Nat) (n : Nat) {s₀ : State} {W : Nat} (hs : Keeps W s₀ s)
    (hw : Sub 4096 W := by apply Sub.of; assumption; decide) : Keeps W s₀ (account s p off n) := by
  unfold account
  with_reducible
    repeat' first
      | assumption | apply modPart_keeps

theorem energy_keeps (s : State) (p : Nat) (pj : Nat) {s₀ : State} {W : Nat} (hs : Keeps W s₀ s)
    (hw : Sub 4096 W := by apply Sub.of; assumption; decide) : Keeps W s₀ (energy s p pj) := by
  unfold energy
  with_reducible
    repeat' first
      | assumption | apply modPart_keeps

theorem swapAccum_keeps (p : Nat) (s : State) {s₀ : State} {W : Nat} (hs : Keeps W s₀ s)
    (hw : Sub 4096 W := by apply Sub.of; assumption; decide) : Keeps W s₀ (swapAccum p s) := by
  unfold swapAccum
  with_reducible
    repeat' first
      | assumption | apply modPart_keeps

theorem outside_keeps (p : Nat) (f : State → State) (s : State) {s₀ : State} {W : Nat} (hs : Keeps W s₀ s) (hf : ∀ y0, Keeps
    W s₀ y0 → Keeps W s₀ (f y0)) (hw : Sub 4096 W := by apply Sub.of; assumption; decide) : Keeps W s₀ (outside p f s) := by
  unfold outside
  with_reducible
    repeat' first
      | assumption | apply hf | apply swapAccum_keeps

theorem setPstate_keeps (s : State) (n : Nat) {s₀ : State} {W : Nat} (hs : Keeps W s₀ s)
    (hw : Sub 8 W := by apply Sub.of; assumption; decide) : Keeps W s₀ (setPstate s n) := by
  unfold setPstate
  with_reducible
    repeat' first
      | assumption | apply wr_keeps

theorem modMbox_keeps (s : State) (m : Nat) (f : Mailbox → Mailbox) {s₀ : State} {W : Nat} (hs : Keeps W s₀ s)
    (hw : Sub 256 W := by apply Sub.of; assumption; decide) : Keeps W s₀ (modMbox s m f) := by
  unfold modMbox
  with_reducible
    repeat' first
      | assumption | apply Keeps.mk_mbs

theorem msix_keeps (s : State) (fn : Nat) (v : Nat) {s₀ : State} {W : Nat} (hs : Keeps W s₀ s)
    (hw : Sub 4 W := by apply Sub.of; assumption; decide) : Keeps W s₀ (msix s fn v) := by
  unfold msix
  with_reducible
    repeat' first
      | assumption | apply emit_keeps

theorem ringEvent_keeps (s : State) (m : Nat) (recs : List Bytes) {s₀ : State} {W : Nat} (hs : Keeps W s₀ s)
    (hw : Sub 260 W := by apply Sub.of; assumption; decide) : Keeps W s₀ (ringEvent s m recs) := by
  unfold ringEvent
  with_reducible
    repeat' first
      | assumption | apply modMbox_keeps | apply msix_keeps | apply ite_keeps | apply foldl_keeps
      | exact Sub.of (by assumption) (by decide)

theorem mgmtEvent_keeps (s : State) (recs : List Bytes) {s₀ : State} {W : Nat} (hs : Keeps W s₀ s)
    (hw : Sub 4 W := by apply Sub.of; assumption; decide) : Keeps W s₀ (mgmtEvent s recs) := by
  unfold mgmtEvent
  with_reducible
    repeat' first
      | assumption | intro _ | apply emit_keeps | apply foldl_keeps

theorem deliver_keeps (src : Nat) (code : Nat) (p : Nat) (payload : Nat → Bytes) (ext : List Bytes) (s : State) (d : Nat)
    {s₀ : State} {W : Nat} (hs : Keeps W s₀ s) (hw : Sub 388 W := by apply Sub.of; assumption; decide) : Keeps W s₀ (deliver
    src code p payload ext s d) := by
  unfold deliver
  with_reducible
    repeat' first
      | assumption | apply ringEvent_keeps | apply mgmtEvent_keeps | apply ite_keeps | apply Keeps.mk_kao
      | exact Sub.of (by assumption) (by decide)

theorem raiseWith_keeps (src : Nat) (code : Nat) (p : Nat) (payload : Nat → Bytes) (ext : List Bytes) (s : State) {s₀ :
    State} {W : Nat} (hs : Keeps W s₀ s) (hw : Sub 396 W := by apply Sub.of; assumption; decide) : Keeps W s₀ (raiseWith src
    code p payload ext s) := by
  unfold raiseWith
  with_reducible
    repeat' first
      | assumption | intro _ | apply bump_keeps | apply deliver_keeps | apply ite_keeps | apply foldl_keeps
      | exact Sub.of (by assumption) (by decide)

theorem raise_keeps (code : Nat) (p : Nat) (payload : Bytes) (s : State) {s₀ : State} {W : Nat} (hs : Keeps W s₀ s)
    (hw : Sub 396 W := by apply Sub.of; assumption; decide) : Keeps W s₀ (raise code p payload s) := by
  unfold raise
  with_reducible
    repeat' first
      | assumption | apply raiseWith_keeps

theorem raiseBit_keeps (src : Nat) (code : Nat) (p : Nat) (unit : Nat) (addr : Nat) (idx : Nat) (s : State) {s₀ : State} {W
    : Nat} (hs : Keeps W s₀ s) (hw : Sub 396 W := by apply Sub.of; assumption; decide) : Keeps W s₀ (raiseBit src code p
    unit addr idx s) := by
  unfold raiseBit
  with_reducible
    repeat' first
      | assumption | apply raiseWith_keeps

theorem setEvent_keeps (f : Field) (src : Nat) (code : Nat) (p : Nat) (unit : Nat) (addr : Nat) (idx : Nat) (s : State) {s₀
    : State} {W : Nat} (hs : Keeps W s₀ s) (hw : Sub 396 W := by apply Sub.of; assumption; decide) : Keeps W s₀ (setEvent f
    src code p unit addr idx s) := by
  unfold setEvent
  with_reducible
    repeat' first
      | assumption | apply wr_keeps | apply raiseBit_keeps | exact Sub.of (by assumption) (by decide)

theorem tickEvent_keeps (f : Field) (b : Nat) (s : State) {s₀ : State} {W : Nat} (hs : Keeps W s₀ s)
    (hw : Sub 396 W := by apply Sub.of; assumption; decide) : Keeps W s₀ (tickEvent f b s) := by
  unfold tickEvent
  with_reducible
    repeat' first
      | assumption | apply setEvent_keeps

theorem pwrEvent_keeps (f : Field) (b : Nat) (s : State) {s₀ : State} {W : Nat} (hs : Keeps W s₀ s)
    (hw : Sub 396 W := by apply Sub.of; assumption; decide) : Keeps W s₀ (pwrEvent f b s) := by
  unfold pwrEvent
  with_reducible
    repeat' first
      | assumption | apply setEvent_keeps

theorem hifEvent_keeps (f : Field) (b : Nat) (s : State) {s₀ : State} {W : Nat} (hs : Keeps W s₀ s)
    (hw : Sub 396 W := by apply Sub.of; assumption; decide) : Keeps W s₀ (hifEvent f b s) := by
  unfold hifEvent
  with_reducible
    repeat' first
      | assumption | apply setEvent_keeps

theorem urgent_keeps (x : Nat) (b : Nat) (s : State) {s₀ : State} {W : Nat} (hs : Keeps W s₀ s)
    (hw : Sub 12 W := by apply Sub.of; assumption; decide) : Keeps W s₀ (urgent x b s) := by
  unfold urgent
  with_reducible
    repeat' first
      | assumption | apply orReg_keeps | apply msix_keeps | apply ite_keeps | exact Sub.of (by assumption) (by decide)

theorem urgentBoth_keeps (b : Nat) (s : State) {s₀ : State} {W : Nat} (hs : Keeps W s₀ s)
    (hw : Sub 12 W := by apply Sub.of; assumption; decide) : Keeps W s₀ (urgentBoth b s) := by
  unfold urgentBoth
  with_reducible
    repeat' first
      | assumption | apply urgent_keeps

theorem outcome_keeps (id : Nat) (code : Nat) (p : Nat) (payload : Bytes) (ext : List Bytes) (s : State) {s₀ : State} {W :
    Nat} (hs : Keeps W s₀ s) (hw : Sub 396 W := by apply Sub.of; assumption; decide) : Keeps W s₀ (outcome id code p payload
    ext s) := by
  unfold outcome
  with_reducible
    repeat' first
      | assumption | apply raiseWith_keeps | apply ite_keeps | apply Keeps.mk_kao
      | exact Sub.of (by assumption) (by decide)

theorem calEvent_keeps (f : Field) (b : Nat) (idx : Nat) (s : State) {s₀ : State} {W : Nat} (hs : Keeps W s₀ s)
    (hw : Sub 908 W := by apply Sub.of; assumption; decide) : Keeps W s₀ (calEvent f b idx s) := by
  unfold calEvent
  with_reducible
    repeat' first
      | assumption | apply setEvent_keeps | apply Keeps.mk_cal | exact Sub.of (by assumption) (by decide)

theorem pushRecord_keeps (s : State) (r : ErrRec) {s₀ : State} {W : Nat} (hs : Keeps W s₀ s)
    (hw : Sub 908 W := by apply Sub.of; assumption; decide) : Keeps W s₀ (pushRecord s r) := by
  unfold pushRecord
  with_reducible
    repeat' first
      | assumption | apply wr_keeps | apply bump_keeps | apply calEvent_keeps | apply ite_keeps | apply Keeps.mk_cal
      | exact Sub.of (by assumption) (by decide)

theorem writeRecord_keeps (r : ErrRec) (feeds : Bool) (s : State) {s₀ : State} {W : Nat} (hs : Keeps W s₀ s)
    (hw : Sub 5004 W := by apply Sub.of; assumption; decide) : Keeps W s₀ (writeRecord r feeds s) := by
  unfold writeRecord
  with_reducible
    repeat' first
      | assumption | intro _ | apply bump_keeps | apply stopJob_keeps | apply urgentBoth_keeps | apply calEvent_keeps
      | apply pushRecord_keeps | apply ite_keeps | apply foldl_keeps | apply Keeps.mk_cal
      | exact Sub.of (by assumption) (by decide)

theorem report_keeps (r : ErrRec) (feeds : Bool) (s : State) {s₀ : State} {W : Nat} (hs : Keeps W s₀ s)
    (hw : Sub 5004 W := by apply Sub.of; assumption; decide) : Keeps W s₀ (report r feeds s) := by
  unfold report
  with_reducible
    repeat' first
      | assumption | apply writeRecord_keeps | apply ite_keeps | apply Keeps.mk_cal
      | exact Sub.of (by assumption) (by decide)

theorem unitError_keeps (f : Field) (src : Nat) (code : Nat) (ty : Nat) (n : Nat) (sev : Nat) (op : Nat) (p : Nat) (flags :
    Nat) (addr : Nat) (synd : Bytes) (feeds : Bool) (s : State) {s₀ : State} {W : Nat} (hs : Keeps W s₀ s)
    (hw : Sub 5004 W := by apply Sub.of; assumption; decide) : Keeps W s₀ (unitError f src code ty n sev op p flags addr
    synd feeds s) := by
  unfold unitError
  with_reducible
    repeat' first
      | assumption | apply wr_keeps | apply raiseBit_keeps | apply report_keeps
      | exact Sub.of (by assumption) (by decide)

theorem sendSymbol_keeps (ls : List Nat) (type : Nat) (fields : Bytes) (s : State) {s₀ : State} {W : Nat} (hs : Keeps W s₀
    s) (hw : Sub 4 W := by apply Sub.of; assumption; decide) : Keeps W s₀ (sendSymbol ls type fields s) := by
  unfold sendSymbol
  with_reducible
    repeat' first
      | assumption | intro _ | apply emit_keeps | apply foldl_keeps

theorem floodAbort_keeps (k : Nat) (s : State) {s₀ : State} {W : Nat} (hs : Keeps W s₀ s)
    (hw : Sub 12 W := by apply Sub.of; assumption; decide) : Keeps W s₀ (floodAbort k s) := by
  unfold floodAbort
  with_reducible
    repeat' first
      | assumption | apply bump_keeps | apply sendSymbol_keeps | exact Sub.of (by assumption) (by decide)

theorem sendAbort_keeps (sl : Nat) (k : Nat) (s : State) {s₀ : State} {W : Nat} (hs : Keeps W s₀ s)
    (hw : Sub 16396 W := by apply Sub.of; assumption; decide) : Keeps W s₀ (sendAbort sl k s) := by
  unfold sendAbort
  with_reducible
    repeat' first
      | assumption | apply floodAbort_keeps | apply ite_keeps | apply Keeps.mk_tick
      | exact Sub.of (by assumption) (by decide)

theorem failFrame_keeps (p : Nat) (c : Condition) (s : State) {s₀ : State} {W : Nat} (hs : Keeps W s₀ s)
    (hw : Sub 20492 W := by apply Sub.of; assumption; decide) : Keeps W s₀ (failFrame p c s) := by
  unfold failFrame
  with_reducible
    repeat' first
      | assumption | apply modPart_keeps | apply sendAbort_keeps | apply ite_keeps
      | exact Sub.of (by assumption) (by decide)

theorem failCtx_keeps (G : Nat) (st : Nat) (one : Bool) (s : State) {s₀ : State} {W : Nat} (hs : Keeps W s₀ s)
    (hw : Sub 20492 W := by apply Sub.of; assumption; decide) : Keeps W s₀ (failCtx G st one s) := by
  unfold failCtx
  with_reducible
    repeat' first
      | assumption | apply failFrame_keeps

end Sys2Proof.Machine
end

