-- ==== Sys2Proof/Laws/KeepMailbox.lean ====
section
/-!
SUPPORT. The operations of Mailbox keep the queue, the count of free values and the forms of memory and registers.
-/

set_option Elab.async false

namespace Sys2Proof.Machine

theorem refuseCmd_keeps (st : Nat) (s : State) {s₀ : State} {W : Nat} (hs : Keeps W s₀ s)
    (hw : Sub 0 W := by apply Sub.of; assumption; decide) : Keeps W s₀ (refuseCmd st s).st := by
  unfold refuseCmd
  with_reducible
    repeat' first
      | assumption

theorem doneCmd_keeps (res : Bytes) (s : State) {s₀ : State} {W : Nat} (hs : Keeps W s₀ s)
    (hw : Sub 0 W := by apply Sub.of; assumption; decide) : Keeps W s₀ (doneCmd res s).st := by
  unfold doneCmd
  with_reducible
    repeat' first
      | assumption

theorem waitCmd_keeps (w : WaitFor) (s : State) {s₀ : State} {W : Nat} (hs : Keeps W s₀ s)
    (hw : Sub 0 W := by apply Sub.of; assumption; decide) : Keeps W s₀ (waitCmd w s).st := by
  unfold waitCmd
  with_reducible
    repeat' first
      | assumption

theorem newOp_keeps (op : Nat) (e : Entry) (p : Nat) (s : State) {s₀ : State} {W : Nat} (hs : Keeps W s₀ s)
    (hw : Sub 128 W := by apply Sub.of; assumption; decide) : Keeps W s₀ (newOp op e p s).2 := by
  unfold newOp
  with_reducible
    repeat' first
      | assumption | apply Keeps.mk_kao

theorem pendCmd_keeps (id : Nat) (more : Bytes) (s : State) {s₀ : State} {W : Nat} (hs : Keeps W s₀ s)
    (hw : Sub 0 W := by apply Sub.of; assumption; decide) : Keeps W s₀ (pendCmd id more s).st := by
  unfold pendCmd
  with_reducible
    repeat' first
      | assumption

theorem complete_keeps (e : Entry) (st : Nat) (res : Bytes) (inl : Bytes) (s : State) {s₀ : State} {W : Nat} (hs : Keeps W
    s₀ s) (hw : Sub 396 W := by apply Sub.of; assumption; decide) : Keeps W s₀ (complete e st res inl s) := by
  unfold complete
  with_reducible
    repeat' first
      | assumption | apply emit_keeps | apply bump_keeps | apply modMbox_keeps | apply msix_keeps | apply ite_keeps
      | split | apply Keeps.mk_kao | exact Sub.of (by assumption) (by decide)

theorem endWaiting_keeps (c : InFlight) (st : Nat) (res : Bytes) (inl : Bytes) (s : State) {s₀ : State} {W : Nat} (hs :
    Keeps W s₀ s) (hw : Sub 396 W := by apply Sub.of; assumption; decide) : Keeps W s₀ (endWaiting c st res inl s) := by
  unfold endWaiting
  with_reducible
    repeat' first
      | assumption | apply bump_keeps | apply complete_keeps | apply ite_keeps
      | exact Sub.of (by assumption) (by decide)

theorem startCmd_keeps (e : Entry) (s : State) {s₀ : State} {W : Nat} (hs : Keeps W s₀ s)
    (hw : Sub 384 W := by apply Sub.of; assumption; decide) : Keeps W s₀ (startCmd e s) := by
  unfold startCmd
  with_reducible
    repeat' first
      | assumption | apply modMbox_keeps | split | apply Keeps.mk_kao | exact Sub.of (by assumption) (by decide)

theorem checkedRun_keeps (r : CmdRow) (h : Entry → HostIo → State → CmdOut) (e : Entry) (io : HostIo) (s : State) {s₀ :
    State} {W : Nat} (hs : Keeps W s₀ s) (hh : ∀ y0 y1 y2, Keeps W s₀ y2 → Keeps W s₀ (h y0 y1 y2).st)
    (hw : Sub 0 W := by apply Sub.of; assumption; decide) : Keeps W s₀ (checkedRun r h e io s).st := by
  unfold checkedRun
  with_reducible
    repeat' first
      | assumption | apply hh | apply refuseCmd_keeps | apply ite_keeps | split | dsimp only

theorem runFetched_keeps (r : CmdRow) (h : Entry → HostIo → State → CmdOut) (e : Entry) (io : HostIo) (s : State) {s₀ :
    State} {W : Nat} (hs : Keeps W s₀ s) (hh : ∀ y0 y1 y2, Keeps W s₀ y2 → Keeps W s₀ (h y0 y1 y2).st)
    (hw : Sub 396 W := by apply Sub.of; assumption; decide) : Keeps W s₀ (runFetched r h e io s) := by
  unfold runFetched
  with_reducible
    repeat' first
      | assumption | apply hh | apply complete_keeps | apply checkedRun_keeps | split | apply Keeps.mk_kao
      | exact Sub.of (by assumption) (by decide)

theorem mailboxCommand_keeps (r : CmdRow) (h : Entry → HostIo → State → CmdOut) (e : Entry) (io : HostIo) (s : State) {s₀ :
    State} {W : Nat} (hs : Keeps W s₀ s) (hh : ∀ y0 y1 y2, Keeps W s₀ y2 → Keeps W s₀ (h y0 y1 y2).st)
    (hw : Sub 396 W := by apply Sub.of; assumption; decide) : Keeps W s₀ (mailboxCommand r h e io s) := by
  unfold mailboxCommand
  with_reducible
    repeat' first
      | assumption | apply hh | apply complete_keeps | apply startCmd_keeps | apply runFetched_keeps | apply ite_keeps
      | exact Sub.of (by assumption) (by decide)

theorem completeWaiting_keeps (w : WaitFor) (st : Nat) (res : State → InFlight → Bytes) (s : State) {s₀ : State} {W : Nat}
    (hs : Keeps W s₀ s) (hw : Sub 396 W := by apply Sub.of; assumption; decide) : Keeps W s₀ (completeWaiting w st res s) :=
    by
  unfold completeWaiting
  with_reducible
    repeat' first
      | assumption | intro _ | apply endWaiting_keeps | apply foldl_keeps | apply Keeps.mk_kao
      | exact Sub.of (by assumption) (by decide)

end Sys2Proof.Machine
end

