-- ==== Sys2Proof/Laws/KeepKaolin.lean ====
section
/-!
SUPPORT. The operations of Kaolin keep the queue, the count of free values and the forms of memory and registers.
-/

set_option Elab.async false

namespace Sys2Proof.Machine

theorem execMbSqTailWrite_keeps (mb : Nat) (tail : Nat) (entries : List Bytes) (s : State) {s₀ : State} {W : Nat} (hs :
    Keeps W s₀ s) (hw : Sub 256 W := by apply Sub.of; assumption; decide) : KeepsO W s₀ (execMbSqTailWrite mb tail entries
    s) := by
  unfold execMbSqTailWrite
  with_reducible
    repeat' first
      | assumption | apply modMbox_keeps | apply KeepsO.ite | apply ite_keeps | apply foldl_keeps | apply KeepsO.next

theorem execMbCqHeadWrite_keeps (mb : Nat) (v : Nat) (s : State) {s₀ : State} {W : Nat} (hs : Keeps W s₀ s)
    (hw : Sub 256 W := by apply Sub.of; assumption; decide) : KeepsO W s₀ (execMbCqHeadWrite mb v s) := by
  unfold execMbCqHeadWrite
  with_reducible
    repeat' first
      | assumption | apply modMbox_keeps | apply KeepsO.ite | apply ite_keeps | apply KeepsO.next

theorem execMbEvHeadWrite_keeps (mb : Nat) (v : Nat) (s : State) {s₀ : State} {W : Nat} (hs : Keeps W s₀ s)
    (hw : Sub 256 W := by apply Sub.of; assumption; decide) : KeepsO W s₀ (execMbEvHeadWrite mb v s) := by
  unfold execMbEvHeadWrite
  with_reducible
    repeat' first
      | assumption | apply modMbox_keeps | apply KeepsO.ite | apply ite_keeps | apply KeepsO.next

theorem resetMbox_keeps (s : State) (m : Nat) {s₀ : State} {W : Nat} (hs : Keeps W s₀ s)
    (hw : Sub 384 W := by apply Sub.of; assumption; decide) : Keeps W s₀ (resetMbox s m) := by
  unfold resetMbox
  with_reducible
    repeat' first
      | assumption | apply ite_keeps | apply Keeps.mk_kao_mbs

theorem writeField_keeps (w : BitVec 32) (s : State) (f : Field) {s₀ : State} {W : Nat} (hs : Keeps W s₀ s)
    (hw : Sub 8 W := by apply Sub.of; assumption; decide) : Keeps W s₀ (writeField w s f) := by
  unfold writeField
  with_reducible
    repeat' first
      | assumption | apply wr_keeps | split

theorem execRegisterWrite_keeps (path : Nat) (off : Nat) (w : BitVec 32) (s : State) {s₀ : State} {W : Nat} (hs : Keeps W s₀
    s) (hw : Sub 268 W := by apply Sub.of; assumption; decide) : KeepsO W s₀ (execRegisterWrite path off w s) := by
  unfold execRegisterWrite
  with_reducible
    repeat' first
      | assumption | intro _ | apply emit_keeps | apply modMbox_keeps | apply writeField_keeps | apply KeepsO.ite
      | apply ite_keeps | apply foldl_keeps | apply KeepsO.next | exact Sub.of (by assumption) (by decide)

theorem execRcFieldRead_keeps (path : Nat) (off : Nat) (s : State) {s₀ : State} {W : Nat} (hs : Keeps W s₀ s)
    (hw : Sub 268 W := by apply Sub.of; assumption; decide) : KeepsO W s₀ (execRcFieldRead path off s) := by
  unfold execRcFieldRead
  with_reducible
    repeat' first
      | assumption | apply emit_keeps | apply wr_keeps | apply modMbox_keeps | apply ite_keeps | apply KeepsO.next
      | split | exact Sub.of (by assumption) (by decide)

theorem execCounterLowRead_keeps (path : Nat) (off : Nat) (s : State) {s₀ : State} {W : Nat} (hs : Keeps W s₀ s)
    (hw : Sub 68 W := by apply Sub.of; assumption; decide) : KeepsO W s₀ (execCounterLowRead path off s) := by
  unfold execCounterLowRead
  with_reducible
    repeat' first
      | assumption | apply emit_keeps | apply KeepsO.next | apply Keeps.mk_shadows
      | exact Sub.of (by assumption) (by decide)

theorem runRow_keeps (r : CmdRow) (h : Entry → HostIo → State → CmdOut) (e : Entry) (io : HostIo) (s : State) {s₀ : State}
    {W : Nat} (hs : Keeps W s₀ s) (hh : ∀ y0 y1 y2, Keeps W s₀ y2 → Keeps W s₀ (h y0 y1 y2).st)
    (hw : Sub 396 W := by apply Sub.of; assumption; decide) : KeepsO W s₀ (runRow r h e io s) := by
  unfold runRow
  with_reducible
    repeat' first
      | assumption | apply hh | apply mailboxCommand_keeps | apply KeepsO.next

theorem cmdDevIdentify_keeps (x1 : Entry) (x2 : HostIo) (s : State) {s₀ : State} {W : Nat} (hs : Keeps W s₀ s)
    (hw : Sub 0 W := by apply Sub.of; assumption; decide) : Keeps W s₀ (cmdDevIdentify x1 x2 s).st := by
  unfold cmdDevIdentify
  with_reducible
    repeat' first
      | assumption | apply doneCmd_keeps

theorem execDevIdentify_keeps (e : Entry) (io : HostIo) (s : State) {s₀ : State} {W : Nat} (hs : Keeps W s₀ s)
    (hw : Sub 396 W := by apply Sub.of; assumption; decide) : KeepsO W s₀ (execDevIdentify e io s) := by
  unfold execDevIdentify
  with_reducible
    repeat' first
      | assumption | intro _ | apply runRow_keeps | apply cmdDevIdentify_keeps | apply KeepsO.next
      | exact Sub.of (by assumption) (by decide)

theorem cmdDevGetState_keeps (e : Entry) (x1 : HostIo) (s : State) {s₀ : State} {W : Nat} (hs : Keeps W s₀ s)
    (hw : Sub 0 W := by apply Sub.of; assumption; decide) : Keeps W s₀ (cmdDevGetState e x1 s).st := by
  unfold cmdDevGetState
  with_reducible
    repeat' first
      | assumption | apply doneCmd_keeps

theorem execDevGetState_keeps (e : Entry) (io : HostIo) (s : State) {s₀ : State} {W : Nat} (hs : Keeps W s₀ s)
    (hw : Sub 396 W := by apply Sub.of; assumption; decide) : KeepsO W s₀ (execDevGetState e io s) := by
  unfold execDevGetState
  with_reducible
    repeat' first
      | assumption | intro _ | apply runRow_keeps | apply cmdDevGetState_keeps | apply KeepsO.next
      | exact Sub.of (by assumption) (by decide)

theorem cmdDevSetTime_keeps (e : Entry) (x1 : HostIo) (s : State) {s₀ : State} {W : Nat} (hs : Keeps W s₀ s)
    (hw : Sub 512 W := by apply Sub.of; assumption; decide) : Keeps W s₀ (cmdDevSetTime e x1 s).st := by
  unfold cmdDevSetTime
  with_reducible
    repeat' first
      | assumption | apply doneCmd_keeps | apply Keeps.mk_cal | exact Sub.of (by assumption) (by decide)

theorem execDevSetTime_keeps (e : Entry) (io : HostIo) (s : State) {s₀ : State} {W : Nat} (hs : Keeps W s₀ s)
    (hw : Sub 908 W := by apply Sub.of; assumption; decide) : KeepsO W s₀ (execDevSetTime e io s) := by
  unfold execDevSetTime
  with_reducible
    repeat' first
      | assumption | intro _ | apply runRow_keeps | apply cmdDevSetTime_keeps | apply KeepsO.next
      | exact Sub.of (by assumption) (by decide)

theorem withOutput_keeps (e : Entry) (io : HostIo) (iova : Nat) (b : Bytes) (res : Bytes) (s : State) {s₀ : State} {W : Nat}
    (hs : Keeps W s₀ s) (hw : Sub 12 W := by apply Sub.of; assumption; decide) : Keeps W s₀ (withOutput e io iova b res
    s).st := by
  unfold withOutput
  with_reducible
    repeat' first
      | assumption | apply emit_keeps | apply bump_keeps | apply ite_keeps | split
      | exact Sub.of (by assumption) (by decide)

end Sys2Proof.Machine
end

