-- ==== Sys2Proof/Laws/KeepCaliche.lean ====
section
/-!
SUPPORT. The operations of Caliche keep the queue, the count of free values and the forms of memory and registers.
-/

set_option Elab.async false

namespace Sys2Proof.Machine

theorem cmdFaultLogRead_keeps (e : Entry) (io : HostIo) (s : State) {s₀ : State} {W : Nat} (hs : Keeps W s₀ s)
    (hw : Sub 12 W := by apply Sub.of; assumption; decide) : Keeps W s₀ (cmdFaultLogRead e io s).st := by
  unfold cmdFaultLogRead
  with_reducible
    repeat' first
      | assumption | apply refuseCmd_keeps | apply withOutput_keeps | apply ite_keeps | split | dsimp only
      | exact Sub.of (by assumption) (by decide)

theorem execFaultLogRead_keeps (e : Entry) (io : HostIo) (s : State) {s₀ : State} {W : Nat} (hs : Keeps W s₀ s)
    (hw : Sub 396 W := by apply Sub.of; assumption; decide) : KeepsO W s₀ (execFaultLogRead e io s) := by
  unfold execFaultLogRead
  with_reducible
    repeat' first
      | assumption | intro _ | apply runRow_keeps | apply cmdFaultLogRead_keeps | apply KeepsO.next
      | exact Sub.of (by assumption) (by decide)

theorem cmdFaultPolicySet_keeps (e : Entry) (x1 : HostIo) (s : State) {s₀ : State} {W : Nat} (hs : Keeps W s₀ s)
    (hw : Sub 8 W := by apply Sub.of; assumption; decide) : Keeps W s₀ (cmdFaultPolicySet e x1 s).st := by
  unfold cmdFaultPolicySet
  with_reducible
    repeat' first
      | assumption | apply wr_keeps | apply refuseCmd_keeps | apply doneCmd_keeps | apply ite_keeps | split | dsimp only
      | exact Sub.of (by assumption) (by decide)

theorem execFaultPolicySet_keeps (e : Entry) (io : HostIo) (s : State) {s₀ : State} {W : Nat} (hs : Keeps W s₀ s)
    (hw : Sub 396 W := by apply Sub.of; assumption; decide) : KeepsO W s₀ (execFaultPolicySet e io s) := by
  unfold execFaultPolicySet
  with_reducible
    repeat' first
      | assumption | intro _ | apply runRow_keeps | apply cmdFaultPolicySet_keeps | apply KeepsO.next
      | exact Sub.of (by assumption) (by decide)

theorem cmdUnitFence_keeps (e : Entry) (x1 : HostIo) (s : State) {s₀ : State} {W : Nat} (hs : Keeps W s₀ s)
    (hw : Sub 512 W := by apply Sub.of; assumption; decide) : Keeps W s₀ (cmdUnitFence e x1 s).st := by
  unfold cmdUnitFence
  with_reducible
    repeat' first
      | assumption | apply refuseCmd_keeps | apply waitCmd_keeps | apply ite_keeps | apply ite_keeps_st
      | apply Keeps.mk_cal | exact Sub.of (by assumption) (by decide)

theorem execUnitFence_keeps (e : Entry) (io : HostIo) (s : State) {s₀ : State} {W : Nat} (hs : Keeps W s₀ s)
    (hw : Sub 908 W := by apply Sub.of; assumption; decide) : KeepsO W s₀ (execUnitFence e io s) := by
  unfold execUnitFence
  with_reducible
    repeat' first
      | assumption | intro _ | apply runRow_keeps | apply cmdUnitFence_keeps | apply KeepsO.next
      | exact Sub.of (by assumption) (by decide)

theorem clearFence_keeps (s : State) (t : Nat) (n : Nat) {s₀ : State} {W : Nat} (hs : Keeps W s₀ s)
    (hw : Sub 8 W := by apply Sub.of; assumption; decide) : Keeps W s₀ (clearFence s t n) := by
  unfold clearFence
  with_reducible
    repeat' first
      | assumption | apply wr_keeps | split

theorem cmdUnitUnfence_keeps (e : Entry) (x1 : HostIo) (s : State) {s₀ : State} {W : Nat} (hs : Keeps W s₀ s)
    (hw : Sub 520 W := by apply Sub.of; assumption; decide) : Keeps W s₀ (cmdUnitUnfence e x1 s).st := by
  unfold cmdUnitUnfence
  with_reducible
    repeat' first
      | assumption | apply refuseCmd_keeps | apply doneCmd_keeps | apply clearFence_keeps | apply ite_keeps
      | apply ite_keeps_st | apply Keeps.mk_cal | exact Sub.of (by assumption) (by decide)

theorem execUnitUnfence_keeps (e : Entry) (io : HostIo) (s : State) {s₀ : State} {W : Nat} (hs : Keeps W s₀ s)
    (hw : Sub 908 W := by apply Sub.of; assumption; decide) : KeepsO W s₀ (execUnitUnfence e io s) := by
  unfold execUnitUnfence
  with_reducible
    repeat' first
      | assumption | intro _ | apply runRow_keeps | apply cmdUnitUnfence_keeps | apply KeepsO.next
      | exact Sub.of (by assumption) (by decide)

theorem deliverTo_keeps (n : Nat) (s : State) {s₀ : State} {W : Nat} (hs : Keeps W s₀ s)
    (hw : Sub 520 W := by apply Sub.of; assumption; decide) : Keeps W s₀ (deliverTo n s) := by
  unfold deliverTo
  with_reducible
    repeat' first
      | assumption | intro _ | apply wr_keeps | apply ite_keeps | apply foldl_keeps | apply Keeps.mk_cal
      | exact Sub.of (by assumption) (by decide)

theorem sendGroups_keeps (addr port i : Nat) (gs : List (List Bytes)) (s : State) {s₀ : State} {W : Nat} (hs : Keeps W s₀ s) (hw : Sub 12 W := by apply Sub.of; assumption; decide) :
    Keeps W s₀ (sendGroups addr port i gs s) := by
  induction gs generalizing i s with
  | nil => exact hs
  | cons g r ih => exact ih _ _ (bump_keeps _ _ (emit_keeps _ hs))

theorem sendStaem_keeps (a : Nat) (s : State) {s₀ : State} {W : Nat} (hs : Keeps W s₀ s)
    (hw : Sub 524 W := by apply Sub.of; assumption; decide) : Keeps W s₀ (sendStaem a s) := by
  unfold sendStaem
  with_reducible
    repeat' first
      | assumption | apply sendGroups_keeps | apply ite_keeps | split | apply Keeps.mk_cal
      | exact Sub.of (by assumption) (by decide)

theorem execStaemSend_keeps (s : State) {s₀ : State} {W : Nat} (hs : Keeps W s₀ s)
    (hw : Sub 524 W := by apply Sub.of; assumption; decide) : KeepsO W s₀ (execStaemSend s) := by
  unfold execStaemSend
  with_reducible
    repeat' first
      | assumption | apply sendStaem_keeps | apply KeepsO.next

theorem execStaemResendTimer_keeps (s : State) {s₀ : State} {W : Nat} (hs : Keeps W s₀ s)
    (hw : Sub 524 W := by apply Sub.of; assumption; decide) : KeepsO W s₀ (execStaemResendTimer s) := by
  unfold execStaemResendTimer
  with_reducible
    repeat' first
      | assumption | apply sendStaem_keeps | apply KeepsO.ite | apply ite_keeps | apply KeepsO.next

theorem execStaemCollectorAck_keeps (addr : Nat) (first : Nat) (s : State) {s₀ : State} {W : Nat} (hs : Keeps W s₀ s)
    (hw : Sub 520 W := by apply Sub.of; assumption; decide) : KeepsO W s₀ (execStaemCollectorAck addr first s) := by
  unfold execStaemCollectorAck
  with_reducible
    repeat' first
      | assumption | apply deliverTo_keeps | apply ite_keeps | apply KeepsO.next | split

theorem mcTp_keeps (s : State) (f : State → State) {s₀ : State} {W : Nat} (hs : Keeps W s₀ s) (hf : ∀ y0, Keeps W s₀ y0 →
    Keeps W s₀ (f y0)) (hw : Sub 0 W := by apply Sub.of; assumption; decide) : KeepsO W s₀ (mcTp s f) := by
  unfold mcTp
  with_reducible
    repeat' first
      | assumption | apply hf | apply KeepsO.ite | apply ite_keeps | apply KeepsO.next

theorem execStaemGet_keeps (idx : Nat) (s : State) {s₀ : State} {W : Nat} (hs : Keeps W s₀ s)
    (hw : Sub 4 W := by apply Sub.of; assumption; decide) : KeepsO W s₀ (execStaemGet idx s) := by
  unfold execStaemGet
  with_reducible
    repeat' first
      | assumption | intro _ | apply emit_keeps | apply mcTp_keeps | apply KeepsO.next | split
      | exact Sub.of (by assumption) (by decide)

theorem execStaemSetCollector_keeps (addr : Nat) (port : Nat) (s : State) {s₀ : State} {W : Nat} (hs : Keeps W s₀ s)
    (hw : Sub 524 W := by apply Sub.of; assumption; decide) : KeepsO W s₀ (execStaemSetCollector addr port s) := by
  unfold execStaemSetCollector
  with_reducible
    repeat' first
      | assumption | intro _ | apply wrb_keeps | apply emit_keeps | apply mcTp_keeps | apply ite_keeps
      | apply KeepsO.next | apply Keeps.mk_cal | exact Sub.of (by assumption) (by decide)

theorem execStaemAck_keeps (idx : Nat) (s : State) {s₀ : State} {W : Nat} (hs : Keeps W s₀ s)
    (hw : Sub 524 W := by apply Sub.of; assumption; decide) : KeepsO W s₀ (execStaemAck idx s) := by
  unfold execStaemAck
  with_reducible
    repeat' first
      | assumption | intro _ | apply emit_keeps | apply deliverTo_keeps | apply mcTp_keeps | apply KeepsO.next
      | exact Sub.of (by assumption) (by decide)

theorem execCalicheStatus_keeps (s : State) {s₀ : State} {W : Nat} (hs : Keeps W s₀ s)
    (hw : Sub 4 W := by apply Sub.of; assumption; decide) : KeepsO W s₀ (execCalicheStatus s) := by
  unfold execCalicheStatus
  with_reducible
    repeat' first
      | assumption | intro _ | apply emit_keeps | apply mcTp_keeps | apply KeepsO.next
      | exact Sub.of (by assumption) (by decide)

theorem tableUe_keeps (n : Nat) (s : State) {s₀ : State} {W : Nat} (hs : Keeps W s₀ s)
    (hw : Sub 67108864 W := by apply Sub.of; assumption; decide) : Keeps W s₀ (tableUe n s) := by
  unfold tableUe
  with_reducible
    repeat' first
      | assumption | apply Keeps.mk_srv

theorem latchError_keeps (x : ErrIn) (s : State) {s₀ : State} {W : Nat} (hs : Keeps W s₀ s)
    (hw : Sub 67130252 W := by apply Sub.of; assumption; decide) : Keeps W s₀ (latchError x s) := by
  unfold latchError
  with_reducible
    repeat' first
      | assumption | apply bump_keeps | apply orReg_keeps | apply raiseWith_keeps | apply raiseBit_keeps
      | apply tableUe_keeps | apply report_keeps | apply failFrame_keeps | apply ite_keeps | split | exact Sub.of (by assumption) (by decide)

theorem execErrorLatchRaise_keeps (x : ErrIn) (s : State) {s₀ : State} {W : Nat} (hs : Keeps W s₀ s)
    (hw : Sub 67130252 W := by apply Sub.of; assumption; decide) : KeepsO W s₀ (execErrorLatchRaise x s) := by
  unfold execErrorLatchRaise
  with_reducible
    repeat' first
      | assumption | apply latchError_keeps | apply KeepsO.next

theorem execLeakyLeak_keeps (s : State) {s₀ : State} {W : Nat} (hs : Keeps W s₀ s)
    (hw : Sub 512 W := by apply Sub.of; assumption; decide) : KeepsO W s₀ (execLeakyLeak s) := by
  unfold execLeakyLeak
  with_reducible
    repeat' first
      | assumption | apply KeepsO.next | apply Keeps.mk_cal

theorem execCeRateSecond_keeps (s : State) {s₀ : State} {W : Nat} (hs : Keeps W s₀ s)
    (hw : Sub 512 W := by apply Sub.of; assumption; decide) : KeepsO W s₀ (execCeRateSecond s) := by
  unfold execCeRateSecond
  with_reducible
    repeat' first
      | assumption | apply KeepsO.next | apply Keeps.mk_cal

theorem execCalicheLockstepMismatch_keeps (s : State) {s₀ : State} {W : Nat} (hs : Keeps W s₀ s)
    (hw : Sub 5004 W := by apply Sub.of; assumption; decide) : KeepsO W s₀ (execCalicheLockstepMismatch s) := by
  unfold execCalicheLockstepMismatch
  with_reducible
    repeat' first
      | assumption | apply wr_keeps | apply bump_keeps | apply stopAll_keeps | apply writeRecord_keeps
      | apply KeepsO.ite | apply ite_keeps | apply KeepsO.next | apply Keeps.mk_cal
      | exact Sub.of (by assumption) (by decide)

theorem collectLatch_keeps (s : State) (l : ErrLatch) {s₀ : State} {W : Nat} (hs : Keeps W s₀ s)
    (hw : Sub 5004 W := by apply Sub.of; assumption; decide) : Keeps W s₀ (collectLatch s l) := by
  unfold collectLatch
  with_reducible
    repeat' first
      | assumption | apply writeRecord_keeps | apply ite_keeps

theorem collectLatches_keeps (s : State) {s₀ : State} {W : Nat} (hs : Keeps W s₀ s)
    (hw : Sub 5004 W := by apply Sub.of; assumption; decide) : Keeps W s₀ (collectLatches s) := by
  unfold collectLatches
  with_reducible
    repeat' first
      | assumption | intro _ | apply collectLatch_keeps | apply foldl_keeps | apply Keeps.mk_cal
      | exact Sub.of (by assumption) (by decide)

theorem execCalicheRestartDone_keeps (s : State) {s₀ : State} {W : Nat} (hs : Keeps W s₀ s)
    (hw : Sub 5004 W := by apply Sub.of; assumption; decide) : KeepsO W s₀ (execCalicheRestartDone s) := by
  unfold execCalicheRestartDone
  with_reducible
    repeat' first
      | assumption | apply wr_keeps | apply calEvent_keeps | apply collectLatches_keeps | apply KeepsO.ite
      | apply ite_keeps | apply KeepsO.next | apply Keeps.mk_cal | exact Sub.of (by assumption) (by decide)

theorem execKaolinHeartbeat_keeps (s : State) {s₀ : State} {W : Nat} (hs : Keeps W s₀ s)
    (hw : Sub 8 W := by apply Sub.of; assumption; decide) : KeepsO W s₀ (execKaolinHeartbeat s) := by
  unfold execKaolinHeartbeat
  with_reducible
    repeat' first
      | assumption | apply wr_keeps | apply KeepsO.ite | apply ite_keeps | apply KeepsO.next

theorem hubFailed_keeps (s : State) {s₀ : State} {W : Nat} (hs : Keeps W s₀ s)
    (hw : Sub 4104 W := by apply Sub.of; assumption; decide) : Keeps W s₀ (hubFailed s) := by
  unfold hubFailed
  with_reducible
    repeat' first
      | assumption | apply wr_keeps | apply stopAll_keeps | exact Sub.of (by assumption) (by decide)

theorem execKaolinHeartbeatLost_keeps (s : State) {s₀ : State} {W : Nat} (hs : Keeps W s₀ s)
    (hw : Sub 5004 W := by apply Sub.of; assumption; decide) : KeepsO W s₀ (execKaolinHeartbeatLost s) := by
  unfold execKaolinHeartbeatLost
  with_reducible
    repeat' first
      | assumption | apply wr_keeps | apply bump_keeps | apply calEvent_keeps | apply writeRecord_keeps
      | apply hubFailed_keeps | apply KeepsO.ite | apply ite_keeps | apply KeepsO.next | apply Keeps.mk_kao_cal
      | exact Sub.of (by assumption) (by decide)

theorem interruptAll_keeps (s : State) {s₀ : State} {W : Nat} (hs : Keeps W s₀ s)
    (hw : Sub 396 W := by apply Sub.of; assumption; decide) : Keeps W s₀ (interruptAll s) := by
  unfold interruptAll
  with_reducible
    repeat' first
      | assumption | intro _ | apply outcome_keeps | apply endWaiting_keeps | apply foldl_keeps | apply Keeps.mk_kao
      | exact Sub.of (by assumption) (by decide)

theorem execKaolinRecovered_keeps (s : State) {s₀ : State} {W : Nat} (hs : Keeps W s₀ s)
    (hw : Sub 396 W := by apply Sub.of; assumption; decide) : KeepsO W s₀ (execKaolinRecovered s) := by
  unfold execKaolinRecovered
  with_reducible
    repeat' first
      | assumption | apply wr_keeps | apply interruptAll_keeps | apply KeepsO.ite | apply ite_keeps | apply KeepsO.next
      | apply Keeps.mk_kao | exact Sub.of (by assumption) (by decide)

theorem execHubFailTimeout_keeps (s : State) {s₀ : State} {W : Nat} (hs : Keeps W s₀ s)
    (hw : Sub 4104 W := by apply Sub.of; assumption; decide) : KeepsO W s₀ (execHubFailTimeout s) := by
  unfold execHubFailTimeout
  with_reducible
    repeat' first
      | assumption | apply hubFailed_keeps | apply KeepsO.ite | apply ite_keeps | apply KeepsO.next

end Sys2Proof.Machine
end

