-- ==== Sys2Proof/Laws/KeepFabric.lean ====
section
/-!
SUPPORT. The operations of Fabric keep the queue, the count of free values and the forms of memory and registers.
-/

set_option Elab.async false

namespace Sys2Proof.Machine

theorem setSub_keeps (s : State) (b : Nat) (pos : Nat) (l : Nat) {s₀ : State} {W : Nat} (hs : Keeps W s₀ s)
    (hw : Sub 32768 W := by apply Sub.of; assumption; decide) : Keeps W s₀ (setSub s b pos l) := by
  unfold setSub
  with_reducible
    repeat' first
      | assumption | apply ite_keeps | apply Keeps.mk_fab

theorem refreshBundle_keeps (b : Nat) (s : State) {s₀ : State} {W : Nat} (hs : Keeps W s₀ s)
    (hw : Sub 8 W := by apply Sub.of; assumption; decide) : Keeps W s₀ (refreshBundle b s) := by
  unfold refreshBundle
  with_reducible
    repeat' first
      | assumption | apply wrb_keeps | apply wr_keeps

theorem refreshLink_keeps (l : Nat) (s : State) {s₀ : State} {W : Nat} (hs : Keeps W s₀ s)
    (hw : Sub 8 W := by apply Sub.of; assumption; decide) : Keeps W s₀ (refreshLink l s) := by
  unfold refreshLink
  with_reducible
    repeat' first
      | assumption | apply wr_keeps

theorem modLink_keeps (s : State) (l : Nat) (f : LinkX → LinkX) {s₀ : State} {W : Nat} (hs : Keeps W s₀ s)
    (hw : Sub 32768 W := by apply Sub.of; assumption; decide) : Keeps W s₀ (modLink s l f) := by
  unfold modLink
  with_reducible
    repeat' first
      | assumption | apply Keeps.mk_fab

theorem rtrEvent_keeps (f : Field) (b : Nat) (inst : Nat) (s : State) {s₀ : State} {W : Nat} (hs : Keeps W s₀ s)
    (hw : Sub 396 W := by apply Sub.of; assumption; decide) : Keeps W s₀ (rtrEvent f b inst s) := by
  unfold rtrEvent
  with_reducible
    repeat' first
      | assumption | apply setEvent_keeps

theorem linkError_keeps (f : Field) (b : Nat) (l : Nat) (sev : Nat) (feeds : Bool) (s : State) {s₀ : State} {W : Nat} (hs :
    Keeps W s₀ s) (hw : Sub 5004 W := by apply Sub.of; assumption; decide) : Keeps W s₀ (linkError f b l sev feeds s) := by
  unfold linkError
  with_reducible
    repeat' first
      | assumption | apply unitError_keeps

theorem noteSub_keeps (r : SubReq) (s : State) {s₀ : State} {W : Nat} (hs : Keeps W s₀ s)
    (hw : Sub 32768 W := by apply Sub.of; assumption; decide) : Keeps W s₀ (noteSub r s) := by
  unfold noteSub
  with_reducible
    repeat' first
      | assumption | apply ite_keeps | split | apply Keeps.mk_fab

theorem leaveService_keeps (l : Nat) (reason : Nat) (eff : Nat) (s : State) {s₀ : State} {W : Nat} (hs : Keeps W s₀ s)
    (hw : Sub 33164 W := by apply Sub.of; assumption; decide) : Keeps W s₀ (leaveService l reason eff s) := by
  unfold leaveService
  with_reducible
    repeat' first
      | assumption | apply wr_keeps | apply sendSymbol_keeps | apply refreshBundle_keeps | apply rtrEvent_keeps
      | apply noteSub_keeps | apply ite_keeps | exact Sub.of (by assumption) (by decide)

theorem moveFlits_keeps (frm : Nat) (dst : Nat) (s : State) {s₀ : State} {W : Nat} (hs : Keeps W s₀ s)
    (hw : Sub 32768 W := by apply Sub.of; assumption; decide) : Keeps W s₀ (moveFlits frm dst s) := by
  unfold moveFlits
  with_reducible
    repeat' first
      | assumption | apply modLink_keeps

theorem sendPacket_keeps (type : Nat) (rsp : Bool) (dest spart flow : Nat) (b : Bytes) (s : State) {s₀ : State} {W : Nat}
    (hs : Keeps W s₀ s) (hw : Sub 32776 W := by apply Sub.of; assumption; decide) : ∀ t, sendPacket type rsp dest spart flow b s = some t → Keeps W s₀ t := by
  intro t e
  unfold sendPacket at e
  split at e
  · cases e
    split
    · exact Keeps.mk_fab _ hs
    · exact Keeps.mk_fab _ hs
  · split at e
    · cases e
      refine modLink_keeps _ _ _ ?_
      split
      · exact bump_keeps _ _ hs
      · exact hs
    · cases e

theorem sendPacket_getD_keeps (type : Nat) (rsp : Bool) (dest spart flow : Nat) (b : Bytes) (s : State) {s₀ : State} {W : Nat}
    (hs : Keeps W s₀ s) (hw : Sub 32776 W := by apply Sub.of; assumption; decide) : Keeps W s₀ ((sendPacket type rsp dest spart flow b s).getD s) := by
  cases e : sendPacket type rsp dest spart flow b s with
  | none => exact hs
  | some t => exact sendPacket_keeps _ _ _ _ _ _ _ hs (by apply Sub.of; assumption; decide) t e

theorem electStandby_keeps (s : State) {s₀ : State} {W : Nat} (hs : Keeps W s₀ s)
    (hw : Sub 8 W := by apply Sub.of; assumption; decide) : Keeps W s₀ (electStandby s) := by
  unfold electStandby
  with_reducible
    repeat' first
      | assumption | apply wr_keeps | apply ite_keeps | apply foldl_keeps | split | dsimp only

theorem takeover_keeps (s : State) {s₀ : State} {W : Nat} (hs : Keeps W s₀ s)
    (hw : Sub 16780 W := by apply Sub.of; assumption; decide) : Keeps W s₀ (takeover s) := by
  unfold takeover
  with_reducible
    repeat' first
      | assumption | apply wr_keeps | apply bump_keeps | apply tickEvent_keeps | apply Keeps.mk_tick
      | exact Sub.of (by assumption) (by decide)

theorem accuse_keeps (accused : Nat) (s : State) {s₀ : State} {W : Nat} (hs : Keeps W s₀ s)
    (hw : Sub 16780 W := by apply Sub.of; assumption; decide) : Keeps W s₀ (accuse accused s) := by
  unfold accuse
  with_reducible
    repeat' first
      | assumption | apply takeover_keeps | apply ite_keeps | apply Keeps.mk_tick
      | exact Sub.of (by assumption) (by decide)

theorem floodReport_keeps (reporter : Nat) (accused : Nat) (frame : Nat) (s : State) {s₀ : State} {W : Nat} (hs : Keeps W s₀
    s) (hw : Sub 16780 W := by apply Sub.of; assumption; decide) : Keeps W s₀ (floodReport reporter accused frame s) := by
  unfold floodReport
  with_reducible
    repeat' first
      | assumption | apply sendSymbol_keeps | apply accuse_keeps | apply ite_keeps | apply Keeps.mk_tick
      | exact Sub.of (by assumption) (by decide)

theorem edgeReject_keeps (l : Nat) (n : Nat) (s : State) {s₀ : State} {W : Nat} (hs : Keeps W s₀ s)
    (hw : Sub 54156 W := by apply Sub.of; assumption; decide) : Keeps W s₀ (edgeReject l n s) := by
  unfold edgeReject
  with_reducible
    repeat' first
      | assumption | apply wr_keeps | apply bump_keeps | apply tickEvent_keeps | apply linkError_keeps
      | apply floodReport_keeps | apply ite_keeps | apply Keeps.mk_fab | exact Sub.of (by assumption) (by decide)

theorem putCtl_keeps (dst mtype mseq : Nat) (hdr body : Bytes) (s : State) {s₀ : State} {W : Nat} (hs : Keeps W s₀ s) (hw : Sub 32780 W := by apply Sub.of; assumption; decide) :
    Keeps W s₀ (putCtl dst mtype mseq hdr body s) := by
  unfold putCtl
  split
  · rename_i t e
    exact emit_keeps _ (sendPacket_keeps _ _ _ _ _ _ _ hs (by apply Sub.of; assumption; decide) t e)
  · exact hs

theorem sendCtl_keeps (dst : Nat) (mtype : Nat) (ct : CtlTo) (replyTo : Nat) (body : Bytes) (rep : Bool) (s : State) {s₀ :
    State} {W : Nat} (hs : Keeps W s₀ s) (hw : Sub 32780 W := by apply Sub.of; assumption; decide) : Keeps W s₀ (sendCtl dst
    mtype ct replyTo body rep s) := by
  unfold sendCtl
  with_reducible
    repeat' first
      | assumption | apply putCtl_keeps | apply ite_keeps | apply Keeps.mk_fab
      | exact Sub.of (by assumption) (by decide)

theorem answerCtl_keeps (h : CtlHdr) (a : CtlAnswer) (s : State) {s₀ : State} {W : Nat} (hs : Keeps W s₀ s)
    (hw : Sub 32780 W := by apply Sub.of; assumption; decide) : Keeps W s₀ (answerCtl h a s) := by
  unfold answerCtl
  with_reducible
    repeat' first
      | assumption | apply sendCtl_keeps | split

theorem dropCtl_keeps (s : State) {s₀ : State} {W : Nat} (hs : Keeps W s₀ s)
    (hw : Sub 396 W := by apply Sub.of; assumption; decide) : Keeps W s₀ (dropCtl s) := by
  unfold dropCtl
  with_reducible
    repeat' first
      | assumption | apply bump_keeps | apply rtrEvent_keeps | exact Sub.of (by assumption) (by decide)

theorem noteSeen_keeps (c : CtlSeen) (s : State) {s₀ : State} {W : Nat} (hs : Keeps W s₀ s)
    (hw : Sub 32768 W := by apply Sub.of; assumption; decide) : Keeps W s₀ (noteSeen c s) := by
  unfold noteSeen
  with_reducible
    repeat' first
      | assumption | apply Keeps.mk_fab

theorem answered_keeps (h : CtlHdr) (s : State) {s₀ : State} {W : Nat} (hs : Keeps W s₀ s)
    (hw : Sub 32768 W := by apply Sub.of; assumption; decide) : Keeps W s₀ (answered h s) := by
  unfold answered
  with_reducible
    repeat' first
      | assumption | apply Keeps.mk_fab

theorem applyCtl_keeps (h : CtlHdr) (f : State → CtlAnswer × State) (s : State) {s₀ : State} {W : Nat} (hs : Keeps W s₀ s)
    (hf : ∀ t, Keeps W s₀ t → Keeps W s₀ (f t).2) (hw : Sub 33164 W := by apply Sub.of; assumption; decide) : Keeps W s₀ (applyCtl h f s) := by
  have h1 : Keeps W s₀ (answered h s) := answered_keeps h s hs
  unfold applyCtl
  dsimp only
  split
  · exact answerCtl_keeps _ _ _ h1
  · split
    · exact answerCtl_keeps _ _ _ (noteSeen_keeps _ _ (hf _ h1))
    · exact answerCtl_keeps _ _ _ (setEvent_keeps _ _ _ _ _ _ _ _ (bump_keeps _ _ h1))

end Sys2Proof.Machine
end

