-- ==== Sys2Proof/Laws/KeepLinks.lean ====
section
/-!
SUPPORT. The operations of Links keep the queue, the count of free values and the forms of memory and registers.
-/

set_option Elab.async false

namespace Sys2Proof.Machine

theorem startTrain_keeps (l : Nat) (s : State) {s₀ : State} {W : Nat} (hs : Keeps W s₀ s)
    (hw : Sub 32776 W := by apply Sub.of; assumption; decide) : Keeps W s₀ (startTrain l s) := by
  unfold startTrain
  with_reducible
    repeat' first
      | assumption | apply wr_keeps | apply modLink_keeps | exact Sub.of (by assumption) (by decide)

theorem trainFault_keeps (l : Nat) (reason : Nat) (s : State) {s₀ : State} {W : Nat} (hs : Keeps W s₀ s)
    (hw : Sub 8 W := by apply Sub.of; assumption; decide) : Keeps W s₀ (trainFault l reason s) := by
  unfold trainFault
  with_reducible
    repeat' first
      | assumption | apply wr_keeps

theorem powerOutcome_keeps (st : Nat) (s : State) {s₀ : State} {W : Nat} (hs : Keeps W s₀ s)
    (hw : Sub 1420 W := by apply Sub.of; assumption; decide) : Keeps W s₀ (powerOutcome st s) := by
  unfold powerOutcome
  with_reducible
    repeat' first
      | assumption | apply outcome_keeps | split | apply Keeps.mk_pwr | exact Sub.of (by assumption) (by decide)

theorem mapCheck_keeps (s : State) {s₀ : State} {W : Nat} (hs : Keeps W s₀ s)
    (hw : Sub 16392 W := by apply Sub.of; assumption; decide) : Keeps W s₀ (mapCheck s) := by
  unfold mapCheck
  with_reducible
    repeat' first
      | assumption | apply wrb_keeps | apply ite_keeps | apply Keeps.mk_tick | exact Sub.of (by assumption) (by decide)

theorem enterTopo_keeps (s : State) {s₀ : State} {W : Nat} (hs : Keeps W s₀ s)
    (hw : Sub 17804 W := by apply Sub.of; assumption; decide) : Keeps W s₀ (enterTopo s) := by
  unfold enterTopo
  with_reducible
    repeat' first
      | assumption | apply setPstate_keeps | apply powerOutcome_keeps | apply mapCheck_keeps | apply ite_keeps
      | exact Sub.of (by assumption) (by decide)

theorem enterMismatch_keeps (l : Nat) (s : State) {s₀ : State} {W : Nat} (hs : Keeps W s₀ s)
    (hw : Sub 5004 W := by apply Sub.of; assumption; decide) : Keeps W s₀ (enterMismatch l s) := by
  unfold enterMismatch
  with_reducible
    repeat' first
      | assumption | apply wr_keeps | apply rtrEvent_keeps | apply linkError_keeps
      | exact Sub.of (by assumption) (by decide)

theorem finishTrain_keeps (l : Nat) (s : State) {s₀ : State} {W : Nat} (hs : Keeps W s₀ s)
    (hw : Sub 54156 W := by apply Sub.of; assumption; decide) : Keeps W s₀ (finishTrain l s) := by
  unfold finishTrain
  with_reducible
    repeat' first
      | assumption | apply wr_keeps | apply refreshBundle_keeps | apply refreshLink_keeps | apply mapCheck_keeps
      | apply enterMismatch_keeps | apply ite_keeps | apply Keeps.mk_fab | exact Sub.of (by assumption) (by decide)

theorem trainingStep_keeps (l : Nat) (s : State) {s₀ : State} {W : Nat} (hs : Keeps W s₀ s)
    (hw : Sub 54156 W := by apply Sub.of; assumption; decide) : Keeps W s₀ (trainingStep l s) := by
  unfold trainingStep
  with_reducible
    repeat' first
      | assumption | apply wr_keeps | apply modLink_keeps | apply trainFault_keeps | apply finishTrain_keeps
      | apply ite_keeps | split | exact Sub.of (by assumption) (by decide)

theorem execTrainingStepDone_keeps (l : Nat) (s : State) {s₀ : State} {W : Nat} (hs : Keeps W s₀ s)
    (hw : Sub 54156 W := by apply Sub.of; assumption; decide) : KeepsO W s₀ (execTrainingStepDone l s) := by
  unfold execTrainingStepDone
  with_reducible
    repeat' first
      | assumption | apply trainingStep_keeps | apply ite_keeps | apply KeepsO.next

theorem execTrainingStepTimeout_keeps (l : Nat) (s : State) {s₀ : State} {W : Nat} (hs : Keeps W s₀ s)
    (hw : Sub 8 W := by apply Sub.of; assumption; decide) : KeepsO W s₀ (execTrainingStepTimeout l s) := by
  unfold execTrainingStepTimeout
  with_reducible
    repeat' first
      | assumption | apply trainFault_keeps | apply ite_keeps | apply KeepsO.next | split

theorem execRetrainTimer_keeps (l : Nat) (s : State) {s₀ : State} {W : Nat} (hs : Keeps W s₀ s)
    (hw : Sub 32776 W := by apply Sub.of; assumption; decide) : KeepsO W s₀ (execRetrainTimer l s) := by
  unfold execRetrainTimer
  with_reducible
    repeat' first
      | assumption | apply bump_keeps | apply startTrain_keeps | apply KeepsO.ite | apply ite_keeps | apply KeepsO.next
      | exact Sub.of (by assumption) (by decide)

theorem execLinkRetrain_keeps (l : Nat) (s : State) {s₀ : State} {W : Nat} (hs : Keeps W s₀ s)
    (hw : Sub 32776 W := by apply Sub.of; assumption; decide) : KeepsO W s₀ (execLinkRetrain l s) := by
  unfold execLinkRetrain
  with_reducible
    repeat' first
      | assumption | apply wr_keeps | apply bump_keeps | apply startTrain_keeps | apply KeepsO.ite | apply ite_keeps
      | apply KeepsO.next | exact Sub.of (by assumption) (by decide)

theorem execLinkOut_keeps (l : Nat) (s : State) {s₀ : State} {W : Nat} (hs : Keeps W s₀ s)
    (hw : Sub 33164 W := by apply Sub.of; assumption; decide) : KeepsO W s₀ (execLinkOut l s) := by
  unfold execLinkOut
  with_reducible
    repeat' first
      | assumption | apply leaveService_keeps | apply KeepsO.next

theorem execLinkDisable_keeps (l : Nat) (on : Bool) (s : State) {s₀ : State} {W : Nat} (hs : Keeps W s₀ s)
    (hw : Sub 33164 W := by apply Sub.of; assumption; decide) : KeepsO W s₀ (execLinkDisable l on s) := by
  unfold execLinkDisable
  with_reducible
    repeat' first
      | assumption | apply wrb_keeps | apply wr_keeps | apply leaveService_keeps | apply startTrain_keeps
      | apply KeepsO.ite | apply ite_keeps | apply KeepsO.next | exact Sub.of (by assumption) (by decide)

theorem execLaneLockLoss_keeps (l : Nat) (lane : Nat) (fecAlign : Bool) (s : State) {s₀ : State} {W : Nat} (hs : Keeps W s₀
    s) (hw : Sub 37772 W := by apply Sub.of; assumption; decide) : KeepsO W s₀ (execLaneLockLoss l lane fecAlign s) := by
  unfold execLaneLockLoss
  with_reducible
    repeat' first
      | assumption | apply wr_keeps | apply linkError_keeps | apply leaveService_keeps | apply KeepsO.ite
      | apply ite_keeps | apply KeepsO.next | exact Sub.of (by assumption) (by decide)

theorem execFecUeLimit_keeps (l : Nat) (count : Nat) (s : State) {s₀ : State} {W : Nat} (hs : Keeps W s₀ s)
    (hw : Sub 37772 W := by apply Sub.of; assumption; decide) : KeepsO W s₀ (execFecUeLimit l count s) := by
  unfold execFecUeLimit
  with_reducible
    repeat' first
      | assumption | apply bump_keeps | apply linkError_keeps | apply leaveService_keeps | apply KeepsO.ite
      | apply ite_keeps | apply KeepsO.next | exact Sub.of (by assumption) (by decide)

theorem badSymbol_keeps (s : State) {s₀ : State} {W : Nat} (hs : Keeps W s₀ s)
    (hw : Sub 396 W := by apply Sub.of; assumption; decide) : Keeps W s₀ (badSymbol s) := by
  unfold badSymbol
  with_reducible
    repeat' first
      | assumption | apply bump_keeps | apply rtrEvent_keeps | exact Sub.of (by assumption) (by decide)

theorem execAbortSymbolReceive_keeps (l : Nat) (crcOk : Bool) (kind : Nat) (frame : Nat) (slices : List Nat) (s : State) {s₀
    : State} {W : Nat} (hs : Keeps W s₀ s) (hw : Sub 16780 W := by apply Sub.of; assumption; decide) : KeepsO W s₀
    (execAbortSymbolReceive l crcOk kind frame slices s) := by
  unfold execAbortSymbolReceive
  with_reducible
    repeat' first
      | assumption | apply bump_keeps | apply floodAbort_keeps | apply badSymbol_keeps | apply KeepsO.ite
      | apply ite_keeps | apply foldl_keeps | apply KeepsO.next | apply Keeps.mk_tick
      | exact Sub.of (by assumption) (by decide)

theorem execLinkDownSymbol_keeps (l : Nat) (crcOk : Bool) (pos : Nat) (effective : Nat) (s : State) {s₀ : State} {W : Nat}
    (hs : Keeps W s₀ s) (hw : Sub 33164 W := by apply Sub.of; assumption; decide) : KeepsO W s₀ (execLinkDownSymbol l crcOk
    pos effective s) := by
  unfold execLinkDownSymbol
  with_reducible
    repeat' first
      | assumption | apply noteSub_keeps | apply leaveService_keeps | apply badSymbol_keeps | apply KeepsO.ite
      | apply ite_keeps | apply KeepsO.next | exact Sub.of (by assumption) (by decide)

theorem execFaultRptSymbol_keeps (l : Nat) (crcOk : Bool) (reporter : Nat) (accused : Nat) (frame : Nat) (s : State) {s₀ :
    State} {W : Nat} (hs : Keeps W s₀ s) (hw : Sub 16780 W := by apply Sub.of; assumption; decide) : KeepsO W s₀
    (execFaultRptSymbol l crcOk reporter accused frame s) := by
  unfold execFaultRptSymbol
  with_reducible
    repeat' first
      | assumption | apply floodReport_keeps | apply badSymbol_keeps | apply KeepsO.ite | apply ite_keeps
      | apply KeepsO.next | exact Sub.of (by assumption) (by decide)

theorem execEchoSymbol_keeps (l : Nat) (crcOk : Bool) (response : Bool) (roundTrip : Nat) (turnaround : Nat) (s : State) {s₀
    : State} {W : Nat} (hs : Keeps W s₀ s) (hw : Sub 33164 W := by apply Sub.of; assumption; decide) : KeepsO W s₀
    (execEchoSymbol l crcOk response roundTrip turnaround s) := by
  unfold execEchoSymbol
  with_reducible
    repeat' first
      | assumption | apply sendSymbol_keeps | apply modLink_keeps | apply badSymbol_keeps | apply KeepsO.ite
      | apply ite_keeps | apply KeepsO.next | exact Sub.of (by assumption) (by decide)

theorem execIdentSymbol_keeps (l : Nat) (crcOk : Bool) (sym : IdentSym) (s : State) {s₀ : State} {W : Nat} (hs : Keeps W s₀
    s) (hw : Sub 37772 W := by apply Sub.of; assumption; decide) : KeepsO W s₀ (execIdentSymbol l crcOk sym s) := by
  unfold execIdentSymbol
  with_reducible
    repeat' first
      | assumption | apply wrb_keeps | apply wr_keeps | apply modLink_keeps | apply leaveService_keeps
      | apply enterMismatch_keeps | apply badSymbol_keeps | apply KeepsO.ite | apply ite_keeps | apply KeepsO.next
      | exact Sub.of (by assumption) (by decide)

theorem execDetourTableRebuild_keeps (s : State) {s₀ : State} {W : Nat} (hs : Keeps W s₀ s)
    (hw : Sub 32768 W := by apply Sub.of; assumption; decide) : KeepsO W s₀ (execDetourTableRebuild s) := by
  unfold execDetourTableRebuild
  with_reducible
    repeat' first
      | assumption | apply KeepsO.next | apply Keeps.mk_fab

theorem execRtrProbeWrite_keeps (link : Nat) (ingress : Bool) (slot : Nat) (s : State) {s₀ : State} {W : Nat} (hs : Keeps W
    s₀ s) (hw : Sub 8 W := by apply Sub.of; assumption; decide) : KeepsO W s₀ (execRtrProbeWrite link ingress slot s) := by
  unfold execRtrProbeWrite
  with_reducible
    repeat' first
      | assumption | apply wrb_keeps | apply wr_keeps | apply ite_keeps | apply KeepsO.next | split | dsimp only

theorem loadTickLinks_keeps (s : State) {s₀ : State} {W : Nat} (hs : Keeps W s₀ s)
    (hw : Sub 8 W := by apply Sub.of; assumption; decide) : Keeps W s₀ (loadTickLinks s) := by
  unfold loadTickLinks
  with_reducible
    repeat' first
      | assumption | intro _ | apply wr_keeps | apply foldl_keeps

theorem compareLinks_keeps (s : State) {s₀ : State} {W : Nat} (hs : Keeps W s₀ s)
    (hw : Sub 37772 W := by apply Sub.of; assumption; decide) : Keeps W s₀ (compareLinks s) := by
  unfold compareLinks
  with_reducible
    repeat' first
      | assumption | intro _ | apply wrb_keeps | apply leaveService_keeps | apply startTrain_keeps
      | apply enterMismatch_keeps | apply ite_keeps | apply foldl_keeps | exact Sub.of (by assumption) (by decide)

theorem cmdTopoLoadMap_keeps (e : Entry) (io : HostIo) (s : State) {s₀ : State} {W : Nat} (hs : Keeps W s₀ s)
    (hw : Sub 55180 W := by apply Sub.of; assumption; decide) : Keeps W s₀ (cmdTopoLoadMap e io s).st := by
  unfold cmdTopoLoadMap
  with_reducible
    repeat' first
      | assumption | apply wr_keeps | apply refuseCmd_keeps | apply doneCmd_keeps | apply mapCheck_keeps
      | apply enterTopo_keeps | apply loadTickLinks_keeps | apply compareLinks_keeps | apply ite_keeps | split
      | apply Keeps.mk_fab | exact Sub.of (by assumption) (by decide)

theorem execTopoLoadMap_keeps (e : Entry) (io : HostIo) (s : State) {s₀ : State} {W : Nat} (hs : Keeps W s₀ s)
    (hw : Sub 55180 W := by apply Sub.of; assumption; decide) : KeepsO W s₀ (execTopoLoadMap e io s) := by
  unfold execTopoLoadMap
  with_reducible
    repeat' first
      | assumption | intro _ | apply runRow_keeps | apply cmdTopoLoadMap_keeps | apply KeepsO.next
      | exact Sub.of (by assumption) (by decide)

theorem cmdTopoVerify_keeps (x1 : Entry) (x2 : HostIo) (s : State) {s₀ : State} {W : Nat} (hs : Keeps W s₀ s)
    (hw : Sub 16392 W := by apply Sub.of; assumption; decide) : Keeps W s₀ (cmdTopoVerify x1 x2 s).st := by
  unfold cmdTopoVerify
  with_reducible
    repeat' first
      | assumption | apply wr_keeps | apply doneCmd_keeps | apply ite_keeps | split | apply Keeps.mk_tick
      | exact Sub.of (by assumption) (by decide)

theorem execTopoVerify_keeps (e : Entry) (io : HostIo) (s : State) {s₀ : State} {W : Nat} (hs : Keeps W s₀ s)
    (hw : Sub 16780 W := by apply Sub.of; assumption; decide) : KeepsO W s₀ (execTopoVerify e io s) := by
  unfold execTopoVerify
  with_reducible
    repeat' first
      | assumption | intro _ | apply runRow_keeps | apply cmdTopoVerify_keeps | apply KeepsO.next
      | exact Sub.of (by assumption) (by decide)

theorem cmdLinkQuery_keeps (e : Entry) (x1 : HostIo) (s : State) {s₀ : State} {W : Nat} (hs : Keeps W s₀ s)
    (hw : Sub 0 W := by apply Sub.of; assumption; decide) : Keeps W s₀ (cmdLinkQuery e x1 s).st := by
  unfold cmdLinkQuery
  with_reducible
    repeat' first
      | assumption | apply refuseCmd_keeps | apply doneCmd_keeps | apply ite_keeps | split | dsimp only

theorem execLinkQuery_keeps (e : Entry) (io : HostIo) (s : State) {s₀ : State} {W : Nat} (hs : Keeps W s₀ s)
    (hw : Sub 396 W := by apply Sub.of; assumption; decide) : KeepsO W s₀ (execLinkQuery e io s) := by
  unfold execLinkQuery
  with_reducible
    repeat' first
      | assumption | intro _ | apply runRow_keeps | apply cmdLinkQuery_keeps | apply KeepsO.next
      | exact Sub.of (by assumption) (by decide)

theorem applySub_keeps (r : SubReq) (s : State) {s₀ : State} {W : Nat} (hs : Keeps W s₀ s)
    (hw : Sub 37260 W := by apply Sub.of; assumption; decide) : Keeps W s₀ (applySub r s) := by
  unfold applySub
  with_reducible
    repeat' first
      | assumption | intro _ | apply stopJob_keeps | apply setSub_keeps | apply refreshLink_keeps | apply rtrEvent_keeps
      | apply moveFlits_keeps | apply ite_keeps | apply foldl_keeps | split | exact Sub.of (by assumption) (by decide)

theorem takeRole_keeps (l : Nat) (s : State) {s₀ : State} {W : Nat} (hs : Keeps W s₀ s)
    (hw : Sub 32776 W := by apply Sub.of; assumption; decide) : Keeps W s₀ (takeRole l s) := by
  unfold takeRole
  with_reducible
    repeat' first
      | assumption | apply setSub_keeps | apply refreshLink_keeps | apply ite_keeps | split | dsimp only
      | exact Sub.of (by assumption) (by decide)

theorem linksAtTick_keeps (f : Nat) (s : State) {s₀ : State} {W : Nat} (hs : Keeps W s₀ s)
    (hw : Sub 37260 W := by apply Sub.of; assumption; decide) : Keeps W s₀ (linksAtTick f s) := by
  unfold linksAtTick
  with_reducible
    repeat' first
      | assumption | intro _ | apply refreshBundle_keeps | apply applySub_keeps | apply takeRole_keeps
      | apply foldl_keeps | split | apply Keeps.mk_fab | exact Sub.of (by assumption) (by decide)

end Sys2Proof.Machine
end

