-- ==== Sys2Proof/Laws/KeepPower.lean ====
section
/-!
SUPPORT. The operations of Power keep the queue, the count of free values and the forms of memory and registers.
-/

set_option Elab.async false

namespace Sys2Proof.Machine

theorem withdraw_keeps (mtype : Nat) (part : Nat) (s : State) {s₀ : State} {W : Nat} (hs : Keeps W s₀ s)
    (hw : Sub 32768 W := by apply Sub.of; assumption; decide) : Keeps W s₀ (withdraw mtype part s) := by
  unfold withdraw
  with_reducible
    repeat' first
      | assumption | apply Keeps.mk_fab

theorem sendStretch_keeps (s : State) {s₀ : State} {W : Nat} (hs : Keeps W s₀ s)
    (hw : Sub 32780 W := by apply Sub.of; assumption; decide) : Keeps W s₀ (sendStretch s) := by
  unfold sendStretch
  with_reducible
    repeat' first
      | assumption | apply sendCtl_keeps | apply withdraw_keeps | apply ite_keeps
      | exact Sub.of (by assumption) (by decide)

theorem sendFill_keeps (s : State) {s₀ : State} {W : Nat} (hs : Keeps W s₀ s)
    (hw : Sub 32780 W := by apply Sub.of; assumption; decide) : Keeps W s₀ (sendFill s) := by
  unfold sendFill
  with_reducible
    repeat' first
      | assumption | intro _ | apply sendCtl_keeps | apply withdraw_keeps | apply ite_keeps | apply foldl_keeps
      | exact Sub.of (by assumption) (by decide)

theorem applyStretch_keeps (h : CtlHdr) (k : Nat) (s : State) {s₀ : State} {W : Nat} (hs : Keeps W s₀ s)
    (hw : Sub 16384 W := by apply Sub.of; assumption; decide) : Keeps W s₀ (applyStretch h k s).2 := by
  unfold applyStretch
  with_reducible
    repeat' first
      | assumption | apply ite_keeps | split | apply Keeps.mk_tick

theorem execStretchReq_keeps (h : CtlHdr) (k : Nat) (s : State) {s₀ : State} {W : Nat} (hs : Keeps W s₀ s)
    (hw : Sub 49548 W := by apply Sub.of; assumption; decide) : KeepsO W s₀ (execStretchReq h k s) := by
  unfold execStretchReq
  with_reducible
    repeat' first
      | assumption | intro _ | apply applyCtl_keeps | apply applyStretch_keeps | apply KeepsO.next
      | exact Sub.of (by assumption) (by decide)

theorem applyFill_keeps (h : CtlHdr) (v : Nat) (s : State) {s₀ : State} {W : Nat} (hs : Keeps W s₀ s)
    (hw : Sub 4096 W := by apply Sub.of; assumption; decide) : Keeps W s₀ (applyFill h v s).2 := by
  unfold applyFill
  with_reducible
    repeat' first
      | assumption | apply modPart_keeps | apply ite_keeps | split

theorem execCtlFill_keeps (h : CtlHdr) (v : Nat) (s : State) {s₀ : State} {W : Nat} (hs : Keeps W s₀ s)
    (hw : Sub 37260 W := by apply Sub.of; assumption; decide) : KeepsO W s₀ (execCtlFill h v s) := by
  unfold execCtlFill
  with_reducible
    repeat' first
      | assumption | intro _ | apply applyCtl_keeps | apply applyFill_keeps | apply KeepsO.next
      | exact Sub.of (by assumption) (by decide)

theorem startRamp_keeps (d : Nat) (on : Bool) (s : State) {s₀ : State} {W : Nat} (hs : Keeps W s₀ s)
    (hw : Sub 34188 W := by apply Sub.of; assumption; decide) : Keeps W s₀ (startRamp d on s) := by
  unfold startRamp
  with_reducible
    repeat' first
      | assumption | intro _ | apply wr_keeps | apply leaveService_keeps | apply ite_keeps | apply foldl_keeps
      | apply Keeps.mk_pwr | exact Sub.of (by assumption) (by decide)

theorem endRamp_keeps (d : Nat) (on : Bool) (s : State) {s₀ : State} {W : Nat} (hs : Keeps W s₀ s)
    (hw : Sub 33848 W := by apply Sub.of; assumption; decide) : Keeps W s₀ (endRamp d on s) := by
  unfold endRamp
  with_reducible
    repeat' first
      | assumption | intro _ | apply zeroRange_keeps | apply wr_keeps | apply startTrain_keeps | apply ite_keeps
      | apply foldl_keeps | apply Keeps.mk_pwr | exact Sub.of (by assumption) (by decide)

theorem setDomain_keeps (d : Nat) (on : Bool) (s : State) {s₀ : State} {W : Nat} (hs : Keeps W s₀ s)
    (hw : Sub 34236 W := by apply Sub.of; assumption; decide) : Keeps W s₀ (setDomain d on s) := by
  unfold setDomain
  with_reducible
    repeat' first
      | assumption | apply startRamp_keeps | apply endRamp_keeps | apply ite_keeps
      | exact Sub.of (by assumption) (by decide)

theorem cmdPwrDomain_keeps (e : Entry) (x1 : HostIo) (s : State) {s₀ : State} {W : Nat} (hs : Keeps W s₀ s)
    (hw : Sub 34188 W := by apply Sub.of; assumption; decide) : Keeps W s₀ (cmdPwrDomain e x1 s).st := by
  unfold cmdPwrDomain
  with_reducible
    repeat' first
      | assumption | apply refuseCmd_keeps | apply doneCmd_keeps | apply waitCmd_keeps | apply startRamp_keeps
      | apply ite_keeps | split | dsimp only | exact Sub.of (by assumption) (by decide)

theorem execPwrDomain_keeps (e : Entry) (io : HostIo) (s : State) {s₀ : State} {W : Nat} (hs : Keeps W s₀ s)
    (hw : Sub 34188 W := by apply Sub.of; assumption; decide) : KeepsO W s₀ (execPwrDomain e io s) := by
  unfold execPwrDomain
  with_reducible
    repeat' first
      | assumption | intro _ | apply runRow_keeps | apply cmdPwrDomain_keeps | apply KeepsO.next
      | exact Sub.of (by assumption) (by decide)

theorem domainServed_keeps (d : Nat) (s : State) {s₀ : State} {W : Nat} (hs : Keeps W s₀ s)
    (hw : Sub 34188 W := by apply Sub.of; assumption; decide) : Keeps W s₀ (domainServed d s) := by
  unfold domainServed
  with_reducible
    repeat' first
      | assumption | intro _ | apply endWaiting_keeps | apply startRamp_keeps | apply ite_keeps | apply foldl_keeps
      | split | apply Keeps.mk_kao | exact Sub.of (by assumption) (by decide)

theorem execDomainRampDone_keeps (d : Nat) (s : State) {s₀ : State} {W : Nat} (hs : Keeps W s₀ s)
    (hw : Sub 34236 W := by apply Sub.of; assumption; decide) : KeepsO W s₀ (execDomainRampDone d s) := by
  unfold execDomainRampDone
  with_reducible
    repeat' first
      | assumption | apply endRamp_keeps | apply domainServed_keeps | apply KeepsO.next | split
      | exact Sub.of (by assumption) (by decide)

theorem fixedFrequency_keeps (s : State) {s₀ : State} {W : Nat} (hs : Keeps W s₀ s)
    (hw : Sub 1032 W := by apply Sub.of; assumption; decide) : Keeps W s₀ (fixedFrequency s) := by
  unfold fixedFrequency
  with_reducible
    repeat' first
      | assumption | apply wr_keeps | apply ite_keeps | apply Keeps.mk_pwr | exact Sub.of (by assumption) (by decide)

theorem cmdPwrSetMode_keeps (e : Entry) (x1 : HostIo) (s : State) {s₀ : State} {W : Nat} (hs : Keeps W s₀ s)
    (hw : Sub 1032 W := by apply Sub.of; assumption; decide) : Keeps W s₀ (cmdPwrSetMode e x1 s).st := by
  unfold cmdPwrSetMode
  with_reducible
    repeat' first
      | assumption | apply wr_keeps | apply refuseCmd_keeps | apply doneCmd_keeps | apply fixedFrequency_keeps
      | apply ite_keeps | split | dsimp only | exact Sub.of (by assumption) (by decide)

theorem execPwrSetMode_keeps (e : Entry) (io : HostIo) (s : State) {s₀ : State} {W : Nat} (hs : Keeps W s₀ s)
    (hw : Sub 1420 W := by apply Sub.of; assumption; decide) : KeepsO W s₀ (execPwrSetMode e io s) := by
  unfold execPwrSetMode
  with_reducible
    repeat' first
      | assumption | intro _ | apply runRow_keeps | apply cmdPwrSetMode_keeps | apply KeepsO.next
      | exact Sub.of (by assumption) (by decide)

theorem cmdPwrSetCap_keeps (e : Entry) (x1 : HostIo) (s : State) {s₀ : State} {W : Nat} (hs : Keeps W s₀ s)
    (hw : Sub 32780 W := by apply Sub.of; assumption; decide) : Keeps W s₀ (cmdPwrSetCap e x1 s).st := by
  unfold cmdPwrSetCap
  with_reducible
    repeat' first
      | assumption | apply wr_keeps | apply refuseCmd_keeps | apply doneCmd_keeps | apply sendStretch_keeps
      | apply ite_keeps | split | dsimp only | exact Sub.of (by assumption) (by decide)

theorem execPwrSetCap_keeps (e : Entry) (io : HostIo) (s : State) {s₀ : State} {W : Nat} (hs : Keeps W s₀ s)
    (hw : Sub 33164 W := by apply Sub.of; assumption; decide) : KeepsO W s₀ (execPwrSetCap e io s) := by
  unfold execPwrSetCap
  with_reducible
    repeat' first
      | assumption | intro _ | apply runRow_keeps | apply cmdPwrSetCap_keeps | apply KeepsO.next
      | exact Sub.of (by assumption) (by decide)

theorem setLevel_keeps (n : Nat) (s : State) {s₀ : State} {W : Nat} (hs : Keeps W s₀ s)
    (hw : Sub 1032 W := by apply Sub.of; assumption; decide) : Keeps W s₀ (setLevel n s) := by
  unfold setLevel
  with_reducible
    repeat' first
      | assumption | apply wr_keeps | apply Keeps.mk_pwr | exact Sub.of (by assumption) (by decide)

theorem setFill_keeps (v : Nat) (s : State) {s₀ : State} {W : Nat} (hs : Keeps W s₀ s)
    (hw : Sub 32780 W := by apply Sub.of; assumption; decide) : Keeps W s₀ (setFill v s) := by
  unfold setFill
  with_reducible
    repeat' first
      | assumption | apply wr_keeps | apply sendFill_keeps | exact Sub.of (by assumption) (by decide)

theorem setStretch_keeps (v : Nat) (s : State) {s₀ : State} {W : Nat} (hs : Keeps W s₀ s)
    (hw : Sub 32780 W := by apply Sub.of; assumption; decide) : Keeps W s₀ (setStretch v s) := by
  unfold setStretch
  with_reducible
    repeat' first
      | assumption | apply wr_keeps | apply sendStretch_keeps | exact Sub.of (by assumption) (by decide)

theorem escalate_keeps (up : State → State) (s : State) {s₀ : State} {W : Nat} (hs : Keeps W s₀ s) (hup : ∀ y0, Keeps W s₀
    y0 → Keeps W s₀ (up y0)) (hw : Sub 1024 W := by apply Sub.of; assumption; decide) : Keeps W s₀ (escalate up s) := by
  unfold escalate
  with_reducible
    repeat' first
      | assumption | apply hup | apply ite_keeps | apply Keeps.mk_pwr

theorem overPeriod_keeps (s : State) {s₀ : State} {W : Nat} (hs : Keeps W s₀ s)
    (hw : Sub 34188 W := by apply Sub.of; assumption; decide) : Keeps W s₀ (overPeriod s) := by
  unfold overPeriod
  with_reducible
    repeat' first
      | assumption | intro _ | apply bump_keeps | apply pwrEvent_keeps | apply setLevel_keeps | apply setFill_keeps
      | apply setStretch_keeps | apply escalate_keeps | apply ite_keeps | split | apply Keeps.mk_pwr
      | exact Sub.of (by assumption) (by decide)

theorem underPeriod_keeps (s : State) {s₀ : State} {W : Nat} (hs : Keeps W s₀ s)
    (hw : Sub 33804 W := by apply Sub.of; assumption; decide) : Keeps W s₀ (underPeriod s) := by
  unfold underPeriod
  with_reducible
    repeat' first
      | assumption | apply setLevel_keeps | apply setFill_keeps | apply setStretch_keeps | apply ite_keeps | split
      | apply Keeps.mk_pwr | exact Sub.of (by assumption) (by decide)

theorem execControlPeriodEnd_keeps (minCap : Nat) (s : State) {s₀ : State} {W : Nat} (hs : Keeps W s₀ s)
    (hw : Sub 34188 W := by apply Sub.of; assumption; decide) : KeepsO W s₀ (execControlPeriodEnd minCap s) := by
  unfold execControlPeriodEnd
  with_reducible
    repeat' first
      | assumption | apply wr_keeps | apply overPeriod_keeps | apply underPeriod_keeps | apply KeepsO.ite
      | apply ite_keeps | apply foldl_keeps | apply KeepsO.next | apply Keeps.mk_pwr
      | exact Sub.of (by assumption) (by decide)

theorem execBoostStep_keeps (s : State) {s₀ : State} {W : Nat} (hs : Keeps W s₀ s)
    (hw : Sub 1024 W := by apply Sub.of; assumption; decide) : KeepsO W s₀ (execBoostStep s) := by
  unfold execBoostStep
  with_reducible
    repeat' first
      | assumption | apply KeepsO.ite | apply ite_keeps | apply KeepsO.next | apply Keeps.mk_pwr

theorem floorFail_keeps (p : Nat) (s : State) {s₀ : State} {W : Nat} (hs : Keeps W s₀ s)
    (hw : Sub 21516 W := by apply Sub.of; assumption; decide) : Keeps W s₀ (floorFail p s) := by
  unfold floorFail
  with_reducible
    repeat' first
      | assumption | apply bump_keeps | apply modPart_keeps | apply sendAbort_keeps | apply Keeps.mk_pwr
      | exact Sub.of (by assumption) (by decide)

theorem countFloor_keeps (s : State) {s₀ : State} {W : Nat} (hs : Keeps W s₀ s)
    (hw : Sub 1032 W := by apply Sub.of; assumption; decide) : Keeps W s₀ (countFloor s) := by
  unfold countFloor
  with_reducible
    repeat' first
      | assumption | apply bump_keeps | apply ite_keeps | apply Keeps.mk_pwr | exact Sub.of (by assumption) (by decide)

theorem floorStopAll_keeps (s : State) {s₀ : State} {W : Nat} (hs : Keeps W s₀ s)
    (hw : Sub 4492 W := by apply Sub.of; assumption; decide) : Keeps W s₀ (floorStopAll s) := by
  unfold floorStopAll
  with_reducible
    repeat' first
      | assumption | apply stopAll_keeps | apply pwrEvent_keeps | apply ite_keeps
      | exact Sub.of (by assumption) (by decide)

theorem enterFloor_keeps (cause : Nat) (rail : Nat) (tmp : Nat) (synd : Bytes) (s : State) {s₀ : State} {W : Nat} (hs :
    Keeps W s₀ s) (hw : Sub 22412 W := by apply Sub.of; assumption; decide) : Keeps W s₀ (enterFloor cause rail tmp synd s)
    := by
  unfold enterFloor
  with_reducible
    repeat' first
      | assumption | intro _ | apply wr_keeps | apply bump_keeps | apply tickEvent_keeps | apply urgentBoth_keeps
      | apply report_keeps | apply floorFail_keeps | apply floorStopAll_keeps | apply ite_keeps | apply foldl_keeps
      | apply Keeps.mk_pwr | exact Sub.of (by assumption) (by decide)

theorem setAlertPin_keeps (r : Nat) (high : Bool) (s : State) {s₀ : State} {W : Nat} (hs : Keeps W s₀ s)
    (hw : Sub 8 W := by apply Sub.of; assumption; decide) : Keeps W s₀ (setAlertPin r high s) := by
  unfold setAlertPin
  with_reducible
    repeat' first
      | assumption | apply wr_keeps

theorem execVrAlert_keeps (r : Nat) (statusWord : Nat) (s : State) {s₀ : State} {W : Nat} (hs : Keeps W s₀ s)
    (hw : Sub 22412 W := by apply Sub.of; assumption; decide) : KeepsO W s₀ (execVrAlert r statusWord s) := by
  unfold execVrAlert
  with_reducible
    repeat' first
      | assumption | apply wr_keeps | apply orReg_keeps | apply pwrEvent_keeps | apply enterFloor_keeps
      | apply setAlertPin_keeps | apply KeepsO.ite | apply ite_keeps | apply KeepsO.next
      | exact Sub.of (by assumption) (by decide)

theorem execVrAlertRelease_keeps (r : Nat) (s : State) {s₀ : State} {W : Nat} (hs : Keeps W s₀ s)
    (hw : Sub 1032 W := by apply Sub.of; assumption; decide) : KeepsO W s₀ (execVrAlertRelease r s) := by
  unfold execVrAlertRelease
  with_reducible
    repeat' first
      | assumption | apply setAlertPin_keeps | apply KeepsO.ite | apply ite_keeps | apply KeepsO.next
      | apply Keeps.mk_pwr | exact Sub.of (by assumption) (by decide)

theorem floorAtTick_keeps (s : State) {s₀ : State} {W : Nat} (hs : Keeps W s₀ s)
    (hw : Sub 21900 W := by apply Sub.of; assumption; decide) : Keeps W s₀ (floorAtTick s) := by
  unfold floorAtTick
  with_reducible
    repeat' first
      | assumption | intro _ | apply wr_keeps | apply pwrEvent_keeps | apply floorFail_keeps | apply countFloor_keeps
      | apply floorStopAll_keeps | apply ite_keeps | apply foldl_keeps | apply Keeps.mk_pwr
      | exact Sub.of (by assumption) (by decide)

theorem railSample_keeps (r : Nat) (x : RailRead) (s : State) {s₀ : State} {W : Nat} (hs : Keeps W s₀ s)
    (hw : Sub 8 W := by apply Sub.of; assumption; decide) : Keeps W s₀ (railSample r x s) := by
  unfold railSample
  with_reducible
    repeat' first
      | assumption | apply wr_keeps | split

theorem addEnergy_keeps (mw : Nat) (s : State) {s₀ : State} {W : Nat} (hs : Keeps W s₀ s)
    (hw : Sub 1032 W := by apply Sub.of; assumption; decide) : Keeps W s₀ (addEnergy mw s) := by
  unfold addEnergy
  with_reducible
    repeat' first
      | assumption | apply wr_keeps | apply ite_keeps | apply Keeps.mk_pwr | exact Sub.of (by assumption) (by decide)

theorem cmdEnergyRead_keeps (e : Entry) (x1 : HostIo) (s : State) {s₀ : State} {W : Nat} (hs : Keeps W s₀ s)
    (hw : Sub 0 W := by apply Sub.of; assumption; decide) : Keeps W s₀ (cmdEnergyRead e x1 s).st := by
  unfold cmdEnergyRead
  with_reducible
    repeat' first
      | assumption | apply refuseCmd_keeps | apply doneCmd_keeps | apply ite_keeps | split | dsimp only

theorem execEnergyRead_keeps (e : Entry) (io : HostIo) (s : State) {s₀ : State} {W : Nat} (hs : Keeps W s₀ s)
    (hw : Sub 396 W := by apply Sub.of; assumption; decide) : KeepsO W s₀ (execEnergyRead e io s) := by
  unfold execEnergyRead
  with_reducible
    repeat' first
      | assumption | intro _ | apply runRow_keeps | apply cmdEnergyRead_keeps | apply KeepsO.next
      | exact Sub.of (by assumption) (by decide)

theorem cmdDevGetTelemetry_keeps (e : Entry) (io : HostIo) (s : State) {s₀ : State} {W : Nat} (hs : Keeps W s₀ s)
    (hw : Sub 12 W := by apply Sub.of; assumption; decide) : Keeps W s₀ (cmdDevGetTelemetry e io s).st := by
  unfold cmdDevGetTelemetry
  with_reducible
    repeat' first
      | assumption | apply refuseCmd_keeps | apply withOutput_keeps | apply ite_keeps | split
      | exact Sub.of (by assumption) (by decide)

theorem execDevGetTelemetry_keeps (e : Entry) (io : HostIo) (s : State) {s₀ : State} {W : Nat} (hs : Keeps W s₀ s)
    (hw : Sub 396 W := by apply Sub.of; assumption; decide) : KeepsO W s₀ (execDevGetTelemetry e io s) := by
  unfold execDevGetTelemetry
  with_reducible
    repeat' first
      | assumption | intro _ | apply runRow_keeps | apply cmdDevGetTelemetry_keeps | apply KeepsO.next
      | exact Sub.of (by assumption) (by decide)

end Sys2Proof.Machine
end

