-- ==== Sys2Proof/Laws/KeepFrame.lean ====
section
/-!
SUPPORT. The operations of Frame keep the queue, the count of free values and the forms of memory and registers.
-/

set_option Elab.async false

namespace Sys2Proof.Machine

theorem issueCmd_keeps (cls : Nat) (op : Nat) (G : Nat) (fl : Nat) (a : BitVec 112) (s : State) {s₀ : State} {W : Nat} (hs :
    Keeps W s₀ s) (hw : Sub 8200 W := by apply Sub.of; assumption; decide) : Keeps W s₀ (issueCmd cls op G fl a s) := by
  unfold issueCmd
  with_reducible
    repeat' first
      | assumption | apply wr_keeps | apply modCtx_keeps | apply ite_keeps | exact Sub.of (by assumption) (by decide)

theorem takeUe_keeps (ue : List Nat) (s : State) {s₀ : State} {W : Nat} (hs : Keeps W s₀ s)
    (hw : Sub 32 W := by apply Sub.of; assumption; decide) : Keeps W s₀ (takeUe ue s) := by
  unfold takeUe
  with_reducible
    repeat' first
      | assumption | intro _ | apply setBad_keeps | apply ite_keeps | apply foldl_keeps

theorem showCtx_keeps (G : Nat) (s : State) {s₀ : State} {W : Nat} (hs : Keeps W s₀ s)
    (hw : Sub 8 W := by apply Sub.of; assumption; decide) : Keeps W s₀ (showCtx G s) := by
  unfold showCtx
  with_reducible
    repeat' first
      | assumption | intro _ | apply wrb_keeps | apply wr_keeps | apply ite_keeps | apply foldl_keeps

theorem frameCommand_keeps (cls : Nat) (op : Nat) (G : Nat) (fl : BitVec 4) (a : BitVec 112) (ue : List Nat) (eff : State →
    State) (s : State) {s₀ : State} {W : Nat} (hs : Keeps W s₀ s) (heff : ∀ y0, Keeps W s₀ y0 → Keeps W s₀ (eff y0))
    (hw : Sub 8232 W := by apply Sub.of; assumption; decide) : KeepsO W s₀ (frameCommand cls op G fl a ue eff s) := by
  unfold frameCommand
  with_reducible
    repeat' first
      | assumption | apply heff | apply issueCmd_keeps | apply takeUe_keeps | apply showCtx_keeps | apply ite_keeps
      | apply KeepsO.next | exact Sub.of (by assumption) (by decide)

theorem countBeats_keeps (G : Nat) (n : Nat) (s : State) {s₀ : State} {W : Nat} (hs : Keeps W s₀ s)
    (hw : Sub 4104 W := by apply Sub.of; assumption; decide) : Keeps W s₀ (countBeats G n s) := by
  unfold countBeats
  with_reducible
    repeat' first
      | assumption | apply bump_keeps | apply energy_keeps | exact Sub.of (by assumption) (by decide)

theorem spmRead_keeps (G : Nat) (off : Nat) (n : Nat) (s : State) {s₀ : State} {W : Nat} (hs : Keeps W s₀ s)
    (hw : Sub 4104 W := by apply Sub.of; assumption; decide) : Keeps W s₀ (spmRead G off n s) := by
  unfold spmRead
  with_reducible
    repeat' first
      | assumption | apply countBeats_keeps

theorem spmError_keeps (f : Field) (b : Nat) (G : Nat) (off : Nat) (src : Nat) (op : Nat) (sev : Nat) (ue : Bool) (s :
    State) {s₀ : State} {W : Nat} (hs : Keeps W s₀ s) (hw : Sub 5006 W := by apply Sub.of; assumption; decide) : Keeps W s₀
    (spmError f b G off src op sev ue s) := by
  unfold spmError
  with_reducible
    repeat' first
      | assumption | apply draw_keeps | apply wr_keeps | apply unitError_keeps | apply ite_keeps
      | exact Sub.of (by assumption) (by decide)

theorem spmWrite_keeps (G : Nat) (off : Nat) (src : Nat) (op : Nat) (b : Bytes) (s : State) {s₀ : State} {W : Nat} (hs :
    Keeps W s₀ s) (hw : Sub 5054 W := by apply Sub.of; assumption; decide) : Keeps W s₀ (spmWrite G off src op b s) := by
  unfold spmWrite
  with_reducible
    repeat' first
      | assumption | apply writeMem_keeps | apply setBadRange_keeps | apply countBeats_keeps | apply spmError_keeps
      | apply ite_keeps | exact Sub.of (by assumption) (by decide)

theorem spmPoison_keeps (G : Nat) (off : Nat) (n : Nat) (s : State) {s₀ : State} {W : Nat} (hs : Keeps W s₀ s)
    (hw : Sub 32 W := by apply Sub.of; assumption; decide) : Keeps W s₀ (spmPoison G off n s) := by
  unfold spmPoison
  with_reducible
    repeat' first
      | assumption | apply setBadRange_keeps

theorem spmUe_keeps (G : Nat) (cls : Nat) (src : Nat) (offs : List Nat) (s : State) {s₀ : State} {W : Nat} (hs : Keeps W s₀
    s) (hw : Sub 21390 W := by apply Sub.of; assumption; decide) : Keeps W s₀ (spmUe G cls src offs s) := by
  unfold spmUe
  with_reducible
    repeat' first
      | assumption | apply bump_keeps | apply failFrame_keeps | apply spmError_keeps | split
      | exact Sub.of (by assumption) (by decide)

theorem engBit_keeps (f : Field) (b : Nat) (G : Nat) (idx : Nat) (s : State) {s₀ : State} {W : Nat} (hs : Keeps W s₀ s)
    (hw : Sub 396 W := by apply Sub.of; assumption; decide) : Keeps W s₀ (engBit f b G idx s) := by
  unfold engBit
  with_reducible
    repeat' first
      | assumption | apply wr_keeps | apply raiseBit_keeps | exact Sub.of (by assumption) (by decide)

theorem operandUe_keeps (G : Nat) (cls : Nat) (src : Nat) (offs : List Nat) (s : State) {s₀ : State} {W : Nat} (hs : Keeps W
    s₀ s) (hw : Sub 21390 W := by apply Sub.of; assumption; decide) : Keeps W s₀ (operandUe G cls src offs s) := by
  unfold operandUe
  with_reducible
    repeat' first
      | assumption | apply spmUe_keeps | apply engBit_keeps | apply ite_keeps | exact Sub.of (by assumption) (by decide)

theorem engFail_keeps (f : Field) (code : Nat) (G : Nat) (cls : Nat) (st : Nat) (one : Bool) (feeds : Bool) (synd : Bytes)
    (s : State) {s₀ : State} {W : Nat} (hs : Keeps W s₀ s) (hw : Sub 21388 W := by apply Sub.of; assumption; decide) : Keeps
    W s₀ (engFail f code G cls st one feeds synd s) := by
  unfold engFail
  with_reducible
    repeat' first
      | assumption | apply unitError_keeps | apply failCtx_keeps | exact Sub.of (by assumption) (by decide)

theorem frameCondition_keeps (G : Nat) (cls : Nat) (ty : Nat) (n : Nat) (st : Nat) (one : Bool) (s : State) {s₀ : State} {W
    : Nat} (hs : Keeps W s₀ s) (hw : Sub 21388 W := by apply Sub.of; assumption; decide) : Keeps W s₀ (frameCondition G cls
    ty n st one s) := by
  unfold frameCondition
  with_reducible
    repeat' first
      | assumption | apply raiseWith_keeps | apply report_keeps | apply failFrame_keeps
      | exact Sub.of (by assumption) (by decide)

theorem classBusy_keeps (G : Nat) (cls : Nat) (ns : Nat) (s : State) {s₀ : State} {W : Nat} (hs : Keeps W s₀ s)
    (hw : Sub 4104 W := by apply Sub.of; assumption; decide) : Keeps W s₀ (classBusy G cls ns s) := by
  unfold classBusy
  with_reducible
    repeat' first
      | assumption | apply bump_keeps | apply account_keeps | apply energy_keeps | apply ite_keeps | split
      | exact Sub.of (by assumption) (by decide)

theorem releaseWait_keeps (G : Nat) (s : State) {s₀ : State} {W : Nat} (hs : Keeps W s₀ s)
    (hw : Sub 8192 W := by apply Sub.of; assumption; decide) : Keeps W s₀ (releaseWait G s) := by
  unfold releaseWait
  with_reducible
    repeat' first
      | assumption | apply modCtx_keeps | apply ite_keeps | split

theorem dropUnlessEnd_keeps (G : Nat) (fl : BitVec 4) (s : State) {s₀ : State} {W : Nat} (hs : Keeps W s₀ s)
    (hw : Sub 8200 W := by apply Sub.of; assumption; decide) : Keeps W s₀ (dropUnlessEnd G fl s) := by
  unfold dropUnlessEnd
  with_reducible
    repeat' first
      | assumption | intro _ | apply modCtx_keeps | apply ite_keeps
      | exact Sub.of (by assumption) (by decide)

theorem issueSyn_keeps (op G : Nat) (fl : BitVec 4) (a : BitVec 112) (s : State) {s₀ : State} {W : Nat} (hs : Keeps W s₀ s)
    (hw : Sub 8200 W := by apply Sub.of; assumption; decide) : Keeps W s₀ (issueSyn op G fl a s) := by
  unfold issueSyn
  with_reducible
    repeat' first
      | assumption | intro _ | apply dropUnlessEnd_keeps | apply issueCmd_keeps
      | exact Sub.of (by assumption) (by decide)

theorem synCommand_keeps (op : Nat) (G : Nat) (fl : BitVec 4) (a : BitVec 112) (eff : State → State) (s : State) {s₀ :
    State} {W : Nat} (hs : Keeps W s₀ s) (heff : ∀ y0, Keeps W s₀ y0 → Keeps W s₀ (eff y0))
    (hw : Sub 8200 W := by apply Sub.of; assumption; decide) : KeepsO W s₀ (synCommand op G fl a eff s) := by
  unfold synCommand
  with_reducible
    repeat' first
      | assumption | apply heff | apply issueSyn_keeps | apply showCtx_keeps | apply KeepsO.ite
      | apply KeepsO.next | exact Sub.of (by assumption) (by decide)

theorem execSynNop_keeps (G : Nat) (fl : BitVec 4) (a : BitVec 112) (s : State) {s₀ : State} {W : Nat} (hs : Keeps W s₀ s)
    (hw : Sub 8200 W := by apply Sub.of; assumption; decide) : KeepsO W s₀ (execSynNop G fl a s) := by
  unfold execSynNop
  with_reducible
    repeat' first
      | assumption | intro _ | apply synCommand_keeps

theorem execSynWait_keeps (G : Nat) (fl : BitVec 4) (a : BitVec 112) (s : State) {s₀ : State} {W : Nat} (hs : Keeps W s₀ s)
    (hw : Sub 8200 W := by apply Sub.of; assumption; decide) : KeepsO W s₀ (execSynWait G fl a s) := by
  unfold execSynWait
  with_reducible
    repeat' first
      | assumption | intro _ | apply modCtx_keeps | apply releaseWait_keeps | apply synCommand_keeps | apply ite_keeps
      | apply KeepsO.next | exact Sub.of (by assumption) (by decide)

theorem execSynBarrier_keeps (G : Nat) (fl : BitVec 4) (a : BitVec 112) (s : State) {s₀ : State} {W : Nat} (hs : Keeps W s₀
    s) (hw : Sub 8200 W := by apply Sub.of; assumption; decide) : KeepsO W s₀ (execSynBarrier G fl a s) := by
  unfold execSynBarrier
  with_reducible
    repeat' first
      | assumption | intro _ | apply modCtx_keeps | apply synCommand_keeps | apply ite_keeps | apply KeepsO.next
      | exact Sub.of (by assumption) (by decide)

theorem passBarrier_keeps (id G : Nat) (s : State) {s₀ : State} {W : Nat} (hs : Keeps W s₀ s)
    (hw : Sub 8200 W := by apply Sub.of; assumption; decide) : Keeps W s₀ (passBarrier id G s) := by
  unfold passBarrier
  with_reducible
    repeat' first
      | assumption | intro _ | apply modCtx_keeps | apply showCtx_keeps | apply ite_keeps | split
      | exact Sub.of (by assumption) (by decide)

theorem execBarrierRelease_keeps (p : Nat) (id : Nat) (s : State) {s₀ : State} {W : Nat} (hs : Keeps W s₀ s)
    (hw : Sub 8200 W := by apply Sub.of; assumption; decide) : KeepsO W s₀ (execBarrierRelease p id s) := by
  unfold execBarrierRelease
  with_reducible
    repeat' first
      | assumption | intro _ | apply passBarrier_keeps | apply foldl_keeps
      | apply KeepsO.next | exact Sub.of (by assumption) (by decide)

theorem execSynSlotWait_keeps (G : Nat) (fl : BitVec 4) (a : BitVec 112) (s : State) {s₀ : State} {W : Nat} (hs : Keeps W s₀
    s) (hw : Sub 8200 W := by apply Sub.of; assumption; decide) : KeepsO W s₀ (execSynSlotWait G fl a s) := by
  unfold execSynSlotWait
  with_reducible
    repeat' first
      | assumption | intro _ | apply modCtx_keeps | apply synCommand_keeps | apply ite_keeps | apply KeepsO.next
      | exact Sub.of (by assumption) (by decide)

theorem slotBegins_keeps (i : Nat) (s : State) {s₀ : State} {W : Nat} (hs : Keeps W s₀ s)
    (hw : Sub 8200 W := by apply Sub.of; assumption; decide) : Keeps W s₀ (slotBegins i s) := by
  unfold slotBegins
  with_reducible
    repeat' first
      | assumption | intro _ | apply wr_keeps | apply modCtx_keeps | apply showCtx_keeps | apply ite_keeps
      | apply foldl_keeps | split | exact Sub.of (by assumption) (by decide)

theorem loopNext_keeps (G : Nat) (s : State) {s₀ : State} {W : Nat} (hs : Keeps W s₀ s)
    (hw : Sub 8200 W := by apply Sub.of; assumption; decide) : Keeps W s₀ (loopNext G s) := by
  unfold loopNext
  with_reducible
    repeat' first
      | assumption | apply wr_keeps | apply modCtx_keeps | apply ite_keeps | split
      | exact Sub.of (by assumption) (by decide)

theorem execSynLoop_keeps (G : Nat) (fl : BitVec 4) (a : BitVec 112) (ue : List Nat) (s : State) {s₀ : State} {W : Nat} (hs
    : Keeps W s₀ s) (hw : Sub 29614 W := by apply Sub.of; assumption; decide) : KeepsO W s₀ (execSynLoop G fl a ue s) := by
  unfold execSynLoop
  with_reducible
    repeat' first
      | assumption | intro _ | apply wr_keeps | apply modCtx_keeps | apply takeUe_keeps | apply spmRead_keeps
      | apply operandUe_keeps | apply engFail_keeps | apply synCommand_keeps | apply ite_keeps | apply KeepsO.next
      | exact Sub.of (by assumption) (by decide)

theorem execSynLoopEnd_keeps (G : Nat) (fl : BitVec 4) (a : BitVec 112) (s : State) {s₀ : State} {W : Nat} (hs : Keeps W s₀
    s) (hw : Sub 8200 W := by apply Sub.of; assumption; decide) : KeepsO W s₀ (execSynLoopEnd G fl a s) := by
  unfold execSynLoopEnd
  with_reducible
    repeat' first
      | assumption | intro _ | apply synCommand_keeps | apply loopNext_keeps

end Sys2Proof.Machine
end

