-- ==== Sys2Proof/Laws/KeepMov.lean ====
section
/-!
SUPPORT. The operations of Mov keep the queue, the count of free values and the forms of memory and registers.
-/

set_option Elab.async false

namespace Sys2Proof.Machine

theorem setHubByte_keeps (h : Nat) (v : Nat) (s : State) {s₀ : State} {W : Nat} (hs : Keeps W s₀ s)
    (hw : Sub 8 W := by apply Sub.of; assumption; decide) : Keeps W s₀ (setHubByte h v s) := by
  unfold setHubByte
  with_reducible
    repeat' first
      | assumption | apply wr_keeps

theorem hubError_keeps (b : Nat) (off : Nat) (src : Nat) (op : Nat) (part : Nat) (sev : Nat) (s : State) {s₀ : State} {W :
    Nat} (hs : Keeps W s₀ s) (hw : Sub 5006 W := by apply Sub.of; assumption; decide) : Keeps W s₀ (hubError b off src op
    part sev s) := by
  unfold hubError
  with_reducible
    repeat' first
      | assumption | apply draw_keeps | apply wr_keeps | apply orReg_keeps | apply raiseBit_keeps | apply report_keeps
      | exact Sub.of (by assumption) (by decide)

theorem hubUe_keeps (p : Nat) (cls : Nat) (src : Nat) (as : List Nat) (s : State) {s₀ : State} {W : Nat} (hs : Keeps W s₀ s)
    (hw : Sub 21390 W := by apply Sub.of; assumption; decide) : Keeps W s₀ (hubUe p cls src as s) := by
  unfold hubUe
  with_reducible
    repeat' first
      | assumption | apply bump_keeps | apply failFrame_keeps | apply hubError_keeps | split
      | exact Sub.of (by assumption) (by decide)

theorem hubWrite_keeps (p : Nat) (o : Nat) (b : Bytes) (s : State) {s₀ : State} {W : Nat} (hs : Keeps W s₀ s)
    (hw : Sub 48 W := by apply Sub.of; assumption; decide) : Keeps W s₀ (hubWrite p o b s) := by
  unfold hubWrite
  with_reducible
    repeat' first
      | assumption | intro _ | apply writeMem_keeps | apply setBadRange_keeps | apply ite_keeps | apply foldl_keeps
      | apply foldl_keeps_fst | exact Sub.of (by assumption) (by decide)

theorem zeroHubBank_keeps (h : Nat) (s : State) {s₀ : State} {W : Nat} (hs : Keeps W s₀ s)
    (hw : Sub 48 W := by apply Sub.of; assumption; decide) : Keeps W s₀ (zeroHubBank h s) := by
  unfold zeroHubBank
  with_reducible
    repeat' first
      | assumption | apply zeroRange_keeps

theorem bridgeBytes_keeps (p : Nat) (n : Nat) (s : State) {s₀ : State} {W : Nat} (hs : Keeps W s₀ s)
    (hw : Sub 4096 W := by apply Sub.of; assumption; decide) : Keeps W s₀ (bridgeBytes p n s) := by
  unfold bridgeBytes
  with_reducible
    repeat' first
      | assumption | apply energy_keeps

theorem doMovFill_keeps (G : Nat) (a : BitVec 112) (s : State) {s₀ : State} {W : Nat} (hs : Keeps W s₀ s)
    (hw : Sub 5054 W := by apply Sub.of; assumption; decide) : Keeps W s₀ (doMovFill G a s) := by
  unfold doMovFill
  with_reducible
    repeat' first
      | assumption | apply spmWrite_keeps

theorem execMovFill_keeps (G : Nat) (fl : BitVec 4) (a : BitVec 112) (ue : List Nat) (s : State) {s₀ : State} {W : Nat} (hs
    : Keeps W s₀ s) (hw : Sub 13246 W := by apply Sub.of; assumption; decide) : KeepsO W s₀ (execMovFill G fl a ue s) := by
  unfold execMovFill
  with_reducible
    repeat' first
      | assumption | intro _ | apply frameCommand_keeps | apply doMovFill_keeps | apply KeepsO.next
      | exact Sub.of (by assumption) (by decide)

theorem copyWords_keeps (G : Nat) (so : Nat) (d : Nat) (n : Nat) (s : State) {s₀ : State} {W : Nat} (hs : Keeps W s₀ s)
    (hw : Sub 21438 W := by apply Sub.of; assumption; decide) : Keeps W s₀ (copyWords G so d n s) := by
  unfold copyWords
  with_reducible
    repeat' first
      | assumption | intro _ | apply spmRead_keeps | apply spmWrite_keeps | apply spmPoison_keeps | apply spmUe_keeps
      | apply foldl_keeps | exact Sub.of (by assumption) (by decide)

theorem doMovCopy_keeps (G : Nat) (a : BitVec 112) (s : State) {s₀ : State} {W : Nat} (hs : Keeps W s₀ s)
    (hw : Sub 21438 W := by apply Sub.of; assumption; decide) : Keeps W s₀ (doMovCopy G a s) := by
  unfold doMovCopy
  with_reducible
    repeat' first
      | assumption | intro _ | apply copyWords_keeps | apply foldl_keeps

theorem execMovCopy_keeps (G : Nat) (fl : BitVec 4) (a : BitVec 112) (ue : List Nat) (s : State) {s₀ : State} {W : Nat} (hs
    : Keeps W s₀ s) (hw : Sub 29630 W := by apply Sub.of; assumption; decide) : KeepsO W s₀ (execMovCopy G fl a ue s) := by
  unfold execMovCopy
  with_reducible
    repeat' first
      | assumption | intro _ | apply frameCommand_keeps | apply doMovCopy_keeps | apply KeepsO.next
      | exact Sub.of (by assumption) (by decide)

theorem doMovHcopy_keeps (G : Nat) (a : BitVec 112) (s : State) {s₀ : State} {W : Nat} (hs : Keeps W s₀ s)
    (hw : Sub 21438 W := by apply Sub.of; assumption; decide) : Keeps W s₀ (doMovHcopy G a s) := by
  unfold doMovHcopy
  with_reducible
    repeat' first
      | assumption | intro _ | apply setBad_keeps | apply spmRead_keeps | apply spmWrite_keeps | apply spmPoison_keeps
      | apply spmUe_keeps | apply hubUe_keeps | apply hubWrite_keeps | apply bridgeBytes_keeps | apply ite_keeps
      | apply foldl_keeps | split | exact Sub.of (by assumption) (by decide)

theorem execMovHcopy_keeps (G : Nat) (fl : BitVec 4) (a : BitVec 112) (ue : List Nat) (s : State) {s₀ : State} {W : Nat} (hs
    : Keeps W s₀ s) (hw : Sub 29630 W := by apply Sub.of; assumption; decide) : KeepsO W s₀ (execMovHcopy G fl a ue s) := by
  unfold execMovHcopy
  with_reducible
    repeat' first
      | assumption | intro _ | apply frameCommand_keeps | apply doMovHcopy_keeps | apply KeepsO.next
      | exact Sub.of (by assumption) (by decide)

theorem scrubHit_keeps (G : Nat) (off : Nat) (ue : Bool) (s : State) {s₀ : State} {W : Nat} (hs : Keeps W s₀ s)
    (hw : Sub 5038 W := by apply Sub.of; assumption; decide) : Keeps W s₀ (scrubHit G off ue s) := by
  unfold scrubHit
  with_reducible
    repeat' first
      | assumption | apply draw_keeps | apply wr_keeps | apply bump_keeps | apply setBad_keeps | apply raiseBit_keeps
      | apply report_keeps | apply spmError_keeps | apply ite_keeps | apply Keeps.mk_cal
      | exact Sub.of (by assumption) (by decide)

theorem scrubWord_keeps (n row : Nat) (h : Nat × Nat × Bool) (s : State) {s₀ : State} {W : Nat} (hs : Keeps W s₀ s)
    (hw : Sub 5038 W := by apply Sub.of; assumption; decide) : Keeps W s₀ (scrubWord n row h s) := by
  unfold scrubWord
  with_reducible
    repeat' first
      | assumption | intro _ | apply scrubHit_keeps | apply ite_keeps
      | exact Sub.of (by assumption) (by decide)

theorem execScrubRow_keeps (n : Nat) (hits : List (Nat × Nat × Bool)) (s : State) {s₀ : State} {W : Nat} (hs : Keeps W s₀ s)
    (hw : Sub 5038 W := by apply Sub.of; assumption; decide) : KeepsO W s₀ (execScrubRow n hits s) := by
  unfold execScrubRow
  with_reducible
    repeat' first
      | assumption | intro _ | apply wr_keeps | apply bump_keeps | apply scrubWord_keeps | apply KeepsO.ite
      | apply ite_keeps | apply foldl_keeps | apply KeepsO.next | exact Sub.of (by assumption) (by decide)

end Sys2Proof.Machine
end

