-- ==== Sys2Proof/Laws/KeepTier.lean ====
section
/-!
SUPPORT. The operations of Tier keep the queue, the count of free values and the forms of memory and registers.
-/

set_option Elab.async false

namespace Sys2Proof.Machine

theorem modTier_keeps (s : State) (p : Nat) (f : TierPart → TierPart) {s₀ : State} {W : Nat} (hs : Keeps W s₀ s)
    (hw : Sub 524288 W := by apply Sub.of; assumption; decide) : Keeps W s₀ (modTier s p f) := by
  unfold modTier
  with_reducible
    repeat' first
      | assumption | apply Keeps.mk_tier

theorem modPage_keeps (s : State) (p : Nat) (n : Nat) (f : TierPage → TierPage) {s₀ : State} {W : Nat} (hs : Keeps W s₀ s)
    (hw : Sub 524288 W := by apply Sub.of; assumption; decide) : Keeps W s₀ (modPage s p n f) := by
  unfold modPage
  with_reducible
    repeat' first
      | assumption | apply modTier_keeps

theorem refreshTier_keeps (p : Nat) (s : State) {s₀ : State} {W : Nat} (hs : Keeps W s₀ s)
    (hw : Sub 8 W := by apply Sub.of; assumption; decide) : Keeps W s₀ (refreshTier p s) := by
  unfold refreshTier
  with_reducible
    repeat' first
      | assumption | apply wr_keeps

theorem usePool_keeps (fs : List Nat) (s : State) {s₀ : State} {W : Nat} (hs : Keeps W s₀ s)
    (hw : Sub 524288 W := by apply Sub.of; assumption; decide) : Keeps W s₀ (usePool fs s) := by
  unfold usePool
  with_reducible
    repeat' first
      | assumption | apply foldl_keeps | apply Keeps.mk_tier

theorem tierError_keeps (f : Field) (b : Nat) (ty : Nat) (n : Nat) (op : Nat) (part : Nat) (sev : Nat) (addr : Nat) (feeds :
    Bool) (s : State) {s₀ : State} {W : Nat} (hs : Keeps W s₀ s) (hw : Sub 5004 W := by apply Sub.of; assumption; decide) :
    Keeps W s₀ (tierError f b ty n op part sev addr feeds s) := by
  unfold tierError
  with_reducible
    repeat' first
      | assumption | apply unitError_keeps

theorem dieError_keeps (f : Nat → Field) (b : Nat) (a : Nat) (op : Nat) (part : Nat) (sev : Nat) (fails : Bool) (synd :
    Bytes) (s : State) {s₀ : State} {W : Nat} (hs : Keeps W s₀ s) (hw : Sub 5004 W := by apply Sub.of; assumption; decide) :
    Keeps W s₀ (dieError f b a op part sev fails synd s) := by
  unfold dieError
  with_reducible
    repeat' first
      | assumption | apply wr_keeps | apply unitError_keeps | exact Sub.of (by assumption) (by decide)

theorem clearBad_keeps (x : Nat) (n : Nat) (s : State) {s₀ : State} {W : Nat} (hs : Keeps W s₀ s)
    (hw : Sub 32 W := by apply Sub.of; assumption; decide) : Keeps W s₀ (clearBad x n s) := by
  unfold clearBad
  with_reducible
    repeat' first
      | assumption | apply setBadRange_keeps | apply ite_keeps

theorem memUe_keeps (a : Nat) (op : Nat) (part : Nat) (fails : Bool) (s : State) {s₀ : State} {W : Nat} (hs : Keeps W s₀ s)
    (hw : Sub 5036 W := by apply Sub.of; assumption; decide) : Keeps W s₀ (memUe a op part fails s) := by
  unfold memUe
  with_reducible
    repeat' first
      | assumption | apply wr_keeps | apply bump_keeps | apply setBadRange_keeps | apply tierError_keeps
      | apply dieError_keeps | apply ite_keeps | exact Sub.of (by assumption) (by decide)

theorem heatPage_keeps (s : State) (p : Nat) (a : Nat) {s₀ : State} {W : Nat} (hs : Keeps W s₀ s)
    (hw : Sub 524288 W := by apply Sub.of; assumption; decide) : Keeps W s₀ (heatPage s p a) := by
  unfold heatPage
  with_reducible
    repeat' first
      | assumption | apply modPage_keeps

theorem accountMem_keeps (p : Nat) (a : Nat) (n : Nat) (write : Bool) (s : State) {s₀ : State} {W : Nat} (hs : Keeps W s₀ s)
    (hw : Sub 4096 W := by apply Sub.of; assumption; decide) : Keeps W s₀ (accountMem p a n write s) := by
  unfold accountMem
  with_reducible
    repeat' first
      | assumption | apply account_keeps | apply energy_keeps | apply ite_keeps

theorem tierRead_keeps (p a n : Nat) (s : State) {s₀ : State} {W : Nat} (hs : Keeps W s₀ s)
    (hw : Sub 528384 W := by apply Sub.of; assumption; decide) : Keeps W s₀ (tierRead p a n s).2 := by
  unfold tierRead
  split
  · exact accountMem_keeps _ _ _ _ _ (heatPage_keeps _ _ _ hs)
  · exact hs

theorem tierRead_keeps' {p a n : Nat} {s t : State} {r : Option (Bytes × Bool)} (e : tierRead p a n s = (r, t)) {s₀ : State} {W : Nat}
    (hs : Keeps W s₀ s) (hw : Sub 528384 W := by apply Sub.of; assumption; decide) : Keeps W s₀ t := by
  have h := tierRead_keeps p a n s hs
  rw [e] at h
  exact h

theorem tierWrite_keeps (p : Nat) (a : Nat) (b : Bytes) (s : State) {s₀ : State} {W : Nat} (hs : Keeps W s₀ s)
    (hw : Sub 528432 W := by apply Sub.of; assumption; decide) : Keeps W s₀ (tierWrite p a b s).2 := by
  unfold tierWrite
  with_reducible
    repeat' first
      | assumption | apply writeMem_keeps | apply clearBad_keeps | apply heatPage_keeps | apply accountMem_keeps | split
      | exact Sub.of (by assumption) (by decide)

theorem rejectMove_keeps (r : MoveReq) (s : State) {s₀ : State} {W : Nat} (hs : Keeps W s₀ s)
    (hw : Sub 396 W := by apply Sub.of; assumption; decide) : Keeps W s₀ (rejectMove r s) := by
  unfold rejectMove
  with_reducible
    repeat' first
      | assumption | apply bump_keeps | apply raiseWith_keeps | exact Sub.of (by assumption) (by decide)

theorem takeMove_keeps (r : MoveReq) (s : State) {s₀ : State} {W : Nat} (hs : Keeps W s₀ s)
    (hw : Sub 524684 W := by apply Sub.of; assumption; decide) : Keeps W s₀ (takeMove r s) := by
  unfold takeMove
  with_reducible
    repeat' first
      | assumption | apply modTier_keeps | apply modPage_keeps | apply refreshTier_keeps | apply usePool_keeps
      | apply rejectMove_keeps | apply ite_keeps | split | apply Keeps.mk_tier | exact Sub.of (by assumption) (by decide)

theorem pumpMoves_keeps (rs : List MoveReq) (s : State) {s₀ : State} {W : Nat} (hs : Keeps W s₀ s)
    (hw : Sub 524684 W := by apply Sub.of; assumption; decide) : Keeps W s₀ (pumpMoves rs s) := by
  induction rs generalizing s with
  | nil => exact Keeps.mk_tier _ hs
  | cons r rs ih =>
    unfold pumpMoves
    split
    · exact Keeps.mk_tier _ hs
    · exact ih _ (takeMove_keeps r s hs)

theorem requestMoves_keeps (rs : List MoveReq) (s : State) {s₀ : State} {W : Nat} (hs : Keeps W s₀ s)
    (hw : Sub 524684 W := by apply Sub.of; assumption; decide) : Keeps W s₀ (requestMoves rs s) := by
  unfold requestMoves
  with_reducible
    repeat' first
      | assumption | intro _ | apply rejectMove_keeps | apply pumpMoves_keeps | apply ite_keeps | apply foldl_keeps
      | exact Sub.of (by assumption) (by decide)

theorem releaseFrame_keeps (p : Nat) (f : Nat) (ripe : Bool) (s : State) {s₀ : State} {W : Nat} (hs : Keeps W s₀ s)
    (hw : Sub 524288 W := by apply Sub.of; assumption; decide) : Keeps W s₀ (releaseFrame p f ripe s) := by
  unfold releaseFrame
  with_reducible
    repeat' first
      | assumption | apply Keeps.mk_tier

theorem abortMove_keeps (m : Move) (cause : Nat) (s : State) {s₀ : State} {W : Nat} (hs : Keeps W s₀ s)
    (hw : Sub 524684 W := by apply Sub.of; assumption; decide) : Keeps W s₀ (abortMove m cause s) := by
  unfold abortMove
  with_reducible
    repeat' first
      | assumption | apply wr_keeps | apply bump_keeps | apply raiseWith_keeps | apply modPage_keeps
      | apply refreshTier_keeps | apply releaseFrame_keeps | apply ite_keeps | apply Keeps.mk_tier
      | exact Sub.of (by assumption) (by decide)

theorem abortMoves_keeps (f : State → Move → Bool) (cause : Nat) (s : State) {s₀ : State} {W : Nat} (hs : Keeps W s₀ s)
    (hw : Sub 524684 W := by apply Sub.of; assumption; decide) : Keeps W s₀ (abortMoves f cause s) := by
  unfold abortMoves
  with_reducible
    repeat' first
      | assumption | intro _ | apply pumpMoves_keeps | apply abortMove_keeps | apply foldl_keeps

theorem execMoveAbort_keeps (p : Nat) (page : Nat) (cause : Nat) (s : State) {s₀ : State} {W : Nat} (hs : Keeps W s₀ s)
    (hw : Sub 524684 W := by apply Sub.of; assumption; decide) : KeepsO W s₀ (execMoveAbort p page cause s) := by
  unfold execMoveAbort
  with_reducible
    repeat' first
      | assumption | apply abortMoves_keeps | apply KeepsO.next

theorem copyFrame_keeps (src dst : Nat) (s : State) {s₀ : State} {W : Nat} (hs : Keeps W s₀ s)
    (hw : Sub 48 W := by apply Sub.of; assumption; decide) : Keeps W s₀ (copyFrame src dst s) := by
  have hz : Keeps W s₀ (zeroRange s (dst * pageBytes) pageBytes) := zeroRange_keeps _ _ hs
  unfold copyFrame
  refine foldl_keeps ?_ (fun t x h => setBadRange_keeps _ _ _ h)
  refine hz.other (M := 16) (by apply Sub.of; assumption; decide) (fun j => ?_)
    (by intro x hx; cases x <;> first | rfl | exact absurd hx (by decide))
  have k : ∀ (l : List (Nat × Byte)) (m : List Host.Cell), Memory.wf m = true → m.all (fun c => populated c.1) = true →
      Memory.wf (l.foldl (fun m c => pokeMem m (dst * pageBytes + (c.1 - src * pageBytes)) c.2) m) = true ∧
      (l.foldl (fun m c => pokeMem m (dst * pageBytes + (c.1 - src * pageBytes)) c.2) m).all (fun c => populated c.1) = true := by
    intro l
    induction l with
    | nil => exact fun m h1 h2 => ⟨h1, h2⟩
    | cons c r ih => exact fun m h1 h2 => ih _ (pokeMem_wf _ _ h1) (pokeMem_holes _ _ h2)
  exact ⟨(k _ _ j.mem j.holes).1, (k _ _ j.mem j.holes).2, j.bad, j.regs⟩

theorem reportFrame_keeps (f : Nat) (part : Nat) (s : State) {s₀ : State} {W : Nat} (hs : Keeps W s₀ s)
    (hw : Sub 5036 W := by apply Sub.of; assumption; decide) : Keeps W s₀ (reportFrame f part s) := by
  unfold reportFrame
  with_reducible
    repeat' first
      | assumption | apply memUe_keeps | split | dsimp only

theorem execMoveCopyDone_keeps (p : Nat) (page : Nat) (s : State) {s₀ : State} {W : Nat} (hs : Keeps W s₀ s)
    (hw : Sub 529340 W := by apply Sub.of; assumption; decide) : KeepsO W s₀ (execMoveCopyDone p page s) := by
  unfold execMoveCopyDone
  with_reducible
    repeat' first
      | assumption | apply bump_keeps | apply copyFrame_keeps | apply reportFrame_keeps | apply ite_keeps
      | apply KeepsO.next | split | apply Keeps.mk_tier | exact Sub.of (by assumption) (by decide)

theorem execFrameZeroingDone_keeps (f : Nat) (s : State) {s₀ : State} {W : Nat} (hs : Keeps W s₀ s)
    (hw : Sub 524344 W := by apply Sub.of; assumption; decide) : KeepsO W s₀ (execFrameZeroingDone f s) := by
  unfold execFrameZeroingDone
  with_reducible
    repeat' first
      | assumption | apply zeroRange_keeps | apply bump_keeps | apply modTier_keeps | apply refreshTier_keeps
      | apply ite_keeps | apply KeepsO.next | split | apply Keeps.mk_tier | exact Sub.of (by assumption) (by decide)

theorem switchPage_keeps (m : Move) (s : State) {s₀ : State} {W : Nat} (hs : Keeps W s₀ s)
    (hw : Sub 524296 W := by apply Sub.of; assumption; decide) : Keeps W s₀ (switchPage m s) := by
  unfold switchPage
  with_reducible
    repeat' first
      | assumption | apply bump_keeps | apply modPage_keeps | apply refreshTier_keeps | apply releaseFrame_keeps
      | apply ite_keeps | apply Keeps.mk_tier | exact Sub.of (by assumption) (by decide)

theorem tierAtTick_keeps (s : State) {s₀ : State} {W : Nat} (hs : Keeps W s₀ s)
    (hw : Sub 524684 W := by apply Sub.of; assumption; decide) : Keeps W s₀ (tierAtTick s) := by
  unfold tierAtTick
  with_reducible
    repeat' first
      | assumption | intro _ | apply pumpMoves_keeps | apply switchPage_keeps | apply foldl_keeps | apply Keeps.mk_tier
      | exact Sub.of (by assumption) (by decide)

theorem pinPage_keeps (p : Nat) (n : Nat) (s : State) {s₀ : State} {W : Nat} (hs : Keeps W s₀ s)
    (hw : Sub 524684 W := by apply Sub.of; assumption; decide) : Keeps W s₀ (pinPage p n s) := by
  unfold pinPage
  with_reducible
    repeat' first
      | assumption | apply modPage_keeps | apply refreshTier_keeps | apply abortMove_keeps | split
      | exact Sub.of (by assumption) (by decide)

theorem unpinPage_keeps (p : Nat) (n : Nat) (s : State) {s₀ : State} {W : Nat} (hs : Keeps W s₀ s)
    (hw : Sub 524296 W := by apply Sub.of; assumption; decide) : Keeps W s₀ (unpinPage p n s) := by
  unfold unpinPage
  with_reducible
    repeat' first
      | assumption | apply modPage_keeps | apply refreshTier_keeps | exact Sub.of (by assumption) (by decide)

theorem coolPages_keeps (p : Nat) (s : State) {s₀ : State} {W : Nat} (hs : Keeps W s₀ s)
    (hw : Sub 524288 W := by apply Sub.of; assumption; decide) : Keeps W s₀ (coolPages p s) := by
  unfold coolPages
  with_reducible
    repeat' first
      | assumption | intro _ | apply modPage_keeps | apply ite_keeps | apply foldl_keeps

theorem execPolicyPass_keeps (s : State) {s₀ : State} {W : Nat} (hs : Keeps W s₀ s)
    (hw : Sub 524684 W := by apply Sub.of; assumption; decide) : KeepsO W s₀ (execPolicyPass s) := by
  unfold execPolicyPass
  with_reducible
    repeat' first
      | assumption | intro _ | apply requestMoves_keeps | apply coolPages_keeps | apply KeepsO.ite | apply ite_keeps
      | apply foldl_keeps | apply KeepsO.next | exact Sub.of (by assumption) (by decide)

theorem patrolHit_keeps (h : Nat × Bool) (s : State) {s₀ : State} {W : Nat} (hs : Keeps W s₀ s)
    (hw : Sub 5036 W := by apply Sub.of; assumption; decide) : Keeps W s₀ (patrolHit h s) := by
  unfold patrolHit
  with_reducible
    repeat' first
      | assumption | intro _ | apply wr_keeps | apply bump_keeps | apply setBadRange_keeps | apply tierError_keeps
      | apply memUe_keeps | apply ite_keeps | dsimp only
      | exact Sub.of (by assumption) (by decide)

theorem execTier2Patrol_keeps (hits : List (Nat × Bool)) (s : State) {s₀ : State} {W : Nat} (hs : Keeps W s₀ s)
    (hw : Sub 5036 W := by apply Sub.of; assumption; decide) : KeepsO W s₀ (execTier2Patrol hits s) := by
  unfold execTier2Patrol
  with_reducible
    repeat' first
      | assumption | intro _ | apply patrolHit_keeps | apply KeepsO.ite | apply foldl_keeps | apply KeepsO.next
      | exact Sub.of (by assumption) (by decide)

theorem execTierProbeWrite_keeps (p : Nat) (page : Nat) (s : State) {s₀ : State} {W : Nat} (hs : Keeps W s₀ s)
    (hw : Sub 8 W := by apply Sub.of; assumption; decide) : KeepsO W s₀ (execTierProbeWrite p page s) := by
  unfold execTierProbeWrite
  with_reducible
    repeat' first
      | assumption | apply wr_keeps | apply KeepsO.ite | apply ite_keeps | apply KeepsO.next

theorem fenceTier2_keeps (s : State) {s₀ : State} {W : Nat} (hs : Keeps W s₀ s)
    (hw : Sub 528780 W := by apply Sub.of; assumption; decide) : Keeps W s₀ (fenceTier2 s) := by
  unfold fenceTier2
  with_reducible
    repeat' first
      | assumption | intro _ | apply wr_keeps | apply stopJob_keeps | apply abortMoves_keeps | apply ite_keeps
      | apply foldl_keeps | exact Sub.of (by assumption) (by decide)

theorem frameCommandNow_keeps (cls : Nat) (op : Nat) (G : Nat) (fl : BitVec 4) (a : BitVec 112) (ue : List Nat) (eff : State
    → State) (s : State) {s₀ : State} {W : Nat} (hs : Keeps W s₀ s) (heff : ∀ y0, Keeps W s₀ y0 → Keeps W s₀ (eff y0))
    (hw : Sub 8232 W := by apply Sub.of; assumption; decide) : KeepsO W s₀ (frameCommandNow cls op G fl a ue eff s) := by
  unfold frameCommandNow
  with_reducible
    repeat' first
      | assumption | intro _ | apply heff | apply dropUnlessEnd_keeps | apply frameCommand_keeps
      | exact Sub.of (by assumption) (by decide)

theorem loadUnit_keeps (G p a q : Nat) (s : State) {s₀ : State} {W : Nat} (hs : Keeps W s₀ s)
    (hw : Sub 545726 W := by apply Sub.of; assumption; decide) : Keeps W s₀ (loadUnit G p a q s) := by
  unfold loadUnit
  split
  · rename_i b bad t e
    have h := bump_keeps Reg.TIER_TLOAD_BYTE_CNT 256
      (bridgeBytes_keeps p 256 _ (spmWrite_keeps G q 3 9 b t (tierRead_keeps' e hs)))
    dsimp only
    split
    · split
      · exact failFrame_keeps _ _ _ (memUe_keeps _ _ _ _ _ (spmPoison_keeps _ _ _ _ h))
      · exact h
    · exact h
  · rename_i e
    exact stopJob_keeps _ _ _ (spmPoison_keeps _ _ _ _ (tierRead_keeps' e hs))

theorem execTierLoad_keeps (G : Nat) (fl : BitVec 4) (a : BitVec 112) (ue : List Nat) (s : State) {s₀ : State} {W : Nat} (hs
    : Keeps W s₀ s) (hw : Sub 553918 W := by apply Sub.of; assumption; decide) : KeepsO W s₀ (execTierLoad G fl a ue s) :=
    by
  unfold execTierLoad
  with_reducible
    repeat' first
      | assumption | intro _ | apply frameCommand_keeps | apply loadUnit_keeps | apply foldl_keeps | apply KeepsO.next
      | exact Sub.of (by assumption) (by decide)

theorem wpWrite_keeps (p : Nat) (a : Nat) (s : State) {s₀ : State} {W : Nat} (hs : Keeps W s₀ s)
    (hw : Sub 21388 W := by apply Sub.of; assumption; decide) : Keeps W s₀ (wpWrite p a s) := by
  unfold wpWrite
  with_reducible
    repeat' first
      | assumption | apply failFrame_keeps | apply tierError_keeps | exact Sub.of (by assumption) (by decide)

theorem storeUnit_keeps (G : Nat) (p : Nat) (q : Nat) (a : Nat) (s : State) {s₀ : State} {W : Nat} (hs : Keeps W s₀ s)
    (hw : Sub 545726 W := by apply Sub.of; assumption; decide) : Keeps W s₀ (storeUnit G p q a s) := by
  unfold storeUnit
  with_reducible
    repeat' first
      | assumption | apply bump_keeps | apply setBadRange_keeps | apply stopJob_keeps | apply spmRead_keeps
      | apply spmUe_keeps | apply bridgeBytes_keeps | apply tierWrite_keeps | apply wpWrite_keeps | apply ite_keeps
      | split | dsimp only | exact Sub.of (by assumption) (by decide)

theorem execTierStore_keeps (G : Nat) (fl : BitVec 4) (a : BitVec 112) (ue : List Nat) (s : State) {s₀ : State} {W : Nat}
    (hs : Keeps W s₀ s) (hw : Sub 553918 W := by apply Sub.of; assumption; decide) : KeepsO W s₀ (execTierStore G fl a ue s)
    := by
  unfold execTierStore
  with_reducible
    repeat' first
      | assumption | intro _ | apply frameCommand_keeps | apply storeUnit_keeps | apply foldl_keeps | apply KeepsO.next
      | exact Sub.of (by assumption) (by decide)

theorem execTierMigrate_keeps (G : Nat) (fl : BitVec 4) (a : BitVec 112) (ue : List Nat) (s : State) {s₀ : State} {W : Nat}
    (hs : Keeps W s₀ s) (hw : Sub 532520 W := by apply Sub.of; assumption; decide) : KeepsO W s₀ (execTierMigrate G fl a ue
    s) := by
  unfold execTierMigrate
  with_reducible
    repeat' first
      | assumption | intro _ | apply frameCommandNow_keeps | apply KeepsO.next | apply Keeps.mk_tier
      | exact Sub.of (by assumption) (by decide)

theorem closeStagedMoves_keeps (p : Nat) (commits : Bool) (s : State) {s₀ : State} {W : Nat} (hs : Keeps W s₀ s)
    (hw : Sub 524684 W := by apply Sub.of; assumption; decide) : Keeps W s₀ (closeStagedMoves p commits s) := by
  unfold closeStagedMoves
  with_reducible
    repeat' first
      | assumption | apply requestMoves_keeps | apply ite_keeps | apply Keeps.mk_tier
      | exact Sub.of (by assumption) (by decide)

end Sys2Proof.Machine
end

