-- ==== Sys2Proof/Laws/KeepFlags.lean ====
section
/-!
SUPPORT. The operations of Flags keep the queue, the count of free values and the forms of memory and registers.
-/

set_option Elab.async false

namespace Sys2Proof.Machine

theorem raiseFlags_keeps (G : Nat) (cls : Nat) (f : Flags) (s : State) {s₀ : State} {W : Nat} (hs : Keeps W s₀ s)
    (hw : Sub 21388 W := by apply Sub.of; assumption; decide) : Keeps W s₀ (raiseFlags G cls f s) := by
  unfold raiseFlags
  with_reducible
    repeat' first
      | assumption | apply engFail_keeps | apply frameCondition_keeps | apply ite_keeps

theorem readRanges_keeps (G : Nat) (cls : Nat) (src : Nat) (rs : List (Nat × Nat)) (s : State) {s₀ : State} {W : Nat} (hs :
    Keeps W s₀ s) (hw : Sub 21390 W := by apply Sub.of; assumption; decide) : Keeps W s₀ (readRanges G cls src rs s) := by
  unfold readRanges
  with_reducible
    repeat' first
      | assumption | intro _ | apply spmRead_keeps | apply operandUe_keeps | apply foldl_keeps
      | exact Sub.of (by assumption) (by decide)

end Sys2Proof.Machine
end

