-- ==== Sys2Proof/Laws/KeepModel.lean ====
section
/-!
SUPPORT. The operations of Model keep the queue, the count of free values and the forms of memory and registers.
-/

set_option Elab.async false

namespace Sys2Proof.Machine

theorem modVex_keeps (s : State) (p : Nat) (f : VexPart → VexPart) {s₀ : State} {W : Nat} (hs : Keeps W s₀ s)
    (hw : Sub 2097152 W := by apply Sub.of; assumption; decide) : Keeps W s₀ (modVex s p f) := by
  unfold modVex
  with_reducible
    repeat' first
      | assumption | apply Keeps.mk_vex

theorem vexTap_keeps (p : Nat) (stack : Nat) (rs : List (Nat × Nat)) (s : State) {s₀ : State} {W : Nat} (hs : Keeps W s₀ s)
    (hw : Sub 2097152 W := by apply Sub.of; assumption; decide) : Keeps W s₀ (vexTap p stack rs s) := by
  unfold vexTap
  with_reducible
    repeat' first
      | assumption | apply modVex_keeps | apply ite_keeps

theorem closeVex_keeps (p : Nat) (commits : Bool) (s : State) {s₀ : State} {W : Nat} (hs : Keeps W s₀ s)
    (hw : Sub 2097152 W := by apply Sub.of; assumption; decide) : Keeps W s₀ (closeVex p commits s) := by
  unfold closeVex
  with_reducible
    repeat' first
      | assumption | apply modVex_keeps | apply ite_keeps

end Sys2Proof.Machine
end

