-- ==== Sys2Proof/Laws/KeepRotation.lean ====
section
/-!
SUPPORT. The operations of Rotation keep the queue, the count of free values and the forms of memory and registers.
-/

set_option Elab.async false

namespace Sys2Proof.Machine

theorem rotError_keeps (f : Field) (b : Nat) (G : Nat) (s : State) {s₀ : State} {W : Nat} (hs : Keeps W s₀ s)
    (hw : Sub 21388 W := by apply Sub.of; assumption; decide) : Keeps W s₀ (rotError f b G s) := by
  unfold rotError
  with_reducible
    repeat' first
      | assumption | apply unitError_keeps | apply failFrame_keeps | exact Sub.of (by assumption) (by decide)

theorem doRot_keeps (inv : Bool) (quant : Bool) (G : Nat) (a : BitVec 112) (s : State) {s₀ : State} {W : Nat} (hs : Keeps W
    s₀ s) (hw : Sub 21438 W := by apply Sub.of; assumption; decide) : Keeps W s₀ (doRot inv quant G a s) := by
  unfold doRot
  with_reducible
    repeat' first
      | assumption | apply bump_keeps | apply spmRead_keeps | apply spmWrite_keeps | apply spmUe_keeps
      | apply frameCondition_keeps | apply rotError_keeps | apply ite_keeps | exact Sub.of (by assumption) (by decide)

theorem execRotFwd_keeps (G : Nat) (fl : BitVec 4) (a : BitVec 112) (ue : List Nat) (s : State) {s₀ : State} {W : Nat} (hs :
    Keeps W s₀ s) (hw : Sub 29630 W := by apply Sub.of; assumption; decide) : KeepsO W s₀ (execRotFwd G fl a ue s) := by
  unfold execRotFwd
  with_reducible
    repeat' first
      | assumption | intro _ | apply frameCommand_keeps | apply doRot_keeps | apply KeepsO.next
      | exact Sub.of (by assumption) (by decide)

theorem execRotFwdQ_keeps (G : Nat) (fl : BitVec 4) (a : BitVec 112) (ue : List Nat) (s : State) {s₀ : State} {W : Nat} (hs
    : Keeps W s₀ s) (hw : Sub 29630 W := by apply Sub.of; assumption; decide) : KeepsO W s₀ (execRotFwdQ G fl a ue s) := by
  unfold execRotFwdQ
  with_reducible
    repeat' first
      | assumption | intro _ | apply frameCommand_keeps | apply doRot_keeps | apply KeepsO.next
      | exact Sub.of (by assumption) (by decide)

theorem execRotInv_keeps (G : Nat) (fl : BitVec 4) (a : BitVec 112) (ue : List Nat) (s : State) {s₀ : State} {W : Nat} (hs :
    Keeps W s₀ s) (hw : Sub 29630 W := by apply Sub.of; assumption; decide) : KeepsO W s₀ (execRotInv G fl a ue s) := by
  unfold execRotInv
  with_reducible
    repeat' first
      | assumption | intro _ | apply frameCommand_keeps | apply doRot_keeps | apply KeepsO.next
      | exact Sub.of (by assumption) (by decide)

end Sys2Proof.Machine
end

