-- ==== Sys2Proof/Laws/KeepBdu.lean ====
section
/-!
SUPPORT. The operations of Bdu keep the queue, the count of free values and the forms of memory and registers.
-/

set_option Elab.async false

namespace Sys2Proof.Machine

theorem putArf_keeps (u : Nat) (v : Nat) (x : ArfSlot) (s : State) {s₀ : State} {W : Nat} (hs : Keeps W s₀ s)
    (hw : Sub 1048576 W := by apply Sub.of; assumption; decide) : Keeps W s₀ (putArf u v x s) := by
  unfold putArf
  with_reducible
    repeat' first
      | assumption | apply Keeps.mk_arf

theorem tsvRetry_keeps (G : Nat) (d : Nat) (s : State) {s₀ : State} {W : Nat} (hs : Keeps W s₀ s)
    (hw : Sub 5004 W := by apply Sub.of; assumption; decide) : Keeps W s₀ (tsvRetry G d s) := by
  unfold tsvRetry
  with_reducible
    repeat' first
      | assumption | apply bump_keeps | apply unitError_keeps | exact Sub.of (by assumption) (by decide)

theorem tsvFail_keeps (G : Nat) (d : Nat) (cls : Nat) (s : State) {s₀ : State} {W : Nat} (hs : Keeps W s₀ s)
    (hw : Sub 21388 W := by apply Sub.of; assumption; decide) : Keeps W s₀ (tsvFail G d cls s) := by
  unfold tsvFail
  with_reducible
    repeat' first
      | assumption | apply bump_keeps | apply unitError_keeps | apply failFrame_keeps
      | exact Sub.of (by assumption) (by decide)

theorem arfParity_keeps (G : Nat) (d : Nat) (j : Nat) (s : State) {s₀ : State} {W : Nat} (hs : Keeps W s₀ s)
    (hw : Sub 21388 W := by apply Sub.of; assumption; decide) : Keeps W s₀ (arfParity G d j s) := by
  unfold arfParity
  with_reducible
    repeat' first
      | assumption | apply unitError_keeps | apply failFrame_keeps | exact Sub.of (by assumption) (by decide)

theorem bduFaults_keeps (G : Nat) (cls : Nat) (flt : List BduFault) (s : State) {s₀ : State} {W : Nat} (hs : Keeps W s₀ s)
    (hw : Sub 21388 W := by apply Sub.of; assumption; decide) : Keeps W s₀ (bduFaults G cls flt s) := by
  unfold bduFaults
  with_reducible
    repeat' first
      | assumption | intro _ | apply tsvRetry_keeps | apply tsvFail_keeps | apply arfParity_keeps | apply foldl_keeps
      | split | exact Sub.of (by assumption) (by decide)

theorem doBduLoad_keeps (G : Nat) (a : BitVec 112) (flt : List BduFault) (s : State) {s₀ : State} {W : Nat} (hs : Keeps W s₀
    s) (hw : Sub 1069966 W := by apply Sub.of; assumption; decide) : Keeps W s₀ (doBduLoad G a flt s) := by
  unfold doBduLoad
  with_reducible
    repeat' first
      | assumption | intro _ | apply spmRead_keeps | apply spmUe_keeps | apply putArf_keeps | apply tsvFail_keeps
      | apply bduFaults_keeps | apply foldl_keeps | exact Sub.of (by assumption) (by decide)

theorem execBduLoad_keeps (G : Nat) (fl : BitVec 4) (a : BitVec 112) (ue : List Nat) (flt : List BduFault) (s : State) {s₀ :
    State} {W : Nat} (hs : Keeps W s₀ s) (hw : Sub 1078190 W := by apply Sub.of; assumption; decide) : KeepsO W s₀
    (execBduLoad G fl a ue flt s) := by
  unfold execBduLoad
  with_reducible
    repeat' first
      | assumption | intro _ | apply frameCommand_keeps | apply doBduLoad_keeps | apply KeepsO.next
      | exact Sub.of (by assumption) (by decide)

theorem bduRead_keeps (G : Nat) (d : Nat) (j : Nat) (base : Nat) (n : Nat) (legal : Bool) (s : State) {s₀ : State} {W : Nat}
    (hs : Keeps W s₀ s) (hw : Sub 21420 W := by apply Sub.of; assumption; decide) : Keeps W s₀ (bduRead G d j base n legal
    s) := by
  unfold bduRead
  with_reducible
    repeat' first
      | assumption | intro _ | apply bump_keeps | apply account_keeps | apply energy_keeps | apply failFrame_keeps
      | apply frameCondition_keeps | apply memUe_keeps | apply ite_keeps | apply foldl_keeps
      | exact Sub.of (by assumption) (by decide)

theorem doBduGemv_keeps (G : Nat) (a : BitVec 112) (flt : List BduFault) (s : State) {s₀ : State} {W : Nat} (hs : Keeps W s₀
    s) (hw : Sub 2118590 W := by apply Sub.of; assumption; decide) : Keeps W s₀ (doBduGemv G a flt s) := by
  unfold doBduGemv
  with_reducible
    repeat' first
      | assumption | intro _ | apply spmRead_keeps | apply spmWrite_keeps | apply spmUe_keeps
      | apply frameCondition_keeps | apply vexTap_keeps | apply tsvFail_keeps | apply bduFaults_keeps
      | apply bduRead_keeps | apply ite_keeps | apply foldl_keeps | exact Sub.of (by assumption) (by decide)

theorem execBduGemv_keeps (G : Nat) (fl : BitVec 4) (a : BitVec 112) (ue : List Nat) (flt : List BduFault) (s : State) {s₀ :
    State} {W : Nat} (hs : Keeps W s₀ s) (hw : Sub 2126782 W := by apply Sub.of; assumption; decide) : KeepsO W s₀
    (execBduGemv G fl a ue flt s) := by
  unfold execBduGemv
  with_reducible
    repeat' first
      | assumption | intro _ | apply frameCommand_keeps | apply doBduGemv_keeps | apply KeepsO.next
      | exact Sub.of (by assumption) (by decide)

theorem execDramRefreshWindow_keeps (n : Nat) (d : Nat) (s : State) {s₀ : State} {W : Nat} (hs : Keeps W s₀ s)
    (hw : Sub 8 W := by apply Sub.of; assumption; decide) : KeepsO W s₀ (execDramRefreshWindow n d s) := by
  unfold execDramRefreshWindow
  with_reducible
    repeat' first
      | assumption | apply wr_keeps | apply KeepsO.ite | apply ite_keeps | apply KeepsO.next

end Sys2Proof.Machine
end

