-- ==== Sys2Proof/Laws/KeepMxa.lean ====
section
/-!
SUPPORT. The operations of Mxa keep the queue, the count of free values and the forms of memory and registers.
-/

set_option Elab.async false

namespace Sys2Proof.Machine

theorem execMxaCfg_keeps (G : Nat) (fl : BitVec 4) (a : BitVec 112) (ue : List Nat) (s : State) {s₀ : State} {W : Nat} (hs :
    Keeps W s₀ s) (hw : Sub 8232 W := by apply Sub.of; assumption; decide) : KeepsO W s₀ (execMxaCfg G fl a ue s) := by
  unfold execMxaCfg
  with_reducible
    repeat' first
      | assumption | intro _ | apply modCtx_keeps | apply frameCommandNow_keeps | apply KeepsO.next
      | exact Sub.of (by assumption) (by decide)

theorem parityError_keeps (G : Nat) (arr0 : Nat) (s : State) {s₀ : State} {W : Nat} (hs : Keeps W s₀ s)
    (hw : Sub 21388 W := by apply Sub.of; assumption; decide) : Keeps W s₀ (parityError G arr0 s) := by
  unfold parityError
  with_reducible
    repeat' first
      | assumption | apply unitError_keeps | apply failFrame_keeps | exact Sub.of (by assumption) (by decide)

theorem runPass_keeps (G : Nat) (g : Gemm) (inv : Option F32) (par : List (Nat × Nat)) (q : State × Flags) (i : Nat)
    {s₀ : State} {W : Nat} (hs : Keeps W s₀ q.1) (hw : Sub 5054 W := by apply Sub.of; assumption; decide) : Keeps W s₀ (runPass G g inv par q i).1 := by
  unfold runPass
  dsimp only
  split
  · exact bump_keeps _ _ hs
  · exact foldl_keeps_fst (bump_keeps _ _ hs) (fun t y h => spmWrite_keeps _ _ _ _ _ _ h)

theorem finishQ8_keeps (G : Nat) (g : Gemm) (par : List (Nat × Nat)) (q : State × Flags) {s₀ : State} {W : Nat} (hs : Keeps W s₀ q.1) (hw : Sub 5054 W := by apply Sub.of; assumption; decide) :
    Keeps W s₀ (finishQ8 G g par q).1 := by
  unfold finishQ8
  exact spmWrite_keeps _ _ _ _ _ _ (spmWrite_keeps _ _ _ _ _ _ (spmWrite_keeps _ _ _ _ _ _ (drawBytes_keeps _ hs)))

theorem gemmRun_keeps (G arr0 i : Nat) (g : Gemm) (cfg : BitVec 112) (par : List (Nat × Nat)) (s : State) {s₀ : State} {W : Nat}
    (hs : Keeps W s₀ s) (hw : Sub 21438 W := by apply Sub.of; assumption; decide) : Keeps W s₀ (gemmRun G arr0 i g cfg par s).1 := by
  unfold gemmRun
  extract_lets n todo last ms ns inv s1 q0 q s2 s3
  split
  · exact hs
  · have h1 : Keeps W s₀ s1 := readRanges_keeps _ _ _ _ _ hs
    have hq0 : Keeps W s₀ q0.1 := foldl_keeps_fst (f := runPass G g inv.1 par) h1 (fun t y h => runPass_keeps _ _ _ _ _ _ h)
    have hq : Keeps W s₀ q.1 := ite_keeps_fst (finishQ8_keeps _ _ _ _ hq0) hq0
    have h2 : Keeps W s₀ s2 := raiseFlags_keeps _ _ _ _ hq
    exact ite_keeps (parityError_keeps _ _ _ h2) h2

theorem startGemm_keeps (G : Nat) (a : BitVec 112) (par : List (Nat × Nat)) (s : State)
    {s₀ : State} {W : Nat} (hs : Keeps W s₀ s) (hw : Sub 29630 W := by apply Sub.of; assumption; decide) : Keeps W s₀
    (startGemm G a par s) := by
  unfold startGemm
  with_reducible
    repeat' first
      | assumption | intro _ | apply modCtx_keeps | apply gemmRun_keeps
      | split | dsimp only | exact Sub.of (by assumption) (by decide)

theorem execMxaGemm_keeps (G : Nat) (fl : BitVec 4) (a : BitVec 112) (ue : List Nat) (par : List (Nat × Nat)) (s : State)
    {s₀ : State} {W : Nat} (hs : Keeps W s₀ s) (hw : Sub 29630 W := by apply Sub.of; assumption; decide) : KeepsO W s₀
    (execMxaGemm G fl a ue par s) := by
  unfold execMxaGemm
  with_reducible
    repeat' first
      | assumption | intro _ | apply frameCommand_keeps | apply startGemm_keeps | apply KeepsO.next
      | exact Sub.of (by assumption) (by decide)

theorem execArrivalThresholdReached_keeps (G : Nat) (i : Nat) (par : List (Nat × Nat)) (s : State) {s₀ : State} {W : Nat}
    (hs : Keeps W s₀ s) (hw : Sub 29630 W := by apply Sub.of; assumption; decide) : KeepsO W s₀ (execArrivalThresholdReached
    G i par s) := by
  unfold execArrivalThresholdReached
  with_reducible
    repeat' first
      | assumption | apply modCtx_keeps | apply gemmRun_keeps | apply KeepsO.next | split
      | exact Sub.of (by assumption) (by decide)

end Sys2Proof.Machine
end

