-- ==== Sys2Proof/Laws/KeepVec.lean ====
section
/-!
SUPPORT. The operations of Vec keep the queue, the count of free values and the forms of memory and registers.
-/

set_option Elab.async false

namespace Sys2Proof.Machine

theorem execVecCfg_keeps (G : Nat) (fl : BitVec 4) (a : BitVec 112) (ue : List Nat) (s : State) {s₀ : State} {W : Nat} (hs :
    Keeps W s₀ s) (hw : Sub 8232 W := by apply Sub.of; assumption; decide) : KeepsO W s₀ (execVecCfg G fl a ue s) := by
  unfold execVecCfg
  with_reducible
    repeat' first
      | assumption | intro _ | apply modCtx_keeps | apply frameCommandNow_keeps | apply KeepsO.next
      | exact Sub.of (by assumption) (by decide)

theorem vecF32_keeps (G : Nat) (dst : Nat) (rs : List (Nat × Nat)) (out : List Val) (s : State) {s₀ : State} {W : Nat} (hs :
    Keeps W s₀ s) (hw : Sub 21438 W := by apply Sub.of; assumption; decide) : Keeps W s₀ (vecF32 G dst rs out s) := by
  unfold vecF32
  with_reducible
    repeat' first
      | assumption | apply spmWrite_keeps | apply raiseFlags_keeps | apply readRanges_keeps
      | exact Sub.of (by assumption) (by decide)

theorem doBinary_keeps (f : F32 → F32 → F32) (G : Nat) (a : BitVec 112) (s : State) {s₀ : State} {W : Nat} (hs : Keeps W s₀
    s) (hw : Sub 21438 W := by apply Sub.of; assumption; decide) : Keeps W s₀ (doBinary f G a s) := by
  unfold doBinary
  with_reducible
    repeat' first
      | assumption | apply vecF32_keeps

theorem execVadd_keeps (G : Nat) (fl : BitVec 4) (a : BitVec 112) (ue : List Nat) (s : State) {s₀ : State} {W : Nat} (hs :
    Keeps W s₀ s) (hw : Sub 29630 W := by apply Sub.of; assumption; decide) : KeepsO W s₀ (execVadd G fl a ue s) := by
  unfold execVadd
  with_reducible
    repeat' first
      | assumption | intro _ | apply frameCommand_keeps | apply doBinary_keeps | apply KeepsO.next
      | exact Sub.of (by assumption) (by decide)

theorem execVmul_keeps (G : Nat) (fl : BitVec 4) (a : BitVec 112) (ue : List Nat) (s : State) {s₀ : State} {W : Nat} (hs :
    Keeps W s₀ s) (hw : Sub 29630 W := by apply Sub.of; assumption; decide) : KeepsO W s₀ (execVmul G fl a ue s) := by
  unfold execVmul
  with_reducible
    repeat' first
      | assumption | intro _ | apply frameCommand_keeps | apply doBinary_keeps | apply KeepsO.next
      | exact Sub.of (by assumption) (by decide)

theorem doVscale_keeps (G : Nat) (a : BitVec 112) (s : State) {s₀ : State} {W : Nat} (hs : Keeps W s₀ s)
    (hw : Sub 21438 W := by apply Sub.of; assumption; decide) : Keeps W s₀ (doVscale G a s) := by
  unfold doVscale
  with_reducible
    repeat' first
      | assumption | apply vecF32_keeps

theorem execVscale_keeps (G : Nat) (fl : BitVec 4) (a : BitVec 112) (ue : List Nat) (s : State) {s₀ : State} {W : Nat} (hs :
    Keeps W s₀ s) (hw : Sub 29630 W := by apply Sub.of; assumption; decide) : KeepsO W s₀ (execVscale G fl a ue s) := by
  unfold execVscale
  with_reducible
    repeat' first
      | assumption | intro _ | apply frameCommand_keeps | apply doVscale_keeps | apply KeepsO.next
      | exact Sub.of (by assumption) (by decide)

theorem doVfunc_keeps (G : Nat) (a : BitVec 112) (s : State) {s₀ : State} {W : Nat} (hs : Keeps W s₀ s)
    (hw : Sub 21438 W := by apply Sub.of; assumption; decide) : Keeps W s₀ (doVfunc G a s) := by
  unfold doVfunc
  with_reducible
    repeat' first
      | assumption | apply vecF32_keeps

theorem execVfunc_keeps (G : Nat) (fl : BitVec 4) (a : BitVec 112) (ue : List Nat) (s : State) {s₀ : State} {W : Nat} (hs :
    Keeps W s₀ s) (hw : Sub 29630 W := by apply Sub.of; assumption; decide) : KeepsO W s₀ (execVfunc G fl a ue s) := by
  unfold execVfunc
  with_reducible
    repeat' first
      | assumption | intro _ | apply frameCommand_keeps | apply doVfunc_keeps | apply KeepsO.next
      | exact Sub.of (by assumption) (by decide)

theorem execVglu_keeps (G : Nat) (fl : BitVec 4) (a : BitVec 112) (ue : List Nat) (s : State) {s₀ : State} {W : Nat} (hs :
    Keeps W s₀ s) (hw : Sub 29630 W := by apply Sub.of; assumption; decide) : KeepsO W s₀ (execVglu G fl a ue s) := by
  unfold execVglu
  with_reducible
    repeat' first
      | assumption | intro _ | apply frameCommand_keeps | apply doBinary_keeps | apply KeepsO.next
      | exact Sub.of (by assumption) (by decide)

theorem doVred_keeps (G : Nat) (a : BitVec 112) (s : State) {s₀ : State} {W : Nat} (hs : Keeps W s₀ s)
    (hw : Sub 21438 W := by apply Sub.of; assumption; decide) : Keeps W s₀ (doVred G a s) := by
  unfold doVred
  with_reducible
    repeat' first
      | assumption | apply vecF32_keeps

theorem execVred_keeps (G : Nat) (fl : BitVec 4) (a : BitVec 112) (ue : List Nat) (s : State) {s₀ : State} {W : Nat} (hs :
    Keeps W s₀ s) (hw : Sub 29630 W := by apply Sub.of; assumption; decide) : KeepsO W s₀ (execVred G fl a ue s) := by
  unfold execVred
  with_reducible
    repeat' first
      | assumption | intro _ | apply frameCommand_keeps | apply doVred_keeps | apply KeepsO.next
      | exact Sub.of (by assumption) (by decide)

theorem doVnorm_keeps (G : Nat) (a : BitVec 112) (s : State) {s₀ : State} {W : Nat} (hs : Keeps W s₀ s)
    (hw : Sub 21438 W := by apply Sub.of; assumption; decide) : Keeps W s₀ (doVnorm G a s) := by
  unfold doVnorm
  with_reducible
    repeat' first
      | assumption | apply vecF32_keeps

theorem execVnorm_keeps (G : Nat) (fl : BitVec 4) (a : BitVec 112) (ue : List Nat) (s : State) {s₀ : State} {W : Nat} (hs :
    Keeps W s₀ s) (hw : Sub 29630 W := by apply Sub.of; assumption; decide) : KeepsO W s₀ (execVnorm G fl a ue s) := by
  unfold execVnorm
  with_reducible
    repeat' first
      | assumption | intro _ | apply frameCommand_keeps | apply doVnorm_keeps | apply KeepsO.next
      | exact Sub.of (by assumption) (by decide)

theorem doVquant_keeps (G : Nat) (a : BitVec 112) (s : State) {s₀ : State} {W : Nat} (hs : Keeps W s₀ s)
    (hw : Sub 21438 W := by apply Sub.of; assumption; decide) : Keeps W s₀ (doVquant G a s) := by
  unfold doVquant
  with_reducible
    repeat' first
      | assumption | apply spmWrite_keeps | apply raiseFlags_keeps | apply readRanges_keeps | apply ite_keeps
      | exact Sub.of (by assumption) (by decide)

theorem execVquant_keeps (G : Nat) (fl : BitVec 4) (a : BitVec 112) (ue : List Nat) (s : State) {s₀ : State} {W : Nat} (hs :
    Keeps W s₀ s) (hw : Sub 29630 W := by apply Sub.of; assumption; decide) : KeepsO W s₀ (execVquant G fl a ue s) := by
  unfold execVquant
  with_reducible
    repeat' first
      | assumption | intro _ | apply frameCommand_keeps | apply doVquant_keeps | apply KeepsO.next
      | exact Sub.of (by assumption) (by decide)

theorem doVi64r_keeps (G : Nat) (a : BitVec 112) (s : State) {s₀ : State} {W : Nat} (hs : Keeps W s₀ s)
    (hw : Sub 21438 W := by apply Sub.of; assumption; decide) : Keeps W s₀ (doVi64r G a s) := by
  unfold doVi64r
  with_reducible
    repeat' first
      | assumption | apply vecF32_keeps

theorem execVi64r_keeps (G : Nat) (fl : BitVec 4) (a : BitVec 112) (ue : List Nat) (s : State) {s₀ : State} {W : Nat} (hs :
    Keeps W s₀ s) (hw : Sub 29630 W := by apply Sub.of; assumption; decide) : KeepsO W s₀ (execVi64r G fl a ue s) := by
  unfold execVi64r
  with_reducible
    repeat' first
      | assumption | intro _ | apply frameCommand_keeps | apply doVi64r_keeps | apply KeepsO.next
      | exact Sub.of (by assumption) (by decide)

theorem doVi64add_keeps (G : Nat) (a : BitVec 112) (s : State) {s₀ : State} {W : Nat} (hs : Keeps W s₀ s)
    (hw : Sub 21438 W := by apply Sub.of; assumption; decide) : Keeps W s₀ (doVi64add G a s) := by
  unfold doVi64add
  with_reducible
    repeat' first
      | assumption | apply spmWrite_keeps | apply readRanges_keeps | exact Sub.of (by assumption) (by decide)

theorem execVi64add_keeps (G : Nat) (fl : BitVec 4) (a : BitVec 112) (ue : List Nat) (s : State) {s₀ : State} {W : Nat} (hs
    : Keeps W s₀ s) (hw : Sub 29630 W := by apply Sub.of; assumption; decide) : KeepsO W s₀ (execVi64add G fl a ue s) := by
  unfold execVi64add
  with_reducible
    repeat' first
      | assumption | intro _ | apply frameCommand_keeps | apply doVi64add_keeps | apply KeepsO.next
      | exact Sub.of (by assumption) (by decide)

theorem doVcvt_keeps (G : Nat) (a : BitVec 112) (s : State) {s₀ : State} {W : Nat} (hs : Keeps W s₀ s)
    (hw : Sub 21438 W := by apply Sub.of; assumption; decide) : Keeps W s₀ (doVcvt G a s) := by
  unfold doVcvt
  with_reducible
    repeat' first
      | assumption | apply spmWrite_keeps | apply raiseFlags_keeps | apply readRanges_keeps | apply vecF32_keeps
      | apply ite_keeps | split | dsimp only | exact Sub.of (by assumption) (by decide)

theorem execVcvt_keeps (G : Nat) (fl : BitVec 4) (a : BitVec 112) (ue : List Nat) (s : State) {s₀ : State} {W : Nat} (hs :
    Keeps W s₀ s) (hw : Sub 29630 W := by apply Sub.of; assumption; decide) : KeepsO W s₀ (execVcvt G fl a ue s) := by
  unfold execVcvt
  with_reducible
    repeat' first
      | assumption | intro _ | apply frameCommand_keeps | apply doVcvt_keeps | apply KeepsO.next
      | exact Sub.of (by assumption) (by decide)

theorem runGuard_keeps (G : Nat) (pc : Nat) (s : State) (x : Nat × Bytes) {s₀ : State} {W : Nat} (hs : Keeps W s₀ s)
    (hw : Sub 21390 W := by apply Sub.of; assumption; decide) : Keeps W s₀ (runGuard G pc s x) := by
  unfold runGuard
  with_reducible
    repeat' first
      | assumption | apply wr_keeps | apply bump_keeps | apply account_keeps | apply energy_keeps | apply spmRead_keeps
      | apply operandUe_keeps | apply engFail_keeps | apply ite_keeps | split | exact Sub.of (by assumption) (by decide)

theorem execGuardEvaluation_keeps (G : Nat) (ue : List Nat) (s : State) {s₀ : State} {W : Nat} (hs : Keeps W s₀ s)
    (hw : Sub 29614 W := by apply Sub.of; assumption; decide) : KeepsO W s₀ (execGuardEvaluation G ue s) := by
  unfold execGuardEvaluation
  with_reducible
    repeat' first
      | assumption | intro _ | apply modCtx_keeps | apply takeUe_keeps | apply runGuard_keeps | apply ite_keeps
      | apply foldl_keeps | apply KeepsO.next | split | exact Sub.of (by assumption) (by decide)

end Sys2Proof.Machine
end

