-- ==== Sys2Proof/Laws/KeepLoess.lean ====
section
/-!
SUPPORT. The operations of Loess keep the queue, the count of free values and the forms of memory and registers.
-/

set_option Elab.async false

namespace Sys2Proof.Machine

theorem streamUnit_keeps (G a q : Nat) (x : State × Bool) {s₀ : State} {W : Nat} (hs : Keeps W s₀ x.1) (hw : Sub 529342 W := by apply Sub.of; assumption; decide) :
    Keeps W s₀ (streamUnit G a q x).1 := by
  unfold streamUnit
  dsimp only
  split
  · rename_i b bad t e
    have ht := tierRead_keeps' e hs
    have h : Keeps W s₀ (bump (spmWrite G q 2 6 b (if (match unitPhys t (ownerOf x.1 G) a with
        | some c => !ownTier1 G c | none => false) = true then bridgeBytes (ownerOf x.1 G) 256 t else t))
        (Reg.ENG_LOESS_BYTE_CNT G) 256) :=
      bump_keeps _ _ (spmWrite_keeps _ _ _ _ _ _ (ite_keeps (bridgeBytes_keeps _ _ _ ht) ht))
    refine ite_keeps ?_ h
    split
    · exact memUe_keeps _ _ _ _ _ h
    · exact h
  · rename_i e
    exact stopJob_keeps _ _ _ (tierRead_keeps' e hs)

theorem streamFail_keeps (f : Field) (b : Nat) (G : Nat) (st : Nat) (s : State) {s₀ : State} {W : Nat} (hs : Keeps W s₀ s)
    (hw : Sub 21388 W := by apply Sub.of; assumption; decide) : Keeps W s₀ (streamFail f b G st s) := by
  unfold streamFail
  with_reducible
    repeat' first
      | assumption | apply engFail_keeps

theorem streamSegment_keeps (G : Nat) (crc : List (Nat × Bool)) (acEn : Bool) (ac k a q units : Nat) (s : State) {s₀ : State} {W : Nat}
    (hs : Keeps W s₀ s) (hw : Sub 545726 W := by apply Sub.of; assumption; decide) : Keeps W s₀ (streamSegment G crc acEn ac k a q units s) := by
  unfold streamSegment
  extract_lets x lost s1 s2 s3
  have hx : Keeps W s₀ x.1 := foldl_keeps_fst (x := (s, false)) hs (fun t y h => streamUnit_keeps _ _ _ _ h)
  have h1 : Keeps W s₀ s1 := ite_keeps (spmPoison_keeps _ _ _ _ hx) hx
  have h2 : Keeps W s₀ s2 := ite_keeps (streamFail_keeps _ _ _ _ _ h1) h1
  have h3 : Keeps W s₀ s3 := ite_keeps (streamFail_keeps _ _ _ _ _ h2) h2
  exact ite_keeps (wr_keeps _ _ h3) h3

theorem streamDescriptor_keeps (G buf : Nat) (crc : List (Nat × Bool)) (x : State × Nat) (d : Bytes) {s₀ : State} {W : Nat}
    (hs : Keeps W s₀ x.1) (hw : Sub 2642878 W := by apply Sub.of; assumption; decide) : Keeps W s₀ (streamDescriptor G buf crc x d).1 := by
  unfold streamDescriptor
  extract_lets w units seg n a q s1 s2
  have h1 : Keeps W s₀ s1 := foldl_keeps hs (fun t y h => streamSegment_keeps _ _ _ _ _ _ _ _ _ h)
  exact ite_keeps (vexTap_keeps _ _ _ _ h1) h1

theorem doLoessStep_keeps (G : Nat) (a : BitVec 112) (crc : List (Nat × Bool)) (s : State) {s₀ : State} {W : Nat} (hs : Keeps W s₀ s) (hw : Sub 2642878 W := by apply Sub.of; assumption; decide) :
    Keeps W s₀ (doLoessStep G a crc s) :=
  foldl_keeps_fst (x := (s, 0)) hs (fun _ _ h => streamDescriptor_keeps _ _ _ _ _ h)

theorem execLoessStep_keeps (G : Nat) (fl : BitVec 4) (a : BitVec 112) (ue : List Nat) (crc : List (Nat × Bool)) (s : State)
    {s₀ : State} {W : Nat} (hs : Keeps W s₀ s) (hw : Sub 2651070 W := by apply Sub.of; assumption; decide) : KeepsO W s₀
    (execLoessStep G fl a ue crc s) := by
  unfold execLoessStep
  with_reducible
    repeat' first
      | assumption | intro _ | apply frameCommand_keeps | apply doLoessStep_keeps | apply KeepsO.next
      | exact Sub.of (by assumption) (by decide)

end Sys2Proof.Machine
end

