-- ==== Sys2Proof/Laws/KeepAtt.lean ====
section
/-!
SUPPORT. The operations of Att keep the queue, the count of free values and the forms of memory and registers.
-/

set_option Elab.async false

namespace Sys2Proof.Machine

theorem execAttCfg_keeps (G : Nat) (fl : BitVec 4) (a : BitVec 112) (ue : List Nat) (s : State) {s₀ : State} {W : Nat} (hs :
    Keeps W s₀ s) (hw : Sub 8232 W := by apply Sub.of; assumption; decide) : KeepsO W s₀ (execAttCfg G fl a ue s) := by
  unfold execAttCfg
  with_reducible
    repeat' first
      | assumption | intro _ | apply modCtx_keeps | apply frameCommandNow_keeps | apply KeepsO.next
      | exact Sub.of (by assumption) (by decide)

theorem attFail_keeps (f : Field) (b : Nat) (G : Nat) (st : Nat) (one : Bool) (feeds : Bool) (s : State) {s₀ : State} {W :
    Nat} (hs : Keeps W s₀ s) (hw : Sub 21388 W := by apply Sub.of; assumption; decide) : Keeps W s₀ (attFail f b G st one
    feeds s) := by
  unfold attFail
  with_reducible
    repeat' first
      | assumption | apply engFail_keeps

theorem doAttKvq_keeps (G : Nat) (a : BitVec 112) (s : State) {s₀ : State} {W : Nat} (hs : Keeps W s₀ s)
    (hw : Sub 21438 W := by apply Sub.of; assumption; decide) : Keeps W s₀ (doAttKvq G a s) := by
  unfold doAttKvq
  with_reducible
    repeat' first
      | assumption | apply wr_keeps | apply bump_keeps | apply raiseBit_keeps | apply spmWrite_keeps
      | apply readRanges_keeps | apply attFail_keeps | apply ite_keeps | apply foldl_keeps
      | exact Sub.of (by assumption) (by decide)

theorem execAttKvq_keeps (G : Nat) (fl : BitVec 4) (a : BitVec 112) (ue : List Nat) (s : State) {s₀ : State} {W : Nat} (hs :
    Keeps W s₀ s) (hw : Sub 29630 W := by apply Sub.of; assumption; decide) : KeepsO W s₀ (execAttKvq G fl a ue s) := by
  unfold execAttKvq
  with_reducible
    repeat' first
      | assumption | intro _ | apply frameCommand_keeps | apply doAttKvq_keeps | apply KeepsO.next
      | exact Sub.of (by assumption) (by decide)

theorem listError_keeps (G : Nat) (l : DescList) (k : ListAsk) (put : Bool) (s : State) {s₀ : State} {W : Nat} (hs : Keeps W s₀ s) (hw : Sub 21388 W := by apply Sub.of; assumption; decide) :
    ∀ t, listError G l k put s = some t → Keeps W s₀ t := by
  intro t e
  have hf : ∀ (f : Field) (b st : Nat) (one : Bool) (u : State), Keeps W s₀ u → Keeps W s₀
      (if put then failFrame (ownerOf u G) ⟨st, one, 14, 5⟩
          (unitError f (0x0100 + G / 4) (0x0600 + b) 14 5 1 9 (ownerOf u G) 1 (pcOf u G) [] true u)
        else attFail f b G st one true u) := fun f b st one u hu =>
    ite_keeps (failFrame_keeps _ _ _ (unitError_keeps _ _ _ _ _ _ _ _ _ _ _ _ _ hu)) (attFail_keeps _ _ _ _ _ _ _ hu)
  unfold listError at e
  dsimp only at e
  split at e
  · cases e
    exact hf _ _ _ _ _ hs
  · split at e
    · cases e
      exact hf _ _ _ _ _ (wr_keeps _ _ (wr_keeps _ _ hs))
    · cases e

theorem pageReads_keeps (G : Nat) (c : AttCfg) (nq : Nat) (d : PageDesc) (s : State) {s₀ : State} {W : Nat} (hs : Keeps W s₀
    s) (hw : Sub 21420 W := by apply Sub.of; assumption; decide) : Keeps W s₀ (pageReads G c nq d s) := by
  unfold pageReads
  with_reducible
    repeat' first
      | assumption | intro _ | apply bump_keeps | apply account_keeps | apply energy_keeps | apply failFrame_keeps
      | apply memUe_keeps | apply ite_keeps | apply foldl_keeps | exact Sub.of (by assumption) (by decide)

theorem clearArf_keeps (G : Nat) (s : State) {s₀ : State} {W : Nat} (hs : Keeps W s₀ s)
    (hw : Sub 1048576 W := by apply Sub.of; assumption; decide) : Keeps W s₀ (clearArf G s) := by
  unfold clearArf
  with_reducible
    repeat' first
      | assumption | intro _ | apply putArf_keeps | apply foldl_keeps

theorem writeStates_keeps (G : Nat) (final : Bool) (out : Nat) (aux : Nat) (xs : List AttState) (s : State) {s₀ : State} {W
    : Nat} (hs : Keeps W s₀ s) (hw : Sub 5054 W := by apply Sub.of; assumption; decide) : Keeps W s₀ (writeStates G final
    out aux xs s) := by
  unfold writeStates
  with_reducible
    repeat' first
      | assumption | apply bump_keeps | apply spmWrite_keeps | apply ite_keeps
      | exact Sub.of (by assumption) (by decide)

theorem attRunList_keeps (G : Nat) (a : BitVec 112) (flt : List BduFault) (l : DescList) (listBad : List Nat) (s : State)
    {s₀ : State} {W : Nat} (hs : Keeps W s₀ s) (hw : Sub 1070014 W := by apply Sub.of; assumption; decide) : Keeps W s₀
    (attRunList G a flt l listBad s) := by
  unfold attRunList
  with_reducible
    repeat' first
      | assumption | intro _ | apply drawBytes_keeps | apply wr_keeps | apply bump_keeps | apply raiseBit_keeps
      | apply spmWrite_keeps | apply operandUe_keeps | apply frameCondition_keeps | apply readRanges_keeps
      | apply bduFaults_keeps | apply attFail_keeps | apply pageReads_keeps | apply clearArf_keeps
      | apply writeStates_keeps | apply ite_keeps | apply foldl_keeps | exact Sub.of (by assumption) (by decide)

theorem doAttRun_keeps (G : Nat) (a : BitVec 112) (flt : List BduFault) (s : State) {s₀ : State} {W : Nat} (hs : Keeps W s₀ s) (hw : Sub 1070014 W := by apply Sub.of; assumption; decide) :
    Keeps W s₀ (doAttRun G a flt s) := by
  unfold doAttRun
  extract_lets c o n bad l s1
  have h1 : Keeps W s₀ s1 := spmRead_keeps _ _ _ _ hs
  refine ite_keeps (attRunList_keeps _ _ _ _ _ _ h1) ?_
  split
  · rename_i t e
    exact listError_keeps _ _ _ _ _ h1 (by apply Sub.of; assumption; decide) t e
  · exact attRunList_keeps _ _ _ _ _ _ h1

theorem execAttRun_keeps (G : Nat) (fl : BitVec 4) (a : BitVec 112) (ue : List Nat) (flt : List BduFault) (s : State) {s₀ :
    State} {W : Nat} (hs : Keeps W s₀ s) (hw : Sub 1078206 W := by apply Sub.of; assumption; decide) : KeepsO W s₀
    (execAttRun G fl a ue flt s) := by
  unfold execAttRun
  with_reducible
    repeat' first
      | assumption | intro _ | apply frameCommand_keeps | apply doAttRun_keeps | apply KeepsO.next
      | exact Sub.of (by assumption) (by decide)

theorem doAttMerge_keeps (G : Nat) (a : BitVec 112) (s : State) {s₀ : State} {W : Nat} (hs : Keeps W s₀ s)
    (hw : Sub 21438 W := by apply Sub.of; assumption; decide) : Keeps W s₀ (doAttMerge G a s) := by
  unfold doAttMerge
  with_reducible
    repeat' first
      | assumption | apply readRanges_keeps | apply attFail_keeps | apply writeStates_keeps | apply ite_keeps
      | exact Sub.of (by assumption) (by decide)

theorem execAttMerge_keeps (G : Nat) (fl : BitVec 4) (a : BitVec 112) (ue : List Nat) (s : State) {s₀ : State} {W : Nat} (hs
    : Keeps W s₀ s) (hw : Sub 29630 W := by apply Sub.of; assumption; decide) : KeepsO W s₀ (execAttMerge G fl a ue s) := by
  unfold execAttMerge
  with_reducible
    repeat' first
      | assumption | intro _ | apply frameCommand_keeps | apply doAttMerge_keeps | apply KeepsO.next
      | exact Sub.of (by assumption) (by decide)

theorem putRow_keeps (p : Nat) (a : Nat) (b : Bytes) (bad : Bool) (s : State) {s₀ : State} {W : Nat} (hs : Keeps W s₀ s)
    (hw : Sub 4144 W := by apply Sub.of; assumption; decide) : Keeps W s₀ (putRow p a b bad s) := by
  unfold putRow
  with_reducible
    repeat' first
      | assumption | apply writeMem_keeps | apply setBadRange_keeps | apply accountMem_keeps
      | exact Sub.of (by assumption) (by decide)

theorem kvPutRow_keeps (G : Nat) (layer : Nat) (row : Nat) (fresh : Nat) (l : DescList) (s : State) (f : PosInfo × Nat) {s₀
    : State} {W : Nat} (hs : Keeps W s₀ s) (hw : Sub 21438 W := by apply Sub.of; assumption; decide) : Keeps W s₀ (kvPutRow
    G layer row fresh l s f) := by
  unfold kvPutRow
  with_reducible
    repeat' first
      | assumption | apply bump_keeps | apply unitError_keeps | apply spmRead_keeps | apply spmUe_keeps
      | apply bridgeBytes_keeps | apply putRow_keeps | apply ite_keeps | split | exact Sub.of (by assumption) (by decide)

theorem doKvPut_keeps (G : Nat) (a : BitVec 112) (s : State) {s₀ : State} {W : Nat} (hs : Keeps W s₀ s)
    (hw : Sub 21438 W := by apply Sub.of; assumption; decide) : Keeps W s₀ (doKvPut G a s) := by
  unfold doKvPut
  extract_lets lbuf row o n bad l s1
  have h1 : Keeps W s₀ s1 := spmRead_keeps _ _ _ _ hs
  refine ite_keeps (spmUe_keeps _ _ _ _ _ (unitError_keeps _ _ _ _ _ _ _ _ _ _ _ _ _ h1)) ?_
  split
  · rename_i t e
    exact listError_keeps _ _ _ _ _ h1 (by apply Sub.of; assumption; decide) t e
  · exact foldl_keeps h1 (fun t y h => kvPutRow_keeps _ _ _ _ _ _ _ h)

theorem execKvPut_keeps (G : Nat) (fl : BitVec 4) (a : BitVec 112) (ue : List Nat) (s : State) {s₀ : State} {W : Nat} (hs :
    Keeps W s₀ s) (hw : Sub 29630 W := by apply Sub.of; assumption; decide) : KeepsO W s₀ (execKvPut G fl a ue s) := by
  unfold execKvPut
  with_reducible
    repeat' first
      | assumption | intro _ | apply frameCommand_keeps | apply doKvPut_keeps | apply KeepsO.next
      | exact Sub.of (by assumption) (by decide)

end Sys2Proof.Machine
end

