-- ==== Sys2Proof/Laws/KeepSrt.lean ====
section
/-!
SUPPORT. The operations of Srt keep the queue, the count of free values and the forms of memory and registers.
-/

set_option Elab.async false

namespace Sys2Proof.Machine

theorem execSrtCfg_keeps (G : Nat) (fl : BitVec 4) (a : BitVec 112) (ue : List Nat) (s : State) {s₀ : State} {W : Nat} (hs :
    Keeps W s₀ s) (hw : Sub 8232 W := by apply Sub.of; assumption; decide) : KeepsO W s₀ (execSrtCfg G fl a ue s) := by
  unfold execSrtCfg
  with_reducible
    repeat' first
      | assumption | intro _ | apply modCtx_keeps | apply frameCommandNow_keeps | apply KeepsO.next
      | exact Sub.of (by assumption) (by decide)

theorem srtFail_keeps (f : Field) (b : Nat) (G : Nat) (st : Nat) (one : Bool) (mem : Option Nat) (idx : Nat) (s : State) {s₀
    : State} {W : Nat} (hs : Keeps W s₀ s) (hw : Sub 21388 W := by apply Sub.of; assumption; decide) : Keeps W s₀ (srtFail f
    b G st one mem idx s) := by
  unfold srtFail
  with_reducible
    repeat' first
      | assumption | apply wr_keeps | apply engFail_keeps | split | exact Sub.of (by assumption) (by decide)

theorem srtNonfinite_keeps (G : Nat) (idx : Nat) (s : State) {s₀ : State} {W : Nat} (hs : Keeps W s₀ s)
    (hw : Sub 21388 W := by apply Sub.of; assumption; decide) : Keeps W s₀ (srtNonfinite G idx s) := by
  unfold srtNonfinite
  with_reducible
    repeat' first
      | assumption | apply srtFail_keeps

theorem srtMap_keeps (G : Nat) (idx : Nat) (s : State) {s₀ : State} {W : Nat} (hs : Keeps W s₀ s)
    (hw : Sub 21388 W := by apply Sub.of; assumption; decide) : Keeps W s₀ (srtMap G idx s) := by
  unfold srtMap
  with_reducible
    repeat' first
      | assumption | apply srtFail_keeps

theorem srtData_keeps (G : Nat) (mem : Nat) (idx : Nat) (s : State) {s₀ : State} {W : Nat} (hs : Keeps W s₀ s)
    (hw : Sub 21388 W := by apply Sub.of; assumption; decide) : Keeps W s₀ (srtData G mem idx s) := by
  unfold srtData
  with_reducible
    repeat' first
      | assumption | apply srtFail_keeps

theorem srtCount_keeps (G : Nat) (mem : Nat) (s : State) {s₀ : State} {W : Nat} (hs : Keeps W s₀ s)
    (hw : Sub 21388 W := by apply Sub.of; assumption; decide) : Keeps W s₀ (srtCount G mem s) := by
  unfold srtCount
  with_reducible
    repeat' first
      | assumption | apply srtFail_keeps

theorem doSrtTopk_keeps (G : Nat) (a : BitVec 112) (s : State) {s₀ : State} {W : Nat} (hs : Keeps W s₀ s)
    (hw : Sub 21438 W := by apply Sub.of; assumption; decide) : Keeps W s₀ (doSrtTopk G a s) := by
  unfold doSrtTopk
  with_reducible
    repeat' first
      | assumption | apply spmWrite_keeps | apply readRanges_keeps | apply srtNonfinite_keeps | apply ite_keeps | split
      | dsimp only | exact Sub.of (by assumption) (by decide)

theorem execSrtTopk_keeps (G : Nat) (fl : BitVec 4) (a : BitVec 112) (ue : List Nat) (s : State) {s₀ : State} {W : Nat} (hs
    : Keeps W s₀ s) (hw : Sub 29630 W := by apply Sub.of; assumption; decide) : KeepsO W s₀ (execSrtTopk G fl a ue s) := by
  unfold execSrtTopk
  with_reducible
    repeat' first
      | assumption | intro _ | apply frameCommand_keeps | apply doSrtTopk_keeps | apply KeepsO.next
      | exact Sub.of (by assumption) (by decide)

theorem doSrtRoute_keeps (G : Nat) (a : BitVec 112) (s : State) {s₀ : State} {W : Nat} (hs : Keeps W s₀ s)
    (hw : Sub 21438 W := by apply Sub.of; assumption; decide) : Keeps W s₀ (doSrtRoute G a s) := by
  unfold doSrtRoute
  with_reducible
    repeat' first
      | assumption | apply bump_keeps | apply spmWrite_keeps | apply readRanges_keeps | apply srtMap_keeps
      | apply ite_keeps | split | dsimp only | exact Sub.of (by assumption) (by decide)

theorem execSrtRoute_keeps (G : Nat) (fl : BitVec 4) (a : BitVec 112) (ue : List Nat) (s : State) {s₀ : State} {W : Nat} (hs
    : Keeps W s₀ s) (hw : Sub 29630 W := by apply Sub.of; assumption; decide) : KeepsO W s₀ (execSrtRoute G fl a ue s) := by
  unfold execSrtRoute
  with_reducible
    repeat' first
      | assumption | intro _ | apply frameCommand_keeps | apply doSrtRoute_keeps | apply KeepsO.next
      | exact Sub.of (by assumption) (by decide)

theorem binExpert_keeps (G : Nat) (c : SrtCfg) (a : BitVec 112) (rows : List RecvRow) (s0 : State) (s : State) (x : Nat) {s₀
    : State} {W : Nat} (hs0 : Keeps W s₀ s0) (hs : Keeps W s₀ s) (hw : Sub 5054 W := by apply Sub.of; assumption; decide) :
    Keeps W s₀ (binExpert G c a rows s0 s x) := by
  unfold binExpert
  with_reducible
    repeat' first
      | assumption | apply bump_keeps | apply spmWrite_keeps | apply ite_keeps
      | exact Sub.of (by assumption) (by decide)

theorem doSrtBin_keeps (G : Nat) (a : BitVec 112) (s : State) {s₀ : State} {W : Nat} (hs : Keeps W s₀ s)
    (hw : Sub 21438 W := by apply Sub.of; assumption; decide) : Keeps W s₀ (doSrtBin G a s) := by
  unfold doSrtBin
  with_reducible
    repeat' first
      | assumption | intro _ | apply readRanges_keeps | apply srtData_keeps | apply binExpert_keeps | apply ite_keeps
      | apply foldl_keeps | split | dsimp only | exact Sub.of (by assumption) (by decide)

theorem execSrtBin_keeps (G : Nat) (fl : BitVec 4) (a : BitVec 112) (ue : List Nat) (s : State) {s₀ : State} {W : Nat} (hs :
    Keeps W s₀ s) (hw : Sub 29630 W := by apply Sub.of; assumption; decide) : KeepsO W s₀ (execSrtBin G fl a ue s) := by
  unfold execSrtBin
  with_reducible
    repeat' first
      | assumption | intro _ | apply frameCommand_keeps | apply doSrtBin_keeps | apply KeepsO.next
      | exact Sub.of (by assumption) (by decide)

theorem doSrtReturn_keeps (G : Nat) (a : BitVec 112) (s : State) {s₀ : State} {W : Nat} (hs : Keeps W s₀ s)
    (hw : Sub 21438 W := by apply Sub.of; assumption; decide) : Keeps W s₀ (doSrtReturn G a s) := by
  unfold doSrtReturn
  with_reducible
    repeat' first
      | assumption | intro _ | apply spmWrite_keeps | apply readRanges_keeps | apply srtNonfinite_keeps
      | apply foldl_keeps | split | dsimp only | exact Sub.of (by assumption) (by decide)

theorem execSrtReturn_keeps (G : Nat) (fl : BitVec 4) (a : BitVec 112) (ue : List Nat) (s : State) {s₀ : State} {W : Nat}
    (hs : Keeps W s₀ s) (hw : Sub 29630 W := by apply Sub.of; assumption; decide) : KeepsO W s₀ (execSrtReturn G fl a ue s)
    := by
  unfold execSrtReturn
  with_reducible
    repeat' first
      | assumption | intro _ | apply frameCommand_keeps | apply doSrtReturn_keeps | apply KeepsO.next
      | exact Sub.of (by assumption) (by decide)

theorem doSrtCombine_keeps (G : Nat) (a : BitVec 112) (s : State) {s₀ : State} {W : Nat} (hs : Keeps W s₀ s) (hw : Sub 21438 W := by apply Sub.of; assumption; decide) :
    Keeps W s₀ (doSrtCombine G a s) := by
  unfold doSrtCombine
  extract_lets c selO rt rr sh out toks nans s1
  have h1 : Keeps W s₀ s1 := readRanges_keeps _ _ _ _ _ hs
  split
  · split
    · exact srtMap_keeps _ _ _ h1
    · split
      · exact srtCount_keeps _ _ _ (spmWrite_keeps _ _ _ _ _ _ h1)
      · extract_lets rows live s2 s3 s4
        have h2 : Keeps W s₀ s2 := readRanges_keeps _ _ _ _ _ h1
        have h3 : Keeps W s₀ s3 :=
          h2.step (M := 2) (by apply Sub.of; assumption; decide) rfl (Nat.le_add_right _ _)
            (fun j => ⟨j.mem, j.holes, j.bad, j.regs⟩)
            (by intro x hx; cases x <;> first | rfl | exact absurd hx (by decide))
        have h4 : Keeps W s₀ s4 := spmWrite_keeps _ _ _ _ _ _ h3
        split
        · exact h4
        · exact srtNonfinite_keeps _ _ _ h4
  · exact spmWrite_keeps _ _ _ _ _ _ h1

theorem execSrtCombine_keeps (G : Nat) (fl : BitVec 4) (a : BitVec 112) (ue : List Nat) (s : State) {s₀ : State} {W : Nat}
    (hs : Keeps W s₀ s) (hw : Sub 29630 W := by apply Sub.of; assumption; decide) : KeepsO W s₀ (execSrtCombine G fl a ue s)
    := by
  unfold execSrtCombine
  with_reducible
    repeat' first
      | assumption | intro _ | apply frameCommand_keeps | apply doSrtCombine_keeps | apply KeepsO.next
      | exact Sub.of (by assumption) (by decide)

end Sys2Proof.Machine
end

