-- ==== Sys2Proof/Laws/KeepRemote.lean ====
section
/-!
SUPPORT. The operations of Remote keep the queue, the count of free values and the forms of memory and registers.
-/

set_option Elab.async false

namespace Sys2Proof.Machine

theorem takePacket_keeps (rsp : Bool) (src : Nat) (b : Bytes) (s : State) {s₀ : State} {W : Nat} (hs : Keeps W s₀ s)
    (hw : Sub 32768 W := by apply Sub.of; assumption; decide) : Keeps W s₀ (takePacket rsp src b s) := by
  unfold takePacket
  with_reducible
    repeat' first
      | assumption | split | apply Keeps.mk_fab

theorem putComb_keeps (e : Nat) (c : CombEnt) (s : State) {s₀ : State} {W : Nat} (hs : Keeps W s₀ s)
    (hw : Sub 8388608 W := by apply Sub.of; assumption; decide) : Keeps W s₀ (putComb e c s) := by
  unfold putComb
  with_reducible
    repeat' first
      | assumption | apply Keeps.mk_rmt

theorem joinReq_keeps (p : RmtReq) (q : RmtReq) (s : State) {s₀ : State} {W : Nat} (hs : Keeps W s₀ s)
    (hw : Sub 8388616 W := by apply Sub.of; assumption; decide) : Keeps W s₀ (joinReq p q s).2 := by
  unfold joinReq
  with_reducible
    repeat' first
      | assumption | apply bump_keeps | apply putComb_keeps | apply ite_keeps | exact Sub.of (by assumption) (by decide)

theorem queueReq_keeps (l : Nat) (vc : Nat) (dest : Nat) (q : RmtReq) (s : State) {s₀ : State} {W : Nat} (hs : Keeps W s₀ s)
    (hw : Sub 8421384 W := by apply Sub.of; assumption; decide) : Keeps W s₀ (queueReq l vc dest q s) := by
  unfold queueReq
  with_reducible
    repeat' first
      | assumption | apply modLink_keeps | apply joinReq_keeps | apply ite_keeps | split | apply Keeps.mk_rmt
      | exact Sub.of (by assumption) (by decide)

theorem homeInput_keeps (q : RmtReq) (s : State) {s₀ : State} {W : Nat} (hs : Keeps W s₀ s)
    (hw : Sub 8421384 W := by apply Sub.of; assumption; decide) : Keeps W s₀ (homeInput q s) := by
  unfold homeInput
  with_reducible
    repeat' first
      | assumption | apply joinReq_keeps | apply ite_keeps | split | apply Keeps.mk_fab
      | exact Sub.of (by assumption) (by decide)

theorem sendReq_keeps (q : RmtReq) (s : State) {s₀ : State} {W : Nat} (hs : Keeps W s₀ s)
    (hw : Sub 8421384 W := by apply Sub.of; assumption; decide) : ∀ t, sendReq q s = some t → Keeps W s₀ t := by
  intro t e
  unfold sendReq at e
  dsimp only at e
  split at e
  · cases e
    exact homeInput_keeps _ _ hs
  · split at e
    · cases e
      exact queueReq_keeps _ _ _ _ _ (ite_keeps (bump_keeps _ _ hs) hs)
    · cases e

theorem sendRsp_keeps (q : RmtReq) (code : Nat) (data : Bytes) (s : State) {s₀ : State} {W : Nat} (hs : Keeps W s₀ s) (hw : Sub 32776 W := by apply Sub.of; assumption; decide) :
    Keeps W s₀ (sendRsp q code data s) := sendPacket_getD_keeps _ _ _ _ _ _ _ hs

theorem rmtInfo_keeps (code : Nat) (peer : Nat) (reqid : Nat) (addr : Nat) (s : State) {s₀ : State} {W : Nat} (hs : Keeps W
    s₀ s) (hw : Sub 8 W := by apply Sub.of; assumption; decide) : Keeps W s₀ (rmtInfo code peer reqid addr s) := by
  unfold rmtInfo
  with_reducible
    repeat' first
      | assumption | apply wr_keeps

theorem rmtEvent_keeps (f : Field) (b : Nat) (part : Nat) (addr : Nat) (s : State) {s₀ : State} {W : Nat} (hs : Keeps W s₀
    s) (hw : Sub 396 W := by apply Sub.of; assumption; decide) : Keeps W s₀ (rmtEvent f b part addr s) := by
  unfold rmtEvent
  with_reducible
    repeat' first
      | assumption | apply setEvent_keeps

theorem localError_keeps (q : RmtReq) (code : Nat) (s : State) {s₀ : State} {W : Nat} (hs : Keeps W s₀ s)
    (hw : Sub 396 W := by apply Sub.of; assumption; decide) : Keeps W s₀ (localError q code s) := by
  unfold localError
  with_reducible
    repeat' first
      | assumption | apply rmtInfo_keeps | apply rmtEvent_keeps | apply ite_keeps
      | exact Sub.of (by assumption) (by decide)

theorem trapThread_keeps (t : Nat) (op : Nat) (code : Nat) (s : State) {s₀ : State} {W : Nat} (hs : Keeps W s₀ s)
    (hw : Sub 8388612 W := by apply Sub.of; assumption; decide) : Keeps W s₀ (trapThread t op code s) := by
  unfold trapThread
  with_reducible
    repeat' first
      | assumption | apply emit_keeps | apply ite_keeps | apply Keeps.mk_rmt | exact Sub.of (by assumption) (by decide)

theorem endFence_keeps (t : Nat) (s : State) {s₀ : State} {W : Nat} (hs : Keeps W s₀ s)
    (hw : Sub 8388612 W := by apply Sub.of; assumption; decide) : Keeps W s₀ (endFence t s) := by
  unfold endFence
  with_reducible
    repeat' first
      | assumption | apply emit_keeps | apply Keeps.mk_rmt | exact Sub.of (by assumption) (by decide)

theorem wakeFence_keeps (t : Nat) (s : State) {s₀ : State} {W : Nat} (hs : Keeps W s₀ s)
    (hw : Sub 8388612 W := by apply Sub.of; assumption; decide) : Keeps W s₀ (wakeFence t s) := by
  unfold wakeFence
  with_reducible
    repeat' first
      | assumption | apply endFence_keeps | apply ite_keeps

theorem issueReq_keeps (q : RmtReq) (s : State) {s₀ : State} {W : Nat} (hs : Keeps W s₀ s)
    (hw : Sub 8421384 W := by apply Sub.of; assumption; decide) : Keeps W s₀ (issueReq q s).1 := by
  unfold issueReq
  dsimp only
  split
  · exact Keeps.mk_rmt _ hs
  · split
    · rename_i t e
      exact Keeps.mk_rmt _ (bump_keeps Reg.RMT_REQ_SENT_CNT 1 (sendReq_keeps _ _ hs (by apply Sub.of; assumption; decide) t e))
    · exact hs

theorem finishReq_keeps (o : RmtOut) (code : Nat) (data : Bytes) (s : State) {s₀ : State} {W : Nat} (hs : Keeps W s₀ s)
    (hw : Sub 8389004 W := by apply Sub.of; assumption; decide) : Keeps W s₀ (finishReq o code data s) := by
  unfold finishReq
  with_reducible
    repeat' first
      | assumption | apply emit_keeps | apply localError_keeps | apply trapThread_keeps | apply wakeFence_keeps
      | apply ite_keeps | apply Keeps.mk_rmt | exact Sub.of (by assumption) (by decide)

theorem pumpFlow_keeps (reqid : Nat) (dest : Nat) (s : State) {s₀ : State} {W : Nat} (hs : Keeps W s₀ s)
    (hw : Sub 8421772 W := by apply Sub.of; assumption; decide) : Keeps W s₀ (pumpFlow reqid dest s) := by
  unfold pumpFlow
  with_reducible
    repeat' first
      | assumption | intro _ | apply issueReq_keeps | apply finishReq_keeps | apply ite_keeps | apply foldl_keeps
      | apply Keeps.mk_rmt | exact Sub.of (by assumption) (by decide)

theorem execCcRemoteAccess_keeps (a : CcAccess) (s : State) {s₀ : State} {W : Nat} (hs : Keeps W s₀ s)
    (hw : Sub 8421772 W := by apply Sub.of; assumption; decide) : KeepsO W s₀ (execCcRemoteAccess a s) := by
  unfold execCcRemoteAccess
  with_reducible
    repeat' first
      | assumption | apply emit_keeps | apply localError_keeps | apply trapThread_keeps | apply issueReq_keeps
      | apply KeepsO.ite | apply ite_keeps | apply KeepsO.next | exact Sub.of (by assumption) (by decide)

theorem execCcFence_keeps (t : Nat) (s : State) {s₀ : State} {W : Nat} (hs : Keeps W s₀ s)
    (hw : Sub 8388612 W := by apply Sub.of; assumption; decide) : KeepsO W s₀ (execCcFence t s) := by
  unfold execCcFence
  with_reducible
    repeat' first
      | assumption | apply endFence_keeps | apply KeepsO.ite | apply ite_keeps | apply KeepsO.next | apply Keeps.mk_rmt
      | exact Sub.of (by assumption) (by decide)

theorem putDefer_keeps (n : Nat) (d : Option Deferred) (s : State) {s₀ : State} {W : Nat} (hs : Keeps W s₀ s)
    (hw : Sub 8388608 W := by apply Sub.of; assumption; decide) : Keeps W s₀ (putDefer n d s) := by
  unfold putDefer
  with_reducible
    repeat' first
      | assumption | apply Keeps.mk_rmt

theorem showDefer_keeps (s : State) {s₀ : State} {W : Nat} (hs : Keeps W s₀ s)
    (hw : Sub 8 W := by apply Sub.of; assumption; decide) : Keeps W s₀ (showDefer s) := by
  unfold showDefer
  with_reducible
    repeat' first
      | assumption | apply wr_keeps

theorem deferDone_keeps (n : Nat) (code : Nat) (s : State) {s₀ : State} {W : Nat} (hs : Keeps W s₀ s)
    (hw : Sub 8389004 W := by apply Sub.of; assumption; decide) : Keeps W s₀ (deferDone n code s) := by
  unfold deferDone
  with_reducible
    repeat' first
      | assumption | apply wr_keeps | apply bump_keeps | apply raiseWith_keeps | apply rmtInfo_keeps
      | apply putDefer_keeps | apply showDefer_keeps | apply ite_keeps | split | exact Sub.of (by assumption) (by decide)

theorem execDeferredAtomicResponse_keeps (tag : Nat) (code : Nat) (s : State) {s₀ : State} {W : Nat} (hs : Keeps W s₀ s)
    (hw : Sub 8389004 W := by apply Sub.of; assumption; decide) : KeepsO W s₀ (execDeferredAtomicResponse tag code s) := by
  unfold execDeferredAtomicResponse
  with_reducible
    repeat' first
      | assumption | apply deferDone_keeps | apply KeepsO.next

theorem doRmtAtomic_keeps (G : Nat) (a : BitVec 112) (s : State) {s₀ : State} {W : Nat} (hs : Keeps W s₀ s)
    (hw : Sub 8409998 W := by apply Sub.of; assumption; decide) : Keeps W s₀ (doRmtAtomic G a s) := by
  unfold doRmtAtomic
  with_reducible
    repeat' first
      | assumption | apply spmRead_keeps | apply spmUe_keeps | apply frameCondition_keeps | apply showDefer_keeps
      | apply ite_keeps | apply Keeps.mk_rmt | exact Sub.of (by assumption) (by decide)

theorem execRmtAtomic_keeps (G : Nat) (fl : BitVec 4) (a : BitVec 112) (ue : List Nat) (s : State) {s₀ : State} {W : Nat}
    (hs : Keeps W s₀ s) (hw : Sub 8418222 W := by apply Sub.of; assumption; decide) : KeepsO W s₀ (execRmtAtomic G fl a ue
    s) := by
  unfold execRmtAtomic
  with_reducible
    repeat' first
      | assumption | intro _ | apply frameCommand_keeps | apply doRmtAtomic_keeps | apply KeepsO.next
      | exact Sub.of (by assumption) (by decide)

theorem sendDeferred_keeps (d : Deferred) (s : State) {s₀ : State} {W : Nat} (hs : Keeps W s₀ s)
    (hw : Sub 8421772 W := by apply Sub.of; assumption; decide) : Keeps W s₀ (sendDeferred d s) := by
  unfold sendDeferred
  split
  · exact hs
  · have h1 := putDefer_keeps (by assumption) (some d) s hs
    dsimp only
    split
    · rename_i t e
      exact bump_keeps _ _ (bump_keeps _ _ (sendReq_keeps _ _ h1 (by apply Sub.of; assumption; decide) t e))
    · exact deferDone_keeps _ _ _ h1

theorem closeDeferred_keeps (p : Nat) (commits : Bool) (s : State) {s₀ : State} {W : Nat} (hs : Keeps W s₀ s)
    (hw : Sub 8421772 W := by apply Sub.of; assumption; decide) : Keeps W s₀ (closeDeferred p commits s) := by
  unfold closeDeferred
  with_reducible
    repeat' first
      | assumption | intro _ | apply showDefer_keeps | apply sendDeferred_keeps | apply ite_keeps | apply foldl_keeps
      | apply Keeps.mk_rmt | exact Sub.of (by assumption) (by decide)

theorem outsideRead_keeps (op : Nat) (a : Nat) (n : Nat) (s : State) {s₀ : State} {W : Nat} (hs : Keeps W s₀ s)
    (hw : Sub 5038 W := by apply Sub.of; assumption; decide) : Keeps W s₀ (outsideRead op a n s).2 := by
  unfold outsideRead
  with_reducible
    repeat' first
      | assumption | apply bump_keeps | apply spmRead_keeps | apply spmError_keeps | apply hubError_keeps
      | apply memUe_keeps | apply ite_keeps | split | exact Sub.of (by assumption) (by decide)

theorem outsideWrite_keeps (op : Nat) (a : Nat) (b : Bytes) (s : State) {s₀ : State} {W : Nat} (hs : Keeps W s₀ s)
    (hw : Sub 5054 W := by apply Sub.of; assumption; decide) : Keeps W s₀ (outsideWrite op a b s) := by
  unfold outsideWrite
  with_reducible
    repeat' first
      | assumption | apply writeMem_keeps | apply spmWrite_keeps | apply hubError_keeps | apply clearBad_keeps
      | apply ite_keeps | split | exact Sub.of (by assumption) (by decide)

theorem holdAccess_keeps (h : HeldAccess) (a : Nat) (s : State) {s₀ : State} {W : Nat} (hs : Keeps W s₀ s)
    (hw : Sub 8389004 W := by apply Sub.of; assumption; decide) : Keeps W s₀ (holdAccess h a s) := by
  unfold holdAccess
  with_reducible
    repeat' first
      | assumption | apply bump_keeps | apply orReg_keeps | apply raiseBit_keeps | apply setEvent_keeps | split
      | apply Keeps.mk_rmt | exact Sub.of (by assumption) (by decide)

theorem refuseReq_keeps (q : RmtReq) (code : Nat) (s : State) {s₀ : State} {W : Nat} (hs : Keeps W s₀ s)
    (hw : Sub 33164 W := by apply Sub.of; assumption; decide) : Keeps W s₀ (refuseReq q code s) := by
  unfold refuseReq
  with_reducible
    repeat' first
      | assumption | apply bump_keeps | apply sendRsp_keeps | apply rmtInfo_keeps | apply rmtEvent_keeps
      | apply ite_keeps | exact Sub.of (by assumption) (by decide)

theorem outsideRead_keeps' {op a n : Nat} {s t : State} {r : Option Bytes} (e : outsideRead op a n s = (r, t)) {s₀ : State} {W : Nat}
    (hs : Keeps W s₀ s) (hw : Sub 5038 W := by apply Sub.of; assumption; decide) : Keeps W s₀ t := by
  have h := outsideRead_keeps op a n s hs
  rw [e] at h
  exact h

theorem performReq_keeps (q : RmtReq) (s : State) {s₀ : State} {W : Nat} (hs : Keeps W s₀ s) (hw : Sub 37822 W := by apply Sub.of; assumption; decide) : Keeps W s₀ (performReq q s) := by
  have hown : ∀ (c : Bool) (a n : Nat) (w : Bool) (t : State), Keeps W s₀ t →
      Keeps W s₀ (if c = true then outside q.spart (accountMem q.spart a n w) t else t) := fun c a n w t h =>
    ite_keeps (outside_keeps _ _ _ h (fun u k => accountMem_keeps _ _ _ _ _ k)) h
  unfold performReq
  dsimp only
  refine ite_keeps (sendRsp_keeps _ _ _ _ (hown _ _ _ _ _ (bump_keeps _ _ (outsideWrite_keeps _ _ _ _ hs)))) ?_
  split
  · rename_i h e
    exact refuseReq_keeps _ _ _ (outsideRead_keeps' e hs)
  · rename_i e
    have h1 := hown (q.src == pkgId s && decide (q.spart < 32) && decide (q.addr % 2 ^ 48 < 0x20000000000)) (q.addr % 2 ^ 48)
      (2 ^ q.size) false _ (outsideRead_keeps' e hs)
    exact ite_keeps (sendRsp_keeps _ _ _ _ (bump_keeps _ _ h1))
      (sendRsp_keeps _ _ _ _ (hown _ _ _ _ _ (outsideWrite_keeps _ _ _ _ (bump_keeps _ _ h1))))

theorem serveReq_keeps (q : RmtReq) (s : State) {s₀ : State} {W : Nat} (hs : Keeps W s₀ s)
    (hw : Sub 8426430 W := by apply Sub.of; assumption; decide) : Keeps W s₀ (serveReq q s) := by
  unfold serveReq
  with_reducible
    repeat' first
      | assumption | apply holdAccess_keeps | apply refuseReq_keeps | apply performReq_keeps | apply ite_keeps | split
      | exact Sub.of (by assumption) (by decide)

theorem execRemoteRequestHome_keeps (q : RmtReq) (ue : List Nat) (s : State) {s₀ : State} {W : Nat} (hs : Keeps W s₀ s)
    (hw : Sub 8426430 W := by apply Sub.of; assumption; decide) : KeepsO W s₀ (execRemoteRequestHome q ue s) := by
  unfold execRemoteRequestHome
  with_reducible
    repeat' first
      | assumption | apply takeUe_keeps | apply takePacket_keeps | apply serveReq_keeps | apply KeepsO.ite
      | apply ite_keeps | apply KeepsO.next | exact Sub.of (by assumption) (by decide)

theorem coreScratch_keeps (a : CcAccess) (s : State) {s₀ : State} {W : Nat} (hs : Keeps W s₀ s)
    (hw : Sub 5054 W := by apply Sub.of; assumption; decide) : Keeps W s₀ (coreScratch a s) := by
  unfold coreScratch
  refine ite_keeps (emit_keeps _ (outsideWrite_keeps _ _ _ _ hs)) ?_
  split
  · rename_i e
    exact emit_keeps _ (outsideRead_keeps' e hs)
  · rename_i e
    exact emit_keeps _ (outsideRead_keeps' e hs)

theorem coreTier_keeps (p : Nat) (a : CcAccess) (s : State) {s₀ : State} {W : Nat} (hs : Keeps W s₀ s)
    (hw : Sub 529340 W := by apply Sub.of; assumption; decide) : Keeps W s₀ (coreTier p a s) := by
  unfold coreTier
  dsimp only
  split
  · refine ite_keeps (ite_keeps (emit_keeps _ (tierError_keeps _ _ _ _ _ _ _ _ _ _ hs)) (ite_keeps (emit_keeps _ hs)
      (emit_keeps _ (outside_keeps _ _ _ hs (fun t h => tierWrite_keeps _ _ _ _ h))))) ?_
    split
    · rename_i e
      exact emit_keeps _ (swapAccum_keeps _ _ (tierRead_keeps' e (swapAccum_keeps _ _ hs)))
    · rename_i e
      exact emit_keeps _ (memUe_keeps _ _ _ _ _ (swapAccum_keeps _ _ (tierRead_keeps' e (swapAccum_keeps _ _ hs))))
  · exact emit_keeps _ hs

theorem execCcLocalAccess_keeps (a : CcAccess) (ue : List Nat) (s : State) {s₀ : State} {W : Nat} (hs : Keeps W s₀ s)
    (hw : Sub 8917950 W := by apply Sub.of; assumption; decide) : KeepsO W s₀ (execCcLocalAccess a ue s) := by
  unfold execCcLocalAccess
  with_reducible
    repeat' first
      | assumption | apply emit_keeps | apply takeUe_keeps | apply holdAccess_keeps | apply coreScratch_keeps
      | apply coreTier_keeps | apply KeepsO.ite | apply ite_keeps | apply KeepsO.next
      | exact Sub.of (by assumption) (by decide)

theorem serveHeld_keeps (h : HeldAccess) (s : State) {s₀ : State} {W : Nat} (hs : Keeps W s₀ s)
    (hw : Sub 37822 W := by apply Sub.of; assumption; decide) : Keeps W s₀ (serveHeld h s) := by
  unfold serveHeld
  with_reducible
    repeat' first
      | assumption | apply performReq_keeps | apply coreScratch_keeps | split | exact Sub.of (by assumption) (by decide)

theorem execHeldAccessServe_keeps (p : Nat) (ue : List Nat) (s : State) {s₀ : State} {W : Nat} (hs : Keeps W s₀ s)
    (hw : Sub 8426430 W := by apply Sub.of; assumption; decide) : KeepsO W s₀ (execHeldAccessServe p ue s) := by
  unfold execHeldAccessServe
  with_reducible
    repeat' first
      | assumption | intro _ | apply takeUe_keeps | apply serveHeld_keeps | apply KeepsO.ite | apply ite_keeps
      | apply foldl_keeps | apply KeepsO.next | apply Keeps.mk_rmt | exact Sub.of (by assumption) (by decide)

theorem splitRsp_keeps (e : Nat) (code : Nat) (data : Bytes) (s : State) {s₀ : State} {W : Nat} (hs : Keeps W s₀ s)
    (hw : Sub 8421384 W := by apply Sub.of; assumption; decide) : Keeps W s₀ (splitRsp e code data s) := by
  unfold splitRsp
  with_reducible
    repeat' first
      | assumption | intro _ | apply putComb_keeps | apply sendRsp_keeps | apply ite_keeps | apply foldl_keeps
      | exact Sub.of (by assumption) (by decide)

theorem receiveRsp_keeps (reqid : Nat) (tag : Nat) (code : Nat) (data : Bytes) (s : State) {s₀ : State} {W : Nat} (hs :
    Keeps W s₀ s) (hw : Sub 8421772 W := by apply Sub.of; assumption; decide) : Keeps W s₀ (receiveRsp reqid tag code data
    s) := by
  unfold receiveRsp
  with_reducible
    repeat' first
      | assumption | apply finishReq_keeps | apply pumpFlow_keeps | apply deferDone_keeps | apply splitRsp_keeps
      | apply ite_keeps | split | exact Sub.of (by assumption) (by decide)

theorem execRemoteResponse_keeps (r : RmtRsp) (s : State) {s₀ : State} {W : Nat} (hs : Keeps W s₀ s)
    (hw : Sub 8421772 W := by apply Sub.of; assumption; decide) : KeepsO W s₀ (execRemoteResponse r s) := by
  unfold execRemoteResponse
  with_reducible
    repeat' first
      | assumption | apply takePacket_keeps | apply receiveRsp_keeps | apply KeepsO.ite | apply ite_keeps
      | apply KeepsO.next | exact Sub.of (by assumption) (by decide)

theorem execRemoteTimeout_keeps (reqid : Nat) (tag : Nat) (s : State) {s₀ : State} {W : Nat} (hs : Keeps W s₀ s)
    (hw : Sub 8421772 W := by apply Sub.of; assumption; decide) : KeepsO W s₀ (execRemoteTimeout reqid tag s) := by
  unfold execRemoteTimeout
  with_reducible
    repeat' first
      | assumption | apply bump_keeps | apply receiveRsp_keeps | apply KeepsO.ite | apply ite_keeps | apply KeepsO.next
      | exact Sub.of (by assumption) (by decide)

theorem execCombineWindowExpiry_keeps (i : Nat) (s : State) {s₀ : State} {W : Nat} (hs : Keeps W s₀ s)
    (hw : Sub 8388608 W := by apply Sub.of; assumption; decide) : KeepsO W s₀ (execCombineWindowExpiry i s) := by
  unfold execCombineWindowExpiry
  with_reducible
    repeat' first
      | assumption | apply KeepsO.next | apply Keeps.mk_rmt

end Sys2Proof.Machine
end

