-- ==== Sys2Proof/Laws/KeepColl.lean ====
section
/-!
SUPPORT. The operations of Coll keep the queue, the count of free values and the forms of memory and registers.
-/

set_option Elab.async false

namespace Sys2Proof.Machine

theorem cmdGroupWrite_keeps (e : Entry) (io : HostIo) (s : State) {s₀ : State} {W : Nat} (hs : Keeps W s₀ s)
    (hw : Sub 16777224 W := by apply Sub.of; assumption; decide) : Keeps W s₀ (cmdGroupWrite e io s).st := by
  unfold cmdGroupWrite
  with_reducible
    repeat' first
      | assumption | apply wr_keeps | apply refuseCmd_keeps | apply waitCmd_keeps | apply ite_keeps | apply ite_keeps_st
      | split | apply Keeps.mk_coll | exact Sub.of (by assumption) (by decide)

theorem execGroupWrite_keeps (e : Entry) (io : HostIo) (s : State) {s₀ : State} {W : Nat} (hs : Keeps W s₀ s)
    (hw : Sub 16777612 W := by apply Sub.of; assumption; decide) : KeepsO W s₀ (execGroupWrite e io s) := by
  unfold execGroupWrite
  with_reducible
    repeat' first
      | assumption | intro _ | apply runRow_keeps | apply cmdGroupWrite_keeps | apply KeepsO.next
      | exact Sub.of (by assumption) (by decide)

theorem switchGroups_keeps (s : State) {s₀ : State} {W : Nat} (hs : Keeps W s₀ s)
    (hw : Sub 16777224 W := by apply Sub.of; assumption; decide) : Keeps W s₀ (switchGroups s) := by
  unfold switchGroups
  with_reducible
    repeat' first
      | assumption | apply wr_keeps | apply foldl_keeps | apply Keeps.mk_coll | exact Sub.of (by assumption) (by decide)

theorem modOp_keeps (i : Nat) (f : ColOp → ColOp) (s : State) {s₀ : State} {W : Nat} (hs : Keeps W s₀ s)
    (hw : Sub 16777216 W := by apply Sub.of; assumption; decide) : Keeps W s₀ (modOp i f s) := by
  unfold modOp
  with_reducible
    repeat' first
      | assumption | apply ite_keeps | apply Keeps.mk_coll

theorem showColl_keeps (s : State) {s₀ : State} {W : Nat} (hs : Keeps W s₀ s)
    (hw : Sub 8 W := by apply Sub.of; assumption; decide) : Keeps W s₀ (showColl s) := by
  unfold showColl
  with_reducible
    repeat' first
      | assumption | apply wr_keeps

theorem colError_keeps (f : Field) (b : Nat) (rank : Nat) (st : Nat) (one : Bool) (o : ColOp) (s : State) {s₀ : State} {W :
    Nat} (hs : Keeps W s₀ s) (hw : Sub 21388 W := by apply Sub.of; assumption; decide) : Keeps W s₀ (colError f b rank st
    one o s) := by
  unfold colError
  with_reducible
    repeat' first
      | assumption | apply wr_keeps | apply unitError_keeps | apply failFrame_keeps
      | exact Sub.of (by assumption) (by decide)

theorem colLate_keeps (o : ColOp) (s : State) {s₀ : State} {W : Nat} (hs : Keeps W s₀ s)
    (hw : Sub 21388 W := by apply Sub.of; assumption; decide) : Keeps W s₀ (colLate o s) := by
  unfold colLate
  with_reducible
    repeat' first
      | assumption | apply bump_keeps | apply colError_keeps | exact Sub.of (by assumption) (by decide)

theorem colRead_keeps (o : ColOp) (off : Nat) (n : Nat) (s : State) {s₀ : State} {W : Nat} (hs : Keeps W s₀ s)
    (hw : Sub 21390 W := by apply Sub.of; assumption; decide) : Keeps W s₀ (colRead o off n s) := by
  unfold colRead
  with_reducible
    repeat' first
      | assumption | apply spmRead_keeps | apply spmUe_keeps | apply hubUe_keeps | apply bridgeBytes_keeps
      | apply ite_keeps | exact Sub.of (by assumption) (by decide)

theorem colWrite_keeps (i : Nat) (off : Nat) (n : Nat) (b : Option Bytes) (s : State) {s₀ : State} {W : Nat} (hs : Keeps W
    s₀ s) (hw : Sub 16782270 W := by apply Sub.of; assumption; decide) : Keeps W s₀ (colWrite i off n b s) := by
  unfold colWrite
  with_reducible
    repeat' first
      | assumption | intro _ | apply wr_keeps | apply setBad_keeps | apply spmWrite_keeps | apply spmPoison_keeps
      | apply hubWrite_keeps | apply bridgeBytes_keeps | apply modOp_keeps | apply ite_keeps | apply foldl_keeps | split
      | exact Sub.of (by assumption) (by decide)

theorem colCount_keeps (i : Nat) (src : Nat) (v : Nat) (s : State) {s₀ : State} {W : Nat} (hs : Keeps W s₀ s)
    (hw : Sub 16782270 W := by apply Sub.of; assumption; decide) : Keeps W s₀ (colCount i src v s) := by
  unfold colCount
  with_reducible
    repeat' first
      | assumption | apply colWrite_keeps

theorem spreadResult_keeps (i : Nat) (j : Nat) (b : Bytes) (s : State) {s₀ : State} {W : Nat} (hs : Keeps W s₀ s)
    (hw : Sub 16815038 W := by apply Sub.of; assumption; decide) : Keeps W s₀ (spreadResult i j b s) := by
  unfold spreadResult
  with_reducible
    repeat' first
      | assumption | intro _ | apply colWrite_keeps | apply ite_keeps | apply foldl_keeps | apply Keeps.mk_fab
      | exact Sub.of (by assumption) (by decide)

theorem tryReduce_keeps (i : Nat) (j : Nat) (s : State) {s₀ : State} {W : Nat} (hs : Keeps W s₀ s)
    (hw : Sub 16831422 W := by apply Sub.of; assumption; decide) : Keeps W s₀ (tryReduce i j s) := by
  unfold tryReduce
  with_reducible
    repeat' first
      | assumption | apply bump_keeps | apply modOp_keeps | apply colError_keeps | apply colWrite_keeps
      | apply spreadResult_keeps | apply ite_keeps | split | dsimp only | exact Sub.of (by assumption) (by decide)

theorem contribute_keeps (i : Nat) (j : Nat) (rank : Nat) (b : Option Bytes) (s : State) {s₀ : State} {W : Nat} (hs : Keeps
    W s₀ s) (hw : Sub 16831422 W := by apply Sub.of; assumption; decide) : Keeps W s₀ (contribute i j rank b s) := by
  unfold contribute
  with_reducible
    repeat' first
      | assumption | apply modOp_keeps | apply tryReduce_keeps | exact Sub.of (by assumption) (by decide)

theorem colInvalid_keeps (i : Nat) (src : Nat) (s : State) {s₀ : State} {W : Nat} (hs : Keeps W s₀ s)
    (hw : Sub 16798654 W := by apply Sub.of; assumption; decide) : Keeps W s₀ (colInvalid i src s) := by
  unfold colInvalid
  with_reducible
    repeat' first
      | assumption | apply modOp_keeps | apply colError_keeps | apply colCount_keeps | apply ite_keeps
      | exact Sub.of (by assumption) (by decide)

theorem takeHeader_keeps (i : Nat) (src : Nat) (b : Option Bytes) (s : State) {s₀ : State} {W : Nat} (hs : Keeps W s₀ s)
    (hw : Sub 16798654 W := by apply Sub.of; assumption; decide) : Keeps W s₀ (takeHeader i src b s) := by
  unfold takeHeader
  with_reducible
    repeat' first
      | assumption | apply modOp_keeps | apply colWrite_keeps | apply colCount_keeps | apply colInvalid_keeps
      | apply ite_keeps | split | exact Sub.of (by assumption) (by decide)

theorem takePiece_keeps (i : Nat) (t : PlanStream) (x : Piece) (s : State) {s₀ : State} {W : Nat} (hs : Keeps W s₀ s)
    (hw : Sub 16831422 W := by apply Sub.of; assumption; decide) : Keeps W s₀ (takePiece i t x s) := by
  unfold takePiece
  with_reducible
    repeat' first
      | assumption | apply bump_keeps | apply colError_keeps | apply colWrite_keeps | apply contribute_keeps
      | apply colInvalid_keeps | apply takeHeader_keeps | apply ite_keeps | exact Sub.of (by assumption) (by decide)

theorem drainStream_keeps (i : Nat) (t : PlanStream) (k : Nat) (s : State) {s₀ : State} {W : Nat} (hs : Keeps W s₀ s) (hw : Sub 16831422 W := by apply Sub.of; assumption; decide) :
    Keeps W s₀ (drainStream i t k s) := by
  induction k generalizing s with
  | zero => exact hs
  | succ k ih =>
    unfold drainStream
    dsimp only
    split
    · exact ite_keeps (ih _ (takePiece_keeps _ _ _ _ (modOp_keeps _ _ _ hs))) hs
    · exact hs

theorem colAdvance_keeps (s : State) {s₀ : State} {W : Nat} (hs : Keeps W s₀ s) (hw : Sub 16831422 W := by apply Sub.of; assumption; decide) : Keeps W s₀ (colAdvance s) :=
  foldl_keeps hs (fun _ _ h => foldl_keeps h (fun _ _ k => drainStream_keeps _ _ _ _ k))

theorem colCopy_keeps (i : Nat) (o : ColOp) (off : Nat) (n : Nat) (d : Nat) (s : State) {s₀ : State} {W : Nat} (hs : Keeps W
    s₀ s) (hw : Sub 16782270 W := by apply Sub.of; assumption; decide) : Keeps W s₀ (colCopy i o off n d s) := by
  unfold colCopy
  with_reducible
    repeat' first
      | assumption | intro _ | apply bump_keeps | apply setBad_keeps | apply spmPoison_keeps | apply colWrite_keeps
      | apply ite_keeps | apply foldl_keeps | split | exact Sub.of (by assumption) (by decide)

theorem localPair_keeps (o : ColOp) (i : Nat) (s : State) {s₀ : State} {W : Nat} (hs : Keeps W s₀ s)
    (hw : Sub 16831422 W := by apply Sub.of; assumption; decide) : Keeps W s₀ (localPair o i s) := by
  unfold localPair
  with_reducible
    repeat' first
      | assumption | intro _ | apply bump_keeps | apply modOp_keeps | apply colWrite_keeps | apply colCount_keeps
      | apply contribute_keeps | apply colCopy_keeps | apply ite_keeps | apply foldl_keeps | split | dsimp only
      | exact Sub.of (by assumption) (by decide)

theorem startCol_keeps (op : Nat) (G : Nat) (a : BitVec 112) (s : State) {s₀ : State} {W : Nat} (hs : Keeps W s₀ s)
    (hw : Sub 16831422 W := by apply Sub.of; assumption; decide) : Keeps W s₀ (startCol op G a s) := by
  unfold startCol
  with_reducible
    repeat' first
      | assumption | intro _ | apply drawBytes_keeps | apply setEvent_keeps | apply hubWrite_keeps
      | apply showColl_keeps | apply colLate_keeps | apply colRead_keeps | apply colWrite_keeps | apply colAdvance_keeps
      | apply localPair_keeps | apply ite_keeps | apply foldl_keeps | apply Keeps.mk_fab | apply Keeps.mk_coll
      | exact Sub.of (by assumption) (by decide)

theorem colCommand_keeps (op : Nat) (G : Nat) (fl : BitVec 4) (a : BitVec 112) (ue : List Nat) (s : State) {s₀ : State} {W :
    Nat} (hs : Keeps W s₀ s) (hw : Sub 16839614 W := by apply Sub.of; assumption; decide) : KeepsO W s₀ (colCommand op G fl
    a ue s) := by
  unfold colCommand
  with_reducible
    repeat' first
      | assumption | intro _ | apply frameCommand_keeps | apply startCol_keeps | apply KeepsO.ite | apply ite_keeps
      | apply KeepsO.next | exact Sub.of (by assumption) (by decide)

theorem execColA2a_keeps (G : Nat) (fl : BitVec 4) (a : BitVec 112) (ue : List Nat) (s : State) {s₀ : State} {W : Nat} (hs :
    Keeps W s₀ s) (hw : Sub 16839614 W := by apply Sub.of; assumption; decide) : KeepsO W s₀ (execColA2a G fl a ue s) := by
  unfold execColA2a
  with_reducible
    repeat' first
      | assumption | apply colCommand_keeps

theorem execColA2av_keeps (G : Nat) (fl : BitVec 4) (a : BitVec 112) (ue : List Nat) (s : State) {s₀ : State} {W : Nat} (hs
    : Keeps W s₀ s) (hw : Sub 16839614 W := by apply Sub.of; assumption; decide) : KeepsO W s₀ (execColA2av G fl a ue s) :=
    by
  unfold execColA2av
  with_reducible
    repeat' first
      | assumption | apply colCommand_keeps

theorem execColGather_keeps (G : Nat) (fl : BitVec 4) (a : BitVec 112) (ue : List Nat) (s : State) {s₀ : State} {W : Nat}
    (hs : Keeps W s₀ s) (hw : Sub 16839614 W := by apply Sub.of; assumption; decide) : KeepsO W s₀ (execColGather G fl a ue
    s) := by
  unfold execColGather
  with_reducible
    repeat' first
      | assumption | apply colCommand_keeps

theorem execColBcast_keeps (G : Nat) (fl : BitVec 4) (a : BitVec 112) (ue : List Nat) (s : State) {s₀ : State} {W : Nat} (hs
    : Keeps W s₀ s) (hw : Sub 16839614 W := by apply Sub.of; assumption; decide) : KeepsO W s₀ (execColBcast G fl a ue s) :=
    by
  unfold execColBcast
  with_reducible
    repeat' first
      | assumption | apply colCommand_keeps

theorem execColRedscat_keeps (G : Nat) (fl : BitVec 4) (a : BitVec 112) (ue : List Nat) (s : State) {s₀ : State} {W : Nat}
    (hs : Keeps W s₀ s) (hw : Sub 16839614 W := by apply Sub.of; assumption; decide) : KeepsO W s₀ (execColRedscat G fl a ue
    s) := by
  unfold execColRedscat
  with_reducible
    repeat' first
      | assumption | apply colCommand_keeps

theorem execColAllred_keeps (G : Nat) (fl : BitVec 4) (a : BitVec 112) (ue : List Nat) (s : State) {s₀ : State} {W : Nat}
    (hs : Keeps W s₀ s) (hw : Sub 16839614 W := by apply Sub.of; assumption; decide) : KeepsO W s₀ (execColAllred G fl a ue
    s) := by
  unfold execColAllred
  with_reducible
    repeat' first
      | assumption | apply colCommand_keeps

theorem bduBusyNs_keeps (G : Nat) (x : FrameCmd) (ns : Nat) (s : State) {s₀ : State} {W : Nat} (hs : Keeps W s₀ s)
    (hw : Sub 8 W := by apply Sub.of; assumption; decide) : Keeps W s₀ (bduBusyNs G x ns s) := by
  unfold bduBusyNs
  with_reducible
    repeat' first
      | assumption | intro _ | apply bump_keeps | apply ite_keeps | apply foldl_keeps

theorem attRunDone_keeps (G : Nat) (x : FrameCmd) (ns : Nat) (s : State) {s₀ : State} {W : Nat} (hs : Keeps W s₀ s)
    (hw : Sub 8 W := by apply Sub.of; assumption; decide) : Keeps W s₀ (attRunDone G x ns s) := by
  unfold attRunDone
  with_reducible
    repeat' first
      | assumption | apply bump_keeps | apply ite_keeps

theorem execFrameCommandComplete_keeps (G : Nat) (i : Nat) (ns : Nat) (s : State) {s₀ : State} {W : Nat} (hs : Keeps W s₀ s)
    (hw : Sub 12296 W := by apply Sub.of; assumption; decide) : KeepsO W s₀ (execFrameCommandComplete G i ns s) := by
  unfold execFrameCommandComplete
  with_reducible
    repeat' first
      | assumption | apply wr_keeps | apply modCtx_keeps | apply showCtx_keeps | apply classBusy_keeps
      | apply releaseWait_keeps | apply showColl_keeps | apply bduBusyNs_keeps | apply attRunDone_keeps | apply ite_keeps
      | apply KeepsO.next | split | dsimp only | exact Sub.of (by assumption) (by decide)

end Sys2Proof.Machine
end

