-- ==== Sys2Proof/Laws/KeepWeights.lean ====
section
/-!
SUPPORT. The operations of Weights keep the queue, the count of free values and the forms of memory and registers.
-/

set_option Elab.async false

namespace Sys2Proof.Machine

theorem modWts_keeps (f : Weights → Weights) (s : State) {s₀ : State} {W : Nat} (hs : Keeps W s₀ s)
    (hw : Sub 33554432 W := by apply Sub.of; assumption; decide) : Keeps W s₀ (modWts f s) := by
  unfold modWts
  with_reducible
    repeat' first
      | assumption | apply Keeps.mk_wts

theorem cryEvent_keeps (f : Field) (b : Nat) (part : Nat) (s : State) {s₀ : State} {W : Nat} (hs : Keeps W s₀ s)
    (hw : Sub 396 W := by apply Sub.of; assumption; decide) : Keeps W s₀ (cryEvent f b part s) := by
  unfold cryEvent
  with_reducible
    repeat' first
      | assumption | apply setEvent_keeps

theorem loessEvent_keeps (f : Nat → Field) (b : Nat) (p : Nat) (s : State) {s₀ : State} {W : Nat} (hs : Keeps W s₀ s)
    (hw : Sub 396 W := by apply Sub.of; assumption; decide) : Keeps W s₀ (loessEvent f b p s) := by
  unfold loessEvent
  with_reducible
    repeat' first
      | assumption | apply setEvent_keeps

theorem rangeWrite_keeps (p : Nat) (a : Nat) (b : Bytes) (s : State) {s₀ : State} {W : Nat} (hs : Keeps W s₀ s)
    (hw : Sub 48 W := by apply Sub.of; assumption; decide) : Keeps W s₀ (rangeWrite p a b s) := by
  unfold rangeWrite
  with_reducible
    repeat' first
      | assumption | intro _ | apply writeMem_keeps | apply clearBad_keeps | apply foldl_keeps | apply foldl_keeps_fst
      | split | exact Sub.of (by assumption) (by decide)

theorem zeroPages_keeps (p : Nat) (a : Nat) (n : Nat) (s : State) {s₀ : State} {W : Nat} (hs : Keeps W s₀ s)
    (hw : Sub 48 W := by apply Sub.of; assumption; decide) : Keeps W s₀ (zeroPages p a n s) := by
  unfold zeroPages
  with_reducible
    repeat' first
      | assumption | intro _ | apply zeroRange_keeps | apply foldl_keeps | split

theorem setWp_keeps (p : Nat) (a : Nat) (n : Nat) (on : Bool) (s : State) {s₀ : State} {W : Nat} (hs : Keeps W s₀ s)
    (hw : Sub 524288 W := by apply Sub.of; assumption; decide) : Keeps W s₀ (setWp p a n on s) := by
  unfold setWp
  with_reducible
    repeat' first
      | assumption | intro _ | apply modPage_keeps | apply ite_keeps | apply foldl_keeps

theorem discardRecs_keeps (f : ShardRec → Bool) (s : State) {s₀ : State} {W : Nat} (hs : Keeps W s₀ s)
    (hw : Sub 34078720 W := by apply Sub.of; assumption; decide) : Keeps W s₀ (discardRecs f s) := by
  unfold discardRecs
  with_reducible
    repeat' first
      | assumption | intro _ | apply modWts_keeps | apply setWp_keeps | apply foldl_keeps
      | exact Sub.of (by assumption) (by decide)

theorem cmdModelDeclare_keeps (e : Entry) (io : HostIo) (s : State) {s₀ : State} {W : Nat} (hs : Keeps W s₀ s)
    (hw : Sub 38277120 W := by apply Sub.of; assumption; decide) : Keeps W s₀ (cmdModelDeclare e io s).st := by
  unfold cmdModelDeclare
  with_reducible
    repeat' first
      | assumption | apply modPart_keeps | apply refuseCmd_keeps | apply doneCmd_keeps | apply modWts_keeps
      | apply discardRecs_keeps | apply ite_keeps | apply ite_keeps_st | split | apply Keeps.mk_decls
      | exact Sub.of (by assumption) (by decide)

theorem execModelDeclare_keeps (e : Entry) (io : HostIo) (s : State) {s₀ : State} {W : Nat} (hs : Keeps W s₀ s)
    (hw : Sub 38277516 W := by apply Sub.of; assumption; decide) : KeepsO W s₀ (execModelDeclare e io s) := by
  unfold execModelDeclare
  with_reducible
    repeat' first
      | assumption | intro _ | apply runRow_keeps | apply cmdModelDeclare_keeps | apply KeepsO.next
      | exact Sub.of (by assumption) (by decide)

theorem setKeys_keeps (ks : List KeyEnt) (s : State) {s₀ : State} {W : Nat} (hs : Keeps W s₀ s)
    (hw : Sub 65544 W := by apply Sub.of; assumption; decide) : Keeps W s₀ (setKeys ks s) := by
  unfold setKeys
  with_reducible
    repeat' first
      | assumption | apply wr_keeps | apply Keeps.mk_keys | exact Sub.of (by assumption) (by decide)

theorem installMapKey_keeps (cls : Nat) (b : Bytes) (s : State) {s₀ : State} {W : Nat} (hs : Keeps W s₀ s)
    (hw : Sub 65544 W := by apply Sub.of; assumption; decide) : Keeps W s₀ (installMapKey cls b s).st := by
  unfold installMapKey
  with_reducible
    repeat' first
      | assumption | apply refuseCmd_keeps | apply doneCmd_keeps | apply setKeys_keeps | apply ite_keeps | split
      | dsimp only | exact Sub.of (by assumption) (by decide)

theorem installKey_keeps (e : Entry) (io : HostIo) (s : State) {s₀ : State} {W : Nat} (hs : Keeps W s₀ s)
    (hw : Sub 65932 W := by apply Sub.of; assumption; decide) : Keeps W s₀ (installKey e io s).st := by
  unfold installKey
  with_reducible
    repeat' first
      | assumption | apply refuseCmd_keeps | apply doneCmd_keeps | apply cryEvent_keeps | apply setKeys_keeps
      | apply ite_keeps | split | exact Sub.of (by assumption) (by decide)

theorem cmdKeyInstall_keeps (e : Entry) (io : HostIo) (s : State) {s₀ : State} {W : Nat} (hs : Keeps W s₀ s)
    (hw : Sub 65932 W := by apply Sub.of; assumption; decide) : Keeps W s₀ (cmdKeyInstall e io s).st := by
  unfold cmdKeyInstall
  with_reducible
    repeat' first
      | assumption | apply refuseCmd_keeps | apply doneCmd_keeps | apply setKeys_keeps | apply installMapKey_keeps
      | apply installKey_keeps | apply ite_keeps | apply ite_keeps_st | split | exact Sub.of (by assumption) (by decide)

theorem execKeyInstall_keeps (e : Entry) (io : HostIo) (s : State) {s₀ : State} {W : Nat} (hs : Keeps W s₀ s)
    (hw : Sub 65932 W := by apply Sub.of; assumption; decide) : KeepsO W s₀ (execKeyInstall e io s) := by
  unfold execKeyInstall
  with_reducible
    repeat' first
      | assumption | intro _ | apply runRow_keeps | apply cmdKeyInstall_keeps | apply KeepsO.next
      | exact Sub.of (by assumption) (by decide)

theorem execKeyDelete_keeps (e : Entry) (io : HostIo) (s : State) {s₀ : State} {W : Nat} (hs : Keeps W s₀ s)
    (hw : Sub 65932 W := by apply Sub.of; assumption; decide) : KeepsO W s₀ (execKeyDelete e io s) := by
  unfold execKeyDelete
  with_reducible
    repeat' first
      | assumption | intro _ | apply runRow_keeps | apply cmdKeyInstall_keeps | apply KeepsO.next
      | exact Sub.of (by assumption) (by decide)

theorem showRepl_keeps (p : Nat) (s : State) {s₀ : State} {W : Nat} (hs : Keeps W s₀ s)
    (hw : Sub 8 W := by apply Sub.of; assumption; decide) : Keeps W s₀ (showRepl p s) := by
  unfold showRepl
  with_reducible
    repeat' first
      | assumption | apply wr_keeps | split

theorem setRepl_keeps (p : Nat) (r : Option Replacement) (s : State) {s₀ : State} {W : Nat} (hs : Keeps W s₀ s)
    (hw : Sub 33554440 W := by apply Sub.of; assumption; decide) : Keeps W s₀ (setRepl p r s) := by
  unfold setRepl
  with_reducible
    repeat' first
      | assumption | apply modWts_keeps | apply showRepl_keeps | exact Sub.of (by assumption) (by decide)

theorem reportUnits_keeps (p : Nat) (s : State) {s₀ : State} {W : Nat} (hs : Keeps W s₀ s)
    (hw : Sub 33587212 W := by apply Sub.of; assumption; decide) : Keeps W s₀ (reportUnits p s) := by
  unfold reportUnits
  with_reducible
    repeat' first
      | assumption | intro _ | apply sendCtl_keeps | apply setRepl_keeps | apply ite_keeps | apply foldl_keeps | split
      | exact Sub.of (by assumption) (by decide)

theorem applyUnitDone_keeps (h : CtlHdr) (unit : Nat) (epoch : Nat) (s : State) {s₀ : State} {W : Nat} (hs : Keeps W s₀ s)
    (hw : Sub 33554440 W := by apply Sub.of; assumption; decide) : Keeps W s₀ (applyUnitDone h unit epoch s).2 := by
  unfold applyUnitDone
  with_reducible
    repeat' first
      | assumption | apply setRepl_keeps | apply ite_keeps | split

theorem execUnitDone_keeps (h : CtlHdr) (unit : Nat) (epoch : Nat) (s : State) {s₀ : State} {W : Nat} (hs : Keeps W s₀ s)
    (hw : Sub 33587596 W := by apply Sub.of; assumption; decide) : KeepsO W s₀ (execUnitDone h unit epoch s) := by
  unfold execUnitDone
  with_reducible
    repeat' first
      | assumption | intro _ | apply applyCtl_keeps | apply applyUnitDone_keeps | apply KeepsO.next
      | exact Sub.of (by assumption) (by decide)

theorem shardDone_keeps (id : Nat) (p : Nat) (st : Nat) (shard : Nat) (s : State) {s₀ : State} {W : Nat} (hs : Keeps W s₀ s)
    (hw : Sub 396 W := by apply Sub.of; assumption; decide) : Keeps W s₀ (shardDone id p st shard s) := by
  unfold shardDone
  with_reducible
    repeat' first
      | assumption | apply outcome_keeps

theorem shardFail_keeps (id : Nat) (p : Nat) (dst : Nat) (len : Nat) (st : Nat) (shard : Nat) (s : State) {s₀ : State} {W :
    Nat} (hs : Keeps W s₀ s) (hw : Sub 34079164 W := by apply Sub.of; assumption; decide) : Keeps W s₀ (shardFail id p dst
    len st shard s) := by
  unfold shardFail
  with_reducible
    repeat' first
      | assumption | apply bump_keeps | apply zeroPages_keeps | apply setWp_keeps | apply discardRecs_keeps
      | apply shardDone_keeps | apply ite_keeps | exact Sub.of (by assumption) (by decide)

theorem startLoad_keeps (id : Nat) (p : Nat) (dst : Nat) (epoch : Nat) (src : Nat) (hdr : Option Bytes) (s : State) {s₀ :
    State} {W : Nat} (hs : Keeps W s₀ s) (hw : Sub 34079164 W := by apply Sub.of; assumption; decide) : Keeps W s₀
    (startLoad id p dst epoch src hdr s) := by
  unfold startLoad
  with_reducible
    repeat' first
      | assumption | apply modWts_keeps | apply cryEvent_keeps | apply setWp_keeps | apply discardRecs_keeps
      | apply shardFail_keeps | split | exact Sub.of (by assumption) (by decide)

theorem loadCommand_keeps (op : Nat) (epoch : Nat) (busy : Bool) (e : Entry) (io : HostIo) (s : State) {s₀ : State} {W :
    Nat} (hs : Keeps W s₀ s) (hw : Sub 34079164 W := by apply Sub.of; assumption; decide) : Keeps W s₀ (loadCommand op epoch
    busy e io s).st := by
  unfold loadCommand
  with_reducible
    repeat' first
      | assumption | apply refuseCmd_keeps | apply newOp_keeps | apply pendCmd_keeps | apply startLoad_keeps
      | apply ite_keeps | split | dsimp only | exact Sub.of (by assumption) (by decide)

theorem cmdWeightLoadShard_keeps (e : Entry) (io : HostIo) (s : State) {s₀ : State} {W : Nat} (hs : Keeps W s₀ s)
    (hw : Sub 34079164 W := by apply Sub.of; assumption; decide) : Keeps W s₀ (cmdWeightLoadShard e io s).st := by
  unfold cmdWeightLoadShard
  with_reducible
    repeat' first
      | assumption | apply loadCommand_keeps

theorem execWeightLoadShard_keeps (e : Entry) (io : HostIo) (s : State) {s₀ : State} {W : Nat} (hs : Keeps W s₀ s)
    (hw : Sub 34079164 W := by apply Sub.of; assumption; decide) : KeepsO W s₀ (execWeightLoadShard e io s) := by
  unfold execWeightLoadShard
  with_reducible
    repeat' first
      | assumption | intro _ | apply runRow_keeps | apply cmdWeightLoadShard_keeps | apply KeepsO.next
      | exact Sub.of (by assumption) (by decide)

theorem cmdReplaceLayer_keeps (e : Entry) (io : HostIo) (s : State) {s₀ : State} {W : Nat} (hs : Keeps W s₀ s)
    (hw : Sub 34079164 W := by apply Sub.of; assumption; decide) : Keeps W s₀ (cmdReplaceLayer e io s).st := by
  unfold cmdReplaceLayer
  with_reducible
    repeat' first
      | assumption | apply refuseCmd_keeps | apply setRepl_keeps | apply loadCommand_keeps | apply ite_keeps | split
      | dsimp only | exact Sub.of (by assumption) (by decide)

theorem execReplaceLayer_keeps (e : Entry) (io : HostIo) (s : State) {s₀ : State} {W : Nat} (hs : Keeps W s₀ s)
    (hw : Sub 34079164 W := by apply Sub.of; assumption; decide) : KeepsO W s₀ (execReplaceLayer e io s) := by
  unfold execReplaceLayer
  with_reducible
    repeat' first
      | assumption | intro _ | apply runRow_keeps | apply cmdReplaceLayer_keeps | apply KeepsO.next
      | exact Sub.of (by assumption) (by decide)

theorem shardLoaded_keeps (l : ShardLoad) (pt : Bytes) (s : State) {s₀ : State} {W : Nat} (hs : Keeps W s₀ s)
    (hw : Sub 33587644 W := by apply Sub.of; assumption; decide) : Keeps W s₀ (shardLoaded l pt s) := by
  unfold shardLoaded
  with_reducible
    repeat' first
      | assumption | apply bump_keeps | apply modWts_keeps | apply rangeWrite_keeps | apply zeroPages_keeps
      | apply reportUnits_keeps | apply shardDone_keeps | apply ite_keeps | exact Sub.of (by assumption) (by decide)

theorem execShardIngressDone_keeps (op : Nat) (body : Option Bytes) (s : State) {s₀ : State} {W : Nat} (hs : Keeps W s₀ s)
    (hw : Sub 34111932 W := by apply Sub.of; assumption; decide) : KeepsO W s₀ (execShardIngressDone op body s) := by
  unfold execShardIngressDone
  with_reducible
    repeat' first
      | assumption | apply modWts_keeps | apply cryEvent_keeps | apply shardFail_keeps | apply shardLoaded_keeps
      | apply KeepsO.ite | apply ite_keeps | apply KeepsO.next | split | exact Sub.of (by assumption) (by decide)

theorem recheckOne_keeps (r : ShardRec) (s : State) {s₀ : State} {W : Nat} (hs : Keeps W s₀ s)
    (hw : Sub 33559436 W := by apply Sub.of; assumption; decide) : Keeps W s₀ (recheckOne r s).2 := by
  unfold recheckOne
  with_reducible
    repeat' first
      | assumption | apply bump_keeps | apply stopJob_keeps | apply raiseWith_keeps | apply report_keeps
      | apply modWts_keeps | apply cryEvent_keeps | apply ite_keeps | split | dsimp only
      | exact Sub.of (by assumption) (by decide)

theorem execV6RecheckTimer_keeps (ue : List Nat) (s : State) {s₀ : State} {W : Nat} (hs : Keeps W s₀ s)
    (hw : Sub 33559468 W := by apply Sub.of; assumption; decide) : KeepsO W s₀ (execV6RecheckTimer ue s) := by
  unfold execV6RecheckTimer
  with_reducible
    repeat' first
      | assumption | intro _ | apply takeUe_keeps | apply recheckOne_keeps | apply KeepsO.ite | apply ite_keeps
      | apply foldl_keeps | apply KeepsO.next | exact Sub.of (by assumption) (by decide)

theorem writeVexCfg_keeps (p : Nat) (b : Bytes) (s : State) {s₀ : State} {W : Nat} (hs : Keeps W s₀ s)
    (hw : Sub 8 W := by apply Sub.of; assumption; decide) : Keeps W s₀ (writeVexCfg p b s) := by
  unfold writeVexCfg
  with_reducible
    repeat' first
      | assumption | intro _ | apply wrb_keeps | apply wr_keeps | apply ite_keeps | apply foldl_keeps

theorem cmdReplicaCompareConfig_keeps (e : Entry) (x1 : HostIo) (s : State) {s₀ : State} {W : Nat} (hs : Keeps W s₀ s)
    (hw : Sub 2097160 W := by apply Sub.of; assumption; decide) : Keeps W s₀ (cmdReplicaCompareConfig e x1 s).st := by
  unfold cmdReplicaCompareConfig
  with_reducible
    repeat' first
      | assumption | apply refuseCmd_keeps | apply doneCmd_keeps | apply modVex_keeps | apply writeVexCfg_keeps
      | apply ite_keeps | split | exact Sub.of (by assumption) (by decide)

theorem execReplicaCompareConfig_keeps (e : Entry) (io : HostIo) (s : State) {s₀ : State} {W : Nat} (hs : Keeps W s₀ s)
    (hw : Sub 2097548 W := by apply Sub.of; assumption; decide) : KeepsO W s₀ (execReplicaCompareConfig e io s) := by
  unfold execReplicaCompareConfig
  with_reducible
    repeat' first
      | assumption | intro _ | apply runRow_keeps | apply cmdReplicaCompareConfig_keeps | apply KeepsO.next
      | exact Sub.of (by assumption) (by decide)

theorem voidVex_keeps (p : Nat) (s : State) {s₀ : State} {W : Nat} (hs : Keeps W s₀ s)
    (hw : Sub 2097152 W := by apply Sub.of; assumption; decide) : Keeps W s₀ (voidVex p s) := by
  unfold voidVex
  with_reducible
    repeat' first
      | assumption | apply modVex_keeps | apply ite_keeps

theorem startVex_keeps (p : Nat) (s : State) {s₀ : State} {W : Nat} (hs : Keeps W s₀ s)
    (hw : Sub 2097152 W := by apply Sub.of; assumption; decide) : Keeps W s₀ (startVex p s) := by
  unfold startVex
  with_reducible
    repeat' first
      | assumption | apply modVex_keeps

theorem execVexsumWindowEnd_keeps (p : Nat) (s : State) {s₀ : State} {W : Nat} (hs : Keeps W s₀ s)
    (hw : Sub 2097160 W := by apply Sub.of; assumption; decide) : KeepsO W s₀ (execVexsumWindowEnd p s) := by
  unfold execVexsumWindowEnd
  with_reducible
    repeat' first
      | assumption | apply modVex_keeps | apply writeVexCfg_keeps | apply KeepsO.ite | apply ite_keeps
      | apply KeepsO.next | split | exact Sub.of (by assumption) (by decide)

theorem cmdWeightVerify_keeps (e : Entry) (x1 : HostIo) (s : State) {s₀ : State} {W : Nat} (hs : Keeps W s₀ s)
    (hw : Sub 35656588 W := by apply Sub.of; assumption; decide) : Keeps W s₀ (cmdWeightVerify e x1 s).st := by
  unfold cmdWeightVerify
  with_reducible
    repeat' first
      | assumption | intro _ | apply refuseCmd_keeps | apply newOp_keeps | apply pendCmd_keeps | apply modVex_keeps
      | apply recheckOne_keeps | apply ite_keeps | apply foldl_keeps | apply foldl_keeps_snd | split | dsimp only
      | exact Sub.of (by assumption) (by decide)

theorem execWeightVerify_keeps (e : Entry) (io : HostIo) (s : State) {s₀ : State} {W : Nat} (hs : Keeps W s₀ s)
    (hw : Sub 35656588 W := by apply Sub.of; assumption; decide) : KeepsO W s₀ (execWeightVerify e io s) := by
  unfold execWeightVerify
  with_reducible
    repeat' first
      | assumption | intro _ | apply runRow_keeps | apply cmdWeightVerify_keeps | apply KeepsO.next
      | exact Sub.of (by assumption) (by decide)

theorem addDigest_keeps (p : Nat) (d : VexDigest) (s : State) {s₀ : State} {W : Nat} (hs : Keeps W s₀ s)
    (hw : Sub 2097152 W := by apply Sub.of; assumption; decide) : Keeps W s₀ (addDigest p d s) := by
  unfold addDigest
  with_reducible
    repeat' first
      | assumption | apply modVex_keeps | apply ite_keeps

theorem shareDigest_keeps (p : Nat) (w : Nat) (unit : Nat) (s : State) {s₀ : State} {W : Nat} (hs : Keeps W s₀ s)
    (hw : Sub 32780 W := by apply Sub.of; assumption; decide) : Keeps W s₀ (shareDigest p w unit s) := by
  unfold shareDigest
  with_reducible
    repeat' first
      | assumption | intro _ | apply sendCtl_keeps | apply foldl_keeps | split

theorem finishFill_keeps (p : Nat) (f : VexFill) (s : State) {s₀ : State} {W : Nat} (hs : Keeps W s₀ s)
    (hw : Sub 2130316 W := by apply Sub.of; assumption; decide) : Keeps W s₀ (finishFill p f s) := by
  unfold finishFill
  with_reducible
    repeat' first
      | assumption | apply bump_keeps | apply raiseWith_keeps | apply outcome_keeps | apply sendCtl_keeps
      | apply modVex_keeps | apply addDigest_keeps | apply shareDigest_keeps | apply ite_keeps | apply foldl_keeps | split
      | dsimp only | exact Sub.of (by assumption) (by decide)

theorem fillGroup_keeps (p : Nat) (x : Nat × State) (g : VexGroup) {s₀ : State} {W : Nat} (hs : Keeps W s₀ x.2) (hw : Sub 5038 W := by apply Sub.of; assumption; decide) :
    Keeps W s₀ (fillGroup p x g).2 := by
  unfold fillGroup
  split
  · exact draw_keeps 128 (memUe_keeps _ _ _ _ _ hs)
  · exact hs

theorem execVexsumFillDone_keeps (p stack : Nat) (ue : List Nat) (s : State) {s₀ : State} {W : Nat} (hs : Keeps W s₀ s) (hw : Sub 2134958 W := by apply Sub.of; assumption; decide) :
    KeepsO W s₀ (execVexsumFillDone p stack ue s) := by
  unfold execVexsumFillDone
  split
  · exact KeepsO.next hs
  · extract_lets old gs x s1 late s2 g s3
    have hx : Keeps W s₀ x.2 := foldl_keeps_snd (x := (old.sum, takeUe ue s)) (takeUe_keeps _ _ hs) (fun t y h => fillGroup_keeps _ _ _ h)
    have h1 : Keeps W s₀ s1 := bump_keeps _ _ hx
    have h2 : Keeps W s₀ s2 := ite_keeps (loessEvent_keeps _ _ _ _ h1) h1
    have h3 : Keeps W s₀ s3 := modVex_keeps _ _ _ h2
    exact KeepsO.next (ite_keeps (finishFill_keeps _ _ _ h3) h3)

theorem applyPkgDigest_keeps (h : CtlHdr) (unit : Nat) (w : Nat) (void : Bool) (d : Nat) (s : State) {s₀ : State} {W : Nat}
    (hs : Keeps W s₀ s) (hw : Sub 2129932 W := by apply Sub.of; assumption; decide) : Keeps W s₀ (applyPkgDigest h unit w
    void d s).2 := by
  unfold applyPkgDigest
  with_reducible
    repeat' first
      | assumption | apply addDigest_keeps | apply shareDigest_keeps | split | exact Sub.of (by assumption) (by decide)

theorem execPkgDigest_keeps (h : CtlHdr) (unit : Nat) (window : Nat) (void : Bool) (digest : Nat) (s : State) {s₀ : State}
    {W : Nat} (hs : Keeps W s₀ s) (hw : Sub 2130316 W := by apply Sub.of; assumption; decide) : KeepsO W s₀ (execPkgDigest h
    unit window void digest s) := by
  unfold execPkgDigest
  with_reducible
    repeat' first
      | assumption | intro _ | apply applyCtl_keeps | apply applyPkgDigest_keeps | apply KeepsO.next
      | exact Sub.of (by assumption) (by decide)

theorem applySliceDigest_keeps (h : CtlHdr) (unit : Nat) (w : Nat) (void : Bool) (mid : Nat) (epoch : Nat) (d : Nat) (s :
    State) {s₀ : State} {W : Nat} (hs : Keeps W s₀ s) (hw : Sub 2097152 W := by apply Sub.of; assumption; decide) : Keeps W
    s₀ (applySliceDigest h unit w void mid epoch d s).2 := by
  unfold applySliceDigest
  with_reducible
    repeat' first
      | assumption | apply addDigest_keeps | apply ite_keeps | dsimp only | split

theorem execSliceDigest_keeps (h : CtlHdr) (unit : Nat) (window : Nat) (void : Bool) (modelId : Nat) (epoch : Nat) (digest :
    Nat) (s : State) {s₀ : State} {W : Nat} (hs : Keeps W s₀ s) (hw : Sub 2130316 W := by apply Sub.of; assumption; decide)
    : KeepsO W s₀ (execSliceDigest h unit window void modelId epoch digest s) := by
  unfold execSliceDigest
  with_reducible
    repeat' first
      | assumption | intro _ | apply applyCtl_keeps | apply applySliceDigest_keeps | apply KeepsO.next
      | exact Sub.of (by assumption) (by decide)

theorem vexMismatch_keeps (p : Nat) (w : Nat) (unit : Nat) (S : Nat) (ref : Nat) (ds : List VexDigest) (f : Nat → Field) (b
    : Nat) (s : State) {s₀ : State} {W : Nat} (hs : Keeps W s₀ s) (hw : Sub 5004 W := by apply Sub.of; assumption; decide) :
    Keeps W s₀ (vexMismatch p w unit S ref ds f b s) := by
  unfold vexMismatch
  with_reducible
    repeat' first
      | assumption | apply bump_keeps | apply raiseWith_keeps | apply report_keeps | apply loessEvent_keeps
      | exact Sub.of (by assumption) (by decide)

theorem compareDigest_keeps (p : Nat) (w : Nat) (unit : Nat) (ds : List VexDigest) (s : State) {s₀ : State} {W : Nat} (hs :
    Keeps W s₀ s) (hw : Sub 5004 W := by apply Sub.of; assumption; decide) : Keeps W s₀ (compareDigest p w unit ds s) := by
  unfold compareDigest
  with_reducible
    repeat' first
      | assumption | intro _ | apply wr_keeps | apply bump_keeps | apply stopJob_keeps | apply loessEvent_keeps
      | apply vexMismatch_keeps | apply ite_keeps | apply foldl_keeps | split | dsimp only
      | exact Sub.of (by assumption) (by decide)

theorem execVexsumCompare_keeps (p : Nat) (w : Nat) (s : State) {s₀ : State} {W : Nat} (hs : Keeps W s₀ s)
    (hw : Sub 2102156 W := by apply Sub.of; assumption; decide) : KeepsO W s₀ (execVexsumCompare p w s) := by
  unfold execVexsumCompare
  with_reducible
    repeat' first
      | assumption | apply bump_keeps | apply modVex_keeps | apply compareDigest_keeps | apply KeepsO.ite
      | apply ite_keeps | apply KeepsO.next | split | exact Sub.of (by assumption) (by decide)

end Sys2Proof.Machine
end

