-- ==== Sys2Proof/Laws/KeepServe.lean ====
section
/-!
SUPPORT. The operations of Serve keep the queue, the count of free values and the forms of memory and registers.
-/

set_option Elab.async false

namespace Sys2Proof.Machine

theorem modSrv_keeps (f : Serving → Serving) (s : State) {s₀ : State} {W : Nat} (hs : Keeps W s₀ s)
    (hw : Sub 67108864 W := by apply Sub.of; assumption; decide) : Keeps W s₀ (modSrv f s) := by
  unfold modSrv
  with_reducible
    repeat' first
      | assumption | apply Keeps.mk_srv

theorem setSlot_keeps (p : Nat) (n : Nat) (x : Slot) (s : State) {s₀ : State} {W : Nat} (hs : Keeps W s₀ s)
    (hw : Sub 67108872 W := by apply Sub.of; assumption; decide) : Keeps W s₀ (setSlot p n x s) := by
  unfold setSlot
  with_reducible
    repeat' first
      | assumption | apply wr_keeps | apply bump_keeps | apply modSrv_keeps | apply ite_keeps
      | exact Sub.of (by assumption) (by decide)

theorem modSlot_keeps (p : Nat) (n : Nat) (f : Slot → Slot) (s : State) {s₀ : State} {W : Nat} (hs : Keeps W s₀ s)
    (hw : Sub 67108872 W := by apply Sub.of; assumption; decide) : Keeps W s₀ (modSlot p n f s) := by
  unfold modSlot
  with_reducible
    repeat' first
      | assumption | apply setSlot_keeps

theorem reqEvent_keeps (p : Nat) (n : Nat) (s : State) {s₀ : State} {W : Nat} (hs : Keeps W s₀ s)
    (hw : Sub 396 W := by apply Sub.of; assumption; decide) : Keeps W s₀ (reqEvent p n s) := by
  unfold reqEvent
  with_reducible
    repeat' first
      | assumption | apply raiseWith_keeps

theorem toState_keeps (p : Nat) (n : Nat) (st : Nat) (f : Slot → Slot) (s : State) {s₀ : State} {W : Nat} (hs : Keeps W s₀
    s) (hw : Sub 67109260 W := by apply Sub.of; assumption; decide) : Keeps W s₀ (toState p n st f s) := by
  unfold toState
  with_reducible
    repeat' first
      | assumption | apply setSlot_keeps | apply reqEvent_keeps | apply ite_keeps
      | exact Sub.of (by assumption) (by decide)

theorem srvEvent_keeps (f : Field) (b : Nat) (p : Nat) (s : State) {s₀ : State} {W : Nat} (hs : Keeps W s₀ s)
    (hw : Sub 396 W := by apply Sub.of; assumption; decide) : Keeps W s₀ (srvEvent f b p s) := by
  unfold srvEvent
  with_reducible
    repeat' first
      | assumption | apply setEvent_keeps

theorem pinPhys_keeps (p : Nat) (a : Nat) (n : Nat) (on : Bool) (s : State) {s₀ : State} {W : Nat} (hs : Keeps W s₀ s)
    (hw : Sub 524684 W := by apply Sub.of; assumption; decide) : Keeps W s₀ (pinPhys p a n on s) := by
  unfold pinPhys
  with_reducible
    repeat' first
      | assumption | intro _ | apply pinPage_keeps | apply unpinPage_keeps | apply ite_keeps | apply foldl_keeps | split
      | exact Sub.of (by assumption) (by decide)

theorem putEntry_keeps (a : Nat) (v : Nat) (s : State) {s₀ : State} {W : Nat} (hs : Keeps W s₀ s)
    (hw : Sub 48 W := by apply Sub.of; assumption; decide) : Keeps W s₀ (putEntry a v s) := by
  unfold putEntry
  with_reducible
    repeat' first
      | assumption | apply writeMem_keeps | apply clearBad_keeps | exact Sub.of (by assumption) (by decide)

theorem nodeAt_keeps (p : Nat) (n : Nat) (k : Nat) (a : Nat) (s : State) {s₀ : State} {W : Nat} (hs : Keeps W s₀ s)
    (hw : Sub 67633596 W := by apply Sub.of; assumption; decide) : Keeps W s₀ (nodeAt p n k a s).2 := by
  unfold nodeAt
  with_reducible
    repeat' first
      | assumption | apply zeroRange_keeps | apply modSlot_keeps | apply pinPhys_keeps | apply putEntry_keeps
      | apply ite_keeps | split | dsimp only | exact Sub.of (by assumption) (by decide)

theorem rootOf_keeps (p : Nat) (n : Nat) (k : Nat) (s : State) {s₀ : State} {W : Nat} (hs : Keeps W s₀ s)
    (hw : Sub 67633596 W := by apply Sub.of; assumption; decide) : Keeps W s₀ (rootOf p n k s).2 := by
  unfold rootOf
  with_reducible
    repeat' first
      | assumption | apply zeroRange_keeps | apply modSlot_keeps | apply pinPhys_keeps | apply ite_keeps | split
      | dsimp only | exact Sub.of (by assumption) (by decide)

theorem nodeAt_keeps' {p n k a : Nat} {s t : State} {r : Option Nat} (e : nodeAt p n k a s = (r, t)) {s₀ : State} {W : Nat}
    (hs : Keeps W s₀ s) (hw : Sub 67633596 W := by apply Sub.of; assumption; decide) : Keeps W s₀ t := by
  have h := nodeAt_keeps p n k a s hs
  rw [e] at h
  exact h

theorem rootOf_keeps' {p n k : Nat} {s t : State} {r : Option Nat} (e : rootOf p n k s = (r, t)) {s₀ : State} {W : Nat}
    (hs : Keeps W s₀ s) (hw : Sub 67633596 W := by apply Sub.of; assumption; decide) : Keeps W s₀ t := by
  have h := rootOf_keeps p n k s hs
  rw [e] at h
  exact h

theorem linkPage_keeps (p n k : Nat) (g : KvPage) (s : State) {s₀ : State} {W : Nat} (hs : Keeps W s₀ s) (hw : Sub 67633596 W := by apply Sub.of; assumption; decide) : Keeps W s₀ (linkPage p n k g s) := by
  unfold linkPage
  split
  · rename_i e
    have h1 := rootOf_keeps' e hs
    split
    · rename_i e
      have h2 := nodeAt_keeps' e h1
      split
      · rename_i e
        exact putEntry_keeps _ _ _ (nodeAt_keeps' e h2)
      · rename_i e
        exact nodeAt_keeps' e h2
    · rename_i e
      exact nodeAt_keeps' e h1
  · rename_i e
    exact rootOf_keeps' e hs

theorem takePage_keeps (p : Nat) (n : Nat) (lg : Nat) (lp : Nat) (s : State) {s₀ : State} {W : Nat} (hs : Keeps W s₀ s)
    (hw : Sub 67633548 W := by apply Sub.of; assumption; decide) : Keeps W s₀ (takePage p n lg lp s).2 := by
  unfold takePage
  with_reducible
    repeat' first
      | assumption | apply modSlot_keeps | apply pinPhys_keeps | dsimp only | split
      | exact Sub.of (by assumption) (by decide)

theorem takePage_keeps' {p n lg lp : Nat} {s t : State} {r : Option KvPage} (e : takePage p n lg lp s = (r, t)) {s₀ : State} {W : Nat}
    (hs : Keeps W s₀ s) (hw : Sub 67633548 W := by apply Sub.of; assumption; decide) : Keeps W s₀ t := by
  have h := takePage_keeps p n lg lp s hs
  rw [e] at h
  exact h

theorem ensurePages_keeps (p n len : Nat) (s : State) {s₀ : State} {W : Nat} (hs : Keeps W s₀ s) (hw : Sub 67633596 W := by apply Sub.of; assumption; decide) : Keeps W s₀ (ensurePages p n len s) := by
  refine foldl_keeps hs (fun t x h => ?_)
  refine ite_keeps h ?_
  split
  · rename_i e
    exact linkPage_keeps _ _ _ _ _ (takePage_keeps' e h)
  · rename_i e
    exact takePage_keeps' e h

theorem releasePages_keeps (p : Nat) (n : Nat) (s : State) {s₀ : State} {W : Nat} (hs : Keeps W s₀ s)
    (hw : Sub 67633596 W := by apply Sub.of; assumption; decide) : Keeps W s₀ (releasePages p n s) := by
  unfold releasePages
  with_reducible
    repeat' first
      | assumption | intro _ | apply zeroRange_keeps | apply modSlot_keeps | apply pinPhys_keeps | apply foldl_keeps
      | exact Sub.of (by assumption) (by decide)

theorem freeSlot_keeps (p : Nat) (n : Nat) (s : State) {s₀ : State} {W : Nat} (hs : Keeps W s₀ s)
    (hw : Sub 67633596 W := by apply Sub.of; assumption; decide) : Keeps W s₀ (freeSlot p n s) := by
  unfold freeSlot
  with_reducible
    repeat' first
      | assumption | apply setSlot_keeps | apply releasePages_keeps | exact Sub.of (by assumption) (by decide)

theorem askSlot_keeps (n : Nat) (a : SlotAsk) (s : State) {s₀ : State} {W : Nat} (hs : Keeps W s₀ s)
    (hw : Sub 67108864 W := by apply Sub.of; assumption; decide) : Keeps W s₀ (askSlot n a s) := by
  unfold askSlot
  with_reducible
    repeat' first
      | assumption | apply modSrv_keeps | apply ite_keeps

theorem cmdReqCancel_keeps (e : Entry) (x1 : HostIo) (s : State) {s₀ : State} {W : Nat} (hs : Keeps W s₀ s)
    (hw : Sub 67108864 W := by apply Sub.of; assumption; decide) : Keeps W s₀ (cmdReqCancel e x1 s).st := by
  unfold cmdReqCancel
  with_reducible
    repeat' first
      | assumption | apply refuseCmd_keeps | apply doneCmd_keeps | apply askSlot_keeps | apply ite_keeps | split
      | dsimp only | exact Sub.of (by assumption) (by decide)

theorem execReqCancel_keeps (e : Entry) (io : HostIo) (s : State) {s₀ : State} {W : Nat} (hs : Keeps W s₀ s)
    (hw : Sub 67109260 W := by apply Sub.of; assumption; decide) : KeepsO W s₀ (execReqCancel e io s) := by
  unfold execReqCancel
  with_reducible
    repeat' first
      | assumption | intro _ | apply runRow_keeps | apply cmdReqCancel_keeps | apply KeepsO.next
      | exact Sub.of (by assumption) (by decide)

theorem cmdReqQuery_keeps (e : Entry) (io : HostIo) (s : State) {s₀ : State} {W : Nat} (hs : Keeps W s₀ s)
    (hw : Sub 67108876 W := by apply Sub.of; assumption; decide) : Keeps W s₀ (cmdReqQuery e io s).st := by
  unfold cmdReqQuery
  with_reducible
    repeat' first
      | assumption | apply refuseCmd_keeps | apply doneCmd_keeps | apply withOutput_keeps | apply askSlot_keeps
      | apply ite_keeps | split | dsimp only | exact Sub.of (by assumption) (by decide)

theorem execReqQuery_keeps (e : Entry) (io : HostIo) (s : State) {s₀ : State} {W : Nat} (hs : Keeps W s₀ s)
    (hw : Sub 67109260 W := by apply Sub.of; assumption; decide) : KeepsO W s₀ (execReqQuery e io s) := by
  unfold execReqQuery
  with_reducible
    repeat' first
      | assumption | intro _ | apply runRow_keeps | apply cmdReqQuery_keeps | apply KeepsO.next
      | exact Sub.of (by assumption) (by decide)

theorem execReqRelease_keeps (e : Entry) (io : HostIo) (s : State) {s₀ : State} {W : Nat} (hs : Keeps W s₀ s)
    (hw : Sub 67109260 W := by apply Sub.of; assumption; decide) : KeepsO W s₀ (execReqRelease e io s) := by
  unfold execReqRelease
  with_reducible
    repeat' first
      | assumption | intro _ | apply runRow_keeps | apply cmdReqQuery_keeps | apply KeepsO.next
      | exact Sub.of (by assumption) (by decide)

theorem cmdQueueConfig_keeps (e : Entry) (x1 : HostIo) (s : State) {s₀ : State} {W : Nat} (hs : Keeps W s₀ s)
    (hw : Sub 67108864 W := by apply Sub.of; assumption; decide) : Keeps W s₀ (cmdQueueConfig e x1 s).st := by
  unfold cmdQueueConfig
  with_reducible
    repeat' first
      | assumption | apply refuseCmd_keeps | apply doneCmd_keeps | apply modSrv_keeps | apply ite_keeps | split
      | dsimp only | exact Sub.of (by assumption) (by decide)

theorem execQueueConfig_keeps (e : Entry) (io : HostIo) (s : State) {s₀ : State} {W : Nat} (hs : Keeps W s₀ s)
    (hw : Sub 67109260 W := by apply Sub.of; assumption; decide) : KeepsO W s₀ (execQueueConfig e io s) := by
  unfold execQueueConfig
  with_reducible
    repeat' first
      | assumption | intro _ | apply runRow_keeps | apply cmdQueueConfig_keeps | apply KeepsO.next
      | exact Sub.of (by assumption) (by decide)

theorem execQueueRemove_keeps (e : Entry) (io : HostIo) (s : State) {s₀ : State} {W : Nat} (hs : Keeps W s₀ s)
    (hw : Sub 67109260 W := by apply Sub.of; assumption; decide) : KeepsO W s₀ (execQueueRemove e io s) := by
  unfold execQueueRemove
  with_reducible
    repeat' first
      | assumption | intro _ | apply runRow_keeps | apply cmdQueueConfig_keeps | apply KeepsO.next
      | exact Sub.of (by assumption) (by decide)

theorem writeQueue_keeps (q : Nat) (c : Option (Nat × Nat × Nat)) (s : State) {s₀ : State} {W : Nat} (hs : Keeps W s₀ s)
    (hw : Sub 393224 W := by apply Sub.of; assumption; decide) : Keeps W s₀ (writeQueue q c s) := by
  unfold writeQueue
  with_reducible
    repeat' first
      | assumption | apply wr_keeps | apply ite_keeps | split | apply Keeps.mk_qacct_qEnergy
      | exact Sub.of (by assumption) (by decide)

theorem setRing_keeps (n : Nat) (r : Option Ring) (s : State) {s₀ : State} {W : Nat} (hs : Keeps W s₀ s)
    (hw : Sub 67108864 W := by apply Sub.of; assumption; decide) : Keeps W s₀ (setRing n r s) := by
  unfold setRing
  with_reducible
    repeat' first
      | assumption | apply modSrv_keeps

theorem cmdStreamBind_keeps (e : Entry) (x1 : HostIo) (s : State) {s₀ : State} {W : Nat} (hs : Keeps W s₀ s)
    (hw : Sub 67108864 W := by apply Sub.of; assumption; decide) : Keeps W s₀ (cmdStreamBind e x1 s).st := by
  unfold cmdStreamBind
  with_reducible
    repeat' first
      | assumption | apply refuseCmd_keeps | apply doneCmd_keeps | apply setRing_keeps | apply ite_keeps | split
      | dsimp only | exact Sub.of (by assumption) (by decide)

theorem execStreamBind_keeps (e : Entry) (io : HostIo) (s : State) {s₀ : State} {W : Nat} (hs : Keeps W s₀ s)
    (hw : Sub 67109260 W := by apply Sub.of; assumption; decide) : KeepsO W s₀ (execStreamBind e io s) := by
  unfold execStreamBind
  with_reducible
    repeat' first
      | assumption | intro _ | apply runRow_keeps | apply cmdStreamBind_keeps | apply KeepsO.next
      | exact Sub.of (by assumption) (by decide)

theorem execStreamUnbind_keeps (e : Entry) (io : HostIo) (s : State) {s₀ : State} {W : Nat} (hs : Keeps W s₀ s)
    (hw : Sub 67109260 W := by apply Sub.of; assumption; decide) : KeepsO W s₀ (execStreamUnbind e io s) := by
  unfold execStreamUnbind
  with_reducible
    repeat' first
      | assumption | intro _ | apply runRow_keeps | apply cmdStreamBind_keeps | apply KeepsO.next
      | exact Sub.of (by assumption) (by decide)

theorem execSrvRingHead_keeps (p : Nat) (ring : Nat) (head : Nat) (s : State) {s₀ : State} {W : Nat} (hs : Keeps W s₀ s)
    (hw : Sub 67108864 W := by apply Sub.of; assumption; decide) : KeepsO W s₀ (execSrvRingHead p ring head s) := by
  unfold execSrvRingHead
  with_reducible
    repeat' first
      | assumption | apply setRing_keeps | apply KeepsO.ite | apply ite_keeps | apply KeepsO.next | split

theorem cmdAdmissionConfig_keeps (e : Entry) (x1 : HostIo) (s : State) {s₀ : State} {W : Nat} (hs : Keeps W s₀ s)
    (hw : Sub 67108864 W := by apply Sub.of; assumption; decide) : Keeps W s₀ (cmdAdmissionConfig e x1 s).st := by
  unfold cmdAdmissionConfig
  with_reducible
    repeat' first
      | assumption | apply doneCmd_keeps | apply modSrv_keeps | exact Sub.of (by assumption) (by decide)

theorem execAdmissionConfig_keeps (e : Entry) (io : HostIo) (s : State) {s₀ : State} {W : Nat} (hs : Keeps W s₀ s)
    (hw : Sub 67109260 W := by apply Sub.of; assumption; decide) : KeepsO W s₀ (execAdmissionConfig e io s) := by
  unfold execAdmissionConfig
  with_reducible
    repeat' first
      | assumption | intro _ | apply runRow_keeps | apply cmdAdmissionConfig_keeps | apply KeepsO.next
      | exact Sub.of (by assumption) (by decide)

theorem moveCredits_keeps (p : Nat) (old : List Nat) (new : List Nat) (s : State) {s₀ : State} {W : Nat} (hs : Keeps W s₀ s)
    (hw : Sub 67141644 W := by apply Sub.of; assumption; decide) : Keeps W s₀ (moveCredits p old new s) := by
  unfold moveCredits
  with_reducible
    repeat' first
      | assumption | intro _ | apply sendCtl_keeps | apply modSrv_keeps | apply ite_keeps | apply foldl_keeps
      | exact Sub.of (by assumption) (by decide)

theorem moveGrants_keeps (p : Nat) (old : List Nat) (new : List Nat) (s : State) {s₀ : State} {W : Nat} (hs : Keeps W s₀ s)
    (hw : Sub 67108864 W := by apply Sub.of; assumption; decide) : Keeps W s₀ (moveGrants p old new s) := by
  unfold moveGrants
  with_reducible
    repeat' first
      | assumption | apply modSrv_keeps

theorem writeAdmit_keeps (p : Nat) (b : Bytes) (s : State) {s₀ : State} {W : Nat} (hs : Keeps W s₀ s)
    (hw : Sub 67141644 W := by apply Sub.of; assumption; decide) : Keeps W s₀ (writeAdmit p b s) := by
  unfold writeAdmit
  with_reducible
    repeat' first
      | assumption | apply wr_keeps | apply modSrv_keeps | apply moveCredits_keeps | apply moveGrants_keeps
      | exact Sub.of (by assumption) (by decide)

theorem serveConfigs_keeps (s : State) {s₀ : State} {W : Nat} (hs : Keeps W s₀ s)
    (hw : Sub 67534860 W := by apply Sub.of; assumption; decide) : Keeps W s₀ (serveConfigs s) := by
  unfold serveConfigs
  with_reducible
    repeat' first
      | assumption | intro _ | apply modSrv_keeps | apply writeQueue_keeps | apply writeAdmit_keeps | apply foldl_keeps
      | exact Sub.of (by assumption) (by decide)

theorem execRequestLingerExpiry_keeps (p : Nat) (jidx : Nat) (s : State) {s₀ : State} {W : Nat} (hs : Keeps W s₀ s)
    (hw : Sub 67108864 W := by apply Sub.of; assumption; decide) : KeepsO W s₀ (execRequestLingerExpiry p jidx s) := by
  unfold execRequestLingerExpiry
  with_reducible
    repeat' first
      | assumption | apply askSlot_keeps | apply KeepsO.ite | apply ite_keeps | apply KeepsO.next

end Sys2Proof.Machine
end

