-- ==== Sys2Proof/Laws/KeepAdmit.lean ====
section
/-!
SUPPORT. The operations of Admit keep the queue, the count of free values and the forms of memory and registers.
-/

set_option Elab.async false

namespace Sys2Proof.Machine

theorem stagePass_keeps (p : Nat) (f : Nat) (s : State) {s₀ : State} {W : Nat} (hs : Keeps W s₀ s)
    (hw : Sub 67109260 W := by apply Sub.of; assumption; decide) : Keeps W s₀ (stagePass p f s) := by
  unfold stagePass
  with_reducible
    repeat' first
      | assumption | apply modSrv_keeps | apply srvEvent_keeps | apply ite_keeps
      | exact Sub.of (by assumption) (by decide)

theorem modAdmit_keeps (p : Nat) (n : Nat) (f : Admission → Admission) (s : State) {s₀ : State} {W : Nat} (hs : Keeps W s₀
    s) (hw : Sub 67108864 W := by apply Sub.of; assumption; decide) : Keeps W s₀ (modAdmit p n f s) := by
  unfold modAdmit
  with_reducible
    repeat' first
      | assumption | apply modSrv_keeps

theorem writePrompt_keeps (p : Nat) (a : Nat) (b : Bytes) (s : State) {s₀ : State} {W : Nat} (hs : Keeps W s₀ s)
    (hw : Sub 48 W := by apply Sub.of; assumption; decide) : Keeps W s₀ (writePrompt p a b s) := by
  unfold writePrompt
  with_reducible
    repeat' first
      | assumption | apply rangeWrite_keeps

theorem execPromptFetchDone_keeps (p : Nat) (jidx : Nat) (data : Option Bytes) (s : State) {s₀ : State} {W : Nat} (hs :
    Keeps W s₀ s) (hw : Sub 67113404 W := by apply Sub.of; assumption; decide) : KeepsO W s₀ (execPromptFetchDone p jidx
    data s) := by
  unfold execPromptFetchDone
  with_reducible
    repeat' first
      | assumption | apply bump_keeps | apply account_keeps | apply srvEvent_keeps | apply modAdmit_keeps
      | apply writePrompt_keeps | apply ite_keeps | apply KeepsO.next | split | dsimp only
      | exact Sub.of (by assumption) (by decide)

theorem rejectReq_keeps (p : Nat) (st : Nat) (s : State) {s₀ : State} {W : Nat} (hs : Keeps W s₀ s)
    (hw : Sub 8 W := by apply Sub.of; assumption; decide) : Keeps W s₀ (rejectReq p st s).st := by
  unfold rejectReq
  with_reducible
    repeat' first
      | assumption | apply bump_keeps

theorem submitNew_keeps (e : Entry) (d : Bytes) (s : State) {s₀ : State} {W : Nat} (hs : Keeps W s₀ s)
    (hw : Sub 67108872 W := by apply Sub.of; assumption; decide) : Keeps W s₀ (submitNew e d s).st := by
  unfold submitNew
  with_reducible
    repeat' first
      | assumption | apply doneCmd_keeps | apply modSrv_keeps | apply setSlot_keeps | apply rejectReq_keeps
      | apply ite_keeps | split | dsimp only | exact Sub.of (by assumption) (by decide)

theorem submitTurn_keeps (e : Entry) (d : Bytes) (s : State) {s₀ : State} {W : Nat} (hs : Keeps W s₀ s)
    (hw : Sub 67108872 W := by apply Sub.of; assumption; decide) : Keeps W s₀ (submitTurn e d s).st := by
  unfold submitTurn
  with_reducible
    repeat' first
      | assumption | apply doneCmd_keeps | apply askSlot_keeps | apply rejectReq_keeps | apply ite_keeps | split
      | dsimp only | exact Sub.of (by assumption) (by decide)

theorem cmdReqSubmit_keeps (e : Entry) (io : HostIo) (s : State) {s₀ : State} {W : Nat} (hs : Keeps W s₀ s)
    (hw : Sub 67108872 W := by apply Sub.of; assumption; decide) : Keeps W s₀ (cmdReqSubmit e io s).st := by
  unfold cmdReqSubmit
  with_reducible
    repeat' first
      | assumption | apply refuseCmd_keeps | apply submitNew_keeps | apply submitTurn_keeps | apply ite_keeps | split
      | exact Sub.of (by assumption) (by decide)

theorem execReqSubmit_keeps (e : Entry) (io : HostIo) (s : State) {s₀ : State} {W : Nat} (hs : Keeps W s₀ s)
    (hw : Sub 67109260 W := by apply Sub.of; assumption; decide) : KeepsO W s₀ (execReqSubmit e io s) := by
  unfold execReqSubmit
  with_reducible
    repeat' first
      | assumption | intro _ | apply runRow_keeps | apply cmdReqSubmit_keeps | apply KeepsO.next
      | exact Sub.of (by assumption) (by decide)

theorem execReqContinue_keeps (e : Entry) (io : HostIo) (s : State) {s₀ : State} {W : Nat} (hs : Keeps W s₀ s)
    (hw : Sub 67109260 W := by apply Sub.of; assumption; decide) : KeepsO W s₀ (execReqContinue e io s) := by
  unfold execReqContinue
  with_reducible
    repeat' first
      | assumption | intro _ | apply runRow_keeps | apply cmdReqSubmit_keeps | apply KeepsO.next
      | exact Sub.of (by assumption) (by decide)

end Sys2Proof.Machine
end

