-- ==== Sys2Proof/Laws/KeepBatch.lean ====
section
/-!
SUPPORT. The operations of Batch keep the queue, the count of free values and the forms of memory and registers.
-/

set_option Elab.async false

namespace Sys2Proof.Machine

theorem modBatches_keeps (p : Nat) (f : Batches → Batches) (s : State) {s₀ : State} {W : Nat} (hs : Keeps W s₀ s)
    (hw : Sub 67108864 W := by apply Sub.of; assumption; decide) : Keeps W s₀ (modBatches p f s) := by
  unfold modBatches
  with_reducible
    repeat' first
      | assumption | apply modSrv_keeps

theorem beginRun_keeps (p : Nat) (s : State) {s₀ : State} {W : Nat} (hs : Keeps W s₀ s)
    (hw : Sub 67108864 W := by apply Sub.of; assumption; decide) : Keeps W s₀ (beginRun p s) := by
  unfold beginRun
  with_reducible
    repeat' first
      | assumption | apply modBatches_keeps | apply ite_keeps

theorem beginStep_keeps (p : Nat) (s : State) {s₀ : State} {W : Nat} (hs : Keeps W s₀ s)
    (hw : Sub 67108864 W := by apply Sub.of; assumption; decide) : Keeps W s₀ (beginStep p s) := by
  unfold beginStep
  with_reducible
    repeat' first
      | assumption | apply modBatches_keeps

theorem advanceBatches_keeps (p : Nat) (c : Nat) (s : State) {s₀ : State} {W : Nat} (hs : Keeps W s₀ s)
    (hw : Sub 67108864 W := by apply Sub.of; assumption; decide) : Keeps W s₀ (advanceBatches p c s) := by
  unfold advanceBatches
  with_reducible
    repeat' first
      | assumption | apply modBatches_keeps | apply beginRun_keeps | apply beginStep_keeps | apply ite_keeps

theorem startBatches_keeps (p : Nat) (s : State) {s₀ : State} {W : Nat} (hs : Keeps W s₀ s)
    (hw : Sub 67108864 W := by apply Sub.of; assumption; decide) : Keeps W s₀ (startBatches p s) := by
  unfold startBatches
  with_reducible
    repeat' first
      | assumption | apply modSrv_keeps | apply beginRun_keeps | apply ite_keeps

theorem writeEntry_keeps (p : Nat) (o : Nat) (n : State) (r : BatchRow) (s : State) {s₀ : State} {W : Nat} (hn : Keeps W s₀
    n) (hs : Keeps W s₀ s) (hw : Sub 50 W := by apply Sub.of; assumption; decide) : Keeps W s₀ (writeEntry p o n r s) := by
  unfold writeEntry
  with_reducible
    repeat' first
      | assumption | apply draw_keeps | apply hubWrite_keeps | apply ite_keeps
      | exact Sub.of (by assumption) (by decide)

theorem writeTable_keeps (p : Nat) (e : Nat) (n : State) (s : State) {s₀ : State} {W : Nat} (hn : Keeps W s₀ n) (hs : Keeps
    W s₀ s) (hw : Sub 50 W := by apply Sub.of; assumption; decide) : Keeps W s₀ (writeTable p e n s) := by
  unfold writeTable
  with_reducible
    repeat' first
      | assumption | intro _ | apply hubWrite_keeps | apply writeEntry_keeps | apply ite_keeps | apply foldl_keeps
      | exact Sub.of (by assumption) (by decide)

theorem checkResults_keeps (p : Nat) (s : State) {s₀ : State} {W : Nat} (hs : Keeps W s₀ s)
    (hw : Sub 20492 W := by apply Sub.of; assumption; decide) : Keeps W s₀ (checkResults p s) := by
  unfold checkResults
  with_reducible
    repeat' first
      | assumption | apply failFrame_keeps | apply ite_keeps

theorem putRecord_keeps (p : Nat) (n : Nat) (b : Bytes) (s : State) {s₀ : State} {W : Nat} (hs : Keeps W s₀ s)
    (hw : Sub 67112972 W := by apply Sub.of; assumption; decide) : Keeps W s₀ (putRecord p n b s) := by
  unfold putRecord
  with_reducible
    repeat' first
      | assumption | apply emit_keeps | apply bump_keeps | apply account_keeps | apply setRing_keeps | split
      | exact Sub.of (by assumption) (by decide)

theorem putTails_keeps (p : Nat) (ns : List Nat) (s : State) {s₀ : State} {W : Nat} (hs : Keeps W s₀ s)
    (hw : Sub 4108 W := by apply Sub.of; assumption; decide) : Keeps W s₀ (putTails p ns s) := by
  unfold putTails
  with_reducible
    repeat' first
      | assumption | intro _ | apply emit_keeps | apply bump_keeps | apply account_keeps | apply msix_keeps
      | apply ite_keeps | apply foldl_keeps | split | exact Sub.of (by assumption) (by decide)

theorem stepRow_keeps (p now : Nat) (y : State × List TokenRec) (r : BatchRow) {s₀ : State} {W : Nat} (hs : Keeps W s₀ y.1) (hw : Sub 67109260 W := by apply Sub.of; assumption; decide) :
    Keeps W s₀ (stepRow p now y r).1 := by
  unfold stepRow
  dsimp only
  refine ite_keeps_fst hs (ite_keeps_fst ?_ (setSlot_keeps _ _ _ _ hs))
  exact ite_keeps (setSlot_keeps _ _ _ _ hs) (ite_keeps (toState_keeps _ _ _ _ _ hs) (toState_keeps _ _ _ _ _ hs))

theorem stepResults_keeps (p now : Nat) (s : State) {s₀ : State} {W : Nat} (hs : Keeps W s₀ s) (hw : Sub 67109260 W := by apply Sub.of; assumption; decide) : Keeps W s₀ (stepResults p now s).1 :=
  foldl_keeps_fst (x := (s, [])) hs (fun _ _ h => stepRow_keeps _ _ _ _ h)

theorem enterDecode_keeps (p : Nat) (n : Nat) (s : State) {s₀ : State} {W : Nat} (hs : Keeps W s₀ s)
    (hw : Sub 67633596 W := by apply Sub.of; assumption; decide) : Keeps W s₀ (enterDecode p n s) := by
  unfold enterDecode
  with_reducible
    repeat' first
      | assumption | apply toState_keeps | apply ensurePages_keeps | apply ite_keeps
      | exact Sub.of (by assumption) (by decide)

theorem passRow_keeps (p : Nat) (s : State) (n : Nat) {s₀ : State} {W : Nat} (hs : Keeps W s₀ s)
    (hw : Sub 67633596 W := by apply Sub.of; assumption; decide) : Keeps W s₀ (passRow p s n) := by
  unfold passRow
  with_reducible
    repeat' first
      | assumption | apply modSrv_keeps | apply setSlot_keeps | apply toState_keeps | apply enterDecode_keeps
      | apply ite_keeps | exact Sub.of (by assumption) (by decide)

theorem passResults_keeps (p : Nat) (s : State) {s₀ : State} {W : Nat} (hs : Keeps W s₀ s)
    (hw : Sub 67633596 W := by apply Sub.of; assumption; decide) : Keeps W s₀ (passResults p s) := by
  unfold passResults
  with_reducible
    repeat' first
      | assumption | intro _ | apply passRow_keeps | apply foldl_keeps

theorem enterPrefill_keeps (p : Nat) (n : Nat) (s : State) {s₀ : State} {W : Nat} (hs : Keeps W s₀ s)
    (hw : Sub 67633596 W := by apply Sub.of; assumption; decide) : Keeps W s₀ (enterPrefill p n s) := by
  unfold enterPrefill
  with_reducible
    repeat' first
      | assumption | apply modSrv_keeps | apply toState_keeps | apply ensurePages_keeps | apply ite_keeps
      | exact Sub.of (by assumption) (by decide)

end Sys2Proof.Machine
end

