-- ==== Sys2Proof/Laws/KeepShip.lean ====
section
/-!
SUPPORT. The operations of Ship keep the queue, the count of free values and the forms of memory and registers.
-/

set_option Elab.async false

namespace Sys2Proof.Machine

theorem unaccepted_keeps (p : Nat) (s : State) {s₀ : State} {W : Nat} (hs : Keeps W s₀ s)
    (hw : Sub 396 W := by apply Sub.of; assumption; decide) : Keeps W s₀ (unaccepted p s).2 := by
  unfold unaccepted
  with_reducible
    repeat' first
      | assumption | apply bump_keeps | apply setEvent_keeps | exact Sub.of (by assumption) (by decide)

theorem setCredit_keeps (p : Nat) (i : Nat) (c : Nat × Nat) (s : State) {s₀ : State} {W : Nat} (hs : Keeps W s₀ s)
    (hw : Sub 67108864 W := by apply Sub.of; assumption; decide) : Keeps W s₀ (setCredit p i c s) := by
  unfold setCredit
  with_reducible
    repeat' first
      | assumption | apply modSrv_keeps

theorem setGrant_keeps (p : Nat) (i : Nat) (c : Nat × Nat) (s : State) {s₀ : State} {W : Nat} (hs : Keeps W s₀ s)
    (hw : Sub 67108864 W := by apply Sub.of; assumption; decide) : Keeps W s₀ (setGrant p i c s) := by
  unfold setGrant
  with_reducible
    repeat' first
      | assumption | apply modSrv_keeps

theorem applyGrant_keeps (h : CtlHdr) (slots : Nat) (pages : Nat) (s : State) {s₀ : State} {W : Nat} (hs : Keeps W s₀ s)
    (hw : Sub 67109260 W := by apply Sub.of; assumption; decide) : Keeps W s₀ (applyGrant h slots pages s).2 := by
  unfold applyGrant
  with_reducible
    repeat' first
      | assumption | apply unaccepted_keeps | apply setCredit_keeps | dsimp only | split
      | exact Sub.of (by assumption) (by decide)

theorem execCreditGrant_keeps (h : CtlHdr) (slots : Nat) (pages : Nat) (s : State) {s₀ : State} {W : Nat} (hs : Keeps W s₀
    s) (hw : Sub 67142028 W := by apply Sub.of; assumption; decide) : KeepsO W s₀ (execCreditGrant h slots pages s) := by
  unfold execCreditGrant
  with_reducible
    repeat' first
      | assumption | intro _ | apply applyCtl_keeps | apply applyGrant_keeps | apply KeepsO.next
      | exact Sub.of (by assumption) (by decide)

theorem applyReturn_keeps (h : CtlHdr) (slots : Nat) (pages : Nat) (s : State) {s₀ : State} {W : Nat} (hs : Keeps W s₀ s)
    (hw : Sub 67109260 W := by apply Sub.of; assumption; decide) : Keeps W s₀ (applyReturn h slots pages s).2 := by
  unfold applyReturn
  with_reducible
    repeat' first
      | assumption | apply unaccepted_keeps | apply setGrant_keeps | dsimp only | split
      | exact Sub.of (by assumption) (by decide)

theorem execCreditReturn_keeps (h : CtlHdr) (slots : Nat) (pages : Nat) (s : State) {s₀ : State} {W : Nat} (hs : Keeps W s₀
    s) (hw : Sub 67142028 W := by apply Sub.of; assumption; decide) : KeepsO W s₀ (execCreditReturn h slots pages s) := by
  unfold execCreditReturn
  with_reducible
    repeat' first
      | assumption | intro _ | apply applyCtl_keeps | apply applyReturn_keeps | apply KeepsO.next
      | exact Sub.of (by assumption) (by decide)

theorem topUp_keeps (p : Nat) (s : State) (i : Nat) {s₀ : State} {W : Nat} (hs : Keeps W s₀ s)
    (hw : Sub 67141644 W := by apply Sub.of; assumption; decide) : Keeps W s₀ (topUp p s i) := by
  unfold topUp
  with_reducible
    repeat' first
      | assumption | apply sendCtl_keeps | apply setGrant_keeps | apply ite_keeps
      | exact Sub.of (by assumption) (by decide)

theorem grantCredits_keeps (p : Nat) (s : State) {s₀ : State} {W : Nat} (hs : Keeps W s₀ s)
    (hw : Sub 67141644 W := by apply Sub.of; assumption; decide) : Keeps W s₀ (grantCredits p s) := by
  unfold grantCredits
  with_reducible
    repeat' first
      | assumption | intro _ | apply topUp_keeps | apply ite_keeps | apply foldl_keeps

theorem sendAssign_keeps (p : Nat) (n : Nat) (i : Nat) (s : State) {s₀ : State} {W : Nat} (hs : Keeps W s₀ s)
    (hw : Sub 67141644 W := by apply Sub.of; assumption; decide) : Keeps W s₀ (sendAssign p n i s) := by
  unfold sendAssign
  with_reducible
    repeat' first
      | assumption | apply sendCtl_keeps | apply setCredit_keeps | exact Sub.of (by assumption) (by decide)

theorem assignFailed_keeps (p : Nat) (body : Bytes) (st : Nat) (s : State) {s₀ : State} {W : Nat} (hs : Keeps W s₀ s)
    (hw : Sub 67108864 W := by apply Sub.of; assumption; decide) : Keeps W s₀ (assignFailed p body st s) := by
  unfold assignFailed
  with_reducible
    repeat' first
      | assumption | apply askSlot_keeps | split

theorem applyAssign_keeps (h : CtlHdr) (req : Bytes) (ctl : Bytes) (jidx : Nat) (gen : Nat) (s : State) {s₀ : State} {W :
    Nat} (hs : Keeps W s₀ s) (hw : Sub 67109260 W := by apply Sub.of; assumption; decide) : Keeps W s₀ (applyAssign h req
    ctl jidx gen s).2 := by
  unfold applyAssign
  with_reducible
    repeat' first
      | assumption | apply modSrv_keeps | apply askSlot_keeps | apply unaccepted_keeps | apply setGrant_keeps
      | apply ite_keeps | dsimp only | split | exact Sub.of (by assumption) (by decide)

theorem execCtlAssign_keeps (h : CtlHdr) (req : Bytes) (ctl : Bytes) (jidx : Nat) (gen : Nat) (s : State) {s₀ : State} {W :
    Nat} (hs : Keeps W s₀ s) (hw : Sub 67142028 W := by apply Sub.of; assumption; decide) : KeepsO W s₀ (execCtlAssign h req
    ctl jidx gen s) := by
  unfold execCtlAssign
  with_reducible
    repeat' first
      | assumption | intro _ | apply applyCtl_keeps | apply applyAssign_keeps | apply KeepsO.next
      | exact Sub.of (by assumption) (by decide)

theorem answerLater_keeps (pkg : Nat) (mseq : Nat) (srcPart : Nat) (dstPart : Nat) (mtype : Nat) (body : Bytes) (s : State)
    {s₀ : State} {W : Nat} (hs : Keeps W s₀ s) (hw : Sub 32780 W := by apply Sub.of; assumption; decide) : Keeps W s₀
    (answerLater pkg mseq srcPart dstPart mtype body s) := by
  unfold answerLater
  with_reducible
    repeat' first
      | assumption | apply sendCtl_keeps | apply ite_keeps | apply Keeps.mk_fab
      | exact Sub.of (by assumption) (by decide)

theorem installSlot_keeps (p : Nat) (n : Nat) (x : Slot) (pkg : Nat) (mseq : Nat) (s : State) {s₀ : State} {W : Nat} (hs :
    Keeps W s₀ s) (hw : Sub 67141644 W := by apply Sub.of; assumption; decide) : Keeps W s₀ (installSlot p n x pkg mseq s)
    := by
  unfold installSlot
  with_reducible
    repeat' first
      | assumption | apply setSlot_keeps | apply answerLater_keeps | exact Sub.of (by assumption) (by decide)

theorem applyInstalled_keeps (h : CtlHdr) (jidx : Nat) (gen : Nat) (tjidx : Nat) (tgen : Nat) (s : State) {s₀ : State} {W :
    Nat} (hs : Keeps W s₀ s) (hw : Sub 67109260 W := by apply Sub.of; assumption; decide) : Keeps W s₀ (applyInstalled h
    jidx gen tjidx tgen s).2 := by
  unfold applyInstalled
  with_reducible
    repeat' first
      | assumption | apply askSlot_keeps | apply unaccepted_keeps | dsimp only | split
      | exact Sub.of (by assumption) (by decide)

theorem execInstalled_keeps (h : CtlHdr) (jidx : Nat) (gen : Nat) (tjidx : Nat) (tgen : Nat) (s : State) {s₀ : State} {W :
    Nat} (hs : Keeps W s₀ s) (hw : Sub 67142028 W := by apply Sub.of; assumption; decide) : KeepsO W s₀ (execInstalled h
    jidx gen tjidx tgen s) := by
  unfold execInstalled
  with_reducible
    repeat' first
      | assumption | intro _ | apply applyCtl_keeps | apply applyInstalled_keeps | apply KeepsO.next
      | exact Sub.of (by assumption) (by decide)

theorem shipAdvance_keeps (p : Nat) (s : State) {s₀ : State} {W : Nat} (hs : Keeps W s₀ s)
    (hw : Sub 67637692 W := by apply Sub.of; assumption; decide) : Keeps W s₀ (shipAdvance p s) := by
  unfold shipAdvance
  with_reducible
    repeat' first
      | assumption | intro _ | apply account_keeps | apply modSlot_keeps | apply freeSlot_keeps | apply ite_keeps
      | apply foldl_keeps | exact Sub.of (by assumption) (by decide)

theorem shipTarget_keeps (p : Nat) (n : Nat) (lg : Nat) (lp : Nat) (src : Nat) (s : State) {s₀ : State} {W : Nat} (hs :
    Keeps W s₀ s) (hw : Sub 67633548 W := by apply Sub.of; assumption; decide) : Keeps W s₀ (shipTarget p n lg lp src s).2
    := by
  unfold shipTarget
  with_reducible
    repeat' first
      | assumption | apply modSrv_keeps | apply pinPhys_keeps | dsimp only | split
      | exact Sub.of (by assumption) (by decide)

theorem shipTarget_keeps' {p n lg lp src : Nat} {s t : State} {r : Option Nat} (e : shipTarget p n lg lp src s = (r, t))
    {s₀ : State} {W : Nat} (hs : Keeps W s₀ s) (hw : Sub 67633548 W := by apply Sub.of; assumption; decide) : Keeps W s₀ t := by
  have h := shipTarget_keeps p n lg lp src s hs
  rw [e] at h
  exact h

theorem shipArrive_keeps (p src : Nat) (manifest : Bytes) (idx : Nat) (data : Bytes) (s : State) {s₀ : State} {W : Nat}
    (hs : Keeps W s₀ s) (hw : Sub 67637692 W := by apply Sub.of; assumption; decide) : Keeps W s₀ (shipArrive p src manifest idx data s) := by
  unfold shipArrive
  extract_lets s1
  have h1 : Keeps W s₀ s1 := bump_keeps _ _ hs
  refine ite_keeps (ite_keeps h1 (setEvent_keeps _ _ _ _ _ _ _ _ (bump_keeps _ _ h1))) (ite_keeps h1 ?_)
  split
  · exact h1
  · dsimp only
    refine ite_keeps h1 ?_
    split
    · rename_i e
      exact modSrv_keeps _ _ (account_keeps _ _ _ _ (clearBad_keeps _ _ _ (writeMem_keeps _ _ (shipTarget_keeps' e h1))))
    · rename_i e
      exact shipTarget_keeps' e h1

theorem shipConfirm_keeps (p : Nat) (aborted : List Nat) (s : State) {s₀ : State} {W : Nat} (hs : Keeps W s₀ s)
    (hw : Sub 67108872 W := by apply Sub.of; assumption; decide) : Keeps W s₀ (shipConfirm p aborted s) := by
  unfold shipConfirm
  with_reducible
    repeat' first
      | assumption | intro _ | apply modSlot_keeps | apply ite_keeps | apply foldl_keeps

theorem shipLink_keeps (p : Nat) (s : State) {s₀ : State} {W : Nat} (hs : Keeps W s₀ s)
    (hw : Sub 67633596 W := by apply Sub.of; assumption; decide) : Keeps W s₀ (shipLink p s) := by
  unfold shipLink
  with_reducible
    repeat' first
      | assumption | intro _ | apply modSrv_keeps | apply modSlot_keeps | apply linkPage_keeps | apply enterDecode_keeps
      | apply ite_keeps | apply foldl_keeps | exact Sub.of (by assumption) (by decide)

theorem dropShipPages_keeps (p : Nat) (n : Nat) (s : State) {s₀ : State} {W : Nat} (hs : Keeps W s₀ s)
    (hw : Sub 67633548 W := by apply Sub.of; assumption; decide) : Keeps W s₀ (dropShipPages p n s) := by
  unfold dropShipPages
  with_reducible
    repeat' first
      | assumption | intro _ | apply modSrv_keeps | apply pinPhys_keeps | apply foldl_keeps
      | exact Sub.of (by assumption) (by decide)

end Sys2Proof.Machine
end

