-- ==== Sys2Proof/Laws/KeepSession.lean ====
section
/-!
SUPPORT. The operations of Session keep the queue, the count of free values and the forms of memory and registers.
-/

set_option Elab.async false

namespace Sys2Proof.Machine

theorem sessEvent_keeps (f : Field) (b : Nat) (p : Nat) (s : State) {s₀ : State} {W : Nat} (hs : Keeps W s₀ s)
    (hw : Sub 396 W := by apply Sub.of; assumption; decide) : Keeps W s₀ (sessEvent f b p s) := by
  unfold sessEvent
  with_reducible
    repeat' first
      | assumption | apply setEvent_keeps

theorem sessFailed_keeps (p : Nat) (st : Nat) (s : State) {s₀ : State} {W : Nat} (hs : Keeps W s₀ s)
    (hw : Sub 5004 W := by apply Sub.of; assumption; decide) : Keeps W s₀ (sessFailed p st s) := by
  unfold sessFailed
  with_reducible
    repeat' first
      | assumption | apply bump_keeps | apply unitError_keeps | apply ite_keeps
      | exact Sub.of (by assumption) (by decide)

theorem showSess_keeps (s : State) {s₀ : State} {W : Nat} (hs : Keeps W s₀ s)
    (hw : Sub 8 W := by apply Sub.of; assumption; decide) : Keeps W s₀ (showSess s) := by
  unfold showSess
  with_reducible
    repeat' first
      | assumption | apply wr_keeps

theorem setOps_keeps (l : List SessOp) (s : State) {s₀ : State} {W : Nat} (hs : Keeps W s₀ s)
    (hw : Sub 67108872 W := by apply Sub.of; assumption; decide) : Keeps W s₀ (setOps l s) := by
  unfold setOps
  with_reducible
    repeat' first
      | assumption | apply modSrv_keeps | apply showSess_keeps | exact Sub.of (by assumption) (by decide)

theorem addOp_keeps (o : SessOp) (s : State) {s₀ : State} {W : Nat} (hs : Keeps W s₀ s)
    (hw : Sub 67108872 W := by apply Sub.of; assumption; decide) : Keeps W s₀ (addOp o s) := by
  unfold addOp
  with_reducible
    repeat' first
      | assumption | apply setOps_keeps

theorem refuseQueue_keeps (p : Nat) (s : State) {s₀ : State} {W : Nat} (hs : Keeps W s₀ s)
    (hw : Sub 396 W := by apply Sub.of; assumption; decide) : Keeps W s₀ (refuseQueue p s).st := by
  unfold refuseQueue
  with_reducible
    repeat' first
      | assumption | apply sessEvent_keeps

theorem modSess_keeps (id : Nat) (f : SessOp → SessOp) (s : State) {s₀ : State} {W : Nat} (hs : Keeps W s₀ s)
    (hw : Sub 67108872 W := by apply Sub.of; assumption; decide) : Keeps W s₀ (modSess id f s) := by
  unfold modSess
  with_reducible
    repeat' first
      | assumption | apply setOps_keeps

theorem modImage_keeps (id : Nat) (f : SessImage → SessImage) (s : State) {s₀ : State} {W : Nat} (hs : Keeps W s₀ s)
    (hw : Sub 67108864 W := by apply Sub.of; assumption; decide) : Keeps W s₀ (modImage id f s) := by
  unfold modImage
  with_reducible
    repeat' first
      | assumption | apply modSrv_keeps

theorem putRows_keeps (a : Nat) (g : Nat) (r : Nat) (nrows : Nat) (pay : Bytes) (s : State) {s₀ : State} {W : Nat} (hs :
    Keeps W s₀ s) (hw : Sub 48 W := by apply Sub.of; assumption; decide) : Keeps W s₀ (putRows a g r nrows pay s) := by
  unfold putRows
  with_reducible
    repeat' first
      | assumption | intro _ | apply writeMem_keeps | apply clearBad_keeps | apply foldl_keeps
      | exact Sub.of (by assumption) (by decide)

theorem storeSegment_keeps (g : Segment) (s : State) {s₀ : State} {W : Nat} (hs : Keeps W s₀ s)
    (hw : Sub 67108876 W := by apply Sub.of; assumption; decide) : Keeps W s₀ (storeSegment g s) := by
  unfold storeSegment
  with_reducible
    repeat' first
      | assumption | apply emit_keeps | apply bump_keeps | apply modSrv_keeps | apply ite_keeps
      | exact Sub.of (by assumption) (by decide)

theorem dropSegment_keeps (id : Nat) (s : State) {s₀ : State} {W : Nat} (hs : Keeps W s₀ s)
    (hw : Sub 67108864 W := by apply Sub.of; assumption; decide) : Keeps W s₀ (dropSegment id s) := by
  unfold dropSegment
  with_reducible
    repeat' first
      | assumption | apply modSrv_keeps

theorem newImage_keeps (p : Nat) (n : Nat) (medium : Nat) (keyId : Nat) (op : Option Nat) (s : State) {s₀ : State} {W : Nat}
    (hs : Keeps W s₀ s) (hw : Sub 67108864 W := by apply Sub.of; assumption; decide) : Keeps W s₀ (newImage p n medium keyId
    op s).2 := by
  unfold newImage
  with_reducible
    repeat' first
      | assumption | apply modSrv_keeps

theorem cmdSessionFallow_keeps (e : Entry) (x1 : HostIo) (s : State) {s₀ : State} {W : Nat} (hs : Keeps W s₀ s)
    (hw : Sub 67109260 W := by apply Sub.of; assumption; decide) : Keeps W s₀ (cmdSessionFallow e x1 s).st := by
  unfold cmdSessionFallow
  with_reducible
    repeat' first
      | assumption | apply refuseCmd_keeps | apply newOp_keeps | apply pendCmd_keeps | apply askSlot_keeps
      | apply refuseQueue_keeps | apply newImage_keeps | apply ite_keeps | split | dsimp only
      | exact Sub.of (by assumption) (by decide)

theorem execSessionFallow_keeps (e : Entry) (io : HostIo) (s : State) {s₀ : State} {W : Nat} (hs : Keeps W s₀ s)
    (hw : Sub 67109260 W := by apply Sub.of; assumption; decide) : KeepsO W s₀ (execSessionFallow e io s) := by
  unfold execSessionFallow
  with_reducible
    repeat' first
      | assumption | intro _ | apply runRow_keeps | apply cmdSessionFallow_keeps | apply KeepsO.next
      | exact Sub.of (by assumption) (by decide)

theorem imageDone_keeps (p : Nat) (st : Nat) (id : Nat) (op : Option Nat) (digest : Option (BitVec 256)) (s : State) {s₀ :
    State} {W : Nat} (hs : Keeps W s₀ s) (hw : Sub 396 W := by apply Sub.of; assumption; decide) : Keeps W s₀ (imageDone p
    st id op digest s) := by
  unfold imageDone
  with_reducible
    repeat' first
      | assumption | apply outcome_keeps | split

theorem dropFallow_keeps (p : Nat) (id : Nat) (s : State) {s₀ : State} {W : Nat} (hs : Keeps W s₀ s)
    (hw : Sub 67109260 W := by apply Sub.of; assumption; decide) : Keeps W s₀ (dropFallow p id s) := by
  unfold dropFallow
  with_reducible
    repeat' first
      | assumption | apply modSrv_keeps | apply imageDone_keeps | split | exact Sub.of (by assumption) (by decide)

theorem enterFallow_keeps (p : Nat) (n : Nat) (id : Nat) (s : State) {s₀ : State} {W : Nat} (hs : Keeps W s₀ s)
    (hw : Sub 67109262 W := by apply Sub.of; assumption; decide) : Keeps W s₀ (enterFallow p n id s) := by
  unfold enterFallow
  with_reducible
    repeat' first
      | assumption | apply draw_keeps | apply toState_keeps | apply addOp_keeps | apply modImage_keeps | split
      | exact Sub.of (by assumption) (by decide)

theorem dropWrite_keeps (p : Nat) (n : Nat) (s : State) {s₀ : State} {W : Nat} (hs : Keeps W s₀ s)
    (hw : Sub 67108872 W := by apply Sub.of; assumption; decide) : Keeps W s₀ (dropWrite p n s) := by
  unfold dropWrite
  with_reducible
    repeat' first
      | assumption | apply setOps_keeps

theorem takeReport_keeps (id : Nat) (pkg : Nat) (last : Bool) (medium : Nat) (bytes : Nat) (units : Nat) (uhs : List (Nat ×
    BitVec 256)) (s : State) {s₀ : State} {W : Nat} (hs : Keeps W s₀ s)
    (hw : Sub 67108864 W := by apply Sub.of; assumption; decide) : Keeps W s₀ (takeReport id pkg last medium bytes units uhs
    s) := by
  unfold takeReport
  with_reducible
    repeat' first
      | assumption | apply modImage_keeps

theorem reportSegment_keeps (p : Nat) (id : Nat) (medium : Nat) (bytes : Nat) (uhs : List (Nat × BitVec 256)) (s : State)
    {s₀ : State} {W : Nat} (hs : Keeps W s₀ s) (hw : Sub 67141644 W := by apply Sub.of; assumption; decide) : Keeps W s₀
    (reportSegment p id medium bytes uhs s) := by
  unfold reportSegment
  with_reducible
    repeat' first
      | assumption | intro _ | apply sendCtl_keeps | apply takeReport_keeps | apply ite_keeps | apply foldl_keeps
      | exact Sub.of (by assumption) (by decide)

theorem failImage_keeps (id : Nat) (st : Nat) (s : State) {s₀ : State} {W : Nat} (hs : Keeps W s₀ s)
    (hw : Sub 67146636 W := by apply Sub.of; assumption; decide) : Keeps W s₀ (failImage id st s) := by
  unfold failImage
  with_reducible
    repeat' first
      | assumption | intro _ | apply sendCtl_keeps | apply modSlot_keeps | apply sessFailed_keeps | apply modImage_keeps
      | apply dropSegment_keeps | apply imageDone_keeps | apply dropWrite_keeps | apply ite_keeps | apply foldl_keeps
      | split | exact Sub.of (by assumption) (by decide)

theorem execFallowImageFailed_keeps (image : Nat) (st : Nat) (s : State) {s₀ : State} {W : Nat} (hs : Keeps W s₀ s)
    (hw : Sub 67146636 W := by apply Sub.of; assumption; decide) : KeepsO W s₀ (execFallowImageFailed image st s) := by
  unfold execFallowImageFailed
  with_reducible
    repeat' first
      | assumption | apply failImage_keeps | apply KeepsO.next

theorem execFallowSegmentDone_keeps (p : Nat) (jidx : Nat) (hdr : Bytes) (medium : Nat) (ok : Bool) (s : State) {s₀ : State}
    {W : Nat} (hs : Keeps W s₀ s) (hw : Sub 67146636 W := by apply Sub.of; assumption; decide) : KeepsO W s₀
    (execFallowSegmentDone p jidx hdr medium ok s) := by
  unfold execFallowSegmentDone
  with_reducible
    repeat' first
      | assumption | apply sessFailed_keeps | apply storeSegment_keeps | apply dropWrite_keeps
      | apply reportSegment_keeps | apply failImage_keeps | apply ite_keeps | apply KeepsO.next | dsimp only | split
      | exact Sub.of (by assumption) (by decide)

theorem applySegReport_keeps (h : CtlHdr) (image : Nat) (last : Bool) (medium : Nat) (bytes : Nat) (units : Nat) (uhs : List
    (Nat × BitVec 256)) (s : State) {s₀ : State} {W : Nat} (hs : Keeps W s₀ s)
    (hw : Sub 67108864 W := by apply Sub.of; assumption; decide) : Keeps W s₀ (applySegReport h image last medium bytes
    units uhs s).2 := by
  unfold applySegReport
  with_reducible
    repeat' first
      | assumption | apply takeReport_keeps | split

theorem execSegReport_keeps (h : CtlHdr) (image : Nat) (last : Bool) (medium : Nat) (bytes : Nat) (units : Nat) (uhs : List
    (Nat × BitVec 256)) (s : State) {s₀ : State} {W : Nat} (hs : Keeps W s₀ s)
    (hw : Sub 67142028 W := by apply Sub.of; assumption; decide) : KeepsO W s₀ (execSegReport h image last medium bytes
    units uhs s) := by
  unfold execSegReport
  with_reducible
    repeat' first
      | assumption | intro _ | apply applyCtl_keeps | apply applySegReport_keeps | apply KeepsO.next
      | exact Sub.of (by assumption) (by decide)

theorem completeImage_keeps (id : Nat) (s : State) {s₀ : State} {W : Nat} (hs : Keeps W s₀ s)
    (hw : Sub 67633596 W := by apply Sub.of; assumption; decide) : Keeps W s₀ (completeImage id s) := by
  unfold completeImage
  with_reducible
    repeat' first
      | assumption | apply bump_keeps | apply modSlot_keeps | apply releasePages_keeps | apply modImage_keeps
      | apply imageDone_keeps | apply ite_keeps | split | exact Sub.of (by assumption) (by decide)

theorem execFallowImageComplete_keeps (image : Nat) (s : State) {s₀ : State} {W : Nat} (hs : Keeps W s₀ s)
    (hw : Sub 67633596 W := by apply Sub.of; assumption; decide) : KeepsO W s₀ (execFallowImageComplete image s) := by
  unfold execFallowImageComplete
  with_reducible
    repeat' first
      | assumption | apply modImage_keeps | apply completeImage_keeps | apply ite_keeps | apply KeepsO.next | split
      | exact Sub.of (by assumption) (by decide)

theorem commitImages_keeps (p : Nat) (s : State) {s₀ : State} {W : Nat} (hs : Keeps W s₀ s)
    (hw : Sub 67633596 W := by apply Sub.of; assumption; decide) : Keeps W s₀ (commitImages p s) := by
  unfold commitImages
  with_reducible
    repeat' first
      | assumption | intro _ | apply releasePages_keeps | apply completeImage_keeps | apply ite_keeps
      | apply foldl_keeps

end Sys2Proof.Machine
end

