-- ==== Sys2Proof/Laws/KeepThaw.lean ====
section
/-!
SUPPORT. The operations of Thaw keep the queue, the count of free values and the forms of memory and registers.
-/

set_option Elab.async false

namespace Sys2Proof.Machine

theorem askUnit_keeps (id : Nat) (dst : Nat) (i : Nat) (off : Nat) (want : Nat) (s : State) {s₀ : State} {W : Nat} (hs :
    Keeps W s₀ s) (hw : Sub 32780 W := by apply Sub.of; assumption; decide) : Keeps W s₀ (askUnit id dst i off want s) := by
  unfold askUnit
  with_reducible
    repeat' first
      | assumption | apply sendCtl_keeps

theorem nextFetch_keeps (o : SessOp) (lead : Nat) (s : State) {s₀ : State} {W : Nat} (hs : Keeps W s₀ s)
    (hw : Sub 32780 W := by apply Sub.of; assumption; decide) : Keeps W s₀ (nextFetch o lead s) := by
  unfold nextFetch
  with_reducible
    repeat' first
      | assumption | apply askUnit_keeps | apply ite_keeps | split

theorem dropPages_keeps (o : SessOp) (s : State) {s₀ : State} {W : Nat} (hs : Keeps W s₀ s)
    (hw : Sub 524684 W := by apply Sub.of; assumption; decide) : Keeps W s₀ (dropPages o s) := by
  unfold dropPages
  with_reducible
    repeat' first
      | assumption | intro _ | apply pinPhys_keeps | apply foldl_keeps

theorem endOp_keeps (o : SessOp) (st : Nat) (result : Nat) (s : State) {s₀ : State} {W : Nat} (hs : Keeps W s₀ s)
    (hw : Sub 67638156 W := by apply Sub.of; assumption; decide) : Keeps W s₀ (endOp o st result s) := by
  unfold endOp
  with_reducible
    repeat' first
      | assumption | apply outcome_keeps | apply sessFailed_keeps | apply setOps_keeps | apply dropPages_keeps
      | apply ite_keeps | split | exact Sub.of (by assumption) (by decide)

theorem headerRead_keeps (o : SessOp) (lead : Nat) (s : State) {s₀ : State} {W : Nat} (hs : Keeps W s₀ s)
    (hw : Sub 67670924 W := by apply Sub.of; assumption; decide) : Keeps W s₀ (headerRead o lead s) := by
  unfold headerRead
  with_reducible
    repeat' first
      | assumption | apply setOps_keeps | apply nextFetch_keeps | apply endOp_keeps | apply ite_keeps | split
      | exact Sub.of (by assumption) (by decide)

theorem startRead_keeps (o : SessOp) (id : Nat) (lead : Nat) (s : State) {s₀ : State} {W : Nat} (hs : Keeps W s₀ s)
    (hw : Sub 67670924 W := by apply Sub.of; assumption; decide) : Keeps W s₀ (startRead o id lead s) := by
  unfold startRead
  with_reducible
    repeat' first
      | assumption | apply addOp_keeps | apply nextFetch_keeps | apply headerRead_keeps | apply ite_keeps | split
      | exact Sub.of (by assumption) (by decide)

theorem thawOwn_keeps (e : Entry) (s : State) {s₀ : State} {W : Nat} (hs : Keeps W s₀ s)
    (hw : Sub 67670924 W := by apply Sub.of; assumption; decide) : Keeps W s₀ (thawOwn e s).st := by
  unfold thawOwn
  with_reducible
    repeat' first
      | assumption | apply refuseCmd_keeps | apply newOp_keeps | apply pendCmd_keeps | apply refuseQueue_keeps
      | apply startRead_keeps | apply ite_keeps | dsimp only | split | exact Sub.of (by assumption) (by decide)

theorem thawNew_keeps (e : Entry) (d : Bytes) (s : State) {s₀ : State} {W : Nat} (hs : Keeps W s₀ s)
    (hw : Sub 67670924 W := by apply Sub.of; assumption; decide) : Keeps W s₀ (thawNew e d s).st := by
  unfold thawNew
  with_reducible
    repeat' first
      | assumption | apply refuseCmd_keeps | apply newOp_keeps | apply pendCmd_keeps | apply refuseQueue_keeps
      | apply startRead_keeps | apply ite_keeps | split | dsimp only | exact Sub.of (by assumption) (by decide)

theorem cmdSessionThaw_keeps (e : Entry) (io : HostIo) (s : State) {s₀ : State} {W : Nat} (hs : Keeps W s₀ s)
    (hw : Sub 67670924 W := by apply Sub.of; assumption; decide) : Keeps W s₀ (cmdSessionThaw e io s).st := by
  unfold cmdSessionThaw
  with_reducible
    repeat' first
      | assumption | apply refuseCmd_keeps | apply thawOwn_keeps | apply thawNew_keeps | apply ite_keeps | split
      | dsimp only | exact Sub.of (by assumption) (by decide)

theorem execSessionThawOwn_keeps (e : Entry) (io : HostIo) (s : State) {s₀ : State} {W : Nat} (hs : Keeps W s₀ s)
    (hw : Sub 67670924 W := by apply Sub.of; assumption; decide) : KeepsO W s₀ (execSessionThawOwn e io s) := by
  unfold execSessionThawOwn
  with_reducible
    repeat' first
      | assumption | intro _ | apply runRow_keeps | apply cmdSessionThaw_keeps | apply KeepsO.next
      | exact Sub.of (by assumption) (by decide)

theorem execSessionThawNew_keeps (e : Entry) (io : HostIo) (s : State) {s₀ : State} {W : Nat} (hs : Keeps W s₀ s)
    (hw : Sub 67670924 W := by apply Sub.of; assumption; decide) : KeepsO W s₀ (execSessionThawNew e io s) := by
  unfold execSessionThawNew
  with_reducible
    repeat' first
      | assumption | intro _ | apply runRow_keeps | apply cmdSessionThaw_keeps | apply KeepsO.next
      | exact Sub.of (by assumption) (by decide)

theorem applyUnitFetch_keeps (image : Nat) (i : Nat) (off : Nat) (want : Nat) (s : State) {s₀ : State} {W : Nat} (hs : Keeps
    W s₀ s) (hw : Sub 8 W := by apply Sub.of; assumption; decide) : Keeps W s₀ (applyUnitFetch image i off want s).2 := by
  unfold applyUnitFetch
  with_reducible
    repeat' first
      | assumption | apply bump_keeps | split

theorem execUnitFetch_keeps (h : CtlHdr) (image : Nat) (i : Nat) (off : Nat) (want : Nat) (s : State) {s₀ : State} {W : Nat}
    (hs : Keeps W s₀ s) (hw : Sub 33164 W := by apply Sub.of; assumption; decide) : KeepsO W s₀ (execUnitFetch h image i off
    want s) := by
  unfold execUnitFetch
  with_reducible
    repeat' first
      | assumption | intro _ | apply applyCtl_keeps | apply applyUnitFetch_keeps | apply KeepsO.next
      | exact Sub.of (by assumption) (by decide)

theorem placeUnit_keeps (image : Nat) (i : Nat) (off : Nat) (b : Bytes) (s : State) {s₀ : State} {W : Nat} (hs : Keeps W s₀
    s) (hw : Sub 67108864 W := by apply Sub.of; assumption; decide) : Keeps W s₀ (placeUnit image i off b s) := by
  unfold placeUnit
  with_reducible
    repeat' first
      | assumption | apply modSrv_keeps | apply ite_keeps

theorem takeUnit_keeps (o : SessOp) (lead : Nat) (i : Nat) (off : Nat) (st : Nat) (b : Bytes) (s : State) {s₀ : State} {W :
    Nat} (hs : Keeps W s₀ s) (hw : Sub 67670924 W := by apply Sub.of; assumption; decide) : Keeps W s₀ (takeUnit o lead i
    off st b s) := by
  unfold takeUnit
  with_reducible
    repeat' first
      | assumption | apply bump_keeps | apply setOps_keeps | apply nextFetch_keeps | apply endOp_keeps
      | apply headerRead_keeps | apply ite_keeps | exact Sub.of (by assumption) (by decide)

theorem applyUnitData_keeps (image : Nat) (i : Nat) (off : Nat) (st : Nat) (b : Bytes) (s : State) {s₀ : State} {W : Nat}
    (hs : Keeps W s₀ s) (hw : Sub 67670924 W := by apply Sub.of; assumption; decide) : Keeps W s₀ (applyUnitData image i off
    st b s).2 := by
  unfold applyUnitData
  with_reducible
    repeat' first
      | assumption | apply placeUnit_keeps | apply takeUnit_keeps | apply ite_keeps | split
      | exact Sub.of (by assumption) (by decide)

theorem execUnitData_keeps (h : CtlHdr) (image : Nat) (i : Nat) (off : Nat) (st : Nat) (data : Bytes) (s : State) {s₀ :
    State} {W : Nat} (hs : Keeps W s₀ s) (hw : Sub 67670924 W := by apply Sub.of; assumption; decide) : KeepsO W s₀
    (execUnitData h image i off st data s) := by
  unfold execUnitData
  with_reducible
    repeat' first
      | assumption | intro _ | apply applyCtl_keeps | apply applyUnitData_keeps | apply KeepsO.next
      | exact Sub.of (by assumption) (by decide)

theorem placeUnits_keeps (o : SessOp) (us : List (Nat × Bytes)) (y : List KvPage × State) {s₀ : State} {W : Nat} (hs : Keeps W s₀ y.2) (hw : Sub 67633596 W := by apply Sub.of; assumption; decide) :
    ∀ z, placeUnits o us y = some z → Keeps W s₀ z.2 := by
  induction us generalizing y with
  | nil => intro z e; cases e; exact hs
  | cons u r ih =>
    obtain ⟨ps, s⟩ := y
    intro z e
    unfold placeUnits at e
    dsimp only at e
    split at e
    · cases e
    · refine ih _ ?_ z e
      exact putRows_keeps _ _ _ _ _ _ (pinPhys_keeps _ _ _ _ _ (zeroRange_keeps _ _ (setOps_keeps _ _ hs)))

theorem thawEnded_keeps (o : SessOp) (st : Nat) (units : Nat) (s : State) {s₀ : State} {W : Nat} (hs : Keeps W s₀ s)
    (hw : Sub 67670924 W := by apply Sub.of; assumption; decide) : Keeps W s₀ (thawEnded o st units s) := by
  unfold thawEnded
  with_reducible
    repeat' first
      | assumption | apply sendCtl_keeps | apply endOp_keeps | apply ite_keeps
      | exact Sub.of (by assumption) (by decide)

theorem execThawReadDone_keeps (t : ThawIn) (s : State) {s₀ : State} {W : Nat} (hs : Keeps W s₀ s)
    (hw : Sub 67670972 W := by apply Sub.of; assumption; decide) : KeepsO W s₀ (execThawReadDone t s) := by
  unfold execThawReadDone
  extract_lets p n own fresh s1 o
  refine KeepsO.ite (KeepsO.next hs) ?_
  have h1 : Keeps W s₀ s1 := ite_keeps hs (addOp_keeps _ _ hs)
  clear_value s1 o
  have he : ∀ st k, KeepsO W s₀ (.next (thawEnded o st k s1)) := fun st k => KeepsO.next (thawEnded_keeps _ _ _ _ h1)
  refine KeepsO.ite (KeepsO.next h1) (KeepsO.ite (he _ _) ?_)
  split
  · exact he _ _
  split
  · exact he _ _
  refine KeepsO.ite (he _ _) ?_
  split
  · exact he _ _
  · rename_i ps u e
    exact KeepsO.next (thawEnded_keeps _ _ _ _ (setOps_keeps _ _ (bump_keeps _ _ (placeUnits_keeps _ _ _ h1 (by apply Sub.of; assumption; decide) _ e))))

theorem applyThawReport_keeps (h : CtlHdr) (image : Nat) (st : Nat) (units : Nat) (s : State) {s₀ : State} {W : Nat} (hs :
    Keeps W s₀ s) (hw : Sub 67638156 W := by apply Sub.of; assumption; decide) : Keeps W s₀ (applyThawReport h image st
    units s).2 := by
  unfold applyThawReport
  with_reducible
    repeat' first
      | assumption | apply setOps_keeps | apply endOp_keeps | apply ite_keeps | split
      | exact Sub.of (by assumption) (by decide)

theorem execThawReport_keeps (h : CtlHdr) (image : Nat) (st : Nat) (units : Nat) (s : State) {s₀ : State} {W : Nat} (hs :
    Keeps W s₀ s) (hw : Sub 67670924 W := by apply Sub.of; assumption; decide) : KeepsO W s₀ (execThawReport h image st
    units s) := by
  unfold execThawReport
  with_reducible
    repeat' first
      | assumption | intro _ | apply applyCtl_keeps | apply applyThawReport_keeps | apply KeepsO.next
      | exact Sub.of (by assumption) (by decide)

theorem linkThawed_keeps (p : Nat) (n : Nat) (ps : List KvPage) (s : State) {s₀ : State} {W : Nat} (hs : Keeps W s₀ s)
    (hw : Sub 67633596 W := by apply Sub.of; assumption; decide) : Keeps W s₀ (linkThawed p n ps s) := by
  unfold linkThawed
  with_reducible
    repeat' first
      | assumption | intro _ | apply modSlot_keeps | apply linkPage_keeps | apply foldl_keeps
      | exact Sub.of (by assumption) (by decide)

theorem finishThaw_keeps (o : SessOp) (s : State) {s₀ : State} {W : Nat} (hs : Keeps W s₀ s)
    (hw : Sub 67633596 W := by apply Sub.of; assumption; decide) : Keeps W s₀ (finishThaw o s) := by
  unfold finishThaw
  with_reducible
    repeat' first
      | assumption | apply bump_keeps | apply outcome_keeps | apply modSrv_keeps | apply setSlot_keeps
      | apply toState_keeps | apply setRing_keeps | apply setOps_keeps | apply linkThawed_keeps | apply ite_keeps | split
      | exact Sub.of (by assumption) (by decide)

theorem commitThaws_keeps (p : Nat) (s : State) {s₀ : State} {W : Nat} (hs : Keeps W s₀ s)
    (hw : Sub 67633596 W := by apply Sub.of; assumption; decide) : Keeps W s₀ (commitThaws p s) := by
  unfold commitThaws
  with_reducible
    repeat' first
      | assumption | intro _ | apply finishThaw_keeps | apply foldl_keeps

theorem cmdSessionExport_keeps (e : Entry) (x1 : HostIo) (s : State) {s₀ : State} {W : Nat} (hs : Keeps W s₀ s)
    (hw : Sub 67670924 W := by apply Sub.of; assumption; decide) : Keeps W s₀ (cmdSessionExport e x1 s).st := by
  unfold cmdSessionExport
  with_reducible
    repeat' first
      | assumption | apply refuseCmd_keeps | apply newOp_keeps | apply pendCmd_keeps | apply refuseQueue_keeps
      | apply startRead_keeps | apply ite_keeps | split | exact Sub.of (by assumption) (by decide)

theorem execSessionExport_keeps (e : Entry) (io : HostIo) (s : State) {s₀ : State} {W : Nat} (hs : Keeps W s₀ s)
    (hw : Sub 67670924 W := by apply Sub.of; assumption; decide) : KeepsO W s₀ (execSessionExport e io s) := by
  unfold execSessionExport
  with_reducible
    repeat' first
      | assumption | intro _ | apply runRow_keeps | apply cmdSessionExport_keeps | apply KeepsO.next
      | exact Sub.of (by assumption) (by decide)

theorem cmdSessionImport_keeps (e : Entry) (x1 : HostIo) (s : State) {s₀ : State} {W : Nat} (hs : Keeps W s₀ s)
    (hw : Sub 67109260 W := by apply Sub.of; assumption; decide) : Keeps W s₀ (cmdSessionImport e x1 s).st := by
  unfold cmdSessionImport
  with_reducible
    repeat' first
      | assumption | apply refuseCmd_keeps | apply newOp_keeps | apply pendCmd_keeps | apply addOp_keeps
      | apply refuseQueue_keeps | apply ite_keeps | split | dsimp only | exact Sub.of (by assumption) (by decide)

theorem execSessionImport_keeps (e : Entry) (io : HostIo) (s : State) {s₀ : State} {W : Nat} (hs : Keeps W s₀ s)
    (hw : Sub 67109260 W := by apply Sub.of; assumption; decide) : KeepsO W s₀ (execSessionImport e io s) := by
  unfold execSessionImport
  with_reducible
    repeat' first
      | assumption | intro _ | apply runRow_keeps | apply cmdSessionImport_keeps | apply KeepsO.next
      | exact Sub.of (by assumption) (by decide)

theorem finishExport_keeps (o : SessOp) (image : Nat) (iova : Nat) (s : State) {s₀ : State} {W : Nat} (hs : Keeps W s₀ s)
    (hw : Sub 67638156 W := by apply Sub.of; assumption; decide) : Keeps W s₀ (finishExport o image iova s) := by
  unfold finishExport
  with_reducible
    repeat' first
      | assumption | apply emit_keeps | apply bump_keeps | apply endOp_keeps | apply ite_keeps
      | exact Sub.of (by assumption) (by decide)

theorem sendUnit_keeps (image : Nat) (dst : Nat) (i : Nat) (u : Bytes) (s : State) {s₀ : State} {W : Nat} (hs : Keeps W s₀
    s) (hw : Sub 32780 W := by apply Sub.of; assumption; decide) : Keeps W s₀ (sendUnit image dst i u s) := by
  unfold sendUnit
  with_reducible
    repeat' first
      | assumption | intro _ | apply sendCtl_keeps | apply foldl_keeps

theorem finishImport_keeps (o : SessOp) (medium : Nat) (b : Bytes) (s : State) {s₀ : State} {W : Nat} (hs : Keeps W s₀ s)
    (hw : Sub 67670924 W := by apply Sub.of; assumption; decide) : Keeps W s₀ (finishImport o medium b s) := by
  unfold finishImport
  with_reducible
    repeat' first
      | assumption | intro _ | apply bump_keeps | apply modImage_keeps | apply storeSegment_keeps | apply newImage_keeps
      | apply endOp_keeps | apply sendUnit_keeps | apply ite_keeps | apply foldl_keeps | split | dsimp only
      | exact Sub.of (by assumption) (by decide)

theorem execSessionXferDone_keeps (op : Nat) (st : Nat) (data : Option Bytes) (s : State) {s₀ : State} {W : Nat} (hs : Keeps
    W s₀ s) (hw : Sub 67670924 W := by apply Sub.of; assumption; decide) : KeepsO W s₀ (execSessionXferDone op st data s) :=
    by
  unfold execSessionXferDone
  with_reducible
    repeat' first
      | assumption | apply endOp_keeps | apply finishExport_keeps | apply finishImport_keeps | apply ite_keeps
      | apply KeepsO.next | split | exact Sub.of (by assumption) (by decide)

theorem deleteImage_keeps (id : Nat) (s : State) {s₀ : State} {W : Nat} (hs : Keeps W s₀ s)
    (hw : Sub 67141644 W := by apply Sub.of; assumption; decide) : Keeps W s₀ (deleteImage id s) := by
  unfold deleteImage
  with_reducible
    repeat' first
      | assumption | intro _ | apply sendCtl_keeps | apply modSrv_keeps | apply dropSegment_keeps | apply foldl_keeps
      | exact Sub.of (by assumption) (by decide)

theorem cmdSessionDiscard_keeps (e : Entry) (x1 : HostIo) (s : State) {s₀ : State} {W : Nat} (hs : Keeps W s₀ s)
    (hw : Sub 67142028 W := by apply Sub.of; assumption; decide) : Keeps W s₀ (cmdSessionDiscard e x1 s).st := by
  unfold cmdSessionDiscard
  with_reducible
    repeat' first
      | assumption | apply refuseCmd_keeps | apply doneCmd_keeps | apply sendCtl_keeps | apply askSlot_keeps
      | apply refuseQueue_keeps | apply deleteImage_keeps | apply ite_keeps | apply ite_keeps_st | split
      | exact Sub.of (by assumption) (by decide)

theorem execSessionDiscard_keeps (e : Entry) (io : HostIo) (s : State) {s₀ : State} {W : Nat} (hs : Keeps W s₀ s)
    (hw : Sub 67142028 W := by apply Sub.of; assumption; decide) : KeepsO W s₀ (execSessionDiscard e io s) := by
  unfold execSessionDiscard
  with_reducible
    repeat' first
      | assumption | intro _ | apply runRow_keeps | apply cmdSessionDiscard_keeps | apply KeepsO.next
      | exact Sub.of (by assumption) (by decide)

theorem execSegDelete_keeps (h : CtlHdr) (image : Nat) (s : State) {s₀ : State} {W : Nat} (hs : Keeps W s₀ s)
    (hw : Sub 67142028 W := by apply Sub.of; assumption; decide) : KeepsO W s₀ (execSegDelete h image s) := by
  unfold execSegDelete
  with_reducible
    repeat' first
      | assumption | intro _ | apply applyCtl_keeps | apply deleteImage_keeps | apply KeepsO.next
      | exact Sub.of (by assumption) (by decide)

theorem rebuildCatalog_keeps (s : State) {s₀ : State} {W : Nat} (hs : Keeps W s₀ s)
    (hw : Sub 67108872 W := by apply Sub.of; assumption; decide) : Keeps W s₀ (rebuildCatalog s) := by
  unfold rebuildCatalog
  with_reducible
    repeat' first
      | assumption | apply modSrv_keeps | apply showSess_keeps | exact Sub.of (by assumption) (by decide)

theorem failMedium_keeps (medium : Nat) (s : State) {s₀ : State} {W : Nat} (hs : Keeps W s₀ s)
    (hw : Sub 67670924 W := by apply Sub.of; assumption; decide) : Keeps W s₀ (failMedium medium s) := by
  unfold failMedium
  with_reducible
    repeat' first
      | assumption | intro _ | apply failImage_keeps | apply endOp_keeps | apply foldl_keeps
      | exact Sub.of (by assumption) (by decide)

end Sys2Proof.Machine
end

