-- ==== Sys2Proof/Laws/KeepReplace.lean ====
section
/-!
SUPPORT. The operations of Replace keep the queue, the count of free values and the forms of memory and registers.
-/

set_option Elab.async false

namespace Sys2Proof.Machine

theorem cmdReplaceBegin_keeps (e : Entry) (io : HostIo) (s : State) {s₀ : State} {W : Nat} (hs : Keeps W s₀ s)
    (hw : Sub 102760584 W := by apply Sub.of; assumption; decide) : Keeps W s₀ (cmdReplaceBegin e io s).st := by
  unfold cmdReplaceBegin
  with_reducible
    repeat' first
      | assumption | apply refuseCmd_keeps | apply newOp_keeps | apply pendCmd_keeps | apply modWts_keeps
      | apply setRepl_keeps | apply voidVex_keeps | apply modSrv_keeps | apply ite_keeps | split | dsimp only
      | exact Sub.of (by assumption) (by decide)

theorem execReplaceBegin_keeps (e : Entry) (io : HostIo) (s : State) {s₀ : State} {W : Nat} (hs : Keeps W s₀ s)
    (hw : Sub 102760844 W := by apply Sub.of; assumption; decide) : KeepsO W s₀ (execReplaceBegin e io s) := by
  unfold execReplaceBegin
  with_reducible
    repeat' first
      | assumption | intro _ | apply runRow_keeps | apply cmdReplaceBegin_keeps | apply KeepsO.next
      | exact Sub.of (by assumption) (by decide)

theorem barrierFallow_keeps (p : Nat) (r : Replacement) (s : State) (n : Nat) {s₀ : State} {W : Nat} (hs : Keeps W s₀ s)
    (hw : Sub 67109262 W := by apply Sub.of; assumption; decide) : Keeps W s₀ (barrierFallow p r s n) := by
  unfold barrierFallow
  with_reducible
    repeat' first
      | assumption | apply newImage_keeps | apply enterFallow_keeps | exact Sub.of (by assumption) (by decide)

theorem barrierRow_keeps (p : Nat) (r : Replacement) (s : State) (n : Nat) {s₀ : State} {W : Nat} (hs : Keeps W s₀ s)
    (hw : Sub 67109262 W := by apply Sub.of; assumption; decide) : Keeps W s₀ (barrierRow p r s n) := by
  unfold barrierRow
  with_reducible
    repeat' first
      | assumption | apply raise_keeps | apply modSlot_keeps | apply toState_keeps | apply barrierFallow_keeps
      | apply ite_keeps | exact Sub.of (by assumption) (by decide)

theorem takeBarrier_keeps (p : Nat) (r : Replacement) (s : State) {s₀ : State} {W : Nat} (hs : Keeps W s₀ s)
    (hw : Sub 100696462 W := by apply Sub.of; assumption; decide) : Keeps W s₀ (takeBarrier p r s) := by
  unfold takeBarrier
  with_reducible
    repeat' first
      | assumption | intro _ | apply raise_keeps | apply setRepl_keeps | apply reportUnits_keeps
      | apply barrierRow_keeps | apply foldl_keeps | exact Sub.of (by assumption) (by decide)

theorem barrierAtCommit_keeps (p : Nat) (boundary : Bool) (s : State) {s₀ : State} {W : Nat} (hs : Keeps W s₀ s)
    (hw : Sub 100696462 W := by apply Sub.of; assumption; decide) : Keeps W s₀ (barrierAtCommit p boundary s) := by
  unfold barrierAtCommit
  with_reducible
    repeat' first
      | assumption | apply takeBarrier_keeps | apply ite_keeps | split

theorem execReplaceBarrierTimeout_keeps (p : Nat) (s : State) {s₀ : State} {W : Nat} (hs : Keeps W s₀ s)
    (hw : Sub 100663304 W := by apply Sub.of; assumption; decide) : KeepsO W s₀ (execReplaceBarrierTimeout p s) := by
  unfold execReplaceBarrierTimeout
  with_reducible
    repeat' first
      | assumption | intro _ | apply setRepl_keeps | apply askSlot_keeps | apply ite_keeps | apply foldl_keeps
      | apply KeepsO.next | split | exact Sub.of (by assumption) (by decide)

theorem orderStop_keeps (p : Nat) (mode : Nat) (status : Nat) (limit : Nat) (s : State) {s₀ : State} {W : Nat} (hs : Keeps W
    s₀ s) (hw : Sub 4096 W := by apply Sub.of; assumption; decide) : Keeps W s₀ (orderStop p mode status limit s) := by
  unfold orderStop
  with_reducible
    repeat' first
      | assumption | apply modPart_keeps

theorem cmdReplaceEnd_keeps (e : Entry) (x1 : HostIo) (s : State) {s₀ : State} {W : Nat} (hs : Keeps W s₀ s)
    (hw : Sub 33558664 W := by apply Sub.of; assumption; decide) : Keeps W s₀ (cmdReplaceEnd e x1 s).st := by
  unfold cmdReplaceEnd
  with_reducible
    repeat' first
      | assumption | apply refuseCmd_keeps | apply newOp_keeps | apply pendCmd_keeps | apply setRepl_keeps
      | apply endOp_keeps | apply orderStop_keeps | apply ite_keeps | split | dsimp only
      | exact Sub.of (by assumption) (by decide)

theorem execReplaceEnd_keeps (e : Entry) (io : HostIo) (s : State) {s₀ : State} {W : Nat} (hs : Keeps W s₀ s)
    (hw : Sub 33558924 W := by apply Sub.of; assumption; decide) : KeepsO W s₀ (execReplaceEnd e io s) := by
  unfold execReplaceEnd
  with_reducible
    repeat' first
      | assumption | intro _ | apply runRow_keeps | apply cmdReplaceEnd_keeps | apply KeepsO.next
      | exact Sub.of (by assumption) (by decide)

theorem execReplaceAbort_keeps (e : Entry) (io : HostIo) (s : State) {s₀ : State} {W : Nat} (hs : Keeps W s₀ s)
    (hw : Sub 33558924 W := by apply Sub.of; assumption; decide) : KeepsO W s₀ (execReplaceAbort e io s) := by
  unfold execReplaceAbort
  with_reducible
    repeat' first
      | assumption | intro _ | apply runRow_keeps | apply cmdReplaceEnd_keeps | apply KeepsO.next
      | exact Sub.of (by assumption) (by decide)

theorem replaceDone_keeps (p : Nat) (st : Nat) (r : Replacement) (s : State) {s₀ : State} {W : Nat} (hs : Keeps W s₀ s)
    (hw : Sub 396 W := by apply Sub.of; assumption; decide) : Keeps W s₀ (replaceDone p st r s) := by
  unfold replaceDone
  with_reducible
    repeat' first
      | assumption | apply outcome_keeps | apply endOp_keeps | split | dsimp only

theorem switchEpoch_keeps (p : Nat) (epoch : Nat) (s : State) {s₀ : State} {W : Nat} (hs : Keeps W s₀ s)
    (hw : Sub 100667400 W := by apply Sub.of; assumption; decide) : Keeps W s₀ (switchEpoch p epoch s) := by
  unfold switchEpoch
  with_reducible
    repeat' first
      | assumption | apply modPart_keeps | apply setRepl_keeps | apply startBatches_keeps
      | exact Sub.of (by assumption) (by decide)

theorem endReplacement_keeps (p : Nat) (s : State) {s₀ : State} {W : Nat} (hs : Keeps W s₀ s)
    (hw : Sub 100667788 W := by apply Sub.of; assumption; decide) : Keeps W s₀ (endReplacement p s) := by
  unfold endReplacement
  with_reducible
    repeat' first
      | assumption | intro _ | apply modSlot_keeps | apply replaceDone_keeps | apply switchEpoch_keeps | apply ite_keeps
      | apply foldl_keeps | split | exact Sub.of (by assumption) (by decide)

theorem abortReplacement_keeps (p : Nat) (st : Nat) (s : State) {s₀ : State} {W : Nat} (hs : Keeps W s₀ s)
    (hw : Sub 34079116 W := by apply Sub.of; assumption; decide) : Keeps W s₀ (abortReplacement p st s) := by
  unfold abortReplacement
  with_reducible
    repeat' first
      | assumption | apply discardRecs_keeps | apply setRepl_keeps | apply replaceDone_keeps | split
      | exact Sub.of (by assumption) (by decide)

end Sys2Proof.Machine
end

