-- ==== Sys2Proof/Laws/KeepCommit.lean ====
section
/-!
SUPPORT. The operations of Commit keep the queue, the count of free values and the forms of memory and registers.
-/

set_option Elab.async false

namespace Sys2Proof.Machine

theorem commitAdmission_keeps (p : Nat) (x : AdmitPass) (s : State) (a : Admission) {s₀ : State} {W : Nat} (hs : Keeps W s₀
    s) (hw : Sub 67666364 W := by apply Sub.of; assumption; decide) : Keeps W s₀ (commitAdmission p x s a) := by
  unfold commitAdmission
  with_reducible
    repeat' first
      | assumption | apply bump_keeps | apply modSrv_keeps | apply modSlot_keeps | apply toState_keeps
      | apply releasePages_keeps | apply enterDecode_keeps | apply enterPrefill_keeps | apply sendAssign_keeps
      | apply ite_keeps | exact Sub.of (by assumption) (by decide)

theorem commitPass_keeps (p : Nat) (s : State) {s₀ : State} {W : Nat} (hs : Keeps W s₀ s)
    (hw : Sub 67666364 W := by apply Sub.of; assumption; decide) : Keeps W s₀ (commitPass p s) := by
  unfold commitPass
  with_reducible
    repeat' first
      | assumption | intro _ | apply wr_keeps | apply urgent_keeps | apply modSrv_keeps | apply modSlot_keeps
      | apply toState_keeps | apply releasePages_keeps | apply commitAdmission_keeps | apply ite_keeps | apply foldl_keeps
      | split | exact Sub.of (by assumption) (by decide)

theorem drainSlot_keeps (p : Nat) (n : Nat) (st : Nat) (reason : Nat) (told : Bool) (s : State) {s₀ : State} {W : Nat} (hs :
    Keeps W s₀ s) (hw : Sub 67109260 W := by apply Sub.of; assumption; decide) : Keeps W s₀ (drainSlot p n st reason told s)
    := by
  unfold drainSlot
  with_reducible
    repeat' first
      | assumption | apply toState_keeps

theorem endQueued_keeps (p : Nat) (n : Nat) (into : Nat) (st : Nat) (reason : Nat) (s : State) {s₀ : State} {W : Nat} (hs :
    Keeps W s₀ s) (hw : Sub 67633596 W := by apply Sub.of; assumption; decide) : Keeps W s₀ (endQueued p n into st reason s)
    := by
  unfold endQueued
  with_reducible
    repeat' first
      | assumption | apply toState_keeps | apply releasePages_keeps | exact Sub.of (by assumption) (by decide)

theorem applyAsk_keeps (p : Nat) (boundary : Bool) (told : List Nat) (r : SlotReq) (s : State) {s₀ : State} {W : Nat} (hs :
    Keeps W s₀ s) (hw : Sub 67666366 W := by apply Sub.of; assumption; decide) : Keeps W s₀ (applyAsk p boundary told r s).1
    := by
  unfold applyAsk
  with_reducible
    repeat' first
      | assumption | apply modSrv_keeps | apply setSlot_keeps | apply modSlot_keeps | apply freeSlot_keeps
      | apply installSlot_keeps | apply dropFallow_keeps | apply enterFallow_keeps | apply drainSlot_keeps
      | apply endQueued_keeps | apply ite_keeps | split | dsimp only | exact Sub.of (by assumption) (by decide)

theorem applyAsks_keeps (p : Nat) (boundary : Bool) (told : List Nat) (s : State) {s₀ : State} {W : Nat} (hs : Keeps W s₀ s)
    (hw : Sub 67666366 W := by apply Sub.of; assumption; decide) : Keeps W s₀ (applyAsks p boundary told s) := by
  unfold applyAsks
  with_reducible
    repeat' first
      | assumption | intro _ | apply modSrv_keeps | apply applyAsk_keeps | apply ite_keeps | apply foldl_keeps
      | apply foldl_keeps_fst | exact Sub.of (by assumption) (by decide)

theorem extendKv_keeps (s : State) (p n : Nat) {s₀ : State} {W : Nat} (hs : Keeps W s₀ s)
    (hw : Sub 67633596 W := by apply Sub.of; assumption; decide) : ∀ t, extendKv s p n = some t → Keeps W s₀ t := by
  intro t e
  unfold extendKv at e
  dsimp only at e
  split at e
  · cases e
    exact hs
  · split at e
    · cases e
    · cases e
      exact ensurePages_keeps _ _ _ _ (modSlot_keeps _ _ _ _ hs)

theorem extendKv_getD_keeps (s : State) (p n : Nat) {s₀ : State} {W : Nat} (hs : Keeps W s₀ s) (hw : Sub 67633596 W := by apply Sub.of; assumption; decide) : Keeps W s₀ ((extendKv s p n).getD s) := by
  cases e : extendKv s p n with
  | none => exact hs
  | some t => exact extendKv_keeps _ _ _ hs (by apply Sub.of; assumption; decide) t e

theorem boundaryRow_keeps (p : Nat) (s : State) (n : Nat) {s₀ : State} {W : Nat} (hs : Keeps W s₀ s)
    (hw : Sub 67633596 W := by apply Sub.of; assumption; decide) : Keeps W s₀ (boundaryRow p s n) := by
  have h := extendKv_getD_keeps s p n hs
  unfold boundaryRow
  exact ite_keeps hs (ite_keeps (ite_keeps h (toState_keeps _ _ _ _ _ h))
    (ite_keeps (modSlot_keeps _ _ _ _ h) (toState_keeps _ _ _ _ _ h)))

theorem stepBoundary_keeps (p : Nat) (s : State) {s₀ : State} {W : Nat} (hs : Keeps W s₀ s)
    (hw : Sub 67633596 W := by apply Sub.of; assumption; decide) : Keeps W s₀ (stepBoundary p s) := by
  unfold stepBoundary
  with_reducible
    repeat' first
      | assumption | intro _ | apply boundaryRow_keeps | apply foldl_keeps

theorem drained_keeps (p : Nat) (n : Nat) (s : State) {s₀ : State} {W : Nat} (hs : Keeps W s₀ s)
    (hw : Sub 67633596 W := by apply Sub.of; assumption; decide) : Keeps W s₀ (drained p n s) := by
  unfold drained
  with_reducible
    repeat' first
      | assumption | apply toState_keeps | apply releasePages_keeps | apply dropShipPages_keeps | apply ite_keeps
      | exact Sub.of (by assumption) (by decide)

theorem endDrain_keeps (p : Nat) (y : State × List Nat) (n : Nat) {s₀ : State} {W : Nat} (hs : Keeps W s₀ y.1) (hw : Sub 67633596 W := by apply Sub.of; assumption; decide) :
    Keeps W s₀ (endDrain p y n).1 := by
  have h := drained_keeps p n y.1 hs
  unfold endDrain
  dsimp only
  exact h

theorem endDrains_keeps (p c : Nat) (idle : Bool) (ns : List Nat) (s : State) {s₀ : State} {W : Nat} (hs : Keeps W s₀ s) (hw : Sub 67633596 W := by apply Sub.of; assumption; decide) :
    Keeps W s₀ (endDrains p c idle ns s).1 := foldl_keeps_fst (x := (s, [])) hs (fun _ _ h => endDrain_keeps _ _ _ h)

theorem commitLead_keeps (p : Nat) (now : Nat) (s : State) {s₀ : State} {W : Nat} (hs : Keeps W s₀ s)
    (hw : Sub 101224894 W := by apply Sub.of; assumption; decide) : Keeps W s₀ (commitLead p now s).1 := by
  unfold commitLead
  with_reducible
    repeat' first
      | assumption | apply advanceBatches_keeps | apply stepResults_keeps | apply passResults_keeps
      | apply grantCredits_keeps | apply shipAdvance_keeps | apply shipLink_keeps | apply commitImages_keeps
      | apply commitThaws_keeps | apply barrierAtCommit_keeps | apply endReplacement_keeps | apply commitPass_keeps
      | apply applyAsks_keeps | apply stepBoundary_keeps | apply endDrains_keeps | apply ite_keeps | split
      | exact Sub.of (by assumption) (by decide)

theorem writeRecords_keeps (p : Nat) (f : Nat) (recs : List TokenRec) (ends : List Nat) (s : State) {s₀ : State} {W : Nat}
    (hs : Keeps W s₀ s) (hw : Sub 67112972 W := by apply Sub.of; assumption; decide) : Keeps W s₀ (writeRecords p f recs
    ends s) := by
  unfold writeRecords
  with_reducible
    repeat' first
      | assumption | intro _ | apply putRecord_keeps | apply putTails_keeps | apply ite_keeps | apply foldl_keeps
      | exact Sub.of (by assumption) (by decide)

theorem buildPlan_keeps (p : Nat) (s : State) {s₀ : State} {W : Nat} (hs : Keeps W s₀ s)
    (hw : Sub 101224894 W := by apply Sub.of; assumption; decide) : Keeps W s₀ (buildPlan p s) := by
  unfold buildPlan
  with_reducible
    repeat' first
      | assumption | apply modSrv_keeps | apply commitLead_keeps | apply foldl_keeps
      | exact Sub.of (by assumption) (by decide)

theorem planPiece_keeps (p : Nat) (j : Nat) (s : State) {s₀ : State} {W : Nat} (hs : Keeps W s₀ s)
    (hw : Sub 101224894 W := by apply Sub.of; assumption; decide) : Keeps W s₀ (planPiece p j s).2 := by
  unfold planPiece
  with_reducible
    repeat' first
      | assumption | apply buildPlan_keeps | apply ite_keeps

theorem closePlan_keeps (p : Nat) (old : State) (s : State) {s₀ : State} {W : Nat} (hold : Keeps W s₀ old) (hs : Keeps W s₀
    s) (hw : Sub 67108864 W := by apply Sub.of; assumption; decide) : Keeps W s₀ (closePlan p old s) := by
  unfold closePlan
  with_reducible
    repeat' first
      | assumption | apply modSrv_keeps

theorem commitAsLead_keeps (p : Nat) (f : Nat) (now : Nat) (s : State) {s₀ : State} {W : Nat} (hs : Keeps W s₀ s)
    (hw : Sub 101224894 W := by apply Sub.of; assumption; decide) : Keeps W s₀ (commitAsLead p f now s) := by
  unfold commitAsLead
  with_reducible
    repeat' first
      | assumption | apply commitLead_keeps | apply writeRecords_keeps | apply closePlan_keeps
      | exact Sub.of (by assumption) (by decide)

theorem checkPlan_keeps (p : Nat) (s : State) {s₀ : State} {W : Nat} (hs : Keeps W s₀ s)
    (hw : Sub 20492 W := by apply Sub.of; assumption; decide) : Keeps W s₀ (checkPlan p s) := by
  unfold checkPlan
  with_reducible
    repeat' first
      | assumption | apply failFrame_keeps | apply ite_keeps

theorem entrySlot_keeps (s : State) (n : Nat) (e : Bytes) {s₀ : State} {W : Nat} (hs : Keeps W s₀ s)
    (hw : Sub 2 W := by apply Sub.of; assumption; decide) : Keeps W s₀ (entrySlot s n e).2 := by
  unfold entrySlot
  with_reducible
    repeat' first
      | assumption | apply drawBytes_keeps | apply ite_keeps | split | dsimp only

theorem applyEntry_keeps (p : Nat) (s : State) (e : Bytes) {s₀ : State} {W : Nat} (hs : Keeps W s₀ s)
    (hw : Sub 101192126 W := by apply Sub.of; assumption; decide) : Keeps W s₀ (applyEntry p s e) := by
  unfold applyEntry
  with_reducible
    repeat' first
      | assumption | apply modPart_keeps | apply stopJob_keeps | apply setRepl_keeps | apply modSrv_keeps
      | apply setSlot_keeps | apply modSlot_keeps | apply ensurePages_keeps | apply releasePages_keeps
      | apply freeSlot_keeps | apply enterPrefill_keeps | apply dropShipPages_keeps | apply setOps_keeps
      | apply linkThawed_keeps | apply switchEpoch_keeps | apply entrySlot_keeps | apply ite_keeps | split
      | exact Sub.of (by assumption) (by decide)

theorem commitAsMember_keeps (p : Nat) (s : State) {s₀ : State} {W : Nat} (hs : Keeps W s₀ s)
    (hw : Sub 101192126 W := by apply Sub.of; assumption; decide) : Keeps W s₀ (commitAsMember p s) := by
  unfold commitAsMember
  with_reducible
    repeat' first
      | assumption | intro _ | apply advanceBatches_keeps | apply shipAdvance_keeps | apply shipLink_keeps
      | apply applyEntry_keeps | apply ite_keeps | apply foldl_keeps | exact Sub.of (by assumption) (by decide)

theorem commitServing_keeps (p : Nat) (f : Nat) (now : Nat) (s : State) {s₀ : State} {W : Nat} (hs : Keeps W s₀ s)
    (hw : Sub 101224894 W := by apply Sub.of; assumption; decide) : Keeps W s₀ (commitServing p f now s) := by
  unfold commitServing
  with_reducible
    repeat' first
      | assumption | apply commitAsLead_keeps | apply commitAsMember_keeps | apply ite_keeps
      | exact Sub.of (by assumption) (by decide)

theorem stopRequests_keeps (p : Nat) (st : Nat) (s : State) {s₀ : State} {W : Nat} (hs : Keeps W s₀ s)
    (hw : Sub 67633596 W := by apply Sub.of; assumption; decide) : Keeps W s₀ (stopRequests p st s) := by
  unfold stopRequests
  with_reducible
    repeat' first
      | assumption | intro _ | apply modSrv_keeps | apply toState_keeps | apply releasePages_keeps
      | apply dropShipPages_keeps | apply ite_keeps | apply foldl_keeps | exact Sub.of (by assumption) (by decide)

theorem loseTarget_keeps (p : Nat) (sl : Nat) (s : State) {s₀ : State} {W : Nat} (hs : Keeps W s₀ s)
    (hw : Sub 67108864 W := by apply Sub.of; assumption; decide) : Keeps W s₀ (loseTarget p sl s) := by
  unfold loseTarget
  with_reducible
    repeat' first
      | assumption | intro _ | apply askSlot_keeps | apply ite_keeps | apply foldl_keeps

end Sys2Proof.Machine
end

