-- ==== Sys2Proof/Laws/KeepParts.lean ====
section
/-!
SUPPORT. The operations of Parts keep the queue, the count of free values and the forms of memory and registers.
-/

set_option Elab.async false

namespace Sys2Proof.Machine

theorem resetVf_keeps (p : Nat) (s : State) {s₀ : State} {W : Nat} (hs : Keeps W s₀ s)
    (hw : Sub 2432 W := by apply Sub.of; assumption; decide) : Keeps W s₀ (resetVf p s) := by
  unfold resetVf
  with_reducible
    repeat' first
      | assumption | apply resetMbox_keeps | apply Keeps.mk_kao_hif | exact Sub.of (by assumption) (by decide)

theorem resetSrvPart_keeps (p : Nat) (s : State) {s₀ : State} {W : Nat} (hs : Keeps W s₀ s)
    (hw : Sub 8 W := by apply Sub.of; assumption; decide) : Keeps W s₀ (resetSrvPart p s) := by
  unfold resetSrvPart
  with_reducible
    repeat' first
      | assumption | intro _ | apply wr_keeps | apply foldl_keeps

theorem cmdPartCreate_keeps (e : Entry) (x1 : HostIo) (s : State) {s₀ : State} {W : Nat} (hs : Keeps W s₀ s)
    (hw : Sub 6536 W := by apply Sub.of; assumption; decide) : Keeps W s₀ (cmdPartCreate e x1 s).st := by
  unfold cmdPartCreate
  with_reducible
    repeat' first
      | assumption | apply modPart_keeps | apply refuseCmd_keeps | apply doneCmd_keeps | apply resetVf_keeps
      | apply resetSrvPart_keeps | apply ite_keeps | split | exact Sub.of (by assumption) (by decide)

theorem execPartCreate_keeps (e : Entry) (io : HostIo) (s : State) {s₀ : State} {W : Nat} (hs : Keeps W s₀ s)
    (hw : Sub 6540 W := by apply Sub.of; assumption; decide) : KeepsO W s₀ (execPartCreate e io s) := by
  unfold execPartCreate
  with_reducible
    repeat' first
      | assumption | intro _ | apply runRow_keeps | apply cmdPartCreate_keeps | apply KeepsO.next
      | exact Sub.of (by assumption) (by decide)

theorem settleTier_keeps (p : Nat) (cause : Nat) (s : State) {s₀ : State} {W : Nat} (hs : Keeps W s₀ s)
    (hw : Sub 524732 W := by apply Sub.of; assumption; decide) : Keeps W s₀ (settleTier p cause s) := by
  unfold settleTier
  with_reducible
    repeat' first
      | assumption | intro _ | apply zeroRange_keeps | apply abortMoves_keeps | apply foldl_keeps | apply Keeps.mk_tier
      | exact Sub.of (by assumption) (by decide)

theorem zeroQuadrant_keeps (G : Nat) (s : State) {s₀ : State} {W : Nat} (hs : Keeps W s₀ s)
    (hw : Sub 8240 W := by apply Sub.of; assumption; decide) : Keeps W s₀ (zeroQuadrant G s) := by
  unfold zeroQuadrant
  with_reducible
    repeat' first
      | assumption | apply zeroRange_keeps | apply modCtx_keeps | exact Sub.of (by assumption) (by decide)

theorem gateDomains_keeps (quads : List Nat) (threads : List Nat) (s : State) {s₀ : State} {W : Nat} (hs : Keeps W s₀ s)
    (hw : Sub 34236 W := by apply Sub.of; assumption; decide) : Keeps W s₀ (gateDomains quads threads s) := by
  unfold gateDomains
  with_reducible
    repeat' first
      | assumption | intro _ | apply setDomain_keeps | apply ite_keeps | apply foldl_keeps

theorem dropSlots_keeps (p : Nat) (l : List Nat) (s : State) {s₀ : State} {W : Nat} (hs : Keeps W s₀ s)
    (hw : Sub 67633596 W := by apply Sub.of; assumption; decide) : Keeps W s₀ (dropSlots p l s) := by
  unfold dropSlots
  with_reducible
    repeat' first
      | assumption | intro _ | apply modSrv_keeps | apply freeSlot_keeps | apply setRing_keeps | apply foldl_keeps
      | exact Sub.of (by assumption) (by decide)

theorem rebuildMap_keeps (p : Nat) (t2 : Nat) (quads : List Nat) (new : List Nat) (s : State) {s₀ : State} {W : Nat} (hs :
    Keeps W s₀ s) (hw : Sub 524296 W := by apply Sub.of; assumption; decide) : Keeps W s₀ (rebuildMap p t2 quads new s) :=
    by
  unfold rebuildMap
  with_reducible
    repeat' first
      | assumption | intro _ | apply wr_keeps | apply modTier_keeps | apply refreshTier_keeps | apply usePool_keeps
      | apply releaseFrame_keeps | apply setWp_keeps | apply foldl_keeps | exact Sub.of (by assumption) (by decide)

theorem assign_keeps (p : Nat) (a : Assignment) (s : State) {s₀ : State} {W : Nat} (hs : Keeps W s₀ s)
    (hw : Sub 67679676 W := by apply Sub.of; assumption; decide) : Keeps W s₀ (assign p a s) := by
  unfold assign
  with_reducible
    repeat' first
      | assumption | intro _ | apply wr_keeps | apply modPart_keeps | apply releasePages_keeps | apply settleTier_keeps
      | apply zeroQuadrant_keeps | apply gateDomains_keeps | apply dropSlots_keeps | apply rebuildMap_keeps
      | apply ite_keeps | apply foldl_keeps | exact Sub.of (by assumption) (by decide)

theorem cmdPartAssign_keeps (e : Entry) (x1 : HostIo) (s : State) {s₀ : State} {W : Nat} (hs : Keeps W s₀ s)
    (hw : Sub 67679676 W := by apply Sub.of; assumption; decide) : Keeps W s₀ (cmdPartAssign e x1 s).st := by
  unfold cmdPartAssign
  with_reducible
    repeat' first
      | assumption | apply refuseCmd_keeps | apply doneCmd_keeps | apply assign_keeps | apply ite_keeps | dsimp only
      | split | exact Sub.of (by assumption) (by decide)

theorem execPartAssign_keeps (e : Entry) (io : HostIo) (s : State) {s₀ : State} {W : Nat} (hs : Keeps W s₀ s)
    (hw : Sub 67679676 W := by apply Sub.of; assumption; decide) : KeepsO W s₀ (execPartAssign e io s) := by
  unfold execPartAssign
  with_reducible
    repeat' first
      | assumption | intro _ | apply runRow_keeps | apply cmdPartAssign_keeps | apply KeepsO.next
      | exact Sub.of (by assumption) (by decide)

theorem destroyPart_keeps (p : Nat) (s : State) {s₀ : State} {W : Nat} (hs : Keeps W s₀ s)
    (hw : Sub 124763580 W := by apply Sub.of; assumption; decide) : Keeps W s₀ (destroyPart p s) := by
  unfold destroyPart
  with_reducible
    repeat' first
      | assumption | intro _ | apply wr_keeps | apply modTier_keeps | apply refreshTier_keeps | apply releaseFrame_keeps
      | apply discardRecs_keeps | apply setKeys_keeps | apply modSrv_keeps | apply writeQueue_keeps
      | apply resetVf_keeps | apply resetSrvPart_keeps | apply settleTier_keeps | apply zeroQuadrant_keeps
      | apply gateDomains_keeps | apply dropSlots_keeps | apply ite_keeps | apply foldl_keeps | apply Keeps.mk_parts
      | apply Keeps.mk_vex_decls_coll_wts | exact Sub.of (by assumption) (by decide)

theorem cmdPartDestroy_keeps (e : Entry) (x1 : HostIo) (s : State) {s₀ : State} {W : Nat} (hs : Keeps W s₀ s)
    (hw : Sub 124763580 W := by apply Sub.of; assumption; decide) : Keeps W s₀ (cmdPartDestroy e x1 s).st := by
  unfold cmdPartDestroy
  with_reducible
    repeat' first
      | assumption | apply refuseCmd_keeps | apply doneCmd_keeps | apply destroyPart_keeps | apply ite_keeps | split
      | exact Sub.of (by assumption) (by decide)

theorem execPartDestroy_keeps (e : Entry) (io : HostIo) (s : State) {s₀ : State} {W : Nat} (hs : Keeps W s₀ s)
    (hw : Sub 124763580 W := by apply Sub.of; assumption; decide) : KeepsO W s₀ (execPartDestroy e io s) := by
  unfold execPartDestroy
  with_reducible
    repeat' first
      | assumption | intro _ | apply runRow_keeps | apply cmdPartDestroy_keeps | apply KeepsO.next
      | exact Sub.of (by assumption) (by decide)

theorem cmdSliceBind_keeps (e : Entry) (io : HostIo) (s : State) {s₀ : State} {W : Nat} (hs : Keeps W s₀ s)
    (hw : Sub 4096 W := by apply Sub.of; assumption; decide) : Keeps W s₀ (cmdSliceBind e io s).st := by
  unfold cmdSliceBind
  with_reducible
    repeat' first
      | assumption | apply modPart_keeps | apply refuseCmd_keeps | apply doneCmd_keeps | apply ite_keeps | split
      | dsimp only | exact Sub.of (by assumption) (by decide)

theorem execSliceBind_keeps (e : Entry) (io : HostIo) (s : State) {s₀ : State} {W : Nat} (hs : Keeps W s₀ s)
    (hw : Sub 4492 W := by apply Sub.of; assumption; decide) : KeepsO W s₀ (execSliceBind e io s) := by
  unfold execSliceBind
  with_reducible
    repeat' first
      | assumption | intro _ | apply runRow_keeps | apply cmdSliceBind_keeps | apply KeepsO.next
      | exact Sub.of (by assumption) (by decide)

theorem cmdJobQuery_keeps (e : Entry) (x1 : HostIo) (s : State) {s₀ : State} {W : Nat} (hs : Keeps W s₀ s)
    (hw : Sub 0 W := by apply Sub.of; assumption; decide) : Keeps W s₀ (cmdJobQuery e x1 s).st := by
  unfold cmdJobQuery
  with_reducible
    repeat' first
      | assumption | apply refuseCmd_keeps | apply doneCmd_keeps | apply ite_keeps | split | dsimp only

theorem execJobQuery_keeps (e : Entry) (io : HostIo) (s : State) {s₀ : State} {W : Nat} (hs : Keeps W s₀ s)
    (hw : Sub 396 W := by apply Sub.of; assumption; decide) : KeepsO W s₀ (execJobQuery e io s) := by
  unfold execJobQuery
  with_reducible
    repeat' first
      | assumption | intro _ | apply runRow_keeps | apply cmdJobQuery_keeps | apply KeepsO.next
      | exact Sub.of (by assumption) (by decide)

theorem cmdPartAccounting_keeps (e : Entry) (io : HostIo) (s : State) {s₀ : State} {W : Nat} (hs : Keeps W s₀ s)
    (hw : Sub 12 W := by apply Sub.of; assumption; decide) : Keeps W s₀ (cmdPartAccounting e io s).st := by
  unfold cmdPartAccounting
  with_reducible
    repeat' first
      | assumption | apply refuseCmd_keeps | apply withOutput_keeps | apply ite_keeps | split | dsimp only
      | exact Sub.of (by assumption) (by decide)

theorem execPartAccounting_keeps (e : Entry) (io : HostIo) (s : State) {s₀ : State} {W : Nat} (hs : Keeps W s₀ s)
    (hw : Sub 396 W := by apply Sub.of; assumption; decide) : KeepsO W s₀ (execPartAccounting e io s) := by
  unfold execPartAccounting
  with_reducible
    repeat' first
      | assumption | intro _ | apply runRow_keeps | apply cmdPartAccounting_keeps | apply KeepsO.next
      | exact Sub.of (by assumption) (by decide)

end Sys2Proof.Machine
end

