-- ==== Sys2Proof/Laws/KeepJobs.lean ====
section
/-!
SUPPORT. The operations of Jobs keep the queue, the count of free values and the forms of memory and registers.
-/

set_option Elab.async false

namespace Sys2Proof.Machine

theorem allotHub_keeps (p : Nat) (n : Nat) (map : Bytes) (s : State) {s₀ : State} {W : Nat} (hs : Keeps W s₀ s)
    (hw : Sub 56 W := by apply Sub.of; assumption; decide) : Keeps W s₀ (allotHub p n map s) := by
  unfold allotHub
  with_reducible
    repeat' first
      | assumption | intro _ | apply wr_keeps | apply setHubByte_keeps | apply zeroHubBank_keeps | apply foldl_keeps
      | exact Sub.of (by assumption) (by decide)

theorem freeHub_keeps (p : Nat) (s : State) {s₀ : State} {W : Nat} (hs : Keeps W s₀ s)
    (hw : Sub 56 W := by apply Sub.of; assumption; decide) : Keeps W s₀ (freeHub p s) := by
  unfold freeHub
  with_reducible
    repeat' first
      | assumption | intro _ | apply wr_keeps | apply setHubByte_keeps | apply zeroHubBank_keeps | apply foldl_keeps
      | exact Sub.of (by assumption) (by decide)

theorem loadSeeds_keeps (G : Nat) (seeds : Bytes) (s : State) {s₀ : State} {W : Nat} (hs : Keeps W s₀ s)
    (hw : Sub 8 W := by apply Sub.of; assumption; decide) : Keeps W s₀ (loadSeeds G seeds s) := by
  unfold loadSeeds
  with_reducible
    repeat' first
      | assumption | intro _ | apply wr_keeps | apply foldl_keeps

theorem loadBankMap_keeps (G : Nat) (map : Bytes) (s : State) {s₀ : State} {W : Nat} (hs : Keeps W s₀ s)
    (hw : Sub 8 W := by apply Sub.of; assumption; decide) : Keeps W s₀ (loadBankMap G map s) := by
  unfold loadBankMap
  with_reducible
    repeat' first
      | assumption | intro _ | apply wr_keeps | apply foldl_keeps

theorem reserve_keeps (p : Nat) (im : Image) (s : State) {s₀ : State} {W : Nat} (hs : Keeps W s₀ s)
    (hw : Sub 524732 W := by apply Sub.of; assumption; decide) : Keeps W s₀ (reserve p im s) := by
  unfold reserve
  with_reducible
    repeat' first
      | assumption | intro _ | apply pinPage_keeps | apply allotHub_keeps | apply loadSeeds_keeps
      | apply loadBankMap_keeps | apply foldl_keeps | exact Sub.of (by assumption) (by decide)

theorem unreserve_keeps (p : Nat) (s : State) {s₀ : State} {W : Nat} (hs : Keeps W s₀ s)
    (hw : Sub 524344 W := by apply Sub.of; assumption; decide) : Keeps W s₀ (unreserve p s) := by
  unfold unreserve
  with_reducible
    repeat' first
      | assumption | intro _ | apply unpinPage_keeps | apply freeHub_keeps | apply loadSeeds_keeps | apply foldl_keeps
      | split | exact Sub.of (by assumption) (by decide)

theorem jobEvent_keeps (p : Nat) (st : Nat) (s : State) {s₀ : State} {W : Nat} (hs : Keeps W s₀ s)
    (hw : Sub 396 W := by apply Sub.of; assumption; decide) : Keeps W s₀ (jobEvent p st s) := by
  unfold jobEvent
  with_reducible
    repeat' first
      | assumption | apply raise_keeps

theorem sendInstalls_keeps (p : Nat) (im : Image) (s : State) {s₀ : State} {W : Nat} (hs : Keeps W s₀ s)
    (hw : Sub 32780 W := by apply Sub.of; assumption; decide) : Keeps W s₀ (sendInstalls p im s) := by
  unfold sendInstalls
  with_reducible
    repeat' first
      | assumption | intro _ | apply sendCtl_keeps | apply foldl_keeps

theorem toSlice_keeps (p : Nat) (mtype : Nat) (body : Bytes) (transit : Bool) (s : State) {s₀ : State} {W : Nat} (hs : Keeps
    W s₀ s) (hw : Sub 32780 W := by apply Sub.of; assumption; decide) : Keeps W s₀ (toSlice p mtype body transit s) := by
  unfold toSlice
  with_reducible
    repeat' first
      | assumption | intro _ | apply sendCtl_keeps | apply ite_keeps | apply foldl_keeps | split

theorem endStart_keeps (p : Nat) (s : State) {s₀ : State} {W : Nat} (hs : Keeps W s₀ s)
    (hw : Sub 528828 W := by apply Sub.of; assumption; decide) : Keeps W s₀ (endStart p s) := by
  unfold endStart
  with_reducible
    repeat' first
      | assumption | apply modPart_keeps | apply unreserve_keeps | apply jobEvent_keeps | apply ite_keeps
      | exact Sub.of (by assumption) (by decide)

theorem abandonStart_keeps (p : Nat) (s : State) {s₀ : State} {W : Nat} (hs : Keeps W s₀ s)
    (hw : Sub 561596 W := by apply Sub.of; assumption; decide) : Keeps W s₀ (abandonStart p s) := by
  unfold abandonStart
  with_reducible
    repeat' first
      | assumption | apply toSlice_keeps | apply endStart_keeps | exact Sub.of (by assumption) (by decide)

theorem sendGo_keeps (p : Nat) (resume : Bool) (s : State) {s₀ : State} {W : Nat} (hs : Keeps W s₀ s)
    (hw : Sub 36876 W := by apply Sub.of; assumption; decide) : Keeps W s₀ (sendGo p resume s) := by
  unfold sendGo
  with_reducible
    repeat' first
      | assumption | apply modPart_keeps | apply toSlice_keeps | exact Sub.of (by assumption) (by decide)

theorem advanceStart_keeps (p : Nat) (s : State) {s₀ : State} {W : Nat} (hs : Keeps W s₀ s)
    (hw : Sub 561596 W := by apply Sub.of; assumption; decide) : Keeps W s₀ (advanceStart p s) := by
  unfold advanceStart
  with_reducible
    repeat' first
      | assumption | apply abandonStart_keeps | apply sendGo_keeps | apply ite_keeps | split | dsimp only
      | exact Sub.of (by assumption) (by decide)

theorem sendReady_keeps (p : Nat) (im : Image) (s : State) {s₀ : State} {W : Nat} (hs : Keeps W s₀ s)
    (hw : Sub 561596 W := by apply Sub.of; assumption; decide) : Keeps W s₀ (sendReady p im s) := by
  unfold sendReady
  with_reducible
    repeat' first
      | assumption | apply modPart_keeps | apply sendCtl_keeps | apply sendInstalls_keeps | apply advanceStart_keeps
      | apply ite_keeps | split | exact Sub.of (by assumption) (by decide)

theorem applyReady_keeps (h : CtlHdr) (imageId : Nat) (digest : Nat) (rank : Nat) (slots : Nat) (s : State) {s₀ : State} {W
    : Nat} (hs : Keeps W s₀ s) (hw : Sub 561596 W := by apply Sub.of; assumption; decide) : Keeps W s₀ (applyReady h imageId
    digest rank slots s).2 := by
  unfold applyReady
  with_reducible
    repeat' first
      | assumption | apply modPart_keeps | apply advanceStart_keeps | apply ite_keeps | dsimp only | split
      | exact Sub.of (by assumption) (by decide)

theorem execCtlReady_keeps (h : CtlHdr) (imageId : Nat) (digest : Nat) (rank : Nat) (slotCount : Nat) (s : State) {s₀ :
    State} {W : Nat} (hs : Keeps W s₀ s) (hw : Sub 561596 W := by apply Sub.of; assumption; decide) : KeepsO W s₀
    (execCtlReady h imageId digest rank slotCount s) := by
  unfold execCtlReady
  with_reducible
    repeat' first
      | assumption | intro _ | apply applyCtl_keeps | apply applyReady_keeps | apply KeepsO.next
      | exact Sub.of (by assumption) (by decide)

theorem applyInstall_keeps (imageId : Nat) (slice : Nat) (entries : Bytes) (s : State) {s₀ : State} {W : Nat} (hs : Keeps W
    s₀ s) (hw : Sub 32768 W := by apply Sub.of; assumption; decide) : Keeps W s₀ (applyInstall imageId slice entries s).2 :=
    by
  unfold applyInstall
  with_reducible
    repeat' first
      | assumption | apply ite_keeps | apply ite_keeps_snd | apply Keeps.mk_fab

theorem execTransitInstall_keeps (h : CtlHdr) (imageId : Nat) (slice : Nat) (entries : Bytes) (s : State) {s₀ : State} {W :
    Nat} (hs : Keeps W s₀ s) (hw : Sub 33164 W := by apply Sub.of; assumption; decide) : KeepsO W s₀ (execTransitInstall h
    imageId slice entries s) := by
  unfold execTransitInstall
  with_reducible
    repeat' first
      | assumption | intro _ | apply applyCtl_keeps | apply applyInstall_keeps | apply KeepsO.next
      | exact Sub.of (by assumption) (by decide)

theorem applyTransitReply_keeps (h : CtlHdr) (imageId : Nat) (result : Nat) (s : State) {s₀ : State} {W : Nat} (hs : Keeps W
    s₀ s) (hw : Sub 561596 W := by apply Sub.of; assumption; decide) : Keeps W s₀ (applyTransitReply h imageId result s).2
    := by
  unfold applyTransitReply
  with_reducible
    repeat' first
      | assumption | apply modPart_keeps | apply abandonStart_keeps | apply advanceStart_keeps | apply ite_keeps | split
      | dsimp only | exact Sub.of (by assumption) (by decide)

theorem execTransitReply_keeps (h : CtlHdr) (imageId : Nat) (result : Nat) (s : State) {s₀ : State} {W : Nat} (hs : Keeps W
    s₀ s) (hw : Sub 561596 W := by apply Sub.of; assumption; decide) : KeepsO W s₀ (execTransitReply h imageId result s) :=
    by
  unfold execTransitReply
  with_reducible
    repeat' first
      | assumption | intro _ | apply applyCtl_keeps | apply applyTransitReply_keeps | apply KeepsO.next
      | exact Sub.of (by assumption) (by decide)

theorem applyGo_keeps (h : CtlHdr) (imageId : Nat) (f : Nat) (resume : Bool) (s : State) {s₀ : State} {W : Nat} (hs : Keeps
    W s₀ s) (hw : Sub 4096 W := by apply Sub.of; assumption; decide) : Keeps W s₀ (applyGo h imageId f resume s).2 := by
  unfold applyGo
  with_reducible
    repeat' first
      | assumption | apply modPart_keeps | apply ite_keeps | split | dsimp only

theorem execCtlGo_keeps (h : CtlHdr) (imageId : Nat) (frame : Nat) (resume : Bool) (s : State) {s₀ : State} {W : Nat} (hs :
    Keeps W s₀ s) (hw : Sub 37260 W := by apply Sub.of; assumption; decide) : KeepsO W s₀ (execCtlGo h imageId frame resume
    s) := by
  unfold execCtlGo
  with_reducible
    repeat' first
      | assumption | intro _ | apply applyCtl_keeps | apply applyGo_keeps | apply KeepsO.next
      | exact Sub.of (by assumption) (by decide)

theorem releaseTransit_keeps (f : TransitJob → Bool) (s : State) {s₀ : State} {W : Nat} (hs : Keeps W s₀ s)
    (hw : Sub 32768 W := by apply Sub.of; assumption; decide) : Keeps W s₀ (releaseTransit f s) := by
  unfold releaseTransit
  with_reducible
    repeat' first
      | assumption | apply ite_keeps | apply Keeps.mk_fab

theorem applyAbandon_keeps (h : CtlHdr) (imageId : Nat) (s : State) {s₀ : State} {W : Nat} (hs : Keeps W s₀ s)
    (hw : Sub 561596 W := by apply Sub.of; assumption; decide) : Keeps W s₀ (applyAbandon h imageId s).2 := by
  unfold applyAbandon
  with_reducible
    repeat' first
      | assumption | apply endStart_keeps | apply releaseTransit_keeps | apply ite_keeps | split | dsimp only
      | exact Sub.of (by assumption) (by decide)

theorem execCtlAbandon_keeps (h : CtlHdr) (imageId : Nat) (x1 : Nat) (s : State) {s₀ : State} {W : Nat} (hs : Keeps W s₀ s)
    (hw : Sub 561596 W := by apply Sub.of; assumption; decide) : KeepsO W s₀ (execCtlAbandon h imageId x1 s) := by
  unfold execCtlAbandon
  with_reducible
    repeat' first
      | assumption | intro _ | apply applyCtl_keeps | apply applyAbandon_keeps | apply KeepsO.next
      | exact Sub.of (by assumption) (by decide)

theorem applyTransitRelease_keeps (imageId : Nat) (slice : Nat) (s : State) {s₀ : State} {W : Nat} (hs : Keeps W s₀ s)
    (hw : Sub 32768 W := by apply Sub.of; assumption; decide) : Keeps W s₀ (applyTransitRelease imageId slice s).2 := by
  unfold applyTransitRelease
  with_reducible
    repeat' first
      | assumption | apply releaseTransit_keeps

theorem execTransitRelease_keeps (h : CtlHdr) (imageId : Nat) (slice : Nat) (s : State) {s₀ : State} {W : Nat} (hs : Keeps W
    s₀ s) (hw : Sub 33164 W := by apply Sub.of; assumption; decide) : KeepsO W s₀ (execTransitRelease h imageId slice s) :=
    by
  unfold execTransitRelease
  with_reducible
    repeat' first
      | assumption | intro _ | apply applyCtl_keeps | apply applyTransitRelease_keeps | apply KeepsO.next
      | exact Sub.of (by assumption) (by decide)

theorem goAcked_keeps (p : Nat) (h : CtlHdr) (s : State) {s₀ : State} {W : Nat} (hs : Keeps W s₀ s)
    (hw : Sub 4096 W := by apply Sub.of; assumption; decide) : Keeps W s₀ (goAcked p h s) := by
  unfold goAcked
  with_reducible
    repeat' first
      | assumption | apply modPart_keeps | split

theorem execSliceStartTimeout_keeps (p : Nat) (s : State) {s₀ : State} {W : Nat} (hs : Keeps W s₀ s)
    (hw : Sub 561596 W := by apply Sub.of; assumption; decide) : KeepsO W s₀ (execSliceStartTimeout p s) := by
  unfold execSliceStartTimeout
  with_reducible
    repeat' first
      | assumption | apply endStart_keeps | apply abandonStart_keeps | apply KeepsO.ite | apply ite_keeps
      | apply KeepsO.next | exact Sub.of (by assumption) (by decide)

theorem checkGoAcks_keeps (p : Nat) (s : State) {s₀ : State} {W : Nat} (hs : Keeps W s₀ s)
    (hw : Sub 561596 W := by apply Sub.of; assumption; decide) : Keeps W s₀ (checkGoAcks p s) := by
  unfold checkGoAcks
  with_reducible
    repeat' first
      | assumption | apply abandonStart_keeps | apply ite_keeps | split | dsimp only

theorem katResults_keeps (p : Nat) (kat : List Nat) (s : State) {s₀ : State} {W : Nat} (hs : Keeps W s₀ s)
    (hw : Sub 5004 W := by apply Sub.of; assumption; decide) : Keeps W s₀ (katResults p kat s) := by
  unfold katResults
  with_reducible
    repeat' first
      | assumption | intro _ | apply wr_keeps | apply unitError_keeps | apply ite_keeps | apply foldl_keeps
      | exact Sub.of (by assumption) (by decide)

theorem startJob_keeps (p : Nat) (im : Image) (s : State) {s₀ : State} {W : Nat} (hs : Keeps W s₀ s)
    (hw : Sub 562620 W := by apply Sub.of; assumption; decide) : Keeps W s₀ (startJob p im s) := by
  unfold startJob
  with_reducible
    repeat' first
      | assumption | apply modPart_keeps | apply fixedFrequency_keeps | apply floorFail_keeps | apply reserve_keeps
      | apply sendReady_keeps | exact Sub.of (by assumption) (by decide)

theorem cmdStartNew_keeps (kat : List Nat) (e : Entry) (io : HostIo) (s : State) {s₀ : State} {W : Nat} (hs : Keeps W s₀ s)
    (hw : Sub 563132 W := by apply Sub.of; assumption; decide) : Keeps W s₀ (cmdStartNew kat e io s).st := by
  unfold cmdStartNew
  with_reducible
    repeat' first
      | assumption | apply refuseCmd_keeps | apply doneCmd_keeps | apply waitCmd_keeps | apply katResults_keeps
      | apply startJob_keeps | apply ite_keeps | dsimp only | split | exact Sub.of (by assumption) (by decide)

theorem cmdResume_keeps (e : Entry) (s : State) {s₀ : State} {W : Nat} (hs : Keeps W s₀ s)
    (hw : Sub 36876 W := by apply Sub.of; assumption; decide) : Keeps W s₀ (cmdResume e s).st := by
  unfold cmdResume
  with_reducible
    repeat' first
      | assumption | apply refuseCmd_keeps | apply doneCmd_keeps | apply sendGo_keeps | apply ite_keeps | split
      | dsimp only | exact Sub.of (by assumption) (by decide)

theorem cmdJobStart_keeps (kat : List Nat) (e : Entry) (io : HostIo) (s : State) {s₀ : State} {W : Nat} (hs : Keeps W s₀ s)
    (hw : Sub 563132 W := by apply Sub.of; assumption; decide) : Keeps W s₀ (cmdJobStart kat e io s).st := by
  unfold cmdJobStart
  with_reducible
    repeat' first
      | assumption | apply cmdStartNew_keeps | apply cmdResume_keeps | apply ite_keeps | split
      | exact Sub.of (by assumption) (by decide)

theorem execJobStart_keeps (e : Entry) (io : HostIo) (kat : List Nat) (s : State) {s₀ : State} {W : Nat} (hs : Keeps W s₀ s)
    (hw : Sub 563132 W := by apply Sub.of; assumption; decide) : KeepsO W s₀ (execJobStart e io kat s) := by
  unfold execJobStart
  with_reducible
    repeat' first
      | assumption | intro _ | apply runRow_keeps | apply cmdJobStart_keeps | apply KeepsO.next
      | exact Sub.of (by assumption) (by decide)

theorem execJobResume_keeps (e : Entry) (io : HostIo) (s : State) {s₀ : State} {W : Nat} (hs : Keeps W s₀ s)
    (hw : Sub 563132 W := by apply Sub.of; assumption; decide) : KeepsO W s₀ (execJobResume e io s) := by
  unfold execJobResume
  with_reducible
    repeat' first
      | assumption | intro _ | apply runRow_keeps | apply cmdJobStart_keeps | apply KeepsO.next
      | exact Sub.of (by assumption) (by decide)

theorem retryStarts_keeps (s : State) {s₀ : State} {W : Nat} (hs : Keeps W s₀ s)
    (hw : Sub 563132 W := by apply Sub.of; assumption; decide) : Keeps W s₀ (retryStarts s) := by
  unfold retryStarts
  with_reducible
    repeat' first
      | assumption | intro _ | apply endWaiting_keeps | apply cmdStartNew_keeps | apply foldl_keeps | split
      | apply Keeps.mk_kao | exact Sub.of (by assumption) (by decide)

theorem cmdJobStop_keeps (e : Entry) (x1 : HostIo) (s : State) {s₀ : State} {W : Nat} (hs : Keeps W s₀ s)
    (hw : Sub 561596 W := by apply Sub.of; assumption; decide) : Keeps W s₀ (cmdJobStop e x1 s).st := by
  unfold cmdJobStop
  with_reducible
    repeat' first
      | assumption | apply stopJob_keeps | apply refuseCmd_keeps | apply doneCmd_keeps | apply waitCmd_keeps
      | apply orderStop_keeps | apply abandonStart_keeps | apply ite_keeps | split | dsimp only
      | exact Sub.of (by assumption) (by decide)

theorem execJobStopImmediate_keeps (e : Entry) (io : HostIo) (s : State) {s₀ : State} {W : Nat} (hs : Keeps W s₀ s)
    (hw : Sub 561596 W := by apply Sub.of; assumption; decide) : KeepsO W s₀ (execJobStopImmediate e io s) := by
  unfold execJobStopImmediate
  with_reducible
    repeat' first
      | assumption | intro _ | apply runRow_keeps | apply cmdJobStop_keeps | apply KeepsO.next
      | exact Sub.of (by assumption) (by decide)

theorem execJobStopCheap_keeps (e : Entry) (io : HostIo) (s : State) {s₀ : State} {W : Nat} (hs : Keeps W s₀ s)
    (hw : Sub 561596 W := by apply Sub.of; assumption; decide) : KeepsO W s₀ (execJobStopCheap e io s) := by
  unfold execJobStopCheap
  with_reducible
    repeat' first
      | assumption | intro _ | apply runRow_keeps | apply cmdJobStop_keeps | apply KeepsO.next
      | exact Sub.of (by assumption) (by decide)

theorem execJobPause_keeps (e : Entry) (io : HostIo) (s : State) {s₀ : State} {W : Nat} (hs : Keeps W s₀ s)
    (hw : Sub 561596 W := by apply Sub.of; assumption; decide) : KeepsO W s₀ (execJobPause e io s) := by
  unfold execJobPause
  with_reducible
    repeat' first
      | assumption | intro _ | apply runRow_keeps | apply cmdJobStop_keeps | apply KeepsO.next
      | exact Sub.of (by assumption) (by decide)

theorem execJobPauseCheap_keeps (e : Entry) (io : HostIo) (s : State) {s₀ : State} {W : Nat} (hs : Keeps W s₀ s)
    (hw : Sub 561596 W := by apply Sub.of; assumption; decide) : KeepsO W s₀ (execJobPauseCheap e io s) := by
  unfold execJobPauseCheap
  with_reducible
    repeat' first
      | assumption | intro _ | apply runRow_keeps | apply cmdJobStop_keeps | apply KeepsO.next
      | exact Sub.of (by assumption) (by decide)

theorem answerStops_keeps (p : Nat) (st : Nat) (s : State) {s₀ : State} {W : Nat} (hs : Keeps W s₀ s)
    (hw : Sub 396 W := by apply Sub.of; assumption; decide) : Keeps W s₀ (answerStops p st s) := by
  unfold answerStops
  with_reducible
    repeat' first
      | assumption | apply completeWaiting_keeps

theorem stopNow_keeps (p : Nat) (st : Nat) (s : State) {s₀ : State} {W : Nat} (hs : Keeps W s₀ s)
    (hw : Sub 101224892 W := by apply Sub.of; assumption; decide) : Keeps W s₀ (stopNow p st s) := by
  unfold stopNow
  with_reducible
    repeat' first
      | assumption | intro _ | apply modPart_keeps | apply sendCtl_keeps | apply floorFail_keeps | apply modSrv_keeps
      | apply abortReplacement_keeps | apply stopRequests_keeps | apply loseTarget_keeps | apply unreserve_keeps
      | apply jobEvent_keeps | apply toSlice_keeps | apply answerStops_keeps | apply ite_keeps | apply foldl_keeps | split
      | apply Keeps.mk_kao | exact Sub.of (by assumption) (by decide)

theorem pauseNow_keeps (p : Nat) (s : State) {s₀ : State} {W : Nat} (hs : Keeps W s₀ s)
    (hw : Sub 4492 W := by apply Sub.of; assumption; decide) : Keeps W s₀ (pauseNow p s) := by
  unfold pauseNow
  with_reducible
    repeat' first
      | assumption | apply modPart_keeps | apply jobEvent_keeps | apply answerStops_keeps | apply ite_keeps
      | exact Sub.of (by assumption) (by decide)

theorem beginJob_keeps (p : Nat) (s : State) {s₀ : State} {W : Nat} (hs : Keeps W s₀ s)
    (hw : Sub 69210558 W := by apply Sub.of; assumption; decide) : Keeps W s₀ (beginJob p s) := by
  unfold beginJob
  with_reducible
    repeat' first
      | assumption | intro _ | apply wr_keeps | apply modPart_keeps | apply startVex_keeps | apply startBatches_keeps
      | apply writeTable_keeps | apply jobEvent_keeps | apply ite_keeps | apply foldl_keeps
      | exact Sub.of (by assumption) (by decide)

end Sys2Proof.Machine
end

