-- ==== Sys2Proof/Laws/KeepVerdict.lean ====
section
/-!
SUPPORT. The operations of Verdict keep the queue, the count of free values and the forms of memory and registers.
-/

set_option Elab.async false

namespace Sys2Proof.Machine

theorem addQueue_keeps (off : Nat) (s : State) (x : Nat × Nat) {s₀ : State} {W : Nat} (hs : Keeps W s₀ s)
    (hw : Sub 131072 W := by apply Sub.of; assumption; decide) : Keeps W s₀ (addQueue off s x) := by
  unfold addQueue
  with_reducible
    repeat' first
      | assumption | apply Keeps.mk_qacct

theorem addQueueNj_keeps (s : State) (x : Nat × Nat) {s₀ : State} {W : Nat} (hs : Keeps W s₀ s)
    (hw : Sub 393216 W := by apply Sub.of; assumption; decide) : Keeps W s₀ (addQueueNj s x) := by
  unfold addQueueNj
  with_reducible
    repeat' first
      | assumption | apply Keeps.mk_qacct_qEnergy

theorem commitAccounts_keeps (p : Nat) (s : State) {s₀ : State} {W : Nat} (hs : Keeps W s₀ s)
    (hw : Sub 397312 W := by apply Sub.of; assumption; decide) : Keeps W s₀ (commitAccounts p s) := by
  unfold commitAccounts
  with_reducible
    repeat' first
      | assumption | intro _ | apply modPart_keeps | apply addQueue_keeps | apply addQueueNj_keeps | apply foldl_keeps
      | exact Sub.of (by assumption) (by decide)

theorem addOutside_keeps (p : Nat) (s : State) {s₀ : State} {W : Nat} (hs : Keeps W s₀ s)
    (hw : Sub 4096 W := by apply Sub.of; assumption; decide) : Keeps W s₀ (addOutside p s) := by
  unfold addOutside
  with_reducible
    repeat' first
      | assumption | apply modPart_keeps

theorem staticEnergy_keeps (ns : Nat) (s : State) (p : Nat) {s₀ : State} {W : Nat} (hs : Keeps W s₀ s)
    (hw : Sub 4096 W := by apply Sub.of; assumption; decide) : Keeps W s₀ (staticEnergy ns s p) := by
  unfold staticEnergy
  with_reducible
    repeat' first
      | assumption | apply modPart_keeps

theorem lateContext_keeps (p : Nat) (s : State) (G : Nat) {s₀ : State} {W : Nat} (hs : Keeps W s₀ s)
    (hw : Sub 21388 W := by apply Sub.of; assumption; decide) : Keeps W s₀ (lateContext p s G) := by
  unfold lateContext
  with_reducible
    repeat' first
      | assumption | apply bump_keeps | apply unitError_keeps | apply failFrame_keeps
      | exact Sub.of (by assumption) (by decide)

theorem deadlineFor_keeps (s : State) (p : Nat) {s₀ : State} {W : Nat} (hs : Keeps W s₀ s)
    (hw : Sub 101241790 W := by apply Sub.of; assumption; decide) : Keeps W s₀ (deadlineFor s p) := by
  unfold deadlineFor
  with_reducible
    repeat' first
      | assumption | intro _ | apply floorFail_keeps | apply writeTable_keeps | apply checkResults_keeps
      | apply checkPlan_keeps | apply commitServing_keeps | apply lateContext_keeps | apply ite_keeps | apply foldl_keeps
      | exact Sub.of (by assumption) (by decide)

theorem deadline_keeps (s : State) {s₀ : State} {W : Nat} (hs : Keeps W s₀ s)
    (hw : Sub 101249982 W := by apply Sub.of; assumption; decide) : Keeps W s₀ (deadline s) := by
  unfold deadline
  with_reducible
    repeat' first
      | assumption | intro _ | apply slotBegins_keeps | apply deadlineFor_keeps | apply foldl_keeps
      | apply Keeps.mk_tick | exact Sub.of (by assumption) (by decide)

theorem execCommitDeadline_keeps (s : State) {s₀ : State} {W : Nat} (hs : Keeps W s₀ s)
    (hw : Sub 101249982 W := by apply Sub.of; assumption; decide) : KeepsO W s₀ (execCommitDeadline s) := by
  unfold execCommitDeadline
  with_reducible
    repeat' first
      | assumption | apply deadline_keeps | apply KeepsO.ite | apply ite_keeps | apply KeepsO.next

theorem advanceEpochs_keeps (p : Nat) (s : State) {s₀ : State} {W : Nat} (hs : Keeps W s₀ s)
    (hw : Sub 8 W := by apply Sub.of; assumption; decide) : Keeps W s₀ (advanceEpochs p s) := by
  unfold advanceEpochs
  with_reducible
    repeat' first
      | assumption | intro _ | apply bump_keeps | apply foldl_keeps

theorem takeStop_keeps (p : Nat) (s : State) {s₀ : State} {W : Nat} (hs : Keeps W s₀ s)
    (hw : Sub 4096 W := by apply Sub.of; assumption; decide) : Keeps W s₀ (takeStop p s) := by
  unfold takeStop
  with_reducible
    repeat' first
      | assumption | apply modPart_keeps | apply stopJob_keeps | apply ite_keeps | split

theorem commitPart_keeps (p : Nat) (f : Nat) (now : Nat) (s : State) {s₀ : State} {W : Nat} (hs : Keeps W s₀ s)
    (hw : Sub 112104894 W := by apply Sub.of; assumption; decide) : Keeps W s₀ (commitPart p f now s) := by
  unfold commitPart
  with_reducible
    repeat' first
      | assumption | apply modPart_keeps | apply floorFail_keeps | apply closeStagedMoves_keeps | apply closeVex_keeps
      | apply closeDeferred_keeps | apply writeTable_keeps | apply commitServing_keeps | apply commitAccounts_keeps
      | apply advanceEpochs_keeps | apply takeStop_keeps | apply ite_keeps | apply Keeps.mk_pwr
      | exact Sub.of (by assumption) (by decide)

theorem dropStaged_keeps (p : Nat) (s : State) {s₀ : State} {W : Nat} (hs : Keeps W s₀ s)
    (hw : Sub 78156172 W := by apply Sub.of; assumption; decide) : Keeps W s₀ (dropStaged p s) := by
  unfold dropStaged
  with_reducible
    repeat' first
      | assumption | apply modPart_keeps | apply closeStagedMoves_keeps | apply closeVex_keeps
      | apply closeDeferred_keeps | apply modSrv_keeps | apply closePlan_keeps | exact Sub.of (by assumption) (by decide)

theorem exhausted_keeps (p : Nat) (s : State) {s₀ : State} {W : Nat} (hs : Keeps W s₀ s)
    (hw : Sub 5004 W := by apply Sub.of; assumption; decide) : Keeps W s₀ (exhausted p s) := by
  unfold exhausted
  with_reducible
    repeat' first
      | assumption | apply stopJob_keeps | apply report_keeps | split | exact Sub.of (by assumption) (by decide)

theorem failPart_keeps (p : Nat) (s : State) {s₀ : State} {W : Nat} (hs : Keeps W s₀ s)
    (hw : Sub 78156684 W := by apply Sub.of; assumption; decide) : Keeps W s₀ (failPart p s) := by
  unfold failPart
  with_reducible
    repeat' first
      | assumption | apply bump_keeps | apply modPart_keeps | apply tickEvent_keeps | apply floorFail_keeps
      | apply dropStaged_keeps | apply exhausted_keeps | apply ite_keeps | exact Sub.of (by assumption) (by decide)

theorem closeFrame_keeps (f : Nat) (now : Nat) (ok : Nat → Bool) (s : State) (p : Nat) {s₀ : State} {W : Nat} (hs : Keeps W
    s₀ s) (hw : Sub 112105406 W := by apply Sub.of; assumption; decide) : Keeps W s₀ (closeFrame f now ok s p) := by
  unfold closeFrame
  with_reducible
    repeat' first
      | assumption | apply addOutside_keeps | apply commitPart_keeps | apply failPart_keeps | apply ite_keeps
      | exact Sub.of (by assumption) (by decide)

end Sys2Proof.Machine
end

