-- ==== Sys2Proof/Laws/KeepClock.lean ====
section
/-!
SUPPORT. The operations of Clock keep the queue, the count of free values and the forms of memory and registers.
-/

set_option Elab.async false

namespace Sys2Proof.Machine

theorem fenceSelf_keeps (s : State) {s₀ : State} {W : Nat} (hs : Keeps W s₀ s)
    (hw : Sub 20488 W := by apply Sub.of; assumption; decide) : Keeps W s₀ (fenceSelf s) := by
  unfold fenceSelf
  with_reducible
    repeat' first
      | assumption | apply wr_keeps | apply stopAll_keeps | apply Keeps.mk_tick
      | exact Sub.of (by assumption) (by decide)

theorem noteFence_keeps (x : Nat) (s : State) {s₀ : State} {W : Nat} (hs : Keeps W s₀ s)
    (hw : Sub 20876 W := by apply Sub.of; assumption; decide) : Keeps W s₀ (noteFence x s) := by
  unfold noteFence
  with_reducible
    repeat' first
      | assumption | intro _ | apply stopJob_keeps | apply tickEvent_keeps | apply fenceSelf_keeps | apply ite_keeps
      | apply foldl_keeps | apply Keeps.mk_tick | exact Sub.of (by assumption) (by decide)

theorem masterSymbol_keeps (s : State) {s₀ : State} {W : Nat} (hs : Keeps W s₀ s)
    (hw : Sub 20876 W := by apply Sub.of; assumption; decide) : Keeps W s₀ (masterSymbol s) := by
  unfold masterSymbol
  with_reducible
    repeat' first
      | assumption | apply wr_keeps | apply sendSymbol_keeps | apply electStandby_keeps | apply noteFence_keeps
      | apply ite_keeps | apply Keeps.mk_tick | exact Sub.of (by assumption) (by decide)

theorem noteOffset_keeps (o : Int) (s : State) {s₀ : State} {W : Nat} (hs : Keeps W s₀ s)
    (hw : Sub 396 W := by apply Sub.of; assumption; decide) : Keeps W s₀ (noteOffset o s) := by
  unfold noteOffset
  with_reducible
    repeat' first
      | assumption | apply wr_keeps | apply tickEvent_keeps | apply ite_keeps | exact Sub.of (by assumption) (by decide)

theorem mapUpstream_keeps (s : State) {s₀ : State} {W : Nat} (hs : Keeps W s₀ s)
    (hw : Sub 8 W := by apply Sub.of; assumption; decide) : Keeps W s₀ (mapUpstream s) := by
  unfold mapUpstream
  with_reducible
    repeat' first
      | assumption | apply wr_keeps | split

theorem noteStandby_keeps (x : Nat) (s : State) {s₀ : State} {W : Nat} (hs : Keeps W s₀ s)
    (hw : Sub 32780 W := by apply Sub.of; assumption; decide) : Keeps W s₀ (noteStandby x s) := by
  unfold noteStandby
  with_reducible
    repeat' first
      | assumption | apply wrb_keeps | apply wr_keeps | apply sendCtl_keeps | apply ite_keeps
      | exact Sub.of (by assumption) (by decide)

theorem acceptSymbol_keeps (y : TickSym) (o : Int) (s : State) {s₀ : State} {W : Nat} (hs : Keeps W s₀ s)
    (hw : Sub 53644 W := by apply Sub.of; assumption; decide) : Keeps W s₀ (acceptSymbol y o s) := by
  unfold acceptSymbol
  with_reducible
    repeat' first
      | assumption | apply wr_keeps | apply tickEvent_keeps | apply sendSymbol_keeps | apply noteFence_keeps
      | apply noteOffset_keeps | apply noteStandby_keeps | apply ite_keeps | apply Keeps.mk_tick
      | exact Sub.of (by assumption) (by decide)

theorem joinMaster_keeps (y : TickSym) (o : Int) (s : State) {s₀ : State} {W : Nat} (hs : Keeps W s₀ s)
    (hw : Sub 53644 W := by apply Sub.of; assumption; decide) : Keeps W s₀ (joinMaster y o s) := by
  unfold joinMaster
  with_reducible
    repeat' first
      | assumption | apply wr_keeps | apply sendCtl_keeps | apply mapUpstream_keeps | apply acceptSymbol_keeps
      | apply Keeps.mk_tick | exact Sub.of (by assumption) (by decide)

theorem foreignTick_keeps (s : State) {s₀ : State} {W : Nat} (hs : Keeps W s₀ s)
    (hw : Sub 396 W := by apply Sub.of; assumption; decide) : Keeps W s₀ (foreignTick s) := by
  unfold foreignTick
  with_reducible
    repeat' first
      | assumption | apply bump_keeps | apply pwrEvent_keeps | exact Sub.of (by assumption) (by decide)

theorem execTickSymbolReceive_keeps (l : Nat) (crcOk : Bool) (sym : TickSym) (offset : Int) (s : State) {s₀ : State} {W :
    Nat} (hs : Keeps W s₀ s) (hw : Sub 54156 W := by apply Sub.of; assumption; decide) : KeepsO W s₀ (execTickSymbolReceive
    l crcOk sym offset s) := by
  unfold execTickSymbolReceive
  with_reducible
    repeat' first
      | assumption | apply edgeReject_keeps | apply badSymbol_keeps | apply mapUpstream_keeps | apply acceptSymbol_keeps
      | apply joinMaster_keeps | apply foreignTick_keeps | apply KeepsO.ite | apply ite_keeps | apply KeepsO.next
      | apply Keeps.mk_tick | exact Sub.of (by assumption) (by decide)

theorem execMissingTick_keeps (s : State) {s₀ : State} {W : Nat} (hs : Keeps W s₀ s)
    (hw : Sub 20876 W := by apply Sub.of; assumption; decide) : KeepsO W s₀ (execMissingTick s) := by
  unfold execMissingTick
  with_reducible
    repeat' first
      | assumption | apply wr_keeps | apply tickEvent_keeps | apply takeover_keeps | apply masterSymbol_keeps
      | apply KeepsO.ite | apply ite_keeps | apply KeepsO.next | apply Keeps.mk_tick
      | exact Sub.of (by assumption) (by decide)

theorem execTickLossSelfFence_keeps (s : State) {s₀ : State} {W : Nat} (hs : Keeps W s₀ s)
    (hw : Sub 21388 W := by apply Sub.of; assumption; decide) : KeepsO W s₀ (execTickLossSelfFence s) := by
  unfold execTickLossSelfFence
  with_reducible
    repeat' first
      | assumption | apply report_keeps | apply floodReport_keeps | apply fenceSelf_keeps | apply KeepsO.ite
      | apply ite_keeps | apply KeepsO.next | exact Sub.of (by assumption) (by decide)

theorem execTickSyncInEdge_keeps (inTime : Bool) (s : State) {s₀ : State} {W : Nat} (hs : Keeps W s₀ s)
    (hw : Sub 396 W := by apply Sub.of; assumption; decide) : KeepsO W s₀ (execTickSyncInEdge inTime s) := by
  unfold execTickSyncInEdge
  with_reducible
    repeat' first
      | assumption | apply tickEvent_keeps | apply KeepsO.ite | apply ite_keeps | apply KeepsO.next

theorem cmdTickConfig_keeps (e : Entry) (x1 : HostIo) (s : State) {s₀ : State} {W : Nat} (hs : Keeps W s₀ s)
    (hw : Sub 8 W := by apply Sub.of; assumption; decide) : Keeps W s₀ (cmdTickConfig e x1 s).st := by
  unfold cmdTickConfig
  with_reducible
    repeat' first
      | assumption | apply wrb_keeps | apply wr_keeps | apply refuseCmd_keeps | apply doneCmd_keeps | apply ite_keeps
      | split | dsimp only | exact Sub.of (by assumption) (by decide)

theorem execTickConfig_keeps (e : Entry) (io : HostIo) (s : State) {s₀ : State} {W : Nat} (hs : Keeps W s₀ s)
    (hw : Sub 396 W := by apply Sub.of; assumption; decide) : KeepsO W s₀ (execTickConfig e io s) := by
  unfold execTickConfig
  with_reducible
    repeat' first
      | assumption | intro _ | apply runRow_keeps | apply cmdTickConfig_keeps | apply KeepsO.next
      | exact Sub.of (by assumption) (by decide)

end Sys2Proof.Machine
end

