-- ==== Sys2Proof/Laws/KeepWatchdog.lean ====
section
/-!
SUPPORT. The operations of Watchdog keep the queue, the count of free values and the forms of memory and registers.
-/

set_option Elab.async false

namespace Sys2Proof.Machine

theorem loseSpan_keeps (G : Nat) (cls : Nat) (s : State) (r : Span) {s₀ : State} {W : Nat} (hs : Keeps W s₀ s)
    (hw : Sub 5054 W := by apply Sub.of; assumption; decide) : Keeps W s₀ (loseSpan G cls s r) := by
  unfold loseSpan
  with_reducible
    repeat' first
      | assumption | apply drawBytes_keeps | apply spmWrite_keeps | apply hubWrite_keeps | apply ite_keeps
      | exact Sub.of (by assumption) (by decide)

theorem loseTiered_keeps (p : Nat) (a : Nat) (n : Nat) (s : State) {s₀ : State} {W : Nat} (hs : Keeps W s₀ s)
    (hw : Sub 528434 W := by apply Sub.of; assumption; decide) : Keeps W s₀ (loseTiered p a n s) := by
  unfold loseTiered
  with_reducible
    repeat' first
      | assumption | intro _ | apply drawBytes_keeps | apply tierWrite_keeps | apply foldl_keeps
      | exact Sub.of (by assumption) (by decide)

theorem loseRows_keeps (G : Nat) (a : BitVec 112) (s : State) {s₀ : State} {W : Nat} (hs : Keeps W s₀ s)
    (hw : Sub 4146 W := by apply Sub.of; assumption; decide) : Keeps W s₀ (loseRows G a s) := by
  unfold loseRows
  with_reducible
    repeat' first
      | assumption | intro _ | apply drawBytes_keeps | apply putRow_keeps | apply foldl_keeps | split
      | exact Sub.of (by assumption) (by decide)

theorem dropCol_keeps (G : Nat) (pc : Nat) (s : State) {s₀ : State} {W : Nat} (hs : Keeps W s₀ s)
    (hw : Sub 16809984 W := by apply Sub.of; assumption; decide) : Keeps W s₀ (dropCol G pc s) := by
  unfold dropCol
  with_reducible
    repeat' first
      | assumption | intro _ | apply modOp_keeps | apply ite_keeps | apply foldl_keeps | apply Keeps.mk_fab
      | exact Sub.of (by assumption) (by decide)

theorem loseOutputs_keeps (G : Nat) (x : FrameCmd) (s : State) {s₀ : State} {W : Nat} (hs : Keeps W s₀ s)
    (hw : Sub 18387902 W := by apply Sub.of; assumption; decide) : Keeps W s₀ (loseOutputs G x s) := by
  unfold loseOutputs
  with_reducible
    repeat' first
      | assumption | intro _ | apply putArf_keeps | apply clearArf_keeps | apply loseSpan_keeps | apply loseTiered_keeps
      | apply loseRows_keeps | apply dropCol_keeps | apply ite_keeps | apply foldl_keeps
      | exact Sub.of (by assumption) (by decide)

theorem watchdogBit_keeps (f : Field) (src : Nat) (code : Nat) (ty : Nat) (n : Nat) (st : Nat) (G : Nat) (x : FrameCmd) (s :
    State) {s₀ : State} {W : Nat} (hs : Keeps W s₀ s) (hw : Sub 21388 W := by apply Sub.of; assumption; decide) : Keeps W s₀
    (watchdogBit f src code ty n st G x s) := by
  unfold watchdogBit
  with_reducible
    repeat' first
      | assumption | apply unitError_keeps | apply failFrame_keeps | exact Sub.of (by assumption) (by decide)

theorem watchdogReport_keeps (G : Nat) (x : FrameCmd) (s : State) {s₀ : State} {W : Nat} (hs : Keeps W s₀ s)
    (hw : Sub 21388 W := by apply Sub.of; assumption; decide) : Keeps W s₀ (watchdogReport G x s) := by
  unfold watchdogReport
  with_reducible
    repeat' first
      | assumption | intro _ | apply wr_keeps | apply raiseWith_keeps | apply report_keeps | apply failFrame_keeps
      | apply watchdogBit_keeps | apply ite_keeps | apply foldl_keeps | split | exact Sub.of (by assumption) (by decide)

theorem expire_keeps (G : Nat) (x : FrameCmd) (s : State) {s₀ : State} {W : Nat} (hs : Keeps W s₀ s)
    (hw : Sub 18404286 W := by apply Sub.of; assumption; decide) : Keeps W s₀ (expire G x s) := by
  unfold expire
  with_reducible
    repeat' first
      | assumption | apply loseOutputs_keeps | apply watchdogReport_keeps | exact Sub.of (by assumption) (by decide)

theorem execEngineWatchdogExpiry_keeps (G : Nat) (i : Nat) (s : State) {s₀ : State} {W : Nat} (hs : Keeps W s₀ s)
    (hw : Sub 18412478 W := by apply Sub.of; assumption; decide) : KeepsO W s₀ (execEngineWatchdogExpiry G i s) := by
  unfold execEngineWatchdogExpiry
  with_reducible
    repeat' first
      | assumption | apply modCtx_keeps | apply showCtx_keeps | apply releaseWait_keeps | apply showColl_keeps
      | apply expire_keeps | apply ite_keeps | apply KeepsO.next | split | exact Sub.of (by assumption) (by decide)

theorem expireAtTick_keeps (s : State) {s₀ : State} {W : Nat} (hs : Keeps W s₀ s)
    (hw : Sub 18404286 W := by apply Sub.of; assumption; decide) : Keeps W s₀ (expireAtTick s) := by
  unfold expireAtTick
  with_reducible
    repeat' first
      | assumption | intro _ | apply floorFail_keeps | apply expire_keeps | apply ite_keeps | apply foldl_keeps

end Sys2Proof.Machine
end

