-- ==== Sys2Proof/Laws/KeepTick.lean ====
section
/-!
SUPPORT. The operations of Tick keep the queue, the count of free values and the forms of memory and registers.
-/

set_option Elab.async false

namespace Sys2Proof.Machine

theorem fenceEffect_keeps (t : Nat) (n : Nat) (s : State) {s₀ : State} {W : Nat} (hs : Keeps W s₀ s)
    (hw : Sub 561548 W := by apply Sub.of; assumption; decide) : Keeps W s₀ (fenceEffect t n s) := by
  unfold fenceEffect
  with_reducible
    repeat' first
      | assumption | intro _ | apply stopJob_keeps | apply leaveService_keeps | apply setHubByte_keeps
      | apply fenceTier2_keeps | apply ite_keeps | apply foldl_keeps | exact Sub.of (by assumption) (by decide)

theorem enterFence_keeps (t : Nat) (n : Nat) (s : State) {s₀ : State} {W : Nat} (hs : Keeps W s₀ s)
    (hw : Sub 561548 W := by apply Sub.of; assumption; decide) : Keeps W s₀ (enterFence t n s) := by
  unfold enterFence
  with_reducible
    repeat' first
      | assumption | apply wr_keeps | apply bump_keeps | apply fenceEffect_keeps | apply ite_keeps | split
      | exact Sub.of (by assumption) (by decide)

theorem unfenceEffect_keeps (t : Nat) (n : Nat) (s : State) {s₀ : State} {W : Nat} (hs : Keeps W s₀ s)
    (hw : Sub 8 W := by apply Sub.of; assumption; decide) : Keeps W s₀ (unfenceEffect t n s) := by
  unfold unfenceEffect
  with_reducible
    repeat' first
      | assumption | apply setHubByte_keeps | apply ite_keeps

theorem showFences_keeps (s : State) {s₀ : State} {W : Nat} (hs : Keeps W s₀ s)
    (hw : Sub 8 W := by apply Sub.of; assumption; decide) : Keeps W s₀ (showFences s) := by
  unfold showFences
  with_reducible
    repeat' first
      | assumption | intro _ | apply wrb_keeps | apply wr_keeps | apply ite_keeps | apply foldl_keeps

theorem applyFences_keeps (s : State) {s₀ : State} {W : Nat} (hs : Keeps W s₀ s)
    (hw : Sub 562060 W := by apply Sub.of; assumption; decide) : Keeps W s₀ (applyFences s) := by
  unfold applyFences
  with_reducible
    repeat' first
      | assumption | intro _ | apply enterFence_keeps | apply unfenceEffect_keeps | apply showFences_keeps
      | apply ite_keeps | apply foldl_keeps | apply Keeps.mk_cal | exact Sub.of (by assumption) (by decide)

theorem putHardWord_keeps (off : Nat) (v : Nat) (s : State) {s₀ : State} {W : Nat} (hs : Keeps W s₀ s)
    (hw : Sub 16777224 W := by apply Sub.of; assumption; decide) : Keeps W s₀ (putHardWord off v s) := by
  unfold putHardWord
  with_reducible
    repeat' first
      | assumption | intro _ | apply wr_keeps | apply ite_keeps | apply foldl_keeps | split | apply Keeps.mk_coll
      | exact Sub.of (by assumption) (by decide)

theorem compareWord_keeps (s : State) (u : Upset) {s₀ : State} {W : Nat} (hs : Keeps W s₀ s)
    (hw : Sub 16782220 W := by apply Sub.of; assumption; decide) : Keeps W s₀ (compareWord s u) := by
  unfold compareWord
  with_reducible
    repeat' first
      | assumption | intro _ | apply bump_keeps | apply stopJob_keeps | apply calEvent_keeps | apply writeRecord_keeps
      | apply putHardWord_keeps | apply ite_keeps | apply foldl_keeps | apply Keeps.mk_cal
      | exact Sub.of (by assumption) (by decide)

theorem comparePass_keeps (us : List Upset) (s : State) {s₀ : State} {W : Nat} (hs : Keeps W s₀ s)
    (hw : Sub 16782220 W := by apply Sub.of; assumption; decide) : Keeps W s₀ (comparePass us s) := by
  unfold comparePass
  with_reducible
    repeat' first
      | assumption | intro _ | apply bump_keeps | apply compareWord_keeps | apply ite_keeps | apply foldl_keeps
      | exact Sub.of (by assumption) (by decide)

theorem restoreWords_keeps (s : State) {s₀ : State} {W : Nat} (hs : Keeps W s₀ s)
    (hw : Sub 16777736 W := by apply Sub.of; assumption; decide) : Keeps W s₀ (restoreWords s) := by
  unfold restoreWords
  with_reducible
    repeat' first
      | assumption | intro _ | apply putHardWord_keeps | apply foldl_keeps | apply Keeps.mk_cal
      | exact Sub.of (by assumption) (by decide)

theorem closeFrames_keeps (f : Nat) (s : State) {s₀ : State} {W : Nat} (hs : Keeps W s₀ s)
    (hw : Sub 112105406 W := by apply Sub.of; assumption; decide) : Keeps W s₀ (closeFrames f s) := by
  unfold closeFrames
  with_reducible
    repeat' first
      | assumption | intro _ | apply voidVex_keeps | apply modSrv_keeps | apply shipConfirm_keeps
      | apply closeFrame_keeps | apply ite_keeps | apply foldl_keeps | exact Sub.of (by assumption) (by decide)

theorem passTime_keeps (s : State) {s₀ : State} {W : Nat} (hs : Keeps W s₀ s)
    (hw : Sub 21000 W := by apply Sub.of; assumption; decide) : Keeps W s₀ (passTime s) := by
  unfold passTime
  with_reducible
    repeat' first
      | assumption | intro _ | apply wr_keeps | apply staticEnergy_keeps | apply ite_keeps | apply foldl_keeps
      | apply Keeps.mk_cal_tick | exact Sub.of (by assumption) (by decide)

theorem openFrame_keeps (s : State) {s₀ : State} {W : Nat} (hs : Keeps W s₀ s)
    (hw : Sub 20488 W := by apply Sub.of; assumption; decide) : Keeps W s₀ (openFrame s) := by
  unfold openFrame
  with_reducible
    repeat' first
      | assumption | apply wr_keeps | apply stopAll_keeps | apply ite_keeps | apply Keeps.mk_tick
      | exact Sub.of (by assumption) (by decide)

theorem diagDone_keeps (s : State) {s₀ : State} {W : Nat} (hs : Keeps W s₀ s)
    (hw : Sub 398 W := by apply Sub.of; assumption; decide) : Keeps W s₀ (diagDone s) := by
  unfold diagDone
  with_reducible
    repeat' first
      | assumption | intro _ | apply drawBytes_keeps | apply outcome_keeps | apply foldl_keeps
      | exact Sub.of (by assumption) (by decide)

theorem switchAtTick_keeps (s : State) {s₀ : State} {W : Nat} (hs : Keeps W s₀ s)
    (hw : Sub 84841358 W := by apply Sub.of; assumption; decide) : Keeps W s₀ (switchAtTick s) := by
  unfold switchAtTick
  with_reducible
    repeat' first
      | assumption | apply completeWaiting_keeps | apply linksAtTick_keeps | apply tierAtTick_keeps
      | apply switchGroups_keeps | apply serveConfigs_keeps | apply applyFences_keeps | apply diagDone_keeps
      | apply Keeps.mk_fab | exact Sub.of (by assumption) (by decide)

theorem endJobs_keeps (s : State) (p : Nat) {s₀ : State} {W : Nat} (hs : Keeps W s₀ s)
    (hw : Sub 101224892 W := by apply Sub.of; assumption; decide) : Keeps W s₀ (endJobs s p) := by
  unfold endJobs
  with_reducible
    repeat' first
      | assumption | apply stopNow_keeps | apply pauseNow_keeps | apply ite_keeps | split
      | exact Sub.of (by assumption) (by decide)

theorem openContexts_keeps (s : State) (p : Nat) {s₀ : State} {W : Nat} (hs : Keeps W s₀ s)
    (hw : Sub 8200 W := by apply Sub.of; assumption; decide) : Keeps W s₀ (openContexts s p) := by
  unfold openContexts
  with_reducible
    repeat' first
      | assumption | intro _ | apply wr_keeps | apply modCtx_keeps | apply showCtx_keeps | apply foldl_keeps
      | exact Sub.of (by assumption) (by decide)

theorem placeStop_keeps (s : State) (p : Nat) {s₀ : State} {W : Nat} (hs : Keeps W s₀ s)
    (hw : Sub 4096 W := by apply Sub.of; assumption; decide) : Keeps W s₀ (placeStop s p) := by
  unfold placeStop
  with_reducible
    repeat' first
      | assumption | apply modPart_keeps | apply ite_keeps | split

theorem startIfDue_keeps (s : State) (p : Nat) {s₀ : State} {W : Nat} (hs : Keeps W s₀ s)
    (hw : Sub 69767614 W := by apply Sub.of; assumption; decide) : Keeps W s₀ (startIfDue s p) := by
  unfold startIfDue
  with_reducible
    repeat' first
      | assumption | apply checkGoAcks_keeps | apply beginJob_keeps | apply ite_keeps | split
      | exact Sub.of (by assumption) (by decide)

theorem enterService_keeps (s : State) {s₀ : State} {W : Nat} (hs : Keeps W s₀ s)
    (hw : Sub 1420 W := by apply Sub.of; assumption; decide) : Keeps W s₀ (enterService s) := by
  unfold enterService
  with_reducible
    repeat' first
      | assumption | apply setPstate_keeps | apply powerOutcome_keeps | apply ite_keeps | apply Keeps.mk_pwr
      | exact Sub.of (by assumption) (by decide)

theorem showRejects_keeps (s : State) {s₀ : State} {W : Nat} (hs : Keeps W s₀ s)
    (hw : Sub 8 W := by apply Sub.of; assumption; decide) : Keeps W s₀ (showRejects s) := by
  unfold showRejects
  with_reducible
    repeat' first
      | assumption | intro _ | apply wr_keeps | apply foldl_keeps

theorem driveTick_keeps (s : State) {s₀ : State} {W : Nat} (hs : Keeps W s₀ s)
    (hw : Sub 20876 W := by apply Sub.of; assumption; decide) : Keeps W s₀ (driveTick s) := by
  unfold driveTick
  with_reducible
    repeat' first
      | assumption | apply emit_keeps | apply electStandby_keeps | apply masterSymbol_keeps | apply ite_keeps
      | apply Keeps.mk_tick | exact Sub.of (by assumption) (by decide)

theorem tick_keeps (us : List Upset) (s : State) {s₀ : State} {W : Nat} (hs : Keeps W s₀ s)
    (hw : Sub 129955774 W := by apply Sub.of; assumption; decide) : Keeps W s₀ (tick us s) := by
  unfold tick
  with_reducible
    repeat' first
      | assumption | intro _ | apply floorAtTick_keeps | apply showColl_keeps | apply stagePass_keeps
      | apply retryStarts_keeps | apply deadline_keeps | apply expireAtTick_keeps | apply comparePass_keeps
      | apply restoreWords_keeps | apply closeFrames_keeps | apply passTime_keeps | apply openFrame_keeps
      | apply switchAtTick_keeps | apply endJobs_keeps | apply openContexts_keeps | apply placeStop_keeps
      | apply startIfDue_keeps | apply enterService_keeps | apply showRejects_keeps | apply driveTick_keeps
      | apply ite_keeps | apply foldl_keeps | apply Keeps.mk_pwr_arf_coll | exact Sub.of (by assumption) (by decide)

theorem execTick_keeps (upsets : List Upset) (s : State) {s₀ : State} {W : Nat} (hs : Keeps W s₀ s)
    (hw : Sub 129955774 W := by apply Sub.of; assumption; decide) : KeepsO W s₀ (execTick upsets s) := by
  unfold execTick
  with_reducible
    repeat' first
      | assumption | apply tick_keeps | apply ite_keeps | apply KeepsO.next

end Sys2Proof.Machine
end

