-- ==== Sys2Proof/Laws/KeepSlots.lean ====
section
/-!
SUPPORT. The operations of Slots keep the queue, the count of free values and the forms of memory and registers.
-/

set_option Elab.async false

namespace Sys2Proof.Machine

theorem fabricBytes_keeps (p : Nat) (b : Nat) (rx : Bool) (n : Nat) (s : State) {s₀ : State} {W : Nat} (hs : Keeps W s₀ s)
    (hw : Sub 4096 W := by apply Sub.of; assumption; decide) : Keeps W s₀ (fabricBytes p b rx n s) := by
  unfold fabricBytes
  with_reducible
    repeat' first
      | assumption | apply account_keeps | apply energy_keeps | apply ite_keeps

theorem sendPiece_keeps (p : Nat) (j : Nat) (r : RouteEnt) (s : State) {s₀ : State} {W : Nat} (hs : Keeps W s₀ s)
    (hw : Sub 54156 W := by apply Sub.of; assumption; decide) : Keeps W s₀ (sendPiece p j r s).2 := by
  unfold sendPiece
  with_reducible
    repeat' first
      | assumption | apply bump_keeps | apply floorFail_keeps | apply colLate_keeps | apply ite_keeps | split
      | apply Keeps.mk_fab | exact Sub.of (by assumption) (by decide)

theorem planPiece_keeps' {p j : Nat} {s t : State} {r : Option Bytes} (e : planPiece p j s = (r, t)) {s₀ : State} {W : Nat}
    (hs : Keeps W s₀ s) (hw : Sub 101224894 W := by apply Sub.of; assumption; decide) : Keeps W s₀ t := by
  have h := planPiece_keeps p j s hs
  rw [e] at h
  exact h

theorem sendPlan_keeps (p j : Nat) (r : RouteEnt) (s : State) {s₀ : State} {W : Nat} (hs : Keeps W s₀ s) (hw : Sub 101224894 W := by apply Sub.of; assumption; decide) : Keeps W s₀ (sendPlan p j r s).2 := by
  unfold sendPlan
  split
  · split
    · rename_i e
      exact planPiece_keeps' e hs
    · rename_i e
      exact planPiece_keeps' e hs
  · exact hs

theorem sendShip_keeps (p : Nat) (j : Nat) (r : RouteEnt) (s : State) {s₀ : State} {W : Nat} (hs : Keeps W s₀ s)
    (hw : Sub 5036 W := by apply Sub.of; assumption; decide) : Keeps W s₀ (sendShip p j r s).2 := by
  unfold sendShip
  with_reducible
    repeat' first
      | assumption | apply bump_keeps | apply memUe_keeps | split | exact Sub.of (by assumption) (by decide)

theorem sendSource_keeps (e : SlotEnt) (s : State) {s₀ : State} {W : Nat} (hs : Keeps W s₀ s)
    (hw : Sub 101241790 W := by apply Sub.of; assumption; decide) : Keeps W s₀ (sendSource e s).2 := by
  unfold sendSource
  with_reducible
    repeat' first
      | assumption | apply fabricBytes_keeps | apply sendPiece_keeps | apply sendPlan_keeps | apply sendShip_keeps
      | apply ite_keeps | split | exact Sub.of (by assumption) (by decide)

theorem sendTransit_keeps (e : SlotEnt) (s : State) {s₀ : State} {W : Nat} (hs : Keeps W s₀ s)
    (hw : Sub 32776 W := by apply Sub.of; assumption; decide) : Keeps W s₀ (sendTransit e s).2 := by
  unfold sendTransit
  with_reducible
    repeat' first
      | assumption | apply bump_keeps | split | apply Keeps.mk_fab | exact Sub.of (by assumption) (by decide)

theorem clearNak_keeps (l : Nat) (s : State) {s₀ : State} {W : Nat} (hs : Keeps W s₀ s)
    (hw : Sub 32768 W := by apply Sub.of; assumption; decide) : Keeps W s₀ (clearNak l s) := by
  unfold clearNak
  with_reducible
    repeat' first
      | assumption | apply modLink_keeps

theorem sendSched_keeps (l : Nat) (e : SlotEnt) (s : State) {s₀ : State} {W : Nat} (hs : Keeps W s₀ s)
    (hw : Sub 101241790 W := by apply Sub.of; assumption; decide) : Keeps W s₀ (sendSched l e s) := by
  unfold sendSched
  with_reducible
    repeat' first
      | assumption | apply emit_keeps | apply bump_keeps | apply tick_keeps | apply sendSource_keeps
      | apply sendTransit_keeps | apply clearNak_keeps | apply ite_keeps | split
      | exact Sub.of (by assumption) (by decide)

theorem accountFlit_keeps (b : Nat) (s : State) (f : Flit) {s₀ : State} {W : Nat} (hs : Keeps W s₀ s)
    (hw : Sub 4096 W := by apply Sub.of; assumption; decide) : Keeps W s₀ (accountFlit b s f) := by
  unfold accountFlit
  with_reducible
    repeat' first
      | assumption | intro _ | apply outside_keeps | apply fabricBytes_keeps | apply ite_keeps

theorem sendOpen_keeps (l : Nat) (i : Nat) (s : State) {s₀ : State} {W : Nat} (hs : Keeps W s₀ s)
    (hw : Sub 37772 W := by apply Sub.of; assumption; decide) : Keeps W s₀ (sendOpen l i s) := by
  unfold sendOpen
  with_reducible
    repeat' first
      | assumption | intro _ | apply emit_keeps | apply bump_keeps | apply modLink_keeps | apply rtrEvent_keeps
      | apply linkError_keeps | apply clearNak_keeps | apply accountFlit_keeps | apply ite_keeps | apply foldl_keeps
      | exact Sub.of (by assumption) (by decide)

theorem execSlotSend_keeps (l : Nat) (slot : Nat) (s : State) {s₀ : State} {W : Nat} (hs : Keeps W s₀ s)
    (hw : Sub 101249982 W := by apply Sub.of; assumption; decide) : KeepsO W s₀ (execSlotSend l slot s) := by
  unfold execSlotSend
  with_reducible
    repeat' first
      | assumption | apply slotBegins_keeps | apply tick_keeps | apply sendSched_keeps | apply sendOpen_keeps
      | apply ite_keeps | apply KeepsO.next | split | dsimp only | exact Sub.of (by assumption) (by decide)

theorem countFault_keeps (l : Nat) (f : SlotFault) (s : State) {s₀ : State} {W : Nat} (hs : Keeps W s₀ s)
    (hw : Sub 54156 W := by apply Sub.of; assumption; decide) : Keeps W s₀ (countFault l f s) := by
  unfold countFault
  with_reducible
    repeat' first
      | assumption | apply bump_keeps | apply linkError_keeps | apply edgeReject_keeps | split
      | exact Sub.of (by assumption) (by decide)

theorem takeAck_keeps (l : Nat) (x : SlotRx) (s : State) {s₀ : State} {W : Nat} (hs : Keeps W s₀ s)
    (hw : Sub 32768 W := by apply Sub.of; assumption; decide) : Keeps W s₀ (takeAck l x s) := by
  unfold takeAck
  with_reducible
    repeat' first
      | assumption | apply modLink_keeps

theorem schedLost_keeps (l : Nat) (e : SlotEnt) (s : State) {s₀ : State} {W : Nat} (hs : Keeps W s₀ s)
    (hw : Sub 20492 W := by apply Sub.of; assumption; decide) : Keeps W s₀ (schedLost l e s) := by
  unfold schedLost
  with_reducible
    repeat' first
      | assumption | intro _ | apply sendAbort_keeps | apply failFrame_keeps | apply ite_keeps | apply foldl_keeps
      | split | exact Sub.of (by assumption) (by decide)

theorem addPiece_keeps (e : SlotEnt) (empty : Bool) (data : Option Bytes) (s : State) {s₀ : State} {W : Nat} (hs : Keeps W
    s₀ s) (hw : Sub 32768 W := by apply Sub.of; assumption; decide) : Keeps W s₀ (addPiece e empty data s).2 := by
  unfold addPiece
  with_reducible
    repeat' first
      | assumption | apply Keeps.mk_fab

theorem schedArrives_keeps (l : Nat) (e : SlotEnt) (x : Option SlotRx) (s : State) {s₀ : State} {W : Nat} (hs : Keeps W s₀
    s) (hw : Sub 84464574 W := by apply Sub.of; assumption; decide) : Keeps W s₀ (schedArrives l e x s) := by
  unfold schedArrives
  with_reducible
    repeat' first
      | assumption | apply colAdvance_keeps | apply shipArrive_keeps | apply fabricBytes_keeps | apply schedLost_keeps
      | apply addPiece_keeps | apply ite_keeps | split | exact Sub.of (by assumption) (by decide)

theorem forward_keeps (x : SlotRx) (s : State) {s₀ : State} {W : Nat} (hs : Keeps W s₀ s)
    (hw : Sub 33164 W := by apply Sub.of; assumption; decide) : Keeps W s₀ (forward x s) := by
  unfold forward
  with_reducible
    repeat' first
      | assumption | apply bump_keeps | apply rtrEvent_keeps | apply ite_keeps | split | apply Keeps.mk_fab
      | exact Sub.of (by assumption) (by decide)

theorem receiveSched_keeps (l : Nat) (e : SlotEnt) (ok : Bool) (x : SlotRx) (s : State) {s₀ : State} {W : Nat} (hs : Keeps W
    s₀ s) (hw : Sub 84464574 W := by apply Sub.of; assumption; decide) : Keeps W s₀ (receiveSched l e ok x s) := by
  unfold receiveSched
  with_reducible
    repeat' first
      | assumption | apply bump_keeps | apply rtrEvent_keeps | apply schedArrives_keeps | apply forward_keeps
      | apply ite_keeps | exact Sub.of (by assumption) (by decide)

theorem takeOwn_keeps (b : Nat) (f : Flit) (pay : Bytes) (s : State) {s₀ : State} {W : Nat} (hs : Keeps W s₀ s)
    (hw : Sub 8425480 W := by apply Sub.of; assumption; decide) : Keeps W s₀ (takeOwn b f pay s) := by
  unfold takeOwn
  with_reducible
    repeat' first
      | assumption | intro _ | apply outside_keeps | apply homeInput_keeps | apply fabricBytes_keeps | apply ite_keeps
      | apply Keeps.mk_fab | exact Sub.of (by assumption) (by decide)

theorem passOn_keeps (b : Nat) (f : Flit) (n : Nat) (pay : Bytes) (s : State) {s₀ : State} {W : Nat} (hs : Keeps W s₀ s)
    (hw : Sub 8421384 W := by apply Sub.of; assumption; decide) : Keeps W s₀ (passOn b f n pay s) := by
  unfold passOn
  with_reducible
    repeat' first
      | assumption | apply bump_keeps | apply modLink_keeps | apply queueReq_keeps | apply ite_keeps | split
      | exact Sub.of (by assumption) (by decide)

theorem takeFlit_keeps (l : Nat) (s : State) (f : Flit) {s₀ : State} {W : Nat} (hs : Keeps W s₀ s)
    (hw : Sub 8425480 W := by apply Sub.of; assumption; decide) : Keeps W s₀ (takeFlit l s f) := by
  unfold takeFlit
  with_reducible
    repeat' first
      | assumption | apply modLink_keeps | apply takeOwn_keeps | apply passOn_keeps | apply ite_keeps
      | exact Sub.of (by assumption) (by decide)

theorem receiveOpen_keeps (l : Nat) (ok : Bool) (x : SlotRx) (s : State) {s₀ : State} {W : Nat} (hs : Keeps W s₀ s)
    (hw : Sub 8425480 W := by apply Sub.of; assumption; decide) : Keeps W s₀ (receiveOpen l ok x s) := by
  unfold receiveOpen
  with_reducible
    repeat' first
      | assumption | intro _ | apply modLink_keeps | apply takeFlit_keeps | apply ite_keeps | apply foldl_keeps
      | exact Sub.of (by assumption) (by decide)

theorem execSlotReceive_keeps (l : Nat) (rx : SlotRx) (s : State) {s₀ : State} {W : Nat} (hs : Keeps W s₀ s)
    (hw : Sub 92861374 W := by apply Sub.of; assumption; decide) : KeepsO W s₀ (execSlotReceive l rx s) := by
  unfold execSlotReceive
  with_reducible
    repeat' first
      | assumption | apply slotBegins_keeps | apply tick_keeps | apply countFault_keeps | apply takeAck_keeps
      | apply receiveSched_keeps | apply receiveOpen_keeps | apply ite_keeps | apply KeepsO.next | split | dsimp only
      | exact Sub.of (by assumption) (by decide)

theorem execOpenRetryTimeout_keeps (l : Nat) (s : State) {s₀ : State} {W : Nat} (hs : Keeps W s₀ s)
    (hw : Sub 32768 W := by apply Sub.of; assumption; decide) : KeepsO W s₀ (execOpenRetryTimeout l s) := by
  unfold execOpenRetryTimeout
  with_reducible
    repeat' first
      | assumption | apply modLink_keeps | apply ite_keeps | apply KeepsO.next

end Sys2Proof.Machine
end

