-- ==== Sys2Proof/Laws/KeepStartup.lean ====
section
/-!
SUPPORT. The operations of Startup keep the queue, the count of free values and the forms of memory and registers.
-/

set_option Elab.async false

namespace Sys2Proof.Machine

theorem dark_keeps (keeps : Nat → Bool) (s : State) {s₀ : State} {W : Nat} (hs : Keeps W s₀ s)
    (hw : Sub 134217726 W := by apply Sub.of; assumption; decide) : Keeps W s₀ (dark keeps s) := by
  unfold dark
  refine setPstate_keeps _ _ ?_
  exact hs.other hw (fun j => ⟨rfl, rfl, rfl, filter_risesFrom _ j.regs⟩)
    (by intro x hx; cases x <;> first | rfl | exact absurd hx (by decide))

theorem rails_keeps (l : List Nat) (on : Bool) (s : State) {s₀ : State} {W : Nat} (hs : Keeps W s₀ s)
    (hw : Sub 4 W := by apply Sub.of; assumption; decide) : Keeps W s₀ (rails l on s) := by
  unfold rails
  with_reducible
    repeat' first
      | assumption | intro _ | apply emit_keeps | apply foldl_keeps

theorem putDomains_keeps (l : List Nat) (v : Nat) (s : State) {s₀ : State} {W : Nat} (hs : Keeps W s₀ s)
    (hw : Sub 1032 W := by apply Sub.of; assumption; decide) : Keeps W s₀ (putDomains l v s) := by
  unfold putDomains
  with_reducible
    repeat' first
      | assumption | intro _ | apply wr_keeps | apply foldl_keeps | apply Keeps.mk_pwr
      | exact Sub.of (by assumption) (by decide)

theorem quietLink_keeps (v : Nat) (l : Nat) (s : State) {s₀ : State} {W : Nat} (hs : Keeps W s₀ s)
    (hw : Sub 8 W := by apply Sub.of; assumption; decide) : Keeps W s₀ (quietLink v l s) := by
  unfold quietLink
  with_reducible
    repeat' first
      | assumption | apply wr_keeps

theorem leaveTick_keeps (s : State) {s₀ : State} {W : Nat} (hs : Keeps W s₀ s)
    (hw : Sub 16392 W := by apply Sub.of; assumption; decide) : Keeps W s₀ (leaveTick s) := by
  unfold leaveTick
  with_reducible
    repeat' first
      | assumption | apply wr_keeps | apply tick_keeps | apply Keeps.mk_tick | exact Sub.of (by assumption) (by decide)

theorem leaveLinks_keeps (s : State) {s₀ : State} {W : Nat} (hs : Keeps W s₀ s)
    (hw : Sub 33164 W := by apply Sub.of; assumption; decide) : Keeps W s₀ (leaveLinks s) := by
  unfold leaveLinks
  with_reducible
    repeat' first
      | assumption | intro _ | apply leaveService_keeps | apply foldl_keeps

theorem fabricOff_keeps (s : State) {s₀ : State} {W : Nat} (hs : Keeps W s₀ s)
    (hw : Sub 1032 W := by apply Sub.of; assumption; decide) : Keeps W s₀ (fabricOff s) := by
  unfold fabricOff
  with_reducible
    repeat' first
      | assumption | intro _ | apply wr_keeps | apply putDomains_keeps | apply quietLink_keeps | apply ite_keeps
      | apply foldl_keeps | exact Sub.of (by assumption) (by decide)

theorem stacksOff_keeps (s : State) {s₀ : State} {W : Nat} (hs : Keeps W s₀ s)
    (hw : Sub 125812668 W := by apply Sub.of; assumption; decide) : Keeps W s₀ (stacksOff s) := by
  unfold stacksOff
  extract_lets s1 s2 s3 s4
  have h1 : Keeps W s₀ s1 := foldl_keeps hs (fun t x h => endOp_keeps _ _ _ _ h)
  have h2 : Keeps W s₀ s2 := foldl_keeps h1 (fun t x h => ite_keeps (destroyPart_keeps _ _ h) h)
  have h3 : Keeps W s₀ s3 := rails_keeps _ _ _ (putDomains_keeps _ _ _ h2)
  have h4 : Keeps W s₀ s4 := foldl_keeps h3 (fun t x h => wr_keeps _ _ h)
  have h0 : Memory.wf [] = true := rfl
  have hb : tabWf false [] = true := rfl
  have ha : ([] : List Host.Cell).all (fun c => populated c.1) = true := rfl
  clear_value s4
  exact h4.other (M := 68681776) (by apply Sub.of; assumption; decide) (fun j => ⟨h0, ha, hb, j.regs⟩)
    (by intro x hx; cases x <;> first | rfl | exact absurd hx (by decide))

theorem kaolinStops_keeps (s : State) {s₀ : State} {W : Nat} (hs : Keeps W s₀ s)
    (hw : Sub 396 W := by apply Sub.of; assumption; decide) : Keeps W s₀ (kaolinStops s) := by
  unfold kaolinStops
  with_reducible
    repeat' first
      | assumption | apply interruptAll_keeps | apply Keeps.mk_kao | exact Sub.of (by assumption) (by decide)

theorem hubOff_keeps (s : State) {s₀ : State} {W : Nat} (hs : Keeps W s₀ s)
    (hw : Sub 134217726 W := by apply Sub.of; assumption; decide) : Keeps W s₀ (hubOff s) := by
  unfold hubOff
  with_reducible
    repeat' first
      | assumption | apply emit_keeps | apply dark_keeps | apply rails_keeps | apply kaolinStops_keeps
      | exact Sub.of (by assumption) (by decide)

theorem downStart_keeps (s : State) {s₀ : State} {W : Nat} (hs : Keeps W s₀ s)
    (hw : Sub 49548 W := by apply Sub.of; assumption; decide) : Keeps W s₀ (downStart s) := by
  unfold downStart
  with_reducible
    repeat' first
      | assumption | apply leaveTick_keeps | apply leaveLinks_keeps | split | exact Sub.of (by assumption) (by decide)

theorem downArrives_keeps (s : State) {s₀ : State} {W : Nat} (hs : Keeps W s₀ s)
    (hw : Sub 1420 W := by apply Sub.of; assumption; decide) : Keeps W s₀ (downArrives s) := by
  unfold downArrives
  with_reducible
    repeat' first
      | assumption | apply wr_keeps | apply powerOutcome_keeps | exact Sub.of (by assumption) (by decide)

theorem leaveStage_keeps (s : State) {s₀ : State} {W : Nat} (hs : Keeps W s₀ s)
    (hw : Sub 34188 W := by apply Sub.of; assumption; decide) : Keeps W s₀ (leaveStage s) := by
  unfold leaveStage
  with_reducible
    repeat' first
      | assumption | apply rails_keeps | apply leaveLinks_keeps | apply fabricOff_keeps | apply ite_keeps | split
      | apply Keeps.mk_pwr | exact Sub.of (by assumption) (by decide)

theorem beginDown_keeps (target : Nat) (forced : Bool) (s : State) {s₀ : State} {W : Nat} (hs : Keeps W s₀ s)
    (hw : Sub 50572 W := by apply Sub.of; assumption; decide) : Keeps W s₀ (beginDown target forced s) := by
  unfold beginDown
  with_reducible
    repeat' first
      | assumption | apply wrb_keeps | apply wr_keeps | apply setPstate_keeps | apply downStart_keeps
      | apply downArrives_keeps | apply leaveStage_keeps | apply ite_keeps | apply Keeps.mk_pwr
      | exact Sub.of (by assumption) (by decide)

theorem stageFail_keeps (st : Nat) (rail : Nat) (s : State) {s₀ : State} {W : Nat} (hs : Keeps W s₀ s)
    (hw : Sub 55180 W := by apply Sub.of; assumption; decide) : Keeps W s₀ (stageFail st rail s) := by
  unfold stageFail
  with_reducible
    repeat' first
      | assumption | apply wr_keeps | apply bump_keeps | apply pwrEvent_keeps | apply report_keeps
      | apply powerOutcome_keeps | apply beginDown_keeps | exact Sub.of (by assumption) (by decide)

theorem trainFabric_keeps (s : State) {s₀ : State} {W : Nat} (hs : Keeps W s₀ s)
    (hw : Sub 33800 W := by apply Sub.of; assumption; decide) : Keeps W s₀ (trainFabric s) := by
  unfold trainFabric
  with_reducible
    repeat' first
      | assumption | intro _ | apply wrb_keeps | apply wr_keeps | apply startTrain_keeps | apply putDomains_keeps
      | apply quietLink_keeps | apply ite_keeps | apply foldl_keeps | exact Sub.of (by assumption) (by decide)

theorem beginStage_keeps (s : State) {s₀ : State} {W : Nat} (hs : Keeps W s₀ s)
    (hw : Sub 55180 W := by apply Sub.of; assumption; decide) : Keeps W s₀ (beginStage s) := by
  unfold beginStage
  with_reducible
    repeat' first
      | assumption | apply enterTopo_keeps | apply fixedFrequency_keeps | apply rails_keeps | apply stageFail_keeps
      | apply trainFabric_keeps | apply ite_keeps | split | apply Keeps.mk_pwr | exact Sub.of (by assumption) (by decide)

theorem reached_keeps (n : Nat) (s : State) {s₀ : State} {W : Nat} (hs : Keeps W s₀ s)
    (hw : Sub 55180 W := by apply Sub.of; assumption; decide) : Keeps W s₀ (reached n s) := by
  unfold reached
  with_reducible
    repeat' first
      | assumption | apply setPstate_keeps | apply powerOutcome_keeps | apply beginStage_keeps | apply ite_keeps
      | apply Keeps.mk_pwr | exact Sub.of (by assumption) (by decide)

theorem onRequest_keeps (t : Nat) (s : State) {s₀ : State} {W : Nat} (hs : Keeps W s₀ s)
    (hw : Sub 55180 W := by apply Sub.of; assumption; decide) : Keeps W s₀ (onRequest t s) := by
  unfold onRequest
  with_reducible
    repeat' first
      | assumption | apply wr_keeps | apply pwrEvent_keeps | apply powerOutcome_keeps | apply beginDown_keeps
      | apply beginStage_keeps | apply ite_keeps | split | apply Keeps.mk_pwr | exact Sub.of (by assumption) (by decide)

theorem hubUp_keeps (i : Nat) (strap : Nat) (s : State) {s₀ : State} {W : Nat} (hs : Keeps W s₀ s)
    (hw : Sub 67112844 W := by apply Sub.of; assumption; decide) : Keeps W s₀ (hubUp i strap s) := by
  unfold hubUp
  with_reducible
    repeat' first
      | assumption | intro _ | apply wrb_keeps | apply emit_keeps | apply wr_keeps | apply bump_keeps
      | apply pwrEvent_keeps | apply hifEvent_keeps | apply rebuildCatalog_keeps | apply putDomains_keeps
      | apply quietLink_keeps | apply ite_keeps | apply foldl_keeps | apply Keeps.mk_cal_pwr_hif
      | exact Sub.of (by assumption) (by decide)

theorem exitHub_keeps (strap : Nat) (s : State) {s₀ : State} {W : Nat} (hs : Keeps W s₀ s)
    (hw : Sub 67166092 W := by apply Sub.of; assumption; decide) : Keeps W s₀ (exitHub strap s) := by
  unfold exitHub
  with_reducible
    repeat' first
      | assumption | apply stageFail_keeps | apply reached_keeps | apply hubUp_keeps | apply ite_keeps | split
      | exact Sub.of (by assumption) (by decide)

theorem exitStacks_keeps (failed : List (Nat × Nat)) (untrained : List Nat) (s : State) {s₀ : State} {W : Nat} (hs : Keeps W s₀ s) (hw : Sub 1628092 W := by apply Sub.of; assumption; decide) :
    Keeps W s₀ (exitStacks failed untrained s) := by
  unfold exitStacks
  extract_lets s1 s2 s3 s4 s5 s6 s7
  have h1 : Keeps W s₀ s1 := hs.other hw (fun j => ⟨rfl, rfl, rfl, j.regs⟩)
    (by intro x hx; cases x <;> first | rfl | exact absurd hx (by decide))
  have h2 : Keeps W s₀ s2 := putDomains_keeps _ _ _ h1
  have h3 : Keeps W s₀ s3 := foldl_keeps h2 (fun t x h => wrb_keeps _ _ h)
  have h4 : Keeps W s₀ s4 := refreshTier_keeps _ _ (wr_keeps _ _ h3)
  have h5 : Keeps W s₀ s5 := foldl_keeps h4 (fun t x h => report_keeps _ _ _ h)
  have h6 : Keeps W s₀ s6 := ite_keeps h5 (fenceTier2_keeps _ h5)
  exact reached_keeps _ _ (ite_keeps (putDomains_keeps _ _ _ h6) h6)

theorem exitTrain_keeps (s : State) {s₀ : State} {W : Nat} (hs : Keeps W s₀ s)
    (hw : Sub 55180 W := by apply Sub.of; assumption; decide) : Keeps W s₀ (exitTrain s) := by
  unfold exitTrain
  with_reducible
    repeat' first
      | assumption | apply reached_keeps

theorem execPowerStageExit_keeps (strap : Nat) (failed : List (Nat × Nat)) (untrained : List Nat) (s : State) {s₀ : State}
    {W : Nat} (hs : Keeps W s₀ s) (hw : Sub 68739004 W := by apply Sub.of; assumption; decide) : KeepsO W s₀
    (execPowerStageExit strap failed untrained s) := by
  unfold execPowerStageExit
  with_reducible
    repeat' first
      | assumption | apply exitHub_keeps | apply exitStacks_keeps | apply exitTrain_keeps | apply ite_keeps
      | apply KeepsO.next | split | exact Sub.of (by assumption) (by decide)

theorem execTrainWaitExpiry_keeps (s : State) {s₀ : State} {W : Nat} (hs : Keeps W s₀ s)
    (hw : Sub 55180 W := by apply Sub.of; assumption; decide) : KeepsO W s₀ (execTrainWaitExpiry s) := by
  unfold execTrainWaitExpiry
  with_reducible
    repeat' first
      | assumption | apply exitTrain_keeps | apply ite_keeps | apply KeepsO.next

theorem execPowerStageTimeout_keeps (rail : Nat) (s : State) {s₀ : State} {W : Nat} (hs : Keeps W s₀ s)
    (hw : Sub 55180 W := by apply Sub.of; assumption; decide) : KeepsO W s₀ (execPowerStageTimeout rail s) := by
  unfold execPowerStageTimeout
  with_reducible
    repeat' first
      | assumption | apply stageFail_keeps | apply ite_keeps | apply KeepsO.next

theorem downStep_keeps (s : State) {s₀ : State} {W : Nat} (hs : Keeps W s₀ s)
    (hw : Sub 134217726 W := by apply Sub.of; assumption; decide) : Keeps W s₀ (downStep s) := by
  unfold downStep
  with_reducible
    repeat' first
      | assumption | intro _ | apply wr_keeps | apply setPstate_keeps | apply fabricOff_keeps
      | apply stacksOff_keeps | apply hubOff_keeps | split | apply Keeps.mk_pwr | dsimp only
      | exact Sub.of (by assumption) (by decide)

theorem execDownStepDone_keeps (s : State) {s₀ : State} {W : Nat} (hs : Keeps W s₀ s)
    (hw : Sub 134217726 W := by apply Sub.of; assumption; decide) : KeepsO W s₀ (execDownStepDone s) := by
  unfold execDownStepDone
  with_reducible
    repeat' first
      | assumption | apply downStep_keeps | apply mapCheck_keeps | apply downStart_keeps | apply downArrives_keeps
      | apply onRequest_keeps | apply ite_keeps | apply KeepsO.next | split | apply Keeps.mk_pwr | dsimp only
      | exact Sub.of (by assumption) (by decide)

theorem replaceRequest_keeps (s : State) {s₀ : State} {W : Nat} (hs : Keeps W s₀ s)
    (hw : Sub 1420 W := by apply Sub.of; assumption; decide) : Keeps W s₀ (replaceRequest s) := by
  unfold replaceRequest
  with_reducible
    repeat' first
      | assumption | apply powerOutcome_keeps

theorem powerOn_keeps (s : State) {s₀ : State} {W : Nat} (hs : Keeps W s₀ s)
    (hw : Sub 55180 W := by apply Sub.of; assumption; decide) : Keeps W s₀ (powerOn s) := by
  unfold powerOn
  with_reducible
    repeat' first
      | assumption | apply onRequest_keeps | apply replaceRequest_keeps | apply ite_keeps
      | exact Sub.of (by assumption) (by decide)

theorem execPwrEnRise_keeps (s : State) {s₀ : State} {W : Nat} (hs : Keeps W s₀ s)
    (hw : Sub 55180 W := by apply Sub.of; assumption; decide) : KeepsO W s₀ (execPwrEnRise s) := by
  unfold execPwrEnRise
  with_reducible
    repeat' first
      | assumption | apply wr_keeps | apply powerOn_keeps | apply ite_keeps | apply KeepsO.next
      | exact Sub.of (by assumption) (by decide)

theorem forcedOff_keeps (st : Nat) (s : State) {s₀ : State} {W : Nat} (hs : Keeps W s₀ s)
    (hw : Sub 67164044 W := by apply Sub.of; assumption; decide) : Keeps W s₀ (forcedOff st s) := by
  unfold forcedOff
  with_reducible
    repeat' first
      | assumption | intro _ | apply wr_keeps | apply stopAll_keeps | apply pwrEvent_keeps | apply failImage_keeps
      | apply beginDown_keeps | apply replaceRequest_keeps | apply ite_keeps | apply foldl_keeps | apply Keeps.mk_pwr
      | exact Sub.of (by assumption) (by decide)

theorem execPwrEnFall_keeps (s : State) {s₀ : State} {W : Nat} (hs : Keeps W s₀ s)
    (hw : Sub 67164044 W := by apply Sub.of; assumption; decide) : KeepsO W s₀ (execPwrEnFall s) := by
  unfold execPwrEnFall
  with_reducible
    repeat' first
      | assumption | apply wr_keeps | apply forcedOff_keeps | apply ite_keeps | apply KeepsO.next
      | exact Sub.of (by assumption) (by decide)

theorem execResetNAssert_keeps (s : State) {s₀ : State} {W : Nat} (hs : Keeps W s₀ s)
    (hw : Sub 134217726 W := by apply Sub.of; assumption; decide) : KeepsO W s₀ (execResetNAssert s) := by
  unfold execResetNAssert
  with_reducible
    repeat' first
      | assumption | apply emit_keeps | apply wr_keeps | apply dark_keeps | apply rails_keeps | apply KeepsO.ite
      | apply ite_keeps | apply KeepsO.next | apply Keeps.mk_pwr | apply Keeps.mk_kao_hif
      | exact Sub.of (by assumption) (by decide)

theorem execResetNRelease_keeps (s : State) {s₀ : State} {W : Nat} (hs : Keeps W s₀ s)
    (hw : Sub 55180 W := by apply Sub.of; assumption; decide) : KeepsO W s₀ (execResetNRelease s) := by
  unfold execResetNRelease
  with_reducible
    repeat' first
      | assumption | apply powerOn_keeps | apply KeepsO.ite | apply ite_keeps | apply KeepsO.next | apply Keeps.mk_pwr
      | exact Sub.of (by assumption) (by decide)

theorem offState_keeps (s : State) {s₀ : State} {W : Nat} (hs : Keeps W s₀ s)
    (hw : Sub 134217726 W := by apply Sub.of; assumption; decide) : Keeps W s₀ (offState s) := by
  unfold offState
  with_reducible
    repeat' first
      | assumption | apply setPstate_keeps | apply dark_keeps | apply Keeps.mk_pwr | apply Keeps.mk_kao_cal_pwr_hif
      | exact Sub.of (by assumption) (by decide)

theorem execCalicheSupplyOn_keeps (pwrEn : Bool) (s : State) {s₀ : State} {W : Nat} (hs : Keeps W s₀ s)
    (hw : Sub 134217726 W := by apply Sub.of; assumption; decide) : KeepsO W s₀ (execCalicheSupplyOn pwrEn s) := by
  unfold execCalicheSupplyOn
  with_reducible
    repeat' first
      | assumption | apply wr_keeps | apply setPstate_keeps | apply powerOn_keeps | apply offState_keeps
      | apply KeepsO.ite | apply ite_keeps | apply KeepsO.next | apply Keeps.mk_pwr
      | exact Sub.of (by assumption) (by decide)

theorem execCalicheSupplyOff_keeps (s : State) {s₀ : State} {W : Nat} (hs : Keeps W s₀ s)
    (hw : Sub 134217726 W := by apply Sub.of; assumption; decide) : KeepsO W s₀ (execCalicheSupplyOff s) := by
  unfold execCalicheSupplyOff
  with_reducible
    repeat' first
      | assumption | apply offState_keeps | apply KeepsO.next

theorem setFallow_keeps (n : Nat) (s : State) {s₀ : State} {W : Nat} (hs : Keeps W s₀ s)
    (hw : Sub 1032 W := by apply Sub.of; assumption; decide) : Keeps W s₀ (setFallow n s) := by
  unfold setFallow
  with_reducible
    repeat' first
      | assumption | apply wr_keeps | apply refreshTier_keeps | apply ite_keeps | apply Keeps.mk_pwr
      | exact Sub.of (by assumption) (by decide)

theorem cmdDevSetPowerState_keeps (e : Entry) (x1 : HostIo) (s : State) {s₀ : State} {W : Nat} (hs : Keeps W s₀ s)
    (hw : Sub 55180 W := by apply Sub.of; assumption; decide) : Keeps W s₀ (cmdDevSetPowerState e x1 s).st := by
  unfold cmdDevSetPowerState
  with_reducible
    repeat' first
      | assumption | apply refuseCmd_keeps | apply newOp_keeps | apply pendCmd_keeps | apply onRequest_keeps
      | apply replaceRequest_keeps | apply setFallow_keeps | apply ite_keeps | apply ite_keeps_st | apply Keeps.mk_pwr
      | exact Sub.of (by assumption) (by decide)

theorem execDevSetPowerState_keeps (e : Entry) (io : HostIo) (s : State) {s₀ : State} {W : Nat} (hs : Keeps W s₀ s)
    (hw : Sub 55180 W := by apply Sub.of; assumption; decide) : KeepsO W s₀ (execDevSetPowerState e io s) := by
  unfold execDevSetPowerState
  with_reducible
    repeat' first
      | assumption | intro _ | apply runRow_keeps | apply cmdDevSetPowerState_keeps | apply KeepsO.next
      | exact Sub.of (by assumption) (by decide)

theorem raiseRollback_keeps (s : State) {s₀ : State} {W : Nat} (hs : Keeps W s₀ s)
    (hw : Sub 8 W := by apply Sub.of; assumption; decide) : Keeps W s₀ (raiseRollback s) := by
  unfold raiseRollback
  with_reducible
    repeat' first
      | assumption | apply wr_keeps | apply ite_keeps

theorem enterReady_keeps (s : State) {s₀ : State} {W : Nat} (hs : Keeps W s₀ s)
    (hw : Sub 1420 W := by apply Sub.of; assumption; decide) : Keeps W s₀ (enterReady s) := by
  unfold enterReady
  with_reducible
    repeat' first
      | assumption | apply setPstate_keeps | apply powerOutcome_keeps | apply raiseRollback_keeps | apply ite_keeps
      | apply Keeps.mk_pwr | exact Sub.of (by assumption) (by decide)

theorem execTickLocked_keeps (s : State) {s₀ : State} {W : Nat} (hs : Keeps W s₀ s)
    (hw : Sub 1420 W := by apply Sub.of; assumption; decide) : KeepsO W s₀ (execTickLocked s) := by
  unfold execTickLocked
  with_reducible
    repeat' first
      | assumption | apply wr_keeps | apply enterReady_keeps | apply KeepsO.ite | apply ite_keeps | apply KeepsO.next
      | exact Sub.of (by assumption) (by decide)

theorem railFault_keeps (r : Nat) (s : State) {s₀ : State} {W : Nat} (hs : Keeps W s₀ s)
    (hw : Sub 55180 W := by apply Sub.of; assumption; decide) : Keeps W s₀ (railFault r s) := by
  unfold railFault
  with_reducible
    repeat' first
      | assumption | apply report_keeps | apply stageFail_keeps | apply ite_keeps
      | exact Sub.of (by assumption) (by decide)

theorem execPmbusSample_keeps (reads : List RailRead) (s : State) {s₀ : State} {W : Nat} (hs : Keeps W s₀ s)
    (hw : Sub 55180 W := by apply Sub.of; assumption; decide) : KeepsO W s₀ (execPmbusSample reads s) := by
  unfold execPmbusSample
  with_reducible
    repeat' first
      | assumption | intro _ | apply wr_keeps | apply railSample_keeps | apply addEnergy_keeps | apply railFault_keeps
      | apply KeepsO.ite | apply ite_keeps | apply foldl_keeps | apply KeepsO.next | apply Keeps.mk_pwr
      | exact Sub.of (by assumption) (by decide)

theorem execRefclk100Loss_keeps (s : State) {s₀ : State} {W : Nat} (hs : Keeps W s₀ s)
    (hw : Sub 67164044 W := by apply Sub.of; assumption; decide) : KeepsO W s₀ (execRefclk100Loss s) := by
  unfold execRefclk100Loss
  with_reducible
    repeat' first
      | assumption | apply report_keeps | apply forcedOff_keeps | apply KeepsO.ite | apply ite_keeps | apply KeepsO.next
      | exact Sub.of (by assumption) (by decide)

theorem execXtalLoss_keeps (s : State) {s₀ : State} {W : Nat} (hs : Keeps W s₀ s)
    (hw : Sub 8 W := by apply Sub.of; assumption; decide) : KeepsO W s₀ (execXtalLoss s) := by
  unfold execXtalLoss
  with_reducible
    repeat' first
      | assumption | apply wr_keeps | apply KeepsO.next

theorem execXtalReturn_keeps (s : State) {s₀ : State} {W : Nat} (hs : Keeps W s₀ s)
    (hw : Sub 8 W := by apply Sub.of; assumption; decide) : KeepsO W s₀ (execXtalReturn s) := by
  unfold execXtalReturn
  with_reducible
    repeat' first
      | assumption | apply wr_keeps | apply ite_keeps | apply KeepsO.next

theorem thermTrip_keeps (i : Nat) (s : State) {s₀ : State} {W : Nat} (hs : Keeps W s₀ s)
    (hw : Sub 67164044 W := by apply Sub.of; assumption; decide) : Keeps W s₀ (thermTrip i s) := by
  unfold thermTrip
  with_reducible
    repeat' first
      | assumption | apply emit_keeps | apply wr_keeps | apply stopAll_keeps | apply pwrEvent_keeps
      | apply urgentBoth_keeps | apply report_keeps | apply forcedOff_keeps | apply ite_keeps | apply Keeps.mk_pwr
      | exact Sub.of (by assumption) (by decide)

theorem takeTemps_keeps (temps : List Int) (s : State) {s₀ : State} {W : Nat} (hs : Keeps W s₀ s)
    (hw : Sub 8 W := by apply Sub.of; assumption; decide) : Keeps W s₀ (takeTemps temps s) := by
  unfold takeTemps
  with_reducible
    repeat' first
      | assumption | intro _ | apply wr_keeps | apply foldl_keeps
      | exact Sub.of (by assumption) (by decide)

theorem throttlePass_keeps (was : Bool) (s : State) {s₀ : State} {W : Nat} (hs : Keeps W s₀ s)
    (hw : Sub 396 W := by apply Sub.of; assumption; decide) : Keeps W s₀ (throttlePass was s) := by
  unfold throttlePass
  with_reducible
    repeat' first
      | assumption | intro _ | apply bump_keeps | apply pwrEvent_keeps | apply ite_keeps | dsimp only
      | exact Sub.of (by assumption) (by decide)

theorem floorPass_keeps (was : Bool) (s : State) {s₀ : State} {W : Nat} (hs : Keeps W s₀ s)
    (hw : Sub 67164044 W := by apply Sub.of; assumption; decide) : Keeps W s₀ (floorPass was s) := by
  unfold floorPass
  with_reducible
    repeat' first
      | assumption | intro _ | apply pwrEvent_keeps | apply enterFloor_keeps | apply ite_keeps | split | dsimp only
      | exact Sub.of (by assumption) (by decide)

theorem tripPass_keeps (s : State) {s₀ : State} {W : Nat} (hs : Keeps W s₀ s)
    (hw : Sub 67164044 W := by apply Sub.of; assumption; decide) : Keeps W s₀ (tripPass s) := by
  unfold tripPass
  with_reducible
    repeat' first
      | assumption | intro _ | apply thermTrip_keeps | apply ite_keeps | split | dsimp only
      | exact Sub.of (by assumption) (by decide)

theorem execSensorSample_keeps (temps : List Int) (s : State) {s₀ : State} {W : Nat} (hs : Keeps W s₀ s)
    (hw : Sub 67164044 W := by apply Sub.of; assumption; decide) : KeepsO W s₀ (execSensorSample temps s) := by
  unfold execSensorSample
  with_reducible
    repeat' first
      | assumption | intro _ | apply takeTemps_keeps | apply throttlePass_keeps | apply floorPass_keeps | apply tripPass_keeps | apply ite_keeps | apply KeepsO.next | dsimp only
      | exact Sub.of (by assumption) (by decide)

end Sys2Proof.Machine
end

