-- ==== Sys2Proof/Laws/KeepFreeze.lean ====
section
/-!
SUPPORT. The operations of Freeze keep the queue, the count of free values and the forms of memory and registers.
-/

set_option Elab.async false

namespace Sys2Proof.Machine

theorem cmdScrubConfig_keeps (e : Entry) (x1 : HostIo) (s : State) {s₀ : State} {W : Nat} (hs : Keeps W s₀ s)
    (hw : Sub 8 W := by apply Sub.of; assumption; decide) : Keeps W s₀ (cmdScrubConfig e x1 s).st := by
  unfold cmdScrubConfig
  with_reducible
    repeat' first
      | assumption | intro _ | apply wrb_keeps | apply wr_keeps | apply refuseCmd_keeps | apply doneCmd_keeps
      | apply ite_keeps | apply foldl_keeps | split | dsimp only | exact Sub.of (by assumption) (by decide)

theorem execScrubConfig_keeps (e : Entry) (io : HostIo) (s : State) {s₀ : State} {W : Nat} (hs : Keeps W s₀ s)
    (hw : Sub 396 W := by apply Sub.of; assumption; decide) : KeepsO W s₀ (execScrubConfig e io s) := by
  unfold execScrubConfig
  with_reducible
    repeat' first
      | assumption | intro _ | apply runRow_keeps | apply cmdScrubConfig_keeps | apply KeepsO.next
      | exact Sub.of (by assumption) (by decide)

theorem cmdDiagRun_keeps (e : Entry) (x1 : HostIo) (s : State) {s₀ : State} {W : Nat} (hs : Keeps W s₀ s)
    (hw : Sub 128 W := by apply Sub.of; assumption; decide) : Keeps W s₀ (cmdDiagRun e x1 s).st := by
  unfold cmdDiagRun
  with_reducible
    repeat' first
      | assumption | apply refuseCmd_keeps | apply newOp_keeps | apply pendCmd_keeps | apply ite_keeps | split
      | dsimp only | exact Sub.of (by assumption) (by decide)

theorem execDiagRun_keeps (e : Entry) (io : HostIo) (s : State) {s₀ : State} {W : Nat} (hs : Keeps W s₀ s)
    (hw : Sub 396 W := by apply Sub.of; assumption; decide) : KeepsO W s₀ (execDiagRun e io s) := by
  unfold execDiagRun
  with_reducible
    repeat' first
      | assumption | intro _ | apply runRow_keeps | apply cmdDiagRun_keeps | apply KeepsO.next
      | exact Sub.of (by assumption) (by decide)

theorem freezeNow_keeps (s : State) {s₀ : State} {W : Nat} (hs : Keeps W s₀ s)
    (hw : Sub 2184 W := by apply Sub.of; assumption; decide) : Keeps W s₀ (freezeNow s) := by
  unfold freezeNow
  with_reducible
    repeat' first
      | assumption | intro _ | apply wr_keeps | apply orReg_keeps | apply ite_keeps | apply foldl_keeps
      | apply Keeps.mk_kao | apply Keeps.mk_hif | exact Sub.of (by assumption) (by decide)

theorem cmdFreeze_keeps (x1 : Entry) (x2 : HostIo) (s : State) {s₀ : State} {W : Nat} (hs : Keeps W s₀ s)
    (hw : Sub 2184 W := by apply Sub.of; assumption; decide) : Keeps W s₀ (cmdFreeze x1 x2 s).st := by
  unfold cmdFreeze
  with_reducible
    repeat' first
      | assumption | apply refuseCmd_keeps | apply doneCmd_keeps | apply freezeNow_keeps | apply ite_keeps | split
      | exact Sub.of (by assumption) (by decide)

theorem execFreeze_keeps (e : Entry) (io : HostIo) (s : State) {s₀ : State} {W : Nat} (hs : Keeps W s₀ s)
    (hw : Sub 2444 W := by apply Sub.of; assumption; decide) : KeepsO W s₀ (execFreeze e io s) := by
  unfold execFreeze
  with_reducible
    repeat' first
      | assumption | intro _ | apply runRow_keeps | apply cmdFreeze_keeps | apply KeepsO.next
      | exact Sub.of (by assumption) (by decide)

theorem execFreezeNFall_keeps (s : State) {s₀ : State} {W : Nat} (hs : Keeps W s₀ s)
    (hw : Sub 2184 W := by apply Sub.of; assumption; decide) : KeepsO W s₀ (execFreezeNFall s) := by
  unfold execFreezeNFall
  with_reducible
    repeat' first
      | assumption | apply wr_keeps | apply freezeNow_keeps | apply ite_keeps | apply KeepsO.next
      | exact Sub.of (by assumption) (by decide)

theorem freezeStop_keeps (p : Nat) (s : State) {s₀ : State} {W : Nat} (hs : Keeps W s₀ s)
    (hw : Sub 111710652 W := by apply Sub.of; assumption; decide) : Keeps W s₀ (freezeStop p s) := by
  unfold freezeStop
  with_reducible
    repeat' first
      | assumption | apply stopNow_keeps | apply dropStaged_keeps | apply ite_keeps
      | exact Sub.of (by assumption) (by decide)

theorem dropFrames_keeps (s : State) {s₀ : State} {W : Nat} (hs : Keeps W s₀ s)
    (hw : Sub 17866752 W := by apply Sub.of; assumption; decide) : Keeps W s₀ (dropFrames s) := by
  unfold dropFrames
  with_reducible
    repeat' first
      | assumption | apply Keeps.mk_ctxs_fab_arf_coll

theorem retrainAll_keeps (s : State) {s₀ : State} {W : Nat} (hs : Keeps W s₀ s)
    (hw : Sub 50572 W := by apply Sub.of; assumption; decide) : Keeps W s₀ (retrainAll s) := by
  unfold retrainAll
  with_reducible
    repeat' first
      | assumption | intro _ | apply wr_keeps | apply setPstate_keeps | apply leaveService_keeps | apply leaveTick_keeps
      | apply trainFabric_keeps | apply foldl_keeps | apply Keeps.mk_pwr | exact Sub.of (by assumption) (by decide)

theorem freezeLoads_keeps (s : State) {s₀ : State} {W : Nat} (hs : Keeps W s₀ s)
    (hw : Sub 34079164 W := by apply Sub.of; assumption; decide) : Keeps W s₀ (freezeLoads s) := by
  unfold freezeLoads
  with_reducible
    repeat' first
      | assumption | intro _ | apply modWts_keeps | apply shardFail_keeps | apply foldl_keeps
      | exact Sub.of (by assumption) (by decide)

theorem releaseNow_keeps (s : State) {s₀ : State} {W : Nat} (hs : Keeps W s₀ s)
    (hw : Sub 129562556 W := by apply Sub.of; assumption; decide) : Keeps W s₀ (releaseNow s) := by
  unfold releaseNow
  with_reducible
    repeat' first
      | assumption | intro _ | apply wr_keeps | apply collectLatches_keeps | apply interruptAll_keeps
      | apply failImage_keeps | apply endOp_keeps | apply freezeStop_keeps | apply dropFrames_keeps
      | apply retrainAll_keeps | apply freezeLoads_keeps | apply foldl_keeps | apply Keeps.mk_pwr
      | exact Sub.of (by assumption) (by decide)

theorem cmdClockRelease_keeps (x1 : Entry) (x2 : HostIo) (s : State) {s₀ : State} {W : Nat} (hs : Keeps W s₀ s)
    (hw : Sub 129562556 W := by apply Sub.of; assumption; decide) : Keeps W s₀ (cmdClockRelease x1 x2 s).st := by
  unfold cmdClockRelease
  with_reducible
    repeat' first
      | assumption | apply refuseCmd_keeps | apply doneCmd_keeps | apply releaseNow_keeps | apply ite_keeps | split
      | exact Sub.of (by assumption) (by decide)

theorem execClockRelease_keeps (e : Entry) (io : HostIo) (freezeN : Bool) (s : State) {s₀ : State} {W : Nat} (hs : Keeps W
    s₀ s) (hw : Sub 129562556 W := by apply Sub.of; assumption; decide) : KeepsO W s₀ (execClockRelease e io freezeN s) :=
    by
  unfold execClockRelease
  with_reducible
    repeat' first
      | assumption | intro _ | apply wrb_keeps | apply runRow_keeps | apply cmdClockRelease_keeps | apply KeepsO.next
      | exact Sub.of (by assumption) (by decide)

theorem drawBits_keeps (n : Nat) (s : State) {s₀ : State} {W : Nat} (hs : Keeps W s₀ s) (hw : Sub 2 W := by apply Sub.of; assumption; decide) : Keeps W s₀ (drawBits n s).2 :=
  hs.step hw rfl (Nat.le_add_right _ _) (fun j => ⟨j.mem, j.holes, j.bad, j.regs⟩)
    (by intro x hx; cases x <;> first | rfl | exact absurd hx (by decide))

theorem cmdScanRead_keeps (e : Entry) (x1 : HostIo) (s : State) {s₀ : State} {W : Nat} (hs : Keeps W s₀ s)
    (hw : Sub 2 W := by apply Sub.of; assumption; decide) : Keeps W s₀ (cmdScanRead e x1 s).st := by
  unfold cmdScanRead
  with_reducible
    repeat' first
      | assumption | apply refuseCmd_keeps | apply drawBits_keeps | apply ite_keeps | split
      | exact Sub.of (by assumption) (by decide)

theorem execScanRead_keeps (e : Entry) (io : HostIo) (s : State) {s₀ : State} {W : Nat} (hs : Keeps W s₀ s)
    (hw : Sub 398 W := by apply Sub.of; assumption; decide) : KeepsO W s₀ (execScanRead e io s) := by
  unfold execScanRead
  with_reducible
    repeat' first
      | assumption | intro _ | apply runRow_keeps | apply cmdScanRead_keeps | apply KeepsO.next
      | exact Sub.of (by assumption) (by decide)

theorem jtagBypass_keeps (tdi : List Bool) (s : State) {s₀ : State} {W : Nat} (hs : Keeps W s₀ s)
    (hw : Sub 2052 W := by apply Sub.of; assumption; decide) : Keeps W s₀ (jtagBypass tdi s) := by
  unfold jtagBypass
  with_reducible
    repeat' first
      | assumption | apply emit_keeps | apply Keeps.mk_hif | exact Sub.of (by assumption) (by decide)

theorem jtagRow_keeps (ok : Bool) (tdi : List Bool) (f : State → State) (s : State) {s₀ : State} {W : Nat} (hs : Keeps W s₀
    s) (hf : ∀ y0, Keeps W s₀ y0 → Keeps W s₀ (f y0)) (hw : Sub 2052 W := by apply Sub.of; assumption; decide) : KeepsO W s₀
    (jtagRow ok tdi f s) := by
  unfold jtagRow
  with_reducible
    repeat' first
      | assumption | apply hf | apply jtagBypass_keeps | apply ite_keeps | apply KeepsO.next

theorem setIr_keeps (i : JtagIr) (s : State) {s₀ : State} {W : Nat} (hs : Keeps W s₀ s)
    (hw : Sub 2048 W := by apply Sub.of; assumption; decide) : Keeps W s₀ (setIr i s) := by
  unfold setIr
  with_reducible
    repeat' first
      | assumption | apply Keeps.mk_hif

theorem execTrstNAssert_keeps (s : State) {s₀ : State} {W : Nat} (hs : Keeps W s₀ s)
    (hw : Sub 2048 W := by apply Sub.of; assumption; decide) : KeepsO W s₀ (execTrstNAssert s) := by
  unfold execTrstNAssert
  with_reducible
    repeat' first
      | assumption | apply KeepsO.next | apply Keeps.mk_hif

theorem execJtagBypass_keeps (tdi : List Bool) (s : State) {s₀ : State} {W : Nat} (hs : Keeps W s₀ s) (hw : Sub 2052 W := by apply Sub.of; assumption; decide) : KeepsO W s₀ (execJtagBypass tdi s) :=
  jtagRow_keeps _ _ _ _ hs (fun _ h => h)

theorem execJtagIdcode_keeps (tdi : List Bool) (s : State) {s₀ : State} {W : Nat} (hs : Keeps W s₀ s)
    (hw : Sub 2052 W := by apply Sub.of; assumption; decide) : KeepsO W s₀ (execJtagIdcode tdi s) := by
  unfold execJtagIdcode
  with_reducible
    repeat' first
      | assumption | intro _ | apply emit_keeps | apply jtagRow_keeps | apply setIr_keeps | apply KeepsO.next
      | exact Sub.of (by assumption) (by decide)

theorem boundaryScan_keeps (i : JtagIr) (tdi : List Bool) (s : State) {s₀ : State} {W : Nat} (hs : Keeps W s₀ s)
    (hw : Sub 2054 W := by apply Sub.of; assumption; decide) : Keeps W s₀ (boundaryScan i tdi s) := by
  unfold boundaryScan
  with_reducible
    repeat' first
      | assumption | apply emit_keeps | apply drawBits_keeps | apply Keeps.mk_hif
      | exact Sub.of (by assumption) (by decide)

theorem execJtagSamplePreload_keeps (tdi : List Bool) (s : State) {s₀ : State} {W : Nat} (hs : Keeps W s₀ s)
    (hw : Sub 2054 W := by apply Sub.of; assumption; decide) : KeepsO W s₀ (execJtagSamplePreload tdi s) := by
  unfold execJtagSamplePreload
  with_reducible
    repeat' first
      | assumption | intro _ | apply jtagRow_keeps | apply boundaryScan_keeps | apply KeepsO.next
      | exact Sub.of (by assumption) (by decide)

theorem execJtagExtest_keeps (tdi : List Bool) (s : State) {s₀ : State} {W : Nat} (hs : Keeps W s₀ s)
    (hw : Sub 2054 W := by apply Sub.of; assumption; decide) : KeepsO W s₀ (execJtagExtest tdi s) := by
  unfold execJtagExtest
  with_reducible
    repeat' first
      | assumption | intro _ | apply jtagRow_keeps | apply boundaryScan_keeps | apply KeepsO.next
      | exact Sub.of (by assumption) (by decide)

theorem execJtagClamp_keeps (tdi : List Bool) (s : State) {s₀ : State} {W : Nat} (hs : Keeps W s₀ s)
    (hw : Sub 2052 W := by apply Sub.of; assumption; decide) : KeepsO W s₀ (execJtagClamp tdi s) := by
  unfold execJtagClamp
  with_reducible
    repeat' first
      | assumption | intro _ | apply jtagBypass_keeps | apply jtagRow_keeps | apply setIr_keeps | apply KeepsO.next
      | exact Sub.of (by assumption) (by decide)

theorem execJtagHighz_keeps (tdi : List Bool) (s : State) {s₀ : State} {W : Nat} (hs : Keeps W s₀ s)
    (hw : Sub 2052 W := by apply Sub.of; assumption; decide) : KeepsO W s₀ (execJtagHighz tdi s) := by
  unfold execJtagHighz
  with_reducible
    repeat' first
      | assumption | intro _ | apply jtagBypass_keeps | apply jtagRow_keeps | apply setIr_keeps | apply KeepsO.next
      | exact Sub.of (by assumption) (by decide)

theorem execScanSel_keeps (chain : Nat) (s : State) {s₀ : State} {W : Nat} (hs : Keeps W s₀ s)
    (hw : Sub 2052 W := by apply Sub.of; assumption; decide) : KeepsO W s₀ (execScanSel chain s) := by
  unfold execScanSel
  with_reducible
    repeat' first
      | assumption | intro _ | apply jtagRow_keeps | apply KeepsO.next | apply Keeps.mk_hif
      | exact Sub.of (by assumption) (by decide)

theorem execScanShift_keeps (tdi : List Bool) (s : State) {s₀ : State} {W : Nat} (hs : Keeps W s₀ s)
    (hw : Sub 2054 W := by apply Sub.of; assumption; decide) : KeepsO W s₀ (execScanShift tdi s) := by
  unfold execScanShift
  with_reducible
    repeat' first
      | assumption | intro _ | apply emit_keeps | apply drawBits_keeps | apply jtagRow_keeps | apply KeepsO.next
      | apply Keeps.mk_hif | exact Sub.of (by assumption) (by decide)

end Sys2Proof.Machine
end

