-- ==== Sys2Proof/Laws/KeepHosts.lean ====
section
/-!
SUPPORT. The operations of Hosts keep the queue, the count of free values and the forms of memory and registers.
-/

set_option Elab.async false

namespace Sys2Proof.Machine

theorem portChange_keeps (n : Nat) (s : State) {s₀ : State} {W : Nat} (hs : Keeps W s₀ s)
    (hw : Sub 396 W := by apply Sub.of; assumption; decide) : Keeps W s₀ (portChange n s) := by
  unfold portChange
  with_reducible
    repeat' first
      | assumption | apply orReg_keeps | apply raiseBit_keeps | exact Sub.of (by assumption) (by decide)

theorem setLtssm_keeps (n : Nat) (v : Nat) (s : State) {s₀ : State} {W : Nat} (hs : Keeps W s₀ s)
    (hw : Sub 396 W := by apply Sub.of; assumption; decide) : Keeps W s₀ (setLtssm n v s) := by
  unfold setLtssm
  with_reducible
    repeat' first
      | assumption | intro _ | apply wr_keeps | apply bump_keeps | apply msix_keeps | apply urgent_keeps
      | apply portChange_keeps | apply ite_keeps | apply foldl_keeps | apply Keeps.mk_kao
      | exact Sub.of (by assumption) (by decide)

theorem execHostPortL0Change_keeps (x : Nat) (ltssm : Nat) (rate : Nat) (width : Nat) (flit : Bool) (s : State) {s₀ : State}
    {W : Nat} (hs : Keeps W s₀ s) (hw : Sub 396 W := by apply Sub.of; assumption; decide) : KeepsO W s₀
    (execHostPortL0Change x ltssm rate width flit s) := by
  unfold execHostPortL0Change
  with_reducible
    repeat' first
      | assumption | apply wrb_keeps | apply wr_keeps | apply setLtssm_keeps | apply KeepsO.ite | apply ite_keeps
      | apply KeepsO.next | exact Sub.of (by assumption) (by decide)

theorem endSessions_keeps (f : SpdmSession → Bool) (s : State) {s₀ : State} {W : Nat} (hs : Keeps W s₀ s)
    (hw : Sub 33554440 W := by apply Sub.of; assumption; decide) : Keeps W s₀ (endSessions f s) := by
  unfold endSessions
  with_reducible
    repeat' first
      | assumption | apply wr_keeps | apply Keeps.mk_wts | exact Sub.of (by assumption) (by decide)

theorem showIde_keeps (x : Nat) (s : State) {s₀ : State} {W : Nat} (hs : Keeps W s₀ s)
    (hw : Sub 8 W := by apply Sub.of; assumption; decide) : Keeps W s₀ (showIde x s) := by
  unfold showIde
  with_reducible
    repeat' first
      | assumption | apply wrb_keeps

theorem execIdeStreamInsecure_keeps (x : Nat) (stream : Nat) (s : State) {s₀ : State} {W : Nat} (hs : Keeps W s₀ s)
    (hw : Sub 2444 W := by apply Sub.of; assumption; decide) : KeepsO W s₀ (execIdeStreamInsecure x stream s) := by
  unfold execIdeStreamInsecure
  with_reducible
    repeat' first
      | assumption | apply bump_keeps | apply hifEvent_keeps | apply showIde_keeps | apply KeepsO.ite | apply ite_keeps
      | apply KeepsO.next | apply Keeps.mk_hif | exact Sub.of (by assumption) (by decide)

theorem execIdeKmRequest_keeps (x : Nat) (session : Nat) (stream : Nat) (s : State) {s₀ : State} {W : Nat} (hs : Keeps W s₀
    s) (hw : Sub 2060 W := by apply Sub.of; assumption; decide) : KeepsO W s₀ (execIdeKmRequest x session stream s) := by
  unfold execIdeKmRequest
  with_reducible
    repeat' first
      | assumption | apply emit_keeps | apply showIde_keeps | apply KeepsO.ite | apply ite_keeps | apply KeepsO.next
      | apply Keeps.mk_hif | exact Sub.of (by assumption) (by decide)

theorem measurement_keeps (i : Nat) (s : State) {s₀ : State} {W : Nat} (hs : Keeps W s₀ s)
    (hw : Sub 2 W := by apply Sub.of; assumption; decide) : Keeps W s₀ (measurement i s).2 := by
  unfold measurement
  with_reducible
    repeat' first
      | assumption | apply drawBytes_keeps | apply ite_keeps | split

theorem execSpdmRequest_keeps (r : SpdmReq) (s : State) {s₀ : State} {W : Nat} (hs : Keeps W s₀ s)
    (hw : Sub 33554446 W := by apply Sub.of; assumption; decide) : KeepsO W s₀ (execSpdmRequest r s) := by
  unfold execSpdmRequest
  with_reducible
    repeat' first
      | assumption | apply emit_keeps | apply drawBytes_keeps | apply wr_keeps | apply endSessions_keeps
      | apply measurement_keeps | apply ite_keeps | apply KeepsO.next | split | apply Keeps.mk_wts
      | exact Sub.of (by assumption) (by decide)

theorem resetPort_keeps (x : Nat) (s : State) {s₀ : State} {W : Nat} (hs : Keeps W s₀ s)
    (hw : Sub 33556872 W := by apply Sub.of; assumption; decide) : Keeps W s₀ (resetPort x s) := by
  unfold resetPort
  with_reducible
    repeat' first
      | assumption | intro _ | apply wr_keeps | apply resetMbox_keeps | apply resetVf_keeps | apply endSessions_keeps
      | apply showIde_keeps | apply ite_keeps | apply foldl_keeps | apply Keeps.mk_hif
      | exact Sub.of (by assumption) (by decide)

theorem execHostHotReset_keeps (x : Nat) (s : State) {s₀ : State} {W : Nat} (hs : Keeps W s₀ s)
    (hw : Sub 33556876 W := by apply Sub.of; assumption; decide) : KeepsO W s₀ (execHostHotReset x s) := by
  unfold execHostHotReset
  with_reducible
    repeat' first
      | assumption | apply setLtssm_keeps | apply resetPort_keeps | apply ite_keeps | apply KeepsO.next
      | exact Sub.of (by assumption) (by decide)

theorem execPfFlr_keeps (x : Nat) (s : State) {s₀ : State} {W : Nat} (hs : Keeps W s₀ s)
    (hw : Sub 33556872 W := by apply Sub.of; assumption; decide) : KeepsO W s₀ (execPfFlr x s) := by
  unfold execPfFlr
  with_reducible
    repeat' first
      | assumption | apply resetPort_keeps | apply ite_keeps | apply KeepsO.next

theorem execVfFlr_keeps (p : Nat) (s : State) {s₀ : State} {W : Nat} (hs : Keeps W s₀ s)
    (hw : Sub 2432 W := by apply Sub.of; assumption; decide) : KeepsO W s₀ (execVfFlr p s) := by
  unfold execVfFlr
  with_reducible
    repeat' first
      | assumption | apply resetVf_keeps | apply ite_keeps | apply KeepsO.next

theorem execVfEnableChange_keeps (x : Nat) (on : Bool) (s : State) {s₀ : State} {W : Nat} (hs : Keeps W s₀ s)
    (hw : Sub 2048 W := by apply Sub.of; assumption; decide) : KeepsO W s₀ (execVfEnableChange x on s) := by
  unfold execVfEnableChange
  with_reducible
    repeat' first
      | assumption | apply KeepsO.ite | apply ite_keeps | apply foldl_keeps | apply KeepsO.next | apply Keeps.mk_hif

theorem execBusMasterEnableChange_keeps (fn : Nat) (on : Bool) (s : State) {s₀ : State} {W : Nat} (hs : Keeps W s₀ s)
    (hw : Sub 2056 W := by apply Sub.of; assumption; decide) : KeepsO W s₀ (execBusMasterEnableChange fn on s) := by
  unfold execBusMasterEnableChange
  with_reducible
    repeat' first
      | assumption | apply wrb_keeps | apply KeepsO.ite | apply ite_keeps | apply KeepsO.next | apply Keeps.mk_hif
      | exact Sub.of (by assumption) (by decide)

theorem execHostBarRequest_keeps (x : Nat) (k : BarError) (s : State) {s₀ : State} {W : Nat} (hs : Keeps W s₀ s)
    (hw : Sub 4 W := by apply Sub.of; assumption; decide) : KeepsO W s₀ (execHostBarRequest x k s) := by
  unfold execHostBarRequest
  with_reducible
    repeat' first
      | assumption | apply emit_keeps | apply ite_keeps | apply KeepsO.next | split

theorem portError_keeps (x : Nat) (k : PortError) (s : State) {s₀ : State} {W : Nat} (hs : Keeps W s₀ s)
    (hw : Sub 396 W := by apply Sub.of; assumption; decide) : Keeps W s₀ (portError x k s) := by
  unfold portError
  with_reducible
    repeat' first
      | assumption | apply bump_keeps | apply hifEvent_keeps | split | exact Sub.of (by assumption) (by decide)

theorem failLoads_keeps (src : Nat) (s : State) {s₀ : State} {W : Nat} (hs : Keeps W s₀ s)
    (hw : Sub 34079164 W := by apply Sub.of; assumption; decide) : Keeps W s₀ (failLoads src s) := by
  unfold failLoads
  with_reducible
    repeat' first
      | assumption | intro _ | apply modWts_keeps | apply cryEvent_keeps | apply shardFail_keeps | apply foldl_keeps
      | exact Sub.of (by assumption) (by decide)

theorem loseDrive_keeps (x : Nat) (s : State) {s₀ : State} {W : Nat} (hs : Keeps W s₀ s)
    (hw : Sub 101225404 W := by apply Sub.of; assumption; decide) : Keeps W s₀ (loseDrive x s) := by
  unfold loseDrive
  with_reducible
    repeat' first
      | assumption | apply wr_keeps | apply bump_keeps | apply failMedium_keeps | apply portChange_keeps
      | apply failLoads_keeps | apply ite_keeps | exact Sub.of (by assumption) (by decide)

theorem execNvmeDriveLoss_keeps (x : Nat) (s : State) {s₀ : State} {W : Nat} (hs : Keeps W s₀ s)
    (hw : Sub 101225404 W := by apply Sub.of; assumption; decide) : KeepsO W s₀ (execNvmeDriveLoss x s) := by
  unfold execNvmeDriveLoss
  with_reducible
    repeat' first
      | assumption | apply loseDrive_keeps | apply ite_keeps | apply KeepsO.next

theorem rebuildPort_keeps (medium : Nat) (s : State) {s₀ : State} {W : Nat} (hs : Keeps W s₀ s)
    (hw : Sub 67108872 W := by apply Sub.of; assumption; decide) : Keeps W s₀ (rebuildPort medium s) := by
  unfold rebuildPort
  with_reducible
    repeat' first
      | assumption | apply modSrv_keeps | apply showSess_keeps | exact Sub.of (by assumption) (by decide)

theorem execNvmeDriveReturn_keeps (x : Nat) (s : State) {s₀ : State} {W : Nat} (hs : Keeps W s₀ s)
    (hw : Sub 67109260 W := by apply Sub.of; assumption; decide) : KeepsO W s₀ (execNvmeDriveReturn x s) := by
  unfold execNvmeDriveReturn
  with_reducible
    repeat' first
      | assumption | apply wr_keeps | apply portChange_keeps | apply rebuildPort_keeps | apply KeepsO.ite
      | apply ite_keeps | apply KeepsO.next | exact Sub.of (by assumption) (by decide)

theorem execMgmtLinkChange_keeps (up : Bool) (s : State) {s₀ : State} {W : Nat} (hs : Keeps W s₀ s)
    (hw : Sub 396 W := by apply Sub.of; assumption; decide) : KeepsO W s₀ (execMgmtLinkChange up s) := by
  unfold execMgmtLinkChange
  with_reducible
    repeat' first
      | assumption | apply wrb_keeps | apply hifEvent_keeps | apply KeepsO.ite | apply ite_keeps | apply KeepsO.next
      | exact Sub.of (by assumption) (by decide)

theorem execMgmtIcmpv6Packet_keeps (type : Nat) (slaac : Bool) (body : Bytes) (s : State) {s₀ : State} {W : Nat} (hs : Keeps
    W s₀ s) (hw : Sub 12 W := by apply Sub.of; assumption; decide) : KeepsO W s₀ (execMgmtIcmpv6Packet type slaac body s) :=
    by
  unfold execMgmtIcmpv6Packet
  with_reducible
    repeat' first
      | assumption | apply emit_keeps | apply wr_keeps | apply KeepsO.ite | apply ite_keeps | apply KeepsO.next
      | exact Sub.of (by assumption) (by decide)

theorem execI3cSetdasa_keeps (dyn : Nat) (s : State) {s₀ : State} {W : Nat} (hs : Keeps W s₀ s)
    (hw : Sub 2048 W := by apply Sub.of; assumption; decide) : KeepsO W s₀ (execI3cSetdasa dyn s) := by
  unfold execI3cSetdasa
  with_reducible
    repeat' first
      | assumption | apply ite_keeps | apply KeepsO.next | apply Keeps.mk_hif

theorem execMctpControlRequest_keeps (r : MctpReq) (s : State) {s₀ : State} {W : Nat} (hs : Keeps W s₀ s)
    (hw : Sub 2054 W := by apply Sub.of; assumption; decide) : KeepsO W s₀ (execMctpControlRequest r s) := by
  unfold execMctpControlRequest
  with_reducible
    repeat' first
      | assumption | apply emit_keeps | apply drawBytes_keeps | apply ite_keeps | apply KeepsO.next | split
      | apply Keeps.mk_hif | exact Sub.of (by assumption) (by decide)

theorem execPldmRequest_keeps (r : PldmReq) (s : State) {s₀ : State} {W : Nat} (hs : Keeps W s₀ s)
    (hw : Sub 6 W := by apply Sub.of; assumption; decide) : KeepsO W s₀ (execPldmRequest r s) := by
  unfold execPldmRequest
  with_reducible
    repeat' first
      | assumption | apply emit_keeps | apply drawBytes_keeps | apply ite_keeps | apply KeepsO.next | split
      | exact Sub.of (by assumption) (by decide)

theorem execPldmFirmwareUpdate_keeps (t : FwTarget) (img : FwImage) (s : State) {s₀ : State} {W : Nat} (hs : Keeps W s₀ s)
    (hw : Sub 2056 W := by apply Sub.of; assumption; decide) : KeepsO W s₀ (execPldmFirmwareUpdate t img s) := by
  unfold execPldmFirmwareUpdate
  with_reducible
    repeat' first
      | assumption | apply wr_keeps | apply ite_keeps | apply KeepsO.next | split | apply Keeps.mk_hif
      | exact Sub.of (by assumption) (by decide)

theorem execSerdesRefLoss_keeps (n : Nat) (s : State) {s₀ : State} {W : Nat} (hs : Keeps W s₀ s)
    (hw : Sub 101226428 W := by apply Sub.of; assumption; decide) : KeepsO W s₀ (execSerdesRefLoss n s) := by
  unfold execSerdesRefLoss
  with_reducible
    repeat' first
      | assumption | intro _ | apply wr_keeps | apply leaveService_keeps | apply trainFault_keeps | apply setLtssm_keeps
      | apply loseDrive_keeps | apply KeepsO.ite | apply ite_keeps | apply foldl_keeps | apply KeepsO.next
      | apply Keeps.mk_pwr | exact Sub.of (by assumption) (by decide)

theorem execSerdesRefReturn_keeps (n : Nat) (s : State) {s₀ : State} {W : Nat} (hs : Keeps W s₀ s)
    (hw : Sub 1032 W := by apply Sub.of; assumption; decide) : KeepsO W s₀ (execSerdesRefReturn n s) := by
  unfold execSerdesRefReturn
  with_reducible
    repeat' first
      | assumption | apply wrb_keeps | apply KeepsO.ite | apply ite_keeps | apply KeepsO.next | apply Keeps.mk_pwr
      | exact Sub.of (by assumption) (by decide)

end Sys2Proof.Machine
end

