-- ==== Sys2Proof/Laws/KeepElect.lean ====
section
/-!
SUPPORT. The operations of Elect keep the queue, the count of free values and the forms of memory and registers.
-/

set_option Elab.async false

namespace Sys2Proof.Machine

theorem floodCandidate_keeps (s : State) {s₀ : State} {W : Nat} (hs : Keeps W s₀ s)
    (hw : Sub 32780 W := by apply Sub.of; assumption; decide) : Keeps W s₀ (floodCandidate s) := by
  unfold floodCandidate
  with_reducible
    repeat' first
      | assumption | intro _ | apply sendCtl_keeps | apply foldl_keeps

theorem execElectListenExpiry_keeps (s : State) {s₀ : State} {W : Nat} (hs : Keeps W s₀ s)
    (hw : Sub 49164 W := by apply Sub.of; assumption; decide) : KeepsO W s₀ (execElectListenExpiry s) := by
  unfold execElectListenExpiry
  with_reducible
    repeat' first
      | assumption | apply tick_keeps | apply floodCandidate_keeps | apply KeepsO.ite | apply ite_keeps
      | apply KeepsO.next | apply Keeps.mk_tick | exact Sub.of (by assumption) (by decide)

theorem execCandidateFloodTimer_keeps (s : State) {s₀ : State} {W : Nat} (hs : Keeps W s₀ s)
    (hw : Sub 32780 W := by apply Sub.of; assumption; decide) : KeepsO W s₀ (execCandidateFloodTimer s) := by
  unfold execCandidateFloodTimer
  with_reducible
    repeat' first
      | assumption | apply tick_keeps | apply floodCandidate_keeps | apply ite_keeps | apply KeepsO.next

theorem applyCandidate_keeps (c : Candidate) (s : State) {s₀ : State} {W : Nat} (hs : Keeps W s₀ s)
    (hw : Sub 16384 W := by apply Sub.of; assumption; decide) : Keeps W s₀ (applyCandidate c s).2 := by
  unfold applyCandidate
  with_reducible
    repeat' first
      | assumption | apply tick_keeps | apply ite_keeps | split | apply Keeps.mk_tick

theorem execCandidate_keeps (h : CtlHdr) (c : Candidate) (s : State) {s₀ : State} {W : Nat} (hs : Keeps W s₀ s)
    (hw : Sub 49548 W := by apply Sub.of; assumption; decide) : KeepsO W s₀ (execCandidate h c s) := by
  unfold execCandidate
  with_reducible
    repeat' first
      | assumption | intro _ | apply applyCtl_keeps | apply applyCandidate_keeps | apply KeepsO.next
      | exact Sub.of (by assumption) (by decide)

theorem becomeMaster_keeps (l : List Candidate) (s : State) {s₀ : State} {W : Nat} (hs : Keeps W s₀ s)
    (hw : Sub 16392 W := by apply Sub.of; assumption; decide) : Keeps W s₀ (becomeMaster l s) := by
  unfold becomeMaster
  with_reducible
    repeat' first
      | assumption | apply wr_keeps | apply electStandby_keeps | apply tick_keeps | apply ite_keeps | apply foldl_keeps
      | apply Keeps.mk_tick | exact Sub.of (by assumption) (by decide)

theorem execElectionClose_keeps (s : State) {s₀ : State} {W : Nat} (hs : Keeps W s₀ s)
    (hw : Sub 17804 W := by apply Sub.of; assumption; decide) : KeepsO W s₀ (execElectionClose s) := by
  unfold execElectionClose
  with_reducible
    repeat' first
      | assumption | apply pwrEvent_keeps | apply powerOutcome_keeps | apply tick_keeps | apply becomeMaster_keeps
      | apply ite_keeps | apply KeepsO.next | split | apply Keeps.mk_tick | dsimp only
      | exact Sub.of (by assumption) (by decide)

theorem applyJoin_keeps (h : CtlHdr) (elig : Bool) (prio : Nat) (tray : Nat) (s : State) {s₀ : State} {W : Nat} (hs : Keeps
    W s₀ s) (hw : Sub 16392 W := by apply Sub.of; assumption; decide) : Keeps W s₀ (applyJoin h elig prio tray s).2 := by
  unfold applyJoin
  with_reducible
    repeat' first
      | assumption | apply electStandby_keeps | apply tick_keeps | apply ite_keeps | split | apply Keeps.mk_tick
      | exact Sub.of (by assumption) (by decide)

theorem execCtlJoin_keeps (h : CtlHdr) (elig : Bool) (prio : Nat) (tray : Nat) (s : State) {s₀ : State} {W : Nat} (hs :
    Keeps W s₀ s) (hw : Sub 49548 W := by apply Sub.of; assumption; decide) : KeepsO W s₀ (execCtlJoin h elig prio tray s)
    := by
  unfold execCtlJoin
  with_reducible
    repeat' first
      | assumption | intro _ | apply applyCtl_keeps | apply applyJoin_keeps | apply KeepsO.next
      | exact Sub.of (by assumption) (by decide)

theorem applyAck_keeps (h : CtlHdr) (st : Nat) (s : State) {s₀ : State} {W : Nat} (hs : Keeps W s₀ s)
    (hw : Sub 67145728 W := by apply Sub.of; assumption; decide) : Keeps W s₀ (applyAck h st s) := by
  unfold applyAck
  with_reducible
    repeat' first
      | assumption | apply answered_keeps | apply assignFailed_keeps | apply goAcked_keeps | apply ite_keeps | split
      | exact Sub.of (by assumption) (by decide)

theorem execCtlAck_keeps (h : CtlHdr) (st : Nat) (s : State) {s₀ : State} {W : Nat} (hs : Keeps W s₀ s)
    (hw : Sub 67145728 W := by apply Sub.of; assumption; decide) : KeepsO W s₀ (execCtlAck h st s) := by
  unfold execCtlAck
  with_reducible
    repeat' first
      | assumption | apply applyAck_keeps | apply KeepsO.next

theorem applyMessage_keeps (t : Nat) (h : CtlHdr) (b : Bytes) (s : State) {s₀ : State} {W : Nat} (hs : Keeps W s₀ s)
    (hw : Sub 103338940 W := by apply Sub.of; assumption; decide) : Keeps W s₀ (applyMessage t h b s) := by
  unfold applyMessage
  with_reducible
    repeat' first
      | assumption | intro _ | apply applyCtl_keeps | apply applyStretch_keeps | apply applyFill_keeps
      | apply applyUnitDone_keeps | apply applyPkgDigest_keeps | apply applySliceDigest_keeps | apply applyGrant_keeps
      | apply applyReturn_keeps | apply applyAssign_keeps | apply applyInstalled_keeps | apply applySegReport_keeps
      | apply applyUnitFetch_keeps | apply applyUnitData_keeps | apply applyThawReport_keeps | apply deleteImage_keeps
      | apply applyReady_keeps | apply applyInstall_keeps | apply applyTransitReply_keeps | apply applyGo_keeps
      | apply applyAbandon_keeps | apply applyTransitRelease_keeps | apply applyCandidate_keeps | apply applyJoin_keeps
      | apply applyAck_keeps | split | exact Sub.of (by assumption) (by decide)

theorem execCtlMessageReceive_keeps (s : State) {s₀ : State} {W : Nat} (hs : Keeps W s₀ s)
    (hw : Sub 103338940 W := by apply Sub.of; assumption; decide) : KeepsO W s₀ (execCtlMessageReceive s) := by
  unfold execCtlMessageReceive
  with_reducible
    repeat' first
      | assumption | apply dropCtl_keeps | apply applyMessage_keeps | apply ite_keeps | apply KeepsO.next | split
      | apply Keeps.mk_fab | exact Sub.of (by assumption) (by decide)

theorem giveUp_keeps (o : CtlOut) (s : State) {s₀ : State} {W : Nat} (hs : Keeps W s₀ s)
    (hw : Sub 67670924 W := by apply Sub.of; assumption; decide) : Keeps W s₀ (giveUp o s) := by
  unfold giveUp
  with_reducible
    repeat' first
      | assumption | intro _ | apply srvEvent_keeps | apply assignFailed_keeps | apply sessEvent_keeps
      | apply failImage_keeps | apply endOp_keeps | apply ite_keeps | apply foldl_keeps | apply Keeps.mk_fab
      | exact Sub.of (by assumption) (by decide)

theorem repeatMsg_keeps (o : CtlOut) (s : State) {s₀ : State} {W : Nat} (hs : Keeps W s₀ s)
    (hw : Sub 32780 W := by apply Sub.of; assumption; decide) : Keeps W s₀ (repeatMsg o s) := by
  unfold repeatMsg
  with_reducible
    repeat' first
      | assumption | apply putCtl_keeps | apply ite_keeps | apply Keeps.mk_fab
      | exact Sub.of (by assumption) (by decide)

theorem execMessageRetry_keeps (s : State) {s₀ : State} {W : Nat} (hs : Keeps W s₀ s)
    (hw : Sub 67670924 W := by apply Sub.of; assumption; decide) : KeepsO W s₀ (execMessageRetry s) := by
  unfold execMessageRetry
  with_reducible
    repeat' first
      | assumption | intro _ | apply giveUp_keeps | apply repeatMsg_keeps | apply KeepsO.ite | apply ite_keeps
      | apply foldl_keeps | apply KeepsO.next | exact Sub.of (by assumption) (by decide)

end Sys2Proof.Machine
end

