-- ==== Sys2Proof/Laws/KeepFetch.lean ====
section
/-!
SUPPORT. The operations of Fetch keep the queue, the count of free values and the forms of memory and registers.
-/

set_option Elab.async false

namespace Sys2Proof.Machine

theorem handlers_keep : ∀ h ∈ handlers, ∀ (e : Entry) (io : HostIo) (s : State) {s₀ : State} {W : Nat}, Keeps W s₀ s →
    Sub 134217662 W → Keeps W s₀ (h.2 e io s).st := by
  intro h hm
  simp only [handlers, List.cons_append, List.nil_append, List.mem_cons, List.not_mem_nil, or_false] at hm
  intro e io s s₀ W hs hw
  rcases hm with rfl | rfl | rfl | rfl | rfl | rfl | rfl | rfl | rfl | rfl | rfl | rfl | rfl | rfl | rfl | rfl | rfl | rfl | rfl | rfl | rfl | rfl | rfl | rfl | rfl | rfl | rfl | rfl | rfl | rfl | rfl | rfl | rfl | rfl | rfl | rfl | rfl | rfl | rfl | rfl | rfl | rfl | rfl | rfl | rfl | rfl | rfl | rfl | rfl | rfl
  · exact cmdDevIdentify_keeps e io s hs
  · exact cmdDevGetState_keeps e io s hs
  · exact cmdDevSetPowerState_keeps e io s hs
  · exact cmdDevGetTelemetry_keeps e io s hs
  · exact cmdDevSetTime_keeps e io s hs
  · exact cmdPartCreate_keeps e io s hs
  · exact cmdPartDestroy_keeps e io s hs
  · exact cmdPartAssign_keeps e io s hs
  · exact cmdJobStart_keeps [] e io s hs
  · exact cmdJobStop_keeps e io s hs
  · exact cmdJobQuery_keeps e io s hs
  · exact cmdPartAccounting_keeps e io s hs
  · exact cmdModelDeclare_keeps e io s hs
  · exact cmdWeightLoadShard_keeps e io s hs
  · exact cmdWeightVerify_keeps e io s hs
  · exact cmdReplaceBegin_keeps e io s hs
  · exact cmdReplaceLayer_keeps e io s hs
  · exact cmdReplaceEnd_keeps e io s hs
  · exact cmdKeyInstall_keeps e io s hs
  · exact cmdReqSubmit_keeps e io s hs
  · exact cmdReqCancel_keeps e io s hs
  · exact cmdReqQuery_keeps e io s hs
  · exact cmdQueueConfig_keeps e io s hs
  · exact cmdStreamBind_keeps e io s hs
  · exact cmdAdmissionConfig_keeps e io s hs
  · exact cmdSessionFallow_keeps e io s hs
  · exact cmdSessionThaw_keeps e io s hs
  · exact cmdSessionExport_keeps e io s hs
  · exact cmdSessionImport_keeps e io s hs
  · exact cmdSessionDiscard_keeps e io s hs
  · exact cmdTopoLoadMap_keeps e io s hs
  · exact cmdTopoVerify_keeps e io s hs
  · exact cmdLinkQuery_keeps e io s hs
  · exact cmdGroupWrite_keeps e io s hs
  · exact cmdTickConfig_keeps e io s hs
  · exact cmdSliceBind_keeps e io s hs
  · exact cmdPwrSetCap_keeps e io s hs
  · exact cmdPwrSetMode_keeps e io s hs
  · exact cmdPwrDomain_keeps e io s hs
  · exact cmdEnergyRead_keeps e io s hs
  · exact cmdFaultLogRead_keeps e io s hs
  · exact cmdFaultPolicySet_keeps e io s hs
  · exact cmdScrubConfig_keeps e io s hs
  · exact cmdReplicaCompareConfig_keeps e io s hs
  · exact cmdUnitFence_keeps e io s hs
  · exact cmdUnitUnfence_keeps e io s hs
  · exact cmdFreeze_keeps e io s hs
  · exact cmdClockRelease_keeps e io s hs
  · exact cmdScanRead_keeps e io s hs
  · exact cmdDiagRun_keeps e io s hs

theorem runEntry_keeps (op : Nat) (e : Entry) (io : HostIo) (s : State) {s₀ : State} {W : Nat} (hs : Keeps W s₀ s) (hw : Sub 134217662 W := by apply Sub.of; assumption; decide) :
    Keeps W s₀ (runEntry op e io s) := by
  unfold runEntry
  split
  · rename_i h e1
    exact mailboxCommand_keeps _ _ _ _ _ hs (fun a b t k => handlers_keep h (List.mem_of_find?_eq_some e1) a b t k hw)
  · exact ite_keeps (complete_keeps _ _ _ _ _ (startCmd_keeps _ _ hs)) hs

theorem execMailboxFetch_keeps (io : HostIo) (s : State) {s₀ : State} {W : Nat} (hs : Keeps W s₀ s)
    (hw : Sub 134217662 W := by apply Sub.of; assumption; decide) : KeepsO W s₀ (execMailboxFetch io s) := by
  unfold execMailboxFetch
  with_reducible
    repeat' first
      | assumption | apply modMbox_keeps | apply runEntry_keeps | apply KeepsO.next | split | apply Keeps.mk_kao
      | exact Sub.of (by assumption) (by decide)

theorem subscribe_keeps (src : Nat) (flags : Nat) (s : State) {s₀ : State} {W : Nat} (hs : Keeps W s₀ s)
    (hw : Sub 128 W := by apply Sub.of; assumption; decide) : Keeps W s₀ (subscribe src flags s) := by
  unfold subscribe
  with_reducible
    repeat' first
      | assumption | apply ite_keeps | apply Keeps.mk_kao

theorem keepXid_keeps (src : Nat) (xid : Nat) (s : State) {s₀ : State} {W : Nat} (hs : Keeps W s₀ s)
    (hw : Sub 128 W := by apply Sub.of; assumption; decide) : Keeps W s₀ (keepXid src xid s) := by
  unfold keepXid
  with_reducible
    repeat' first
      | assumption | apply Keeps.mk_kao

theorem execManagementDatagram_keeps (src : Nat) (d : Bytes) (io : HostIo) (s : State) {s₀ : State} {W : Nat} (hs : Keeps W
    s₀ s) (hw : Sub 134217662 W := by apply Sub.of; assumption; decide) : KeepsO W s₀ (execManagementDatagram src d io s) :=
    by
  unfold execManagementDatagram
  with_reducible
    repeat' first
      | assumption | apply emit_keeps | apply runEntry_keeps | apply subscribe_keeps | apply keepXid_keeps
      | apply KeepsO.ite | apply ite_keeps | apply KeepsO.next | split | exact Sub.of (by assumption) (by decide)

theorem execHostDmaError_keeps (x : Nat) (k : PortError) (cmd : Option (Nat × Entry)) (s : State) {s₀ : State} {W : Nat} (hs
    : Keeps W s₀ s) (hw : Sub 134217662 W := by apply Sub.of; assumption; decide) : KeepsO W s₀ (execHostDmaError x k cmd s)
    := by
  unfold execHostDmaError
  with_reducible
    repeat' first
      | assumption | apply portError_keeps | apply runEntry_keeps | apply ite_keeps | apply KeepsO.next | split
      | exact Sub.of (by assumption) (by decide)

end Sys2Proof.Machine
end

