-- ==== Sys2Proof/Laws/Mailbox.lean ====
section
/-!
SUPPORT. A mailbox command that is fetched and passes the shared checks has its handler's outcome; one that fails them
completes with the first status that applies.
-/

namespace Sys2Proof.Machine

theorem fetched_parts {r : CmdRow} {e : Entry} {s : State} (h : fetched r e s = true) :
    servedBox s e.src = true ∧ ((frozen s || rdb s Reg.CAL_HUB_FAILED) && !calicheServes r.op) = false ∧
      (pstate s == 1 && !standbyServes r.op) = false ∧ preChecks r e (startCmd e s) = none ∧ commonRange r e = true := by
  simp only [fetched, Bool.and_eq_true, Bool.not_eq_true', Option.isNone_iff_eq_none] at h
  exact ⟨h.1.1.1.1, h.1.1.1.2, h.1.1.2, h.1.2, h.2⟩

/-- A fetched command runs its handler on the state that counts it as fetched. -/
theorem mailboxCommand_fetched {r : CmdRow} {e : Entry} {s : State} (h : Entry → HostIo → State → CmdOut) (io : HostIo)
    (hf : fetched r e s = true) :
    mailboxCommand r h e io s =
      (let o := h e (granted r e io s) (startCmd e s)
       match o.wait with
       | some w => waitsFor r e io w o.st
       | none => complete e o.status o.res o.inl o.st) := by
  obtain ⟨h1, h2, h3, h4, h5⟩ := fetched_parts hf
  have hc : checkedRun r h e (gateIo (startCmd e s) r.op e io) (startCmd e s) = h e (granted r e io s) (startCmd e s) :=
    if_pos (Or.inl h5)
  unfold mailboxCommand
  rw [if_pos h1, if_neg (by rw [h2, h3]; decide)]
  unfold runFetched
  rw [h4]
  dsimp only
  rw [hc]
  split <;> (rename_i hw; simp only [hw, waitsFor])

theorem runRow_done {r : CmdRow} {e : Entry} {io : HostIo} {s t : State} {h : Entry → HostIo → State → CmdOut} {st : Nat}
    {res inl : Bytes} (hf : fetched r e s = true) (ho : h e (granted r e io s) (startCmd e s) = ⟨st, res, inl, t, none⟩) :
    runRow r h e io s = .next (complete e st res inl t) := by
  simp only [runRow, mailboxCommand_fetched h io hf, ho]

theorem runRow_wait {r : CmdRow} {e : Entry} {io : HostIo} {s t : State} {h : Entry → HostIo → State → CmdOut} {st : Nat}
    {res inl : Bytes} {w : WaitFor} (hf : fetched r e s = true)
    (ho : h e (granted r e io s) (startCmd e s) = ⟨st, res, inl, t, some w⟩) :
    runRow r h e io s = .next (waitsFor r e io w t) := by
  simp only [runRow, mailboxCommand_fetched h io hf, ho]

/-- The command's output buffer is sent, inline or by a host write. -/
theorem withOutput_delivered {r : CmdRow} {e : Entry} {io : HostIo} {s : State} (h : delivered r e io s = true) (iova : Nat)
    (b res : Bytes) (t : State) :
    withOutput e (granted r e io s) iova b res t = ⟨0, res, inlineOf e b, sentTo e iova b t, none⟩ := by
  unfold withOutput inlineOf sentTo
  by_cases hm : isMgmt e = true
  · simp [hm]
  · have hw : (granted r e io s).wrOk = true := by simpa [delivered, hm] using h
    simp [hm, hw]

end Sys2Proof.Machine
end

