-- ==== Sys2Proof/Laws/Memory.lean ====
section
/-!
SUPPORT. What a write of memory leaves: the written bytes read as written where memory stands, every other byte as before, a
hole as nothing (R14, R15); the canonical form is kept (its lemmas stand with `Keeps`).
-/

namespace Sys2Proof.Machine

theorem wf_rises {m : List Host.Cell} (h : Memory.wf m = true) : risesFrom 0 m = true := risesFrom_of_tabWfFrom h

theorem tget_pokeMem_ne (m : List Host.Cell) (a : Nat) (b : Byte) {x : Nat} (h : x ≠ a) :
    tget (0 : Byte) (pokeMem m a b) x = tget 0 m x := by
  unfold pokeMem
  split
  · exact tget_tput_ne _ _ _ _ h
  · rfl

theorem tget_pokeMem_self {m : List Host.Cell} (a : Nat) (b : Byte) (h : Memory.wf m = true) (p : populated a = true) :
    tget (0 : Byte) (pokeMem m a b) a = b := by
  unfold pokeMem
  rw [if_pos p]
  exact tget_tput_self _ _ _ _ (wf_rises h)

/-- A byte outside the written range reads as before. -/
theorem tget_pokeBytes_out (b : Bytes) (m : List Host.Cell) (a : Nat) {x : Nat} (h : x < a ∨ a + b.length ≤ x) :
    tget (0 : Byte) (pokeBytes m a b) x = tget 0 m x := by
  induction b generalizing m a with
  | nil => rfl
  | cons v r ih =>
    simp only [List.length_cons] at h
    rw [pokeBytes, ih _ _ (by omega), tget_pokeMem_ne _ _ _ (by omega)]

/-- A byte of the written range reads as written, where memory stands. -/
theorem tget_pokeBytes_in (b : Bytes) {m : List Host.Cell} (a : Nat) (w : Memory.wf m = true) {i : Nat} (h : i < b.length)
    (p : populated (a + i) = true) : tget (0 : Byte) (pokeBytes m a b) (a + i) = b.getD i 0 := by
  induction b generalizing m a i with
  | nil => exact absurd h (by simp)
  | cons v r ih =>
    rw [pokeBytes]
    cases i with
    | zero =>
      rw [tget_pokeBytes_out _ _ _ (by omega), Nat.add_zero]
      exact tget_pokeMem_self a v w (by simpa using p)
    | succ n =>
      have e : a + (n + 1) = a + 1 + n := by omega
      rw [e]
      rw [e] at p
      rw [ih (a + 1) (pokeMem_wf a v w) (by simpa using h) p]
      simp

theorem memByte_writeMem_out (s : State) (a : Nat) (b : Bytes) {x : Nat} (h : x < a ∨ a + b.length ≤ x) :
    memByte (writeMem s a b) x = memByte s x := tget_pokeBytes_out b s.mem a h

theorem memByte_writeMem_in {s : State} (a : Nat) (b : Bytes) (w : Memory.wf s.mem = true) {i : Nat} (h : i < b.length)
    (p : populated (a + i) = true) : memByte (writeMem s a b) (a + i) = b.getD i 0 := tget_pokeBytes_in b a w h p

/-- In a state that meets the invariant, a hole reads as 0 whatever has been written. -/
theorem memByte_hole {s : State} (i : s.Inv) {x : Nat} (h : populated x = false) : memByte s x = 0 := by
  have key : ∀ m : List Host.Cell, m.all (fun c => populated c.1) = true → tget (0 : Byte) m x = 0 := by
    intro m hm
    induction m with
    | nil => rfl
    | cons c r ih =>
      obtain ⟨k, v⟩ := c
      simp only [List.all_cons, Bool.and_eq_true] at hm
      simp only [tget]
      by_cases e : k = x
      · subst e; rw [h] at hm; exact absurd hm.1 (by decide)
      · rw [if_neg e]; exact ih hm.2
  exact key _ i.holes

/-- The memory after reset is in its canonical form, in every place a memory. -/
theorem reset_mem_wf : Memory.wf State.reset.mem = true := rfl

end Sys2Proof.Machine
end

