-- ==== Sys2Proof/Laws/State.lean ====
section
/-!
SUPPORT. What each named update leaves of the state: one lemma per field and update, so that no proof unfolds a record update.
Then the reads of registers after writes.
-/

namespace Sys2Proof.Machine

@[simp] theorem wr_pending (s : State) (f : Field) (v : Nat) : (wr s f v).pending = s.pending := rfl
@[simp] theorem wr_freeCtr (s : State) (f : Field) (v : Nat) : (wr s f v).freeCtr = s.freeCtr := rfl
@[simp] theorem wr_out (s : State) (f : Field) (v : Nat) : (wr s f v).out = s.out := rfl
@[simp] theorem wr_mem (s : State) (f : Field) (v : Nat) : (wr s f v).mem = s.mem := rfl
@[simp] theorem wr_bad (s : State) (f : Field) (v : Nat) : (wr s f v).bad = s.bad := rfl
@[simp] theorem wr_shadows (s : State) (f : Field) (v : Nat) : (wr s f v).shadows = s.shadows := rfl
@[simp] theorem wr_kao (s : State) (f : Field) (v : Nat) : (wr s f v).kao = s.kao := rfl
@[simp] theorem wr_mbs (s : State) (f : Field) (v : Nat) : (wr s f v).mbs = s.mbs := rfl
@[simp] theorem wr_cal (s : State) (f : Field) (v : Nat) : (wr s f v).cal = s.cal := rfl
@[simp] theorem wr_pwr (s : State) (f : Field) (v : Nat) : (wr s f v).pwr = s.pwr := rfl
@[simp] theorem wr_hif (s : State) (f : Field) (v : Nat) : (wr s f v).hif = s.hif := rfl
@[simp] theorem wr_parts (s : State) (f : Field) (v : Nat) : (wr s f v).parts = s.parts := rfl
@[simp] theorem wr_ctxs (s : State) (f : Field) (v : Nat) : (wr s f v).ctxs = s.ctxs := rfl
@[simp] theorem wr_tick (s : State) (f : Field) (v : Nat) : (wr s f v).tick = s.tick := rfl
@[simp] theorem wr_fab (s : State) (f : Field) (v : Nat) : (wr s f v).fab = s.fab := rfl
@[simp] theorem wr_keys (s : State) (f : Field) (v : Nat) : (wr s f v).keys = s.keys := rfl
@[simp] theorem wr_qacct (s : State) (f : Field) (v : Nat) : (wr s f v).qacct = s.qacct := rfl
@[simp] theorem wr_qEnergy (s : State) (f : Field) (v : Nat) : (wr s f v).qEnergy = s.qEnergy := rfl
@[simp] theorem wr_tier (s : State) (f : Field) (v : Nat) : (wr s f v).tier = s.tier := rfl
@[simp] theorem wr_arf (s : State) (f : Field) (v : Nat) : (wr s f v).arf = s.arf := rfl
@[simp] theorem wr_vex (s : State) (f : Field) (v : Nat) : (wr s f v).vex = s.vex := rfl
@[simp] theorem wr_decls (s : State) (f : Field) (v : Nat) : (wr s f v).decls = s.decls := rfl
@[simp] theorem wr_rmt (s : State) (f : Field) (v : Nat) : (wr s f v).rmt = s.rmt := rfl
@[simp] theorem wr_coll (s : State) (f : Field) (v : Nat) : (wr s f v).coll = s.coll := rfl
@[simp] theorem wr_wts (s : State) (f : Field) (v : Nat) : (wr s f v).wts = s.wts := rfl
@[simp] theorem wr_srv (s : State) (f : Field) (v : Nat) : (wr s f v).srv = s.srv := rfl

@[simp] theorem bump_pending (s : State) (f : Field) (n : Nat) : (bump s f n).pending = s.pending := rfl
@[simp] theorem bump_freeCtr (s : State) (f : Field) (n : Nat) : (bump s f n).freeCtr = s.freeCtr := rfl
@[simp] theorem bump_out (s : State) (f : Field) (n : Nat) : (bump s f n).out = s.out := rfl
@[simp] theorem bump_mem (s : State) (f : Field) (n : Nat) : (bump s f n).mem = s.mem := rfl
@[simp] theorem bump_bad (s : State) (f : Field) (n : Nat) : (bump s f n).bad = s.bad := rfl
@[simp] theorem bump_shadows (s : State) (f : Field) (n : Nat) : (bump s f n).shadows = s.shadows := rfl
@[simp] theorem bump_kao (s : State) (f : Field) (n : Nat) : (bump s f n).kao = s.kao := rfl
@[simp] theorem bump_mbs (s : State) (f : Field) (n : Nat) : (bump s f n).mbs = s.mbs := rfl
@[simp] theorem bump_cal (s : State) (f : Field) (n : Nat) : (bump s f n).cal = s.cal := rfl
@[simp] theorem bump_pwr (s : State) (f : Field) (n : Nat) : (bump s f n).pwr = s.pwr := rfl
@[simp] theorem bump_hif (s : State) (f : Field) (n : Nat) : (bump s f n).hif = s.hif := rfl
@[simp] theorem bump_parts (s : State) (f : Field) (n : Nat) : (bump s f n).parts = s.parts := rfl
@[simp] theorem bump_ctxs (s : State) (f : Field) (n : Nat) : (bump s f n).ctxs = s.ctxs := rfl
@[simp] theorem bump_tick (s : State) (f : Field) (n : Nat) : (bump s f n).tick = s.tick := rfl
@[simp] theorem bump_fab (s : State) (f : Field) (n : Nat) : (bump s f n).fab = s.fab := rfl
@[simp] theorem bump_keys (s : State) (f : Field) (n : Nat) : (bump s f n).keys = s.keys := rfl
@[simp] theorem bump_qacct (s : State) (f : Field) (n : Nat) : (bump s f n).qacct = s.qacct := rfl
@[simp] theorem bump_qEnergy (s : State) (f : Field) (n : Nat) : (bump s f n).qEnergy = s.qEnergy := rfl
@[simp] theorem bump_tier (s : State) (f : Field) (n : Nat) : (bump s f n).tier = s.tier := rfl
@[simp] theorem bump_arf (s : State) (f : Field) (n : Nat) : (bump s f n).arf = s.arf := rfl
@[simp] theorem bump_vex (s : State) (f : Field) (n : Nat) : (bump s f n).vex = s.vex := rfl
@[simp] theorem bump_decls (s : State) (f : Field) (n : Nat) : (bump s f n).decls = s.decls := rfl
@[simp] theorem bump_rmt (s : State) (f : Field) (n : Nat) : (bump s f n).rmt = s.rmt := rfl
@[simp] theorem bump_coll (s : State) (f : Field) (n : Nat) : (bump s f n).coll = s.coll := rfl
@[simp] theorem bump_wts (s : State) (f : Field) (n : Nat) : (bump s f n).wts = s.wts := rfl
@[simp] theorem bump_srv (s : State) (f : Field) (n : Nat) : (bump s f n).srv = s.srv := rfl

@[simp] theorem wrb_pending (s : State) (f : Field) (b : Bool) : (wrb s f b).pending = s.pending := rfl
@[simp] theorem wrb_freeCtr (s : State) (f : Field) (b : Bool) : (wrb s f b).freeCtr = s.freeCtr := rfl
@[simp] theorem wrb_out (s : State) (f : Field) (b : Bool) : (wrb s f b).out = s.out := rfl
@[simp] theorem wrb_mem (s : State) (f : Field) (b : Bool) : (wrb s f b).mem = s.mem := rfl
@[simp] theorem wrb_bad (s : State) (f : Field) (b : Bool) : (wrb s f b).bad = s.bad := rfl
@[simp] theorem wrb_shadows (s : State) (f : Field) (b : Bool) : (wrb s f b).shadows = s.shadows := rfl
@[simp] theorem wrb_kao (s : State) (f : Field) (b : Bool) : (wrb s f b).kao = s.kao := rfl
@[simp] theorem wrb_mbs (s : State) (f : Field) (b : Bool) : (wrb s f b).mbs = s.mbs := rfl
@[simp] theorem wrb_cal (s : State) (f : Field) (b : Bool) : (wrb s f b).cal = s.cal := rfl
@[simp] theorem wrb_pwr (s : State) (f : Field) (b : Bool) : (wrb s f b).pwr = s.pwr := rfl
@[simp] theorem wrb_hif (s : State) (f : Field) (b : Bool) : (wrb s f b).hif = s.hif := rfl
@[simp] theorem wrb_parts (s : State) (f : Field) (b : Bool) : (wrb s f b).parts = s.parts := rfl
@[simp] theorem wrb_ctxs (s : State) (f : Field) (b : Bool) : (wrb s f b).ctxs = s.ctxs := rfl
@[simp] theorem wrb_tick (s : State) (f : Field) (b : Bool) : (wrb s f b).tick = s.tick := rfl
@[simp] theorem wrb_fab (s : State) (f : Field) (b : Bool) : (wrb s f b).fab = s.fab := rfl
@[simp] theorem wrb_keys (s : State) (f : Field) (b : Bool) : (wrb s f b).keys = s.keys := rfl
@[simp] theorem wrb_qacct (s : State) (f : Field) (b : Bool) : (wrb s f b).qacct = s.qacct := rfl
@[simp] theorem wrb_qEnergy (s : State) (f : Field) (b : Bool) : (wrb s f b).qEnergy = s.qEnergy := rfl
@[simp] theorem wrb_tier (s : State) (f : Field) (b : Bool) : (wrb s f b).tier = s.tier := rfl
@[simp] theorem wrb_arf (s : State) (f : Field) (b : Bool) : (wrb s f b).arf = s.arf := rfl
@[simp] theorem wrb_vex (s : State) (f : Field) (b : Bool) : (wrb s f b).vex = s.vex := rfl
@[simp] theorem wrb_decls (s : State) (f : Field) (b : Bool) : (wrb s f b).decls = s.decls := rfl
@[simp] theorem wrb_rmt (s : State) (f : Field) (b : Bool) : (wrb s f b).rmt = s.rmt := rfl
@[simp] theorem wrb_coll (s : State) (f : Field) (b : Bool) : (wrb s f b).coll = s.coll := rfl
@[simp] theorem wrb_wts (s : State) (f : Field) (b : Bool) : (wrb s f b).wts = s.wts := rfl
@[simp] theorem wrb_srv (s : State) (f : Field) (b : Bool) : (wrb s f b).srv = s.srv := rfl

@[simp] theorem orReg_pending (s : State) (f : Field) (m : Nat) : (orReg s f m).pending = s.pending := rfl
@[simp] theorem orReg_freeCtr (s : State) (f : Field) (m : Nat) : (orReg s f m).freeCtr = s.freeCtr := rfl
@[simp] theorem orReg_out (s : State) (f : Field) (m : Nat) : (orReg s f m).out = s.out := rfl
@[simp] theorem orReg_mem (s : State) (f : Field) (m : Nat) : (orReg s f m).mem = s.mem := rfl
@[simp] theorem orReg_bad (s : State) (f : Field) (m : Nat) : (orReg s f m).bad = s.bad := rfl
@[simp] theorem orReg_shadows (s : State) (f : Field) (m : Nat) : (orReg s f m).shadows = s.shadows := rfl
@[simp] theorem orReg_kao (s : State) (f : Field) (m : Nat) : (orReg s f m).kao = s.kao := rfl
@[simp] theorem orReg_mbs (s : State) (f : Field) (m : Nat) : (orReg s f m).mbs = s.mbs := rfl
@[simp] theorem orReg_cal (s : State) (f : Field) (m : Nat) : (orReg s f m).cal = s.cal := rfl
@[simp] theorem orReg_pwr (s : State) (f : Field) (m : Nat) : (orReg s f m).pwr = s.pwr := rfl
@[simp] theorem orReg_hif (s : State) (f : Field) (m : Nat) : (orReg s f m).hif = s.hif := rfl
@[simp] theorem orReg_parts (s : State) (f : Field) (m : Nat) : (orReg s f m).parts = s.parts := rfl
@[simp] theorem orReg_ctxs (s : State) (f : Field) (m : Nat) : (orReg s f m).ctxs = s.ctxs := rfl
@[simp] theorem orReg_tick (s : State) (f : Field) (m : Nat) : (orReg s f m).tick = s.tick := rfl
@[simp] theorem orReg_fab (s : State) (f : Field) (m : Nat) : (orReg s f m).fab = s.fab := rfl
@[simp] theorem orReg_keys (s : State) (f : Field) (m : Nat) : (orReg s f m).keys = s.keys := rfl
@[simp] theorem orReg_qacct (s : State) (f : Field) (m : Nat) : (orReg s f m).qacct = s.qacct := rfl
@[simp] theorem orReg_qEnergy (s : State) (f : Field) (m : Nat) : (orReg s f m).qEnergy = s.qEnergy := rfl
@[simp] theorem orReg_tier (s : State) (f : Field) (m : Nat) : (orReg s f m).tier = s.tier := rfl
@[simp] theorem orReg_arf (s : State) (f : Field) (m : Nat) : (orReg s f m).arf = s.arf := rfl
@[simp] theorem orReg_vex (s : State) (f : Field) (m : Nat) : (orReg s f m).vex = s.vex := rfl
@[simp] theorem orReg_decls (s : State) (f : Field) (m : Nat) : (orReg s f m).decls = s.decls := rfl
@[simp] theorem orReg_rmt (s : State) (f : Field) (m : Nat) : (orReg s f m).rmt = s.rmt := rfl
@[simp] theorem orReg_coll (s : State) (f : Field) (m : Nat) : (orReg s f m).coll = s.coll := rfl
@[simp] theorem orReg_wts (s : State) (f : Field) (m : Nat) : (orReg s f m).wts = s.wts := rfl
@[simp] theorem orReg_srv (s : State) (f : Field) (m : Nat) : (orReg s f m).srv = s.srv := rfl

@[simp] theorem emit_pending (s : State) (o : Output) : (emit s o).pending = s.pending := rfl
@[simp] theorem emit_freeCtr (s : State) (o : Output) : (emit s o).freeCtr = s.freeCtr := rfl
@[simp] theorem emit_regs (s : State) (o : Output) : (emit s o).regs = s.regs := rfl
@[simp] theorem emit_mem (s : State) (o : Output) : (emit s o).mem = s.mem := rfl
@[simp] theorem emit_bad (s : State) (o : Output) : (emit s o).bad = s.bad := rfl
@[simp] theorem emit_shadows (s : State) (o : Output) : (emit s o).shadows = s.shadows := rfl
@[simp] theorem emit_kao (s : State) (o : Output) : (emit s o).kao = s.kao := rfl
@[simp] theorem emit_mbs (s : State) (o : Output) : (emit s o).mbs = s.mbs := rfl
@[simp] theorem emit_cal (s : State) (o : Output) : (emit s o).cal = s.cal := rfl
@[simp] theorem emit_pwr (s : State) (o : Output) : (emit s o).pwr = s.pwr := rfl
@[simp] theorem emit_hif (s : State) (o : Output) : (emit s o).hif = s.hif := rfl
@[simp] theorem emit_parts (s : State) (o : Output) : (emit s o).parts = s.parts := rfl
@[simp] theorem emit_ctxs (s : State) (o : Output) : (emit s o).ctxs = s.ctxs := rfl
@[simp] theorem emit_tick (s : State) (o : Output) : (emit s o).tick = s.tick := rfl
@[simp] theorem emit_fab (s : State) (o : Output) : (emit s o).fab = s.fab := rfl
@[simp] theorem emit_keys (s : State) (o : Output) : (emit s o).keys = s.keys := rfl
@[simp] theorem emit_qacct (s : State) (o : Output) : (emit s o).qacct = s.qacct := rfl
@[simp] theorem emit_qEnergy (s : State) (o : Output) : (emit s o).qEnergy = s.qEnergy := rfl
@[simp] theorem emit_tier (s : State) (o : Output) : (emit s o).tier = s.tier := rfl
@[simp] theorem emit_arf (s : State) (o : Output) : (emit s o).arf = s.arf := rfl
@[simp] theorem emit_vex (s : State) (o : Output) : (emit s o).vex = s.vex := rfl
@[simp] theorem emit_decls (s : State) (o : Output) : (emit s o).decls = s.decls := rfl
@[simp] theorem emit_rmt (s : State) (o : Output) : (emit s o).rmt = s.rmt := rfl
@[simp] theorem emit_coll (s : State) (o : Output) : (emit s o).coll = s.coll := rfl
@[simp] theorem emit_wts (s : State) (o : Output) : (emit s o).wts = s.wts := rfl
@[simp] theorem emit_srv (s : State) (o : Output) : (emit s o).srv = s.srv := rfl

@[simp] theorem writeMem_pending (s : State) (a : Nat) (b : Bytes) : (writeMem s a b).pending = s.pending := rfl
@[simp] theorem writeMem_freeCtr (s : State) (a : Nat) (b : Bytes) : (writeMem s a b).freeCtr = s.freeCtr := rfl
@[simp] theorem writeMem_out (s : State) (a : Nat) (b : Bytes) : (writeMem s a b).out = s.out := rfl
@[simp] theorem writeMem_regs (s : State) (a : Nat) (b : Bytes) : (writeMem s a b).regs = s.regs := rfl
@[simp] theorem writeMem_bad (s : State) (a : Nat) (b : Bytes) : (writeMem s a b).bad = s.bad := rfl
@[simp] theorem writeMem_shadows (s : State) (a : Nat) (b : Bytes) : (writeMem s a b).shadows = s.shadows := rfl
@[simp] theorem writeMem_kao (s : State) (a : Nat) (b : Bytes) : (writeMem s a b).kao = s.kao := rfl
@[simp] theorem writeMem_mbs (s : State) (a : Nat) (b : Bytes) : (writeMem s a b).mbs = s.mbs := rfl
@[simp] theorem writeMem_cal (s : State) (a : Nat) (b : Bytes) : (writeMem s a b).cal = s.cal := rfl
@[simp] theorem writeMem_pwr (s : State) (a : Nat) (b : Bytes) : (writeMem s a b).pwr = s.pwr := rfl
@[simp] theorem writeMem_hif (s : State) (a : Nat) (b : Bytes) : (writeMem s a b).hif = s.hif := rfl
@[simp] theorem writeMem_parts (s : State) (a : Nat) (b : Bytes) : (writeMem s a b).parts = s.parts := rfl
@[simp] theorem writeMem_ctxs (s : State) (a : Nat) (b : Bytes) : (writeMem s a b).ctxs = s.ctxs := rfl
@[simp] theorem writeMem_tick (s : State) (a : Nat) (b : Bytes) : (writeMem s a b).tick = s.tick := rfl
@[simp] theorem writeMem_fab (s : State) (a : Nat) (b : Bytes) : (writeMem s a b).fab = s.fab := rfl
@[simp] theorem writeMem_keys (s : State) (a : Nat) (b : Bytes) : (writeMem s a b).keys = s.keys := rfl
@[simp] theorem writeMem_qacct (s : State) (a : Nat) (b : Bytes) : (writeMem s a b).qacct = s.qacct := rfl
@[simp] theorem writeMem_qEnergy (s : State) (a : Nat) (b : Bytes) : (writeMem s a b).qEnergy = s.qEnergy := rfl
@[simp] theorem writeMem_tier (s : State) (a : Nat) (b : Bytes) : (writeMem s a b).tier = s.tier := rfl
@[simp] theorem writeMem_arf (s : State) (a : Nat) (b : Bytes) : (writeMem s a b).arf = s.arf := rfl
@[simp] theorem writeMem_vex (s : State) (a : Nat) (b : Bytes) : (writeMem s a b).vex = s.vex := rfl
@[simp] theorem writeMem_decls (s : State) (a : Nat) (b : Bytes) : (writeMem s a b).decls = s.decls := rfl
@[simp] theorem writeMem_rmt (s : State) (a : Nat) (b : Bytes) : (writeMem s a b).rmt = s.rmt := rfl
@[simp] theorem writeMem_coll (s : State) (a : Nat) (b : Bytes) : (writeMem s a b).coll = s.coll := rfl
@[simp] theorem writeMem_wts (s : State) (a : Nat) (b : Bytes) : (writeMem s a b).wts = s.wts := rfl
@[simp] theorem writeMem_srv (s : State) (a : Nat) (b : Bytes) : (writeMem s a b).srv = s.srv := rfl

@[simp] theorem setBad_pending (s : State) (a : Nat) (b : Bool) : (setBad s a b).pending = s.pending := rfl
@[simp] theorem setBad_freeCtr (s : State) (a : Nat) (b : Bool) : (setBad s a b).freeCtr = s.freeCtr := rfl
@[simp] theorem setBad_out (s : State) (a : Nat) (b : Bool) : (setBad s a b).out = s.out := rfl
@[simp] theorem setBad_regs (s : State) (a : Nat) (b : Bool) : (setBad s a b).regs = s.regs := rfl
@[simp] theorem setBad_mem (s : State) (a : Nat) (b : Bool) : (setBad s a b).mem = s.mem := rfl
@[simp] theorem setBad_shadows (s : State) (a : Nat) (b : Bool) : (setBad s a b).shadows = s.shadows := rfl
@[simp] theorem setBad_kao (s : State) (a : Nat) (b : Bool) : (setBad s a b).kao = s.kao := rfl
@[simp] theorem setBad_mbs (s : State) (a : Nat) (b : Bool) : (setBad s a b).mbs = s.mbs := rfl
@[simp] theorem setBad_cal (s : State) (a : Nat) (b : Bool) : (setBad s a b).cal = s.cal := rfl
@[simp] theorem setBad_pwr (s : State) (a : Nat) (b : Bool) : (setBad s a b).pwr = s.pwr := rfl
@[simp] theorem setBad_hif (s : State) (a : Nat) (b : Bool) : (setBad s a b).hif = s.hif := rfl
@[simp] theorem setBad_parts (s : State) (a : Nat) (b : Bool) : (setBad s a b).parts = s.parts := rfl
@[simp] theorem setBad_ctxs (s : State) (a : Nat) (b : Bool) : (setBad s a b).ctxs = s.ctxs := rfl
@[simp] theorem setBad_tick (s : State) (a : Nat) (b : Bool) : (setBad s a b).tick = s.tick := rfl
@[simp] theorem setBad_fab (s : State) (a : Nat) (b : Bool) : (setBad s a b).fab = s.fab := rfl
@[simp] theorem setBad_keys (s : State) (a : Nat) (b : Bool) : (setBad s a b).keys = s.keys := rfl
@[simp] theorem setBad_qacct (s : State) (a : Nat) (b : Bool) : (setBad s a b).qacct = s.qacct := rfl
@[simp] theorem setBad_qEnergy (s : State) (a : Nat) (b : Bool) : (setBad s a b).qEnergy = s.qEnergy := rfl
@[simp] theorem setBad_tier (s : State) (a : Nat) (b : Bool) : (setBad s a b).tier = s.tier := rfl
@[simp] theorem setBad_arf (s : State) (a : Nat) (b : Bool) : (setBad s a b).arf = s.arf := rfl
@[simp] theorem setBad_vex (s : State) (a : Nat) (b : Bool) : (setBad s a b).vex = s.vex := rfl
@[simp] theorem setBad_decls (s : State) (a : Nat) (b : Bool) : (setBad s a b).decls = s.decls := rfl
@[simp] theorem setBad_rmt (s : State) (a : Nat) (b : Bool) : (setBad s a b).rmt = s.rmt := rfl
@[simp] theorem setBad_coll (s : State) (a : Nat) (b : Bool) : (setBad s a b).coll = s.coll := rfl
@[simp] theorem setBad_wts (s : State) (a : Nat) (b : Bool) : (setBad s a b).wts = s.wts := rfl
@[simp] theorem setBad_srv (s : State) (a : Nat) (b : Bool) : (setBad s a b).srv = s.srv := rfl

@[simp] theorem zeroRange_pending (s : State) (a n : Nat) : (zeroRange s a n).pending = s.pending := rfl
@[simp] theorem zeroRange_freeCtr (s : State) (a n : Nat) : (zeroRange s a n).freeCtr = s.freeCtr := rfl
@[simp] theorem zeroRange_out (s : State) (a n : Nat) : (zeroRange s a n).out = s.out := rfl
@[simp] theorem zeroRange_regs (s : State) (a n : Nat) : (zeroRange s a n).regs = s.regs := rfl
@[simp] theorem zeroRange_shadows (s : State) (a n : Nat) : (zeroRange s a n).shadows = s.shadows := rfl
@[simp] theorem zeroRange_kao (s : State) (a n : Nat) : (zeroRange s a n).kao = s.kao := rfl
@[simp] theorem zeroRange_mbs (s : State) (a n : Nat) : (zeroRange s a n).mbs = s.mbs := rfl
@[simp] theorem zeroRange_cal (s : State) (a n : Nat) : (zeroRange s a n).cal = s.cal := rfl
@[simp] theorem zeroRange_pwr (s : State) (a n : Nat) : (zeroRange s a n).pwr = s.pwr := rfl
@[simp] theorem zeroRange_hif (s : State) (a n : Nat) : (zeroRange s a n).hif = s.hif := rfl
@[simp] theorem zeroRange_parts (s : State) (a n : Nat) : (zeroRange s a n).parts = s.parts := rfl
@[simp] theorem zeroRange_ctxs (s : State) (a n : Nat) : (zeroRange s a n).ctxs = s.ctxs := rfl
@[simp] theorem zeroRange_tick (s : State) (a n : Nat) : (zeroRange s a n).tick = s.tick := rfl
@[simp] theorem zeroRange_fab (s : State) (a n : Nat) : (zeroRange s a n).fab = s.fab := rfl
@[simp] theorem zeroRange_keys (s : State) (a n : Nat) : (zeroRange s a n).keys = s.keys := rfl
@[simp] theorem zeroRange_qacct (s : State) (a n : Nat) : (zeroRange s a n).qacct = s.qacct := rfl
@[simp] theorem zeroRange_qEnergy (s : State) (a n : Nat) : (zeroRange s a n).qEnergy = s.qEnergy := rfl
@[simp] theorem zeroRange_tier (s : State) (a n : Nat) : (zeroRange s a n).tier = s.tier := rfl
@[simp] theorem zeroRange_arf (s : State) (a n : Nat) : (zeroRange s a n).arf = s.arf := rfl
@[simp] theorem zeroRange_vex (s : State) (a n : Nat) : (zeroRange s a n).vex = s.vex := rfl
@[simp] theorem zeroRange_decls (s : State) (a n : Nat) : (zeroRange s a n).decls = s.decls := rfl
@[simp] theorem zeroRange_rmt (s : State) (a n : Nat) : (zeroRange s a n).rmt = s.rmt := rfl
@[simp] theorem zeroRange_coll (s : State) (a n : Nat) : (zeroRange s a n).coll = s.coll := rfl
@[simp] theorem zeroRange_wts (s : State) (a n : Nat) : (zeroRange s a n).wts = s.wts := rfl
@[simp] theorem zeroRange_srv (s : State) (a n : Nat) : (zeroRange s a n).srv = s.srv := rfl

@[simp] theorem modPart_pending (s : State) (p : Nat) (f : Part → Part) : (modPart s p f).pending = s.pending := rfl
@[simp] theorem modPart_freeCtr (s : State) (p : Nat) (f : Part → Part) : (modPart s p f).freeCtr = s.freeCtr := rfl
@[simp] theorem modPart_out (s : State) (p : Nat) (f : Part → Part) : (modPart s p f).out = s.out := rfl
@[simp] theorem modPart_regs (s : State) (p : Nat) (f : Part → Part) : (modPart s p f).regs = s.regs := rfl
@[simp] theorem modPart_mem (s : State) (p : Nat) (f : Part → Part) : (modPart s p f).mem = s.mem := rfl
@[simp] theorem modPart_bad (s : State) (p : Nat) (f : Part → Part) : (modPart s p f).bad = s.bad := rfl
@[simp] theorem modPart_shadows (s : State) (p : Nat) (f : Part → Part) : (modPart s p f).shadows = s.shadows := rfl
@[simp] theorem modPart_kao (s : State) (p : Nat) (f : Part → Part) : (modPart s p f).kao = s.kao := rfl
@[simp] theorem modPart_mbs (s : State) (p : Nat) (f : Part → Part) : (modPart s p f).mbs = s.mbs := rfl
@[simp] theorem modPart_cal (s : State) (p : Nat) (f : Part → Part) : (modPart s p f).cal = s.cal := rfl
@[simp] theorem modPart_pwr (s : State) (p : Nat) (f : Part → Part) : (modPart s p f).pwr = s.pwr := rfl
@[simp] theorem modPart_hif (s : State) (p : Nat) (f : Part → Part) : (modPart s p f).hif = s.hif := rfl
@[simp] theorem modPart_ctxs (s : State) (p : Nat) (f : Part → Part) : (modPart s p f).ctxs = s.ctxs := rfl
@[simp] theorem modPart_tick (s : State) (p : Nat) (f : Part → Part) : (modPart s p f).tick = s.tick := rfl
@[simp] theorem modPart_fab (s : State) (p : Nat) (f : Part → Part) : (modPart s p f).fab = s.fab := rfl
@[simp] theorem modPart_keys (s : State) (p : Nat) (f : Part → Part) : (modPart s p f).keys = s.keys := rfl
@[simp] theorem modPart_qacct (s : State) (p : Nat) (f : Part → Part) : (modPart s p f).qacct = s.qacct := rfl
@[simp] theorem modPart_qEnergy (s : State) (p : Nat) (f : Part → Part) : (modPart s p f).qEnergy = s.qEnergy := rfl
@[simp] theorem modPart_tier (s : State) (p : Nat) (f : Part → Part) : (modPart s p f).tier = s.tier := rfl
@[simp] theorem modPart_arf (s : State) (p : Nat) (f : Part → Part) : (modPart s p f).arf = s.arf := rfl
@[simp] theorem modPart_vex (s : State) (p : Nat) (f : Part → Part) : (modPart s p f).vex = s.vex := rfl
@[simp] theorem modPart_decls (s : State) (p : Nat) (f : Part → Part) : (modPart s p f).decls = s.decls := rfl
@[simp] theorem modPart_rmt (s : State) (p : Nat) (f : Part → Part) : (modPart s p f).rmt = s.rmt := rfl
@[simp] theorem modPart_coll (s : State) (p : Nat) (f : Part → Part) : (modPart s p f).coll = s.coll := rfl
@[simp] theorem modPart_wts (s : State) (p : Nat) (f : Part → Part) : (modPart s p f).wts = s.wts := rfl
@[simp] theorem modPart_srv (s : State) (p : Nat) (f : Part → Part) : (modPart s p f).srv = s.srv := rfl

@[simp] theorem modCtx_pending (s : State) (G : Nat) (f : Ctx → Ctx) : (modCtx s G f).pending = s.pending := rfl
@[simp] theorem modCtx_freeCtr (s : State) (G : Nat) (f : Ctx → Ctx) : (modCtx s G f).freeCtr = s.freeCtr := rfl
@[simp] theorem modCtx_out (s : State) (G : Nat) (f : Ctx → Ctx) : (modCtx s G f).out = s.out := rfl
@[simp] theorem modCtx_regs (s : State) (G : Nat) (f : Ctx → Ctx) : (modCtx s G f).regs = s.regs := rfl
@[simp] theorem modCtx_mem (s : State) (G : Nat) (f : Ctx → Ctx) : (modCtx s G f).mem = s.mem := rfl
@[simp] theorem modCtx_bad (s : State) (G : Nat) (f : Ctx → Ctx) : (modCtx s G f).bad = s.bad := rfl
@[simp] theorem modCtx_shadows (s : State) (G : Nat) (f : Ctx → Ctx) : (modCtx s G f).shadows = s.shadows := rfl
@[simp] theorem modCtx_kao (s : State) (G : Nat) (f : Ctx → Ctx) : (modCtx s G f).kao = s.kao := rfl
@[simp] theorem modCtx_mbs (s : State) (G : Nat) (f : Ctx → Ctx) : (modCtx s G f).mbs = s.mbs := rfl
@[simp] theorem modCtx_cal (s : State) (G : Nat) (f : Ctx → Ctx) : (modCtx s G f).cal = s.cal := rfl
@[simp] theorem modCtx_pwr (s : State) (G : Nat) (f : Ctx → Ctx) : (modCtx s G f).pwr = s.pwr := rfl
@[simp] theorem modCtx_hif (s : State) (G : Nat) (f : Ctx → Ctx) : (modCtx s G f).hif = s.hif := rfl
@[simp] theorem modCtx_parts (s : State) (G : Nat) (f : Ctx → Ctx) : (modCtx s G f).parts = s.parts := rfl
@[simp] theorem modCtx_tick (s : State) (G : Nat) (f : Ctx → Ctx) : (modCtx s G f).tick = s.tick := rfl
@[simp] theorem modCtx_fab (s : State) (G : Nat) (f : Ctx → Ctx) : (modCtx s G f).fab = s.fab := rfl
@[simp] theorem modCtx_keys (s : State) (G : Nat) (f : Ctx → Ctx) : (modCtx s G f).keys = s.keys := rfl
@[simp] theorem modCtx_qacct (s : State) (G : Nat) (f : Ctx → Ctx) : (modCtx s G f).qacct = s.qacct := rfl
@[simp] theorem modCtx_qEnergy (s : State) (G : Nat) (f : Ctx → Ctx) : (modCtx s G f).qEnergy = s.qEnergy := rfl
@[simp] theorem modCtx_tier (s : State) (G : Nat) (f : Ctx → Ctx) : (modCtx s G f).tier = s.tier := rfl
@[simp] theorem modCtx_arf (s : State) (G : Nat) (f : Ctx → Ctx) : (modCtx s G f).arf = s.arf := rfl
@[simp] theorem modCtx_vex (s : State) (G : Nat) (f : Ctx → Ctx) : (modCtx s G f).vex = s.vex := rfl
@[simp] theorem modCtx_decls (s : State) (G : Nat) (f : Ctx → Ctx) : (modCtx s G f).decls = s.decls := rfl
@[simp] theorem modCtx_rmt (s : State) (G : Nat) (f : Ctx → Ctx) : (modCtx s G f).rmt = s.rmt := rfl
@[simp] theorem modCtx_coll (s : State) (G : Nat) (f : Ctx → Ctx) : (modCtx s G f).coll = s.coll := rfl
@[simp] theorem modCtx_wts (s : State) (G : Nat) (f : Ctx → Ctx) : (modCtx s G f).wts = s.wts := rfl
@[simp] theorem modCtx_srv (s : State) (G : Nat) (f : Ctx → Ctx) : (modCtx s G f).srv = s.srv := rfl

@[simp] theorem modMbox_pending (s : State) (m : Nat) (f : Mailbox → Mailbox) : (modMbox s m f).pending = s.pending := rfl
@[simp] theorem modMbox_freeCtr (s : State) (m : Nat) (f : Mailbox → Mailbox) : (modMbox s m f).freeCtr = s.freeCtr := rfl
@[simp] theorem modMbox_out (s : State) (m : Nat) (f : Mailbox → Mailbox) : (modMbox s m f).out = s.out := rfl
@[simp] theorem modMbox_regs (s : State) (m : Nat) (f : Mailbox → Mailbox) : (modMbox s m f).regs = s.regs := rfl
@[simp] theorem modMbox_mem (s : State) (m : Nat) (f : Mailbox → Mailbox) : (modMbox s m f).mem = s.mem := rfl
@[simp] theorem modMbox_bad (s : State) (m : Nat) (f : Mailbox → Mailbox) : (modMbox s m f).bad = s.bad := rfl
@[simp] theorem modMbox_shadows (s : State) (m : Nat) (f : Mailbox → Mailbox) : (modMbox s m f).shadows = s.shadows := rfl
@[simp] theorem modMbox_kao (s : State) (m : Nat) (f : Mailbox → Mailbox) : (modMbox s m f).kao = s.kao := rfl
@[simp] theorem modMbox_cal (s : State) (m : Nat) (f : Mailbox → Mailbox) : (modMbox s m f).cal = s.cal := rfl
@[simp] theorem modMbox_pwr (s : State) (m : Nat) (f : Mailbox → Mailbox) : (modMbox s m f).pwr = s.pwr := rfl
@[simp] theorem modMbox_hif (s : State) (m : Nat) (f : Mailbox → Mailbox) : (modMbox s m f).hif = s.hif := rfl
@[simp] theorem modMbox_parts (s : State) (m : Nat) (f : Mailbox → Mailbox) : (modMbox s m f).parts = s.parts := rfl
@[simp] theorem modMbox_ctxs (s : State) (m : Nat) (f : Mailbox → Mailbox) : (modMbox s m f).ctxs = s.ctxs := rfl
@[simp] theorem modMbox_tick (s : State) (m : Nat) (f : Mailbox → Mailbox) : (modMbox s m f).tick = s.tick := rfl
@[simp] theorem modMbox_fab (s : State) (m : Nat) (f : Mailbox → Mailbox) : (modMbox s m f).fab = s.fab := rfl
@[simp] theorem modMbox_keys (s : State) (m : Nat) (f : Mailbox → Mailbox) : (modMbox s m f).keys = s.keys := rfl
@[simp] theorem modMbox_qacct (s : State) (m : Nat) (f : Mailbox → Mailbox) : (modMbox s m f).qacct = s.qacct := rfl
@[simp] theorem modMbox_qEnergy (s : State) (m : Nat) (f : Mailbox → Mailbox) : (modMbox s m f).qEnergy = s.qEnergy := rfl
@[simp] theorem modMbox_tier (s : State) (m : Nat) (f : Mailbox → Mailbox) : (modMbox s m f).tier = s.tier := rfl
@[simp] theorem modMbox_arf (s : State) (m : Nat) (f : Mailbox → Mailbox) : (modMbox s m f).arf = s.arf := rfl
@[simp] theorem modMbox_vex (s : State) (m : Nat) (f : Mailbox → Mailbox) : (modMbox s m f).vex = s.vex := rfl
@[simp] theorem modMbox_decls (s : State) (m : Nat) (f : Mailbox → Mailbox) : (modMbox s m f).decls = s.decls := rfl
@[simp] theorem modMbox_rmt (s : State) (m : Nat) (f : Mailbox → Mailbox) : (modMbox s m f).rmt = s.rmt := rfl
@[simp] theorem modMbox_coll (s : State) (m : Nat) (f : Mailbox → Mailbox) : (modMbox s m f).coll = s.coll := rfl
@[simp] theorem modMbox_wts (s : State) (m : Nat) (f : Mailbox → Mailbox) : (modMbox s m f).wts = s.wts := rfl
@[simp] theorem modMbox_srv (s : State) (m : Nat) (f : Mailbox → Mailbox) : (modMbox s m f).srv = s.srv := rfl

@[simp] theorem modVex_pending (s : State) (p : Nat) (f : VexPart → VexPart) : (modVex s p f).pending = s.pending := rfl
@[simp] theorem modVex_freeCtr (s : State) (p : Nat) (f : VexPart → VexPart) : (modVex s p f).freeCtr = s.freeCtr := rfl
@[simp] theorem modVex_out (s : State) (p : Nat) (f : VexPart → VexPart) : (modVex s p f).out = s.out := rfl
@[simp] theorem modVex_regs (s : State) (p : Nat) (f : VexPart → VexPart) : (modVex s p f).regs = s.regs := rfl
@[simp] theorem modVex_mem (s : State) (p : Nat) (f : VexPart → VexPart) : (modVex s p f).mem = s.mem := rfl
@[simp] theorem modVex_bad (s : State) (p : Nat) (f : VexPart → VexPart) : (modVex s p f).bad = s.bad := rfl
@[simp] theorem modVex_shadows (s : State) (p : Nat) (f : VexPart → VexPart) : (modVex s p f).shadows = s.shadows := rfl
@[simp] theorem modVex_kao (s : State) (p : Nat) (f : VexPart → VexPart) : (modVex s p f).kao = s.kao := rfl
@[simp] theorem modVex_mbs (s : State) (p : Nat) (f : VexPart → VexPart) : (modVex s p f).mbs = s.mbs := rfl
@[simp] theorem modVex_cal (s : State) (p : Nat) (f : VexPart → VexPart) : (modVex s p f).cal = s.cal := rfl
@[simp] theorem modVex_pwr (s : State) (p : Nat) (f : VexPart → VexPart) : (modVex s p f).pwr = s.pwr := rfl
@[simp] theorem modVex_hif (s : State) (p : Nat) (f : VexPart → VexPart) : (modVex s p f).hif = s.hif := rfl
@[simp] theorem modVex_parts (s : State) (p : Nat) (f : VexPart → VexPart) : (modVex s p f).parts = s.parts := rfl
@[simp] theorem modVex_ctxs (s : State) (p : Nat) (f : VexPart → VexPart) : (modVex s p f).ctxs = s.ctxs := rfl
@[simp] theorem modVex_tick (s : State) (p : Nat) (f : VexPart → VexPart) : (modVex s p f).tick = s.tick := rfl
@[simp] theorem modVex_fab (s : State) (p : Nat) (f : VexPart → VexPart) : (modVex s p f).fab = s.fab := rfl
@[simp] theorem modVex_keys (s : State) (p : Nat) (f : VexPart → VexPart) : (modVex s p f).keys = s.keys := rfl
@[simp] theorem modVex_qacct (s : State) (p : Nat) (f : VexPart → VexPart) : (modVex s p f).qacct = s.qacct := rfl
@[simp] theorem modVex_qEnergy (s : State) (p : Nat) (f : VexPart → VexPart) : (modVex s p f).qEnergy = s.qEnergy := rfl
@[simp] theorem modVex_tier (s : State) (p : Nat) (f : VexPart → VexPart) : (modVex s p f).tier = s.tier := rfl
@[simp] theorem modVex_arf (s : State) (p : Nat) (f : VexPart → VexPart) : (modVex s p f).arf = s.arf := rfl
@[simp] theorem modVex_decls (s : State) (p : Nat) (f : VexPart → VexPart) : (modVex s p f).decls = s.decls := rfl
@[simp] theorem modVex_rmt (s : State) (p : Nat) (f : VexPart → VexPart) : (modVex s p f).rmt = s.rmt := rfl
@[simp] theorem modVex_coll (s : State) (p : Nat) (f : VexPart → VexPart) : (modVex s p f).coll = s.coll := rfl
@[simp] theorem modVex_wts (s : State) (p : Nat) (f : VexPart → VexPart) : (modVex s p f).wts = s.wts := rfl
@[simp] theorem modVex_srv (s : State) (p : Nat) (f : VexPart → VexPart) : (modVex s p f).srv = s.srv := rfl

@[simp] theorem modLink_pending (s : State) (l : Nat) (f : LinkX → LinkX) : (modLink s l f).pending = s.pending := rfl
@[simp] theorem modLink_freeCtr (s : State) (l : Nat) (f : LinkX → LinkX) : (modLink s l f).freeCtr = s.freeCtr := rfl
@[simp] theorem modLink_out (s : State) (l : Nat) (f : LinkX → LinkX) : (modLink s l f).out = s.out := rfl
@[simp] theorem modLink_regs (s : State) (l : Nat) (f : LinkX → LinkX) : (modLink s l f).regs = s.regs := rfl
@[simp] theorem modLink_mem (s : State) (l : Nat) (f : LinkX → LinkX) : (modLink s l f).mem = s.mem := rfl
@[simp] theorem modLink_bad (s : State) (l : Nat) (f : LinkX → LinkX) : (modLink s l f).bad = s.bad := rfl
@[simp] theorem modLink_shadows (s : State) (l : Nat) (f : LinkX → LinkX) : (modLink s l f).shadows = s.shadows := rfl
@[simp] theorem modLink_kao (s : State) (l : Nat) (f : LinkX → LinkX) : (modLink s l f).kao = s.kao := rfl
@[simp] theorem modLink_mbs (s : State) (l : Nat) (f : LinkX → LinkX) : (modLink s l f).mbs = s.mbs := rfl
@[simp] theorem modLink_cal (s : State) (l : Nat) (f : LinkX → LinkX) : (modLink s l f).cal = s.cal := rfl
@[simp] theorem modLink_pwr (s : State) (l : Nat) (f : LinkX → LinkX) : (modLink s l f).pwr = s.pwr := rfl
@[simp] theorem modLink_hif (s : State) (l : Nat) (f : LinkX → LinkX) : (modLink s l f).hif = s.hif := rfl
@[simp] theorem modLink_parts (s : State) (l : Nat) (f : LinkX → LinkX) : (modLink s l f).parts = s.parts := rfl
@[simp] theorem modLink_ctxs (s : State) (l : Nat) (f : LinkX → LinkX) : (modLink s l f).ctxs = s.ctxs := rfl
@[simp] theorem modLink_tick (s : State) (l : Nat) (f : LinkX → LinkX) : (modLink s l f).tick = s.tick := rfl
@[simp] theorem modLink_keys (s : State) (l : Nat) (f : LinkX → LinkX) : (modLink s l f).keys = s.keys := rfl
@[simp] theorem modLink_qacct (s : State) (l : Nat) (f : LinkX → LinkX) : (modLink s l f).qacct = s.qacct := rfl
@[simp] theorem modLink_qEnergy (s : State) (l : Nat) (f : LinkX → LinkX) : (modLink s l f).qEnergy = s.qEnergy := rfl
@[simp] theorem modLink_tier (s : State) (l : Nat) (f : LinkX → LinkX) : (modLink s l f).tier = s.tier := rfl
@[simp] theorem modLink_arf (s : State) (l : Nat) (f : LinkX → LinkX) : (modLink s l f).arf = s.arf := rfl
@[simp] theorem modLink_vex (s : State) (l : Nat) (f : LinkX → LinkX) : (modLink s l f).vex = s.vex := rfl
@[simp] theorem modLink_decls (s : State) (l : Nat) (f : LinkX → LinkX) : (modLink s l f).decls = s.decls := rfl
@[simp] theorem modLink_rmt (s : State) (l : Nat) (f : LinkX → LinkX) : (modLink s l f).rmt = s.rmt := rfl
@[simp] theorem modLink_coll (s : State) (l : Nat) (f : LinkX → LinkX) : (modLink s l f).coll = s.coll := rfl
@[simp] theorem modLink_wts (s : State) (l : Nat) (f : LinkX → LinkX) : (modLink s l f).wts = s.wts := rfl
@[simp] theorem modLink_srv (s : State) (l : Nat) (f : LinkX → LinkX) : (modLink s l f).srv = s.srv := rfl

@[simp] theorem modTier_pending (s : State) (p : Nat) (f : TierPart → TierPart) : (modTier s p f).pending = s.pending := rfl
@[simp] theorem modTier_freeCtr (s : State) (p : Nat) (f : TierPart → TierPart) : (modTier s p f).freeCtr = s.freeCtr := rfl
@[simp] theorem modTier_out (s : State) (p : Nat) (f : TierPart → TierPart) : (modTier s p f).out = s.out := rfl
@[simp] theorem modTier_regs (s : State) (p : Nat) (f : TierPart → TierPart) : (modTier s p f).regs = s.regs := rfl
@[simp] theorem modTier_mem (s : State) (p : Nat) (f : TierPart → TierPart) : (modTier s p f).mem = s.mem := rfl
@[simp] theorem modTier_bad (s : State) (p : Nat) (f : TierPart → TierPart) : (modTier s p f).bad = s.bad := rfl
@[simp] theorem modTier_shadows (s : State) (p : Nat) (f : TierPart → TierPart) : (modTier s p f).shadows = s.shadows := rfl
@[simp] theorem modTier_kao (s : State) (p : Nat) (f : TierPart → TierPart) : (modTier s p f).kao = s.kao := rfl
@[simp] theorem modTier_mbs (s : State) (p : Nat) (f : TierPart → TierPart) : (modTier s p f).mbs = s.mbs := rfl
@[simp] theorem modTier_cal (s : State) (p : Nat) (f : TierPart → TierPart) : (modTier s p f).cal = s.cal := rfl
@[simp] theorem modTier_pwr (s : State) (p : Nat) (f : TierPart → TierPart) : (modTier s p f).pwr = s.pwr := rfl
@[simp] theorem modTier_hif (s : State) (p : Nat) (f : TierPart → TierPart) : (modTier s p f).hif = s.hif := rfl
@[simp] theorem modTier_parts (s : State) (p : Nat) (f : TierPart → TierPart) : (modTier s p f).parts = s.parts := rfl
@[simp] theorem modTier_ctxs (s : State) (p : Nat) (f : TierPart → TierPart) : (modTier s p f).ctxs = s.ctxs := rfl
@[simp] theorem modTier_tick (s : State) (p : Nat) (f : TierPart → TierPart) : (modTier s p f).tick = s.tick := rfl
@[simp] theorem modTier_fab (s : State) (p : Nat) (f : TierPart → TierPart) : (modTier s p f).fab = s.fab := rfl
@[simp] theorem modTier_keys (s : State) (p : Nat) (f : TierPart → TierPart) : (modTier s p f).keys = s.keys := rfl
@[simp] theorem modTier_qacct (s : State) (p : Nat) (f : TierPart → TierPart) : (modTier s p f).qacct = s.qacct := rfl
@[simp] theorem modTier_qEnergy (s : State) (p : Nat) (f : TierPart → TierPart) : (modTier s p f).qEnergy = s.qEnergy := rfl
@[simp] theorem modTier_arf (s : State) (p : Nat) (f : TierPart → TierPart) : (modTier s p f).arf = s.arf := rfl
@[simp] theorem modTier_vex (s : State) (p : Nat) (f : TierPart → TierPart) : (modTier s p f).vex = s.vex := rfl
@[simp] theorem modTier_decls (s : State) (p : Nat) (f : TierPart → TierPart) : (modTier s p f).decls = s.decls := rfl
@[simp] theorem modTier_rmt (s : State) (p : Nat) (f : TierPart → TierPart) : (modTier s p f).rmt = s.rmt := rfl
@[simp] theorem modTier_coll (s : State) (p : Nat) (f : TierPart → TierPart) : (modTier s p f).coll = s.coll := rfl
@[simp] theorem modTier_wts (s : State) (p : Nat) (f : TierPart → TierPart) : (modTier s p f).wts = s.wts := rfl
@[simp] theorem modTier_srv (s : State) (p : Nat) (f : TierPart → TierPart) : (modTier s p f).srv = s.srv := rfl

@[simp] theorem modSrv_pending (s : State) (f : Serving → Serving) : (modSrv f s).pending = s.pending := rfl
@[simp] theorem modSrv_freeCtr (s : State) (f : Serving → Serving) : (modSrv f s).freeCtr = s.freeCtr := rfl
@[simp] theorem modSrv_out (s : State) (f : Serving → Serving) : (modSrv f s).out = s.out := rfl
@[simp] theorem modSrv_regs (s : State) (f : Serving → Serving) : (modSrv f s).regs = s.regs := rfl
@[simp] theorem modSrv_mem (s : State) (f : Serving → Serving) : (modSrv f s).mem = s.mem := rfl
@[simp] theorem modSrv_bad (s : State) (f : Serving → Serving) : (modSrv f s).bad = s.bad := rfl
@[simp] theorem modSrv_shadows (s : State) (f : Serving → Serving) : (modSrv f s).shadows = s.shadows := rfl
@[simp] theorem modSrv_kao (s : State) (f : Serving → Serving) : (modSrv f s).kao = s.kao := rfl
@[simp] theorem modSrv_mbs (s : State) (f : Serving → Serving) : (modSrv f s).mbs = s.mbs := rfl
@[simp] theorem modSrv_cal (s : State) (f : Serving → Serving) : (modSrv f s).cal = s.cal := rfl
@[simp] theorem modSrv_pwr (s : State) (f : Serving → Serving) : (modSrv f s).pwr = s.pwr := rfl
@[simp] theorem modSrv_hif (s : State) (f : Serving → Serving) : (modSrv f s).hif = s.hif := rfl
@[simp] theorem modSrv_parts (s : State) (f : Serving → Serving) : (modSrv f s).parts = s.parts := rfl
@[simp] theorem modSrv_ctxs (s : State) (f : Serving → Serving) : (modSrv f s).ctxs = s.ctxs := rfl
@[simp] theorem modSrv_tick (s : State) (f : Serving → Serving) : (modSrv f s).tick = s.tick := rfl
@[simp] theorem modSrv_fab (s : State) (f : Serving → Serving) : (modSrv f s).fab = s.fab := rfl
@[simp] theorem modSrv_keys (s : State) (f : Serving → Serving) : (modSrv f s).keys = s.keys := rfl
@[simp] theorem modSrv_qacct (s : State) (f : Serving → Serving) : (modSrv f s).qacct = s.qacct := rfl
@[simp] theorem modSrv_qEnergy (s : State) (f : Serving → Serving) : (modSrv f s).qEnergy = s.qEnergy := rfl
@[simp] theorem modSrv_tier (s : State) (f : Serving → Serving) : (modSrv f s).tier = s.tier := rfl
@[simp] theorem modSrv_arf (s : State) (f : Serving → Serving) : (modSrv f s).arf = s.arf := rfl
@[simp] theorem modSrv_vex (s : State) (f : Serving → Serving) : (modSrv f s).vex = s.vex := rfl
@[simp] theorem modSrv_decls (s : State) (f : Serving → Serving) : (modSrv f s).decls = s.decls := rfl
@[simp] theorem modSrv_rmt (s : State) (f : Serving → Serving) : (modSrv f s).rmt = s.rmt := rfl
@[simp] theorem modSrv_coll (s : State) (f : Serving → Serving) : (modSrv f s).coll = s.coll := rfl
@[simp] theorem modSrv_wts (s : State) (f : Serving → Serving) : (modSrv f s).wts = s.wts := rfl

@[simp] theorem modWts_pending (s : State) (f : Weights → Weights) : (modWts f s).pending = s.pending := rfl
@[simp] theorem modWts_freeCtr (s : State) (f : Weights → Weights) : (modWts f s).freeCtr = s.freeCtr := rfl
@[simp] theorem modWts_out (s : State) (f : Weights → Weights) : (modWts f s).out = s.out := rfl
@[simp] theorem modWts_regs (s : State) (f : Weights → Weights) : (modWts f s).regs = s.regs := rfl
@[simp] theorem modWts_mem (s : State) (f : Weights → Weights) : (modWts f s).mem = s.mem := rfl
@[simp] theorem modWts_bad (s : State) (f : Weights → Weights) : (modWts f s).bad = s.bad := rfl
@[simp] theorem modWts_shadows (s : State) (f : Weights → Weights) : (modWts f s).shadows = s.shadows := rfl
@[simp] theorem modWts_kao (s : State) (f : Weights → Weights) : (modWts f s).kao = s.kao := rfl
@[simp] theorem modWts_mbs (s : State) (f : Weights → Weights) : (modWts f s).mbs = s.mbs := rfl
@[simp] theorem modWts_cal (s : State) (f : Weights → Weights) : (modWts f s).cal = s.cal := rfl
@[simp] theorem modWts_pwr (s : State) (f : Weights → Weights) : (modWts f s).pwr = s.pwr := rfl
@[simp] theorem modWts_hif (s : State) (f : Weights → Weights) : (modWts f s).hif = s.hif := rfl
@[simp] theorem modWts_parts (s : State) (f : Weights → Weights) : (modWts f s).parts = s.parts := rfl
@[simp] theorem modWts_ctxs (s : State) (f : Weights → Weights) : (modWts f s).ctxs = s.ctxs := rfl
@[simp] theorem modWts_tick (s : State) (f : Weights → Weights) : (modWts f s).tick = s.tick := rfl
@[simp] theorem modWts_fab (s : State) (f : Weights → Weights) : (modWts f s).fab = s.fab := rfl
@[simp] theorem modWts_keys (s : State) (f : Weights → Weights) : (modWts f s).keys = s.keys := rfl
@[simp] theorem modWts_qacct (s : State) (f : Weights → Weights) : (modWts f s).qacct = s.qacct := rfl
@[simp] theorem modWts_qEnergy (s : State) (f : Weights → Weights) : (modWts f s).qEnergy = s.qEnergy := rfl
@[simp] theorem modWts_tier (s : State) (f : Weights → Weights) : (modWts f s).tier = s.tier := rfl
@[simp] theorem modWts_arf (s : State) (f : Weights → Weights) : (modWts f s).arf = s.arf := rfl
@[simp] theorem modWts_vex (s : State) (f : Weights → Weights) : (modWts f s).vex = s.vex := rfl
@[simp] theorem modWts_decls (s : State) (f : Weights → Weights) : (modWts f s).decls = s.decls := rfl
@[simp] theorem modWts_rmt (s : State) (f : Weights → Weights) : (modWts f s).rmt = s.rmt := rfl
@[simp] theorem modWts_coll (s : State) (f : Weights → Weights) : (modWts f s).coll = s.coll := rfl
@[simp] theorem modWts_srv (s : State) (f : Weights → Weights) : (modWts f s).srv = s.srv := rfl

@[simp] theorem draw_pending (s : State) (w : Nat) : ((draw w s).2).pending = s.pending := rfl
@[simp] theorem draw_out (s : State) (w : Nat) : ((draw w s).2).out = s.out := rfl
@[simp] theorem draw_regs (s : State) (w : Nat) : ((draw w s).2).regs = s.regs := rfl
@[simp] theorem draw_mem (s : State) (w : Nat) : ((draw w s).2).mem = s.mem := rfl
@[simp] theorem draw_bad (s : State) (w : Nat) : ((draw w s).2).bad = s.bad := rfl
@[simp] theorem draw_shadows (s : State) (w : Nat) : ((draw w s).2).shadows = s.shadows := rfl
@[simp] theorem draw_kao (s : State) (w : Nat) : ((draw w s).2).kao = s.kao := rfl
@[simp] theorem draw_mbs (s : State) (w : Nat) : ((draw w s).2).mbs = s.mbs := rfl
@[simp] theorem draw_cal (s : State) (w : Nat) : ((draw w s).2).cal = s.cal := rfl
@[simp] theorem draw_pwr (s : State) (w : Nat) : ((draw w s).2).pwr = s.pwr := rfl
@[simp] theorem draw_hif (s : State) (w : Nat) : ((draw w s).2).hif = s.hif := rfl
@[simp] theorem draw_parts (s : State) (w : Nat) : ((draw w s).2).parts = s.parts := rfl
@[simp] theorem draw_ctxs (s : State) (w : Nat) : ((draw w s).2).ctxs = s.ctxs := rfl
@[simp] theorem draw_tick (s : State) (w : Nat) : ((draw w s).2).tick = s.tick := rfl
@[simp] theorem draw_fab (s : State) (w : Nat) : ((draw w s).2).fab = s.fab := rfl
@[simp] theorem draw_keys (s : State) (w : Nat) : ((draw w s).2).keys = s.keys := rfl
@[simp] theorem draw_qacct (s : State) (w : Nat) : ((draw w s).2).qacct = s.qacct := rfl
@[simp] theorem draw_qEnergy (s : State) (w : Nat) : ((draw w s).2).qEnergy = s.qEnergy := rfl
@[simp] theorem draw_tier (s : State) (w : Nat) : ((draw w s).2).tier = s.tier := rfl
@[simp] theorem draw_arf (s : State) (w : Nat) : ((draw w s).2).arf = s.arf := rfl
@[simp] theorem draw_vex (s : State) (w : Nat) : ((draw w s).2).vex = s.vex := rfl
@[simp] theorem draw_decls (s : State) (w : Nat) : ((draw w s).2).decls = s.decls := rfl
@[simp] theorem draw_rmt (s : State) (w : Nat) : ((draw w s).2).rmt = s.rmt := rfl
@[simp] theorem draw_coll (s : State) (w : Nat) : ((draw w s).2).coll = s.coll := rfl
@[simp] theorem draw_wts (s : State) (w : Nat) : ((draw w s).2).wts = s.wts := rfl
@[simp] theorem draw_srv (s : State) (w : Nat) : ((draw w s).2).srv = s.srv := rfl

@[simp] theorem drawBytes_pending (s : State) (n : Nat) : ((drawBytes n s).2).pending = s.pending := rfl
@[simp] theorem drawBytes_out (s : State) (n : Nat) : ((drawBytes n s).2).out = s.out := rfl
@[simp] theorem drawBytes_regs (s : State) (n : Nat) : ((drawBytes n s).2).regs = s.regs := rfl
@[simp] theorem drawBytes_mem (s : State) (n : Nat) : ((drawBytes n s).2).mem = s.mem := rfl
@[simp] theorem drawBytes_bad (s : State) (n : Nat) : ((drawBytes n s).2).bad = s.bad := rfl
@[simp] theorem drawBytes_shadows (s : State) (n : Nat) : ((drawBytes n s).2).shadows = s.shadows := rfl
@[simp] theorem drawBytes_kao (s : State) (n : Nat) : ((drawBytes n s).2).kao = s.kao := rfl
@[simp] theorem drawBytes_mbs (s : State) (n : Nat) : ((drawBytes n s).2).mbs = s.mbs := rfl
@[simp] theorem drawBytes_cal (s : State) (n : Nat) : ((drawBytes n s).2).cal = s.cal := rfl
@[simp] theorem drawBytes_pwr (s : State) (n : Nat) : ((drawBytes n s).2).pwr = s.pwr := rfl
@[simp] theorem drawBytes_hif (s : State) (n : Nat) : ((drawBytes n s).2).hif = s.hif := rfl
@[simp] theorem drawBytes_parts (s : State) (n : Nat) : ((drawBytes n s).2).parts = s.parts := rfl
@[simp] theorem drawBytes_ctxs (s : State) (n : Nat) : ((drawBytes n s).2).ctxs = s.ctxs := rfl
@[simp] theorem drawBytes_tick (s : State) (n : Nat) : ((drawBytes n s).2).tick = s.tick := rfl
@[simp] theorem drawBytes_fab (s : State) (n : Nat) : ((drawBytes n s).2).fab = s.fab := rfl
@[simp] theorem drawBytes_keys (s : State) (n : Nat) : ((drawBytes n s).2).keys = s.keys := rfl
@[simp] theorem drawBytes_qacct (s : State) (n : Nat) : ((drawBytes n s).2).qacct = s.qacct := rfl
@[simp] theorem drawBytes_qEnergy (s : State) (n : Nat) : ((drawBytes n s).2).qEnergy = s.qEnergy := rfl
@[simp] theorem drawBytes_tier (s : State) (n : Nat) : ((drawBytes n s).2).tier = s.tier := rfl
@[simp] theorem drawBytes_arf (s : State) (n : Nat) : ((drawBytes n s).2).arf = s.arf := rfl
@[simp] theorem drawBytes_vex (s : State) (n : Nat) : ((drawBytes n s).2).vex = s.vex := rfl
@[simp] theorem drawBytes_decls (s : State) (n : Nat) : ((drawBytes n s).2).decls = s.decls := rfl
@[simp] theorem drawBytes_rmt (s : State) (n : Nat) : ((drawBytes n s).2).rmt = s.rmt := rfl
@[simp] theorem drawBytes_coll (s : State) (n : Nat) : ((drawBytes n s).2).coll = s.coll := rfl
@[simp] theorem drawBytes_wts (s : State) (n : Nat) : ((drawBytes n s).2).wts = s.wts := rfl
@[simp] theorem drawBytes_srv (s : State) (n : Nat) : ((drawBytes n s).2).srv = s.srv := rfl

/-! ### A command is counted as fetched -/

@[simp] theorem startCmd_pending (e : Entry) (s : State) : (startCmd e s).pending = s.pending := by unfold startCmd; split <;> rfl
@[simp] theorem startCmd_freeCtr (e : Entry) (s : State) : (startCmd e s).freeCtr = s.freeCtr := by unfold startCmd; split <;> rfl
@[simp] theorem startCmd_out (e : Entry) (s : State) : (startCmd e s).out = s.out := by unfold startCmd; split <;> rfl
@[simp] theorem startCmd_regs (e : Entry) (s : State) : (startCmd e s).regs = s.regs := by unfold startCmd; split <;> rfl
@[simp] theorem startCmd_mem (e : Entry) (s : State) : (startCmd e s).mem = s.mem := by unfold startCmd; split <;> rfl
@[simp] theorem startCmd_bad (e : Entry) (s : State) : (startCmd e s).bad = s.bad := by unfold startCmd; split <;> rfl
@[simp] theorem startCmd_shadows (e : Entry) (s : State) : (startCmd e s).shadows = s.shadows := by unfold startCmd; split <;> rfl
@[simp] theorem startCmd_cal (e : Entry) (s : State) : (startCmd e s).cal = s.cal := by unfold startCmd; split <;> rfl
@[simp] theorem startCmd_pwr (e : Entry) (s : State) : (startCmd e s).pwr = s.pwr := by unfold startCmd; split <;> rfl
@[simp] theorem startCmd_hif (e : Entry) (s : State) : (startCmd e s).hif = s.hif := by unfold startCmd; split <;> rfl
@[simp] theorem startCmd_parts (e : Entry) (s : State) : (startCmd e s).parts = s.parts := by unfold startCmd; split <;> rfl
@[simp] theorem startCmd_ctxs (e : Entry) (s : State) : (startCmd e s).ctxs = s.ctxs := by unfold startCmd; split <;> rfl
@[simp] theorem startCmd_tick (e : Entry) (s : State) : (startCmd e s).tick = s.tick := by unfold startCmd; split <;> rfl
@[simp] theorem startCmd_fab (e : Entry) (s : State) : (startCmd e s).fab = s.fab := by unfold startCmd; split <;> rfl
@[simp] theorem startCmd_keys (e : Entry) (s : State) : (startCmd e s).keys = s.keys := by unfold startCmd; split <;> rfl
@[simp] theorem startCmd_qacct (e : Entry) (s : State) : (startCmd e s).qacct = s.qacct := by unfold startCmd; split <;> rfl
@[simp] theorem startCmd_qEnergy (e : Entry) (s : State) : (startCmd e s).qEnergy = s.qEnergy := by unfold startCmd; split <;> rfl
@[simp] theorem startCmd_tier (e : Entry) (s : State) : (startCmd e s).tier = s.tier := by unfold startCmd; split <;> rfl
@[simp] theorem startCmd_arf (e : Entry) (s : State) : (startCmd e s).arf = s.arf := by unfold startCmd; split <;> rfl
@[simp] theorem startCmd_vex (e : Entry) (s : State) : (startCmd e s).vex = s.vex := by unfold startCmd; split <;> rfl
@[simp] theorem startCmd_decls (e : Entry) (s : State) : (startCmd e s).decls = s.decls := by unfold startCmd; split <;> rfl
@[simp] theorem startCmd_rmt (e : Entry) (s : State) : (startCmd e s).rmt = s.rmt := by unfold startCmd; split <;> rfl
@[simp] theorem startCmd_coll (e : Entry) (s : State) : (startCmd e s).coll = s.coll := by unfold startCmd; split <;> rfl
@[simp] theorem startCmd_wts (e : Entry) (s : State) : (startCmd e s).wts = s.wts := by unfold startCmd; split <;> rfl
@[simp] theorem startCmd_srv (e : Entry) (s : State) : (startCmd e s).srv = s.srv := by unfold startCmd; split <;> rfl

/-! ### Registers -/

/-- A register field reads as it was last written, cut to its width. -/
theorem rd_wr_self {s : State} (f : Field) (v : Nat) (h : risesFrom 0 s.regs = true) : rd (wr s f v) f = v % 2 ^ f.width :=
  tget_tput_self _ _ _ _ h

/-- A write to a register field leaves every other field alone. -/
theorem rd_wr_ne (s : State) {f g : Field} (v : Nat) (h : g.key ≠ f.key) : rd (wr s f v) g = rd s g :=
  tget_tput_ne _ _ _ _ h

theorem rdb_wrb_self {s : State} (f : Field) (b : Bool) (h : risesFrom 0 s.regs = true) (w : f.width ≠ 0) :
    rdb (wrb s f b) f = b := by
  have hw : 2 ≤ 2 ^ f.width := by
    cases hf : f.width with
    | zero => exact absurd hf w
    | succ n => rw [Nat.pow_succ]; have := Nat.one_le_two_pow (n := n); omega
  unfold rdb wrb
  rw [rd_wr_self f _ h]
  cases b
  · simp [bnat]
  · simp only [bnat]; rw [Nat.mod_eq_of_lt (by simp; omega)]; rfl

@[simp] theorem rd_startCmd (e : Entry) (s : State) (f : Field) : rd (startCmd e s) f = rd s f := by
  unfold rd; rw [startCmd_regs]

@[simp] theorem rdb_startCmd (e : Entry) (s : State) (f : Field) : rdb (startCmd e s) f = rdb s f := by
  unfold rdb; rw [rd_startCmd]

@[simp] theorem part_startCmd (e : Entry) (s : State) (p : Nat) : part (startCmd e s) p = part s p := by
  unfold part; rw [startCmd_parts]

end Sys2Proof.Machine
end

