-- ==== Sys2Proof/Laws/Stores.lean ====
section
/-!
SUPPORT. What the operations of a frame command leave of memory, what a scratchpad write puts there, and the lengths and
bytes of packed lists.
-/

namespace Sys2Proof.Machine

variable {α : Type}

@[simp] theorem showCtx_mem (G : Nat) (s : State) : (showCtx G s).mem = s.mem :=
  (showCtx_keeps (W := 8) G s (Keeps.refl _ _) ⟨by decide⟩).same .mem (by decide)

@[simp] theorem issueCmd_mem (cls op G fl : Nat) (a : BitVec 112) (s : State) : (issueCmd cls op G fl a s).mem = s.mem :=
  (issueCmd_keeps (W := 8200) cls op G fl a s (Keeps.refl _ _) ⟨by decide⟩).same .mem (by decide)

@[simp] theorem takeUe_mem (ue : List Nat) (s : State) : (takeUe ue s).mem = s.mem :=
  (takeUe_keeps (W := 32) ue s (Keeps.refl _ _) ⟨by decide⟩).same .mem (by decide)

@[simp] theorem countBeats_mem (G n : Nat) (s : State) : (countBeats G n s).mem = s.mem :=
  (countBeats_keeps (W := 4104) G n s (Keeps.refl _ _) ⟨by decide⟩).same .mem (by decide)

@[simp] theorem setBadRange_mem (s : State) (a b : Nat) (x : Bool) : (setBadRange s a b x).mem = s.mem :=
  (setBadRange_keeps (W := 32) a b x (Keeps.refl _ s) ⟨by decide⟩).same .mem (by decide)

@[simp] theorem spmError_mem (f : Field) (b G off src op sev : Nat) (ue : Bool) (s : State) :
    (spmError f b G off src op sev ue s).mem = s.mem :=
  (spmError_keeps (W := 5006) f b G off src op sev ue s (Keeps.refl _ _) ⟨by decide⟩).same .mem (by decide)

/-- Bytes written to a scratchpad stand there and nowhere else. -/
@[simp] theorem spmWrite_mem (G off src op : Nat) (b : Bytes) (s : State) :
    (spmWrite G off src op b s).mem = pokeBytes s.mem (spmAddr G off) b := by
  unfold spmWrite
  by_cases h : b.length = 0
  · rw [List.length_eq_zero_iff.1 h]; rfl
  · dsimp only
    rw [if_neg h]
    have h1 : ∀ (c : Prop) [Decidable c] (x y : State), (if c then x else y).mem = if c then x.mem else y.mem := by
      intros; split <;> rfl
    simp only [h1, spmError_mem, setBadRange_mem, countBeats_mem, ite_self]
    rfl

@[simp] theorem operandUe_mem (G cls src : Nat) (o : List Nat) (s : State) : (operandUe G cls src o s).mem = s.mem :=
  (operandUe_keeps (W := 21390) G cls src o s (Keeps.refl _ _) ⟨by decide⟩).same .mem (by decide)

theorem foldl_mem (f : State → α → State) (h : ∀ s x, (f s x).mem = s.mem) (l : List α) (s : State) :
    (l.foldl f s).mem = s.mem := by
  induction l generalizing s with
  | nil => rfl
  | cons a r ih => simp [List.foldl, ih, h]

@[simp] theorem readRanges_mem (G cls src : Nat) (rs : List (Nat × Nat)) (s : State) : (readRanges G cls src rs s).mem = s.mem := by
  unfold readRanges; rw [operandUe_mem]; exact foldl_mem _ (fun s x => countBeats_mem _ _ s) _ _

@[simp] theorem raiseFlags_mem (G cls : Nat) (f : Flags) (s : State) : (raiseFlags G cls f s).mem = s.mem :=
  (raiseFlags_keeps (W := 21388) G cls f s (Keeps.refl _ _) ⟨by decide⟩).same .mem (by decide)

/-! ### Byte strings -/

theorem leBytes_length (n k : Nat) : (leBytes n k).length = n := by
  induction n generalizing k with
  | zero => rfl
  | succ n ih => simp [leBytes, ih]

theorem join_length (z : Nat) (f : α → Nat) (l : List α) : (joinBytes (l.map (fun x => leBytes z (f x)))).length = z * l.length := by
  induction l with
  | nil => rfl
  | cons a r ih =>
    simp only [joinBytes, List.map, List.foldr, List.length_append, leBytes_length, List.length_cons] at *
    rw [ih, Nat.mul_succ]; omega

/-- Byte `b` of element `k` of a packed list. -/
theorem join_getD (z : Nat) (f : α → Nat) (l : List α) (k b : Nat) (hb : b < z) (h : k < l.length) :
    (joinBytes (l.map (fun x => leBytes z (f x)))).getD (z * k + b) 0 = (leBytes z (f (l[k]))).getD b 0 := by
  induction l generalizing k with
  | nil => simp at h
  | cons a r ih =>
    simp only [joinBytes, List.map, List.foldr]
    cases k with
    | zero => simp [List.getD, List.getElem?_append_left, leBytes_length, hb]
    | succ k =>
      have := ih k (by simpa using h)
      simp only [joinBytes] at this
      rw [Nat.mul_succ]
      simp only [List.getD] at *
      rw [List.getElem?_append_right (by rw [leBytes_length]; omega), leBytes_length, show z * k + z + b - z = z * k + b by omega, this]
      simp

/-! ### Tables: what a put that is not the default leaves -/

theorem tput_ne_nil [DecidableEq α] {d v : α} (h : v ≠ d) (t : Tab α) (k : Nat) : tput d t k v ≠ [] := by
  cases t with
  | nil => simp [tput, h]
  | cons x r => obtain ⟨a, w⟩ := x; unfold tput; repeat' split
                all_goals simp

theorem tget_tput_eq [DecidableEq α] {d v : α} (h : v ≠ d) (t : Tab α) (k : Nat) : tget d (tput d t k v) k = v := by
  induction t with
  | nil => simp [tput, h, tget]
  | cons x r ih => 
    obtain ⟨a, w⟩ := x; unfold tput
    split
    · simp [h, tget]
    · split
      · simp [h, tget]
      · rename_i h1 h2; simp [tget, ih]; intro h3; omega

end Sys2Proof.Machine
end

