-- ==== Sys2Proof/WellFormed.lean ====
section
/-!
DEFINITION. What a command's operands may be: numbers of units that exist, fields that fit their widths. The block's
meanings are total; a term that fails a check here spells no command that the outside can send.
-/

namespace Sys2Proof

/-- A number fits a field of `n` bits. -/
def fits (n v : Nat) : Bool := decide (v < 2 ^ n)

/-- A quadrant: 12 stacks of 4 (R13). -/
def quadOk (G : Nat) : Bool := decide (G < 48)

/-- A stack. -/
def stackOk (n : Nat) : Bool := decide (n < 12)

/-- A local die of a stack. -/
def dieOk (d : Nat) : Bool := decide (d < 12)

/-- A partition (R416). -/
def partOk (p : Nat) : Bool := decide (p < 32)

/-- A fabric link: bundles' links 0–55, tray links 56–95 (R255). -/
def linkOk (l : Nat) : Bool := decide (l < 96)

/-- A link die. -/
def linkDieOk (n : Nat) : Bool := decide (n < 4)

/-- A host port, or a storage port by its number behind S. -/
def portOk (x : Nat) : Bool := decide (x < 2)

/-- A mailbox window of a function: the PFs 0 and 1, VF p at 2 + p (R446). -/
def mailboxOk (m : Nat) : Bool := decide (m < 34)

/-- A register path: a function's window, or 34 for the management port (R18). -/
def pathOk (m : Nat) : Bool := decide (m < 35)

/-- A regulator. -/
def railOk (r : Nat) : Bool := decide (r < 8)

/-- A thread of a control core, or a Kaolin core (256, 257). -/
def threadOk (t : Nat) : Bool := decide (t < 258)

/-- A slot of a frame: SLOT has 12 bits (Table 11-5). -/
def slotOk (s : Nat) : Bool := fits 12 s

/-- An IDE stream of a host port (R544). -/
def ideStreamOk (k : Nat) : Bool := decide (k < 3)

/-- A submission entry has 64 bytes (Table 18-6). -/
def entryBytesOk (b : Bytes) : Bool := b.length == 64

/-- The mailbox an entry stands in exists (Table 18-1). -/
def Src.wf : Src → Bool
  | .pf x => portOk x
  | .vf p => partOk p
  | .mgmt a xid _ => fits 128 a && fits 32 xid

/-- The fields of Table 18-6 fit their widths. -/
def Entry.wf (e : Entry) : Bool :=
  e.src.wf && fits 16 e.tag && fits 7 e.resv4 && fits 8 e.flags && fits 8 e.part && fits 8 e.resv7 && e.args.length == 56

/-- The fields of CANDIDATE (Table 11-20). -/
def Candidate.wf (c : Candidate) : Bool :=
  fits 8 c.pkg && fits 8 c.tray && fits 8 c.prio && fits 256 c.mapDigest && fits 48 c.frame && fits 8 c.gen

/-- Version numbers are words. -/
def FwImage.wf (f : FwImage) : Bool := fits 32 f.version && fits 32 f.security

/-- The fields of an error record (Table 19-4). -/
def ErrIn.wf (x : ErrIn) : Bool :=
  fits 16 x.source && fits 16 x.code && fits 8 x.unitType && fits 16 x.unit && decide (x.severity < 4) && fits 8 x.op &&
    fits 8 x.part && fits 64 x.addr

/-- The fields of Table 11-7. -/
def Flit.wf (f : Flit) : Bool :=
  fits 4 f.type && fits 1 f.vc && fits 8 f.dest && fits 8 f.src && fits 5 f.spart && fits 16 f.flow && decide (f.pay.length ≤ 240)

/-- The fields of Table 11-5. -/
def SlotRx.wf (r : SlotRx) : Bool :=
  slotOk r.slot && fits 2 r.kind && fits 16 r.frame && fits 3 r.hop && fits 3 r.nhop && fits 8 r.slice && fits 8 r.src &&
    fits 8 r.dest && fits 16 r.stream && fits 16 r.ackSeq && r.flits.all Flit.wf

/-- The fields of Table 2-2. -/
def TickSym.wf (t : TickSym) : Bool :=
  fits 48 t.frame && fits 12 t.lenNext && fits 12 t.base && fits 8 t.master && fits 8 t.standby && fits 8 t.fence && fits 8 t.gen

/-- The fields of Table 11-6. -/
def IdentSym.wf (t : IdentSym) : Bool :=
  fits 8 t.pkg && fits 7 t.link && fits 4 t.bundle && fits 4 t.pos && fits 16 t.stepping && fits 32 t.seq && fits 64 t.digest

/-- The fields of Table 11-19. -/
def CtlHdr.wf (h : CtlHdr) : Bool :=
  fits 8 h.srcPkg && fits 8 h.srcPart && fits 8 h.dstPart && fits 8 h.slice && fits 8 h.role && fits 64 h.epoch &&
    fits 32 h.mseq && fits 32 h.replyTo && fits 48 h.frame

/-- A hardened word stands at a register offset. -/
def Upset.wf (u : Upset) : Bool := fits 26 u.off && u.off % 4 == 0

/-- The fields of Table 12-4. -/
def RmtReq.wf (q : RmtReq) : Bool :=
  fits 8 q.op && fits 4 q.size && fits 16 q.tag && fits 16 q.reqid && fits 8 q.dom && fits 56 q.addr && fits 64 q.a &&
    fits 64 q.b && fits 8 q.src && fits 5 q.spart

/-- The fields of Table 12-5. -/
def RmtRsp.wf (r : RmtRsp) : Bool := fits 8 r.op && fits 4 r.code && fits 16 r.tag && fits 16 r.reqid && fits 8 r.src

/-- A thread's access. -/
def CcAccess.wf (a : CcAccess) : Bool := threadOk a.thread && fits 64 a.addr && fits 4 a.size && fits 64 a.a && fits 64 a.b

/-- Numbers of a thaw. -/
def ThawIn.wf (t : ThawIn) : Bool := partOk t.part && fits 16 t.jidx && fits 64 t.image && fits 16 t.st

/-- A transport of SPDM. -/
def SpdmReq.wf : SpdmReq → Bool
  | .establish port id => decide (port < 3) && fits 32 id
  | .endSession port id => decide (port < 3) && fits 32 id
  | .measurements port index => decide (port < 3) && fits 8 index
  | .other port => decide (port < 3)

/-- A PLDM numeric sensor is named by 16 bits. -/
def PldmReq.wf : PldmReq → Bool
  | .sensor id => fits 16 id
  | .other => true

/-- An endpoint ID is a byte. -/
def MctpReq.wf : MctpReq → Bool
  | .setEid eid => fits 8 eid
  | .getEid => true
  | .other => true

/-- A command is well formed. -/
def Instr.wf : Instr → Bool
  | .devIdentify e _ => e.wf
  | .devGetState e _ => e.wf
  | .devSetPowerState e _ => e.wf
  | .devGetTelemetry e _ => e.wf
  | .devSetTime e _ => e.wf
  | .partCreate e _ => e.wf
  | .partDestroy e _ => e.wf
  | .partAssign e _ => e.wf
  | .jobStart e _ _ => e.wf
  | .jobResume e _ => e.wf
  | .jobStopImmediate e _ => e.wf
  | .jobStopCheap e _ => e.wf
  | .jobPause e _ => e.wf
  | .jobPauseCheap e _ => e.wf
  | .jobQuery e _ => e.wf
  | .partAccounting e _ => e.wf
  | .modelDeclare e _ => e.wf
  | .weightLoadShard e _ => e.wf
  | .weightVerify e _ => e.wf
  | .replaceBegin e _ => e.wf
  | .replaceLayer e _ => e.wf
  | .replaceEnd e _ => e.wf
  | .replaceAbort e _ => e.wf
  | .keyInstall e _ => e.wf
  | .keyDelete e _ => e.wf
  | .reqSubmit e _ => e.wf
  | .reqContinue e _ => e.wf
  | .reqCancel e _ => e.wf
  | .reqQuery e _ => e.wf
  | .reqRelease e _ => e.wf
  | .queueConfig e _ => e.wf
  | .queueRemove e _ => e.wf
  | .streamBind e _ => e.wf
  | .streamUnbind e _ => e.wf
  | .admissionConfig e _ => e.wf
  | .sessionFallow e _ => e.wf
  | .sessionThawOwn e _ => e.wf
  | .sessionThawNew e _ => e.wf
  | .sessionExport e _ => e.wf
  | .sessionImport e _ => e.wf
  | .sessionDiscard e _ => e.wf
  | .topoLoadMap e _ => e.wf
  | .topoVerify e _ => e.wf
  | .linkQuery e _ => e.wf
  | .groupWrite e _ => e.wf
  | .tickConfig e _ => e.wf
  | .sliceBind e _ => e.wf
  | .pwrSetCap e _ => e.wf
  | .pwrSetMode e _ => e.wf
  | .pwrDomain e _ => e.wf
  | .energyRead e _ => e.wf
  | .faultLogRead e _ => e.wf
  | .faultPolicySet e _ => e.wf
  | .scrubConfig e _ => e.wf
  | .replicaCompareConfig e _ => e.wf
  | .unitFence e _ => e.wf
  | .unitUnfence e _ => e.wf
  | .freeze e _ => e.wf
  | .clockRelease e _ _ => e.wf
  | .scanRead e _ => e.wf
  | .diagRun e _ => e.wf
  | .mbSqTailWrite mb tail entries => mailboxOk mb && fits 16 tail && entries.all entryBytesOk
  | .mbCqHeadWrite mb v => mailboxOk mb && fits 16 v
  | .mbEvHeadWrite mb v => mailboxOk mb && fits 16 v
  | .srvRingHead p ring head => partOk p && fits 16 ring && fits 32 head
  | .mailboxFetch _ => true
  | .managementDatagram src _ _ => fits 128 src
  | .tierProbeWrite p page => partOk p && fits 27 page
  | .linkOut l => linkOk l
  | .linkRetrain l => linkOk l
  | .linkDisable l _ => linkOk l
  | .counterLowRead path off => pathOk path && fits 26 off
  | .rcFieldRead path off => pathOk path && fits 26 off
  | .registerWrite path off _ => pathOk path && fits 26 off
  | .spdmRequest r => r.wf
  | .ideKmRequest x session stream => portOk x && fits 32 session && ideStreamOk stream
  | .staemGet idx => fits 32 idx
  | .staemSetCollector addr port => fits 128 addr && fits 16 port
  | .staemAck idx => fits 32 idx
  | .calicheStatus => true
  | .staemCollectorAck addr first => fits 128 addr && fits 32 first
  | .staemResendTimer => true
  | .staemSend => true
  | .pldmFirmwareUpdate _ img => img.wf
  | .pldmRequest r => r.wf
  | .mctpControlRequest r => r.wf
  | .pwrEnRise => true
  | .pwrEnFall => true
  | .resetNAssert => true
  | .resetNRelease => true
  | .calicheSupplyOn _ => true
  | .freezeNFall => true
  | .vrAlert r statusWord => railOk r && fits 16 statusWord
  | .tickSyncInEdge _ => true
  | .sensorSample temps => temps.length == 208
  | .refclk100Loss => true
  | .serdesRefLoss n => linkDieOk n
  | .xtalLoss => true
  | .trstNAssert => true
  | .jtagBypass _ => true
  | .jtagIdcode _ => true
  | .jtagSamplePreload _ => true
  | .jtagExtest _ => true
  | .jtagClamp _ => true
  | .jtagHighz _ => true
  | .scanSel chain => fits 16 chain
  | .scanShift _ => true
  | .tick upsets => upsets.all Upset.wf
  | .commitDeadline => true
  | .tickSymbolReceive l _ sym _ => linkOk l && sym.wf
  | .missingTick => true
  | .tickLossSelfFence => true
  | .slotReceive l rx => linkOk l && rx.wf
  | .slotSend l slot => linkOk l && slotOk slot
  | .openRetryTimeout l => linkOk l
  | .abortSymbolReceive l _ kind frame _ => linkOk l && fits 2 kind && fits 16 frame
  | .linkDownSymbol l _ pos effective => linkOk l && fits 4 pos && fits 16 effective
  | .faultRptSymbol l _ reporter accused frame => linkOk l && fits 8 reporter && fits 8 accused && fits 48 frame
  | .echoSymbol l _ _ roundTrip turnaround => linkOk l && fits 32 roundTrip && fits 32 turnaround
  | .identSymbol l _ sym => linkOk l && sym.wf
  | .laneLockLoss l lane _ => linkOk l && decide (lane < 2)
  | .fecUeLimit l _ => linkOk l
  | .trainingStepDone l => linkOk l
  | .trainingStepTimeout l => linkOk l
  | .retrainTimer l => linkOk l
  | .detourTableRebuild => true
  | .remoteRequestHome q _ => q.wf
  | .remoteResponse r => r.wf
  | .remoteTimeout reqid tag => fits 16 reqid && fits 16 tag
  | .combineWindowExpiry entry => fits 10 entry
  | .ccRemoteAccess a => a.wf
  | .ccFence thread => threadOk thread
  | .deferredAtomicResponse tag code => fits 16 tag && fits 4 code
  | .ctlAck h st => h.wf && fits 16 st
  | .stretchReq h k => h.wf && fits 16 k
  | .candidate h c => h.wf && c.wf
  | .ctlJoin h _ prio tray => h.wf && fits 8 prio && fits 8 tray
  | .ctlReady h imageId digest rank slotCount => h.wf && fits 64 imageId && fits 64 digest && fits 16 rank && fits 32 slotCount
  | .transitInstall h imageId slice _ => h.wf && fits 64 imageId && fits 8 slice
  | .transitReply h imageId result => h.wf && fits 64 imageId && fits 8 result
  | .ctlGo h imageId frame _ => h.wf && fits 64 imageId && fits 48 frame
  | .ctlAbandon h imageId status => h.wf && fits 64 imageId && fits 16 status
  | .transitRelease h imageId slice => h.wf && fits 64 imageId && fits 8 slice
  | .creditGrant h slots pages => h.wf && fits 16 slots && fits 32 pages
  | .creditReturn h slots pages => h.wf && fits 16 slots && fits 32 pages
  | .ctlAssign h req ctl jidx gen => h.wf && req.length == 64 && ctl.length == 64 && fits 16 jidx && fits 16 gen
  | .installed h jidx gen tjidx tgen => h.wf && fits 16 jidx && fits 16 gen && fits 16 tjidx && fits 16 tgen
  | .ctlFill h v => h.wf && fits 8 v
  | .pkgDigest h unit window _ digest => h.wf && fits 16 unit && fits 48 window && fits 128 digest
  | .sliceDigest h unit window _ modelId epoch digest => h.wf && fits 16 unit && fits 48 window && fits 64 modelId && fits 64 epoch && fits 128 digest
  | .unitDone h unit epoch => h.wf && fits 16 unit && fits 64 epoch
  | .segReport h image _ medium bytes units _ => h.wf && fits 64 image && fits 8 medium && fits 64 bytes && fits 32 units
  | .unitFetch h image index offset want => h.wf && fits 64 image && fits 32 index && fits 32 offset && fits 32 want
  | .unitData h image index offset st _ => h.wf && fits 64 image && fits 32 index && fits 32 offset && fits 16 st
  | .thawReport h image st units => h.wf && fits 64 image && fits 16 st && fits 32 units
  | .segDelete h image => h.wf && fits 64 image
  | .ctlMessageReceive => true
  | .messageRetry => true
  | .synNop G _ _ => quadOk G
  | .synWait G _ _ => quadOk G
  | .synBarrier G _ _ => quadOk G
  | .barrierRelease p id => partOk p && fits 8 id
  | .synSlotWait G _ _ => quadOk G
  | .synLoop G _ _ _ => quadOk G
  | .synLoopEnd G _ _ => quadOk G
  | .bduLoad G _ _ _ _ => quadOk G
  | .bduGemv G _ _ _ _ => quadOk G
  | .mxaCfg G _ _ _ => quadOk G
  | .mxaGemm G _ _ _ _ => quadOk G
  | .arrivalThresholdReached G _ _ => quadOk G
  | .vecCfg G _ _ _ => quadOk G
  | .vadd G _ _ _ => quadOk G
  | .vmul G _ _ _ => quadOk G
  | .vscale G _ _ _ => quadOk G
  | .vfunc G _ _ _ => quadOk G
  | .vglu G _ _ _ => quadOk G
  | .vred G _ _ _ => quadOk G
  | .vnorm G _ _ _ => quadOk G
  | .vquant G _ _ _ => quadOk G
  | .vi64r G _ _ _ => quadOk G
  | .vi64add G _ _ _ => quadOk G
  | .vcvt G _ _ _ => quadOk G
  | .guardEvaluation G _ => quadOk G
  | .rotFwd G _ _ _ => quadOk G
  | .rotFwdQ G _ _ _ => quadOk G
  | .rotInv G _ _ _ => quadOk G
  | .attCfg G _ _ _ => quadOk G
  | .attKvq G _ _ _ => quadOk G
  | .attRun G _ _ _ _ => quadOk G
  | .attMerge G _ _ _ => quadOk G
  | .kvPut G _ _ _ => quadOk G
  | .movFill G _ _ _ => quadOk G
  | .movCopy G _ _ _ => quadOk G
  | .movHcopy G _ _ _ => quadOk G
  | .loessStep G _ _ _ _ => quadOk G
  | .srtCfg G _ _ _ => quadOk G
  | .srtTopk G _ _ _ => quadOk G
  | .srtRoute G _ _ _ => quadOk G
  | .srtBin G _ _ _ => quadOk G
  | .srtReturn G _ _ _ => quadOk G
  | .srtCombine G _ _ _ => quadOk G
  | .colA2a G _ _ _ => quadOk G
  | .colA2av G _ _ _ => quadOk G
  | .colGather G _ _ _ => quadOk G
  | .colBcast G _ _ _ => quadOk G
  | .colRedscat G _ _ _ => quadOk G
  | .colAllred G _ _ _ => quadOk G
  | .rmtAtomic G _ _ _ => quadOk G
  | .tierLoad G _ _ _ => quadOk G
  | .tierStore G _ _ _ => quadOk G
  | .tierMigrate G _ _ _ => quadOk G
  | .frameCommandComplete G _ _ => quadOk G
  | .engineWatchdogExpiry G _ => quadOk G
  | .dramRefreshWindow n d => stackOk n && dieOk d
  | .heldAccessServe p _ => partOk p
  | .scrubRow n _ => stackOk n
  | .tier2Patrol _ => true
  | .moveCopyDone p page => partOk p && fits 32 page
  | .moveAbort p page cause => partOk p && fits 32 page && fits 3 cause
  | .frameZeroingDone _ => true
  | .policyPass => true
  | .requestLingerExpiry p jidx => partOk p && fits 16 jidx
  | .promptFetchDone p jidx _ => partOk p && fits 16 jidx
  | .replaceBarrierTimeout p => partOk p
  | .fallowSegmentDone p jidx _ medium _ => partOk p && fits 16 jidx && fits 2 medium
  | .fallowImageComplete image => fits 64 image
  | .fallowImageFailed image st => fits 64 image && fits 16 st
  | .thawReadDone t => t.wf
  | .sessionXferDone op st _ => fits 32 op && fits 16 st
  | .shardIngressDone op _ => fits 32 op
  | .v6RecheckTimer _ => true
  | .vexsumWindowEnd p => partOk p
  | .vexsumFillDone p stack _ => partOk p && stackOk stack
  | .vexsumCompare p w => partOk p && fits 48 w
  | .sliceStartTimeout p => partOk p
  | .errorLatchRaise x => x.wf
  | .leakyLeak => true
  | .ceRateSecond => true
  | .calicheLockstepMismatch => true
  | .calicheRestartDone => true
  | .kaolinHeartbeat => true
  | .kaolinHeartbeatLost => true
  | .kaolinRecovered => true
  | .hubFailTimeout => true
  | .pmbusSample reads => reads.length == 8
  | .controlPeriodEnd minCap => fits 16 minCap
  | .boostStep => true
  | .domainRampDone d => fits 8 d
  | .powerStageExit strap _ _ => fits 8 strap
  | .powerStageTimeout rail => (railOk rail || rail == 255)
  | .downStepDone => true
  | .trainWaitExpiry => true
  | .electListenExpiry => true
  | .candidateFloodTimer => true
  | .electionClose => true
  | .tickLocked => true
  | .hostHotReset x => portOk x
  | .vfFlr p => partOk p
  | .pfFlr x => portOk x
  | .vfEnableChange x _ => portOk x
  | .hostPortL0Change x ltssm rate width _ => portOk x && fits 3 ltssm && fits 3 rate && fits 5 width
  | .ideStreamInsecure x stream => portOk x && ideStreamOk stream
  | .hostDmaError x _ cmd => portOk x && cmd.all (fun c => c.2.wf)
  | .hostBarRequest x _ => portOk x
  | .nvmeDriveLoss x => portOk x
  | .nvmeDriveReturn x => portOk x
  | .mgmtLinkChange _ => true
  | .ccLocalAccess a _ => a.wf
  | .calicheSupplyOff => true
  | .vrAlertRelease r => railOk r
  | .xtalReturn => true
  | .serdesRefReturn n => linkDieOk n
  | .busMasterEnableChange fn _ => mailboxOk fn
  | .rtrProbeWrite link _ slot => linkOk link && slotOk slot
  | .mgmtIcmpv6Packet type _ _ => fits 8 type
  | .i3cSetdasa dyn => fits 7 dyn

end Sys2Proof
end

