-- ==== Sys2Proof/Tests/Slice0.lean ====
section
/-!
SUPPORT. Tests of the model: ill-formed commands that WellFormed refuses, worked examples of the spec, and for each statement
with hypotheses a witness that meets them.
-/

open Sys2Proof Sys2Proof.Machine

namespace Sys2Proof.Tests

set_option Elab.async false

/-! ### WellFormed: an ill-formed term for each check, which the check refuses -/

/-- A CTL header, a remote request and a request of a thread with every field 0. -/
def hdr0 : CtlHdr := ⟨0, 0, 0, 0, 0, 0, 0, 0, 0⟩
def req0 : RmtReq := ⟨0, 0, 0, 0, 0, false, false, false, 0, 0, 0, [], 0, 0⟩
def acc0 : CcAccess := ⟨0, .load, 0, 0, 0, 0, []⟩
def sym0 : TickSym := ⟨0, 0, 0, 0, 0, 0, 0⟩
def id0 : IdentSym := ⟨0, 0, 0, 0, 0, 0, 0⟩
def slot0 : SlotRx := ⟨0, none, false, false, false, 0, false, false, 0, 0, 0, [], 0, 0, 0, 0, 0, false, [], [], []⟩
def ent0 : Entry := ⟨.pf 0, 0, false, 0, 0, 255, 0, List.replicate 56 0⟩

theorem test_wf_units :
    Instr.wf (.synNop 48 0 0) = false ∧ Instr.wf (.scrubRow 12 []) = false ∧ Instr.wf (.dramRefreshWindow 0 12) = false ∧
    Instr.wf (.vfFlr 32) = false ∧ Instr.wf (.linkOut 96) = false ∧ Instr.wf (.serdesRefLoss 4) = false ∧
    Instr.wf (.pfFlr 2) = false ∧ Instr.wf (.mbCqHeadWrite 34 0) = false ∧ Instr.wf (.counterLowRead 35 0) = false ∧
    Instr.wf (.vrAlert 8 0) = false ∧ Instr.wf (.ccFence 258) = false ∧ Instr.wf (.slotSend 0 4096) = false ∧
    Instr.wf (.ideStreamInsecure 0 3) = false ∧ Instr.wf (.laneLockLoss 0 2 true) = false ∧
    Instr.wf (.busMasterEnableChange 34 true) = false := by decide

theorem test_wf_operands :
    Instr.wf (.mbSqTailWrite 0 0 [[]]) = false ∧ Instr.wf (.mbEvHeadWrite 0 65536) = false ∧
    Instr.wf (.registerWrite 0 (2 ^ 26) 0) = false ∧ Instr.wf (.sensorSample []) = false ∧ Instr.wf (.pmbusSample []) = false ∧
    Instr.wf (.powerStageTimeout 8) = false ∧ Instr.wf (.domainRampDone 256) = false ∧
    Instr.wf (.hostPortL0Change 0 8 0 0 false) = false ∧ Instr.wf (.combineWindowExpiry 1024) = false ∧
    Instr.wf (.sessionXferDone (2 ^ 32) 0 none) = false ∧ Instr.wf (.moveAbort 0 0 8) = false ∧
    Instr.wf (.segDelete hdr0 (2 ^ 64)) = false ∧ Instr.wf (.ctlAssign hdr0 [] [] 0 0) = false := by decide

theorem test_wf_structures :
    Instr.wf (.devIdentify { ent0 with args := [] } ⟨none, true, none⟩) = false ∧
    Instr.wf (.devIdentify { ent0 with src := .vf 32 } ⟨none, true, none⟩) = false ∧
    Instr.wf (.devIdentify { ent0 with tag := 65536 } ⟨none, true, none⟩) = false ∧
    Instr.wf (.segDelete { hdr0 with srcPkg := 256 } 0) = false ∧
    Instr.wf (.candidate hdr0 ⟨256, 0, 0, true, 0, 0, 0, false⟩) = false ∧
    Instr.wf (.pldmFirmwareUpdate .kaolin ⟨2 ^ 32, 0, false, true⟩) = false ∧
    Instr.wf (.errorLatchRaise ⟨0, 0, 0, 0, 4, 0, 0, 0, [], true, none⟩) = false ∧
    Instr.wf (.slotReceive 0 { slot0 with hop := 8 }) = false ∧
    Instr.wf (.slotReceive 0 { slot0 with flits := [⟨16, false, 0, 0, 0, 0, 0, true, true, []⟩] }) = false ∧
    Instr.wf (.tickSymbolReceive 0 true { sym0 with lenNext := 4096 } 0) = false ∧
    Instr.wf (.identSymbol 0 true { id0 with bundle := 16 }) = false ∧
    Instr.wf (.tick [⟨2, 0, 0, 0⟩]) = false ∧
    Instr.wf (.remoteRequestHome { req0 with size := 16 } []) = false ∧
    Instr.wf (.remoteResponse ⟨0, 16, 0, 0, [], 0⟩) = false ∧
    Instr.wf (.ccRemoteAccess { acc0 with thread := 258 }) = false ∧
    Instr.wf (.thawReadDone ⟨32, 0, 0, [], [], 0⟩) = false ∧
    Instr.wf (.spdmRequest (.establish 3 0)) = false ∧ Instr.wf (.pldmRequest (.sensor 65536)) = false ∧
    Instr.wf (.mctpControlRequest (.setEid 256)) = false := by decide

theorem test_wf_accepts :
    Instr.wf (.devIdentify ent0 ⟨none, true, none⟩) = true ∧ Instr.wf (.slotReceive 95 slot0) = true ∧
    Instr.wf (.ctlAssign hdr0 (List.replicate 64 0) (List.replicate 64 0) 0 0) = true ∧ Instr.wf (.synNop 47 15 0) = true := by
  decide

/-! ### Helpers -/

/-- The 56 argument bytes of an entry: (byte offset in the entry, bytes, value). -/
def argBytes (l : List (Nat × Nat × Nat)) : Bytes :=
  l.foldl (fun b x => b.take (x.1 - 8) ++ leBytes x.2.1 x.2.2 ++ b.drop (x.1 - 8 + x.2.1)) (List.replicate 56 0)

/-- `n` bytes, zero but where a (byte offset, bytes, value) says otherwise. -/
def block (n : Nat) (l : List (Nat × Nat × Nat)) : Bytes :=
  l.foldl (fun b x => b.take x.1 ++ leBytes x.2.1 x.2.2 ++ b.drop (x.1 + x.2.1)) (List.replicate n 0)

/-- An entry of the management mailbox, of a PF and of VF 0. -/
def mg (a : List (Nat × Nat × Nat)) (part : Nat := 255) (flags : Nat := 0) (inl : Bytes := []) : Entry :=
  ⟨.mgmt 1 1 inl, 7, false, 0, flags, part, 0, argBytes a⟩
def pf (a : List (Nat × Nat × Nat)) (part : Nat := 255) (flags : Nat := 0) : Entry :=
  ⟨.pf 0, 7, false, 0, flags, part, 0, argBytes a⟩
def vf (a : List (Nat × Nat × Nat)) (flags : Nat := 0) : Entry := ⟨.vf 0, 7, false, 0, flags, 0, 0, argBytes a⟩

/-- What host memory answers. -/
def host (b : Bytes := []) : HostIo := ⟨some b, true, none⟩

def setRegs (l : List (Field × Nat)) (s : State) : State := l.foldl (fun s x => wr s x.1 x.2) s

/-- In SERVICE, with both host ports up and their functions enabled. -/
def up : State :=
  setRegs [(Reg.SEQ_STATE, 7), (Reg.HIF_LTSSM 0, 2), (Reg.HIF_LTSSM 1, 2), (Reg.HIF_PIN_PWR_EN, 1), (Reg.RTR_MAP_KIND, 2),
    (Reg.KAO_PKG_ID, 0)]
    { State.reset with hif := { State.reset.hif with
        vfEnable := [(0, true), (1, true)], bme := [(0, true), (1, true), (2, true)] } }

/-- Partition 0: alone in slice 5, quadrants 0 and 1. -/
def part0 : Part :=
  { Part.absent with present := true, quads := [0, 1], threads := [0, 1], slice := some ⟨5, 0, [(0, 0)], 0⟩ }

/-- `up` with partition 0 in a job state. -/
def withJob (j : JobState) : State := modPart up 0 (fun _ => { part0 with job := j })
def idle : State := withJob .idle
def running : State := withJob .running

/-- `running` with quadrant 0 only. -/
def solo (j : JobState) : State := modPart up 0 (fun _ => { part0 with quads := [0], job := j, modelId := 9, modelEpoch := 3 })

/-- An image part of one context and one phase, whose program is a NOP that carries the commit flag. -/
def imageBody : Bytes :=
  block 784 [(0, 2, 1), (3, 5, 512), (8, 8, 24), (16, 2, 5), (19, 5, 768), (24, 8, 16), (32, 2, 8), (34, 1, 255), (35, 5, 1024),
    (40, 8, 16), (260, 4, 1), (264, 16, 2 ^ 112)]
def imagePart : Bytes :=
  block 256 [(0, 4, 0x47494D46), (4, 1, 1), (5, 1, 1), (6, 2, 320), (8, 8, 77), (16, 8, 9), (24, 8, 3), (32, 1, 1), (33, 1, 1),
    (34, 2, 1), (38, 2, 1), (42, 2, 3), (64, 32, (sha256 imageBody).toNat)] ++ imageBody

/-- A model declaration of one layer, one tensor of 128 and one unit. -/
def declaration : Bytes :=
  block 112 [(0, 4, 0x4D444C31), (4, 1, 1), (6, 2, 1), (8, 1, 1), (16, 4, 1), (20, 2, 1), (64, 1, 3), (68, 4, 128), (72, 4, 1),
    (80, 1, 255), (100, 4, 1)]
def declared : State := { modPart up 0 (fun _ => part0) with decls := [(0, declaration)] }

/-- A job with a replacement in stage `st`, whose one unit is done. -/
def replacing (st : Nat) : State :=
  modWts (fun w => { w with repl := [(0, some ⟨4, st, 9, false, 0, 1, some 3, none, [(0, 0)]⟩)] })
    { running with decls := [(0, declaration)] }

/-- A bring-up map of eight packages, a P-384 key made for this test, and its signature of the map. -/
def mapBody : Bytes := block 1728 [(0, 4, 0x50414D4E), (4, 1, 1), (5, 1, 1), (6, 1, 1), (7, 1, 1), (8, 1, 8)]
def mapPoint : Bytes := beOut 97
  0x04f486722ece5651d3e911d76cecda6b74c1266c138dfa7f7fe4f92006807156f48c06ef78c1f624f7f20a5a117b3f6a1ee9e6eb0aa4b4d841b3c06ac9678478ca903491b6ccd8c91536c7527a6b2bae8685a3e92560a23c27bd0a588cb87784c6
def mapSig : Bytes := beOut 96
  0x747dacade7518ee91d1e040c305e5d777f910563eb3c2456f01f85efc58f90ff548d6431160cc54abb25dbb043ce862e8bfd9b6c292687d2028ff50a9b6e864ebf67bf555dc83ef56ca5af7b6aaec31d2966a9080d19c0edcc560c501b875cdd

/-- A serving job in a role, its slot 0 in a state, with a prompt region and queue 0. -/
def serving (role st : Nat) : State :=
  { setRegs [(Reg.SRV_P_SLOT_COUNT 0, 4), (Reg.SRV_Q_V 0, 1), (Reg.SRV_Q_DEPTH_MAX 0, 4), (Reg.SRV_Q_WEIGHT 0, 2),
      (Reg.SRV_P_RESV64 0, 0), (Reg.TIER_FALLOW_FRAMES, 1)]
      (modPart up 0 (fun _ => { part0 with job := .running, image := some { imageOfPart imagePart with
        role := role, sections := [⟨0x0A, 255, block 24 [(0, 1, 2), (1, 1, 255), (16, 8, 4096)]⟩] } })) with
    keys := [⟨2, 0, 6, []⟩]
    srv := { Serving.reset with
      slots := [(0, { Slot.free with req := { ReqRec.free with state := st, cause := 8 }, image := 77, imageState := 2 })]
      images := [⟨77, 0, 0, 6, [], [], [], [], [], none, 0, 2, true⟩] } }

/-- A request descriptor of one prompt token and no deadline. -/
def request : Bytes := block 128 [(8, 6, 2 ^ 48 - 1), (16, 4, 1)]

def mapped : State := { idle with fab := { State.reset.fab with map := some mapBody } }

/-- A CTL message from package 0, partition 0, to a partition. -/
def msg (d : Nat) : CtlHdr := ⟨0, 0, d, 255, 255, 0, 7, 5, 0⟩

/-- A CTL message from the lead of slice 5. -/
def fromPeer : CtlHdr := { msg 0 with srcPkg := (Config.sliceLead 5).1, srcPart := (Config.sliceLead 5).2 }

/-- A decode job that takes from slice 5 and gives to it. -/
def peered : State :=
  { serving 1 stPrefill with srv := { (serving 1 stPrefill).srv with
      admitCfgs := [(0, ⟨[5, 255, 255, 255], [5, 255, 255, 255], 1, 1⟩)], granted := [(0, (1, 0))] } }

theorem peer_first (l : List Nat) :
    peerIndex (5 :: l) (Config.sliceLead 5).1 (Config.sliceLead 5).2 = some 0 := by
  unfold peerIndex
  rw [show List.range 4 = 0 :: [1, 2, 3] from rfl, List.find?_cons_of_pos]
  simp

/-- A running job whose image gives it two collectives in flight. -/
def colJob : State :=
  modPart running 0 (fun q => { q with image := some { imageOfPart imagePart with sections := [⟨0x0D, 255, block 64 [(2, 2, 2)]⟩] } })

/-- An admission of partition 0 that waits for a prompt of one token. -/
def prompting : State :=
  { idle with
    decls := [(0, block 16 [(12, 4, 4)])]
    srv := { Serving.reset with
      pass := [(0, some ⟨0, [], [⟨0, 0, 64, false, 0, 4, 0⟩], [], [], [], false⟩)]
      slots := [(0, { Slot.free with req := { ReqRec.free with promptLen := 1 } })] } }

/-- A fallowed slot whose image of no page is being written. -/
def fallowing : State :=
  { serving 1 stFallow with srv := { (serving 1 stFallow).srv with
      slots := [(0, { Slot.free with req := { ReqRec.free with state := stFallow }, image := 77, imageState := 1 })]
      images := [⟨77, 0, 0, 6, block 256 [(92, 4, 6)], [], [], [], [], none, 0, 1, false⟩] } }

/-- Listening in TOPO_CHECK; as a candidate; as a candidate that has heard one that is eligible. -/
def listening : State := { setRegs [(Reg.SEQ_STATE, 5)] up with tick := { up.tick with mapChecked := true } }
def standing : State := { listening with tick := { listening.tick with candidate := true } }
def candidate : State := { standing with tick := { standing.tick with heard := [⟨1, 0, 9, true, 0, 0, 0, false⟩] } }

/-! ### Examples of the spec -/

/-- The bank of the example after Table 1-5: window offset 0x15C8_0000 is 0x48_0000 in quadrant 2 of stack 5. -/
theorem test_place_scratchpad : place 0x0200_15C8_0000 = .spm 22 0x48_0000 := by decide

/-- The example after R99: quadrant 0 of stack 2. -/
theorem test_place_tier1 : place 0x0018_E080_1B80 = .tier1 8 0xE080_1B80 := by decide

/-- Five ternary weights in byte 0xA7 (chapter 3). -/
theorem test_ternary_byte : (List.range 5).map (weightAt 1 [0xA7]) = [1, 0, -1, -1, 1] := by decide

/-- Table 3-3: both group sums, both scale words, and the FP32 result. -/
theorem test_dot_product :
    groupSum 2 [0xC9, 0x25] [37, -12, 90, 5, -128, 64, 7, -3] = -22 ∧
    groupSum 2 [0x17, 0xC6] [10, 20, -30, 99, 11, -6, 50, 2] = -50 ∧
    scaleWord 0x03B5 * (-22) + scaleWord 0x0560 * (-50) = -185456 ∧
    exactOut (-185456) (-20) [0x3C23D70A] = 0xBAE7D1EB := by decide +kernel

/-- The example of R68: −1.2 against a maximum of 3.5. -/
theorem test_quantise : quantOne (fmul 0x42FE0000 (rcpF 0x40600000)) 0xBF99999A = -44 := by decide +kernel

/-- Table t2 (R70). -/
theorem test_exp2_table : tabF tabT2 0 = 0x3F800000 ∧ tabF tabT2 32 = 0x3FB504F3 := by decide

/-- Table 3-5. -/
theorem test_philox :
    philox ⟨0, 0, 0, 0⟩ 0 = ⟨0x6627E8D5, 0xE169C58D, 0xBC57AC4C, 0x9B00DBD8⟩ ∧
    philox ⟨0xFFFFFFFF, 0xFFFFFFFF, 0xFFFFFFFF, 0xFFFFFFFF⟩ 0xFFFFFFFFFFFFFFFF =
      ⟨0x408F276D, 0x41C83B0E, 0xA20BC7C6, 0x6D5451FD⟩ := by decide +kernel

/-- The flattened outlier of chapter 4: elements 0, 1, 2 and 3 of 64. -/
theorem test_rotation :
    (rotateFwd 6 0 0 ([0x42800000, 0, 0, 0x3E800000] ++ List.replicate 60 0)).take 4 =
      [0xC0FF0000, 0xC1008000, 0xC1008000, 0xC0FF0000] := by decide +kernel

/-- SRT_CFG of the example of chapter 9, and what R216 derives from it. -/
theorem test_srt_cfg :
    (let c := srtCfgOf 0x27F9_1F13_0200_1105_0000_3F80_0000
     c.ne = 640 ∧ c.k = 10 ∧ c.np = 32 ∧ c.nx = 20 ∧ c.seg = 512 ∧ c.maxtok = 4 ∧ c.tripv = 8 ∧ c.gate = 0 ∧ c.bf16 = true ∧
       c.shared = true ∧ c.rscale = oneF ∧ c.rs = 576 ∧ c.capR = 40 ∧ c.capX = 128) := by decide

/-- The cabling of the example in chapter 11: L040 of package 12 and L032 of package 14. -/
theorem test_cabling : homeLink 4 6 0 = 40 ∧ homeLink 6 4 0 = 32 := by decide

/-- The example of R419: the four quadrants of a first partition, then of a second, and its map base. -/
theorem test_placement :
    newQuads up 1 4 = some [0, 4, 8, 12] ∧
    newQuads (modPart up 1 (fun q => { q with present := true, quads := [0, 4, 8, 12] })) 3 4 = some [16, 20, 24, 28] ∧
    newMapBase (setRegs [(Reg.TIER_P_RANGE_PAGES 1, 40960)] (modPart up 1 (fun q => { q with present := true }))) 40960 3 =
      some 40960 := by decide +kernel

/-- The submission entry of the example in chapter 18, its first 16 bytes. -/
theorem test_entry :
    (let e := entryOf (.vf 3) 0 (padTo 64 [0x01, 0x04, 0x17, 0, 0, 0, 3, 0, 0, 0, 0x20, 0x1A, 4, 0, 0, 0])
     e.tag = 0x17 ∧ e.part = 3 ∧ arg e 8 8 = 0x0000_0004_1A20_0000) := by decide

/-- The completion of that example: slot 63, its first 14 bytes, MB_CQ_TAIL and the vector. -/
theorem test_completion :
    (let e : Entry := { vf [] with src := .vf 3, tag := 0x17 }
     let t := complete e 0 (leBytes 4 0x0007_2041 ++ leBytes 6 0x0131_2D8D) [] (modMbox up 5 (fun b => { b with cqTail := 0x0A3F }))
     (tget [] (mbox t 5).cq 63).take 14 = [0x17, 0, 0, 0, 0x41, 0x20, 7, 0, 0x8D, 0x2D, 0x31, 1, 0, 0] ∧
     (mbox t 5).cqTail = 0x0A40 ∧ t.out = [.msix 5 0]) := by decide +kernel

/-- SHA-256 of "abc" (FIPS 180-4), first byte first. -/
theorem test_sha256 :
    sha256 [0x61, 0x62, 0x63] = BitVec.ofNat 256 (leNat (beOut 32
      0xba7816bf8f01cfea414140de5dae2223b00361a396177a9cb410ff61f20015ad)) := by decide +kernel

/-- AES-256-GCM of 16 zero bytes under a zero key and IV (test case 14 of the GCM specification). -/
theorem test_gcm :
    gcmSeal (List.replicate 32 0) (List.replicate 12 0) [] (List.replicate 16 0) =
      beOut 16 0xcea7403d4d606b6e074ec5d3baf39d18 ++ beOut 16 0xd0d1c8a799996bf0265b98b5d48ab919 := by decide +kernel

/-! ### Steps -/

/-- A command turned away (a VF that sends DEV_SET_TIME) completes with 0x0400 in its ring. -/
theorem test_step_refused :
    (match step { idle with pending := [.devSetTime (vf []) (host [])] } with
     | .next t => (tget [] (mbox t 2).cq 0).take 4 == [7, 0, 0, 4] && t.pending.isEmpty
     | _ => false) = true := by decide +kernel

/-- MOV_FILL of one word, through the queue. -/
theorem test_step_fill :
    (match step { running with pending := [.movFill 1 0 (0x1122334455667788 * 2 ^ 48 + 1) []] } with
     | .next t => readMem t (spmAddr 1 0) 9 == [0x88, 0x77, 0x66, 0x55, 0x44, 0x33, 0x22, 0x11, 0]
     | _ => false) = true := by decide +kernel

/-- The table gives no bits, so no word spells a command. -/
theorem test_no_words : decodeTableWord 32 0 = none ∧ State.reset.withFetchWord 32 0 = State.reset := by
  constructor <;> rfl

/-! ### Witnesses: states and operands that meet the hypotheses of the statements -/

theorem witness_StepRunsFrontCommand :
    ∃ (c : Instr) (q : List Instr) (s : State), s.pending = c :: q :=
  ⟨.tick [], [.leakyLeak], { up with pending := [.tick [], .leakyLeak] }, rfl⟩

theorem witness_EmptyQueueIdles : ∃ s : State, s.pending = [] := ⟨up, rfl⟩

theorem witness_CommandsChangeOnlyTheirAreas :
    ∃ (i : Instr) (s t : State) (a : Area), exec i s = .next t ∧ (mayChange i).contains a = false :=
  ⟨.xtalLoss, up, wr up Reg.CAL_XTAL_OK 0, .mem, rfl, by decide⟩

theorem up_inv : up.Inv := ⟨by decide +kernel, by decide +kernel, by decide +kernel, by decide +kernel⟩
theorem running_inv : running.Inv := ⟨by decide +kernel, by decide +kernel, by decide +kernel, by decide +kernel⟩

theorem witness_StepKeepsInvariant : ∃ s t : State, s.Inv ∧ step s = .next t ∧ t ≠ s := by
  refine ⟨{ up with pending := [.ceRateSecond] }, { up with cal := { up.cal with ceSecond := [], ceGained := [] } }, ?_, rfl, ?_⟩
  · exact ⟨up_inv.1, up_inv.2, up_inv.3, up_inv.4⟩
  · intro h
    exact absurd (congrArg State.pending h) (by decide)

/-- The last byte of the first tier-1 frame of quadrant 0, and the two bytes beside a write of two. -/
theorem witness_MemoryReadsBackWrites :
    (∃ (s : State) (a i : Nat) (b : Bytes), s.Inv ∧ i < b.length ∧ populated (a + i) = true) ∧
    (∃ (s : State) (a x : Nat) (b : Bytes), s.Inv ∧ (x < a ∨ a + b.length ≤ x)) :=
  ⟨⟨up, 2 ^ 21 - 1, 0, [7, 8], up_inv, by decide, by decide⟩,
   ⟨up, 2 ^ 21 - 1, 2 ^ 21 + 1, [7, 8], up_inv, .inr (by decide)⟩⟩

/-- The first byte of each hole of the address map. -/
theorem witness_HolesHoldNothing :
    ∃ s : State, s.Inv ∧ ∀ a ∈ [0x9000000000, 0x18000000000, 0x20034000000, 0x30004000000],
      ((0x9000000000 ≤ a ∧ a < 0x10000000000) ∨ (0x18000000000 ≤ a ∧ a < 0x20000000000) ∨
       (0x20034000000 ≤ a ∧ a < 0x30000000000) ∨ 0x30004000000 ≤ a) :=
  ⟨up, up_inv, by decide⟩

theorem witness_Bf16RoundsToNearestEven :
    isNaN 0x7F800001 = true ∧
    (isNaN 0x3F807FFF = false ∧ (0x3F807FFF#32).toNat % 2 ^ 16 < 2 ^ 15) ∧
    (isNaN 0x7F7F8001 = false ∧ 2 ^ 15 < (0x7F7F8001#32).toNat % 2 ^ 16) ∧
    (isNaN 0x3F808000 = false ∧ (0x3F808000#32).toNat % 2 ^ 16 = 2 ^ 15) := by decide

/-- The last weight of a group; trits 2 2 2 2 2 in one byte, and 0 0 0 0 0. -/
theorem witness_WeightPositions :
    (127 < 128) ∧ (∃ (g : Bytes) (t : Nat → Nat), (∀ k, t k < 3) ∧
      (g.getD (127 / 5) 0).toNat = t 0 + 3 * t 1 + 9 * t 2 + 27 * t 3 + 81 * t 4) :=
  ⟨by decide, List.replicate 26 242, fun _ => 2, fun _ => (by decide : 2 < 3), by decide⟩

/-- VADD of one element, its output below the end of the scratchpad. -/
theorem witness_VectorPairsStoreTheirOutput :
    ∃ (s u : State) (a : BitVec 112) (i : Instr) (b k x : Nat), s.Inv ∧ canIssue s 1 = true ∧ i = .vadd 1 0 a [] ∧
      issueCmd 3 2 1 0 a (takeUe [] s) = u ∧ b < 4 ∧ k < (vecOf a).n ∧
      populated (spmAddr 1 ((vecOf a).dst + 4 * k + b)) = true ∧ spmAddr 1 (vecOf a).dst + 4 * (vecOf a).n ≤ x :=
  ⟨running, _, 2 ^ 90 + 2 ^ 74, _, 3, 0, spmAddr 1 4, running_inv, by decide +kernel, rfl, rfl, by decide +kernel⟩

theorem witness_MovFillWritesPattern :
    ∃ (s : State) (a : BitVec 112) (k b x : Nat), s.Inv ∧ canIssue s 1 = true ∧ b < 8 ∧ k < (a.extractLsb' 0 24).toNat ∧
      populated (spmAddr 1 ((a.extractLsb' 24 24).toNat + 8 * k + b)) = true ∧
      spmAddr 1 (a.extractLsb' 24 24).toNat + 8 * (a.extractLsb' 0 24).toNat ≤ x :=
  ⟨running, 2, 1, 7, spmAddr 1 16, running_inv, by decide +kernel⟩

theorem witness_FrameCommandsWaitTheirTurn : ∃ (s : State) (G : Nat), canIssue s G = false := ⟨idle, 0, by decide +kernel⟩

/-- A VF that sends DEV_SET_POWER_STATE; a byte of DEV_GET_STATE that is not 0; a partition that is not there; a VF that names another
partition; a management entry with an IOVA. -/
theorem witness_ChecksComeInOrder :
    (∃ (r : CmdRow) (e : Entry) (s u : State), startCmd e s = u ∧ servedBox s e.src = true ∧ frozen s = false ∧
      rdb s Reg.CAL_HUB_FAILED = false ∧ 2 ≤ pstate s ∧ sourceOk r e = false) ∧
    (∃ (r : CmdRow) (e : Entry) (s u : State), startCmd e s = u ∧ servedBox s e.src = true ∧ frozen s = false ∧
      rdb s Reg.CAL_HUB_FAILED = false ∧ 2 ≤ pstate s ∧ sourceOk r e = true ∧ reservedOk r e = false) ∧
    (∃ (r : CmdRow) (e : Entry) (s u : State), startCmd e s = u ∧ servedBox s e.src = true ∧ frozen s = false ∧
      rdb s Reg.CAL_HUB_FAILED = false ∧ 2 ≤ pstate s ∧ sourceOk r e = true ∧ reservedOk r e = true ∧ partitionOk r e u = false) ∧
    (∃ (r : CmdRow) (e : Entry) (s u : State), startCmd e s = u ∧ servedBox s e.src = true ∧ frozen s = false ∧
      rdb s Reg.CAL_HUB_FAILED = false ∧ 2 ≤ pstate s ∧ sourceOk r e = true ∧ reservedOk r e = true ∧ partitionOk r e u = true ∧
      authorityOk r e u = false) ∧
    (∃ (r : CmdRow) (h : Entry → HostIo → State → CmdOut) (e : Entry) (io : HostIo) (s u : State), startCmd e s = u ∧
      servedBox s e.src = true ∧ frozen s = false ∧ rdb s Reg.CAL_HUB_FAILED = false ∧ 2 ≤ pstate s ∧ preChecks r e u = none ∧
      commonRange r e = false ∧ r.op ≠ 0x0606 ∧ (h e (granted r e io s) u).status ≠ 0x0103 ∧
      (h e (granted r e io s) u).status ≠ 0x0104) :=
  ⟨⟨Row.devSetPowerState, vf [], idle, _, rfl, by decide +kernel⟩,
   ⟨Row.devGetState, pf [(63, 1, 1)], idle, _, rfl, by decide +kernel⟩,
   ⟨Row.partDestroy, pf [] 1, idle, _, rfl, by decide +kernel⟩,
   ⟨Row.jobQuery, { vf [] with part := 1 }, modPart idle 1 (fun _ => part0), _, rfl, by decide +kernel⟩,
   ⟨Row.devGetState, fun _ _ s => ⟨0, [], [], s, none⟩, pf [] 0, host, idle, _, rfl, by decide +kernel⟩⟩

theorem witness_EntryRunsItsRow :
    ∃ (e : Entry) (s : State) (op : Nat), handlers.all (fun h => h.1.op != op) = true ∧ servedBox s e.src = true :=
  ⟨pf [], up, 0x0100, by decide +kernel⟩

theorem witness_CompletionWrittenToRing : ∃ e : Entry, isMgmt e = false := ⟨vf [], rfl⟩

/-- At reset no mailbox is served. -/
theorem witness_FetchNeedsRoom :
    ∃ s : State, ∀ m, m < 34 → servedBox s (boxSource m) = false ∨ (mbox s m).sqHead = (mbox s m).sqTail ∨
      16 ≤ (mbox s m).inflight ∨ 64 ≤ (mbox s m).inflight + subMod 16 (mbox s m).cqTail (mbox s m).cqHead :=
  ⟨State.reset, by decide +kernel⟩

theorem witness_RejectedDoorbellsSetError :
    (∃ (mb v : Nat) (s : State), 64 < (v % 2 ^ 16 + 2 ^ 16 - (mbox s mb).sqHead % 2 ^ 16) % 2 ^ 16) ∧
    (∃ (mb v : Nat) (s : State),
      subMod 16 (mbox s mb).cqTail (mbox s mb).cqHead < subMod 16 (v % 2 ^ 16) (mbox s mb).cqHead) ∧
    (∃ (mb v : Nat) (s : State),
      subMod 16 (mbox s mb).evTail (mbox s mb).evHead < subMod 16 (v % 2 ^ 16) (mbox s mb).evHead) :=
  ⟨⟨33, 65, up, by decide +kernel⟩, ⟨33, 1, up, by decide +kernel⟩, ⟨33, 1, up, by decide +kernel⟩⟩

theorem witness_FrozenServesFour :
    (∃ (r : CmdRow) (e : Entry) (s : State), frozen s = true ∧ s.pwr.calSupply = true ∧ 1 ≤ pstate s ∧ isMgmt e = true ∧
      r.op ≠ 0x0101 ∧ r.op ≠ 0x0102 ∧ r.op ≠ 0x0902 ∧ r.op ≠ 0x0903) ∧
    (∃ (e : Entry) (s : State), frozen s = true ∧ s.pwr.calSupply = true ∧ 1 ≤ pstate s ∧ isMgmt e = false) :=
  ⟨⟨Row.devSetTime, mg [], setRegs [(Reg.KAO_FROZEN, 1)] up, by decide +kernel⟩,
   ⟨pf [], setRegs [(Reg.KAO_FROZEN, 1)] up, by decide +kernel⟩⟩

theorem witness_DestroyNeedsIdle :
    (∃ (e : Entry) (s u : State), startCmd e s = u ∧ fetched Row.partDestroy e s = true ∧
      (part u e.part).job ≠ .idle ∧ (part u e.part).job ≠ .stopped) ∧
    (∃ (e : Entry) (s u : State), startCmd e s = u ∧ fetched Row.partDestroy e s = true ∧
      u.kao.ops.any (fun o => o.part == e.part) = true) :=
  ⟨⟨mg [] 0, running, _, rfl, by decide +kernel⟩,
   ⟨mg [] 0, (newOp 0x0302 (mg [] 0) 0 idle).2, _, rfl, by decide +kernel⟩⟩

theorem witness_FallowSlotsRefuse :
    (∃ (e : Entry) (s u : State) (n : Nat), startCmd e s = u ∧ isLead u e.part = true ∧ (slotOf u n).req.state = stFallow ∧
      fetched Row.reqCancel e s = true ∧ handleSlot u e.part (arg e 8 4) = some n) ∧
    (∃ (e : Entry) (s u : State) (n : Nat), startCmd e s = u ∧ isLead u e.part = true ∧ (slotOf u n).req.state = stFallow ∧
      fetched Row.sessionFallow e s = true ∧ handleSlot u e.part (arg e 8 4) = some n) ∧
    (∃ (e : Entry) (io : HostIo) (s u : State) (n : Nat) (d : Bytes), startCmd e s = u ∧ isLead u e.part = true ∧
      (slotOf u n).req.state = stFallow ∧ fetched Row.reqSubmit e s = true ∧ flag e 0 = true ∧
      handleSlot u e.part (arg e 16 4) = some n ∧ inputOf e (granted Row.reqSubmit e io s) 128 = some d ∧ 128 ≤ d.length ∧
      descReserved d = true ∧ descRangeOk d = true ∧ (part u e.part).job.busy = true) :=
  ⟨⟨vf [], serving 1 stFallow, _, 0, rfl, by decide +kernel⟩,
   ⟨vf [(16, 4, 6)], serving 1 stFallow, _, 0, rfl, by decide +kernel⟩,
   ⟨vf [] 1, host request, serving 1 stFallow, _, 0, request, rfl, by decide +kernel⟩⟩

theorem witness_HardenedFieldsKeepTheirValue :
    (∃ off : Nat, off % 4 = 0 ∧ 0x900000 ≤ off ∧ off < 0xA00000) ∧ (∃ f : Field, hardenedField f) :=
  ⟨⟨0x9FFFFC, by decide⟩, ⟨Reg.SRV_P_SLOT_COUNT 31, by
    unfold hardenedField; exact .inr (.inr (.inr (.inr (.inr ⟨31, by decide, by simp⟩))))⟩⟩

theorem witness_CounterHalvesAgree : ∃ p path : Nat, p ≠ path := ⟨0, 1, by decide⟩

theorem witness_IdcodeReads : ∃ (tdi : List Bool) (s : State), s.pwr.calSupply = true ∧ 32 ≤ tdi.length :=
  ⟨List.replicate 32 false, up, by decide +kernel⟩

theorem witness_UnfenceClearsEntry :
    ∃ (e : Entry) (s u : State), s.Inv ∧ startCmd e s = u ∧ fetched Row.unitUnfence e s = true ∧ arg e 8 1 ≤ 12 ∧
      unitExists (arg e 8 1) (arg e 10 2) = true ∧ inFenceTable u (arg e 8 1) (arg e 10 2) = true :=
  ⟨mg [], setRegs [(Reg.CAL_FENCE_V 0, 1)] up, _, ⟨by decide +kernel, by decide +kernel, by decide +kernel, by decide +kernel⟩,
    rfl, by decide +kernel⟩

theorem witness_DeviceCommandsComplete :
    (∃ (e : Entry) (s : State) (u : State), startCmd e s = u ∧ fetched Row.devIdentify e s = true) ∧
    (∃ (e : Entry) (s : State) (u : State), startCmd e s = u ∧ fetched Row.devGetState e s = true) ∧
    (∃ (e : Entry) (s : State) (u : State) (n : _), startCmd e s = u ∧
      n = (if arg e 12 4 = 0xFFFFFFFF then u.pwr.fallowFrames else arg e 12 4) ∧ fetched Row.devSetPowerState e s = true ∧
      arg e 8 1 ≤ 7 ∧ n ≤ 261120 ∧ (arg e 8 1 ≤ 1 ∨ rdb u Reg.HIF_PIN_PWR_EN = true) ∧ (arg e 8 1 < 7 → anyJob u = false) ∧
      (3 ≤ pstate u → n = u.pwr.fallowFrames ∨ fallowMovable u n = true) ∧ (arg e 8 1 = 7 → pstate u = 7 ∨ (pstate u = 6 ∧
      rd u Reg.RTR_MAP_KIND = 1 ∧ rdb u Reg.RTR_VERIFIED = true ∧ rdb u Reg.TICK_LOCKED = true ∧ rdb u Reg.SEQ_DOWN = false))) ∧
    (∃ (e : Entry) (io : HostIo) (s : State) (u : State), startCmd e s = u ∧ fetched Row.devGetTelemetry e s = true ∧
      delivered Row.devGetTelemetry e io s = true ∧ 608 ≤ arg e 16 4) ∧
    (∃ (e : Entry) (s : State) (u : State), startCmd e s = u ∧ fetched Row.devSetTime e s = true) :=
  ⟨⟨mg [], up, _, rfl, by decide +kernel⟩,
   ⟨mg [], up, _, rfl, by decide +kernel⟩,
   ⟨mg [(8, 1, 1)], up, _, _, rfl, rfl, by decide +kernel⟩,
   ⟨pf [(16, 4, 608)], host, up, _, rfl, by decide +kernel⟩,
   ⟨mg [], up, _, rfl, by decide +kernel⟩⟩

theorem witness_PartitionCommandsComplete :
    (∃ (e : Entry) (s : State) (u : State), startCmd e s = u ∧ fetched Row.partCreate e s = true ∧ arg e 8 1 ≤ 1 ∧
      (part u e.part).present = false) ∧
    (∃ (e : Entry) (s : State) (u : State), startCmd e s = u ∧ fetched Row.partDestroy e s = true ∧
      (part u e.part).job.busy = false ∧ u.kao.ops.all (fun o => o.part != e.part) = true) ∧
    (∃ (e : Entry) (s : State) (u : State) (qs : _) (ts : _) (b : _) (new : _) (m : _), startCmd e s = u ∧
      fetched Row.partAssign e s = true ∧ arg e 8 1 ≤ 48 ∧ arg e 10 2 ≤ 256 ∧ arg e 12 4 ≤ 65536 ∧ arg e 20 2 ≤ 2552 ∧
      (part u e.part).job.busy = false ∧ newQuads u e.part (arg e 8 1) = some qs ∧ newThreads u e.part (arg e 10 2) = some ts ∧
      newSlotBase u e.part (arg e 12 4) = some b ∧ takePool u (arg e 16 4 - (t2Frames (tierPart u e.part)).length) = some new ∧
      newMapBase u (6144 * arg e 8 1 + arg e 16 4) e.part = some m ∧ (arg e 16 4 = 0 ∨ rdb u Reg.TIER_T2_FENCED = false)) ∧
    (∃ (e : Entry) (s : State) (u : State), startCmd e s = u ∧ fetched Row.jobQuery e s = true ∧ arg e 8 1 = 0) ∧
    (∃ (e : Entry) (s : State) (u : State), startCmd e s = u ∧ fetched Row.jobQuery e s = true ∧ arg e 8 1 = 1) ∧
    (∃ (e : Entry) (io : HostIo) (s : State) (u : State), startCmd e s = u ∧ fetched Row.partAccounting e s = true ∧
      delivered Row.partAccounting e io s = true ∧ (accountingBytes u e.part).length ≤ arg e 16 4 ∧
      (isMgmt e = true → (accountingBytes u e.part).length ≤ 8192)) :=
  ⟨⟨mg [] 3, up, _, rfl, by decide +kernel⟩,
   ⟨mg [] 0, idle, _, rfl, by decide +kernel⟩,
   ⟨mg [(8, 1, 1), (10, 2, 1), (12, 4, 4)] 0, setRegs [(Reg.TIER_FALLOW_FRAMES, 261120)] idle, _, [0], [0], 0, [], 0, rfl,
     by decide +kernel⟩,
   ⟨mg [] 0, idle, _, rfl, by decide +kernel⟩,
   ⟨mg [(8, 1, 1)] 0, idle, _, rfl, by decide +kernel⟩,
   ⟨vf [(16, 4, 4096)], host, idle, _, rfl, by decide +kernel⟩⟩

theorem witness_JobCommandsComplete :
    (∃ (e : Entry) (io : HostIo) (s : State) (u : State) (kat : List Nat) (b : _), startCmd e s = u ∧
      fetched Row.jobStart e s = true ∧ flag e 0 = false ∧ 256 ≤ arg e 24 8 ∧ arg e 8 1 ≤ 2 ∧
      (isMgmt e = true → arg e 8 1 = 0 → arg e 24 8 ≤ 8192 ∧ arg e 16 8 = 0) ∧
      ((part u e.part).job = .idle ∨ (part u e.part).job = .stopped) ∧ mayStart u = true ∧ u.pwr.tripped = false ∧
      u.cal.lasting = false ∧ (part u e.part).slice.isSome = true ∧ partInput e (granted Row.jobStart e io s) = some b ∧
      b.length = arg e 24 8 ∧ partFinding u e.part b = none ∧ startRefusal u e.part (imageOfPart b) kat = none ∧
      sectionRules u e.part (imageOfPart b) = none ∧ programFinding u e.part (imageOfPart b) = none) ∧
    (∃ (e : Entry) (s : State) (u : State), startCmd e s = u ∧ fetched Row.jobStart e s = true ∧ flag e 0 = true ∧
      isLead u e.part = true ∧ (part u e.part).job = .paused ∧ mayStart u = true ∧ u.pwr.tripped = false ∧ u.cal.lasting = false ∧
      jobFenced u e.part = false) ∧
    (∃ (e : Entry) (s : State) (u : State), startCmd e s = u ∧ fetched Row.jobStop e s = true ∧ arg e 8 1 ≤ 3 ∧ arg e 10 2 ≠ 0 ∧
      isLead u e.part = true ∧ (part u e.part).job = .running) ∧
    (∃ (e : Entry) (s : State) (u : State), startCmd e s = u ∧ fetched Row.jobStop e s = true ∧ arg e 8 1 ≤ 3 ∧ arg e 10 2 ≠ 0 ∧
      isLead u e.part = true ∧ (part u e.part).job = .starting) :=
  ⟨⟨vf [(24, 8, 1040)], host imagePart, solo .idle, _, [], imagePart, rfl, by decide +kernel⟩,
   ⟨vf [] 1, withJob .paused, _, rfl, by decide +kernel⟩,
   ⟨vf [(10, 2, 5)], running, _, rfl, by decide +kernel⟩,
   ⟨vf [(10, 2, 5)], withJob .starting, _, rfl, by decide +kernel⟩⟩

theorem witness_WeightCommandsComplete :
    (∃ (e : Entry) (io : HostIo) (s : State) (u : State) (d : _), startCmd e s = u ∧ fetched Row.modelDeclare e s = true ∧
      inputOf e (granted Row.modelDeclare e io s) (arg e 16 4) = some d ∧ d.length = arg e 16 4 ∧ 64 ≤ d.length ∧
      declLen d = d.length ∧ declHeaderOk d = true ∧ declSectionsOk d = true ∧ arg e 24 8 ≠ 0 ∧ (part u e.part).job.busy = false) ∧
    (∃ (e : Entry) (io : HostIo) (s : State) (u : State) (h : _), startCmd e s = u ∧
      shardHeader e (granted Row.weightLoadShard e io s) = h ∧ fetched Row.weightLoadShard e s = true ∧
      (part u e.part).job.busy = false ∧ meetsLoad u e.part (arg e 24 8) ((h.map (fun b => numAt b 40 8)).getD 0) = false ∧
      arg e 24 8 % pageBytes = 0 ∧ u.wts.recs.length + u.wts.loads.length < 8192 ∧ arg e 8 1 ≤ 2) ∧
    (∃ (e : Entry) (s : State) (u : State), startCmd e s = u ∧ fetched Row.weightVerify e s = true ∧
      (replOf u e.part).isNone = true ∧ arg e 10 2 ≠ 0 ∧ arg e 8 2 + arg e 10 2 ≤ nUnit (decl u e.part)) ∧
    (∃ (e : Entry) (io : HostIo) (s : State) (u : State) (table : _), startCmd e s = u ∧ fetched Row.replaceBegin e s = true ∧
      isLead u e.part = true ∧ (part u e.part).job.busy = true ∧ (replOf u e.part).isNone = true ∧
      (part u e.part).modelEpoch < arg e 8 8 ∧ referenceIn e (granted Row.replaceBegin e io s) u = .inr table ∧
      (keyOf u 2 e.part (arg e 24 4)).isSome = true ∧ roomForAll u e.part (arg e 20 1) (barrierFallows u e.part) = true) ∧
    (∃ (e : Entry) (io : HostIo) (s : State) (u : State) (r : _) (h : _), startCmd e s = u ∧
      shardHeader e (granted Row.replaceLayer e io s) = h ∧ fetched Row.replaceLayer e s = true ∧ replOf u e.part = some r ∧
      r.stage = 2 ∧ meetsLoad u e.part (arg e 24 8) ((h.map (fun b => numAt b 40 8)).getD 0) = false ∧ arg e 24 8 % pageBytes = 0 ∧
      u.wts.recs.length + u.wts.loads.length < 8192 ∧ arg e 8 1 ≤ 2) ∧
    (∃ (e : Entry) (s : State) (u : State) (r : _), startCmd e s = u ∧ fetched Row.replaceEnd e s = true ∧ isLead u e.part = true ∧
      replOf u e.part = some r ∧ r.endOp = none ∧ flag e 0 = false ∧ r.stage = 2 ∧ allUnits u e.part r = true) ∧
    (∃ (e : Entry) (s : State) (u : State) (r : _), startCmd e s = u ∧ fetched Row.replaceEnd e s = true ∧ isLead u e.part = true ∧
      replOf u e.part = some r ∧ r.endOp = none ∧ flag e 0 = true) ∧
    (∃ (e : Entry) (io : HostIo) (s : State) (u : State) (b : _) (k : _), startCmd e s = u ∧ fetched Row.keyInstall e s = true ∧
      isMgmt e = false ∧ (arg e 16 1 = 1 ∨ arg e 16 1 = 2) ∧ arg e 32 4 = 60 ∧
      inputOf e (granted Row.keyInstall e io s) 60 = some b ∧ b.length = 60 ∧ sessionOn u (arg e 8 4) (srcPort u e.src) = true ∧
      (granted Row.keyInstall e io s).crypt = some k ∧
      u.keys.any (fun x => decide (x.cls < 3) && x.owner == e.part && x.keyId == arg e 12 4) = false ∧ u.keys.length < 256) ∧
    (∃ (e : Entry) (io : HostIo) (s : State) (u : State) (b : _), startCmd e s = u ∧ fetched Row.keyInstall e s = true ∧
      isMgmt e = true ∧ (arg e 16 1 = 3 ∨ arg e 16 1 = 4) ∧ arg e 32 4 = 97 ∧
      inputOf e (granted Row.keyInstall e io s) 97 = some b ∧ b.length = 97 ∧ numAt b 0 1 = 4 ∧ anyJob u = false ∧
      (u.keys.filter (fun x => x.cls != arg e 16 1)).length < 256) ∧
    (∃ (e : Entry) (s : State) (u : State), startCmd e s = u ∧ fetched Row.keyInstall e s = true ∧ arg e 16 1 = 0 ∧ arg e 32 4 = 0 ∧
      u.keys.any (fun x => decide (x.cls < 3) && x.owner == e.part && x.keyId == arg e 12 4) = true) :=
  ⟨⟨vf [(16, 4, 112), (24, 8, 1)], host declaration, idle, _, declaration, rfl, by decide +kernel⟩,
   ⟨vf [], host, idle, _, _, rfl, rfl, by decide +kernel⟩,
   ⟨vf [(10, 2, 1)], declared, _, rfl, by decide +kernel⟩,
   ⟨vf [(8, 8, 4), (24, 4, 6)], host, { running with keys := [⟨2, 0, 6, []⟩] }, _, none, rfl, by decide +kernel⟩,
   ⟨vf [], host, replacing 2, _, ⟨4, 2, 9, false, 0, 1, some 3, none, [(0, 0)]⟩, _, rfl, rfl, by decide +kernel⟩,
   ⟨vf [], replacing 2, _, ⟨4, 2, 9, false, 0, 1, some 3, none, [(0, 0)]⟩, rfl, by decide +kernel⟩,
   ⟨vf [] 1, replacing 2, _, ⟨4, 2, 9, false, 0, 1, some 3, none, [(0, 0)]⟩, rfl, by decide +kernel⟩,
   ⟨vf [(8, 4, 5), (16, 1, 2), (32, 4, 60)], ⟨some (block 60 []), true, some []⟩, modWts (fun w => { w with sessions := [⟨5,
     0⟩] }) idle, _, block 60 [], [], rfl, by decide +kernel⟩,
   ⟨mg [(16, 1, 3), (32, 4, 97)] 255 0 (block 97 [(0, 1, 4)]), host, up, _, block 97 [(0, 1, 4)], rfl, by decide +kernel⟩,
   ⟨vf [(12, 4, 6)], { idle with keys := [⟨2, 0, 6, []⟩] }, _, rfl, by decide +kernel⟩⟩

theorem witness_RequestCommandsComplete :
    (∃ (e : Entry) (io : HostIo) (s : State) (u : State) (d : _) (n : _), startCmd e s = u ∧ fetched Row.reqSubmit e s = true ∧
      inputOf e (granted Row.reqSubmit e io s) 128 = some d ∧ 128 ≤ d.length ∧ descReserved d = true ∧ flag e 0 = false ∧
      arg e 16 4 = 0 ∧ isLead u e.part = true ∧ (part u e.part).job.busy = true ∧ descRangeOk d = true ∧
      unservable u e.part (numAt d 16 3) false = false ∧ queueStatus u e.part (numAt d 14 1 % 64) = true ∧
      freeSlotOf u e.part = some n ∧ rd u (Reg.SRV_Q_DEPTH (numAt d 14 1 % 64)) < rd u (Reg.SRV_Q_DEPTH_MAX (numAt d 14 1 % 64)) ∧
      (roleOf u e.part = 0 ∨ (newSlot u e.part n d).ctl.kvResv ≤ poolPositions u e.part) ∧
      ((newSlot u e.part n d).req.deadline = 2 ^ 48 - 1 ∨ submitFrame u e.part (newSlot u e.part n d).req ≤ (newSlot u e.part n d).req.deadline)) ∧
    (∃ (e : Entry) (io : HostIo) (s : State) (u : State) (d : _) (n : _), startCmd e s = u ∧ fetched Row.reqSubmit e s = true ∧
      inputOf e (granted Row.reqSubmit e io s) 128 = some d ∧ 128 ≤ d.length ∧ descReserved d = true ∧ flag e 0 = true ∧
      isLead u e.part = true ∧ (part u e.part).job.busy = true ∧ descRangeOk d = true ∧ handleSlot u e.part (arg e 16 4) = some n ∧
      roleOf u e.part ≠ 0 ∧ (slotOf u n).req.state = stHold ∧ (slotOf u n).req.cause = 8 ∧ (replOf u e.part).isNone = true ∧
      unservable u e.part (numAt d 16 3) true = false ∧ queueStatus u e.part (slotOf u n).req.queue = true ∧
      rd u (Reg.SRV_Q_DEPTH (slotOf u n).req.queue) < rd u (Reg.SRV_Q_DEPTH_MAX (slotOf u n).req.queue) ∧
      ((turnReq d (slotOf u n).req).deadline = 2 ^ 48 - 1 ∨ submitFrame u e.part (turnReq d (slotOf u n).req) ≤ (turnReq d (slotOf u n).req).deadline)) ∧
    (∃ (e : Entry) (s : State) (u : State) (n : _), startCmd e s = u ∧ fetched Row.reqCancel e s = true ∧ isLead u e.part = true ∧
      handleSlot u e.part (arg e 8 4) = some n ∧ (slotOf u n).req.state ≠ stDrain ∧ (slotOf u n).req.state < 8 ∧
      (slotOf u n).req.state ≠ stFallow) ∧
    (∃ (e : Entry) (io : HostIo) (s : State) (u : State) (n : _), startCmd e s = u ∧ fetched Row.reqQuery e s = true ∧
      isLead u e.part = true ∧ handleSlot u e.part (arg e 8 4) = some n ∧ flag e 0 = false ∧
      (arg e 16 8 = 0 ∨ delivered Row.reqQuery e io s = true)) ∧
    (∃ (e : Entry) (io : HostIo) (s : State) (u : State) (n : _), startCmd e s = u ∧ fetched Row.reqQuery e s = true ∧
      isLead u e.part = true ∧ handleSlot u e.part (arg e 8 4) = some n ∧ flag e 0 = true ∧ 8 ≤ (slotOf u n).req.state ∧
      (arg e 16 8 = 0 ∨ delivered Row.reqQuery e io s = true)) ∧
    (∃ (e : Entry) (s : State) (u : State), startCmd e s = u ∧ fetched Row.queueConfig e s = true ∧ arg e 8 1 ≤ 63 ∧
      flag e 0 = false ∧ arg e 9 1 ≠ 0 ∧ (queueSoon u (arg e 8 1) = none ∧ isVf e = false ∨ ∃ c, queueSoon u (arg e 8 1) = some c ∧
      c.1 = e.part)) ∧
    (∃ (e : Entry) (s : State) (u : State) (c : _), startCmd e s = u ∧ fetched Row.queueConfig e s = true ∧ arg e 8 1 ≤ 63 ∧
      flag e 0 = true ∧ isVf e = false ∧ queueSoon u (arg e 8 1) = some c ∧ c.1 = e.part ∧ rd u (Reg.SRV_Q_DEPTH (arg e 8 1)) = 0) ∧
    (∃ (e : Entry) (s : State) (u : State), startCmd e s = u ∧ fetched Row.queueConfig e s = true ∧ arg e 8 1 ≤ 63 ∧
      flag e 0 = true ∧ isVf e = false ∧ queueSoon u (arg e 8 1) = none) ∧
    (∃ (e : Entry) (s : State) (u : State), startCmd e s = u ∧ fetched Row.streamBind e s = true ∧ flag e 0 = false ∧
      arg e 16 8 % 4096 = 0 ∧ arg e 24 8 % 8 = 0 ∧ arg e 8 2 < slotCount u e.part ∧ roleOf u e.part ≠ 0 ∧
      (slotOf u (slotBase u e.part + arg e 8 2)).req.state ≠ stDecode ∧
      (slotOf u (slotBase u e.part + arg e 8 2)).req.state ≠ stHold ∧
      (slotOf u (slotBase u e.part + arg e 8 2)).req.state ≠ stDrain) ∧
    (∃ (e : Entry) (s : State) (u : State), startCmd e s = u ∧ fetched Row.streamBind e s = true ∧ flag e 0 = true ∧
      arg e 8 2 < slotCount u e.part ∧ roleOf u e.part ≠ 0 ∧ (slotOf u (slotBase u e.part + arg e 8 2)).req.state ≠ stDecode ∧
      (slotOf u (slotBase u e.part + arg e 8 2)).req.state ≠ stHold ∧
      (slotOf u (slotBase u e.part + arg e 8 2)).req.state ≠ stDrain) ∧
    (∃ (e : Entry) (s : State) (u : State), startCmd e s = u ∧ fetched Row.admissionConfig e s = true) :=
  ⟨⟨vf [], host request, serving 0 stDecode, _, request, 1, rfl, by decide +kernel⟩,
   ⟨vf [] 1, host request, serving 1 stHold, _, request, 0, rfl, by decide +kernel⟩,
   ⟨vf [], serving 1 stDecode, _, 0, rfl, by decide +kernel⟩,
   ⟨vf [], host, serving 1 stDecode, _, 0, rfl, by decide +kernel⟩,
   ⟨vf [] 1, host, serving 1 8, _, 0, rfl, by decide +kernel⟩,
   ⟨mg [(9, 1, 1)] 0, idle, _, rfl, by decide +kernel, by decide +kernel, by decide +kernel, by decide +kernel, .inl (by decide +kernel)⟩,
   ⟨mg [] 0 1, serving 1 stDecode, _, (0, 2, 4), rfl, by decide +kernel⟩,
   ⟨mg [] 0 1, idle, _, rfl, by decide +kernel⟩,
   ⟨vf [(8, 2, 1)], serving 1 stDecode, _, rfl, by decide +kernel⟩,
   ⟨vf [(8, 2, 1)] 1, serving 1 stDecode, _, rfl, by decide +kernel⟩,
   ⟨vf [], idle, _, rfl, by decide +kernel⟩⟩

theorem witness_SessionCommandsComplete :
    (∃ (e : Entry) (s : State) (u : State) (n : _), startCmd e s = u ∧ fetched Row.sessionFallow e s = true ∧
      isLead u e.part = true ∧ handleSlot u e.part (arg e 8 4) = some n ∧
      ((slotOf u n).req.state = stDecode ∨ (slotOf u n).req.state = stHold) ∧ fallowPending u n = false ∧
      (keyOf u 2 e.part (arg e 16 4)).isSome = true ∧ sessRoom u 1 = true ∧
      mediumRoom u (arg e 12 1) (segmentSize u e.part (slotOf u n).req.ctxLen) = true) ∧
    (∃ (e : Entry) (s : State) (u : State) (n : _), startCmd e s = u ∧ fetched Row.sessionThaw e s = true ∧ isLead u e.part = true ∧
      (part u e.part).job.busy = true ∧ roleOf u e.part ≠ 0 ∧ flag e 0 = false ∧ handleSlot u e.part (arg e 8 4) = some n ∧
      (slotOf u n).req.state = stFallow ∧ (slotOf u n).imageState ≠ 1 ∧ (slotOf u n).imageState ≠ 3 ∧
      (replOf u e.part).isNone = true ∧ sessRoom u 1 = true ∧
      kvReserved u e.part + (slotOf u n).ctl.kvResv ≤ poolPositions u e.part) ∧
    (∃ (e : Entry) (io : HostIo) (s : State) (u : State) (d : _) (n : _) (c : _), startCmd e s = u ∧
      ((imageOf u (arg e 16 8)).map (fun g => numAt g.header 48 4)).getD 0 = c ∧ fetched Row.sessionThaw e s = true ∧
      isLead u e.part = true ∧ (part u e.part).job.busy = true ∧ roleOf u e.part ≠ 0 ∧ flag e 0 = true ∧
      inputOf e (granted Row.sessionThaw e io s) 128 = some d ∧ 128 ≤ d.length ∧ descReserved d = true ∧
      (arg e 24 1 = pkgId u → (imageOf u (arg e 16 8)).any (fun g => g.state == 2) = true) ∧ (replOf u e.part).isNone = true ∧
      queueStatus u e.part (numAt d 14 1 % 64) = true ∧ freeSlotOf u e.part = some n ∧ sessRoom u 1 = true ∧
      kvReserved u e.part + thawResv u e.part c (numAt d 16 3) ≤ poolPositions u e.part) ∧
    (∃ (e : Entry) (s : State) (u : State) (g : _), startCmd e s = u ∧ fetched Row.sessionExport e s = true ∧ arg e 16 1 = pkgId u ∧
      imageOf u (arg e 8 8) = some g ∧ g.state = 2 ∧ exportSize g.header ≤ arg e 32 8 ∧ sessRoom u 1 = true) ∧
    (∃ (e : Entry) (s : State) (u : State), startCmd e s = u ∧ fetched Row.sessionImport e s = true ∧ isLead u e.part = true ∧
      (part u e.part).job.busy = true ∧ sessRoom u 1 = true ∧
      mediumRoom u (arg e 8 1) (arg e 24 8 / (membersOf u e.part).length) = true) ∧
    (∃ (e : Entry) (s : State) (u : State) (n : _) (img : _) (lead : _), startCmd e s = u ∧ fetched Row.sessionDiscard e s = true ∧
      isLead u e.part = true ∧ (if flag e 1 then handleSlot u e.part (arg e 8 4) else none) = n ∧ discardImage e u n = img ∧
      (if flag e 2 then arg e 24 1 else (img.map imageLead).getD (pkgId u)) = lead ∧ (flag e 1 = true ∨ flag e 2 = true) ∧
      (flag e 1 = true → n.isSome = true) ∧
      n.all (fun n => (slotOf u n).req.state == stFallow && (slotOf u n).imageState != 1) = true ∧
      (flag e 0 = true → sessRoom u 1 = true ∧ (lead = pkgId u → flag e 2 = true → (img.bind (imageOf u)).isSome = true) ∧
      (img.bind (imageOf u)).all (fun g => (keyOf u 2 e.part g.keyId).isSome && g.state != 1) = true) ∧
      img.any (imageInUse u) = false) :=
  ⟨⟨vf [(16, 4, 6)], serving 1 stDecode, _, 0, rfl, by decide +kernel⟩,
   ⟨vf [], serving 1 stFallow, _, 0, rfl, by decide +kernel⟩,
   ⟨vf [(24, 1, 1)] 1, host (block 128 []), serving 1 stFallow, _, block 128 [], 1, _, rfl, rfl, by decide +kernel⟩,
   ⟨vf [(8, 8, 77), (32, 8, 4096)], serving 1 stFallow, _, ⟨77, 0, 0, 6, [], [], [], [], [], none, 0, 2, true⟩, rfl, by decide +kernel⟩,
   ⟨vf [], serving 1 stFallow, _, rfl, by decide +kernel⟩,
   ⟨vf [(16, 8, 77), (24, 1, 1)] 4, serving 1 stFallow, _, none, some 77, 1, rfl, by decide +kernel⟩⟩

theorem witness_TopologyCommandsComplete :
    (∃ (e : Entry) (io : HostIo) (s : State) (u : State) (m : _), startCmd e s = u ∧ fetched Row.topoLoadMap e s = true ∧
      anyJob u = false ∧ inputOf e (granted Row.topoLoadMap e io s) (arg e 16 4) = some m ∧ m.length = arg e 16 4 ∧ 160 ≤ m.length ∧
      mapSigned u m = true ∧ mapHeaderOk m = true ∧ pkgId u < numAt m 8 1 ∧ (numAt m 5 1 ≠ 0 ∨ pairingOk u m = true)) ∧
    (∃ (e : Entry) (s : State) (u : State), startCmd e s = u ∧ fetched Row.topoVerify e s = true) ∧
    (∃ (e : Entry) (s : State) (u : State), startCmd e s = u ∧ fetched Row.linkQuery e s = true ∧ arg e 8 1 ≤ 111) ∧
    (∃ (e : Entry) (io : HostIo) (s : State) (u : State) (b : _), startCmd e s = u ∧ fetched Row.groupWrite e s = true ∧
      arg e 9 1 ≠ 0 ∧ inputOf e (granted Row.groupWrite e io s) (arg e 12 4) = some b ∧ b.length = arg e 12 4 ∧ 18 ≤ b.length ∧
      b.length = 16 + 2 * groupNp b ∧ groupFieldsOk u b = true ∧ groupAllowed u e (numAt b 0 1 % 32) = true ∧
      groupInUse u (arg e 8 1) = false) ∧
    (∃ (e : Entry) (s : State) (u : State), startCmd e s = u ∧ fetched Row.groupWrite e s = true ∧ arg e 9 1 = 0 ∧
      groupAllowed u e e.part = true ∧ groupInUse u (arg e 8 1) = false) ∧
    (∃ (e : Entry) (s : State) (u : State), startCmd e s = u ∧ fetched Row.tickConfig e s = true ∧ 80 ≤ arg e 8 4 % 4096 ∧
      arg e 8 4 % 4096 ≤ 2560 ∧ anyJob u = false) ∧
    (∃ (e : Entry) (io : HostIo) (s : State) (u : State) (b : _), startCmd e s = u ∧ fetched Row.sliceBind e s = true ∧
      inputOf e (granted Row.sliceBind e io s) (arg e 24 4) = some b ∧ b.length = arg e 24 4 ∧ 2 * arg e 10 2 ≤ b.length ∧
      (part u e.part).job.busy = false ∧ arg e 10 2 ≠ 0 ∧ arg e 8 1 ≠ 255 ∧ arg e 10 2 ≤ 144 ∧ arg e 12 2 < arg e 10 2 ∧
      (memberList b (arg e 10 2)).any (fun m => m.1 == 255 || decide (31 < m.2)) = false ∧
      (memberList b (arg e 10 2)).eraseDups.length = arg e 10 2 ∧ (memberList b (arg e 10 2))[arg e 12 2]? = some (pkgId u,
      e.part) ∧ (otherParts u e.part).any (fun q => sliceOf u q == arg e 8 1) = false ∧ quarantined u (arg e 8 1) = false) ∧
    (∃ (e : Entry) (io : HostIo) (s : State) (u : State) (b : _), startCmd e s = u ∧ fetched Row.sliceBind e s = true ∧
      inputOf e (granted Row.sliceBind e io s) (arg e 24 4) = some b ∧ b.length = arg e 24 4 ∧ (part u e.part).job.busy = false ∧
      arg e 10 2 = 0) :=
  ⟨⟨mg [(16, 4, 1824)] 255 0 (mapBody ++ mapSig), host, { up with keys := [⟨4, 0, 0, mapPoint⟩] }, _, mapBody ++ mapSig, rfl,
    by decide +kernel⟩,
   ⟨mg [], up, _, rfl, by decide +kernel⟩,
   ⟨mg [], up, _, rfl, by decide +kernel⟩,
   ⟨mg [(9, 1, 1), (12, 4, 18)] 0 0 (block 18 []), host, mapped, _, block 18 [], rfl, by decide +kernel⟩,
   ⟨mg [] 0, idle, _, rfl, by decide +kernel⟩,
   ⟨mg [(8, 4, 320)], up, _, rfl, by decide +kernel⟩,
   ⟨mg [(8, 1, 5), (10, 2, 1), (24, 4, 2)] 0 0 [0, 0], host, idle, _, [0, 0], rfl, by decide +kernel⟩,
   ⟨mg [(8, 1, 5)] 0, host, idle, _, [], rfl, by decide +kernel⟩⟩

theorem witness_PowerCommandsComplete :
    (∃ (e : Entry) (s : State) (u : State), startCmd e s = u ∧ fetched Row.pwrSetCap e s = true ∧ 450 ≤ arg e 8 2 ∧
      arg e 8 2 ≤ 1200 ∧ arg e 8 2 % 5 = 0 ∧ rd u Reg.PWR_MIN_CAP_W ≤ arg e 8 2) ∧
    (∃ (e : Entry) (s : State) (u : State), startCmd e s = u ∧ fetched Row.pwrSetMode e s = true ∧ arg e 8 1 = 0) ∧
    (∃ (e : Entry) (s : State) (u : State), startCmd e s = u ∧ fetched Row.pwrSetMode e s = true ∧ arg e 8 1 = 1 ∧ pstate u ≠ 7 ∧
      anyJob u = false) ∧
    (∃ (e : Entry) (s : State) (u : State), startCmd e s = u ∧ fetched Row.pwrDomain e s = true ∧ arg e 8 1 ≤ 71 ∧ arg e 9 1 ≤ 1 ∧
      arg e 8 1 ≠ 68 ∧ 2 ≤ pstate u ∧ rd u (Reg.PWR_DOMAIN (arg e 8 1)) = (if arg e 9 1 = 1 then 2 else 0)) ∧
    (∃ (e : Entry) (s : State) (u : State), startCmd e s = u ∧ fetched Row.pwrDomain e s = true ∧ arg e 8 1 ≤ 71 ∧ arg e 9 1 ≤ 1 ∧
      arg e 8 1 ≠ 68 ∧ 2 ≤ pstate u ∧ rd u (Reg.PWR_DOMAIN (arg e 8 1)) = (if arg e 9 1 = 1 then 0 else 2) ∧
      domainRefuses u (arg e 8 1) (arg e 9 1 == 1) = none) ∧
    (∃ (e : Entry) (s : State) (u : State), startCmd e s = u ∧ fetched Row.pwrDomain e s = true ∧ arg e 8 1 ≤ 71 ∧ arg e 9 1 ≤ 1 ∧
      arg e 8 1 ≠ 68 ∧ 2 ≤ pstate u ∧ (rd u (Reg.PWR_DOMAIN (arg e 8 1)) = 1 ∨ rd u (Reg.PWR_DOMAIN (arg e 8 1)) = 3)) ∧
    (∃ (e : Entry) (s : State) (u : State), startCmd e s = u ∧ fetched Row.energyRead e s = true ∧ arg e 8 1 = 0 ∧ isVf e = false) ∧
    (∃ (e : Entry) (s : State) (u : State), startCmd e s = u ∧ fetched Row.energyRead e s = true ∧ arg e 8 1 = 1) ∧
    (∃ (e : Entry) (s : State) (u : State), startCmd e s = u ∧ fetched Row.energyRead e s = true ∧ arg e 8 1 = 2 ∧ arg e 9 1 ≤ 63 ∧
      queueStatus u e.part (arg e 9 1) = true) :=
  ⟨⟨mg [(8, 2, 600)], up, _, rfl, by decide +kernel⟩,
   ⟨mg [], up, _, rfl, by decide +kernel⟩,
   ⟨mg [(8, 1, 1)], setRegs [(Reg.SEQ_STATE, 6)] up, _, rfl, by decide +kernel⟩,
   ⟨mg [(9, 1, 1)], setRegs [(Reg.PWR_DOMAIN 0, 2)] up, _, rfl, by decide +kernel⟩,
   ⟨mg [(9, 1, 1)], setRegs [(Reg.PWR_DOMAIN 0, 0)] up, _, rfl, by decide +kernel⟩,
   ⟨mg [(9, 1, 1)], setRegs [(Reg.PWR_DOMAIN 0, 1)] up, _, rfl, by decide +kernel⟩,
   ⟨mg [], up, _, rfl, by decide +kernel⟩,
   ⟨mg [(8, 1, 1)] 0, idle, _, rfl, by decide +kernel⟩,
   ⟨mg [(8, 1, 2)] 0, serving 1 stDecode, _, rfl, by decide +kernel⟩⟩

theorem witness_ReliabilityCommandsComplete :
    (∃ (e : Entry) (io : HostIo) (s : State) (u : State), startCmd e s = u ∧ fetched Row.faultLogRead e s = true ∧
      delivered Row.faultLogRead e io s = true ∧ 1 ≤ arg e 12 2 ∧ arg e 12 2 ≤ 128) ∧
    (∃ (e : Entry) (s : State) (u : State), startCmd e s = u ∧ fetched Row.faultPolicySet e s = true ∧ arg e 8 1 ≤ 15 ∧
      1 ≤ arg e 10 1 ∧ arg e 10 1 ≤ 15 ∧ arg e 9 1 ≤ 2 ∧ (arg e 9 1 = 2 → arg e 8 1 < 13)) ∧
    (∃ (e : Entry) (s : State) (u : State), startCmd e s = u ∧ fetched Row.scrubConfig e s = true ∧ arg e 8 1 = 0 ∧ arg e 12 4 ≤ 65535) ∧
    (∃ (e : Entry) (s : State) (u : State), startCmd e s = u ∧ fetched Row.scrubConfig e s = true ∧ arg e 8 1 = 1 ∧ arg e 12 4 ≤ 255) ∧
    (∃ (e : Entry) (s : State) (u : State), startCmd e s = u ∧ fetched Row.replicaCompareConfig e s = true ∧ 8 ≤ arg e 9 1 ∧
      arg e 9 1 ≤ 16 ∧ arg e 10 2 ≤ 4095 ∧
      ((List.range 7).all (fun i => arg e (12 + 2 * i) 1 == 255 || decide (arg e (12 + 2 * i) 1 ≤ 143 ∧
      arg e (13 + 2 * i) 1 ≤ 31)) = true)) ∧
    (∃ (e : Entry) (s : State) (u : State), startCmd e s = u ∧ fetched Row.unitFence e s = true ∧ arg e 8 1 ≤ 12 ∧
      unitExists (arg e 8 1) (arg e 10 2) = true ∧ inFenceTable u (arg e 8 1) (arg e 10 2) = false ∧
      (u.cal.pendFence.contains ⟨arg e 8 1, arg e 10 2, true⟩ = true ∨ fenceRoom u = true)) ∧
    (∃ (e : Entry) (s : State) (u : State), startCmd e s = u ∧ fetched Row.unitUnfence e s = true ∧ arg e 8 1 ≤ 12 ∧
      unitExists (arg e 8 1) (arg e 10 2) = true ∧ inFenceTable u (arg e 8 1) (arg e 10 2) = true) :=
  ⟨⟨mg [(12, 2, 1)], host, up, _, rfl, by decide +kernel⟩,
   ⟨mg [(10, 1, 3)], up, _, rfl, by decide +kernel⟩,
   ⟨mg [], up, _, rfl, by decide +kernel⟩,
   ⟨mg [(8, 1, 1)], up, _, rfl, by decide +kernel⟩,
   ⟨vf [(9, 1, 8), (12, 1, 255), (14, 1, 255), (16, 1, 255), (18, 1, 255), (20, 1, 255), (22, 1, 255), (24, 1, 255)], idle, _, rfl,
     by decide +kernel⟩,
   ⟨mg [], up, _, rfl, by decide +kernel⟩,
   ⟨mg [], setRegs [(Reg.CAL_FENCE_V 0, 1)] up, _, rfl, by decide +kernel⟩⟩

theorem witness_DebugCommandsComplete :
    (∃ (e : Entry) (s : State) (u : State), startCmd e s = u ∧ fetched Row.freeze e s = true ∧ 2 ≤ pstate u) ∧
    (∃ (e : Entry) (s : State) (u : State), startCmd e s = u ∧ s.Inv ∧
      fetched Row.clockRelease e (wrb s Reg.HIF_PIN_FREEZE_N true) = true ∧
      frozen (startCmd e (wrb s Reg.HIF_PIN_FREEZE_N true)) = true) ∧
    (∃ (e : Entry) (s : State) (u : State), startCmd e s = u ∧ fetched Row.scanRead e s = true ∧ arg e 16 2 ≠ 0 ∧ frozen u = true) ∧
    (∃ (e : Entry) (s : State) (u : State), startCmd e s = u ∧ fetched Row.diagRun e s = true ∧ arg e 10 1 ≤ 12 ∧
      unitExists (arg e 10 1) (arg e 12 2) = true ∧ (jobsOfUnit u (arg e 10 1) (arg e 12 2)).isEmpty = true) :=
  ⟨⟨mg [], up, _, rfl, by decide +kernel⟩,
   ⟨mg [], setRegs [(Reg.KAO_FROZEN, 1)] up, _, rfl, ⟨by decide +kernel, by decide +kernel, by decide +kernel, by decide +kernel⟩,
     by decide +kernel, by decide +kernel⟩,
   ⟨mg [(16, 2, 8)], setRegs [(Reg.KAO_FROZEN, 1)] up, _, rfl, by decide +kernel⟩,
   ⟨mg [], up, _, rfl, by decide +kernel⟩⟩

theorem witness_WindowCommandsComplete :
    (∃ (s : State) (mb : _) (tail : _), subMod 16 (tail % 2 ^ 16) (mbox s mb).sqHead ≤ 64) ∧
    (∃ (s : State) (mb : _) (v : _), subMod 16 (v % 2 ^ 16) (mbox s mb).cqHead ≤ subMod 16 (mbox s mb).cqTail (mbox s mb).cqHead) ∧
    (∃ (s : State) (mb : _) (v : _), subMod 16 (v % 2 ^ 16) (mbox s mb).evHead ≤ subMod 16 (mbox s mb).evTail (mbox s mb).evHead) ∧
    (∃ (s : State) (p : _) (ring : _) (r : Ring), ring < slotCount s p ∧ ringOf s (slotBase s p + ring) = some r) ∧
    (∃ (s : State) (m : _) (x : _), ((List.range 34).map (fun i => (s.kao.lastServed + 1 + i) % 34)).find? (fetchable s) = some m ∧
      padTo 64 (tget [] (mbox s m).sq ((mbox s m).sqHead % 64)) = x) ∧
    (∃ (s : State) (src : _) (d : _), datagramOk d = true ∧ servedBox s (.mgmt src (numAt d 8 4) (d.drop 96)) = true ∧
      s.kao.kept.find? (fun k => k.src == src && k.xid == numAt d 8 4) = none ∧ s.kao.mgmtInflight < 16) ∧
    (∃ (s : State) (src : _) (d : _) (k : _), datagramOk d = true ∧ servedBox s (.mgmt src (numAt d 8 4) (d.drop 96)) = true ∧
      s.kao.kept.find? (fun k => k.src == src && k.xid == numAt d 8 4) = some k ∧ k.bytes.isEmpty = false) :=
  ⟨⟨up, 2, 3, by decide +kernel⟩,
   ⟨modMbox up 2 (fun b => { b with cqTail := 4 }), 2, 3, by decide +kernel⟩,
   ⟨modMbox up 2 (fun b => { b with evTail := 4 }), 2, 3, by decide +kernel⟩,
   ⟨{ setRegs [(Reg.SRV_P_SLOT_COUNT 0, 4)] up with srv := { Serving.reset with rings := [(1, some ⟨4096, 8192, 0, 0⟩)] } }, 0, 1,
     ⟨4096, 8192, 0, 0⟩, by decide +kernel⟩,
   ⟨modMbox running 2 (fun b => { b with sqTail := 1 }), 2, block 64 [], by decide +kernel⟩,
   ⟨up, 1, block 160 [(0, 4, 0x4D424F58), (4, 1, 1), (8, 4, 6), (12, 4, 64)], by decide +kernel⟩,
   ⟨{ up with kao := { up.kao with kept := [⟨1, 6, [1]⟩] } }, 1, block 160 [(0, 4, 0x4D424F58), (4, 1, 1), (8, 4, 6), (12, 4, 64)],
     ⟨1, 6, [1]⟩, by decide +kernel⟩⟩

theorem witness_LinkCommandsComplete :
    (∃ (s : State) (l : Nat), mayRetrain s l = true) ∧
    (∃ (l : Nat), l < 96) ∧
    (∃ (l : Nat), l < 96) ∧
    (∃ (s : State) (l : Nat), l < 96 ∧ 4 ≤ rd s (Reg.LINK_STATE l) ∧ rd s (Reg.LINK_STATE l) ≤ 6) ∧
    (∃ (s : State) (l : Nat), l < 96 ∧ 2 ≤ rd s (Reg.LINK_STATE l)) ∧
    (∃ (s : State) (l : Nat), l < 96 ∧ 2 ≤ rd s (Reg.LINK_STATE l)) ∧
    (∃ (l : Nat) (count : _), l < 96 ∧ count ≠ 0) ∧
    (∃ (l : Nat), l < 96) ∧
    (∃ (s : State) (l : Nat), l < 96 ∧ rd s (Reg.LINK_STATE l) = 2) ∧
    (∃ (s : State) (l : Nat), l < 96 ∧ rd s (Reg.LINK_STATE l) = 3) ∧
    (∃ (s : State) (l : Nat), l < 96 ∧ rd s (Reg.LINK_STATE l) = 4) ∧
    (∃ (s : State) (l : Nat), l < 96 ∧ rd s (Reg.LINK_STATE l) = 5) ∧
    (∃ (s : State) (l : Nat), mayRetrain s l = true ∧ rd s (Reg.LINK_RETRAINS l) < rd s Reg.RTR_RETRAIN_MAX) ∧
    (∃ (s : State) (l : Nat) (slot : _), l < 96 ∧ heldPos s l ≠ 15 ∧ slot < s.tick.len) :=
  ⟨⟨setRegs [(Reg.LINK_STATE 0, 7), (Reg.LD_POWERED 0, 1), (Reg.LD_REFCLK_LOCK 0, 1)] up, 0, by decide +kernel⟩,
   ⟨0, by decide +kernel⟩,
   ⟨0, by decide +kernel⟩,
   ⟨setRegs [(Reg.LINK_STATE 0, 4)] up, 0, by decide +kernel⟩,
   ⟨setRegs [(Reg.LINK_STATE 95, 6)] up, 95, by decide +kernel⟩,
   ⟨setRegs [(Reg.LINK_STATE 95, 6)] up, 95, by decide +kernel⟩,
   ⟨95, 1, by decide +kernel⟩,
   ⟨95, by decide +kernel⟩,
   ⟨setRegs [(Reg.LINK_STATE 95, 2)] up, 95, by decide +kernel⟩,
   ⟨setRegs [(Reg.LINK_STATE 95, 3)] up, 95, by decide +kernel⟩,
   ⟨setRegs [(Reg.LINK_STATE 95, 4)] up, 95, by decide +kernel⟩,
   ⟨setRegs [(Reg.LINK_STATE 95, 5)] up, 95, by decide +kernel⟩,
   ⟨setRegs [(Reg.RTR_RETRAIN_MAX, 3)] (setRegs [(Reg.LINK_STATE 0, 7), (Reg.LD_POWERED 0, 1), (Reg.LD_REFCLK_LOCK 0, 1)] up), 0,
     by decide +kernel⟩,
   ⟨up, 0, 319, by decide +kernel⟩⟩

theorem witness_HostPathCommandsComplete :
    (∃ (path : _) (off : _), off = mbErrOff path + 4) ∧
    (∃ (path : _) (off : _) (f : _) (r : _), off ≠ mbErrOff path + 4 ∧ (path < 2 ∨ path = 34) ∧ fieldsAt Reg.readClear off = f :: r) ∧
    (∃ (path : _) (off : _), off % 4 = 0 ∧ off = mbErrOff path) ∧
    (∃ (s : State) (path : _) (off : _), off % 4 = 0 ∧ off ≠ mbErrOff path ∧ path < 2 ∧ ownRow off = false ∧
      (off < 0x900000 ∨ 0xA00000 ≤ off) ∧ hiddenReg s path off = false) ∧
    (∃ (s : State) (port : _) (id : _), spdmServed s port = true ∧ s.wts.sessions.length < 8 ∧ s.wts.sessions.any (·.id == id) = false) ∧
    (∃ (s : State) (port : _), spdmServed s port = true) ∧
    (∃ (s : State) (port : _) (i : _), spdmServed s port = true ∧ 1 ≤ i ∧ i ≤ 6) ∧
    (∃ (s : State) (port : _), spdmServed s port = true) ∧
    (∃ (s : State) (x : _) (session : _) (stream : _), x < 2 ∧ stream < 3 ∧ spdmServed s x = true ∧ sessionOn s session x = true) :=
  ⟨⟨0, 0x11820, by decide +kernel⟩,
   ⟨0, 0x800024, ⟨0x800024, 0, 32, .rc, 0⟩, [], by decide +kernel, by decide, by decide +kernel⟩,
   ⟨0, 0x1181C, by decide +kernel⟩,
   ⟨up, 0, 0xA00020, by decide +kernel⟩,
   ⟨up, 0, 3, by decide +kernel⟩,
   ⟨up, 0, by decide +kernel⟩,
   ⟨up, 2, 6, by decide +kernel⟩,
   ⟨up, 0, by decide +kernel⟩,
   ⟨{ up with wts := { up.wts with sessions := [⟨3, 1⟩] } }, 1, 3, 2, by decide +kernel⟩⟩

theorem witness_ManagementCommandsComplete :
    (∃ (s : State), calAlive s = true ∧ 1 ≤ pstate s) ∧
    (∃ (s : State), calAlive s = true ∧ 1 ≤ pstate s) ∧
    (∃ (s : State), calAlive s = true ∧ 1 ≤ pstate s) ∧
    (∃ (s : State), calAlive s = true ∧ 1 ≤ pstate s) ∧
    (∃ (s : State) (addr : _) (port : _), s.cal.collector = some (addr, port) ∧ calAlive s = true) ∧
    (∃ (s : State), rd s Reg.CAL_DELIVERED < s.cal.sent) ∧
    (∃ (s : State), calAlive s = true) ∧
    (∃ (s : State), calAlive s = true) ∧
    (∃ (s : State) (i : _) (b : _), calAlive s = true ∧ sensorValue s i = some b) ∧
    (∃ (s : State), calAlive s = true) ∧
    (∃ (s : State) (n : _), calAlive s = true ∧ 8 ≤ n ∧ n ≤ 254) ∧
    (∃ (s : State), calAlive s = true) ∧
    (∃ (s : State), calAlive s = true) ∧
    (∃ (s : State), calAlive s = true ∧ rdb s Reg.HIF_MGMT_UP = true) ∧
    (∃ (s : State), calAlive s = true ∧ rdb s Reg.HIF_MGMT_UP = true) ∧
    (∃ (s : State), calAlive s = true ∧ rdb s Reg.HIF_MGMT_UP = true) ∧
    (∃ (s : State), calAlive s = true ∧ rdb s Reg.HIF_MGMT_UP = true) ∧
    (∃ (s : State), s.pwr.calSupply = true) :=
  ⟨⟨up, by decide +kernel⟩,
   ⟨up, by decide +kernel⟩,
   ⟨up, by decide +kernel⟩,
   ⟨up, by decide +kernel⟩,
   ⟨{ up with cal := { up.cal with collector := some (7, 9) } }, 7, 9, by decide +kernel⟩,
   ⟨{ up with cal := { up.cal with sent := 1 } }, by decide +kernel⟩,
   ⟨up, by decide +kernel⟩,
   ⟨up, by decide +kernel⟩,
   ⟨up, 216, leBytes 4 (rd up Reg.PWR_P_MW), by decide +kernel⟩,
   ⟨up, by decide +kernel⟩,
   ⟨up, 8, by decide +kernel⟩,
   ⟨up, by decide +kernel⟩,
   ⟨up, by decide +kernel⟩,
   ⟨setRegs [(Reg.HIF_MGMT_UP, 1)] up, by decide +kernel⟩,
   ⟨setRegs [(Reg.HIF_MGMT_UP, 1)] up, by decide +kernel⟩,
   ⟨setRegs [(Reg.HIF_MGMT_UP, 1)] up, by decide +kernel⟩,
   ⟨setRegs [(Reg.HIF_MGMT_UP, 1)] up, by decide +kernel⟩,
   ⟨up, by decide +kernel⟩⟩

theorem witness_PinCommandsComplete :
    (∃ (s : State), s.pwr.calSupply = true) ∧
    (∃ (s : State), s.pwr.calSupply = true) ∧
    (∃ (s : State), s.pwr.calSupply = true ∧ pstate s ≠ 0) ∧
    (∃ (s : State), s.pwr.calSupply = true ∧ s.pwr.resetLow = true) ∧
    (∃ (s : State), s.pwr.calSupply = false) ∧
    (∃ (s : State), s.pwr.calSupply = true) ∧
    (∃ (r : _), r ≤ 7) ∧
    (∃ (r : _), r ≤ 7) ∧
    (∃ (s : State), rd s Reg.TICK_ROLE = 1 ∧ rdb s Reg.TICK_SYNC_IN_EN = true) ∧
    (∃ (s : State), 2 ≤ pstate s) ∧
    (∃ (s : State) (n : _), n < 4 ∧ s.pwr.calSupply = true ∧ s.pwr.refLost.contains n = false) ∧
    (∃ (s : State) (n : _), n < 4 ∧ s.pwr.refLost.contains n = true) ∧
    (∃ (s : State), s.pwr.calSupply = true) :=
  ⟨⟨up, by decide +kernel⟩,
   ⟨up, by decide +kernel⟩,
   ⟨up, by decide +kernel⟩,
   ⟨{ up with pwr := { up.pwr with resetLow := true } }, by decide +kernel⟩,
   ⟨{ up with pwr := { up.pwr with calSupply := false } }, by decide +kernel⟩,
   ⟨up, by decide +kernel⟩,
   ⟨7, by decide +kernel⟩,
   ⟨7, by decide +kernel⟩,
   ⟨setRegs [(Reg.TICK_ROLE, 1), (Reg.TICK_SYNC_IN_EN, 1)] up, by decide +kernel⟩,
   ⟨up, by decide +kernel⟩,
   ⟨up, 3, by decide +kernel⟩,
   ⟨{ up with pwr := { up.pwr with refLost := [3] } }, 3, by decide +kernel⟩,
   ⟨up, by decide +kernel⟩⟩

theorem witness_JtagCommandsComplete :
    (∃ (s : State), s.pwr.calSupply = true) ∧
    (∃ (s : State), s.pwr.calSupply = true) ∧
    (∃ (s : State), s.pwr.calSupply = true ∧ 2 ≤ pstate s) ∧
    (∃ (s : State), s.pwr.calSupply = true ∧ boundaryAllowed s = true) ∧
    (∃ (s : State), s.pwr.calSupply = true ∧ boundaryAllowed s = true) ∧
    (∃ (s : State), s.pwr.calSupply = true ∧ boundaryAllowed s = true) ∧
    (∃ (s : State), s.pwr.calSupply = true ∧ frozen s = true) ∧
    (∃ (s : State), s.pwr.calSupply = true ∧ frozen s = true) :=
  ⟨⟨up, by decide +kernel⟩,
   ⟨up, by decide +kernel⟩,
   ⟨up, by decide +kernel⟩,
   ⟨setRegs [(Reg.SEQ_STATE, 2)] up, by decide +kernel⟩,
   ⟨setRegs [(Reg.SEQ_STATE, 2)] up, by decide +kernel⟩,
   ⟨setRegs [(Reg.SEQ_STATE, 2)] up, by decide +kernel⟩,
   ⟨setRegs [(Reg.KAO_FROZEN, 1)] up, by decide +kernel⟩,
   ⟨setRegs [(Reg.KAO_FROZEN, 1)] up, by decide +kernel⟩⟩

theorem witness_FrameClockCommandsComplete :
    (∃ (s : State), keepsFrames s = true) ∧
    (∃ (s : State), keepsFrames s = true ∧ s.tick.verdict = false) ∧
    (∃ (s : State) (l : _) (sym : TickSym), isUp s l = true ∧ sym.master ≠ pkgId s ∧ 2 ≤ rd s Reg.TICK_ROLE ∧ l = upstream s ∧
      (sym.master = rd s Reg.TICK_MASTER_ID ∨ genAfter sym.gen (rd s Reg.TICK_GEN) = true) ∧
      (sym.gen = rd s Reg.TICK_GEN ∨ genAfter sym.gen (rd s Reg.TICK_GEN) = true) ∧ sym.frame = frameNo s) ∧
    (∃ (s : State) (l : _) (sym : TickSym), isUp s l = true ∧ sym.master ≠ pkgId s ∧ rd s Reg.TICK_ROLE = 0 ∧ pstate s = 5 ∧
      s.tick.mapChecked = true ∧ l = upstream s) ∧
    (∃ (s : State) (l : _) (sym : TickSym), isUp s l = true ∧ sym.master ≠ pkgId s ∧ rd s Reg.TICK_ROLE = 1 ∧
      genAfter sym.gen (rd s Reg.TICK_GEN) = true) ∧
    (∃ (s : State), 2 ≤ rd s Reg.TICK_ROLE ∧ s.tick.gotSymbol = false ∧ keepsFrames s = true) ∧
    (∃ (s : State), 2 ≤ rd s Reg.TICK_ROLE ∧ 3 ≤ s.tick.missed ∧ rdb s Reg.TICK_FENCED = false) :=
  ⟨⟨up, by decide +kernel⟩,
   ⟨up, by decide +kernel⟩,
   ⟨setRegs [(Reg.LINK_STATE 0, 6), (Reg.TICK_PRIM_UP, 0), (Reg.TICK_ROLE, 3), (Reg.TICK_MASTER_ID, 1)] up, 0, ⟨0, 2000, 0, 1, 2,
     255, 0⟩, by decide +kernel, by decide +kernel, by decide +kernel, by decide +kernel, .inl (by decide +kernel),
     .inl (by decide +kernel), by decide +kernel⟩,
   ⟨{ setRegs [(Reg.LINK_STATE 0, 6), (Reg.TICK_PRIM_UP, 0), (Reg.SEQ_STATE,
     5)] up with tick := { up.tick with mapChecked := true } }, 0, ⟨0, 2000, 0, 1, 2, 255, 0⟩, by decide +kernel⟩,
   ⟨setRegs [(Reg.LINK_STATE 95, 6), (Reg.TICK_ROLE, 1)] up, 95, ⟨0, 2000, 0, 1, 2, 255, 1⟩, by decide +kernel⟩,
   ⟨setRegs [(Reg.TICK_ROLE, 2)] up, by decide +kernel⟩,
   ⟨{ setRegs [(Reg.TICK_ROLE, 3)] up with tick := { up.tick with missed := 3 } }, by decide +kernel⟩⟩

theorem witness_SlotCommandsComplete :
    (∃ (s : State) (l : Nat) (rx : SlotRx) (t : _), isUp s l = true ∧ rx.slot < s.tick.len ∧ slotBegins rx.slot s = t) ∧
    (∃ (s : State) (l : Nat) (slot : _) (t : _), slotBegins slot s = t ∧ isUp s l = true ∧ slot < s.tick.len) ∧
    (∃ (s : State) (l : Nat), isUp s l = true) ∧
    (∃ (s : State) (l : Nat) (kind : _) (frame : _) (slices : List Nat) (new : _), isUp s l = true ∧ kind ≤ 2 ∧
      frame % 2 ^ 16 = frameNo s % 2 ^ 16 ∧ slices.filter (fun x => !(abortMap s kind).contains x) = new ∧ new ≠ []) ∧
    (∃ (s : State) (l : Nat) (pos : _), isUp s l = true ∧ isUp s (subLink s (bundleOf s l) pos) = true) ∧
    (∃ (s : State) (l : Nat) (pos : _) (k : _), subLink s (bundleOf s l) pos = k ∧ isUp s l = true ∧ isUp s k = false ∧ k ≠ 127) ∧
    (∃ (s : State) (l : Nat), isUp s l = true) ∧
    (∃ (s : State) (l : Nat) (t : _), isUp s l = true ∧ l < 96 ∧ rd t (Reg.LINK_STATE l) = 3) ∧
    (∃ (s : State) (l : Nat) (t : _), isUp s l = true ∧ l < 96 ∧ rd t (Reg.LINK_STATE l) = 3) :=
  ⟨⟨setRegs [(Reg.LINK_STATE 95, 6)] up, 95, ⟨319, none, false, false, false, 0, false, false, 0, 0, 0, [], 0, 0, 0, 0, 0, false, [],
    [], []⟩, slotBegins 319 (setRegs [(Reg.LINK_STATE 95, 6)] up), by decide +kernel, by decide +kernel, rfl⟩,
   ⟨setRegs [(Reg.LINK_STATE 95, 6)] up, 95, 319, _, rfl, by decide +kernel⟩,
   ⟨setRegs [(Reg.LINK_STATE 95, 6)] up, 95, by decide +kernel⟩,
   ⟨setRegs [(Reg.LINK_STATE 95, 6)] up, 95, 2, 0, [5], [5], by decide +kernel⟩,
   ⟨setRegs [(Reg.LINK_STATE 95, 6)] up, 95, 9, by decide +kernel⟩,
   ⟨setRegs [(Reg.LINK_STATE 95, 6)] up, 95, 8, _, rfl, by decide +kernel⟩,
   ⟨setRegs [(Reg.LINK_STATE 95, 6)] up, 95, by decide +kernel⟩,
   ⟨setRegs [(Reg.LINK_STATE 95, 6)] up, 95, setRegs [(Reg.LINK_STATE 95, 3)] up, by decide +kernel⟩,
   ⟨setRegs [(Reg.LINK_STATE 95, 6)] up, 95, setRegs [(Reg.LINK_STATE 95, 3)] up, by decide +kernel⟩⟩

theorem witness_RemoteCommandsComplete :
    (∃ (s : State) (q : _), frozen s = false ∧ waitsBehind s q = false) ∧
    (∃ (s : State), frozen s = false) ∧
    (∃ (s : State) (reqid : _) (tag : _), awaits s reqid tag = true) ∧
    (∃ (s : State) (a : _) (q : _) (t : _), ccRequest s a = q ∧ threadReady s a.thread = true ∧ a.addr / 2 ^ 56 = 128 ∧
      wellFormedReq q = true ∧ acceptsPkg s (q.addr / 2 ^ 48) = true ∧ hasRoom s a.thread = true ∧ issueReq q s = (t, true)) ∧
    (∃ (s : State) (t : _), threadReady s t = true ∧ (outOf s (threadReqid t)).isEmpty = true) ∧
    (∃ (s : State) (t : _), threadReady s t = true ∧ (outOf s (threadReqid t)).isEmpty = false) ∧
    (∃ (s : State) (a : _) (ue : _), a.thread < 256 ∧ threadReady s a.thread = true ∧ plainAccess a = true ∧
      a.addr < rangePages (takeUe ue s) (threadOwner s a.thread) * pageBytes) ∧
    (∃ (s : State) (a : _) (ue : _), a.thread < 256 ∧ threadReady s a.thread = true ∧ plainAccess a = true ∧
      rangePages (takeUe ue s) (threadOwner s a.thread) * pageBytes ≤ a.addr ∧
      ownScratch (takeUe ue s) (threadOwner s a.thread) a.addr = true ∧
      (a.op = .store → liveLocked (takeUe ue s) a.addr (2 ^ a.size) = false)) :=
  ⟨⟨up, ⟨0x20, 2, 0, 0, 255, false, false, false, 0, 0, 0, [], 0, 255⟩, by decide +kernel⟩,
   ⟨up, by decide +kernel⟩,
   ⟨{ up with rmt := { up.rmt with out := [⟨⟨0x20, 2, 0, 0, 255, false, false, false, 0, 0, 0, [], 0, 255⟩, 0⟩] } }, 0, 0,
     by decide +kernel⟩,
   ⟨running, ⟨0, .load, 2 ^ 63, 2, 0, 0, []⟩, _, (issueReq (ccRequest running (⟨0, .load, 2 ^ 63, 2, 0, 0, []⟩)) running).1, rfl,
     by decide +kernel, by decide +kernel, by decide +kernel, by decide +kernel, by decide +kernel, rfl⟩,
   ⟨running, 0, by decide +kernel⟩,
   ⟨{ running with rmt := { up.rmt with out := [⟨⟨2, 2, 0, 0, 255, false, false, false, 0, 0, 0, [], 0, 255⟩, 0⟩] } }, 0,
     by decide +kernel⟩,
   ⟨setRegs [(Reg.TIER_P_RANGE_PAGES 0, 1)] running, ⟨0, .load, 8, 2, 0, 0, []⟩, [], by decide +kernel⟩,
   ⟨running, ⟨0, .load, 0x20000000000, 2, 0, 0, []⟩, [], by decide +kernel, by decide +kernel, by decide +kernel, by decide +kernel,
     by decide +kernel, by decide +kernel⟩⟩

theorem witness_StartMessagesComplete :
    (∃ (h : CtlHdr) (s : State) (u : State) (k : _), answered h s = u ∧
      s.fab.seen.find? (fun c => c.src == h.srcPkg && c.mseq == h.mseq) = none ∧ expected u h = true ∧ k ≤ 2480 ∧
      (rd u Reg.TICK_ROLE = 1 ∨ rd u Reg.TICK_ROLE = 2)) ∧
    (∃ (h : CtlHdr) (s : State) (u : State) (c : Candidate), answered h s = u ∧
      s.fab.seen.find? (fun c => c.src == h.srcPkg && c.mseq == h.mseq) = none ∧ expected u h = true ∧ listens u = true ∧
      u.tick.candidate = true ∧ c.mapDigest = mapDigest u) ∧
    (∃ (h : CtlHdr) (s : State) (u : State), answered h s = u ∧
      s.fab.seen.find? (fun c => c.src == h.srcPkg && c.mseq == h.mseq) = none ∧ expected u h = true ∧ rd u Reg.TICK_ROLE = 1) ∧
    (∃ (h : CtlHdr) (s : State) (u : State) (r : _), answered h s = u ∧
      s.fab.seen.find? (fun c => c.src == h.srcPkg && c.mseq == h.mseq) = none ∧ expected u h = true ∧
      rankOf u h.dstPart h.srcPkg h.srcPart = some r) ∧
    (∃ (h : CtlHdr) (s : State) (u : State) (id : _) (slice : _) (ents : _) (es : _) (ts : _), answered h s = u ∧
      s.fab.seen.find? (fun c => c.src == h.srcPkg && c.mseq == h.mseq) = none ∧ expected u h = true ∧
      slotEnts slice ents 0 (ents.length / 8) = es ∧ es.all (entryOk (rd u Reg.TICK_BASE) true) = true ∧
      entriesFit u (rd u Reg.TICK_BASE) es = true ∧
      ((if u.fab.transit.any (fun t => t.imageId == id && t.slice == slice && !t.released) then u.fab.transit.map (fun t => if t.imageId = id ∧
      t.slice = slice ∧ !t.released then { t with ents := t.ents ++ es } else t) else u.fab.transit ++ [⟨id, slice, es,
      false⟩]) = ts)) ∧
    (∃ (h : CtlHdr) (s : State) (u : State) (id : _), answered h s = u ∧ imageIdOf (part u h.dstPart) = id ∧
      s.fab.seen.find? (fun c => c.src == h.srcPkg && c.mseq == h.mseq) = none ∧ expected u h = true ∧
      (part u h.dstPart).job = .starting ∧ isLead u h.dstPart = true) ∧
    (∃ (h : CtlHdr) (s : State) (u : State) (id : _) (resume : Bool), answered h s = u ∧ imageIdOf (part u h.dstPart) = id ∧
      s.fab.seen.find? (fun c => c.src == h.srcPkg && c.mseq == h.mseq) = none ∧ expected u h = true ∧ fromLead u h = true ∧
      (part u h.dstPart).job = (if resume then .paused else .starting)) ∧
    (∃ (h : CtlHdr) (s : State) (u : State), answered h s = u ∧
      s.fab.seen.find? (fun c => c.src == h.srcPkg && c.mseq == h.mseq) = none ∧ expected u h = true ∧ h.dstPart = 255) ∧
    (∃ (h : CtlHdr) (s : State) (u : State) (id : _), answered h s = u ∧ imageIdOf (part u h.dstPart) = id ∧
      s.fab.seen.find? (fun c => c.src == h.srcPkg && c.mseq == h.mseq) = none ∧ expected u h = true ∧ h.dstPart ≠ 255 ∧
      fromLead u h = true) ∧
    (∃ (h : CtlHdr) (s : State) (u : State), answered h s = u ∧
      s.fab.seen.find? (fun c => c.src == h.srcPkg && c.mseq == h.mseq) = none ∧ expected u h = true) ∧
    (∃ (h : CtlHdr) (s : State) (u : State) (v : _) (r : _), answered h s = u ∧
      s.fab.seen.find? (fun c => c.src == h.srcPkg && c.mseq == h.mseq) = none ∧ expected u h = true ∧
      rankOf u h.dstPart h.srcPkg h.srcPart = some r ∧ v ≤ 16) :=
  ⟨⟨msg 255, setRegs [(Reg.TICK_ROLE, 1)] up, _, 2480, rfl, by decide +kernel, by decide +kernel, by decide +kernel,
    .inl (by decide +kernel)⟩,
   ⟨msg 255, standing, _, ⟨1, 0, 0, true, 0, 0, 0, false⟩, rfl, by decide +kernel⟩,
   ⟨msg 255, setRegs [(Reg.TICK_ROLE, 1)] up, _, rfl, by decide +kernel⟩,
   ⟨msg 0, running, _, 0, rfl, by decide +kernel⟩,
   ⟨msg 255, up, _, 7, 3, (block 8 [(1, 1, 1), (2, 2, 4), (6, 1, 2)]), (slotEnts 3 (block 8 [(1, 1, 1), (2, 2, 4), (6, 1, 2)]) 0 1),
     [⟨7, 3, (slotEnts 3 (block 8 [(1, 1, 1), (2, 2, 4), (6, 1, 2)]) 0 1), false⟩], rfl, by decide +kernel⟩,
   ⟨msg 0, withJob .starting, _, _, rfl, rfl, by decide +kernel⟩,
   ⟨msg 0, withJob .paused, _, _, true, rfl, rfl, by decide +kernel⟩,
   ⟨msg 255, up, _, rfl, by decide +kernel⟩,
   ⟨msg 0, withJob .starting, _, _, rfl, rfl, by decide +kernel⟩,
   ⟨msg 255, up, _, rfl, by decide +kernel⟩,
   ⟨msg 0, running, _, 16, 0, rfl, by decide +kernel⟩⟩

theorem witness_ServiceMessagesComplete :
    (∃ (h : CtlHdr) (s : State) (u : State) (i : _), answered h s = u ∧
      s.fab.seen.find? (fun c => c.src == h.srcPkg && c.mseq == h.mseq) = none ∧ expected u h = true ∧
      peerIndex (admitCfg u h.dstPart).targets h.srcPkg h.srcPart = some i) ∧
    (∃ (h : CtlHdr) (s : State) (u : State) (i : _), answered h s = u ∧
      s.fab.seen.find? (fun c => c.src == h.srcPkg && c.mseq == h.mseq) = none ∧ expected u h = true ∧
      peerIndex (admitCfg u h.dstPart).sources h.srcPkg h.srcPart = some i) ∧
    (∃ (h : CtlHdr) (s : State) (u : State) (ctl : _) (i : _) (g : _) (n : _) (r : _), answered h s = u ∧ tget (0,
      0) u.srv.granted (4 * h.dstPart + i) = g ∧ s.fab.seen.find? (fun c => c.src == h.srcPkg && c.mseq == h.mseq) = none ∧
      expected u h = true ∧ peerIndex (admitCfg u h.dstPart).sources h.srcPkg h.srcPart = some i ∧ isLead u h.dstPart = true ∧
      roleOf u h.dstPart ≠ 3 ∧ roleOf u h.dstPart ≠ 0 ∧ g.1 ≠ 0 ∧ (ctlOf ctl).kvResv / 64 ≤ g.2 ∧ freeSlots u h.dstPart = n :: r) ∧
    (∃ (h : CtlHdr) (s : State) (u : State) (jidx : _) (gen : _) (i : _) (n : _), answered h s = u ∧
      s.fab.seen.find? (fun c => c.src == h.srcPkg && c.mseq == h.mseq) = none ∧ expected u h = true ∧
      peerIndex (admitCfg u h.dstPart).targets h.srcPkg h.srcPart = some i ∧
      assignSlot u h.dstPart (List.replicate 128 0 ++ leBytes 2 jidx ++ leBytes 2 gen) = some n) ∧
    (∃ (h : CtlHdr) (s : State) (u : State) (k : _), answered h s = u ∧
      s.fab.seen.find? (fun c => c.src == h.srcPkg && c.mseq == h.mseq) = none ∧ expected u h = true ∧
      rankOf u h.dstPart h.srcPkg h.srcPart = some k) ∧
    (∃ (h : CtlHdr) (s : State) (u : State) (unit : _) (w : _) (mid : _) (epoch : _) (k : _), answered h s = u ∧
      mid = (part u h.dstPart).modelId ∧ epoch = (part u h.dstPart).modelEpoch ∧ unit = windowUnit u h.dstPart w ∧
      s.fab.seen.find? (fun c => c.src == h.srcPkg && c.mseq == h.mseq) = none ∧ expected u h = true ∧
      (vexPeers u h.dstPart).find? (fun k => k.2.1 == h.srcPkg && k.2.2 == h.srcPart) = some k) ∧
    (∃ (h : CtlHdr) (s : State) (u : State) (unit : _) (epoch : _) (r : _) (k : _), answered h s = u ∧ r.epoch = epoch ∧
      s.fab.seen.find? (fun c => c.src == h.srcPkg && c.mseq == h.mseq) = none ∧ expected u h = true ∧ replOf u h.dstPart = some r ∧
      rankOf u h.dstPart h.srcPkg h.srcPart = some k ∧ r.units.contains (k, unit) = false) ∧
    (∃ (h : CtlHdr) (s : State) (u : State) (image : _), answered h s = u ∧
      s.fab.seen.find? (fun c => c.src == h.srcPkg && c.mseq == h.mseq) = none ∧ expected u h = true ∧
      (imageOf u image).isSome = true) ∧
    (∃ (h : CtlHdr) (s : State) (u : State) (image : _) (i : _) (off : _) (want : _) (b : _), answered h s = u ∧
      s.fab.seen.find? (fun c => c.src == h.srcPkg && c.mseq == h.mseq) = none ∧ expected u h = true ∧
      fetchBytes u image i off want = some b) ∧
    (∃ (h : CtlHdr) (s : State) (u : State) (image : _) (o : _), answered h s = u ∧
      s.fab.seen.find? (fun c => c.src == h.srcPkg && c.mseq == h.mseq) = none ∧ expected u h = true ∧
      u.srv.sessOps.find? (fun o => opImage o.kind == some image) = some o) ∧
    (∃ (h : CtlHdr) (s : State) (u : State) (image : _), answered h s = u ∧
      s.fab.seen.find? (fun c => c.src == h.srcPkg && c.mseq == h.mseq) = none ∧ expected u h = true ∧
      u.srv.sessOps.find? (fun o => opImage o.kind == some image) = none) ∧
    (∃ (h : CtlHdr) (s : State) (u : State) (image : _) (o : _), answered h s = u ∧
      s.fab.seen.find? (fun c => c.src == h.srcPkg && c.mseq == h.mseq) = none ∧ expected u h = true ∧
      u.srv.sessOps.find? (isThawOf image) = some o) ∧
    (∃ (h : CtlHdr) (s : State) (u : State), answered h s = u ∧
      s.fab.seen.find? (fun c => c.src == h.srcPkg && c.mseq == h.mseq) = none ∧ expected u h = true) :=
  ⟨⟨fromPeer, peered, _, 0, rfl, by decide +kernel, by decide +kernel, peer_first _⟩,
   ⟨fromPeer, peered, _, 0, rfl, by decide +kernel, by decide +kernel, peer_first _⟩,
   ⟨fromPeer, peered, _, block 64 [], 0, _, 1, [2, 3], rfl, rfl, by decide +kernel, by decide +kernel, peer_first _,
     by decide +kernel, by decide +kernel, by decide +kernel, by decide +kernel, by decide +kernel, by decide +kernel⟩,
   ⟨fromPeer, peered, _, 0, 0, 0, 0, rfl, by decide +kernel, by decide +kernel, peer_first _, by decide +kernel⟩,
   ⟨msg 0, running, _, 0, rfl, by decide +kernel⟩,
   ⟨msg 0, setRegs [(Reg.LOESS_PEER_V 0 6, 1), (Reg.LOESS_PEER_PKG 0 6, 0), (Reg.LOESS_PEER_PART 0 6, 0)] running, _, _, 3, _, _, (6,
     0, 0), rfl, rfl, rfl, rfl, by decide +kernel⟩,
   ⟨msg 0, { running with wts := (replacing 2).wts }, _, 1, _, ⟨4, 2, 9, false, 0, 1, some 3, none, [(0, 0)]⟩, 0, rfl, rfl,
     by decide +kernel⟩,
   ⟨msg 0, serving 1 stFallow, _, 77, rfl, by decide +kernel⟩,
   ⟨msg 0, { running with srv := { Serving.reset with segments := [⟨77, 0, 0, [], [(2, [1, 2, 3])]⟩] } }, _, 77, 2, 0, 2, [1, 2],
     rfl, by decide +kernel⟩,
   ⟨msg 0, { running with srv := { Serving.reset with sessOps := [⟨some 1, 0, .thaw 77 0 0 false, [], [], 0, [], [], [], 0,
     false⟩] } }, _, 77, ⟨some 1, 0, .thaw 77 0 0 false, [], [], 0, [], [], [], 0, false⟩, rfl, by decide +kernel⟩,
   ⟨msg 0, running, _, 78, rfl, by decide +kernel⟩,
   ⟨msg 0, { running with srv := { Serving.reset with sessOps := [⟨some 1, 0, .thaw 77 0 0 false, [], [], 0, [], [], [], 0,
     false⟩] } }, _, 77, ⟨some 1, 0, .thaw 77 0 0 false, [], [], 0, [], [], [], 0, false⟩, rfl, by decide +kernel⟩,
   ⟨msg 0, running, _, rfl, by decide +kernel⟩⟩

theorem witness_MessageRingComplete :
    (∃ (s : State) (k : _) (r : _), s.kao.down = false ∧ keepsFrames s = true ∧ s.fab.ring = k :: r ∧ messageOk k.bytes = true) ∧
    (∃ (s : State) (h : CtlHdr) (o : _), s.fab.unanswered.find? (fun o => o.dst == h.srcPkg && o.mseq == h.replyTo) = some o) ∧
    (∃ (s : State), s.kao.down = false ∧ keepsFrames s = true) :=
  ⟨⟨{ up with fab := { up.fab with ring := [⟨3, false, 1, 255, block 40 [(0, 2, 0x54), (2, 2, 8)]⟩] } }, ⟨3, false, 1, 255,
    block 40 [(0, 2, 0x54), (2, 2, 8)]⟩, [], by decide +kernel⟩,
   ⟨{ up with fab := { up.fab with unanswered := [⟨0, 0x23, 5, [], [], 0, 0⟩] } }, msg 0, ⟨0, 0x23, 5, [], [], 0, 0⟩, by decide +kernel⟩,
   ⟨up, by decide +kernel⟩⟩

theorem witness_SequencerCommandsComplete :
    (∃ (s : State) (G : Nat) (fl : BitVec 4) (a : BitVec 112) (t : _), issueSyn 0 G fl a s = t ∧ canIssue s G = true) ∧
    (∃ (s : State) (G : Nat) (fl : BitVec 4) (a : BitVec 112) (t : _), issueSyn 1 G fl a s = t ∧ canIssue s G = true) ∧
    (∃ (s : State) (G : Nat) (fl : BitVec 4) (a : BitVec 112) (t : _) (u : _), issueSyn 2 G fl a s = t ∧
      (modCtx t G (fun c => { c with arrivals := tput 0 c.arrivals (fld a 3 0) (arrivedAt t G (fld a 3 0) + 1) }) = u) ∧
      canIssue s G = true) ∧
    (∃ (s : State) (G : Nat) (fl : BitVec 4) (a : BitVec 112) (t : _), issueSyn 3 G fl a s = t ∧ canIssue s G = true) ∧
    (∃ (s : State) (G : Nat) (fl : BitVec 4) (a : BitVec 112) (ue : _) (t : _) (v : _),
      spmRead G (fld a 87 64) 4 (takeUe ue (issueSyn 4 G fl a s)) = t ∧ readNum t (spmAddr G (fld a 87 64)) 4 = v ∧
      canIssue s G = true ∧ (spmBad t G (fld a 87 64) 4).isEmpty = true ∧ v ≤ fld a 111 96) :=
  ⟨⟨running, 0, 0, 0, _, rfl, by decide +kernel⟩,
   ⟨running, 0, 0, 0, _, rfl, by decide +kernel⟩,
   ⟨running, 0, 0, 0, _, _, rfl, rfl, by decide +kernel⟩,
   ⟨running, 0, 0, 0, _, rfl, by decide +kernel⟩,
   ⟨running, 0, 0, 0, [], _, _, rfl, rfl, by decide +kernel⟩⟩

theorem witness_ComputeCommandsComplete :
    (∃ (s : State) (G : Nat) (fl : BitVec 4) (a : BitVec 112) (ue : _) (t : _), issueCmd 1 0x01 G fl.toNat a (takeUe ue s) = t ∧
      canIssue s G = true) :=
  ⟨running, 1, 0, 0, [], _, rfl, by decide +kernel⟩

theorem witness_MoveCommandsComplete :
    (∃ (s : State) (G : Nat) (fl : BitVec 4) (a : BitVec 112) (ue : _) (t : _), issueCmd 9 0x40 G fl.toNat a (takeUe ue s) = t ∧
      canIssue s G = true) :=
  ⟨running, 1, 0, 0, [], _, rfl, by decide +kernel⟩

theorem witness_RoutingCommandsComplete :
    (∃ (s : State) (G : Nat) (fl : BitVec 4) (a : BitVec 112) (ue : _) (t : _), issueCmd 8 1 G fl.toNat a (takeUe ue s) = t ∧
      canIssue s G = true ∧ colRoom s G = true) :=
  ⟨colJob, 1, 0, 0, [], _, rfl, by decide +kernel⟩

theorem witness_CommandEndsComplete :
    (∃ (s : State) (G : Nat) (i : Nat) (x : FrameCmd), (ctx s G).inflight[i]? = some x ∧ mayComplete (ctx s G) x = true ∧
      colHolds s G x = false) ∧
    (∃ (s : State) (G : Nat) (i : Nat) (x : FrameCmd), (ctx s G).inflight[i]? = some x ∧ watched x = true ∧ frozen s = false) ∧
    (∃ (s : State) (G : Nat) (i : Nat) (x : FrameCmd) (k : _) (j : _) (par : _) (r : _),
      gemmRun G (fld x.args 99 94) j (gemmOf x.args x.cfg) x.cfg par s = r ∧ (ctx s G).inflight[i]? = some x ∧ x.waitsAc = some (k,
      j)) ∧
    (∃ (s : State) (G : Nat) (i : Nat) (x : FrameCmd) (grp : _) (pc : _) (r : _), (ctx s G).inflight[i]? = some x ∧
      (ctx s G).guards = (grp, pc) :: r ∧ groupDone (ctx s G) grp = true) :=
  ⟨⟨modCtx running 1 (fun c => { c with inflight := [⟨3, 5, 8, 0, 0, 0, none, 0⟩] }), 1, 0, ⟨3, 5, 8, 0, 0, 0, none, 0⟩,
    by decide +kernel⟩,
   ⟨modCtx running 1 (fun c => { c with inflight := [⟨3, 5, 8, 0, 0, 0, none, 0⟩] }), 1, 0, ⟨3, 5, 8, 0, 0, 0, none, 0⟩,
     by decide +kernel⟩,
   ⟨modCtx running 1 (fun c => { c with inflight := [⟨2, 2, 8, 0, 0, 0, some (3, 0), 0⟩] }), 1, 0, ⟨2, 2, 8, 0, 0, 0, some (3, 0),
     0⟩, 3, 0, [], _, rfl, by decide +kernel⟩,
   ⟨modCtx running 1 (fun c => { c with inflight := [⟨3, 5, 8, 0, 0, 0, none, 1⟩], guards := [(0, 7)] }), 1, 0, ⟨3, 5, 8, 0, 0, 0,
     none, 1⟩, 0, 7, [], by decide +kernel⟩⟩

theorem witness_TierCommandsComplete :
    (∃ (s : State) (n : _) (d : _), n < 12 ∧ d < 12 ∧ 3 ≤ pstate s) ∧
    (∃ (s : State) (p : _) (due : _), openNow s p = true ∧ frozen s = false ∧
      s.rmt.held.filter (fun h => heldFor s h == some p || heldFor s h == none) = due) ∧
    (∃ (s : State) (n : _) (row : _), rd s (Reg.SPM_SCRUB_ROW n) = row ∧ n < 12 ∧ rdb s (Reg.SPM_SCRUB_EN n) = true ∧
      frozen s = false ∧ 3 ≤ pstate s) ∧
    (∃ (s : State), rd s Reg.TIER_T2_SCRUB_HOURS ≠ 0 ∧ 3 ≤ pstate s) ∧
    (∃ (s : State) (p : _) (page : _) (m : _) (t : _),
      reportFrame (pageOf s p page).frame p (copyFrame (pageOf s p page).frame m.dst s) = t ∧
      s.tier.moves.find? (fun m => m.part == p && m.page == page && !m.ready) = some m) ∧
    (∃ (s : State) (f : _) (r : _) (t : _),
      (bump (zeroRange { s with tier := { s.tier with release := s.tier.release.filter (· != r) } } (f * pageBytes) pageBytes) Reg.TIER_MIG_BYTE_CNT pageBytes = t) ∧
      s.tier.release.find? (fun r => r.frame == f && r.ripe) = some r) ∧
    (∃ (s : State), rdb s Reg.TIER_AUTO = true) :=
  ⟨⟨up, 11, 11, by decide +kernel⟩,
   ⟨{ idle with rmt := { up.rmt with held := [.remote ⟨0x20, 2, 0, 0, 255, false, false, false, 0x20000000000, 0, 0, [], 0,
     255⟩] } }, 0, [.remote ⟨0x20, 2, 0, 0, 255, false, false, false, 0x20000000000, 0, 0, [], 0, 255⟩], by decide +kernel⟩,
   ⟨setRegs [(Reg.SPM_SCRUB_EN 11, 1), (Reg.SPM_SCRUB_ROW 11, 511)] up, 11, _, rfl, by decide +kernel⟩,
   ⟨setRegs [(Reg.TIER_T2_SCRUB_HOURS, 1)] up, by decide +kernel⟩,
   ⟨{ idle with tier := { up.tier with moves := [⟨0, 0, 5, false⟩] } }, 0, 0, ⟨0, 0, 5, false⟩, _, rfl, by decide +kernel⟩,
   ⟨{ idle with tier := { up.tier with release := [⟨0, 5, true⟩] } }, 5, ⟨0, 5, true⟩, _, rfl, by decide +kernel⟩,
   ⟨setRegs [(Reg.TIER_AUTO, 1)] up, by decide +kernel⟩⟩

theorem witness_SessionEventsComplete :
    (∃ (s : State) (p : _) (j : _), j < slotCount s p ∧ 8 ≤ (slotOf s (slotBase s p + j)).req.state ∧
      (slotOf s (slotBase s p + j)).since + 64 * rd s (Reg.SRV_P_LINGER64 p) ≤ frameNo s) ∧
    (∃ (s : State) (p : _) (j : _) (a : _) (b : Bytes) (k : _) (n : _) (t : _), slotBase s p + j = n ∧
      account (bump s (Reg.HIF_N_RD_BYTE_CNT (part s p).port) (4 * k)) p 0xC0 (4 * k) = t ∧
      (tget none s.srv.pass p).bind (fun x => x.admits.find? (fun a => a.slot == n && !a.fetched && a.fail == 0)) = some a ∧
      (slotOf s n).req.promptLen = k ∧ 4 * k ≤ b.length ∧
      (List.range k).any (fun i => decide (numAt (decl t p) 12 4 ≤ numAt b (4 * i) 4)) = false) ∧
    (∃ (s : State) (p : _) (j : _) (a : _),
      (tget none s.srv.pass p).bind (fun x => x.admits.find? (fun a => a.slot == slotBase s p + j && !a.fetched && a.fail == 0)) = some a) ∧
    (∃ (s : State) (p : _) (r : _), replOf s p = some r ∧ r.stage = 1 ∧ r.forced = false ∧ r.beginOp.isSome = true ∧
      r.limit ≤ frameNo s) ∧
    (∃ (s : State) (p : _) (j : _) (g : _) (n : _) (us : _) (t : _) (key : _) (size : _) (fs : _), slotBase s p + j = n ∧
      isLead s p = true ∧ imageOf s (slotOf s n).image = some g ∧ j < slotCount s p ∧ (slotOf s n).req.state = stFallow ∧
      (slotOf s n).imageState ≠ 2 ∧ (slotOf s n).imageState ≠ 3 ∧ slotUnits s p n g.header = us ∧ dropWrite p n s = t ∧
      keyOf t 2 p (numAt g.header 92 4) = some key ∧
      (us.map (fun u => 256 + 256 * ceilDiv u.2.2.1.length 256)).sum + (512 + 16 * (membersOf t p).length) = size ∧
      (if g.medium = 0 then storeFrames t (ceilDiv size pageBytes) else some []) = some fs ∧ us.all (fun u => u.2.2.2) = true ∧
      isLead t p = true) ∧
    (∃ (s : State) (image : _) (g : _), imageOf s image = some g ∧ g.state = 1 ∧ g.written = false ∧ g.header ≠ [] ∧
      imageWhole g = true) ∧
    (∃ (s : State) (x : ThawIn) (o : _) (key : _) (us : _) (ps : _) (t : _),
      s.srv.sessOps.find? (isThawInto x.part x.image (slotBase s x.part + x.jidx)) = some o ∧ o.hdr ≠ [] ∧ x.st = 0 ∧
      keyOf s 2 x.part (numAt o.hdr 92 4) = some key ∧
      openUnits s o key (x.units.foldl (fun m u => tput [] m u.1 u.2) []) (unitsNeeded s o) = .inr us ∧
      digestDiffers s o us = false ∧ placeUnits o us ([], s) = some (ps, t)) ∧
    (∃ (s : State) (x : ThawIn) (o : _), s.srv.sessOps.find? (isThawInto x.part x.image (slotBase s x.part + x.jidx)) = some o ∧
      o.hdr ≠ [] ∧ x.st ≠ 0) ∧
    (∃ (s : State) (op : _) (o : SessOp) (image : _) (l : _) (iova : _) (k : _), opOf s op = some o ∧
      o.kind = .exporting image l iova k) ∧
    (∃ (s : State) (op : _) (o : SessOp) (k : _) (medium : _), opOf s op = some o ∧ o.kind = .import k medium) :=
  ⟨⟨setRegs [(Reg.TICK_FRAME_LO, 256), (Reg.SRV_P_LINGER64 0, 4)] (serving 1 8), 0, 0, by decide +kernel⟩,
   ⟨prompting, 0, 0, ⟨0, 0, 64, false, 0, 4, 0⟩, [3, 0, 0, 0], 1, _, _, rfl, rfl, by decide +kernel⟩,
   ⟨prompting, 0, 0, ⟨0, 0, 64, false, 0, 4, 0⟩, by decide +kernel⟩,
   ⟨setRegs [(Reg.TICK_FRAME_LO, 9)] (replacing 1), 0, ⟨4, 1, 9, false, 0, 1, some 3, none, [(0, 0)]⟩, by decide +kernel⟩,
   ⟨fallowing, 0, 0, ⟨77, 0, 0, 6, block 256 [(92, 4, 6)], [], [], [], [], none, 0, 1, false⟩, _, [], dropWrite 0 0 (fallowing), [],
     528, [poolFrames (serving 1 stFallow)], rfl, by decide +kernel, by decide +kernel, by decide +kernel, by decide +kernel,
     by decide +kernel, by decide +kernel, by decide +kernel, rfl, by decide +kernel, by decide +kernel, by decide +kernel,
     by decide +kernel, by decide +kernel⟩,
   ⟨{ idle with srv := { Serving.reset with images := [⟨77, 0, 0, 6, block 256 [], [], [], [], [], none, 0, 1, false⟩] } }, 77, ⟨77,
     0, 0, 6, block 256 [], [], [], [], [], none, 0, 1, false⟩, by decide +kernel⟩,
   ⟨{ serving 1 stFallow with srv := { (serving 1 stFallow).srv with sessOps := [⟨some 1, 0, .thaw 77 0 0 false, block 256 [(52, 4,
     1), (92, 4, 6)], [], 0, [], [], [], 0, false⟩] } }, ⟨0, 0, 77, [], [], 0⟩, ⟨some 1, 0, .thaw 77 0 0 false, block 256 [(52, 4,
     1), (92, 4, 6)], [], 0, [], [], [], 0, false⟩, [], [], [],
     { serving 1 stFallow with srv := { (serving 1 stFallow).srv with sessOps := [⟨some 1, 0, .thaw 77 0 0 false, block 256 [(52, 4,
     1), (92, 4, 6)], [], 0, [], [], [], 0, false⟩] } }, by decide +kernel⟩,
   ⟨{ serving 1 stFallow with srv := { (serving 1 stFallow).srv with sessOps := [⟨some 1, 0, .thaw 77 0 0 false, block 256 [(52, 4,
     1), (92, 4, 6)], [], 0, [], [], [], 0, false⟩] } }, ⟨0, 0, 77, [], [], 1⟩, ⟨some 1, 0, .thaw 77 0 0 false, block 256 [(52, 4,
     1), (92, 4, 6)], [], 0, [], [], [], 0, false⟩, by decide +kernel⟩,
   ⟨{ idle with srv := { Serving.reset with sessOps := [⟨some 1, 0, .exporting 77 0 0 0, [], [], 0, [], [], [], 0, false⟩] } }, 1,
     ⟨some 1, 0, .exporting 77 0 0 0, [], [], 0, [], [], [], 0, false⟩, 77, 0, 0, 0, by decide +kernel⟩,
   ⟨{ idle with srv := { Serving.reset with sessOps := [⟨some 1, 0, .import 77 0, [], [], 0, [], [], [], 0, false⟩] } }, 1, ⟨some 1,
     0, .import 77 0, [], [], 0, [], [], [], 0, false⟩, 77, 0, by decide +kernel⟩⟩

theorem witness_WeightEventsComplete :
    (∃ (s : State) (op : _) (l : _) (b : Bytes) (pt : _) (t : _),
      (modWts (fun w => { w with loads := w.loads.filter (fun x => x.op != op) }) s = t) ∧
      s.wts.loads.find? (fun l => l.op == op) = some l ∧ b.length = numAt l.hdr 40 8 + 16 ∧
      gcmOpen l.key (bytesAt l.hdr 48 12) l.hdr (b.take (numAt l.hdr 40 8)) (b.drop (numAt l.hdr 40 8)) = some pt ∧
      (bit (numAt l.hdr 5 1) 0 = true → sha256 pt = BitVec.ofNat 256 (numAt l.hdr 64 32))) ∧
    (∃ (s : State) (op : _) (l : _) (t : _), (modWts (fun w => { w with loads := w.loads.filter (fun x => x.op != op) }) s = t) ∧
      s.wts.loads.find? (fun l => l.op == op) = some l) ∧
    (∃ (s : State), rd s Reg.CRY_V6_RECHECK_S ≠ 0) ∧
    (∃ (s : State) (p : _) (v : _), vexPart s p = v ∧ p < 32 ∧ (part s p).job = .running ∧ v.window < windowNo s p) ∧
    (∃ (s : State) (p : _) (k : _) (f : _), (vexPart s p).fills.find? (fun f => f.waiting.contains k) = some f) ∧
    (∃ (s : State) (p : _) (w : _) (ds : _), p < 32 ∧ isLead s p = true ∧ packageDigests s p w = some ds ∧
      (sliceDigest ds).2 = false ∧
      (windowLimit s p w < frameNo s ∨ (vexPeers s p).all (fun k => ((vexPart s p).digests.filter (fun d => d.window == w)).any (fun d => d.who == 256 + k.1)) = true)) ∧
    (∃ (s : State) (p : _), (part s p).job = .starting ∧ (part s p).goFrame = none ∧ isLead s p = true ∧
      65536 ≤ frameNo s - (part s p).startedAt) ∧
    (∃ (s : State) (p : _), (part s p).job = .starting ∧ (part s p).goFrame = none ∧ isLead s p = false ∧
      131072 ≤ frameNo s - (part s p).startedAt) :=
  ⟨⟨modWts (fun w => { w with loads := [⟨4, 0, 0, block 128 [], List.replicate 32 0, 0⟩] }) idle, 4, ⟨4, 0, 0, block 128 [],
    List.replicate 32 0, 0⟩, [37, 89, 116, 73, 214, 192, 18, 45, 7, 96, 113, 227, 192, 135, 62, 225], [], _, rfl, by decide +kernel⟩,
   ⟨modWts (fun w => { w with loads := [⟨4, 0, 0, block 128 [], List.replicate 32 0, 0⟩] }) idle, 4, ⟨4, 0, 0, block 128 [],
     List.replicate 32 0, 0⟩, _, rfl, by decide +kernel⟩,
   ⟨setRegs [(Reg.CRY_V6_RECHECK_S, 1)] up, by decide +kernel⟩,
   ⟨setRegs [(Reg.LOESS_WINDOW_LOG2 0, 4), (Reg.TICK_FRAME_LO, 16)] running, 0, _, rfl, by decide +kernel⟩,
   ⟨modVex idle 0 (fun v => { v with fills := [⟨0, 0, none, [], [11], 0, false⟩] }), 0, 11, ⟨0, 0, none, [], [11], 0, false⟩,
     by decide +kernel⟩,
   ⟨modVex idle 0 (fun v => { v with digests := [⟨3, 0, 0, 6, false⟩] }), 0, 3, [⟨3, 0, 0, 6, false⟩], by decide +kernel,
     by decide +kernel, by decide +kernel, by decide +kernel, .inr (by decide +kernel)⟩,
   ⟨setRegs [(Reg.TICK_FRAME_LO, 65536)] (withJob .starting), 0, by decide +kernel⟩,
   ⟨setRegs [(Reg.TICK_FRAME_LO, 131072)] (modPart (withJob .starting) 0 (fun q => { q with slice := some ⟨5, 1, [(1, 0), (0, 0)],
     0⟩ })), 0, by decide +kernel⟩⟩

theorem witness_ReliabilityEventsComplete :
    (∃ (s : State) (t : _) (rs : _), writeRecord (mkRec s 15 0 3 9 0x1300 24 255 0 0 0 []) false s = t ∧
      (t.cal.upNs :: t.cal.restarts).filter (fun x => decide (t.cal.upNs ≤ x + 3600000000000)) = rs ∧ s.pwr.calSupply = true ∧
      s.cal.lasting = false) ∧
    (∃ (s : State), s.cal.restarting = true ∧ s.cal.lasting = false) ∧
    (∃ (s : State), s.kao.down = false) ∧
    (∃ (s : State) (t : _) (ks : _),
      calEvent Reg.CAL_EV_KAOLIN_RESET 1 (rd s Reg.CAL_LOG_NEXT) (wr (bump (writeRecord (mkRec s 14 6 3 9 0x1301 20 255 0 0 0 []) true s) Reg.CAL_KAOLIN_RESET_CNT 1) Reg.CAL_KAOLIN_ALIVE 0) = t ∧
      (t.cal.upNs :: t.cal.kaoResets).filter (fun x => decide (t.cal.upNs ≤ x + 60000000000)) = ks ∧ calAlive s = true ∧
      2 ≤ pstate s ∧ frozen s = false ∧ rdb s Reg.CAL_HUB_FAILED = false) ∧
    (∃ (s : State), s.kao.down = true ∧ rdb s Reg.CAL_HUB_FAILED = false) ∧
    (∃ (s : State), s.kao.down = true ∧ calAlive s = true) :=
  ⟨⟨up, _, _, rfl, rfl, by decide +kernel⟩,
   ⟨{ up with cal := { up.cal with restarting := true } }, by decide +kernel⟩,
   ⟨up, by decide +kernel⟩,
   ⟨up, _, _, rfl, rfl, by decide +kernel⟩,
   ⟨{ up with kao := { up.kao with down := true } }, by decide +kernel⟩,
   ⟨{ up with kao := { up.kao with down := true } }, by decide +kernel⟩⟩

theorem witness_PowerEventsComplete :
    (∃ (s : State) (reads : List RailRead) (xs : _), (reads ++ List.replicate 8 none).take 8 = xs ∧ calAlive s = true ∧ pstate s ≠ 0) ∧
    (∃ (s : State) (cap : _) (p : _) (t : _),
      (if s.pwr.samples.length = 0 then rd s Reg.PWR_P_MW else s.pwr.samples.foldl (· + ·) 0 / s.pwr.samples.length) = p ∧
      (wr (wr { s with pwr := { s.pwr with samples := [] } } Reg.PWR_P_MW p) Reg.PWR_MIN_CAP_W cap = t) ∧
      (rd t Reg.PWR_CAP_W * 1000 < p ∨ hotter t throttleAt 0 = true)) ∧
    (∃ (s : State) (cap : _) (p : _) (t : _),
      (if s.pwr.samples.length = 0 then rd s Reg.PWR_P_MW else s.pwr.samples.foldl (· + ·) 0 / s.pwr.samples.length) = p ∧
      (wr (wr { s with pwr := { s.pwr with samples := [] } } Reg.PWR_P_MW p) Reg.PWR_MIN_CAP_W cap = t) ∧
      p + 5000 * rd t Reg.PWR_HYST_STEP ≤ rd t Reg.PWR_CAP_W * 1000 ∧ hotter t throttleAt 0 = false ∧
      hotter t throttleAt 24 = false) ∧
    (∃ (s : State) (cap : _) (p : _) (t : _),
      (if s.pwr.samples.length = 0 then rd s Reg.PWR_P_MW else s.pwr.samples.foldl (· + ·) 0 / s.pwr.samples.length) = p ∧
      (wr (wr { s with pwr := { s.pwr with samples := [] } } Reg.PWR_P_MW p) Reg.PWR_MIN_CAP_W cap = t) ∧
      p ≤ rd t Reg.PWR_CAP_W * 1000 ∧ hotter t throttleAt 0 = false ∧
      (rd t Reg.PWR_CAP_W * 1000 < p + 5000 * rd t Reg.PWR_HYST_STEP ∨ hotter t throttleAt 24 = true)) ∧
    (∃ (s : State) (b : _), rd s Reg.PWR_PERF = 1 ∧ ((if s.pwr.samples.headD (rd s Reg.PWR_P_MW) < rd s Reg.PWR_CAP_W * 1000 ∧
      hotter s throttleAt 0 = false then min 4 (s.pwr.boost + 1) else s.pwr.boost - 1) = b)) ∧
    (∃ (s : State) (d : _) (r : _), s.pwr.ramps.find? (·.1 == d) = some r) ∧
    (∃ (s : State), s.pwr.stage = some 2) ∧
    (∃ (s : State), s.pwr.stage = some 3) ∧
    (∃ (s : State), s.pwr.stage = some 4 ∧ (List.range 96).all (isUp s) = true) ∧
    (∃ (s : State), s.pwr.stage.isSome = true) ∧
    (∃ (s : State), rdb s Reg.SEQ_DOWN = true ∧ anyJob s = false ∧ frozen s = false ∧
      rd (downStep s) Reg.SEQ_TARGET < pstate (downStep s)) ∧
    (∃ (s : State) (n : _) (u : _),
      ({ mapCheck (downArrives (downStep s)) with pwr := { (mapCheck (downArrives (downStep s))).pwr with nextTarget := none } } = u) ∧
      rdb s Reg.SEQ_DOWN = true ∧ anyJob s = false ∧ frozen s = false ∧ pstate (downStep s) ≤ rd (downStep s) Reg.SEQ_TARGET ∧
      (mapCheck (downArrives (downStep s))).pwr.nextTarget = some n) ∧
    (∃ (s : State), rdb s Reg.SEQ_DOWN = true ∧ anyJob s = false ∧ frozen s = false ∧
      pstate (downStep s) ≤ rd (downStep s) Reg.SEQ_TARGET ∧ (mapCheck (downArrives (downStep s))).pwr.nextTarget = none) ∧
    (∃ (s : State), s.pwr.stage = some 4) ∧
    (∃ (s : State), listens s = true ∧ s.tick.candidate = false) ∧
    (∃ (s : State), listens s = true ∧ s.tick.candidate = true ∧ eligible s = true) ∧
    (∃ (s : State) (b : _), listens s = true ∧ s.tick.candidate = true ∧ bestOf (ownCandidate s :: s.tick.heard) = some b) ∧
    (∃ (s : State), listens s = true ∧ s.tick.candidate = true ∧ bestOf (ownCandidate s :: s.tick.heard) = none) ∧
    (∃ (s : State), rd s Reg.TICK_ROLE ≠ 0 ∧ frozen s = false) :=
  ⟨⟨up, [none, some (900, 100, 0)], _, rfl, by decide +kernel⟩,
   ⟨setRegs [(Reg.PWR_CAP_W, 1), (Reg.PWR_P_MW, 1001)] up, 1400, _, _, rfl, rfl, .inl (by decide +kernel)⟩,
   ⟨setRegs [(Reg.PWR_CAP_W, 1000), (Reg.PWR_HYST_STEP, 2), (Reg.PWR_P_MW, 990000)] up, 1400, _, _, rfl, rfl, by decide +kernel⟩,
   ⟨setRegs [(Reg.PWR_CAP_W, 1000), (Reg.PWR_HYST_STEP, 2), (Reg.PWR_P_MW, 990001)] up, 1400, _, _, rfl, rfl, by decide +kernel,
     by decide +kernel, .inl (by decide +kernel)⟩,
   ⟨setRegs [(Reg.PWR_PERF, 1), (Reg.PWR_CAP_W, 1000)] up, 1, by decide +kernel⟩,
   ⟨{ up with pwr := { up.pwr with ramps := [(3, true)] } }, 3, (3, true), by decide +kernel⟩,
   ⟨{ up with pwr := { up.pwr with stage := some 2 } }, by decide +kernel⟩,
   ⟨{ up with pwr := { up.pwr with stage := some 3 } }, by decide +kernel⟩,
   ⟨{ (setRegs ((List.range 96).map (fun l => (Reg.LINK_STATE l, 6))) up) with pwr := { up.pwr with stage := some 4 } },
     by decide +kernel⟩,
   ⟨{ up with pwr := { up.pwr with stage := some 4 } }, by decide +kernel⟩,
   ⟨setRegs [(Reg.SEQ_DOWN, 1), (Reg.SEQ_STATE, 5), (Reg.SEQ_TARGET, 2)] up, by decide +kernel⟩,
   ⟨{ (setRegs [(Reg.SEQ_DOWN, 1), (Reg.SEQ_STATE, 5), (Reg.SEQ_TARGET, 4)] up) with pwr := { up.pwr with nextTarget := some 6 } },
     6, _, rfl, by decide +kernel⟩,
   ⟨setRegs [(Reg.SEQ_DOWN, 1), (Reg.SEQ_STATE, 5), (Reg.SEQ_TARGET, 4)] up, by decide +kernel⟩,
   ⟨{ up with pwr := { up.pwr with stage := some 4 } }, by decide +kernel⟩,
   ⟨listening, by decide +kernel⟩,
   ⟨setRegs [(Reg.TICK_MASTER_ELIG, 1)] standing, by decide +kernel⟩,
   ⟨candidate, ⟨1, 0, 9, true, 0, 0, 0, false⟩, by decide +kernel⟩,
   ⟨setRegs [(Reg.TICK_MASTER_ELIG, 0)] standing, by decide +kernel⟩,
   ⟨setRegs [(Reg.TICK_ROLE, 3)] up, by decide +kernel⟩⟩

theorem witness_PortEventsComplete :
    (∃ (s : State) (x : _), x < 2 ∧ portsRun s = true) ∧
    (∃ (s : State) (p : _), p < 32 ∧ portsRun s = true) ∧
    (∃ (s : State) (x : _), x < 2 ∧ portsRun s = true) ∧
    (∃ (s : State) (x : _), x < 2 ∧ portsRun s = true) ∧
    (∃ (s : State) (fn : _), fn < 34 ∧ portsRun s = true) ∧
    (∃ (s : State) (x : _) (ltssm : _), x < 2 ∧ ltssm < 8 ∧ portsRun s = true) ∧
    (∃ (s : State) (x : _) (stream : _), x < 2 ∧ stream < 3 ∧ portsRun s = true ∧ s.hif.ideKeyed.contains (x * 4 + stream) = true ∧
      s.hif.ideFailed.contains (x * 4 + stream) = false) ∧
    (∃ (s : State) (x : _) (k : PortError) (e : Entry), x < 2 ∧ portsRun s = true ∧ srcPort (portError x k s) e.src = x) ∧
    (∃ (s : State) (x : _), x < 2 ∧ portsRun s = true) ∧
    (∃ (s : State) (x : _), x < 2 ∧ portsRun s = true) ∧
    (∃ (s : State) (x : _), x < 2 ∧ portsRun s = true) ∧
    (∃ (s : State) (x : _), x < 2 ∧ portsRun s = true ∧
      (rd s (Reg.HIF_LTSSM (2 + x)) ≠ 2 ∨ rdb s (Reg.HIF_DEV_PRESENT (2 + x)) = false)) ∧
    (∃ (s : State) (up : _), s.pwr.calSupply = true ∧ rdb s Reg.HIF_MGMT_UP = !up) :=
  ⟨⟨up, 1, by decide +kernel⟩,
   ⟨up, 31, by decide +kernel⟩,
   ⟨up, 1, by decide +kernel⟩,
   ⟨up, 1, by decide +kernel⟩,
   ⟨up, 33, by decide +kernel⟩,
   ⟨up, 1, 7, by decide +kernel⟩,
   ⟨{ up with hif := { up.hif with ideKeyed := [6] } }, 1, 2, by decide +kernel⟩,
   ⟨up, 1, .timeout, { pf [] with src := .pf 1 }, by decide +kernel⟩,
   ⟨up, 1, by decide +kernel⟩,
   ⟨up, 1, by decide +kernel⟩,
   ⟨up, 1, by decide +kernel⟩,
   ⟨up, 1, by decide +kernel, by decide +kernel, .inr (by decide +kernel)⟩,
   ⟨up, true, by decide +kernel⟩⟩

end Sys2Proof.Tests
end

section
/-!
SUPPORT, and the statement that every command answers. Every meaning ends each of its branches in a next state, and every command
keeps what is outside the areas that `mayChange` lists for it.
-/

namespace Sys2Proof.Machine

/-! ### Meanings that answer a next state -/

/-- The meaning answers a next state: no fault, no refusal. -/
def Answers (o : Host.Outcome State Fault Refusal) : Prop := ∃ t, o = .next t

theorem Answers.next {s : State} : Answers (.next s) := ⟨s, rfl⟩

theorem Answers.ite {c : Prop} [Decidable c] {o p : Host.Outcome State Fault Refusal} (h : Answers o) (k : Answers p) :
    Answers (if c then o else p) := by split <;> assumption

/-! ### The meanings that look into a value of the state or of an operand -/

theorem execRcFieldRead_answers (path off : Nat) (s : State) : Answers (execRcFieldRead path off s) := by
  refine .ite .next (.ite ?_ .next)
  split <;> exact .next

theorem execStaemCollectorAck_answers (addr first : Nat) (s : State) : Answers (execStaemCollectorAck addr first s) := by
  unfold execStaemCollectorAck
  split
  · exact .ite .next .next
  · exact .next

theorem execTrainingStepTimeout_answers (l : Nat) (s : State) : Answers (execTrainingStepTimeout l s) := by
  refine .ite .next ?_
  split <;> exact .next

theorem execRtrProbeWrite_answers (link : Nat) (ingress : Bool) (slot : Nat) (s : State) :
    Answers (execRtrProbeWrite link ingress slot s) := by
  unfold execRtrProbeWrite
  extract_lets _ _ e
  clear_value e
  split <;> exact .next

theorem execDomainRampDone_answers (d : Nat) (s : State) : Answers (execDomainRampDone d s) := by
  unfold execDomainRampDone
  split <;> exact .next

theorem execMoveCopyDone_answers (p page : Nat) (s : State) : Answers (execMoveCopyDone p page s) := by
  unfold execMoveCopyDone
  split <;> exact .next

theorem execFrameZeroingDone_answers (f : Nat) (s : State) : Answers (execFrameZeroingDone f s) := by
  unfold execFrameZeroingDone
  split <;> exact .next

theorem execArrivalThresholdReached_answers (G i : Nat) (par : List (Nat × Nat)) (s : State) :
    Answers (execArrivalThresholdReached G i par s) := by
  unfold execArrivalThresholdReached
  split
  · split <;> exact .next
  · exact .next

theorem execGuardEvaluation_answers (G : Nat) (ue : List Nat) (s : State) : Answers (execGuardEvaluation G ue s) := by
  unfold execGuardEvaluation
  split
  · exact .next
  · exact .ite .next .next

theorem execFrameCommandComplete_answers (G i ns : Nat) (s : State) : Answers (execFrameCommandComplete G i ns s) := by
  unfold execFrameCommandComplete
  extract_lets
  split
  · exact .next
  · exact .ite .next (.ite .next .next)

theorem execShardIngressDone_answers (op : Nat) (body : Option Bytes) (s : State) : Answers (execShardIngressDone op body s) := by
  unfold execShardIngressDone
  split
  · exact .next
  · split
    · exact .next
    · refine .ite .next ?_
      split
      · exact .next
      · exact .ite .next .next

theorem execVexsumFillDone_answers (p stack : Nat) (ue : List Nat) (s : State) : Answers (execVexsumFillDone p stack ue s) := by
  unfold execVexsumFillDone
  split <;> exact .next

theorem execVexsumCompare_answers (p w : Nat) (s : State) : Answers (execVexsumCompare p w s) := by
  refine .ite .next ?_
  split
  · exact .ite .next (.ite .next .next)
  · exact .next

theorem execSrvRingHead_answers (p ring head : Nat) (s : State) : Answers (execSrvRingHead p ring head s) := by
  refine .ite .next ?_
  split <;> exact .next

theorem execPromptFetchDone_answers (p jidx : Nat) (data : Option Bytes) (s : State) :
    Answers (execPromptFetchDone p jidx data s) := by
  unfold execPromptFetchDone
  extract_lets
  split
  · exact .next
  · split
    · exact .next
    · exact .ite .next (.ite .next .next)

theorem execFallowSegmentDone_answers (p jidx : Nat) (hdr : Bytes) (medium : Nat) (ok : Bool) (s : State) :
    Answers (execFallowSegmentDone p jidx hdr medium ok s) := by
  refine .ite .next ?_
  split
  · exact .next
  · refine .ite .next ?_
    split <;> exact .next

theorem execFallowImageComplete_answers (image : Nat) (s : State) : Answers (execFallowImageComplete image s) := by
  unfold execFallowImageComplete
  split
  · exact .next
  · exact .ite .next .next

theorem execThawReadDone_answers (t : ThawIn) (s : State) : Answers (execThawReadDone t s) := by
  refine .ite .next (.ite .next (.ite .next ?_))
  split
  · exact .next
  · split
    · exact .next
    · refine .ite .next ?_
      split <;> exact .next

theorem execSessionXferDone_answers (op st : Nat) (data : Option Bytes) (s : State) :
    Answers (execSessionXferDone op st data s) := by
  unfold execSessionXferDone
  split
  · exact .next
  · split
    · exact .next
    · split <;> exact .next
    · exact .next

theorem execReplaceBarrierTimeout_answers (p : Nat) (s : State) : Answers (execReplaceBarrierTimeout p s) := by
  unfold execReplaceBarrierTimeout
  split
  · exact .ite .next .next
  · exact .next

theorem execEngineWatchdogExpiry_answers (G i : Nat) (s : State) : Answers (execEngineWatchdogExpiry G i s) := by
  unfold execEngineWatchdogExpiry
  split
  · exact .ite .next .next
  · exact .next

theorem execSlotSend_answers (l slot : Nat) (s : State) : Answers (execSlotSend l slot s) := by
  refine .ite .next ?_
  extract_lets
  split <;> exact .next

theorem execSlotReceive_answers (l : Nat) (rx : SlotRx) (s : State) : Answers (execSlotReceive l rx s) := by
  refine .ite .next ?_
  extract_lets _ e
  clear_value e
  split <;> exact .next

theorem execPowerStageExit_answers (strap : Nat) (failed : List (Nat × Nat)) (untrained : List Nat) (s : State) :
    Answers (execPowerStageExit strap failed untrained s) := by
  unfold execPowerStageExit
  split <;> exact .next

theorem execDownStepDone_answers (s : State) : Answers (execDownStepDone s) := by
  refine .ite .next (.ite .next ?_)
  extract_lets
  split <;> exact .next

theorem execSpdmRequest_answers (r : SpdmReq) (s : State) : Answers (execSpdmRequest r s) := by
  cases r with
  | establish port id => exact .ite .next (.ite .next .next)
  | endSession port id => exact .ite .next .next
  | measurements port i => exact .ite .next (.ite .next .next)
  | other port => exact .ite .next .next

theorem execHostBarRequest_answers (x : Nat) (k : BarError) (s : State) : Answers (execHostBarRequest x k s) := by
  cases k <;> exact .next

theorem execMctpControlRequest_answers (r : MctpReq) (s : State) : Answers (execMctpControlRequest r s) := by
  refine .ite .next ?_
  cases r with
  | setEid n => exact .ite .next .next
  | getEid => exact .next
  | other => exact .next

theorem execPldmRequest_answers (r : PldmReq) (s : State) : Answers (execPldmRequest r s) := by
  refine .ite .next ?_
  cases r with
  | sensor i => dsimp only; split <;> exact .next
  | other => exact .next

theorem execPldmFirmwareUpdate_answers (t : FwTarget) (img : FwImage) (s : State) : Answers (execPldmFirmwareUpdate t img s) := by
  refine .ite .next ?_
  cases t <;> exact .next

theorem execElectionClose_answers (s : State) : Answers (execElectionClose s) := by
  refine .ite .next ?_
  extract_lets
  split
  · exact .next
  · exact .ite .next .next

theorem execCtlMessageReceive_answers (s : State) : Answers (execCtlMessageReceive s) := by
  refine .ite .next ?_
  split
  · exact .next
  · exact .ite .next .next

theorem execMailboxFetch_answers (io : HostIo) (s : State) : Answers (execMailboxFetch io s) := by
  unfold execMailboxFetch
  split <;> exact .next

theorem execManagementDatagram_answers (src : Nat) (d : Bytes) (io : HostIo) (s : State) :
    Answers (execManagementDatagram src d io s) := by
  refine .ite .next ?_
  split
  · exact .next
  · exact .ite .next .next

theorem execHostDmaError_answers (x : Nat) (k : PortError) (cmd : Option (Nat × Entry)) (s : State) :
    Answers (execHostDmaError x k cmd s) := by
  refine .ite .next ?_
  cases cmd <;> exact .next

/-! ### Every command -/

/-- No command stops the block: the arms follow the branches of the meanings. -/
theorem exec_answers (i : Instr) (s : State) : Answers (exec i s) := by
  cases i with
  -- The mailbox commands: `runRow` answers what the mailbox completes.
  | devIdentify | devGetState | devSetPowerState | devGetTelemetry | devSetTime | partCreate | partDestroy | partAssign
  | jobStart | jobResume | jobStopImmediate | jobStopCheap | jobPause | jobPauseCheap | jobQuery | partAccounting
  | modelDeclare | weightLoadShard | weightVerify | replaceBegin | replaceLayer | replaceEnd | replaceAbort | keyInstall
  | keyDelete | reqSubmit | reqContinue | reqCancel | reqQuery | reqRelease | queueConfig | queueRemove | streamBind
  | streamUnbind | admissionConfig | sessionFallow | sessionThawOwn | sessionThawNew | sessionExport | sessionImport
  | sessionDiscard | topoLoadMap | topoVerify | linkQuery | groupWrite | tickConfig | sliceBind | pwrSetCap | pwrSetMode
  | pwrDomain | energyRead | faultLogRead | faultPolicySet | scrubConfig | replicaCompareConfig | unitFence | unitUnfence
  | freeze | clockRelease | scanRead | diagRun =>
    exact .next
  -- The frame commands of the engines: `frameCommand` answers the issued state, or the same state.
  | bduLoad | bduGemv | mxaCfg | mxaGemm | vecCfg | vadd | vmul | vscale | vfunc | vglu | vred | vnorm | vquant | vi64r
  | vi64add | vcvt | rotFwd | rotFwdQ | rotInv | attCfg | attKvq | attRun | attMerge | kvPut | movFill | movCopy | movHcopy
  | loessStep | srtCfg | srtTopk | srtRoute | srtBin | srtReturn | srtCombine | rmtAtomic | tierLoad | tierStore | tierMigrate =>
    exact .next
  -- CTL messages: `applyCtl`.
  | stretchReq | candidate | ctlJoin | ctlReady | transitInstall | transitReply | ctlGo | ctlAbandon | transitRelease
  | creditGrant | creditReturn | ctlAssign | installed | ctlFill | pkgDigest | sliceDigest | unitDone | segReport | unitFetch
  | unitData | thawReport | segDelete =>
    exact .next
  -- JTAG rows: `jtagRow`.
  | jtagBypass | jtagIdcode | jtagSamplePreload | jtagExtest | jtagClamp | jtagHighz | scanSel | scanShift =>
    exact .next
  -- The other meanings that answer one state.
  | linkOut | counterLowRead | staemSend | pwrEnRise | pwrEnFall | freezeNFall | sensorSample | xtalLoss | trstNAssert | tick
  | openRetryTimeout | trainingStepDone | detourTableRebuild | combineWindowExpiry | deferredAtomicResponse | ctlAck
  | barrierRelease | moveAbort | fallowImageFailed | errorLatchRaise | leakyLeak | ceRateSecond | powerStageTimeout
  | trainWaitExpiry | candidateFloodTimer | hostHotReset | vfFlr | pfFlr | nvmeDriveLoss | calicheSupplyOff | xtalReturn
  | i3cSetdasa =>
    exact .next
  -- Conditions tested one after another.
  | mbSqTailWrite | mbCqHeadWrite | mbEvHeadWrite | tierProbeWrite | linkRetrain | ideKmRequest | staemGet | staemSetCollector
  | staemAck | calicheStatus | staemResendTimer | resetNAssert | resetNRelease | calicheSupplyOn | tickSyncInEdge
  | refclk100Loss | commitDeadline | tickLossSelfFence | retrainTimer | remoteRequestHome | remoteResponse | remoteTimeout
  | messageRetry | synNop | synWait | synBarrier | synSlotWait | synLoop | synLoopEnd | colA2a | colA2av | colGather
  | colBcast | colRedscat | colAllred | dramRefreshWindow | heldAccessServe | scrubRow | tier2Patrol | policyPass
  | requestLingerExpiry | v6RecheckTimer | vexsumWindowEnd | calicheRestartDone | kaolinHeartbeat | kaolinRecovered
  | hubFailTimeout | pmbusSample | electListenExpiry | tickLocked | vfEnableChange | hostPortL0Change | ideStreamInsecure
  | nvmeDriveReturn | mgmtLinkChange | vrAlertRelease | serdesRefReturn | busMasterEnableChange =>
    exact .ite .next .next
  | kaolinHeartbeatLost =>
    exact .ite (.ite .next .next) .next
  | vrAlert | serdesRefLoss | missingTick | faultRptSymbol | laneLockLoss | fecUeLimit | ccFence | calicheLockstepMismatch
  | controlPeriodEnd | boostStep =>
    exact .ite .next (.ite .next .next)
  | linkDisable | registerWrite | echoSymbol | identSymbol | sliceStartTimeout =>
    exact .ite .next (.ite .next (.ite .next .next))
  | abortSymbolReceive | linkDownSymbol | ccRemoteAccess =>
    exact .ite .next (.ite .next (.ite .next (.ite .next .next)))
  | ccLocalAccess | mgmtIcmpv6Packet =>
    exact .ite .next (.ite .next (.ite .next (.ite .next (.ite .next .next))))
  | tickSymbolReceive =>
    exact .ite .next (.ite .next (.ite .next (.ite (.ite .next .next)
      (.ite .next (.ite .next (.ite .next (.ite .next .next)))))))
  -- A value of the state or of an operand is looked into.
  | srvRingHead => exact execSrvRingHead_answers ..
  | mailboxFetch => exact execMailboxFetch_answers ..
  | managementDatagram => exact execManagementDatagram_answers ..
  | rcFieldRead => exact execRcFieldRead_answers ..
  | spdmRequest => exact execSpdmRequest_answers ..
  | staemCollectorAck => exact execStaemCollectorAck_answers ..
  | pldmFirmwareUpdate => exact execPldmFirmwareUpdate_answers ..
  | pldmRequest => exact execPldmRequest_answers ..
  | mctpControlRequest => exact execMctpControlRequest_answers ..
  | slotReceive => exact execSlotReceive_answers ..
  | slotSend => exact execSlotSend_answers ..
  | trainingStepTimeout => exact execTrainingStepTimeout_answers ..
  | ctlMessageReceive => exact execCtlMessageReceive_answers ..
  | arrivalThresholdReached => exact execArrivalThresholdReached_answers ..
  | guardEvaluation => exact execGuardEvaluation_answers ..
  | frameCommandComplete => exact execFrameCommandComplete_answers ..
  | engineWatchdogExpiry => exact execEngineWatchdogExpiry_answers ..
  | moveCopyDone => exact execMoveCopyDone_answers ..
  | frameZeroingDone => exact execFrameZeroingDone_answers ..
  | promptFetchDone => exact execPromptFetchDone_answers ..
  | replaceBarrierTimeout => exact execReplaceBarrierTimeout_answers ..
  | fallowSegmentDone => exact execFallowSegmentDone_answers ..
  | fallowImageComplete => exact execFallowImageComplete_answers ..
  | thawReadDone => exact execThawReadDone_answers ..
  | sessionXferDone => exact execSessionXferDone_answers ..
  | shardIngressDone => exact execShardIngressDone_answers ..
  | vexsumFillDone => exact execVexsumFillDone_answers ..
  | vexsumCompare => exact execVexsumCompare_answers ..
  | domainRampDone => exact execDomainRampDone_answers ..
  | powerStageExit => exact execPowerStageExit_answers ..
  | downStepDone => exact execDownStepDone_answers ..
  | electionClose => exact execElectionClose_answers ..
  | hostDmaError => exact execHostDmaError_answers ..
  | hostBarRequest => exact execHostBarRequest_answers ..
  | rtrProbeWrite => exact execRtrProbeWrite_answers ..

/-- Every command keeps the queue, the forms of the state and each area that `mayChange` does not list for it, and only draws free
values. -/
theorem exec_keeps (i : Instr) (s : State) : KeepsO (maskOf (mayChange i)) s (exec i s) := by
  cases i with dsimp only [mayChange]
  | devIdentify => exact execDevIdentify_keeps (hs := .refl ..) (hw := ⟨by decide⟩) ..
  | devGetState => exact execDevGetState_keeps (hs := .refl ..) (hw := ⟨by decide⟩) ..
  | devSetPowerState => exact execDevSetPowerState_keeps (hs := .refl ..) (hw := ⟨by decide⟩) ..
  | devGetTelemetry => exact execDevGetTelemetry_keeps (hs := .refl ..) (hw := ⟨by decide⟩) ..
  | devSetTime => exact execDevSetTime_keeps (hs := .refl ..) (hw := ⟨by decide⟩) ..
  | partCreate => exact execPartCreate_keeps (hs := .refl ..) (hw := ⟨by decide⟩) ..
  | partDestroy => exact execPartDestroy_keeps (hs := .refl ..) (hw := ⟨by decide⟩) ..
  | partAssign => exact execPartAssign_keeps (hs := .refl ..) (hw := ⟨by decide⟩) ..
  | jobStart => exact execJobStart_keeps (hs := .refl ..) (hw := ⟨by decide⟩) ..
  | jobResume => exact execJobResume_keeps (hs := .refl ..) (hw := ⟨by decide⟩) ..
  | jobStopImmediate => exact execJobStopImmediate_keeps (hs := .refl ..) (hw := ⟨by decide⟩) ..
  | jobStopCheap => exact execJobStopCheap_keeps (hs := .refl ..) (hw := ⟨by decide⟩) ..
  | jobPause => exact execJobPause_keeps (hs := .refl ..) (hw := ⟨by decide⟩) ..
  | jobPauseCheap => exact execJobPauseCheap_keeps (hs := .refl ..) (hw := ⟨by decide⟩) ..
  | jobQuery => exact execJobQuery_keeps (hs := .refl ..) (hw := ⟨by decide⟩) ..
  | partAccounting => exact execPartAccounting_keeps (hs := .refl ..) (hw := ⟨by decide⟩) ..
  | modelDeclare => exact execModelDeclare_keeps (hs := .refl ..) (hw := ⟨by decide⟩) ..
  | weightLoadShard => exact execWeightLoadShard_keeps (hs := .refl ..) (hw := ⟨by decide⟩) ..
  | weightVerify => exact execWeightVerify_keeps (hs := .refl ..) (hw := ⟨by decide⟩) ..
  | replaceBegin => exact execReplaceBegin_keeps (hs := .refl ..) (hw := ⟨by decide⟩) ..
  | replaceLayer => exact execReplaceLayer_keeps (hs := .refl ..) (hw := ⟨by decide⟩) ..
  | replaceEnd => exact execReplaceEnd_keeps (hs := .refl ..) (hw := ⟨by decide⟩) ..
  | replaceAbort => exact execReplaceAbort_keeps (hs := .refl ..) (hw := ⟨by decide⟩) ..
  | keyInstall => exact execKeyInstall_keeps (hs := .refl ..) (hw := ⟨by decide⟩) ..
  | keyDelete => exact execKeyDelete_keeps (hs := .refl ..) (hw := ⟨by decide⟩) ..
  | reqSubmit => exact execReqSubmit_keeps (hs := .refl ..) (hw := ⟨by decide⟩) ..
  | reqContinue => exact execReqContinue_keeps (hs := .refl ..) (hw := ⟨by decide⟩) ..
  | reqCancel => exact execReqCancel_keeps (hs := .refl ..) (hw := ⟨by decide⟩) ..
  | reqQuery => exact execReqQuery_keeps (hs := .refl ..) (hw := ⟨by decide⟩) ..
  | reqRelease => exact execReqRelease_keeps (hs := .refl ..) (hw := ⟨by decide⟩) ..
  | queueConfig => exact execQueueConfig_keeps (hs := .refl ..) (hw := ⟨by decide⟩) ..
  | queueRemove => exact execQueueRemove_keeps (hs := .refl ..) (hw := ⟨by decide⟩) ..
  | streamBind => exact execStreamBind_keeps (hs := .refl ..) (hw := ⟨by decide⟩) ..
  | streamUnbind => exact execStreamUnbind_keeps (hs := .refl ..) (hw := ⟨by decide⟩) ..
  | admissionConfig => exact execAdmissionConfig_keeps (hs := .refl ..) (hw := ⟨by decide⟩) ..
  | sessionFallow => exact execSessionFallow_keeps (hs := .refl ..) (hw := ⟨by decide⟩) ..
  | sessionThawOwn => exact execSessionThawOwn_keeps (hs := .refl ..) (hw := ⟨by decide⟩) ..
  | sessionThawNew => exact execSessionThawNew_keeps (hs := .refl ..) (hw := ⟨by decide⟩) ..
  | sessionExport => exact execSessionExport_keeps (hs := .refl ..) (hw := ⟨by decide⟩) ..
  | sessionImport => exact execSessionImport_keeps (hs := .refl ..) (hw := ⟨by decide⟩) ..
  | sessionDiscard => exact execSessionDiscard_keeps (hs := .refl ..) (hw := ⟨by decide⟩) ..
  | topoLoadMap => exact execTopoLoadMap_keeps (hs := .refl ..) (hw := ⟨by decide⟩) ..
  | topoVerify => exact execTopoVerify_keeps (hs := .refl ..) (hw := ⟨by decide⟩) ..
  | linkQuery => exact execLinkQuery_keeps (hs := .refl ..) (hw := ⟨by decide⟩) ..
  | groupWrite => exact execGroupWrite_keeps (hs := .refl ..) (hw := ⟨by decide⟩) ..
  | tickConfig => exact execTickConfig_keeps (hs := .refl ..) (hw := ⟨by decide⟩) ..
  | sliceBind => exact execSliceBind_keeps (hs := .refl ..) (hw := ⟨by decide⟩) ..
  | pwrSetCap => exact execPwrSetCap_keeps (hs := .refl ..) (hw := ⟨by decide⟩) ..
  | pwrSetMode => exact execPwrSetMode_keeps (hs := .refl ..) (hw := ⟨by decide⟩) ..
  | pwrDomain => exact execPwrDomain_keeps (hs := .refl ..) (hw := ⟨by decide⟩) ..
  | energyRead => exact execEnergyRead_keeps (hs := .refl ..) (hw := ⟨by decide⟩) ..
  | faultLogRead => exact execFaultLogRead_keeps (hs := .refl ..) (hw := ⟨by decide⟩) ..
  | faultPolicySet => exact execFaultPolicySet_keeps (hs := .refl ..) (hw := ⟨by decide⟩) ..
  | scrubConfig => exact execScrubConfig_keeps (hs := .refl ..) (hw := ⟨by decide⟩) ..
  | replicaCompareConfig => exact execReplicaCompareConfig_keeps (hs := .refl ..) (hw := ⟨by decide⟩) ..
  | unitFence => exact execUnitFence_keeps (hs := .refl ..) (hw := ⟨by decide⟩) ..
  | unitUnfence => exact execUnitUnfence_keeps (hs := .refl ..) (hw := ⟨by decide⟩) ..
  | freeze => exact execFreeze_keeps (hs := .refl ..) (hw := ⟨by decide⟩) ..
  | clockRelease => exact execClockRelease_keeps (hs := .refl ..) (hw := ⟨by decide⟩) ..
  | scanRead => exact execScanRead_keeps (hs := .refl ..) (hw := ⟨by decide⟩) ..
  | diagRun => exact execDiagRun_keeps (hs := .refl ..) (hw := ⟨by decide⟩) ..
  | mbSqTailWrite => exact execMbSqTailWrite_keeps (hs := .refl ..) (hw := ⟨by decide⟩) ..
  | mbCqHeadWrite => exact execMbCqHeadWrite_keeps (hs := .refl ..) (hw := ⟨by decide⟩) ..
  | mbEvHeadWrite => exact execMbEvHeadWrite_keeps (hs := .refl ..) (hw := ⟨by decide⟩) ..
  | srvRingHead => exact execSrvRingHead_keeps (hs := .refl ..) (hw := ⟨by decide⟩) ..
  | mailboxFetch => exact execMailboxFetch_keeps (hs := .refl ..) (hw := ⟨by decide⟩) ..
  | managementDatagram => exact execManagementDatagram_keeps (hs := .refl ..) (hw := ⟨by decide⟩) ..
  | tierProbeWrite => exact execTierProbeWrite_keeps (hs := .refl ..) (hw := ⟨by decide⟩) ..
  | linkOut => exact execLinkOut_keeps (hs := .refl ..) (hw := ⟨by decide⟩) ..
  | linkRetrain => exact execLinkRetrain_keeps (hs := .refl ..) (hw := ⟨by decide⟩) ..
  | linkDisable => exact execLinkDisable_keeps (hs := .refl ..) (hw := ⟨by decide⟩) ..
  | counterLowRead => exact execCounterLowRead_keeps (hs := .refl ..) (hw := ⟨by decide⟩) ..
  | rcFieldRead => exact execRcFieldRead_keeps (hs := .refl ..) (hw := ⟨by decide⟩) ..
  | registerWrite => exact execRegisterWrite_keeps (hs := .refl ..) (hw := ⟨by decide⟩) ..
  | spdmRequest => exact execSpdmRequest_keeps (hs := .refl ..) (hw := ⟨by decide⟩) ..
  | ideKmRequest => exact execIdeKmRequest_keeps (hs := .refl ..) (hw := ⟨by decide⟩) ..
  | staemGet => exact execStaemGet_keeps (hs := .refl ..) (hw := ⟨by decide⟩) ..
  | staemSetCollector => exact execStaemSetCollector_keeps (hs := .refl ..) (hw := ⟨by decide⟩) ..
  | staemAck => exact execStaemAck_keeps (hs := .refl ..) (hw := ⟨by decide⟩) ..
  | calicheStatus => exact execCalicheStatus_keeps (hs := .refl ..) (hw := ⟨by decide⟩) ..
  | staemCollectorAck => exact execStaemCollectorAck_keeps (hs := .refl ..) (hw := ⟨by decide⟩) ..
  | staemResendTimer => exact execStaemResendTimer_keeps (hs := .refl ..) (hw := ⟨by decide⟩) ..
  | staemSend => exact execStaemSend_keeps (hs := .refl ..) (hw := ⟨by decide⟩) ..
  | pldmFirmwareUpdate => exact execPldmFirmwareUpdate_keeps (hs := .refl ..) (hw := ⟨by decide⟩) ..
  | pldmRequest => exact execPldmRequest_keeps (hs := .refl ..) (hw := ⟨by decide⟩) ..
  | mctpControlRequest => exact execMctpControlRequest_keeps (hs := .refl ..) (hw := ⟨by decide⟩) ..
  | pwrEnRise => exact execPwrEnRise_keeps (hs := .refl ..) (hw := ⟨by decide⟩) ..
  | pwrEnFall => exact execPwrEnFall_keeps (hs := .refl ..) (hw := ⟨by decide⟩) ..
  | resetNAssert => exact execResetNAssert_keeps (hs := .refl ..) (hw := ⟨by decide⟩) ..
  | resetNRelease => exact execResetNRelease_keeps (hs := .refl ..) (hw := ⟨by decide⟩) ..
  | calicheSupplyOn => exact execCalicheSupplyOn_keeps (hs := .refl ..) (hw := ⟨by decide⟩) ..
  | freezeNFall => exact execFreezeNFall_keeps (hs := .refl ..) (hw := ⟨by decide⟩) ..
  | vrAlert => exact execVrAlert_keeps (hs := .refl ..) (hw := ⟨by decide⟩) ..
  | tickSyncInEdge => exact execTickSyncInEdge_keeps (hs := .refl ..) (hw := ⟨by decide⟩) ..
  | sensorSample => exact execSensorSample_keeps (hs := .refl ..) (hw := ⟨by decide⟩) ..
  | refclk100Loss => exact execRefclk100Loss_keeps (hs := .refl ..) (hw := ⟨by decide⟩) ..
  | serdesRefLoss => exact execSerdesRefLoss_keeps (hs := .refl ..) (hw := ⟨by decide⟩) ..
  | xtalLoss => exact execXtalLoss_keeps (hs := .refl ..) (hw := ⟨by decide⟩) ..
  | trstNAssert => exact execTrstNAssert_keeps (hs := .refl ..) (hw := ⟨by decide⟩) ..
  | jtagBypass => exact execJtagBypass_keeps (hs := .refl ..) (hw := ⟨by decide⟩) ..
  | jtagIdcode => exact execJtagIdcode_keeps (hs := .refl ..) (hw := ⟨by decide⟩) ..
  | jtagSamplePreload => exact execJtagSamplePreload_keeps (hs := .refl ..) (hw := ⟨by decide⟩) ..
  | jtagExtest => exact execJtagExtest_keeps (hs := .refl ..) (hw := ⟨by decide⟩) ..
  | jtagClamp => exact execJtagClamp_keeps (hs := .refl ..) (hw := ⟨by decide⟩) ..
  | jtagHighz => exact execJtagHighz_keeps (hs := .refl ..) (hw := ⟨by decide⟩) ..
  | scanSel => exact execScanSel_keeps (hs := .refl ..) (hw := ⟨by decide⟩) ..
  | scanShift => exact execScanShift_keeps (hs := .refl ..) (hw := ⟨by decide⟩) ..
  | tick => exact execTick_keeps (hs := .refl ..) (hw := ⟨by decide⟩) ..
  | commitDeadline => exact execCommitDeadline_keeps (hs := .refl ..) (hw := ⟨by decide⟩) ..
  | tickSymbolReceive => exact execTickSymbolReceive_keeps (hs := .refl ..) (hw := ⟨by decide⟩) ..
  | missingTick => exact execMissingTick_keeps (hs := .refl ..) (hw := ⟨by decide⟩) ..
  | tickLossSelfFence => exact execTickLossSelfFence_keeps (hs := .refl ..) (hw := ⟨by decide⟩) ..
  | slotReceive => exact execSlotReceive_keeps (hs := .refl ..) (hw := ⟨by decide⟩) ..
  | slotSend => exact execSlotSend_keeps (hs := .refl ..) (hw := ⟨by decide⟩) ..
  | openRetryTimeout => exact execOpenRetryTimeout_keeps (hs := .refl ..) (hw := ⟨by decide⟩) ..
  | abortSymbolReceive => exact execAbortSymbolReceive_keeps (hs := .refl ..) (hw := ⟨by decide⟩) ..
  | linkDownSymbol => exact execLinkDownSymbol_keeps (hs := .refl ..) (hw := ⟨by decide⟩) ..
  | faultRptSymbol => exact execFaultRptSymbol_keeps (hs := .refl ..) (hw := ⟨by decide⟩) ..
  | echoSymbol => exact execEchoSymbol_keeps (hs := .refl ..) (hw := ⟨by decide⟩) ..
  | identSymbol => exact execIdentSymbol_keeps (hs := .refl ..) (hw := ⟨by decide⟩) ..
  | laneLockLoss => exact execLaneLockLoss_keeps (hs := .refl ..) (hw := ⟨by decide⟩) ..
  | fecUeLimit => exact execFecUeLimit_keeps (hs := .refl ..) (hw := ⟨by decide⟩) ..
  | trainingStepDone => exact execTrainingStepDone_keeps (hs := .refl ..) (hw := ⟨by decide⟩) ..
  | trainingStepTimeout => exact execTrainingStepTimeout_keeps (hs := .refl ..) (hw := ⟨by decide⟩) ..
  | retrainTimer => exact execRetrainTimer_keeps (hs := .refl ..) (hw := ⟨by decide⟩) ..
  | detourTableRebuild => exact execDetourTableRebuild_keeps (hs := .refl ..) (hw := ⟨by decide⟩) ..
  | remoteRequestHome => exact execRemoteRequestHome_keeps (hs := .refl ..) (hw := ⟨by decide⟩) ..
  | remoteResponse => exact execRemoteResponse_keeps (hs := .refl ..) (hw := ⟨by decide⟩) ..
  | remoteTimeout => exact execRemoteTimeout_keeps (hs := .refl ..) (hw := ⟨by decide⟩) ..
  | combineWindowExpiry => exact execCombineWindowExpiry_keeps (hs := .refl ..) (hw := ⟨by decide⟩) ..
  | ccRemoteAccess => exact execCcRemoteAccess_keeps (hs := .refl ..) (hw := ⟨by decide⟩) ..
  | ccFence => exact execCcFence_keeps (hs := .refl ..) (hw := ⟨by decide⟩) ..
  | deferredAtomicResponse => exact execDeferredAtomicResponse_keeps (hs := .refl ..) (hw := ⟨by decide⟩) ..
  | ctlAck => exact execCtlAck_keeps (hs := .refl ..) (hw := ⟨by decide⟩) ..
  | stretchReq => exact execStretchReq_keeps (hs := .refl ..) (hw := ⟨by decide⟩) ..
  | candidate => exact execCandidate_keeps (hs := .refl ..) (hw := ⟨by decide⟩) ..
  | ctlJoin => exact execCtlJoin_keeps (hs := .refl ..) (hw := ⟨by decide⟩) ..
  | ctlReady => exact execCtlReady_keeps (hs := .refl ..) (hw := ⟨by decide⟩) ..
  | transitInstall => exact execTransitInstall_keeps (hs := .refl ..) (hw := ⟨by decide⟩) ..
  | transitReply => exact execTransitReply_keeps (hs := .refl ..) (hw := ⟨by decide⟩) ..
  | ctlGo => exact execCtlGo_keeps (hs := .refl ..) (hw := ⟨by decide⟩) ..
  | ctlAbandon h imageId status => exact execCtlAbandon_keeps h imageId status s (.refl ..) ⟨by decide⟩
  | transitRelease => exact execTransitRelease_keeps (hs := .refl ..) (hw := ⟨by decide⟩) ..
  | creditGrant => exact execCreditGrant_keeps (hs := .refl ..) (hw := ⟨by decide⟩) ..
  | creditReturn => exact execCreditReturn_keeps (hs := .refl ..) (hw := ⟨by decide⟩) ..
  | ctlAssign => exact execCtlAssign_keeps (hs := .refl ..) (hw := ⟨by decide⟩) ..
  | installed => exact execInstalled_keeps (hs := .refl ..) (hw := ⟨by decide⟩) ..
  | ctlFill => exact execCtlFill_keeps (hs := .refl ..) (hw := ⟨by decide⟩) ..
  | pkgDigest => exact execPkgDigest_keeps (hs := .refl ..) (hw := ⟨by decide⟩) ..
  | sliceDigest => exact execSliceDigest_keeps (hs := .refl ..) (hw := ⟨by decide⟩) ..
  | unitDone => exact execUnitDone_keeps (hs := .refl ..) (hw := ⟨by decide⟩) ..
  | segReport => exact execSegReport_keeps (hs := .refl ..) (hw := ⟨by decide⟩) ..
  | unitFetch => exact execUnitFetch_keeps (hs := .refl ..) (hw := ⟨by decide⟩) ..
  | unitData => exact execUnitData_keeps (hs := .refl ..) (hw := ⟨by decide⟩) ..
  | thawReport => exact execThawReport_keeps (hs := .refl ..) (hw := ⟨by decide⟩) ..
  | segDelete => exact execSegDelete_keeps (hs := .refl ..) (hw := ⟨by decide⟩) ..
  | ctlMessageReceive => exact execCtlMessageReceive_keeps (hs := .refl ..) (hw := ⟨by decide⟩) ..
  | messageRetry => exact execMessageRetry_keeps (hs := .refl ..) (hw := ⟨by decide⟩) ..
  | synNop => exact execSynNop_keeps (hs := .refl ..) (hw := ⟨by decide⟩) ..
  | synWait => exact execSynWait_keeps (hs := .refl ..) (hw := ⟨by decide⟩) ..
  | synBarrier => exact execSynBarrier_keeps (hs := .refl ..) (hw := ⟨by decide⟩) ..
  | barrierRelease => exact execBarrierRelease_keeps (hs := .refl ..) (hw := ⟨by decide⟩) ..
  | synSlotWait => exact execSynSlotWait_keeps (hs := .refl ..) (hw := ⟨by decide⟩) ..
  | synLoop => exact execSynLoop_keeps (hs := .refl ..) (hw := ⟨by decide⟩) ..
  | synLoopEnd => exact execSynLoopEnd_keeps (hs := .refl ..) (hw := ⟨by decide⟩) ..
  | bduLoad => exact execBduLoad_keeps (hs := .refl ..) (hw := ⟨by decide⟩) ..
  | bduGemv => exact execBduGemv_keeps (hs := .refl ..) (hw := ⟨by decide⟩) ..
  | mxaCfg => exact execMxaCfg_keeps (hs := .refl ..) (hw := ⟨by decide⟩) ..
  | mxaGemm => exact execMxaGemm_keeps (hs := .refl ..) (hw := ⟨by decide⟩) ..
  | arrivalThresholdReached => exact execArrivalThresholdReached_keeps (hs := .refl ..) (hw := ⟨by decide⟩) ..
  | vecCfg => exact execVecCfg_keeps (hs := .refl ..) (hw := ⟨by decide⟩) ..
  | vadd => exact execVadd_keeps (hs := .refl ..) (hw := ⟨by decide⟩) ..
  | vmul => exact execVmul_keeps (hs := .refl ..) (hw := ⟨by decide⟩) ..
  | vscale => exact execVscale_keeps (hs := .refl ..) (hw := ⟨by decide⟩) ..
  | vfunc => exact execVfunc_keeps (hs := .refl ..) (hw := ⟨by decide⟩) ..
  | vglu => exact execVglu_keeps (hs := .refl ..) (hw := ⟨by decide⟩) ..
  | vred => exact execVred_keeps (hs := .refl ..) (hw := ⟨by decide⟩) ..
  | vnorm => exact execVnorm_keeps (hs := .refl ..) (hw := ⟨by decide⟩) ..
  | vquant => exact execVquant_keeps (hs := .refl ..) (hw := ⟨by decide⟩) ..
  | vi64r => exact execVi64r_keeps (hs := .refl ..) (hw := ⟨by decide⟩) ..
  | vi64add => exact execVi64add_keeps (hs := .refl ..) (hw := ⟨by decide⟩) ..
  | vcvt => exact execVcvt_keeps (hs := .refl ..) (hw := ⟨by decide⟩) ..
  | guardEvaluation => exact execGuardEvaluation_keeps (hs := .refl ..) (hw := ⟨by decide⟩) ..
  | rotFwd => exact execRotFwd_keeps (hs := .refl ..) (hw := ⟨by decide⟩) ..
  | rotFwdQ => exact execRotFwdQ_keeps (hs := .refl ..) (hw := ⟨by decide⟩) ..
  | rotInv => exact execRotInv_keeps (hs := .refl ..) (hw := ⟨by decide⟩) ..
  | attCfg => exact execAttCfg_keeps (hs := .refl ..) (hw := ⟨by decide⟩) ..
  | attKvq => exact execAttKvq_keeps (hs := .refl ..) (hw := ⟨by decide⟩) ..
  | attRun => exact execAttRun_keeps (hs := .refl ..) (hw := ⟨by decide⟩) ..
  | attMerge => exact execAttMerge_keeps (hs := .refl ..) (hw := ⟨by decide⟩) ..
  | kvPut => exact execKvPut_keeps (hs := .refl ..) (hw := ⟨by decide⟩) ..
  | movFill => exact execMovFill_keeps (hs := .refl ..) (hw := ⟨by decide⟩) ..
  | movCopy => exact execMovCopy_keeps (hs := .refl ..) (hw := ⟨by decide⟩) ..
  | movHcopy => exact execMovHcopy_keeps (hs := .refl ..) (hw := ⟨by decide⟩) ..
  | loessStep => exact execLoessStep_keeps (hs := .refl ..) (hw := ⟨by decide⟩) ..
  | srtCfg => exact execSrtCfg_keeps (hs := .refl ..) (hw := ⟨by decide⟩) ..
  | srtTopk => exact execSrtTopk_keeps (hs := .refl ..) (hw := ⟨by decide⟩) ..
  | srtRoute => exact execSrtRoute_keeps (hs := .refl ..) (hw := ⟨by decide⟩) ..
  | srtBin => exact execSrtBin_keeps (hs := .refl ..) (hw := ⟨by decide⟩) ..
  | srtReturn => exact execSrtReturn_keeps (hs := .refl ..) (hw := ⟨by decide⟩) ..
  | srtCombine => exact execSrtCombine_keeps (hs := .refl ..) (hw := ⟨by decide⟩) ..
  | colA2a => exact execColA2a_keeps (hs := .refl ..) (hw := ⟨by decide⟩) ..
  | colA2av => exact execColA2av_keeps (hs := .refl ..) (hw := ⟨by decide⟩) ..
  | colGather => exact execColGather_keeps (hs := .refl ..) (hw := ⟨by decide⟩) ..
  | colBcast => exact execColBcast_keeps (hs := .refl ..) (hw := ⟨by decide⟩) ..
  | colRedscat => exact execColRedscat_keeps (hs := .refl ..) (hw := ⟨by decide⟩) ..
  | colAllred => exact execColAllred_keeps (hs := .refl ..) (hw := ⟨by decide⟩) ..
  | rmtAtomic => exact execRmtAtomic_keeps (hs := .refl ..) (hw := ⟨by decide⟩) ..
  | tierLoad => exact execTierLoad_keeps (hs := .refl ..) (hw := ⟨by decide⟩) ..
  | tierStore => exact execTierStore_keeps (hs := .refl ..) (hw := ⟨by decide⟩) ..
  | tierMigrate => exact execTierMigrate_keeps (hs := .refl ..) (hw := ⟨by decide⟩) ..
  | frameCommandComplete => exact execFrameCommandComplete_keeps (hs := .refl ..) (hw := ⟨by decide⟩) ..
  | engineWatchdogExpiry => exact execEngineWatchdogExpiry_keeps (hs := .refl ..) (hw := ⟨by decide⟩) ..
  | dramRefreshWindow => exact execDramRefreshWindow_keeps (hs := .refl ..) (hw := ⟨by decide⟩) ..
  | heldAccessServe => exact execHeldAccessServe_keeps (hs := .refl ..) (hw := ⟨by decide⟩) ..
  | scrubRow => exact execScrubRow_keeps (hs := .refl ..) (hw := ⟨by decide⟩) ..
  | tier2Patrol => exact execTier2Patrol_keeps (hs := .refl ..) (hw := ⟨by decide⟩) ..
  | moveCopyDone => exact execMoveCopyDone_keeps (hs := .refl ..) (hw := ⟨by decide⟩) ..
  | moveAbort => exact execMoveAbort_keeps (hs := .refl ..) (hw := ⟨by decide⟩) ..
  | frameZeroingDone => exact execFrameZeroingDone_keeps (hs := .refl ..) (hw := ⟨by decide⟩) ..
  | policyPass => exact execPolicyPass_keeps (hs := .refl ..) (hw := ⟨by decide⟩) ..
  | requestLingerExpiry => exact execRequestLingerExpiry_keeps (hs := .refl ..) (hw := ⟨by decide⟩) ..
  | promptFetchDone => exact execPromptFetchDone_keeps (hs := .refl ..) (hw := ⟨by decide⟩) ..
  | replaceBarrierTimeout => exact execReplaceBarrierTimeout_keeps (hs := .refl ..) (hw := ⟨by decide⟩) ..
  | fallowSegmentDone => exact execFallowSegmentDone_keeps (hs := .refl ..) (hw := ⟨by decide⟩) ..
  | fallowImageComplete => exact execFallowImageComplete_keeps (hs := .refl ..) (hw := ⟨by decide⟩) ..
  | fallowImageFailed => exact execFallowImageFailed_keeps (hs := .refl ..) (hw := ⟨by decide⟩) ..
  | thawReadDone => exact execThawReadDone_keeps (hs := .refl ..) (hw := ⟨by decide⟩) ..
  | sessionXferDone => exact execSessionXferDone_keeps (hs := .refl ..) (hw := ⟨by decide⟩) ..
  | shardIngressDone => exact execShardIngressDone_keeps (hs := .refl ..) (hw := ⟨by decide⟩) ..
  | v6RecheckTimer => exact execV6RecheckTimer_keeps (hs := .refl ..) (hw := ⟨by decide⟩) ..
  | vexsumWindowEnd => exact execVexsumWindowEnd_keeps (hs := .refl ..) (hw := ⟨by decide⟩) ..
  | vexsumFillDone => exact execVexsumFillDone_keeps (hs := .refl ..) (hw := ⟨by decide⟩) ..
  | vexsumCompare => exact execVexsumCompare_keeps (hs := .refl ..) (hw := ⟨by decide⟩) ..
  | sliceStartTimeout => exact execSliceStartTimeout_keeps (hs := .refl ..) (hw := ⟨by decide⟩) ..
  | errorLatchRaise => exact execErrorLatchRaise_keeps (hs := .refl ..) (hw := ⟨by decide⟩) ..
  | leakyLeak => exact execLeakyLeak_keeps (hs := .refl ..) (hw := ⟨by decide⟩) ..
  | ceRateSecond => exact execCeRateSecond_keeps (hs := .refl ..) (hw := ⟨by decide⟩) ..
  | calicheLockstepMismatch => exact execCalicheLockstepMismatch_keeps (hs := .refl ..) (hw := ⟨by decide⟩) ..
  | calicheRestartDone => exact execCalicheRestartDone_keeps (hs := .refl ..) (hw := ⟨by decide⟩) ..
  | kaolinHeartbeat => exact execKaolinHeartbeat_keeps (hs := .refl ..) (hw := ⟨by decide⟩) ..
  | kaolinHeartbeatLost => exact execKaolinHeartbeatLost_keeps (hs := .refl ..) (hw := ⟨by decide⟩) ..
  | kaolinRecovered => exact execKaolinRecovered_keeps (hs := .refl ..) (hw := ⟨by decide⟩) ..
  | hubFailTimeout => exact execHubFailTimeout_keeps (hs := .refl ..) (hw := ⟨by decide⟩) ..
  | pmbusSample => exact execPmbusSample_keeps (hs := .refl ..) (hw := ⟨by decide⟩) ..
  | controlPeriodEnd => exact execControlPeriodEnd_keeps (hs := .refl ..) (hw := ⟨by decide⟩) ..
  | boostStep => exact execBoostStep_keeps (hs := .refl ..) (hw := ⟨by decide⟩) ..
  | domainRampDone => exact execDomainRampDone_keeps (hs := .refl ..) (hw := ⟨by decide⟩) ..
  | powerStageExit => exact execPowerStageExit_keeps (hs := .refl ..) (hw := ⟨by decide⟩) ..
  | powerStageTimeout => exact execPowerStageTimeout_keeps (hs := .refl ..) (hw := ⟨by decide⟩) ..
  | downStepDone => exact execDownStepDone_keeps (hs := .refl ..) (hw := ⟨by decide⟩) ..
  | trainWaitExpiry => exact execTrainWaitExpiry_keeps (hs := .refl ..) (hw := ⟨by decide⟩) ..
  | electListenExpiry => exact execElectListenExpiry_keeps (hs := .refl ..) (hw := ⟨by decide⟩) ..
  | candidateFloodTimer => exact execCandidateFloodTimer_keeps (hs := .refl ..) (hw := ⟨by decide⟩) ..
  | electionClose => exact execElectionClose_keeps (hs := .refl ..) (hw := ⟨by decide⟩) ..
  | tickLocked => exact execTickLocked_keeps (hs := .refl ..) (hw := ⟨by decide⟩) ..
  | hostHotReset => exact execHostHotReset_keeps (hs := .refl ..) (hw := ⟨by decide⟩) ..
  | vfFlr => exact execVfFlr_keeps (hs := .refl ..) (hw := ⟨by decide⟩) ..
  | pfFlr => exact execPfFlr_keeps (hs := .refl ..) (hw := ⟨by decide⟩) ..
  | vfEnableChange => exact execVfEnableChange_keeps (hs := .refl ..) (hw := ⟨by decide⟩) ..
  | hostPortL0Change => exact execHostPortL0Change_keeps (hs := .refl ..) (hw := ⟨by decide⟩) ..
  | ideStreamInsecure => exact execIdeStreamInsecure_keeps (hs := .refl ..) (hw := ⟨by decide⟩) ..
  | hostDmaError => exact execHostDmaError_keeps (hs := .refl ..) (hw := ⟨by decide⟩) ..
  | hostBarRequest => exact execHostBarRequest_keeps (hs := .refl ..) (hw := ⟨by decide⟩) ..
  | nvmeDriveLoss => exact execNvmeDriveLoss_keeps (hs := .refl ..) (hw := ⟨by decide⟩) ..
  | nvmeDriveReturn => exact execNvmeDriveReturn_keeps (hs := .refl ..) (hw := ⟨by decide⟩) ..
  | mgmtLinkChange => exact execMgmtLinkChange_keeps (hs := .refl ..) (hw := ⟨by decide⟩) ..
  | ccLocalAccess => exact execCcLocalAccess_keeps (hs := .refl ..) (hw := ⟨by decide⟩) ..
  | calicheSupplyOff => exact execCalicheSupplyOff_keeps (hs := .refl ..) (hw := ⟨by decide⟩) ..
  | vrAlertRelease => exact execVrAlertRelease_keeps (hs := .refl ..) (hw := ⟨by decide⟩) ..
  | xtalReturn => exact execXtalReturn_keeps (hs := .refl ..) (hw := ⟨by decide⟩) ..
  | serdesRefReturn => exact execSerdesRefReturn_keeps (hs := .refl ..) (hw := ⟨by decide⟩) ..
  | busMasterEnableChange => exact execBusMasterEnableChange_keeps (hs := .refl ..) (hw := ⟨by decide⟩) ..
  | rtrProbeWrite => exact execRtrProbeWrite_keeps (hs := .refl ..) (hw := ⟨by decide⟩) ..
  | mgmtIcmpv6Packet => exact execMgmtIcmpv6Packet_keeps (hs := .refl ..) (hw := ⟨by decide⟩) ..
  | i3cSetdasa => exact execI3cSetdasa_keeps (hs := .refl ..) (hw := ⟨by decide⟩) ..

end Sys2Proof.Machine

open Sys2Proof Sys2Proof.Machine

/-- Settles O3: the meaning answers a next state (`exec_answers`), and what it answers keeps the queue and the count of free values
drawn (`exec_keeps`). -/
theorem everyCommandAnswers : Obligations.EveryCommandAnswers := by
  intro i s
  obtain ⟨t, ht⟩ := exec_answers i s
  have hk : Keeps (maskOf (mayChange i)) s t := (exec_keeps i s).all t ht
  exact ⟨t, ht, hk.queue, hk.free⟩

end

section
/-!
SUPPORT, and the statements on the package's architecture: the areas a command may change and the forms every step keeps, the memory
map, the registers as a host reads and writes them, and the requests that reach the package over SPDM and IDE_KM.
-/

namespace Sys2Proof.Machine

/-! ### Steps -/

/-- The queue has no part in the forms of the state. -/
theorem withQueue_inv {s : State} (h : s.Inv) (q : List Instr) : (s.withQueue q).Inv := ⟨h.mem, h.holes, h.bad, h.regs⟩

/-- What a command answers in a state in its forms is in them. -/
theorem exec_inv {i : Instr} {s t : State} (h : s.Inv) (e : exec i s = .next t) : t.Inv := ((exec_keeps i s).all t e).inv h

/-- A step that answers has idled on an empty queue, or has run the front command on the queue's rest. -/
theorem step_next {s t : State} (h : step s = .next t) :
    (s.pending = [] ∧ t = s) ∨ ∃ c q, s.pending = c :: q ∧ exec c (s.withQueue q) = .next t := by
  unfold step at h
  split at h
  next hp => exact .inl ⟨hp, (Host.Outcome.next.inj h).symm⟩
  next c q hp => exact .inr ⟨c, q, hp, h⟩

/-! ### Holes of the memory map (R14) -/

/-- The ranges between and above those that Table 1-5 populates. -/
theorem place_hole {a : Nat} (h : (0x9000000000 ≤ a ∧ a < 0x10000000000) ∨ (0x18000000000 ≤ a ∧ a < 0x20000000000) ∨
    (0x20034000000 ≤ a ∧ a < 0x30000000000) ∨ 0x30004000000 ≤ a) : place a = .hole := by
  unfold place
  rw [if_neg (by omega), if_neg (by omega), if_neg (by omega), if_neg (by omega), if_neg (by omega)]

theorem populated_hole {a : Nat} (h : place a = .hole) : populated a = false := by
  unfold populated; rw [h]

/-- A byte written where no memory stands is dropped. -/
theorem writeMem_hole (s : State) {a : Nat} (b : Byte) (h : populated a = false) : writeMem s a [b] = s := by
  have hm : pokeBytes s.mem a [b] = s.mem := by
    simp only [pokeBytes, pokeMem, h, Bool.false_eq_true, if_false]
  unfold writeMem; rw [hm]

/-! ### Counters and their halves (R21) -/

theorem counterLowRead_eq (path off : Nat) (s : State) : exec (.counterLowRead path off) s =
    .next (emit { s with shadows := tput (0, 0) s.shadows path (off + 1, counterAt s path off / 2 ^ 32) }
      (.readData path (counterAt s path off % 2 ^ 32))) := rfl

/-- A shadow that names the counter is what its high half reads as. -/
theorem highHalf_shadow {s : State} {path off v : Nat} (h : tget (0, 0) s.shadows path = (off + 1, v)) : highHalf s path off = v := by
  unfold highHalf; rw [h]; exact if_pos rfl

/-! ### Registers that clear when read, and writes by access type (R18, R19) -/

theorem rcFieldRead_evLost (path : Nat) (s : State) : exec (.rcFieldRead path (mbErrOff path + 4)) s =
    .next (emit (modMbox s path (fun b => { b with evLost := 0 })) (.readData path (mbox s path).evLost)) :=
  if_pos rfl

theorem rcFieldRead_field {path off : Nat} {s : State} {f : Field} {r : List Field} (hoff : off ≠ mbErrOff path + 4)
    (hp : path < 2 ∨ path = 34) (hf : fieldsAt Reg.readClear off = f :: r) :
    exec (.rcFieldRead path off) s = .next (emit (wr s f f.reset) (.readData path (rd s f))) := by
  show execRcFieldRead path off s = _
  unfold execRcFieldRead
  rw [if_neg hoff, if_pos hp, hf]

/-- The register takes no host write on the path: it belongs to another function, has a row of its own, lies in the CALICHE block, or is
hidden from the port. -/
def writeBarred (s : State) (path off : Nat) : Prop :=
  2 ≤ path ∨ ownRow off ∨ (0x900000 ≤ off ∧ off < 0xA00000) ∨ hiddenReg s path off

theorem registerWrite_mbErr {path off : Nat} (w : BitVec 32) (s : State) (ha : off % 4 = 0) (hoff : off = mbErrOff path) :
    exec (.registerWrite path off w) s = .next (modMbox s path (fun b => { b with err := b.err - (b.err &&& w.toNat % 16) })) := by
  show execRegisterWrite path off w s = _
  unfold execRegisterWrite
  rw [if_neg (fun h => h ha), if_pos hoff]

theorem registerWrite_barred {path off : Nat} (w : BitVec 32) {s : State} (ha : off % 4 = 0) (hoff : off ≠ mbErrOff path)
    (hb : writeBarred s path off) : exec (.registerWrite path off w) s = .next s := by
  show execRegisterWrite path off w s = _
  unfold execRegisterWrite
  rw [if_neg (fun h => h ha), if_neg hoff]
  exact if_pos hb

theorem registerWrite_fields {path off : Nat} (w : BitVec 32) {s : State} (ha : off % 4 = 0) (hoff : off ≠ mbErrOff path)
    (hb : ¬ writeBarred s path off) :
    exec (.registerWrite path off w) s = .next ((fieldsAt Reg.writable off).foldl (writeField w) s) := by
  show execRegisterWrite path off w s = _
  unfold execRegisterWrite
  rw [if_neg (fun h => h ha), if_neg hoff]
  exact if_neg hb

theorem mbErrOff_lt (path : Nat) : mbErrOff path < 0x900000 := by
  unfold mbErrOff; split <;> decide

/-- A write to a field leaves the state as it is or gives the field a value. -/
theorem writeField_eq (w : BitVec 32) (s : State) (f : Field) : writeField w s f = s ∨ ∃ v, writeField w s f = wr s f v := by
  unfold writeField
  dsimp only
  split
  · exact .inr ⟨_, rfl⟩
  · exact .inr ⟨_, rfl⟩
  · exact .inr ⟨_, rfl⟩
  · exact .inl rfl

theorem writeField_out (w : BitVec 32) (s : State) (f : Field) : (writeField w s f).out = s.out := by
  obtain h | ⟨v, h⟩ := writeField_eq w s f <;> rw [h]
  rfl

theorem rd_writeField_ne (w : BitVec 32) (s : State) {f g : Field} (h : g.key ≠ f.key) : rd (writeField w s f) g = rd s g := by
  obtain e | ⟨v, e⟩ := writeField_eq w s f <;> rw [e]
  exact rd_wr_ne s v h

theorem writeFields_out (w : BitVec 32) (l : List Field) (s : State) : (l.foldl (writeField w) s).out = s.out := by
  induction l generalizing s with
  | nil => rfl
  | cons f r ih => rw [List.foldl_cons, ih, writeField_out]

/-- Writes to fields leave a field of another key alone. -/
theorem rd_writeFields_ne (w : BitVec 32) {g : Field} {l : List Field} (h : ∀ f ∈ l, g.key ≠ f.key) (s : State) :
    rd (l.foldl (writeField w) s) g = rd s g := by
  induction l generalizing s with
  | nil => rfl
  | cons f r ih =>
    rw [List.foldl_cons, ih (fun x hx => h x (List.mem_cons_of_mem f hx)), rd_writeField_ne w s (h f List.mem_cons_self)]

/-! ### Where a family of registers lies -/

/-- The furthest that a family's registers lie from its first one, counted modulo `M`: a stride that `M` divides moves nothing. -/
def strideReach (M : Nat) : List (Nat × Nat) → Nat
  | [] => 0
  | (n, st) :: r => (if st % M = 0 then 0 else (n - 1) * st) + strideReach M r

theorem mul_add_mod_le {M st q k x b : Nat} (hq : q ≤ k) (hx : x % M ≤ b) :
    (st * q + x) % M ≤ (if st % M = 0 then 0 else k * st) + b := by
  have hadd : (st * q + x) % M ≤ (st * q) % M + x % M := by
    rw [Nat.add_mod]; exact Nat.mod_le _ _
  split
  next h0 =>
    have : (st * q) % M = 0 := Nat.mod_eq_zero_of_dvd (Nat.dvd_mul_right_of_dvd (Nat.dvd_of_mod_eq_zero h0) q)
    omega
  next =>
    have : (st * q) % M ≤ k * st := Nat.le_trans (Nat.mod_le _ _) (by rw [Nat.mul_comm k]; exact Nat.mul_le_mul_left st hq)
    omega

/-- The distance of a register from the first one of its family, modulo `M`. -/
theorem strideOk_mod_le (M : Nat) {l : List (Nat × Nat)} {d : Nat} (h : strideOk l d = true) : d % M ≤ strideReach M l := by
  induction l generalizing d with
  | nil => rw [show d = 0 by simpa [strideOk] using h]; simp [strideReach]
  | cons c r ih =>
    obtain ⟨n, st⟩ := c
    simp only [strideOk, Bool.and_eq_true, decide_eq_true_eq] at h
    obtain ⟨hn, hr⟩ := h
    have := mul_add_mod_le (st := st) (Nat.le_sub_one_of_lt hn) (ih hr)
    rwa [Nat.div_add_mod] at this

/-- A family has a field in a register that it reaches, its first field moved there. -/
theorem famField_eq_some {F : Family} {off : Nat} {g : Field} : famField F off = some g ↔
    (F.first.off ≤ off ∧ strideOk F.strides (off - F.first.off) = true) ∧ { F.first with off := off } = g := by
  unfold famField
  rw [Option.ite_none_right_eq_some, Option.some_inj]

/-- Offsets of registers by their remainder modulo a number; modulo 0 they count in full. -/
structure RegWindow where
  modulus : Nat
  first : Nat
  last : Nat

/-- The offset lies in the window. -/
def RegWindow.covers (w : RegWindow) (off : Nat) : Prop := w.first ≤ off % w.modulus ∧ off % w.modulus ≤ w.last

/-- Every register of the family lies outside the window, none past the modulus. -/
def RegWindow.free (w : RegWindow) (F : Family) : Bool :=
  let lo := F.first.off % w.modulus
  let hi := lo + strideReach w.modulus F.strides
  (w.modulus == 0 || decide (hi < w.modulus)) && (decide (hi < w.first) || decide (w.last < lo))

/-- A register of a family lies outside a window that the family leaves free. -/
theorem RegWindow.not_covers {w : RegWindow} {F : Family} {off : Nat} {g : Field} (hw : w.free F = true) (hg : famField F off = some g) :
    ¬ w.covers off := by
  obtain ⟨⟨hle, hs⟩, -⟩ := famField_eq_some.1 hg
  have hd := strideOk_mod_le w.modulus hs
  simp only [RegWindow.free, Bool.and_eq_true, Bool.or_eq_true, beq_iff_eq, decide_eq_true_eq] at hw
  obtain ⟨hM, hout⟩ := hw
  have hsum : off % w.modulus = (F.first.off % w.modulus + (off - F.first.off) % w.modulus) % w.modulus := by
    rw [← Nat.add_mod, Nat.add_sub_cancel' hle]
  have hoff : off % w.modulus = F.first.off % w.modulus + (off - F.first.off) % w.modulus := by
    obtain h0 | hlt := hM
    · rw [hsum, h0, Nat.mod_zero]
    · rw [hsum, Nat.mod_eq_of_lt (by omega)]
  rintro ⟨hlo, hhi⟩
  omega

/-! ### Hardened fields and what a host can write (R19) -/

/-- Where the hardened fields lie, each list of windows for one block: TICK_CONFIG, FALLOW_FRAMES, the hub maps and owners, the
partitions' tier shares, their slot ranges, the bank maps of the quadrants, and the rotation seeds. A block of a quadrant repeats at 0x10_0000
per stack, and within it at the second modulus. -/
def hardenedWindows : List (List RegWindow) :=
  [[⟨0, 0x100004, 0x100004⟩], [⟨0, 0x500024, 0x500024⟩], [⟨0, 0x5F0000, 0x5F00BF⟩], [⟨0, 0x501000, 0x5017FF⟩],
   [⟨0, 0x201000, 0x201FFF⟩], [⟨0x100000, 0xA1000, 0xA130B⟩, ⟨0x100, 0, 0xB⟩],
   [⟨0x100000, 0xE0020, 0xE32FF⟩, ⟨0x1000, 0x20, 0x2FF⟩]]

theorem hardenedField_lo {f : Field} (h : hardenedField f) : f.lo < 32 := by
  obtain h | ⟨G, j, -, -, rfl | rfl | rfl⟩ | ⟨G, m, -, -, rfl⟩ | ⟨m, -, rfl⟩ | ⟨m, -, rfl⟩ |
    ⟨p, -, rfl | rfl | rfl | rfl | rfl⟩ := h
  case inl =>
    simp only [List.mem_cons, List.not_mem_nil, or_false] at h
    obtain rfl | rfl | rfl | rfl | rfl | rfl := h <;> decide
  all_goals exact Nat.zero_lt_succ 31

/-- The windows of its block cover a hardened field. -/
theorem hardenedField_covered {f : Field} (h : hardenedField f) : ∃ l ∈ hardenedWindows, ∀ w ∈ l, w.covers f.off := by
  have block : ∀ i (hi : i < hardenedWindows.length), (∀ w ∈ hardenedWindows[i], w.covers f.off) →
      ∃ l ∈ hardenedWindows, ∀ w ∈ l, w.covers f.off := fun i hi hc => ⟨_, List.getElem_mem hi, hc⟩
  obtain h | ⟨G, j, hG, hj, h⟩ | ⟨G, m, hG, hm, rfl⟩ | ⟨m, hm, rfl⟩ | ⟨m, hm, rfl⟩ | ⟨p, hp, h⟩ := h
  · simp only [List.mem_cons, List.not_mem_nil, or_false] at h
    have hoff : f.off = 0x100004 ∨ f.off = 0x500024 := by obtain rfl | rfl | rfl | rfl | rfl | rfl := h <;> decide
    obtain e | e := hoff
    · exact block 0 (by decide) (by simp [hardenedWindows, RegWindow.covers, e])
    · exact block 1 (by decide) (by simp [hardenedWindows, RegWindow.covers, e])
  · have hoff : ∃ k, 0x20 ≤ k ∧ k ≤ 0x2FF ∧ f.off = 0x10E0000 + (G / 4) * 0x100000 + (G % 4) * 0x1000 + k := by
      obtain rfl | rfl | rfl := h
      · exact ⟨0x20, by omega, by omega, by simp only [Reg.ROT_SEED_VALID]; omega⟩
      · exact ⟨0x100 + j * 8, by omega, by omega, by simp only [Reg.ROT_SEED_LO]; omega⟩
      · exact ⟨0x104 + j * 8, by omega, by omega, by simp only [Reg.ROT_SEED_HI]; omega⟩
    obtain ⟨k, hk, hk', e⟩ := hoff
    exact block 6 (by decide) (by simp [hardenedWindows, RegWindow.covers, e]; omega)
  · exact block 5 (by decide) (by simp [hardenedWindows, RegWindow.covers, Reg.SPM_BANK_MAP]; omega)
  · exact block 2 (by decide) (by simp [hardenedWindows, RegWindow.covers, Reg.SPM_HUB_MAP]; omega)
  · exact block 2 (by decide) (by simp [hardenedWindows, RegWindow.covers, Reg.SPM_HUB_OWNER]; omega)
  · have hoff : (∃ k ≤ 8, f.off = 0x501000 + p * 0x40 + k) ∨ ∃ k ≤ 4, f.off = 0x201000 + p * 0x80 + k := by
      obtain rfl | rfl | rfl | rfl | rfl := h
      · exact .inl ⟨0, by omega, rfl⟩
      · exact .inl ⟨4, by omega, by simp only [Reg.TIER_P_RANGE_PAGES]; omega⟩
      · exact .inl ⟨8, by omega, by simp only [Reg.TIER_P_T2_QUOTA]; omega⟩
      · exact .inr ⟨0, by omega, rfl⟩
      · exact .inr ⟨4, by omega, by simp only [Reg.SRV_P_SLOT_COUNT]; omega⟩
    obtain ⟨k, hk, e⟩ | ⟨k, hk, e⟩ := hoff
    · exact block 3 (by decide) (by simp [hardenedWindows, RegWindow.covers, e]; omega)
    · exact block 4 (by decide) (by simp [hardenedWindows, RegWindow.covers, e]; omega)

theorem writable_lo : ∀ F ∈ Reg.writable, F.first.lo < 32 := by decide +kernel

/-- Each family a host can write leaves free one window of each block. -/
theorem writable_free : ∀ l ∈ hardenedWindows, ∀ F ∈ Reg.writable, l.any (·.free F) = true := by decide +kernel

theorem mem_fieldsAt {fs : List Family} {off : Nat} {g : Field} : g ∈ fieldsAt fs off ↔ ∃ F ∈ fs, famField F off = some g :=
  List.mem_filterMap

/-- No field that a host can write lies in the register of a hardened one. -/
theorem hardenedField_off_ne {f : Field} (h : hardenedField f) {F : Family} {off : Nat} {g : Field} (hF : F ∈ Reg.writable)
    (hg : famField F off = some g) : f.off ≠ off := by
  rintro rfl
  obtain ⟨l, hl, hc⟩ := hardenedField_covered h
  obtain ⟨w, hw, hfree⟩ := List.any_eq_true.1 (writable_free l hl F hF)
  exact RegWindow.not_covers hfree hg (hc w hw)

/-- A hardened field and a field that a host can write have different keys. -/
theorem hardenedField_key_ne {f : Field} (h : hardenedField f) {off : Nat} {g : Field} (hg : g ∈ fieldsAt Reg.writable off) :
    f.key ≠ g.key := by
  obtain ⟨F, hF, hFg⟩ := mem_fieldsAt.1 hg
  have hoff : f.off ≠ off := hardenedField_off_ne h hF hFg
  have hf : f.lo < 32 := hardenedField_lo h
  have hw : F.first.lo < 32 := writable_lo F hF
  obtain ⟨-, rfl⟩ := famField_eq_some.1 hFg
  unfold Field.key
  dsimp only
  omega

/-! ### SPDM and IDE_KM (R395, R544) -/

theorem spdmRequest_establish {port id : Nat} {s : State} (hs : spdmServed s port = true) (hn : s.wts.sessions.length < 8)
    (hid : s.wts.sessions.any (·.id == id) = false) : exec (.spdmRequest (.establish port id)) s =
      .next (emit (wr { s with wts := { s.wts with sessions := s.wts.sessions ++ [⟨id, port⟩] } } Reg.CRY_SESSIONS
        (s.wts.sessions.length + 1)) (.spdm [0x64])) := by
  show execSpdmRequest (.establish port id) s = _
  simp [execSpdmRequest, hs, hid, Nat.not_le.2 hn]

theorem spdmRequest_endSession {port : Nat} (id : Nat) {s : State} (hs : spdmServed s port = true) :
    exec (.spdmRequest (.endSession port id)) s =
      .next (emit (endSessions (fun x => x.id == id && x.port == port) s) (.spdm [0x6C])) := by
  show execSpdmRequest (.endSession port id) s = _
  simp [execSpdmRequest, hs]

theorem spdmRequest_measurements {port i : Nat} {s : State} (hs : spdmServed s port = true) (h1 : 1 ≤ i) (h6 : i ≤ 6) :
    exec (.spdmRequest (.measurements port i)) s =
      .next (emit (measurement i s).2 (.spdm (0x60 :: (measurement i s).1))) := by
  have hi : ¬ (i = 0 ∨ 6 < i) := by omega
  show execSpdmRequest (.measurements port i) s = _
  simp [execSpdmRequest, hs, hi]

theorem spdmRequest_other {port : Nat} {s : State} (hs : spdmServed s port = true) : exec (.spdmRequest (.other port)) s =
    .next (emit (drawBytes 1 s).2 (.spdm (drawBytes 1 s).1)) := by
  show execSpdmRequest (.other port) s = _
  simp [execSpdmRequest, hs]

theorem ideKmRequest_keyed {x session stream : Nat} {s : State} (hx : x < 2) (hst : stream < 3) (hs : spdmServed s x = true)
    (hon : sessionOn s session x = true) : exec (.ideKmRequest x session stream) s =
      .next (emit (showIde x { s with hif := { s.hif with
        ideKeyed := s.hif.ideKeyed.filter (· != x * 4 + stream) ++ [x * 4 + stream],
        ideFailed := s.hif.ideFailed.filter (· != x * 4 + stream) } }) (.spdm [1])) := by
  have hno : ¬ (2 ≤ x ∨ 3 ≤ stream ∨ (!spdmServed s x) = true ∨ (!sessionOn s session x) = true) := by
    simp [hs, hon]; omega
  show execIdeKmRequest x session stream s = _
  unfold execIdeKmRequest
  exact if_neg hno

end Sys2Proof.Machine

open Sys2Proof Sys2Proof.Machine

/-- Settles O4: every command keeps what is outside its areas (`exec_keeps`). -/
theorem commandsChangeOnlyTheirAreas : Obligations.CommandsChangeOnlyTheirAreas := by
  intro i s t h a ha
  have hout : a ∉ mayChange i := by simpa using ha
  exact (exec_keeps i s).outside h hout

/-- Settles O6: a step idles, or runs a command, which keeps the forms (`exec_inv`) on the queue's rest. -/
theorem stepKeepsInvariant : Obligations.StepKeepsInvariant := by
  intro s t hs h
  obtain ⟨-, rfl⟩ | ⟨c, q, -, hc⟩ := step_next h
  · exact hs
  · exact exec_inv (withQueue_inv hs q) hc

/-- Settles O7: what was written reads back where memory stands (`memByte_writeMem_in`), the rest as before (`memByte_writeMem_out`). -/
theorem memoryReadsBackWrites : Obligations.MemoryReadsBackWrites := by
  intro s a b hs
  exact ⟨fun _ hi hp => memByte_writeMem_in a b hs.mem hi hp, fun _ hx => memByte_writeMem_out s a b hx⟩

/-- Settles O8: each listed range is a hole (`place_hole`), and a hole lists no byte and drops a write. -/
theorem holesHoldNothing : Obligations.HolesHoldNothing := by
  intro s a b hs ha
  have hp : place a = .hole := place_hole ha
  have hn : populated a = false := populated_hole hp
  exact ⟨hp, memByte_hole hs hn, writeMem_hole s b hn⟩

/-- Settles O22: a write acts on the mailbox's error register, is barred, or acts on fields whose keys differ from every hardened field's
(`hardenedField_key_ne`). -/
theorem hardenedFieldsKeepTheirValue : Obligations.HardenedFieldsKeepTheirValue := by
  intro path off w s ha
  by_cases hoff : off = mbErrOff path
  · refine ⟨_, registerWrite_mbErr w s ha hoff, rfl, fun _ _ => rfl, fun hlo _ => ?_⟩
    exact absurd (mbErrOff_lt path) (by omega)
  · by_cases hb : writeBarred s path off
    · exact ⟨s, registerWrite_barred w ha hoff hb, rfl, fun _ _ => rfl, fun _ _ => rfl⟩
    · refine ⟨_, registerWrite_fields w ha hoff hb, writeFields_out w _ s, fun f hf => ?_, fun hlo hhi => ?_⟩
      · exact rd_writeFields_ne w (fun g hg => hardenedField_key_ne hf hg) s
      · exact absurd (.inr (.inr (.inl ⟨hlo, hhi⟩))) hb

/-- Settles O23: the low read leaves the high half in its path's shadow, which names the counter, and a read on another path leaves that
shadow alone. -/
theorem counterHalvesAgree : Obligations.CounterHalvesAgree := by
  intro path off s
  have hself : ∀ v : Nat, tget (0, 0) (tput (0, 0) s.shadows path (off + 1, v)) path = (off + 1, v) :=
    fun v => tget_tput_eq (by simp) s.shadows path
  refine ⟨_, counterLowRead_eq path off s, rfl, highHalf_shadow (hself _), fun p off' hp => ?_⟩
  exact ⟨_, counterLowRead_eq p off' _, highHalf_shadow ((tget_tput_ne _ _ _ _ hp.symm).trans (hself _))⟩

/-- Settles O5: nothing is listed after reset. -/
theorem resetMeetsInvariant : Obligations.ResetMeetsInvariant := ⟨reset_mem_wf, rfl, rfl, rfl⟩

/-- Settles O39, a command's equation for each clause. -/
theorem hostPathCommandsComplete : Obligations.HostPathCommandsComplete := by
  intro s
  refine ⟨fun path off => counterLowRead_eq path off s, fun path off hoff => hoff ▸ rcFieldRead_evLost path s,
    fun path off f r => rcFieldRead_field, fun path off w ha hoff => registerWrite_mbErr w s ha hoff, ?fields,
    fun port id => spdmRequest_establish, fun port id hs => spdmRequest_endSession id hs,
    fun port i => spdmRequest_measurements, fun port => spdmRequest_other, fun x session stream => ideKmRequest_keyed⟩
  case fields =>
    intro path off w ha hoff hp hown hcal hhid
    have hb : ¬ writeBarred s path off := by
      simp only [writeBarred, hown, hhid, Bool.false_eq_true, or_false, false_or]; omega
    exact registerWrite_fields w ha hoff hb

end

section
/-!
SUPPORT, and the statements on pins and clocks, the tick, the slots and symbols of a link, the CTL messages of the tick and start
families, the sequencer's commands, and what ends a command: each command's equation where its conditions hold.
-/

namespace Sys2Proof.Machine

/-! ### Pins, supplies and clocks (R482, R510, R512, R513, R523, R568) -/

theorem pwrEnRise_supplied {s : State} (hs : s.pwr.calSupply = true) :
    exec .pwrEnRise s = .next (powerOn (wr s Reg.HIF_PIN_PWR_EN 1)) := by
  show execPwrEnRise s = _
  rw [execPwrEnRise, if_pos hs]

theorem pwrEnFall_supplied {s : State} (hs : s.pwr.calSupply = true) :
    exec .pwrEnFall s = .next (forcedOff 0x05C4 (wr s Reg.HIF_PIN_PWR_EN 0)) := by
  show execPwrEnFall s = _
  rw [execPwrEnFall, if_pos hs]

theorem freezeNFall_supplied {s : State} (hs : s.pwr.calSupply = true) :
    exec .freezeNFall s = .next (freezeNow (wr s Reg.HIF_PIN_FREEZE_N 0)) := by
  show execFreezeNFall s = _
  rw [execFreezeNFall, if_pos hs]

theorem xtalReturn_supplied {s : State} (hs : s.pwr.calSupply = true) :
    exec .xtalReturn s = .next (wr s Reg.CAL_XTAL_OK 1) := by
  show execXtalReturn s = _
  rw [execXtalReturn, if_pos hs]

theorem resetNRelease_low {s : State} (hs : s.pwr.calSupply = true) (hl : s.pwr.resetLow = true) : exec .resetNRelease s =
    (let t := { s with pwr := { s.pwr with resetLow := false } }
     .next (if rdb t Reg.HIF_PIN_PWR_EN then powerOn t else t)) := by
  show execResetNRelease s = _
  exact if_neg (by simp [hs, hl])

theorem vrAlertRelease_rail {r : Nat} (s : State) (hr : r ≤ 7) : exec (.vrAlertRelease r) s =
    .next { (setAlertPin r true s) with pwr := { s.pwr with pinRise := tput 0 s.pwr.pinRise r (pkgNs s) } } := by
  show execVrAlertRelease r s = _
  exact if_neg (by omega)

theorem tickSyncInEdge_missed {s : State} (hr : rd s Reg.TICK_ROLE = 1) (he : rdb s Reg.TICK_SYNC_IN_EN = true) :
    exec (.tickSyncInEdge false) s = .next (tickEvent Reg.TICK_EV_SYNC_IN_LOST 7 s) := by
  show execTickSyncInEdge false s = _
  exact if_pos ⟨hr, he, rfl⟩

theorem tickSyncInEdge_inTime (s : State) : exec (.tickSyncInEdge true) s = .next s := by
  show execTickSyncInEdge true s = _
  exact if_neg (by simp)

theorem refclk100Loss_on {s : State} (hp : 2 ≤ pstate s) : exec .refclk100Loss s =
    .next (forcedOff 0x05C3 (report (mkRec s 15 0 3 9 0x1220 24 255 (if anyJob s then 2 else 0) 0x05C3 0 []) false s)) := by
  show execRefclk100Loss s = _
  exact if_neg (by omega)

theorem serdesRefReturn_lost {n : Nat} {s : State} (hn : n < 4) (hl : s.pwr.refLost.contains n = true) :
    exec (.serdesRefReturn n) s =
      (let t := { s with pwr := { s.pwr with refLost := s.pwr.refLost.filter (· != n) } }
       .next (wrb t (Reg.LD_REFCLK_LOCK n) (rdb t (Reg.LD_POWERED n)))) := by
  have hno : ¬ (4 ≤ n ∨ (!s.pwr.refLost.contains n) = true) := by
    simp only [hl, Bool.not_true, Bool.false_eq_true, or_false]; omega
  exact if_neg hno

/-! ### The frame clock (R26, R27, R32, R39, R481) -/

theorem tick_kept {s : State} (ups : List Upset) (hk : keepsFrames s = true) : exec (.tick ups) s = .next (tick ups s) := by
  show execTick ups s = _
  rw [execTick, if_pos hk]

theorem commitDeadline_open {s : State} (hk : keepsFrames s = true) (hv : s.tick.verdict = false) :
    exec .commitDeadline s = .next (deadline s) := by
  show execCommitDeadline s = _
  exact if_neg (by simp [hk, hv])

/-- A symbol that names what is in force, or comes with a newer GEN, passes the check on it. -/
theorem not_ne_and_not {p q : Nat} {b : Bool} (h : p = q ∨ b = true) : ¬ (p ≠ q ∧ (!b) = true) := by
  obtain h | h := h <;> simp [h]

theorem tickSymbolReceive_accepted {l : Nat} {sym : TickSym} (o : Int) {s : State} (hu : isUp s l = true) (hm : sym.master ≠ pkgId s)
    (hr : 2 ≤ rd s Reg.TICK_ROLE) (hl : l = upstream s)
    (hid : sym.master = rd s Reg.TICK_MASTER_ID ∨ genAfter sym.gen (rd s Reg.TICK_GEN) = true)
    (hg : sym.gen = rd s Reg.TICK_GEN ∨ genAfter sym.gen (rd s Reg.TICK_GEN) = true) (hf : sym.frame = frameNo s) :
    exec (.tickSymbolReceive l true sym o) s = .next (acceptSymbol sym o s) := by
  have hno : ¬ (l ≠ upstream s ∨ sym.gen ≠ rd s Reg.TICK_GEN ∧ (!genAfter sym.gen (rd s Reg.TICK_GEN)) = true) :=
    not_or.2 ⟨not_not_intro hl, not_ne_and_not hg⟩
  show execTickSymbolReceive l true sym o s = _
  unfold execTickSymbolReceive
  dsimp only
  rw [if_neg (by simp [hu]), if_neg (by decide), if_neg hm, if_neg (by omega), if_neg (not_ne_and_not hid), if_neg (by omega), if_neg hno,
    if_neg (not_not_intro hf)]

theorem tickSymbolReceive_joins {l : Nat} {sym : TickSym} (o : Int) {s : State} (hu : isUp s l = true) (hm : sym.master ≠ pkgId s)
    (hr : rd s Reg.TICK_ROLE = 0) (hp : pstate s = 5) (hc : s.tick.mapChecked = true) (hl : l = upstream s) :
    exec (.tickSymbolReceive l true sym o) s = .next (joinMaster sym o s) := by
  show execTickSymbolReceive l true sym o s = _
  unfold execTickSymbolReceive
  dsimp only
  rw [if_neg (by simp [hu]), if_neg (by decide), if_neg hm, if_pos hr, if_pos ⟨hp, hc, hl⟩]

theorem tickSymbolReceive_newer {l : Nat} {sym : TickSym} (o : Int) {s : State} (hu : isUp s l = true) (hm : sym.master ≠ pkgId s)
    (hr : rd s Reg.TICK_ROLE = 1) (hg : genAfter sym.gen (rd s Reg.TICK_GEN) = true) :
    exec (.tickSymbolReceive l true sym o) s = .next (acceptSymbol sym o (mapUpstream s)) := by
  show execTickSymbolReceive l true sym o s = _
  unfold execTickSymbolReceive
  dsimp only
  rw [if_neg (by simp [hu]), if_neg (by decide), if_neg hm, if_neg (by omega), if_neg (not_ne_and_not (.inr hg)), if_pos hr]

/-! ### Slots and control symbols of a link (R44, R260, R264, R270, R274, R279) -/

theorem slotSend_eq {l slot : Nat} {s : State} (hu : isUp s l = true) (hs : slot < s.tick.len) : exec (.slotSend l slot) s =
    .next (match slotAt (slotBegins slot s) false (bundleOf (slotBegins slot s) l) (heldPos (slotBegins slot s) l) slot with
      | some e => sendSched l e (slotBegins slot s)
      | none => sendOpen l slot (slotBegins slot s)) := by
  show execSlotSend l slot s = _
  unfold execSlotSend
  rw [if_neg (by simp [hu, hs])]
  dsimp only
  cases slotAt (slotBegins slot s) false (bundleOf (slotBegins slot s) l) (heldPos (slotBegins slot s) l) slot <;> rfl

theorem openRetryTimeout_up {l : Nat} {s : State} (hu : isUp s l = true) :
    exec (.openRetryTimeout l) s = .next (modLink s l (fun x => { x with resend := x.retry.length })) := by
  show execOpenRetryTimeout l s = _
  rw [execOpenRetryTimeout, if_pos hu]

theorem abortSymbolReceive_new {l kind frame : Nat} {slices new : List Nat} {s : State} (hu : isUp s l = true) (hk : kind ≤ 2)
    (hf : frame % 2 ^ 16 = frameNo s % 2 ^ 16) (hn : slices.filter (fun x => !(abortMap s kind).contains x) = new) (hne : new ≠ []) :
    exec (.abortSymbolReceive l true kind frame slices) s =
      .next (floodAbort kind { s with tick := new.foldl (fun t x => markAbort t kind x) s.tick }) := by
  have hk' : ¬ (!true || decide (2 < kind)) = true := by
    simp only [Bool.not_true, Bool.false_or, decide_eq_true_eq]; omega
  show execAbortSymbolReceive l true kind frame slices s = _
  unfold execAbortSymbolReceive
  rw [if_neg (by simp [hu]), if_neg hk', if_neg (not_not_intro hf), hn]
  exact if_neg (mt List.isEmpty_iff.1 hne)

theorem linkDownSymbol_up {l : Nat} {s : State} (hu : isUp s l = true) (pos eff : Nat) : exec (.linkDownSymbol l true pos eff) s =
    (let k := subLink s (bundleOf s l) pos
     if isUp s k then .next (leaveService k 1 (eff % 2 ^ 16) s)
     else if k = 127 then .next s
     else .next (noteSub ⟨bundleOf s l, pos, k, eff % 2 ^ 16⟩ s)) := by
  show execLinkDownSymbol l true pos eff s = _
  unfold execLinkDownSymbol
  rw [if_neg (by simp [hu]), if_neg (by decide)]

theorem faultRptSymbol_up {l : Nat} {s : State} (hu : isUp s l = true) (reporter accused frame : Nat) :
    exec (.faultRptSymbol l true reporter accused frame) s = .next (floodReport reporter accused frame s) := by
  show execFaultRptSymbol l true reporter accused frame s = _
  rw [execFaultRptSymbol, if_neg (by simp [hu]), if_neg (by decide)]

theorem echoSymbol_aligning {l : Nat} {s : State} (hl : l < 96) (hs : rd s (Reg.LINK_STATE l) = 3) (response : Bool) (trip turn : Nat) :
    exec (.echoSymbol l true response trip turn) s = .next (if response then
        modLink s l (fun x => { x with echoes := x.echoes + 1, echoSum := x.echoSum + (trip - turn) })
      else sendSymbol [l] 5 (leBytes 1 1 ++ leBytes 2 turn) s) := by
  have hno : ¬ (96 ≤ l ∨ rd s (Reg.LINK_STATE l) ≠ 3) := by omega
  show execEchoSymbol l true response trip turn s = _
  rw [execEchoSymbol, if_neg hno, if_neg (by decide)]
  exact (apply_ite Host.Outcome.next _ _ _).symm

/-! ### CTL messages: what a row does to an expected message heard for the first time (R291, R292) -/

/-- A message that is expected and new is applied and answered. -/
theorem applyCtl_heard {h : CtlHdr} {f : State → CtlAnswer × State} {s u v : State} {a : CtlAnswer} (hu : answered h s = u)
    (hn : s.fab.seen.find? (fun c => c.src == h.srcPkg && c.mseq == h.mseq) = none) (he : expected u h = true) (hf : f u = (a, v)) :
    applyCtl h f s = heardCtl h a v := by
  subst hu
  have hn' : (answered h s).fab.seen.find? (fun c => c.src == h.srcPkg && c.mseq == h.mseq) = none := hn
  unfold applyCtl
  simp only [hn', he, if_true, hf]
  cases a <;> rfl

theorem applyStretch_kept {h : CtlHdr} {k : Nat} {s : State} (hk : k ≤ 2480)
    (hr : rd s Reg.TICK_ROLE = 1 ∨ rd s Reg.TICK_ROLE = 2) : applyStretch h k s =
      (ackWith 0, { s with tick := { s.tick with requests := tput 0 s.tick.requests h.srcPkg k } }) := by
  rw [applyStretch, if_neg (by omega), if_pos hr]

theorem applyCandidate_collected {c : Candidate} {s : State} (hl : listens s = true) (hc : s.tick.candidate = true)
    (hd : c.mapDigest = mapDigest s) : applyCandidate c s =
      (none, { s with tick := { s.tick with heard := s.tick.heard.filter (fun x => x.pkg != c.pkg) ++ [c] } }) := by
  rw [applyCandidate, if_pos ⟨hl, hc, hd⟩]

theorem applyJoin_master {h : CtlHdr} (elig : Bool) (prio tray : Nat) {s : State} (hr : rd s Reg.TICK_ROLE = 1) :
    applyJoin h elig prio tray s =
      (let t := { s with tick := { s.tick with
         joined := s.tick.joined.filter (fun j => j.1 != h.srcPkg) ++ (if elig then [(h.srcPkg, prio, tray)] else []),
         fencedPkgs := s.tick.fencedPkgs.filter (· != h.srcPkg) } }
       (ackWith 0, if rd t Reg.TICK_STANDBY_ID = 255 ∧ elig = true then electStandby t else t)) :=
  if_pos hr

theorem applyReady_member {h : CtlHdr} {r : Nat} (id digest rank slots : Nat) {s : State}
    (hr : rankOf s h.dstPart h.srcPkg h.srcPart = some r) : applyReady h id digest rank slots s =
      (ackWith 0, advanceStart h.dstPart (modPart s h.dstPart (fun q => { q with
        readies := q.readies.filter (·.1 != r) ++ [(r, id, if r = rank then digest else digest + 2 ^ 64, slots)] }))) := by
  unfold applyReady
  dsimp only
  rw [hr]

theorem applyTransitReply_lead {h : CtlHdr} {id : Nat} (result : Nat) {s : State} (hj : (part s h.dstPart).job = .starting)
    (hl : isLead s h.dstPart = true) (hi : imageIdOf (part s h.dstPart) = id) : applyTransitReply h id result s =
      (none, if result = 0 then
          advanceStart h.dstPart (modPart s h.dstPart (fun q => { q with accepts := q.accepts ++ [h.srcPkg] }))
        else abandonStart h.dstPart s) := by
  rw [applyTransitReply, if_pos ⟨hj, hl, hi⟩]

theorem applyGo_member {h : CtlHdr} {id : Nat} (f : Nat) {resume : Bool} {s : State} (hl : fromLead s h = true)
    (hi : imageIdOf (part s h.dstPart) = id) (hj : (part s h.dstPart).job = (if resume then .paused else .starting)) :
    applyGo h id f resume s = (ackWith 0, modPart s h.dstPart (fun q => { q with goFrame := some f, resume := resume })) := by
  rw [applyGo, if_pos ⟨hl, hi, hj⟩]

theorem applyAbandon_transit {h : CtlHdr} (id : Nat) (s : State) (hp : h.dstPart = 255) :
    applyAbandon h id s = (ackWith 0, releaseTransit (fun t => t.imageId == id) s) := by
  rw [applyAbandon, if_pos hp]

theorem applyAbandon_member {h : CtlHdr} {id : Nat} {s : State} (hp : h.dstPart ≠ 255) (hl : fromLead s h = true)
    (hi : imageIdOf (part s h.dstPart) = id) : applyAbandon h id s = (ackWith 0, endStart h.dstPart s) := by
  rw [applyAbandon, if_neg hp, if_pos ⟨hl, hi⟩]

theorem applyFill_member {h : CtlHdr} {v r : Nat} {s : State} (hr : rankOf s h.dstPart h.srcPkg h.srcPart = some r) (hv : v ≤ 16) :
    applyFill h v s = (ackWith 0, modPart s h.dstPart (fun q => { q with fills := tput none q.fills r (some v) })) := by
  unfold applyFill
  rw [hr]
  exact if_neg (by omega)

/-! ### LOOP (R50) -/

/-- A trip count that reads without an uncorrectable word and within MAX_TRIPS enters the loop, or skips its body where it is 0. -/
theorem synLoop_counted {G v : Nat} {fl : BitVec 4} {a : BitVec 112} {ue : List Nat} {s t : State} (hc : canIssue s G = true)
    (ht : spmRead G (fld a 87 64) 4 (takeUe ue (issueSyn 4 G fl a s)) = t) (hb : (spmBad t G (fld a 87 64) 4).isEmpty = true)
    (hv : readNum t (spmAddr G (fld a 87 64)) 4 = v) (hm : v ≤ fld a 111 96) :
    exec (.synLoop G fl a ue) s = .next (showCtx G (if v = 0 then wr t (Reg.CTX_PC G) (rd t (Reg.CTX_PC G) + fld a 63 48)
      else modCtx t G (fun c => { c with loops := ⟨rd t (Reg.CTX_PC G), fld a 63 48, v, 0⟩ :: c.loops }))) := by
  have hue : operandUe G 0 1 (spmBad t G (fld a 87 64) 4) t = t := if_pos hb
  show execSynLoop G fl a ue s = _
  rw [execSynLoop, synCommand_issued hc]
  simp only [ht, hv, hb, hue, Nat.min_eq_left hm, Nat.not_lt.2 hm, Bool.not_true, decide_false, Bool.and_false, Bool.false_eq_true,
    if_false]

/-! ### Completions, watchdogs, accumulate counts and guards (R42, R126, R135, R146) -/

theorem engineWatchdogExpiry_watched {G i : Nat} {x : FrameCmd} {s : State} (hx : (ctx s G).inflight[i]? = some x)
    (hw : watched x = true) (hf : frozen s = false) : exec (.engineWatchdogExpiry G i) s =
      .next (showColl (showCtx G (releaseWait G
        (modCtx (expire G x s) G (fun c => { c with inflight := c.inflight.eraseIdx i }))))) := by
  show execEngineWatchdogExpiry G i s = _
  unfold execEngineWatchdogExpiry
  rw [hx]
  exact if_pos (by simp [hw, hf])

theorem arrivalThresholdReached_waiting {G i k j : Nat} {x : FrameCmd} {par : List (Nat × Nat)} {s : State}
    (hx : (ctx s G).inflight[i]? = some x) (hk : x.waitsAc = some (k, j)) : exec (.arrivalThresholdReached G i par) s =
      (let r := gemmRun G (fld x.args 99 94) j (gemmOf x.args x.cfg) x.cfg par s
       .next (modCtx r.1 G (fun c => { c with
         inflight := c.inflight.modify i (fun x => { x with waitsAc := r.2.map (fun j => (k, j)) }) }))) := by
  show execArrivalThresholdReached G i par s = _
  unfold execArrivalThresholdReached
  rw [hx]
  dsimp only
  rw [hk]

theorem guardEvaluation_done {G grp pc : Nat} {r : List (Nat × Nat)} (ue : List Nat) {s : State}
    (hg : (ctx s G).guards = (grp, pc) :: r) (hd : groupDone (ctx s G) grp = true) : exec (.guardEvaluation G ue) s =
      .next (modCtx ((guardsAt s G pc).foldl (runGuard G pc) (takeUe ue s)) G (fun c => { c with guards := r })) := by
  show execGuardEvaluation G ue s = _
  unfold execGuardEvaluation
  rw [hg]
  exact if_pos hd

end Sys2Proof.Machine

open Sys2Proof Sys2Proof.Machine

/-- Settles O41, a command's equation for each clause. -/
theorem pinCommandsComplete : Obligations.PinCommandsComplete := by
  intro s
  refine ⟨pwrEnRise_supplied, pwrEnFall_supplied, ?resetNAssert, resetNRelease_low, ?calicheSupplyOn, rfl, freezeNFall_supplied, ?vrAlert,
    fun r => vrAlertRelease_rail s, tickSyncInEdge_missed, tickSyncInEdge_inTime s, fun _ => rfl, refclk100Loss_on, ?serdesRefLoss,
    fun n => serdesRefReturn_lost, rfl, xtalReturn_supplied, rfl⟩
  case resetNAssert =>
    intro hs hp
    have hno : ¬ ((!s.pwr.calSupply) = true ∨ pstate s = 0) := by simp [hs, hp]
    exact if_neg hno
  case calicheSupplyOn =>
    intro pwrEn hs
    have hoff : ¬ s.pwr.calSupply = true := by simp [hs]
    exact if_neg hoff
  case vrAlert =>
    intro r word hr
    show execVrAlert r word s = _
    unfold execVrAlert
    rw [if_neg (by omega)]
    exact (apply_ite Host.Outcome.next _ _ _).symm
  case serdesRefLoss =>
    intro n hn hs hl
    have hno : ¬ (4 ≤ n ∨ (!s.pwr.calSupply) = true ∨ s.pwr.refLost.contains n = true) := by
      simp only [hs, hl, Bool.not_true, Bool.false_eq_true, or_false]; omega
    show execSerdesRefLoss n s = _
    unfold execSerdesRefLoss
    rw [if_neg hno]
    exact (apply_ite Host.Outcome.next _ _ _).symm

/-- Settles O43, a command's equation for each clause. -/
theorem frameClockCommandsComplete : Obligations.FrameClockCommandsComplete := by
  intro s
  refine ⟨tick_kept, commitDeadline_open, fun l sym o => tickSymbolReceive_accepted o, fun l sym o => tickSymbolReceive_joins o,
    fun l sym o hu hm hr hg => tickSymbolReceive_newer o hu hm hr hg, ?missingTick, ?selfFence⟩
  case missingTick =>
    intro hr hg hk
    have hno : ¬ (rd s Reg.TICK_ROLE < 2 ∨ s.tick.gotSymbol = true ∨ (!keepsFrames s) = true) := by
      simp only [hg, hk, Bool.not_true, Bool.false_eq_true, or_false]; omega
    show execMissingTick s = _
    rw [execMissingTick, if_neg hno]
    exact (apply_ite Host.Outcome.next _ _ _).symm
  case selfFence =>
    intro hr hm hf
    have hno : ¬ (rd s Reg.TICK_ROLE < 2 ∨ s.tick.missed < 3 ∨ rdb s Reg.TICK_FENCED = true) := by
      simp only [hf, Bool.false_eq_true, or_false]; omega
    exact if_neg hno

/-- Settles O44, a command's equation for each clause. -/
theorem slotCommandsComplete : Obligations.SlotCommandsComplete := by
  intro s l hu
  refine ⟨?slotReceive, ?slotSend, openRetryTimeout_up hu, fun kind frame slices new => abortSymbolReceive_new hu, ?downUp, ?downGone,
    faultRptSymbol_up hu, fun t hl hs => ⟨echoSymbol_aligning hl hs true, echoSymbol_aligning hl hs false⟩⟩
  case slotReceive =>
    rintro rx t hs rfl
    show execSlotReceive l rx s = _
    unfold execSlotReceive
    rw [if_neg (by simp [hu, hs])]
    dsimp only
    cases slotAt (slotBegins rx.slot s) true (bundleOf (slotBegins rx.slot s) l) (heldPos (slotBegins rx.slot s) l) rx.slot <;> rfl
  case slotSend =>
    rintro slot t hs rfl
    exact slotSend_eq hu hs
  case downUp =>
    intro pos eff hk
    rw [linkDownSymbol_up hu]
    exact if_pos hk
  case downGone =>
    rintro pos eff k rfl hk hne
    rw [linkDownSymbol_up hu]
    dsimp only
    rw [if_neg (by simp [hk]), if_neg hne]

/-- Settles O46: an expected message that is new has its row's effect (`applyCtl_heard`), which each clause's conditions determine. -/
theorem startMessagesComplete : Obligations.StartMessagesComplete := by
  intro h s u hu hn he
  have heard {f : State → CtlAnswer × State} {a : CtlAnswer} {v : State} (hf : f u = (a, v)) :
      Host.Outcome.next (applyCtl h f s) = (.next (heardCtl h a v) : Host.Outcome State Fault Refusal) :=
    congrArg _ (applyCtl_heard hu hn he hf)
  refine ⟨fun k hk hr => heard (applyStretch_kept hk hr), fun c hl hc hd => heard (applyCandidate_collected hl hc hd),
    fun elig prio tray hr => heard (applyJoin_master elig prio tray hr),
    fun id digest rank slots r hr => heard (applyReady_member id digest rank slots hr),
    ?install, ?transitReply, fun id f resume hl hi hj => heard (applyGo_member f hl hi hj),
    fun id _ hp => heard (applyAbandon_transit id u hp), fun id _ hp hl hi => heard (applyAbandon_member hp hl hi),
    fun id slice => heard rfl, fun v r hr hv => heard (applyFill_member hr hv)⟩
  case install =>
    rintro id slice ents es ts rfl hok hfit rfl
    exact heard (if_pos (by rw [hok, hfit]; rfl))
  case transitReply =>
    intro id hj hl hi
    exact ⟨heard (applyTransitReply_lead 0 hj hl hi), heard (applyTransitReply_lead 1 hj hl hi)⟩

/-- Settles O50: a SYN command of a context that may issue is issued and has its effect (`synCommand_issued`). -/
theorem sequencerCommandsComplete : Obligations.SequencerCommandsComplete := by
  intro s G hc
  refine ⟨?nop, ?wait, ?barrier, ?slotWait, fun fl a ue t v => synLoop_counted hc, fun fl a => synCommand_issued hc 5 fl a (loopNext G)⟩
  case nop =>
    rintro fl a t rfl
    exact synCommand_issued hc 0 fl a id
  case wait =>
    rintro fl a t rfl
    show execSynWait G fl a s = _
    exact synCommand_issued hc 1 fl a _
  case barrier =>
    rintro fl a t u rfl rfl
    show execSynBarrier G fl a s = _
    exact synCommand_issued hc 2 fl a _
  case slotWait =>
    rintro fl a t rfl
    show execSynSlotWait G fl a s = _
    exact synCommand_issued hc 3 fl a _

/-- Settles O54, a command's equation for each clause. -/
theorem commandEndsComplete : Obligations.CommandEndsComplete := by
  intro s G i x hx
  refine ⟨?complete, engineWatchdogExpiry_watched hx, ?arrival, fun ue grp pc r => guardEvaluation_done ue, fun _ _ => rfl⟩
  case complete =>
    intro ns hm hh
    show execFrameCommandComplete G i ns s = _
    unfold execFrameCommandComplete
    dsimp only
    rw [hx]
    dsimp only
    rw [if_neg (by simp [hm, hh])]
    exact (apply_ite Host.Outcome.next _ _ _).symm
  case arrival =>
    rintro k j par r hk rfl
    exact arrivalThresholdReached_waiting hx hk

end

section
/-!
SUPPORT, and the statements on exact arithmetic: the rounding from FP32 to BF16 and back (R64), and where a weight stands in the bytes
of its group (R53 to R55).
-/

namespace Sys2Proof.Machine

/-! ### FP32 and BF16 (R64) -/

theorem toBf16_nan {x : F32} (hx : isNaN x = true) : toBf16 x = 0x7FC0 := if_pos hx

/-- All ones in the upper half are an exponent of 255 with a fraction that is not 0. -/
theorem upperHalf_lt_of_not_nan {x : F32} (hx : isNaN x = false) : x.toNat / 65536 < 65535 := by
  have hlt : x.toNat < 2 ^ 32 := x.isLt
  have hfin : f32Exp x = 255 → f32Frac x = 0 := by simpa [isNaN] using hx
  unfold f32Exp f32Frac at hfin
  refine Decidable.byContradiction fun hc => ?_
  have hexp : x.toNat / 2 ^ 23 % 256 = 255 := by omega
  have hfrac : x.toNat % 2 ^ 23 = 0 := hfin hexp
  omega

/-- The upper half and the carry out of the lower one, to which 0x7FFF and the upper half's last bit are added: the sum stays in 16 bits. -/
theorem toBf16_not_nan {x : F32} (hx : isNaN x = false) :
    toBf16 x = x.toNat / 65536 + (x.toNat % 65536 + 0x7FFF + x.toNat / 65536 % 2) / 65536 := by
  have hu : x.toNat / 65536 < 65535 := upperHalf_lt_of_not_nan hx
  rw [toBf16, if_neg (by simp [hx])]
  omega

theorem ofBf16_toNat_eq_append (h : BitVec 16) : ofBf16 h.toNat = h ++ (0 : BitVec 16) := by
  apply BitVec.eq_of_toNat_eq
  have hlt : h.toNat < 2 ^ 16 := h.isLt
  have happ : (h ++ (0 : BitVec 16)).toNat = h.toNat * 2 ^ 16 := by
    rw [BitVec.toNat_append, Nat.shiftLeft_eq]
    exact Nat.or_zero _
  rw [happ, ofBf16, BitVec.toNat_ofNat]
  omega

/-! ### Fields of a byte in two's complement -/

theorem signed_toNat {w : Nat} (hw : 0 < w) (v : BitVec w) : signed w v.toNat = v.toInt := by
  have hpow : 2 ^ w = 2 * 2 ^ (w - 1) := by rw [← Nat.pow_succ', Nat.succ_eq_add_one, Nat.sub_add_cancel hw]
  rw [signed, Nat.mod_eq_of_lt v.isLt, BitVec.toInt_eq_toNat_cond]
  split <;> split <;> omega

theorem signed_field {w : Nat} (hw : 0 < w) (b : Byte) (k : Nat) :
    signed w (b.toNat / (2 ^ w) ^ k % 2 ^ w) = (b.extractLsb' (w * k) w).toInt := by
  rw [← signed_toNat hw, BitVec.extractLsb'_toNat, Nat.shiftRight_eq_div_pow, Nat.pow_mul]

/-! ### The five formats (Table 3-2) -/

theorem weightAt_oneBit (g : Bytes) (i : Nat) :
    weightAt 0 g i = if (g.getD (i / 8) 0).getLsbD (i % 8) then 1 else -1 := by
  simp only [weightAt, BitVec.getLsbD, Nat.testBit_eq_decide_div_mod_eq, decide_eq_true_eq]

/-- Division by 3 ^ k drops the k lower digits, and the remainder drops the upper ones. -/
theorem trit_eq {b k : Nat} {t : Nat → Nat} (ht : ∀ j, t j < 3)
    (hb : b = t 0 + 3 * t 1 + 9 * t 2 + 27 * t 3 + 81 * t 4) (hk : k < 5) : b / 3 ^ k % 3 = t k := by
  obtain ⟨h0, h1, h2, h3, h4⟩ : t 0 < 3 ∧ t 1 < 3 ∧ t 2 < 3 ∧ t 3 < 3 ∧ t 4 < 3 := ⟨ht 0, ht 1, ht 2, ht 3, ht 4⟩
  match k, hk with
  | 0, _ | 1, _ | 2, _ | 3, _ | 4, _ => omega

theorem weightAt_ternary {g : Bytes} {i : Nat} {t : Nat → Nat} (ht : ∀ k, t k < 3)
    (hb : (g.getD (i / 5) 0).toNat = t 0 + 3 * t 1 + 9 * t 2 + 27 * t 3 + 81 * t 4) :
    weightAt 1 g i = (t (i % 5) : Int) - 1 := by
  have hd : (g.getD (i / 5) 0).toNat / 3 ^ (i % 5) % 3 = t (i % 5) := trit_eq ht hb (Nat.mod_lt i (by decide))
  rw [← hd]
  rfl

theorem weightAt_twoBit (g : Bytes) (i : Nat) :
    weightAt 2 g i = ((g.getD (i / 4) 0).extractLsb' (2 * (i % 4)) 2).toInt := signed_field (w := 2) (by decide) _ _

theorem weightAt_fourBit (g : Bytes) (i : Nat) :
    weightAt 3 g i = ((g.getD (i / 2) 0).extractLsb' (4 * (i % 2)) 4).toInt := signed_field (w := 4) (by decide) _ _

theorem weightAt_eightBit (g : Bytes) (i : Nat) : weightAt 4 g i = (g.getD i 0).toInt := signed_toNat (by decide) _

end Sys2Proof.Machine

open Sys2Proof Sys2Proof.Machine

/-- Settles O9: a value that is no NaN gets the carry out of its lower half (`toBf16_not_nan`), which is 1 above the middle, 0 below it
and the upper half's last bit at it. -/
theorem bf16RoundsToNearestEven : Obligations.Bf16RoundsToNearestEven := by
  intro x
  refine ⟨toBf16_nan, fun hx => ?_, ofBf16_toNat_eq_append⟩
  rw [toBf16_not_nan hx]
  refine ⟨?below, ?above, ?middle⟩
  case below => intro hr; omega
  case above => intro hr; omega
  case middle =>
    intro hr
    have hcarry : (x.toNat % 65536 + 0x7FFF + x.toNat / 65536 % 2) / 65536 = x.toNat / 65536 % 2 := by omega
    rw [hcarry]
    omega

/-- Settles O10, an equation of `weightAt` for each format. -/
theorem weightPositions : Obligations.WeightPositions := by
  intro g i _
  exact ⟨weightAt_oneBit g i, fun t => weightAt_ternary, weightAt_twoBit g i, weightAt_fourBit g i, weightAt_eightBit g i⟩

end

section
/-!
SUPPORT, and the statement on the engines' commands: a command of a context that may issue has its engine's effect on the state in which
it has been issued. That an engine's whole effect takes place at issue is the model's choice (log 41).
-/

namespace Sys2Proof.Machine

/-- The rule of every command whose meaning is a frame command. -/
theorem exec_of_frameCommand {i : Instr} {s t : State} {G cls op : Nat} {fl : BitVec 4} {a : BitVec 112} {ue : List Nat}
    {eff : State → State} (hc : canIssue s G = true) (hi : exec i s = frameCommand cls op G fl a ue eff s)
    (ht : issueCmd cls op G fl.toNat a (takeUe ue s) = t) : exec i s = .next (showCtx G (eff t)) := by
  rw [hi, frameCommand_issued hc, ht]

/-- The rule of a configuration command: it sets fields of its context, and stays in flight only as the commit command. -/
theorem exec_of_configCommand {i : Instr} {s t : State} {G cls op : Nat} {fl : BitVec 4} {a : BitVec 112} {ue : List Nat}
    {set : Ctx → Ctx} (hc : canIssue s G = true) (hi : exec i s = frameCommandNow cls op G fl a ue (fun s => modCtx s G set) s)
    (ht : issueCmd cls op G fl.toNat a (takeUe ue s) = t) :
    exec i s = .next (showCtx G (modCtx (dropUnlessEnd G fl t) G set)) := by
  rw [hi, frameCommandNow_issued hc, ht]

end Sys2Proof.Machine

open Sys2Proof Sys2Proof.Machine

/-- Settles O51: the meaning of an engine's command is a frame command with the engine's effect (`exec_of_frameCommand`), that of a
configuration command sets its context's parameters (`exec_of_configCommand`). -/
theorem computeCommandsComplete : Obligations.ComputeCommandsComplete := by
  intro s G hc
  refine ⟨?bduLoad, ?bduGemv, ?mxaCfg, ?mxaGemm, ?vecCfg, ?vadd, ?vmul, ?vscale, ?vfunc, ?vglu, ?vred, ?vnorm, ?vquant, ?vi64r, ?vi64add,
    ?vcvt, ?rotFwd, ?rotFwdQ, ?rotInv, ?attCfg, ?attKvq, ?attRun, ?attMerge⟩
  case mxaCfg | vecCfg | attCfg => exact fun fl a ue t => exec_of_configCommand hc rfl
  case bduLoad | bduGemv | attRun => exact fun fl a ue flt t => exec_of_frameCommand hc rfl
  case mxaGemm => exact fun fl a ue par t => exec_of_frameCommand hc rfl
  case vadd | vmul | vscale | vfunc | vglu | vred | vnorm | vquant | vi64r | vi64add | vcvt =>
    exact fun fl a ue t => exec_of_frameCommand hc rfl
  case rotFwd | rotFwdQ | rotInv | attKvq | attMerge => exact fun fl a ue t => exec_of_frameCommand hc rfl

end

section
/-!
SUPPORT, and the statement on DRAM refresh, held accesses, the two scrubs and the tier map: each event's equation where its conditions
hold.
-/

namespace Sys2Proof.Machine

/-! ### Refresh, held accesses and the scrub of the scratchpads (R101, R163, R178) -/

theorem dramRefreshWindow_opens {n d : Nat} {s : State} (hn : n < 12) (hd : d < 12) (hp : 3 ≤ pstate s) :
    exec (.dramRefreshWindow n d) s = .next (wr s (Reg.BDU_REFRESH_PHASE n) (200 * d)) :=
  if_pos ⟨hn, hd, hp⟩

theorem heldAccessServe_open {p : Nat} (ue : List Nat) {s : State} (ho : openNow s p = true) (hf : frozen s = false) :
    exec (.heldAccessServe p ue) s =
      (let due := s.rmt.held.filter (fun h => heldFor s h == some p || heldFor s h == none)
       .next (due.foldl (fun s h => serveHeld h s)
         (takeUe ue { s with rmt := { s.rmt with held := s.rmt.held.filter (fun h => !due.contains h) } }))) := by
  have hserve : ¬ ((!openNow s p) = true ∨ frozen s = true) := by simp [ho, hf]
  exact if_neg hserve

theorem scrubRow_enabled {n : Nat} (hits : List (Nat × Nat × Bool)) {s : State} (hn : n < 12)
    (he : rdb s (Reg.SPM_SCRUB_EN n) = true) (hf : frozen s = false) (hp : 3 ≤ pstate s) :
    exec (.scrubRow n hits) s =
      (let row := rd s (Reg.SPM_SCRUB_ROW n)
       let t := wr (hits.foldl (fun s h => scrubWord n row h s) s) (Reg.SPM_SCRUB_ROW n) ((row + 1) % 512)
       .next (if row = 511 then bump t (Reg.SPM_SCRUB_PASS_CNT n) 1 else t)) := by
  have hscrub : ¬ (12 ≤ n ∨ (!rdb s (Reg.SPM_SCRUB_EN n)) = true ∨ frozen s = true ∨ pstate s < 3) := by
    simp only [he, hf, Bool.not_true, Bool.false_eq_true, false_or]; omega
  exact if_neg hscrub

/-! ### The patrol of tier 2, moves, zeroing and the policy (R240, R242, R243, R244, R246) -/

theorem tier2Patrol_on (hits : List (Nat × Bool)) {s : State} (hh : rd s Reg.TIER_T2_SCRUB_HOURS ≠ 0) (hp : 3 ≤ pstate s) :
    exec (.tier2Patrol hits) s = .next (hits.foldl (fun s h => patrolHit h s) s) := by
  have hscrub : ¬ (rd s Reg.TIER_T2_SCRUB_HOURS = 0 ∨ pstate s < 3) := by omega
  exact if_neg hscrub

theorem moveCopyDone_copying {p page : Nat} {m : Move} {s : State}
    (hm : s.tier.moves.find? (fun m => m.part == p && m.page == page && !m.ready) = some m) :
    exec (.moveCopyDone p page) s =
      (let t := reportFrame (pageOf s p page).frame p (copyFrame (pageOf s p page).frame m.dst s)
       .next (bump { t with tier := { t.tier with
         moves := t.tier.moves.map (fun x => if x = m then { x with ready := true } else x) } }
         Reg.TIER_MIG_BYTE_CNT pageBytes)) := by
  show execMoveCopyDone p page s = _
  unfold execMoveCopyDone
  rw [hm]

theorem frameZeroingDone_ripe {f : Nat} {r : Release} {s : State}
    (hr : s.tier.release.find? (fun r => r.frame == f && r.ripe) = some r) :
    exec (.frameZeroingDone f) s =
      (let t := bump (zeroRange { s with tier := { s.tier with release := s.tier.release.filter (· != r) } } (f * pageBytes) pageBytes)
         Reg.TIER_MIG_BYTE_CNT pageBytes
       .next (refreshTier (if r.part < 32 then r.part else 0)
         (if tierOf f = 2 then { t with tier := { t.tier with t2Used := t.tier.t2Used.filter (· != f - 524288) } }
          else if (tierPart t r.part).quads.contains (frameQuad f) then
            modTier t r.part (fun x => { x with t1Free := insertAsc f x.t1Free })
          else t))) := by
  show execFrameZeroingDone f s = _
  unfold execFrameZeroingDone
  rw [hr]

theorem policyPass_auto {s : State} (ha : rdb s Reg.TIER_AUTO = true) :
    exec .policyPass s = .next ((List.range 32).foldl (fun s p =>
      if optsOut s p then s else coolPages p (requestMoves (policyMoves s p) s)) s) :=
  if_pos ha

end Sys2Proof.Machine

open Sys2Proof Sys2Proof.Machine

/-- Settles O55, an event's equation for each clause; MOVE_ABORT has no condition and is its meaning unfolded. -/
theorem tierCommandsComplete : Obligations.TierCommandsComplete := by
  intro s
  refine ⟨fun n d => dramRefreshWindow_opens, ?held, ?scrubRow, fun hits => tier2Patrol_on hits, ?copyDone, fun _ _ _ => rfl,
    ?zeroingDone, policyPass_auto⟩
  case held =>
    rintro p ue due ho hf rfl
    exact heldAccessServe_open ue ho hf
  case scrubRow =>
    rintro n hits row hn he hf hp rfl
    exact scrubRow_enabled hits hn he hf hp
  case copyDone =>
    rintro p page m t hm rfl
    exact moveCopyDone_copying hm
  case zeroingDone =>
    rintro f r t hr rfl
    exact frameZeroingDone_ripe hr

end

section
/-!
SUPPORT, and the statements on the frame commands: what VADD, VMUL and VGLU store and leave, a command of a context that may not issue, and
the commands that move data.
-/

namespace Sys2Proof.Machine

/-! ### A context that may not issue (R42, R125; log 41) -/

theorem frameCommandNow_waits {s : State} {G : Nat} (h : canIssue s G = false) (cls op : Nat) (fl : BitVec 4) (a : BitVec 112)
    (ue : List Nat) (eff : State → State) : frameCommandNow cls op G fl a ue eff s = .next s := frameCommand_waits h ..

theorem synCommand_waits {s : State} {G : Nat} (h : canIssue s G = false) (op : Nat) (fl : BitVec 4) (a : BitVec 112)
    (eff : State → State) : synCommand op G fl a eff s = .next s := if_neg (by simp [h])

/-! ### Scratchpad ranges and their elements (R15, R141) -/

@[simp] theorem f32s_length (s : State) (G off n : Nat) : (f32s s G off n).length = n := by simp [f32s, elems]

theorem spmAddr_add (G o i : Nat) : spmAddr G (o + i) = spmAddr G o + i := (Nat.add_assoc _ o i).symm

@[simp] theorem packF32_length (l : List F32) : (packF32 l).length = 4 * l.length := join_length 4 BitVec.toNat l

/-- Byte `b` of word `k` of a list of FP32 words. -/
theorem packF32_getD {l : List F32} {k b : Nat} (hb : b < 4) (hk : k < l.length) :
    (packF32 l).getD (4 * k + b) 0 = (leBytes 4 l[k].toNat).getD b 0 := join_getD 4 BitVec.toNat l k b hb hk

/-! ### VADD, VMUL and VGLU (R140, R141) -/

/-- The outputs of a VEC command of two operands, from the state in which it has been issued. -/
def binaryOut (f : F32 → F32 → F32) (G : Nat) (v : Vec) (s : State) : List F32 :=
  ((f32s s G v.src0 v.n).zipWith (map2 f) (f32s s G v.src1 v.n)).map (·.v)

@[simp] theorem binaryOut_length (f : F32 → F32 → F32) (G : Nat) (v : Vec) (s : State) : (binaryOut f G v s).length = v.n := by
  simp [binaryOut]

theorem binaryOut_getElem {f : F32 → F32 → F32} {G k : Nat} {v : Vec} {s : State} (hk : k < (binaryOut f G v s).length) :
    (binaryOut f G v s)[k] = (map2 f ((f32s s G v.src0 v.n).getD k none) ((f32s s G v.src1 v.n).getD k none)).v := by
  have hn : k < v.n := by simpa using hk
  simp [binaryOut, hn]

/-- The command's one write of memory is that of its packed outputs: reads, conditions and counters write none. -/
theorem doBinary_mem (f : F32 → F32 → F32) (G : Nat) (a : BitVec 112) (s : State) :
    (doBinary f G a s).mem = (writeMem s (spmAddr G (vecOf a).dst) (packF32 (binaryOut f G (vecOf a) s))).mem := by
  simp [doBinary, vecF32, binaryOut, writeMem]

/-- So what a byte reads as after the command, issued from `s`, is what it reads as after that write in `s`. -/
theorem memByte_binary (f : F32 → F32 → F32) (cls op G fl : Nat) (a : BitVec 112) (ue : List Nat) (s : State) (x : Nat) :
    let u := issueCmd cls op G fl a (takeUe ue s)
    memByte (showCtx G (doBinary f G a u)) x =
      memByte (writeMem s (spmAddr G (vecOf a).dst) (packF32 (binaryOut f G (vecOf a) u))) x := by
  simp [memByte, doBinary_mem, writeMem]

end Sys2Proof.Machine

open Sys2Proof Sys2Proof.Machine

/-- Settles O11: the three meanings are one frame command (`exec_of_frameCommand`), whose memory is that of one write of the packed outputs
(`memByte_binary`): the written bytes read back and every other byte reads as before (`memByte_writeMem_in`, `memByte_writeMem_out`). That
the store takes place at issue is the model's choice (log 41). -/
theorem vectorPairsStoreTheirOutput : Obligations.VectorPairsStoreTheirOutput := by
  rintro s _ t G fl a ue i op f hs hc hi rfl ht
  have hrun : exec i s = .next (showCtx G (doBinary f G a (issueCmd 3 op G fl.toNat a (takeUe ue s)))) := by
    obtain ⟨rfl, rfl, rfl⟩ | ⟨rfl, rfl, rfl⟩ | ⟨rfl, rfl, rfl⟩ := hi
    case inl | inr.inl | inr.inr => exact exec_of_frameCommand hc rfl rfl
  obtain rfl : _ = t := Host.Outcome.next.inj (hrun.symm.trans ht)
  refine ⟨fun b k hb hk hp => ?stored, fun x hx => ?kept⟩
  case stored =>
    rw [Nat.add_assoc, spmAddr_add] at hp ⊢
    rw [memByte_binary, memByte_writeMem_in _ _ hs.mem (by rw [packF32_length, binaryOut_length]; omega) hp,
      packF32_getD hb (by simpa using hk), binaryOut_getElem]
  case kept =>
    rw [memByte_binary, memByte_writeMem_out _ _ _ (by simpa using hx)]

/-- Settles O13: a SYN command, a command of an engine and a configuration command each wait in a context that may not issue
(`synCommand_waits`, `frameCommand_waits`, `frameCommandNow_waits`), which is the model's choice (log 41). -/
theorem frameCommandsWaitTheirTurn : Obligations.FrameCommandsWaitTheirTurn := by
  intro s G fl a ue hc
  refine ⟨?synNop, ?synWait, ?synBarrier, ?synSlotWait, ?synLoop, ?synLoopEnd, ?mxaCfg, fun par => ?mxaGemm, ?vecCfg, ?vadd, ?vmul,
    ?vscale, ?vfunc, ?vglu, ?vred, ?vnorm, ?vquant, ?vi64r, ?vi64add, ?vcvt, ?rotFwd, ?rotFwdQ, ?rotInv, ?attCfg, ?attKvq, ?attMerge,
    ?movFill, ?movCopy, ?movHcopy, ?kvPut, ?srtCfg, ?srtTopk, ?srtRoute, ?srtBin, ?srtReturn, ?srtCombine⟩
  case synNop => exact show execSynNop G fl a s = .next s from synCommand_waits hc ..
  case synWait => exact show execSynWait G fl a s = .next s from synCommand_waits hc ..
  case synBarrier => exact show execSynBarrier G fl a s = .next s from synCommand_waits hc ..
  case synSlotWait => exact show execSynSlotWait G fl a s = .next s from synCommand_waits hc ..
  case synLoop => exact show execSynLoop G fl a ue s = .next s from synCommand_waits hc ..
  case synLoopEnd => exact synCommand_waits hc ..
  case mxaCfg => exact show execMxaCfg G fl a ue s = .next s from frameCommandNow_waits hc ..
  case vecCfg => exact show execVecCfg G fl a ue s = .next s from frameCommandNow_waits hc ..
  case attCfg => exact show execAttCfg G fl a ue s = .next s from frameCommandNow_waits hc ..
  case srtCfg => exact show execSrtCfg G fl a ue s = .next s from frameCommandNow_waits hc ..
  case mxaGemm | vadd | vmul | vscale | vfunc | vglu | vred | vnorm | vquant | vi64r | vi64add | vcvt => exact frameCommand_waits hc ..
  case rotFwd | rotFwdQ | rotInv | attKvq | attMerge => exact frameCommand_waits hc ..
  case movFill | movCopy | movHcopy | kvPut => exact frameCommand_waits hc ..
  case srtTopk | srtRoute | srtBin | srtReturn | srtCombine => exact frameCommand_waits hc ..

/-- Settles O52: each meaning is a frame command with its own effect (`exec_of_frameCommand`); TIER_MIGRATE completes at issue and so has
its effect on the state in which it has left the scoreboard. The effect at issue is the model's choice (log 41). -/
theorem moveCommandsComplete : Obligations.MoveCommandsComplete := by
  intro s G hc
  refine ⟨?kvPut, ?movFill, ?movCopy, ?movHcopy, ?loessStep, ?rmtAtomic, ?tierLoad, ?tierStore, ?tierMigrate⟩
  case kvPut | movFill | movCopy | movHcopy | rmtAtomic => exact fun fl a ue t => exec_of_frameCommand hc rfl
  case loessStep => exact fun fl a ue crc t => exec_of_frameCommand hc rfl
  case tierLoad =>
    rintro fl a ue t rfl
    show execTierLoad G fl a ue s = _
    unfold execTierLoad
    exact frameCommand_issued hc ..
  case tierStore =>
    rintro fl a ue t rfl
    show execTierStore G fl a ue s = _
    unfold execTierStore
    exact frameCommand_issued hc ..
  case tierMigrate =>
    rintro fl a ue t rfl
    show execTierMigrate G fl a ue s = _
    unfold execTierMigrate
    exact frameCommandNow_issued hc ..

end

section
/-!
SUPPORT, and the statement on MOV_FILL: the bytes of a little-endian word, the bytes the command writes, and what a byte of memory reads as
after it.
-/

namespace Sys2Proof.Machine

/-! ### Fields of an operand block, and bytes of a little-endian word (R3) -/

/-- A field of an operand block is the same bits as a bit vector. -/
theorem fld_eq_extractLsb' (a : BitVec 112) (hi lo : Nat) : fld a hi lo = (a.extractLsb' lo (hi - lo + 1)).toNat :=
  (BitVec.extractLsb'_toNat ..).symm

theorem leBytes_getD {n b : Nat} (k : Nat) (hb : b < n) : (leBytes n k).getD b 0 = BitVec.ofNat 8 (k / 256 ^ b) := by
  induction n generalizing k b with
  | zero => omega
  | succ n ih =>
    cases b with
    | zero => simp [leBytes]
    | succ b =>
      rw [leBytes, List.getD_cons_succ, ih _ (by omega), Nat.div_div_eq_div_mul, Nat.pow_succ']

/-- Byte `b` of a word's little-endian bytes is the word's bits from `8 * b`. -/
theorem leBytes_toNat_getD {w n b : Nat} (v : BitVec w) (hb : b < n) : (leBytes n v.toNat).getD b 0 = v.extractLsb' (8 * b) 8 := by
  rw [leBytes_getD _ hb, BitVec.extractLsb', Nat.shiftRight_eq_div_pow, Nat.pow_mul]

/-! ### MOV_FILL (R170) -/

/-- The bytes MOV_FILL writes: PATTERN (bits 111:48), LEN8 (bits 23:0) times. -/
def fillBytes (a : BitVec 112) : Bytes :=
  joinBytes ((List.replicate (a.extractLsb' 0 24).toNat (a.extractLsb' 48 64)).map (fun v => leBytes 8 v.toNat))

@[simp] theorem fillBytes_length (a : BitVec 112) : (fillBytes a).length = 8 * (a.extractLsb' 0 24).toNat := by
  rw [fillBytes, join_length, List.length_replicate]

/-- Byte `b` of word `k` is byte `b` of PATTERN. -/
theorem fillBytes_getD {a : BitVec 112} {k b : Nat} (hb : b < 8) (hk : k < (a.extractLsb' 0 24).toNat) :
    (fillBytes a).getD (8 * k + b) 0 = (a.extractLsb' 48 64).extractLsb' (8 * b) 8 := by
  rw [fillBytes, join_getD 8 BitVec.toNat _ k b hb (by rwa [List.length_replicate]), List.getElem_replicate, leBytes_toNat_getD _ hb]

theorem doMovFill_eq_spmWrite (G : Nat) (a : BitVec 112) (s : State) :
    doMovFill G a s = spmWrite G (a.extractLsb' 24 24).toNat 3 6 (fillBytes a) s := by
  simp only [doMovFill, fillBytes, fld_eq_extractLsb', List.map_replicate]

/-- What a byte reads as after the command, issued from `s`, is what it reads as after one write of its bytes in `s`. -/
theorem memByte_movFill (cls op G fl : Nat) (a : BitVec 112) (ue : List Nat) (s : State) (x : Nat) :
    memByte (showCtx G (doMovFill G a (issueCmd cls op G fl a (takeUe ue s)))) x =
      memByte (writeMem s (spmAddr G (a.extractLsb' 24 24).toNat) (fillBytes a)) x := by
  simp [memByte, doMovFill_eq_spmWrite, writeMem]

end Sys2Proof.Machine

open Sys2Proof Sys2Proof.Machine

/-- Settles O12: the command is a frame command (`exec_of_frameCommand`) whose memory is that of one write of PATTERN, LEN8 times
(`memByte_movFill`): the written bytes read back and every other byte reads as before (`memByte_writeMem_in`, `memByte_writeMem_out`). That
the store takes place at issue is the model's choice (log 41). -/
theorem movFillWritesPattern : Obligations.MovFillWritesPattern := by
  intro s G fl a ue hs hc
  refine ⟨_, exec_of_frameCommand hc rfl rfl, fun k b hb hk hp => ?stored, fun x hx => ?kept⟩
  case stored =>
    rw [Nat.add_assoc, spmAddr_add] at hp ⊢
    rw [memByte_movFill, memByte_writeMem_in _ _ hs.mem (by rw [fillBytes_length]; omega) hp, fillBytes_getD hb hk]
  case kept =>
    rw [memByte_movFill, memByte_writeMem_out _ _ _ (by rwa [fillBytes_length])]

end

section
/-!
SUPPORT, and the statement on the routing and collective commands: a collective is a frame command that also waits for room in its job's
share.
-/

namespace Sys2Proof.Machine

/-- The rule of a collective whose job's share has room (R331): it starts its operation on the state in which it has been issued. -/
theorem exec_of_colCommand {i : Instr} {s t : State} {G op : Nat} {fl : BitVec 4} {a : BitVec 112} {ue : List Nat}
    (hc : canIssue s G = true) (hr : colRoom s G = true) (hi : exec i s = colCommand op G fl a ue s)
    (ht : issueCmd 8 op G fl.toNat a (takeUe ue s) = t) : exec i s = .next (showCtx G (startCol op G a t)) := by
  rw [hi, colCommand_issued hc hr, ht]

end Sys2Proof.Machine

open Sys2Proof Sys2Proof.Machine

/-- Settles O53: SRT_CFG sets its context's parameters (`exec_of_configCommand`), the other SRT commands are frame commands with their own
effects (`exec_of_frameCommand`), and a collective with room in its job's share starts its operation (`exec_of_colCommand`). The effect at
issue is the model's choice (log 41). -/
theorem routingCommandsComplete : Obligations.RoutingCommandsComplete := by
  intro s G hc
  refine ⟨?srtCfg, ?srtTopk, ?srtRoute, ?srtBin, ?srtReturn, ?srtCombine,
    fun hr => ⟨?colA2a, ?colA2av, ?colGather, ?colBcast, ?colRedscat, ?colAllred⟩⟩
  case srtCfg => exact fun fl a ue t => exec_of_configCommand hc rfl
  case srtTopk | srtRoute | srtBin | srtReturn | srtCombine => exact fun fl a ue t => exec_of_frameCommand hc rfl
  case colA2a | colA2av | colGather | colBcast | colRedscat | colAllred => exact fun fl a ue t => exec_of_colCommand hc hr rfl

end

section
/-!
SUPPORT, and the statement on the mailbox windows: each doorbell's equation where its count is in range, what a fetch and a datagram run,
and what the tier-map probe latches.
-/

namespace Sys2Proof.Machine

/-! ### Doorbells (R364, R448) -/

theorem mbSqTailWrite_inRange {mb tail : Nat} (entries : List Bytes) {s : State}
    (hr : subMod 16 (tail % 2 ^ 16) (mbox s mb).sqHead ≤ 64) :
    exec (.mbSqTailWrite mb tail entries) s = .next (modMbox s mb (fun b =>
      { b with sq := (entries.zip (List.range entries.length)).foldl
                       (fun t r => tput [] t ((b.sqTail + r.2) % 64) (padTo 64 r.1)) b.sq,
               sqTail := tail % 2 ^ 16 })) :=
  if_pos hr

theorem mbCqHeadWrite_inRange {mb v : Nat} {s : State}
    (hr : subMod 16 (v % 2 ^ 16) (mbox s mb).cqHead ≤ subMod 16 (mbox s mb).cqTail (mbox s mb).cqHead) :
    exec (.mbCqHeadWrite mb v) s = .next (modMbox s mb (fun b => { b with cqHead := v % 2 ^ 16 })) :=
  if_pos hr

theorem mbEvHeadWrite_inRange {mb v : Nat} {s : State}
    (hr : subMod 16 (v % 2 ^ 16) (mbox s mb).evHead ≤ subMod 16 (mbox s mb).evTail (mbox s mb).evHead) :
    exec (.mbEvHeadWrite mb v) s = .next (modMbox s mb (fun b => { b with evHead := v % 2 ^ 16 })) :=
  if_pos hr

theorem srvRingHead_bound {p ring : Nat} (head : Nat) {r : Ring} {s : State} (hn : ring < slotCount s p)
    (hr : ringOf s (slotBase s p + ring) = some r) : exec (.srvRingHead p ring head) s =
      .next (setRing (slotBase s p + ring) (some { r with head := head % 2 ^ 16 }) s) := by
  show execSrvRingHead p ring head s = _
  unfold execSrvRingHead
  dsimp only
  rw [if_neg (Nat.not_le.2 hn), hr]

/-! ### The fetch and datagrams (R449, R453, R455) -/

theorem mailboxFetch_found (io : HostIo) {m : Nat} {s : State}
    (hm : ((List.range 34).map (fun i => (s.kao.lastServed + 1 + i) % 34)).find? (fetchable s) = some m) :
    exec (.mailboxFetch io) s =
      (let x := padTo 64 (tget [] (mbox s m).sq ((mbox s m).sqHead % 64))
       .next (runEntry (numAt x 0 2) (entryOf (boxSource m) 0 x) io
         (modMbox { s with kao := { s.kao with lastServed := m } } m (fun b => { b with sqHead := (b.sqHead + 1) % 2 ^ 16 })))) := by
  show execMailboxFetch io s = _
  unfold execMailboxFetch
  rw [hm]

/-- A number in the first `n` bytes of a part of `b` is the number at that place of `b`. -/
theorem numAt_bytesAt_zero (b : Bytes) (o : Nat) {n k : Nat} (hk : k ≤ n) : numAt (bytesAt b o n) 0 k = numAt b o k := by
  simp only [numAt, bytesAt, List.drop_zero, List.take_take, Nat.min_eq_left hk]

/-- A valid datagram that is served passes the first check of its meaning. -/
theorem datagram_accepted {src : Nat} {d : Bytes} {s : State} (hd : datagramOk d = true)
    (hs : servedBox s (.mgmt src (numAt d 8 4) (d.drop 96)) = true) :
    ¬ ((!datagramOk d) = true ∨ (!servedBox s (.mgmt src (numAt d 8 4) (d.drop 96))) = true) := by
  simp [hd, hs]

theorem managementDatagram_new {src : Nat} {d : Bytes} (io : HostIo) {s : State} (hd : datagramOk d = true)
    (hs : servedBox s (.mgmt src (numAt d 8 4) (d.drop 96)) = true)
    (hk : s.kao.kept.find? (fun k => k.src == src && k.xid == numAt d 8 4) = none) (hr : s.kao.mgmtInflight < 16) :
    exec (.managementDatagram src d io) s = .next (runEntry (numAt d 32 2)
      (entryOf (.mgmt src (numAt d 8 4) (d.drop 96))
        (bnat ((numAt d 5 1 &&& 0x7C) != 0 || numAt d 6 2 != 0 || numAt d 16 16 != 0)) (bytesAt d 32 64)) io
      (keepXid src (numAt d 8 4) (subscribe src (numAt d 5 1) s))) := by
  show execManagementDatagram src d io s = _
  unfold execManagementDatagram
  dsimp only
  rw [if_neg (datagram_accepted hd hs), hk]
  dsimp only
  rw [if_neg (Nat.not_le.2 hr), numAt_bytesAt_zero d 32 (by decide)]

theorem managementDatagram_repeated {src : Nat} {d : Bytes} (io : HostIo) {k : KeptResponse} {s : State} (hd : datagramOk d = true)
    (hs : servedBox s (.mgmt src (numAt d 8 4) (d.drop 96)) = true)
    (hk : s.kao.kept.find? (fun k => k.src == src && k.xid == numAt d 8 4) = some k) (hb : k.bytes.isEmpty = false) :
    exec (.managementDatagram src d io) s = .next (emit s (.datagram src k.bytes)) := by
  show execManagementDatagram src d io s = _
  unfold execManagementDatagram
  dsimp only
  rw [if_neg (datagram_accepted hd hs), hk]
  dsimp only
  rw [if_neg (Bool.eq_false_iff.1 hb)]

/-! ### The tier-map probe (R255) -/

theorem tierProbeWrite_eq (p page : Nat) (s : State) : exec (.tierProbeWrite p page) s =
    (let n := rd s Reg.TIER_PROBE_PAGE_HI * 2 ^ 27 + page
     .next (if n < rangePages s p then
         wr (wr s Reg.TIER_PROBE_CUR (curHalf (pageOf s p n))) Reg.TIER_PROBE_NXT (nxtHalf (pageOf s p n))
       else wr (wr s Reg.TIER_PROBE_CUR 0) Reg.TIER_PROBE_NXT 0)) :=
  (apply_ite Host.Outcome.next _ _ _).symm

end Sys2Proof.Machine

open Sys2Proof Sys2Proof.Machine

/-- Settles O37, a command's equation for each clause. Two readings in it are the model's: the tail write carries the ring entries (log 19,
deduced), and a reserved bit of a datagram's header counts as a reserved field of its entry (log 20, presumed). That a repeated request is
answered with its kept response is R455. -/
theorem windowCommandsComplete : Obligations.WindowCommandsComplete := by
  intro s
  refine ⟨fun mb tail entries => mbSqTailWrite_inRange entries, fun mb v => mbCqHeadWrite_inRange, fun mb v => mbEvHeadWrite_inRange,
    fun p ring head r => srvRingHead_bound head, ?fetch, fun src d io => managementDatagram_new io,
    fun src d io k => managementDatagram_repeated io, fun p page => tierProbeWrite_eq p page s⟩
  case fetch =>
    rintro io m x hm rfl
    exact mailboxFetch_found io hm

end

section
/-!
SUPPORT, and the statements on the topology commands, the links, the CTL ring and the bodies of its messages: each command's equation
where its conditions hold.
-/

namespace Sys2Proof.Machine

/-! ### The topology map (R284, R286, R466) -/

theorem cmdTopoLoadMap_accepted {e : Entry} {io : HostIo} {u : State} {m : Bytes} (hj : anyJob u = false)
    (hin : inputOf e io (arg e 16 4) = some m) (hlen : m.length = arg e 16 4) (hmin : 160 ≤ m.length) (hsig : mapSigned u m = true)
    (hhdr : mapHeaderOk m = true) (hpkg : pkgId u < numAt m 8 1) (hpair : numAt m 5 1 ≠ 0 ∨ pairingOk u m = true) :
    cmdTopoLoadMap e io u = doneCmd (leBytes 8 (numAt m 16 8))
      (let t := wr (wr { u with fab := { u.fab with map := some m } } Reg.RTR_MAP_KIND (numAt m 5 1 + 1)) Reg.RTR_MAP_SEQ
         (numAt m 16 8)
       mapCheck (enterTopo (compareLinks (loadTickLinks
         (wr (wr t Reg.RTR_MAP_DIGEST ((sha256 m).toNat % 2 ^ 64)) Reg.RTR_VERIFIED 0))))) := by
  have hsize : ¬ (m.length ≠ arg e 16 4 ∨ m.length < 160) := by omega
  have hbefore : decide (numAt m 8 1 ≤ pkgId u) = false := decide_eq_false (Nat.not_le.2 hpkg)
  have hpairs : (numAt m 5 1 == 0 && !pairingOk u m) = false := by
    obtain h | h := hpair <;> simp [h]
  unfold cmdTopoLoadMap
  rw [if_neg (by simp [hj]), hin]
  dsimp only
  rw [if_neg hsize, if_neg (by simp [hsig]), if_neg (by simp only [hhdr, hbefore, hpairs]; decide)]

theorem cmdTopoVerify_pass (e : Entry) (io : HostIo) {u : State} (h : topoOk u = true) :
    cmdTopoVerify e io u = doneCmd [] { (wr u Reg.RTR_VERIFIED 1) with tick := { u.tick with mapChecked := true } } := if_pos h

theorem cmdTopoVerify_fail (e : Entry) (io : HostIo) {u : State} (h : ¬ topoOk u = true) :
    cmdTopoVerify e io u = ⟨0x0360, leBytes 12 (bitmap (failingLinks u)), [], wr u Reg.RTR_VERIFIED 0, none⟩ := if_neg h

theorem cmdLinkQuery_inRange {e : Entry} (io : HostIo) (u : State) (hl : arg e 8 1 ≤ 111) :
    cmdLinkQuery e io u = doneCmd (leBytes 4 (linkStatusWord u (arg e 8 1)) ++ leBytes 2 (rd u (Reg.LINK_DELAY (arg e 8 1))) ++
      leBytes 1 (rd u (Reg.LINK_FAR_PKG (arg e 8 1))) ++ leBytes 1 (rd u (Reg.LINK_FAR_LINK (arg e 8 1))) ++
      leBytes 8 (rd u (Reg.LINK_FEC_CORR_CNT (arg e 8 1))) ++ leBytes 8 (rd u (Reg.LINK_FEC_UE_CNT (arg e 8 1))) ++
      leBytes 4 (rd u (Reg.LINK_EDGE_REJECT_CNT (arg e 8 1)))) u :=
  if_neg (Nat.not_lt.2 hl)

theorem topoVerify_fetched {e : Entry} (io : HostIo) {s : State} (hf : fetched Row.topoVerify e s = true) :
    exec (.topoVerify e io) s = .next (if topoOk (startCmd e s) then
        complete e 0 [] [] { (wr (startCmd e s) Reg.RTR_VERIFIED 1) with
          tick := { (startCmd e s).tick with mapChecked := true } }
      else complete e 0x0360 (leBytes 12 (bitmap (failingLinks (startCmd e s)))) [] (wr (startCmd e s) Reg.RTR_VERIFIED 0)) := by
  by_cases h : topoOk (startCmd e s) = true
  · rw [if_pos h]
    exact runRow_done hf (cmdTopoVerify_pass e _ h)
  · rw [if_neg h]
    exact runRow_done hf (cmdTopoVerify_fail e _ h)

/-! ### The group table (R316) -/

theorem cmdGroupWrite_staged {e : Entry} {io : HostIo} {u : State} {b : Bytes} (hv : arg e 9 1 ≠ 0)
    (hin : inputOf e io (arg e 12 4) = some b) (hlen : b.length = arg e 12 4) (hmin : 18 ≤ b.length)
    (hnp : b.length = 16 + 2 * groupNp b) (hok : groupFieldsOk u b = true) (hown : groupAllowed u e (numAt b 0 1 % 32) = true)
    (huse : groupInUse u (arg e 8 1) = false) :
    cmdGroupWrite e io u = waitCmd .tick (wr { u with coll := { u.coll with
      stagedGroups := u.coll.stagedGroups ++ [(arg e 8 1, groupDigested b)] } } Reg.COLL_TABLE_PENDING 1) := by
  have hsize : ¬ (b.length ≠ arg e 12 4 ∨ b.length < 18 ∨ b.length ≠ 16 + 2 * groupNp b) := by omega
  unfold cmdGroupWrite
  dsimp only
  rw [if_neg hv, hin]
  dsimp only
  rw [if_neg hsize, if_neg (by simp [hok]), if_neg (by simp [hown]), if_neg (by simp [huse])]

theorem cmdGroupWrite_removed {e : Entry} (io : HostIo) {u : State} (hv : arg e 9 1 = 0) (hown : groupAllowed u e e.part = true)
    (huse : groupInUse u (arg e 8 1) = false) :
    cmdGroupWrite e io u = waitCmd .tick (wr { u with coll := { u.coll with
      stagedGroups := u.coll.stagedGroups ++ [(arg e 8 1, [])] } } Reg.COLL_TABLE_PENDING 1) := by
  unfold cmdGroupWrite
  dsimp only
  rw [if_pos hv, if_neg (by simp [hown]), if_neg (by simp [huse])]

/-! ### The tick's parameters and the slice binding (R426, R466) -/

theorem cmdTickConfig_idle {e : Entry} (io : HostIo) {u : State} (hlo : 80 ≤ arg e 8 4 % 4096) (hhi : arg e 8 4 % 4096 ≤ 2560)
    (hj : anyJob u = false) :
    cmdTickConfig e io u = doneCmd []
      (wrb (wrb (wrb (wr (wr u Reg.TICK_FRAME_SLOTS (arg e 8 4 % 4096)) Reg.TICK_MASTER_PRIO (arg e 8 4 / 2 ^ 16))
        Reg.TICK_MASTER_ELIG (bit (arg e 8 4) 20)) Reg.TICK_SYNC_IN_EN (bit (arg e 8 4) 21))
        Reg.TICK_SYNC_OUT_EN (bit (arg e 8 4) 22)) := by
  unfold cmdTickConfig
  dsimp only
  rw [if_neg (by omega), if_neg (by simp [hj])]

theorem cmdSliceBind_bound {e : Entry} {io : HostIo} {u : State} {b : Bytes} (hin : inputOf e io (arg e 24 4) = some b)
    (hlen : b.length = arg e 24 4) (hmin : 2 * arg e 10 2 ≤ b.length) (hj : (part u e.part).job.busy = false)
    (hn : arg e 10 2 ≠ 0) (hsl : arg e 8 1 ≠ 255) (hmax : arg e 10 2 ≤ 144) (hr : arg e 12 2 < arg e 10 2)
    (hc : commonRange Row.sliceBind e = true)
    (hms : (memberList b (arg e 10 2)).any (fun m => m.1 == 255 || decide (31 < m.2)) = false)
    (hdup : (memberList b (arg e 10 2)).eraseDups.length = arg e 10 2)
    (hself : (memberList b (arg e 10 2))[arg e 12 2]? = some (pkgId u, e.part))
    (hother : (otherParts u e.part).any (fun q => sliceOf u q == arg e 8 1) = false)
    (hq : quarantined u (arg e 8 1) = false) :
    cmdSliceBind e io u =
      (let d := (sha256 (b.take (2 * arg e 10 2))).toNat % 2 ^ 64
       doneCmd (leBytes 8 d)
         (modPart u e.part (fun q => { q with slice := some ⟨arg e 8 1, arg e 12 2, memberList b (arg e 10 2), d⟩ }))) := by
  have hsize : ¬ (b.length ≠ arg e 24 4 ∨ b.length < 2 * arg e 10 2) := by omega
  have hfields : ¬ (arg e 8 1 = 255 ∨ 144 < arg e 10 2 ∨ arg e 10 2 ≤ arg e 12 2 ∨ (!commonRange Row.sliceBind e) = true ∨
      (memberList b (arg e 10 2)).any (fun m => m.1 == 255 || decide (31 < m.2)) = true ∨
      (memberList b (arg e 10 2)).eraseDups.length ≠ arg e 10 2 ∨
      (memberList b (arg e 10 2))[arg e 12 2]? ≠ some (pkgId u, e.part)) := by
    simp only [hms, hc, hdup, hself, Bool.not_true, Bool.false_eq_true, ne_eq, not_true_eq_false, or_false]
    omega
  unfold cmdSliceBind
  dsimp only
  rw [hin]
  dsimp only
  rw [if_neg hsize, if_neg (by simp [hj]), if_neg hn, if_neg hfields, if_neg (by simp [hother, hq])]

theorem cmdSliceBind_unbound {e : Entry} {io : HostIo} {u : State} {b : Bytes} (hin : inputOf e io (arg e 24 4) = some b)
    (hlen : b.length = arg e 24 4) (hj : (part u e.part).job.busy = false) (hn : arg e 10 2 = 0) :
    cmdSliceBind e io u = doneCmd (leBytes 8 0) (modPart u e.part (fun q => { q with slice := none })) := by
  have hsize : ¬ (b.length ≠ arg e 24 4 ∨ b.length < 2 * arg e 10 2) := by omega
  unfold cmdSliceBind
  dsimp only
  rw [hin]
  dsimp only
  rw [if_neg hsize, if_neg (by simp [hj]), if_pos hn]

/-! ### Service and retraining of a link (R261, R262) -/

theorem linkRetrain_may {l : Nat} {s : State} (h : mayRetrain s l = true) : exec (.linkRetrain l) s =
    .next (startTrain l (wr (bump s (Reg.LINK_RETRAINS l) 1) (Reg.LINK_CTRL_RETRAIN l) 0)) :=
  if_pos h

theorem linkDisable_set {l : Nat} (s : State) (hl : l < 96) : exec (.linkDisable l true) s =
    (let u := wrb s (Reg.LINK_CTRL_DISABLE l) true
     let t := leaveService l 7 (effectiveNow u) u
     .next (if rd t (Reg.LINK_STATE l) = 0 then t else wr t (Reg.LINK_STATE l) 1)) := by
  show execLinkDisable l true s = _
  rw [execLinkDisable, if_neg (Nat.not_le.2 hl)]
  exact if_pos rfl

theorem linkDisable_cleared {l : Nat} (s : State) (hl : l < 96) : exec (.linkDisable l false) s =
    (let t := wrb s (Reg.LINK_CTRL_DISABLE l) false
     .next (if rd t (Reg.LINK_STATE l) = 1 ∧ dieReady t l ∧ fabricTrains t then startTrain l t else t)) := by
  show execLinkDisable l false s = _
  rw [execLinkDisable, if_neg (Nat.not_le.2 hl)]
  exact (if_neg Bool.false_ne_true).trans (apply_ite Host.Outcome.next _ _ _).symm

theorem retrainTimer_may {l : Nat} {s : State} (h : mayRetrain s l = true)
    (hn : rd s (Reg.LINK_RETRAINS l) < rd s Reg.RTR_RETRAIN_MAX) :
    exec (.retrainTimer l) s = .next (startTrain l (bump s (Reg.LINK_RETRAINS l) 1)) :=
  if_pos ⟨h, hn⟩

/-! ### The identity and the errors of a link (R261, R285) -/

theorem identSymbol_trained {l : Nat} (sym : IdentSym) {s : State} (hl : l < 96) (hlo : 4 ≤ rd s (Reg.LINK_STATE l))
    (hhi : rd s (Reg.LINK_STATE l) ≤ 6) : exec (.identSymbol l true sym) s =
      (let t := modLink s l (fun x => { x with farDigest := sym.digest % 2 ^ 64 })
       let t := wr (wr (wr t (Reg.LINK_FAR_PKG l) sym.pkg) (Reg.LINK_FAR_LINK l) sym.link) (Reg.LINK_IDENT_VALID l) 1
       let t := wrb t (Reg.LINK_MATCH l) (rd t Reg.RTR_MAP_KIND != 0 && identMatches t l)
       .next (if isUp t l && rd t Reg.RTR_MAP_KIND != 0 && !identMatches t l then
         enterMismatch l (leaveService l 0 (effectiveNow t) t) else t)) := by
  have hserves : ¬ (96 ≤ l ∨ rd s (Reg.LINK_STATE l) < 4 ∨ 6 < rd s (Reg.LINK_STATE l)) := by omega
  show execIdentSymbol l true sym s = _
  rw [execIdentSymbol, if_neg hserves, if_neg (by decide)]
  exact (apply_ite Host.Outcome.next _ _ _).symm

/-- A link whose lanes are powered takes note of a lost lane. -/
theorem laneLockLoss_on {l : Nat} (lane : Nat) (fecAlign : Bool) {s : State} (hl : l < 96) (hs : 2 ≤ rd s (Reg.LINK_STATE l)) :
    exec (.laneLockLoss l lane fecAlign) s = .next (if fecAlign then
        leaveService l 2 (effectiveNow s) (linkError (Reg.LINK_ERR_FEC_ALIGN l) 1 l 1 true s)
      else
        let t := wr s (if lane = 0 then Reg.LINK_LANE0_LOCK l else Reg.LINK_LANE1_LOCK l) 0
        leaveService l 1 (effectiveNow t) (linkError (Reg.LINK_ERR_LOCK_LOSS l) 0 l 1 true t)) := by
  have hon : ¬ (96 ≤ l ∨ rd s (Reg.LINK_STATE l) < 2) := by omega
  show execLaneLockLoss l lane fecAlign s = _
  rw [execLaneLockLoss, if_neg hon]
  exact (apply_ite Host.Outcome.next _ _ _).symm

theorem fecUeLimit_counted {l count : Nat} (s : State) (hl : l < 96) (hc : count ≠ 0) : exec (.fecUeLimit l count) s =
    (let t := linkError (Reg.LINK_ERR_FEC_UE l) 2 l 1 true (bump s (Reg.LINK_FEC_UE_CNT l) count)
     .next (if rd t Reg.RTR_UE_LIMIT < count then leaveService l 3 (effectiveNow t) t else t)) := by
  have hcounts : ¬ (96 ≤ l ∨ count = 0) := by omega
  show execFecUeLimit l count s = _
  rw [execFecUeLimit, if_neg hcounts]
  exact (apply_ite Host.Outcome.next _ _ _).symm

/-! ### Training (R260) and the probe of the slot maps (R289) -/

theorem trainingStepDone_link {l : Nat} (s : State) (hl : l < 96) :
    exec (.trainingStepDone l) s = .next (trainingStep l s) :=
  congrArg _ (if_pos hl)

/-- The reasons are those of Table 11-3 for the step of the state in which the link is. -/
theorem trainingStepTimeout_inState {l n : Nat} {s : State} (hl : l < 96) :
    rd s (Reg.LINK_STATE l) = n → exec (.trainingStepTimeout l) s = match n with
      | 2 => .next (trainFault l (if (linkX s l).laneOk then 2 else 1) s)
      | 3 => .next (trainFault l 4 s)
      | 4 => .next (trainFault l 1 s)
      | 5 => .next (trainFault l 5 s)
      | _ => .next s := by
  rintro rfl
  exact if_neg (Nat.not_le.2 hl)

theorem rtrProbeWrite_held {l slot : Nat} (ingress : Bool) {s : State} (hl : l < 96) (hp : heldPos s l ≠ 15)
    (hs : slot < s.tick.len) : exec (.rtrProbeWrite l ingress slot) s =
      (let t := wrb s Reg.RTR_PROBE_VALID true
       .next (match slotAt s ingress (bundleOf s l) (heldPos s l) slot with
         | some e => wr (wr t Reg.RTR_PROBE_KIND 1) Reg.RTR_PROBE_SLICE e.slice
         | none => wr (wr t Reg.RTR_PROBE_KIND 0) Reg.RTR_PROBE_SLICE 0)) := by
  have hok : (heldPos s l != 15 && decide (slot < s.tick.len)) = true := by simp [hp, hs]
  show execRtrProbeWrite l ingress slot s = _
  unfold execRtrProbeWrite
  simp only [if_pos hl, hok, if_true]
  cases slotAt s ingress (bundleOf s l) (heldPos s l) slot <;> rfl

/-! ### The CTL ring, acknowledgements and repeats (R291, R292, R354) -/

/-- Kaolin serves its ring and its repeats while it runs and frames are kept. -/
theorem not_down_or_not_keepsFrames {s : State} (hd : s.kao.down = false) (hk : keepsFrames s = true) :
    ¬ (s.kao.down = true ∨ (!keepsFrames s) = true) := by
  simp [hd, hk]

theorem ctlMessageReceive_front {k : Packet} {r : List Packet} {s : State} (hd : s.kao.down = false) (hk : keepsFrames s = true)
    (hr : s.fab.ring = k :: r) (hm : messageOk k.bytes = true) : exec .ctlMessageReceive s =
      .next (applyMessage (numAt k.bytes 0 2) (headerOf k.src k.bytes) (k.bytes.drop 32)
        { s with fab := { s.fab with ring := r } }) := by
  show execCtlMessageReceive s = _
  rw [execCtlMessageReceive, if_neg (not_down_or_not_keepsFrames hd hk), hr]
  exact if_pos hm

theorem applyAck_answers {h : CtlHdr} (st : Nat) {o : CtlOut} {s : State}
    (ho : s.fab.unanswered.find? (fun o => o.dst == h.srcPkg && o.mseq == h.replyTo) = some o) : applyAck h st s =
      (if o.mtype = 0x23 ∧ st = 0 then goAcked o.part h (answered h s)
       else if o.mtype = 0x32 ∧ st ≠ 0 then assignFailed o.part o.body st (answered h s) else answered h s) := by
  unfold applyAck
  rw [ho]

theorem messageRetry_served {s : State} (hd : s.kao.down = false) (hk : keepsFrames s = true) : exec .messageRetry s =
    .next (s.fab.unanswered.foldl (fun s o =>
      if (servingMsg o.mtype || sessionMsg o.mtype) && decide (16 ≤ o.repeats) then giveUp o s else repeatMsg o s) s) :=
  if_neg (not_down_or_not_keepsFrames hd hk)

end Sys2Proof.Machine

open Sys2Proof Sys2Proof.Machine

/-- Settles O33: a fetched command completes with its handler's outcome, or waits as the handler says (`runRow_done`, `runRow_wait`).
That an unbinding answers digest 0 is the model's choice: R426 states no digest for it. -/
theorem topologyCommandsComplete : Obligations.TopologyCommandsComplete := by
  rintro e io s u rfl
  refine ⟨?loadMap, topoVerify_fetched io, fun hf hl => runRow_done hf (cmdLinkQuery_inRange _ _ hl), ?groupStaged, ?groupRemoved,
    fun hf hlo hhi hj => runRow_done hf (cmdTickConfig_idle _ hlo hhi hj), ?bound, ?unbound⟩
  case loadMap =>
    intro m hf hj hin hlen hmin hsig hhdr hpkg hpair
    exact runRow_done hf (cmdTopoLoadMap_accepted hj hin hlen hmin hsig hhdr hpkg hpair)
  case groupStaged =>
    intro b hf hv hin hlen hmin hnp hok hown huse
    exact runRow_wait hf (cmdGroupWrite_staged hv hin hlen hmin hnp hok hown huse)
  case groupRemoved =>
    intro hf hv hown huse
    exact runRow_wait hf (cmdGroupWrite_removed _ hv hown huse)
  case bound =>
    intro b hf hin hlen hmin hj hn hsl hmax hr hms hdup hself hother hq
    obtain ⟨-, -, -, -, hc⟩ := fetched_parts hf
    exact runRow_done hf (cmdSliceBind_bound hin hlen hmin hj hn hsl hmax hr hc hms hdup hself hother hq)
  case unbound =>
    intro b hf hin hlen hj hn
    exact runRow_done hf (cmdSliceBind_unbound hin hlen hj hn)

/-- Settles O38, a command's equation for each clause; LINK_OUT and DETOUR_TABLE_REBUILD have no condition and are their meanings
unfolded. -/
theorem linkCommandsComplete : Obligations.LinkCommandsComplete := by
  intro s l
  refine ⟨rfl, linkRetrain_may, linkDisable_set s, linkDisable_cleared s, fun sym => identSymbol_trained sym,
    fun lane => laneLockLoss_on lane true, fun lane => laneLockLoss_on lane false, fun count => fecUeLimit_counted s,
    trainingStepDone_link s, trainingStepTimeout_inState, trainingStepTimeout_inState, trainingStepTimeout_inState,
    trainingStepTimeout_inState, retrainTimer_may, rfl, fun ingress slot => rtrProbeWrite_held ingress⟩

/-- Settles O48, a command's equation for each clause. -/
theorem messageRingComplete : Obligations.MessageRingComplete := by
  intro s
  exact ⟨fun k r => ctlMessageReceive_front, fun h st o ho => congrArg _ (applyAck_answers st ho), messageRetry_served⟩

/-- Settles O49: `applyMessage` and the row of a message type call one function of the message's meaning, on the same fields. -/
theorem messageBodiesMatchRows : Obligations.MessageBodiesMatchRows := by
  intro h b s
  exact ⟨rfl, rfl, rfl, rfl, rfl, rfl, rfl, rfl, rfl, rfl, rfl, rfl, rfl, rfl, rfl, rfl, rfl, rfl, rfl, rfl, rfl, rfl, rfl⟩

end

section
/-!
SUPPORT, and the statements on the step itself and on what every mailbox command shares: the order of the checks, the row an opcode names,
completions, doorbells, fetches, and what a frozen package serves.
-/

namespace Sys2Proof.Machine

/-! ### The checks of R457 in order -/

/-- Where nothing turns the row away before the checks, they run on the state that counts the command as fetched. -/
theorem runRow_checked {r : CmdRow} (h : Entry → HostIo → State → CmdOut) {e : Entry} (io : HostIo) {s : State}
    (hb : servedBox s e.src = true) (hf : frozen s = false) (hh : rdb s Reg.CAL_HUB_FAILED = false) (hp : 2 ≤ pstate s) :
    runRow r h e io s = .next (runFetched r h e io (startCmd e s)) := by
  have hup : ¬ pstate s = 1 := by omega
  simp only [runRow, mailboxCommand, hb, hf, hh, beq_eq_false_iff_ne.2 hup, if_true, Bool.or_false, Bool.false_and, Bool.false_eq_true,
    if_false]

/-- The first check that fails completes the command. -/
theorem runFetched_refused {r : CmdRow} (h : Entry → HostIo → State → CmdOut) {e : Entry} (io : HostIo) {s : State} {st : Nat}
    (hc : preChecks r e s = some st) : runFetched r h e io s = complete e st [] [] s := by
  rw [runFetched, hc]

/-- Past the checks, a shared range that is not kept completes the command with 0x0102. -/
theorem runFetched_outOfRange {r : CmdRow} {h : Entry → HostIo → State → CmdOut} {e : Entry} {io : HostIo} {s : State}
    (hc : preChecks r e s = none) (hr : commonRange r e = false) (hop : r.op ≠ 0x0606)
    (h3 : (h e (gateIo s r.op e io) s).status ≠ 0x0103) (h4 : (h e (gateIo s r.op e io) s).status ≠ 0x0104) :
    runFetched r h e io s = complete e 0x0102 [] [] s := by
  have ho : checkedRun r h e (gateIo s r.op e io) s = refuseCmd 0x0102 s := if_neg (by simp [hr, hop, h3, h4])
  rw [runFetched, hc]
  dsimp only
  rw [ho]
  rfl

theorem preChecks_source {r : CmdRow} {e : Entry} (s : State) (h : sourceOk r e = false) : preChecks r e s = some 0x0400 := by
  simp [preChecks, h]

theorem preChecks_reserved {r : CmdRow} {e : Entry} (s : State) (h : sourceOk r e = true) (hr : reservedOk r e = false) :
    preChecks r e s = some 0x0101 := by
  simp [preChecks, h, hr]

theorem preChecks_partition {r : CmdRow} {e : Entry} {s : State} (h : sourceOk r e = true) (hr : reservedOk r e = true)
    (hp : partitionOk r e s = false) : preChecks r e s = some 0x0105 := by
  simp [preChecks, h, hr, hp]

theorem preChecks_authority {r : CmdRow} {e : Entry} {s : State} (h : sourceOk r e = true) (hr : reservedOk r e = true)
    (hp : partitionOk r e s = true) (ha : authorityOk r e s = false) : preChecks r e s = some 0x0400 := by
  simp [preChecks, h, hr, hp, ha]

/-! ### The row of an opcode (R457 step 1) -/

theorem runEntry_unknown {op : Nat} {e : Entry} (io : HostIo) {s : State} (hop : handlers.all (fun h => h.1.op != op) = true)
    (hb : servedBox s e.src = true) : runEntry op e io s = complete e 0x0100 [] [] (startCmd e s) := by
  have hnone : handlers.find? (fun h => h.1.op == op) = none := by
    rw [List.find?_eq_none]
    intro h hm
    simpa using List.all_eq_true.1 hop h hm
  unfold runEntry
  rw [hnone]
  exact if_pos hb

/-! ### Completions (R451) -/

/-- A mailbox after one of its commands has completed. -/
def completedBox (e : Entry) (st : Nat) (res : Bytes) (b : Mailbox) : Mailbox :=
  { b with cq := tput [] b.cq (b.cqTail % 64) (completionEntry e.tag st res), cqTail := (b.cqTail + 1) % 2 ^ 16,
           inflight := b.inflight - 1 }

theorem completionEntry_ne_nil (tag st : Nat) (res : Bytes) : completionEntry tag st res ≠ [] := by
  simp [completionEntry, leBytes]

theorem completedBox_ne_zero (e : Entry) (st : Nat) (res : Bytes) (b : Mailbox) : completedBox e st res b ≠ Mailbox.zero := by
  intro h
  exact tput_ne_nil (completionEntry_ne_nil e.tag st res) b.cq (b.cqTail % 64) (congrArg Mailbox.cq h)

/-- The mailbox of a modified window is its mailbox modified, unless that leaves the mailbox as after reset. -/
theorem mbox_modMbox_self {s : State} {m : Nat} {f : Mailbox → Mailbox} (h : f (mbox s m) ≠ Mailbox.zero) :
    mbox (modMbox s m f) m = f (mbox s m) := tget_tput_eq h s.mbs m

theorem mbox_modMbox_ne (s : State) {m k : Nat} (f : Mailbox → Mailbox) (h : k ≠ m) : mbox (modMbox s m f) k = mbox s k :=
  tget_tput_ne _ _ _ _ h

/-- A command of a PF or VF mailbox completes in its window's ring, with the window's vector unless NO_INT. -/
theorem complete_ring {e : Entry} (st : Nat) (res inl : Bytes) (s : State) (hm : isMgmt e = false) :
    complete e st res inl s =
      (let t := modMbox (bump s Reg.KAO_CMD_CNT 1) (srcBox e.src) (completedBox e st res)
       if e.noInt then t else msix t (srcBox e.src) 0) := by
  unfold complete
  cases hs : e.src with
  | mgmt a x i => simp [isMgmt, hs] at hm
  | pf x => rfl
  | vf p => rfl

/-- Outside registers, mailboxes and outputs such a completion changes nothing. -/
theorem complete_ring_keeps {e : Entry} (st : Nat) (res inl : Bytes) (s : State) (hm : isMgmt e = false) :
    Keeps (maskOf [.regs, .mbs, .out]) s (complete e st res inl s) := by
  have hbox : Keeps (maskOf [.regs, .mbs, .out]) s
      (modMbox (bump s Reg.KAO_CMD_CNT 1) (srcBox e.src) (completedBox e st res)) :=
    modMbox_keeps (hs := bump_keeps (h := .refl _ _) (hw := ⟨by decide⟩) ..) (hw := ⟨by decide⟩) ..
  rw [complete_ring st res inl s hm]
  exact ite_keeps hbox (msix_keeps (hs := hbox) (hw := ⟨by decide⟩) ..)

theorem mbox_complete_self {e : Entry} (st : Nat) (res inl : Bytes) (s : State) (hm : isMgmt e = false) :
    mbox (complete e st res inl s) (srcBox e.src) = completedBox e st res (mbox s (srcBox e.src)) := by
  have hbox : mbox (modMbox (bump s Reg.KAO_CMD_CNT 1) (srcBox e.src) (completedBox e st res)) (srcBox e.src) =
      completedBox e st res (mbox s (srcBox e.src)) := mbox_modMbox_self (completedBox_ne_zero _ _ _ _)
  rw [complete_ring st res inl s hm]
  dsimp only
  split
  · exact hbox
  · exact hbox

theorem mbox_complete_ne {e : Entry} (st : Nat) (res inl : Bytes) (s : State) (hm : isMgmt e = false) {k : Nat}
    (hk : k ≠ srcBox e.src) : mbox (complete e st res inl s) k = mbox s k := by
  have hbox : mbox (modMbox (bump s Reg.KAO_CMD_CNT 1) (srcBox e.src) (completedBox e st res)) k = mbox s k :=
    mbox_modMbox_ne _ _ hk
  rw [complete_ring st res inl s hm]
  dsimp only
  split
  · exact hbox
  · exact hbox

theorem complete_out {e : Entry} (st : Nat) (res inl : Bytes) (s : State) (hm : isMgmt e = false) :
    (complete e st res inl s).out = if e.noInt then s.out else .msix (srcBox e.src) 0 :: s.out := by
  rw [complete_ring st res inl s hm]
  cases e.noInt <;> rfl

/-! ### Windows that hold nothing to fetch (R449), and what a frozen package serves (R468) -/

theorem fetchable_eq_false {s : State} {m : Nat}
    (h : servedBox s (boxSource m) = false ∨ (mbox s m).sqHead = (mbox s m).sqTail ∨ 16 ≤ (mbox s m).inflight ∨
      64 ≤ (mbox s m).inflight + subMod 16 (mbox s m).cqTail (mbox s m).cqHead) : fetchable s m = false := by
  unfold fetchable
  obtain h | h | h | h := h
  · simp [h]
  · simp [h]
  · simp [Nat.not_lt.2 h]
  · simp [Nat.not_lt.2 h]

theorem servedBox_frozen (e : Entry) {s : State} (hf : frozen s = true) (hc : s.pwr.calSupply = true) (hp : 1 ≤ pstate s) :
    servedBox s e.src = isMgmt e := by
  unfold servedBox isMgmt
  cases e.src with
  | pf x => simp [hf]
  | vf p => simp [hf]
  | mgmt a x i => simp [hf, hc, hp]

end Sys2Proof.Machine

open Sys2Proof Sys2Proof.Machine

/-- Settles O1: `step` matches on the queue. -/
theorem stepRunsFrontCommand : Obligations.StepRunsFrontCommand := by
  refine ⟨fun c s => rfl, fun c q s hq => ?_⟩
  unfold step
  rw [hq]
  rfl

/-- Settles O2. -/
theorem emptyQueueIdles : Obligations.EmptyQueueIdles := by
  intro s hq
  unfold step
  rw [hq]

/-- Settles O14: the checks run on the started command (`runRow_checked`), and `preChecks` answers the first that fails. That the shared
ranges of R457 step 8 come after DMA statuses of the row is the model's order (log 15, deduced; log 35 for JOB_START's list). -/
theorem checksComeInOrder : Obligations.ChecksComeInOrder := by
  rintro r h e io s u rfl hb hf hh hp
  rw [runRow_checked h io hb hf hh hp]
  have refused {st : Nat} (hc : preChecks r e (startCmd e s) = some st) :
      Host.Outcome.next (runFetched r h e io (startCmd e s)) =
        (.next (complete e st [] [] (startCmd e s)) : Host.Outcome State Fault Refusal) :=
    congrArg _ (runFetched_refused h io hc)
  exact ⟨fun h1 => refused (preChecks_source _ h1), fun h1 h2 => refused (preChecks_reserved _ h1 h2),
    fun h1 h2 h3 => refused (preChecks_partition h1 h2 h3), fun h1 h2 h3 h4 => refused (preChecks_authority h1 h2 h3 h4),
    fun hc hr hop h3 h4 => congrArg _ (runFetched_outOfRange hc hr hop h3 h4)⟩

/-- Settles O15: looking the opcode up in `handlers` finds the row, whose run the command's meaning is; no row, no meaning. JOB_START that
comes as an entry carries no self-test results (log 17). -/
theorem entryRunsItsRow : Obligations.EntryRunsItsRow := by
  intro e io s
  exact ⟨⟨rfl, rfl, rfl, rfl, rfl, rfl, rfl, rfl, rfl, rfl, rfl, rfl⟩,
    ⟨rfl, rfl, rfl, rfl, rfl, rfl, rfl, rfl, rfl, rfl, rfl, rfl, rfl⟩, ⟨rfl, rfl, rfl, rfl, rfl⟩, fun op => runEntry_unknown io⟩

/-- Settles O16: the completion modifies one mailbox (`complete_ring`), in whose ring it stores one entry that is not empty. -/
theorem completionWrittenToRing : Obligations.CompletionWrittenToRing := by
  intro e st res inl s hm
  have hkeeps : ∀ a : Area, a ≠ .regs → a ≠ .mbs → a ≠ .out → a.same s (complete e st res inl s) := by
    intro a hregs hmbs hout
    exact (complete_ring_keeps st res inl s hm).same a (maskOf_bit (by simp [hregs, hmbs, hout]))
  have hself := mbox_complete_self st res inl s hm
  dsimp only
  rw [hself]
  exact ⟨tget_tput_eq (completionEntry_ne_nil _ _ _) _ _, fun k hk => tget_tput_ne _ _ _ _ hk, rfl, rfl, rfl, rfl, rfl,
    fun k hk => mbox_complete_ne st res inl s hm hk, complete_out st res inl s hm, hkeeps⟩

/-- Settles O17: a window that is not served, is empty, has 16 commands in flight or has no room is not fetchable, and the round robin
looks at windows below 34 only. -/
theorem fetchNeedsRoom : Obligations.FetchNeedsRoom := by
  intro io s h
  have hno : ((List.range 34).map (fun i => (s.kao.lastServed + 1 + i) % 34)).find? (fetchable s) = none := by
    rw [List.find?_eq_none]
    intro m hm
    obtain ⟨i, -, rfl⟩ := List.mem_map.1 hm
    rw [fetchable_eq_false (h _ (Nat.mod_lt _ (by decide)))]
    exact Bool.false_ne_true
  show execMailboxFetch io s = _
  unfold execMailboxFetch
  rw [hno]

/-- Settles O18: each doorbell's range check is an `if` whose other branch the hypothesis picks. -/
theorem rejectedDoorbellsSetError : Obligations.RejectedDoorbellsSetError := by
  intro mb v es s
  exact ⟨fun h => if_neg (Nat.not_le.2 h), fun h => if_neg (Nat.not_le.2 h), fun h => if_neg (Nat.not_le.2 h)⟩

/-- Settles O19: a frozen package still serves the management mailbox, where Caliche turns every other opcode away; a PF or VF mailbox is
not served. -/
theorem frozenServesFour : Obligations.FrozenServesFour := by
  intro r h e io s hf hc hp
  have hb : servedBox s e.src = isMgmt e := servedBox_frozen e hf hc hp
  refine ⟨fun hm h1 h2 h3 h4 => ?mgmt, fun hm => ?host⟩
  case mgmt =>
    have hserves : calicheServes r.op = false := by simp [calicheServes, h1, h2, h3, h4]
    simp [runRow, mailboxCommand, hb, hm, hf, hserves]
  case host => simp [runRow, mailboxCommand, hb, hm]

end

section
/-!
SUPPORT, and the statements on the device, partition and job commands: each handler's outcome where its conditions hold.
-/

namespace Sys2Proof.Machine

/-! ### The device commands (R461, R482, R519, R533) -/

/-- READY by DEV_SET_POWER_STATE is accepted in READY, or in SERVICE with a verified map of KIND 1 and the tick locked. -/
def mayBeReady (s : State) : Prop :=
  pstate s = 7 ∨ (pstate s = 6 ∧ rd s Reg.RTR_MAP_KIND = 1 ∧ rdb s Reg.RTR_VERIFIED = true ∧ rdb s Reg.TICK_LOCKED = true ∧
    rdb s Reg.SEQ_DOWN = false)

theorem cmdDevSetPowerState_accepted {e : Entry} (io : HostIo) {u : State} {n : Nat}
    (hn : n = (if arg e 12 4 = 0xFFFFFFFF then u.pwr.fallowFrames else arg e 12 4)) (ht : arg e 8 1 ≤ 7) (hmax : n ≤ 261120)
    (hpin : arg e 8 1 ≤ 1 ∨ rdb u Reg.HIF_PIN_PWR_EN = true) (hj : arg e 8 1 < 7 → anyJob u = false)
    (hff : 3 ≤ pstate u → n = u.pwr.fallowFrames ∨ fallowMovable u n = true) (hready : arg e 8 1 = 7 → mayBeReady u) :
    cmdDevSetPowerState e io u =
      (let z := newOp 0x0103 e 255 (setFallow n u)
       let v := replaceRequest z.2
       pendCmd z.1 [] (onRequest (arg e 8 1) { v with pwr := { v.pwr with powerOp := some z.1 } })) := by
  have hrange : ¬ (7 < arg e 8 1 ∨ 261120 < n) := by omega
  have hpin' : ¬ (decide (1 < arg e 8 1) && !rdb u Reg.HIF_PIN_PWR_EN) = true := by
    obtain h | h := hpin
    · simp [Nat.not_lt.2 h]
    · simp [h]
  have hjobs : ¬ (decide (arg e 8 1 < 7) && anyJob u) = true := by
    simpa using hj
  have hmove : ¬ (decide (3 ≤ pstate u) && n != u.pwr.fallowFrames && !fallowMovable u n) = true := by
    simp only [Bool.and_eq_true, decide_eq_true_eq, bne_iff_ne, Bool.not_eq_true']
    rintro ⟨⟨hp, hn'⟩, hm⟩
    obtain h | h := hff hp
    · exact hn' h
    · exact Bool.false_ne_true (hm.symm.trans h)
  have hkind : ¬ (decide (arg e 8 1 = 7) && pstate u != 7 && rd u Reg.RTR_MAP_KIND == 2) = true := by
    intro h
    simp only [Bool.and_eq_true, decide_eq_true_eq, bne_iff_ne, beq_iff_eq] at h
    obtain ⟨⟨h7, hp⟩, hk⟩ := h
    obtain h | ⟨-, hk', -⟩ := hready h7 <;> omega
  have hserve : ¬ (decide (arg e 8 1 = 7) && pstate u != 7 && !(pstate u == 6 && rd u Reg.RTR_MAP_KIND == 1 &&
      rdb u Reg.RTR_VERIFIED && rdb u Reg.TICK_LOCKED && !rdb u Reg.SEQ_DOWN)) = true := by
    by_cases h7 : arg e 8 1 = 7
    · obtain h | ⟨h1, h2, h3, h4, h5⟩ := hready h7
      · simp [h]
      · simp [h1, h2, h3, h4, h5]
    · simp [h7]
  unfold cmdDevSetPowerState
  dsimp only
  rw [← hn, if_neg hrange, if_neg hpin', if_neg hjobs, if_neg hmove, if_neg hkind, if_neg hserve]

theorem cmdDevGetTelemetry_delivered {e : Entry} {io : HostIo} {s : State} (u : State) (hd : delivered Row.devGetTelemetry e io s = true)
    (hl : 608 ≤ arg e 16 4) : cmdDevGetTelemetry e (granted Row.devGetTelemetry e io s) u =
      ⟨0, leBytes 4 608, inlineOf e (telemetryBytes u), sentTo e (arg e 8 8) (telemetryBytes u) u, none⟩ := by
  rw [cmdDevGetTelemetry, if_neg (Nat.not_lt.2 hl)]
  exact withOutput_delivered hd _ _ _ _

/-! ### The partition commands (R416, R418, R421, R438, R443) -/

theorem cmdPartCreate_new {e : Entry} (io : HostIo) {u : State} (hx : arg e 8 1 ≤ 1) (hp : (part u e.part).present = false) :
    cmdPartCreate e io u = doneCmd [] (resetSrvPart e.part (resetVf e.part
      (modPart u e.part (fun _ => { Part.absent with present := true, port := arg e 8 1 })))) := by
  rw [cmdPartCreate, if_neg (Nat.not_lt.2 hx), if_neg (by simp [hp])]

theorem cmdPartDestroy_idle {e : Entry} (io : HostIo) {u : State} (hj : (part u e.part).job.busy = false)
    (ho : u.kao.ops.all (fun o => o.part != e.part) = true) :
    cmdPartDestroy e io u = doneCmd [] (destroyPart e.part u) := by
  have hops : u.kao.ops.any (fun o => o.part == e.part) = false := by
    simpa [List.any_eq_false] using ho
  rw [cmdPartDestroy, if_neg (by simp [hj, hops])]

theorem JobState.busy_iff (j : JobState) : j.busy = true ↔ j ≠ .idle ∧ j ≠ .stopped := by
  cases j <;> decide

theorem cmdPartDestroy_busy {e : Entry} (io : HostIo) {u : State}
    (h : ((part u e.part).job ≠ .idle ∧ (part u e.part).job ≠ .stopped) ∨ u.kao.ops.any (fun o => o.part == e.part) = true) :
    cmdPartDestroy e io u = refuseCmd 0x0301 u := by
  have hbusy : ((part u e.part).job.busy || u.kao.ops.any (fun o => o.part == e.part)) = true := by
    rwa [Bool.or_eq_true, JobState.busy_iff]
  rw [cmdPartDestroy, if_pos hbusy]

theorem cmdPartAssign_fits {e : Entry} (io : HostIo) {u : State} {qs ts new : List Nat} {b m : Nat} (hq : arg e 8 1 ≤ 48)
    (ht : arg e 10 2 ≤ 256) (hn : arg e 12 4 ≤ 65536) (hb : arg e 20 2 ≤ 2552) (hj : (part u e.part).job.busy = false)
    (hqs : newQuads u e.part (arg e 8 1) = some qs) (hts : newThreads u e.part (arg e 10 2) = some ts)
    (hsb : newSlotBase u e.part (arg e 12 4) = some b)
    (hpool : takePool u (arg e 16 4 - (t2Frames (tierPart u e.part)).length) = some new)
    (hmap : newMapBase u (6144 * arg e 8 1 + arg e 16 4) e.part = some m)
    (hfence : arg e 16 4 = 0 ∨ rdb u Reg.TIER_T2_FENCED = false) :
    cmdPartAssign e io u = doneCmd (leBytes 6 (bitmap qs) ++ leBytes 2 b ++ leBytes 4 m ++ leBytes 4 (6144 * arg e 8 1 + arg e 16 4))
      (assign e.part ⟨qs, ts, b, arg e 12 4, arg e 16 4, new, m, arg e 20 2⟩ u) := by
  have hrange : ¬ (48 < arg e 8 1 ∨ 256 < arg e 10 2 ∨ 65536 < arg e 12 4 ∨ 2552 < arg e 20 2) := by omega
  have hopen : ¬ (arg e 16 4 ≠ 0 ∧ rdb u Reg.TIER_T2_FENCED = true) := by
    rintro ⟨h0, h1⟩
    obtain h | h := hfence
    · exact h0 h
    · simp [h] at h1
  unfold cmdPartAssign
  dsimp only
  rw [if_neg hrange, if_neg (by simp [hj]), hqs, hts, hsb]
  dsimp only
  rw [hpool, hmap]
  exact if_neg hopen

theorem cmdJobQuery_page0 {e : Entry} (io : HostIo) (u : State) (hp : arg e 8 1 = 0) :
    cmdJobQuery e io u = doneCmd (leBytes 1 (part u e.part).job.code ++ leBytes 1 (sliceOf u e.part) ++
      leBytes 2 (ownRank u e.part) ++ leBytes 8 (frameEpoch u e.part) ++ leBytes 2 (part u e.part).phase ++
      leBytes 6 (part u e.part).startFrame ++ leBytes 6 (part u e.part).lastCheap) u := by
  unfold cmdJobQuery
  dsimp only
  rw [if_neg (by omega), if_pos hp]

theorem cmdJobQuery_page1 {e : Entry} (io : HostIo) (u : State) (hp : arg e 8 1 = 1) :
    cmdJobQuery e io u = doneCmd (leBytes 8 (imageIdOf (part u e.part)) ++ leBytes 6 (part u e.part).stopFrame ++
      leBytes 2 (part u e.part).stopStatus) u := by
  unfold cmdJobQuery
  dsimp only
  rw [if_neg (by omega), if_neg (by omega)]

theorem cmdPartAccounting_delivered {e : Entry} {io : HostIo} {s : State} (u : State)
    (hd : delivered Row.partAccounting e io s = true) (hl : (accountingBytes u e.part).length ≤ arg e 16 4)
    (hm : isMgmt e = true → (accountingBytes u e.part).length ≤ 8192) :
    cmdPartAccounting e (granted Row.partAccounting e io s) u =
      ⟨0, leBytes 4 (accountingBytes u e.part).length ++ leBytes 6 (frameNo u), inlineOf e (accountingBytes u e.part),
        sentTo e (arg e 8 8) (accountingBytes u e.part) u, none⟩ := by
  have hfits : ¬ (arg e 16 4 < (accountingBytes u e.part).length ∨ (isMgmt e = true ∧ 8192 < (accountingBytes u e.part).length)) := by
    rintro (h | ⟨h1, h2⟩)
    · omega
    · have := hm h1
      omega
  unfold cmdPartAccounting
  dsimp only
  rw [if_neg hfits]
  exact withOutput_delivered hd _ _ _ _

/-! ### The job commands (R429, R434, R437) -/

/-- What JOB_START without RESUME asks of its entry, the package and the partition before it reads the image. -/
structure StartAllowed (e : Entry) (u : State) : Prop where
  size : 256 ≤ arg e 24 8
  src : arg e 8 1 ≤ 2
  inl : isMgmt e = true → arg e 8 1 = 0 → arg e 24 8 ≤ 8192 ∧ arg e 16 8 = 0
  job : (part u e.part).job = .idle ∨ (part u e.part).job = .stopped
  power : mayStart u = true
  trip : u.pwr.tripped = false
  lasting : u.cal.lasting = false
  slice : (part u e.part).slice.isSome = true

/-- The image of a start that no finding and no refusal speaks against. -/
structure ImageValid (e : Entry) (io : HostIo) (u : State) (kat : List Nat) (b : Bytes) : Prop where
  input : partInput e io = some b
  length : b.length = arg e 24 8
  finding : partFinding u e.part b = none
  refusal : startRefusal u e.part (imageOfPart b) kat = none
  sections : sectionRules u e.part (imageOfPart b) = none
  program : programFinding u e.part (imageOfPart b) = none

theorem cmdStartNew_valid {e : Entry} {io : HostIo} {u : State} {kat : List Nat} {b : Bytes} (ha : StartAllowed e u)
    (hv : ImageValid e io u kat b) : cmdStartNew kat e io u =
      if movesPending u e.part (imageOfPart b) then waitCmd (.jobStart e.part kat) u
      else doneCmd (leBytes 8 (imageOfPart b).imageId) (startJob e.part (imageOfPart b) (katResults e.part kat u)) := by
  have hsize : ¬ (arg e 24 8 < 256 ∨ (isMgmt e = true ∧ arg e 8 1 = 0 ∧ 8192 < arg e 24 8)) := by
    rintro (h | ⟨h1, h2, h3⟩)
    · exact absurd ha.size (by omega)
    · exact absurd (ha.inl h1 h2).1 (by omega)
  have hsrc : ¬ (2 < arg e 8 1 ∨ (isMgmt e = true ∧ arg e 8 1 = 0 ∧ arg e 16 8 ≠ 0)) := by
    rintro (h | ⟨h1, h2, h3⟩)
    · exact absurd ha.src (by omega)
    · exact h3 (ha.inl h1 h2).2
  have hjob : ¬ (((part u e.part).job ≠ .idle ∧ (part u e.part).job ≠ .stopped) ∨ (!mayStart u) = true) := by
    rintro (⟨h1, h2⟩ | h)
    · exact ha.job.elim h1 h2
    · simp [ha.power] at h
  unfold cmdStartNew
  dsimp only
  rw [if_neg hsize, if_neg hsrc, if_neg hjob, if_neg (by simp [ha.trip]), if_neg (by simp [ha.lasting]),
    if_neg (by simp [Option.isSome_iff_ne_none.1 ha.slice]), hv.input]
  dsimp only
  rw [if_neg (by simp [hv.length]), hv.finding]
  dsimp only
  rw [hv.refusal]
  dsimp only
  rw [hv.sections, hv.program]
  rfl

theorem jobStart_valid {e : Entry} {io : HostIo} {s : State} {kat : List Nat} {b : Bytes} (hf : fetched Row.jobStart e s = true)
    (hr : flag e 0 = false) (ha : StartAllowed e (startCmd e s))
    (hv : ImageValid e (granted Row.jobStart e io s) (startCmd e s) kat b) :
    exec (.jobStart e io kat) s = .next (if movesPending (startCmd e s) e.part (imageOfPart b) then
        waitsFor Row.jobStart e io (.jobStart e.part kat) (startCmd e s)
      else complete e 0 (leBytes 8 (imageOfPart b).imageId) []
        (startJob e.part (imageOfPart b) (katResults e.part kat (startCmd e s)))) := by
  have ho : cmdJobStart kat e (granted Row.jobStart e io s) (startCmd e s) = _ :=
    (if_neg (by simp [hr])).trans (cmdStartNew_valid ha hv)
  split at ho
  next hm =>
    rw [if_pos hm]
    exact runRow_wait hf ho
  next hm =>
    rw [if_neg hm]
    exact runRow_done hf ho

theorem cmdResume_paused {e : Entry} {u : State} (hl : isLead u e.part = true) (hj : (part u e.part).job = .paused)
    (hs : mayStart u = true) (ht : u.pwr.tripped = false) (hc : u.cal.lasting = false) (hf : jobFenced u e.part = false) :
    cmdResume e u = doneCmd (leBytes 8 (imageIdOf (part u e.part))) (sendGo e.part true u) := by
  unfold cmdResume
  dsimp only
  rw [if_neg (by simp [hl]), if_neg (by simp [hj, hs]), if_neg (by simp [ht]), if_neg (by simp [hc]), if_neg (by simp [hf])]

theorem cmdJobStop_running {e : Entry} (io : HostIo) {u : State} (hk : arg e 8 1 ≤ 3) (hn : arg e 10 2 ≠ 0)
    (hl : isLead u e.part = true) (hj : (part u e.part).job = .running) :
    cmdJobStop e io u = waitCmd (.jobStop e.part) (orderStop e.part (arg e 8 1) 0x03C3 (frameNo u + arg e 10 2) u) := by
  unfold cmdJobStop
  dsimp only
  rw [if_neg (by omega), if_neg (by simp [hl]), hj]

theorem cmdJobStop_starting {e : Entry} (io : HostIo) {u : State} (hk : arg e 8 1 ≤ 3) (hn : arg e 10 2 ≠ 0)
    (hl : isLead u e.part = true) (hj : (part u e.part).job = .starting) :
    cmdJobStop e io u =
      doneCmd (leBytes 6 (frameNo u) ++ [0, 0] ++ leBytes 8 0 ++ leBytes 2 0x03C2) (abandonStart e.part u) := by
  unfold cmdJobStop
  dsimp only
  rw [if_neg (by omega), if_neg (by simp [hl]), hj]

end Sys2Proof.Machine

open Sys2Proof Sys2Proof.Machine

/-- Settles O27: each command is fetched and completes with its handler's outcome (`runRow_done`). The serial number is Config's (log 11). -/
theorem deviceCommandsComplete : Obligations.DeviceCommandsComplete := by
  rintro e io s u rfl
  exact ⟨fun hf => runRow_done hf rfl, fun hf => runRow_done hf rfl,
    fun n hf hn ht hmax hpin hj hff hready => runRow_done hf (cmdDevSetPowerState_accepted _ hn ht hmax hpin hj hff hready),
    fun hf hd hl => runRow_done hf (cmdDevGetTelemetry_delivered _ hd hl), fun hf => runRow_done hf rfl⟩

/-- Settles O20: the handler refuses, and a refusal changes nothing. -/
theorem destroyNeedsIdle : Obligations.DestroyNeedsIdle := by
  rintro e io s u rfl hf h
  exact runRow_done hf (cmdPartDestroy_busy _ h)

/-- Settles O28: each command completes with its handler's outcome. That PART_CREATE clears the serving registers is the model's reading
(log 34), as is the choice of the lowest free units in `newQuads` and its like (log 66). -/
theorem partitionCommandsComplete : Obligations.PartitionCommandsComplete := by
  rintro e io s u rfl
  refine ⟨fun hf hx hp => runRow_done hf (cmdPartCreate_new _ hx hp), fun hf hj ho => runRow_done hf (cmdPartDestroy_idle _ hj ho),
    ?assign, fun hf hp => runRow_done hf (cmdJobQuery_page0 _ _ hp), fun hf hp => runRow_done hf (cmdJobQuery_page1 _ _ hp),
    fun hf hd hl hm => runRow_done hf (cmdPartAccounting_delivered _ hd hl hm)⟩
  case assign =>
    intro qs ts b new m hf hq ht hn hb hj hqs hts hsb hpool hmap hfence
    exact runRow_done hf (cmdPartAssign_fits _ hq ht hn hb hj hqs hts hsb hpool hmap hfence)

/-- Settles O29: a valid start begins the job or waits for its pages, and the four stops are one handler. That a start which is stopped
completes at once is log 28 (deduced); the self-test results come with the command (log 17). -/
theorem jobCommandsComplete : Obligations.JobCommandsComplete := by
  rintro e io s u rfl
  refine ⟨?start, ?resume, ?running, ?starting⟩
  case start =>
    intro kat b hf hr hsize hsrc hinl hjob hpow htrip hlast hslice hin hlen hfind hrefuse hsec hprog
    exact jobStart_valid hf hr ⟨hsize, hsrc, hinl, hjob, hpow, htrip, hlast, hslice⟩ ⟨hin, hlen, hfind, hrefuse, hsec, hprog⟩
  case resume =>
    intro hf hr hl hj hs ht hc hfence
    exact runRow_done hf ((if_pos hr).trans (cmdResume_paused hl hj hs ht hc hfence))
  case running =>
    intro hf hk hn hl hj
    have hstop := runRow_wait (io := io) hf (cmdJobStop_running _ hk hn hl hj)
    exact ⟨hstop, hstop, hstop, hstop⟩
  case starting =>
    intro hf hk hn hl hj
    have hstop := runRow_done (io := io) hf (cmdJobStop_starting _ hk hn hl hj)
    exact ⟨hstop, hstop, hstop, hstop⟩

end

section
/-!
SUPPORT, and the statements on sealing, weight custody and keys: what was sealed opens, the weight, replacement and key commands, and the
events of shards, digests and slice starts.
-/

namespace Sys2Proof.Machine

/-! ### AES-256-GCM (R397, R401) -/

/-- The key stream that counter mode lays over `n` bytes. -/
def gcmStream (ks : List (List Nat)) (j0 n : Nat) : Bytes :=
  ((List.range ((n + 15) / 16)).map (fun i => beOut 16 (aesNum ks (j0 / 2 ^ 32 * 2 ^ 32 + (j0 + 1 + i) % 2 ^ 32)))).foldr (· ++ ·) []

theorem gcmCtr_eq_zipWith (ks : List (List Nat)) (j0 : Nat) (b : Bytes) :
    gcmCtr ks j0 b = List.zipWith (· ^^^ ·) b (gcmStream ks j0 b.length) :=
  List.map_zip_eq_zipWith

theorem length_foldr_append {l : List Bytes} {n : Nat} (h : ∀ b ∈ l, b.length = n) : (l.foldr (· ++ ·) []).length = n * l.length := by
  induction l with
  | nil => rfl
  | cons b r ih =>
    rw [List.foldr_cons, List.length_append, ih (fun c hc => h c (List.mem_cons_of_mem _ hc)), h b List.mem_cons_self, List.length_cons,
      Nat.mul_add_one, Nat.add_comm]

theorem le_length_gcmStream (ks : List (List Nat)) (j0 n : Nat) : n ≤ (gcmStream ks j0 n).length := by
  have hblock : ∀ b ∈ (List.range ((n + 15) / 16)).map
      (fun i => beOut 16 (aesNum ks (j0 / 2 ^ 32 * 2 ^ 32 + (j0 + 1 + i) % 2 ^ 32))), b.length = 16 := by
    intro b hb
    obtain ⟨i, -, rfl⟩ := List.mem_map.1 hb
    rw [beOut, List.length_reverse, leBytes_length]
  rw [gcmStream, length_foldr_append hblock, List.length_map, List.length_range]
  omega

theorem length_gcmCtr (ks : List (List Nat)) (j0 : Nat) (b : Bytes) : (gcmCtr ks j0 b).length = b.length := by
  rw [gcmCtr_eq_zipWith, List.length_zipWith, Nat.min_eq_left (le_length_gcmStream ks j0 b.length)]

theorem zipWith_xor_twice {b k : Bytes} (h : b.length ≤ k.length) :
    List.zipWith (· ^^^ ·) (List.zipWith (· ^^^ ·) b k) k = b := by
  induction b generalizing k with
  | nil => rfl
  | cons x r ih =>
    cases k with
    | nil => simp at h
    | cons y t =>
      have hr : r.length ≤ t.length := by simpa using h
      simp only [List.zipWith_cons_cons, ih hr, BitVec.xor_assoc, BitVec.xor_self, BitVec.xor_zero]

/-- Counter mode is its own inverse: the key stream depends on the length only. -/
theorem gcmCtr_gcmCtr (ks : List (List Nat)) (j0 : Nat) (b : Bytes) : gcmCtr ks j0 (gcmCtr ks j0 b) = b := by
  rw [gcmCtr_eq_zipWith ks j0 (gcmCtr ks j0 b), length_gcmCtr, gcmCtr_eq_zipWith]
  exact zipWith_xor_twice (le_length_gcmStream ks j0 b.length)

theorem gcmOpen_of_tag {key iv aad ct tag : Bytes} (h : gcmTag (aesKeys key) (gcmJ0 iv) aad ct = tag) :
    gcmOpen key iv aad ct tag = some (gcmCtr (aesKeys key) (gcmJ0 iv) ct) := by
  unfold gcmOpen
  exact if_pos h

theorem gcmSeal_eq (key iv aad pt : Bytes) : gcmSeal key iv aad pt = gcmCtr (aesKeys key) (gcmJ0 iv) pt ++
    gcmTag (aesKeys key) (gcmJ0 iv) aad (gcmCtr (aesKeys key) (gcmJ0 iv) pt) := by
  unfold gcmSeal
  rfl

/-! ### Models, shards and their verification (R393, R397, R400, R403) -/

theorem cmdModelDeclare_accepted {e : Entry} {io : HostIo} {u : State} {d : Bytes} (hin : inputOf e io (arg e 16 4) = some d)
    (hlen : d.length = arg e 16 4) (hmin : 64 ≤ d.length) (hdecl : declLen d = d.length) (hhdr : declHeaderOk d = true)
    (hsec : declSectionsOk d = true) (hep : arg e 24 8 ≠ 0) (hj : (part u e.part).job.busy = false) :
    cmdModelDeclare e io u = doneCmd (leBytes 8 (modelIdOf d))
      (modPart (modWts (fun w => { w with refs := tput (0, []) w.refs e.part (0, []) })
        (discardRecs (fun r => r.part == e.part) { u with decls := tput [] u.decls e.part d })) e.part
        (fun q => { q with modelId := modelIdOf d, modelEpoch := arg e 24 8 })) := by
  have hsize : ¬ (d.length ≠ arg e 16 4 ∨ d.length < 64 ∨ declLen d ≠ d.length) := by omega
  unfold cmdModelDeclare
  dsimp only
  rw [hin]
  dsimp only
  rw [if_neg hsize, if_neg (by simp [hhdr, hsec, hep]), if_neg (by simp [hj])]

/-- A load that meets no other load, on a page, with a free record, from a known source, starts and ends later. -/
theorem loadCommand_starts {e : Entry} {io : HostIo} {u : State} {h : Option Bytes} (op epoch : Nat) (hh : shardHeader e io = h)
    (hm : meetsLoad u e.part (arg e 24 8) ((h.map (fun b => numAt b 40 8)).getD 0) = false) (hpage : arg e 24 8 % pageBytes = 0)
    (hroom : u.wts.recs.length + u.wts.loads.length < 8192) (hsrc : arg e 8 1 ≤ 2) :
    loadCommand op epoch false e io u = pendCmd u.kao.nextOp []
      (startLoad u.kao.nextOp e.part (arg e 24 8) epoch (arg e 8 1) h (newOp op e e.part u).2) := by
  unfold loadCommand
  dsimp only
  rw [hh, if_neg (by cases h <;> simpa using hm), if_neg (by omega), if_neg (by omega), if_neg (by omega)]
  rfl

theorem cmdWeightLoadShard_starts {e : Entry} {io : HostIo} {u : State} {h : Option Bytes} (hh : shardHeader e io = h)
    (hj : (part u e.part).job.busy = false)
    (hm : meetsLoad u e.part (arg e 24 8) ((h.map (fun b => numAt b 40 8)).getD 0) = false) (hpage : arg e 24 8 % pageBytes = 0)
    (hroom : u.wts.recs.length + u.wts.loads.length < 8192) (hsrc : arg e 8 1 ≤ 2) :
    cmdWeightLoadShard e io u = pendCmd u.kao.nextOp []
      (startLoad u.kao.nextOp e.part (arg e 24 8) (part u e.part).modelEpoch (arg e 8 1) h (newOp 0x0302 e e.part u).2) := by
  rw [cmdWeightLoadShard, hj]
  exact loadCommand_starts 0x0302 _ hh hm hpage hroom hsrc

theorem cmdWeightVerify_starts {e : Entry} (io : HostIo) {u : State} (hr : (replOf u e.part).isNone = true) (hn : arg e 10 2 ≠ 0)
    (hu : arg e 8 2 + arg e 10 2 ≤ nUnit (decl u e.part)) :
    cmdWeightVerify e io u = pendCmd u.kao.nextOp []
      (let o := (newOp 0x0303 e e.part u).2
       let x := (o.wts.recs.filter (fun r => r.part == e.part && decide (arg e 8 2 ≤ r.unit) &&
           decide (r.unit < arg e 8 2 + arg e 10 2) && recheckable o r)).foldl
         (fun (x : List Nat × State) r =>
           (if (recheckOne r x.2).1 then x.1 ++ [r.unit] else x.1, (recheckOne r x.2).2)) ([], o)
       modVex x.2 e.part (fun v => { v with fills := v.fills ++ (List.range (arg e 10 2)).map (fun i =>
         { window := 0, unit := arg e 8 2 + i, op := some u.kao.nextOp, stks := [], waiting := List.range 12,
           frame := frameNo u, void := x.1.contains (arg e 8 2 + i) }) })) := by
  unfold cmdWeightVerify
  dsimp only
  rw [if_neg (by simp [Option.isNone_iff_eq_none.1 hr]), if_neg (by omega)]
  rfl

/-! ### Replacement (R408, R410, R411) -/

/-- What a begun replacement leaves: the replacement, Vexsum's window void, the admission pass dropped, the reference table. -/
def replaceBegun (e : Entry) (table : Option Bytes) (u : State) : State :=
  let r : Replacement := ⟨arg e 8 8, 1, frameNo u + arg e 16 4, false, arg e 20 1, arg e 24 4, some u.kao.nextOp, none, []⟩
  let v := modSrv (fun v => { v with pass := tput none v.pass e.part none })
    (voidVex e.part (setRepl e.part (some r) (newOp 0x0304 e e.part u).2))
  match table with
  | some b => modWts (fun w => { w with refs := tput (0, []) w.refs e.part (arg e 8 8, b) }) v
  | none => v

theorem cmdReplaceBegin_starts {e : Entry} {io : HostIo} {u : State} {table : Option Bytes} (hl : isLead u e.part = true)
    (hj : (part u e.part).job.busy = true) (hr : (replOf u e.part).isNone = true) (hep : (part u e.part).modelEpoch < arg e 8 8)
    (hin : referenceIn e io u = .inr table) (hk : (keyOf u 2 e.part (arg e 24 4)).isSome = true)
    (hroom : roomForAll u e.part (arg e 20 1) (barrierFallows u e.part) = true) :
    cmdReplaceBegin e io u = pendCmd u.kao.nextOp [] (replaceBegun e table u) := by
  unfold cmdReplaceBegin
  dsimp only
  rw [if_neg (by simp [hl]), if_neg (by simp [hj]), if_neg (by simp [Option.isNone_iff_eq_none.1 hr]), if_neg (Nat.not_le.2 hep), hin]
  dsimp only
  rw [if_neg (by simp [Option.isSome_iff_ne_none.1 hk]), if_neg (by simp [hroom])]
  rfl

/-- What a layer's load leaves once it has started: a member's replacement takes its epoch from the first header that starts a load. -/
def layerStarted (e : Entry) (r : Replacement) (h : Option Bytes) (u : State) : State :=
  let t := startLoad u.kao.nextOp e.part (arg e 24 8) r.epoch (arg e 8 1) h (newOp 0x0305 e e.part u).2
  match h with
  | some b => if r.epoch = 0 ∧ t.wts.loads.length = u.wts.loads.length + 1 then
      setRepl e.part (some { r with epoch := numAt b 16 8 }) t else t
  | none => t

theorem cmdReplaceLayer_starts {e : Entry} {io : HostIo} {u : State} {r : Replacement} {h : Option Bytes} (hh : shardHeader e io = h)
    (hr : replOf u e.part = some r) (hs : r.stage = 2)
    (hm : meetsLoad u e.part (arg e 24 8) ((h.map (fun b => numAt b 40 8)).getD 0) = false) (hpage : arg e 24 8 % pageBytes = 0)
    (hroom : u.wts.recs.length + u.wts.loads.length < 8192) (hsrc : arg e 8 1 ≤ 2) :
    cmdReplaceLayer e io u = pendCmd u.kao.nextOp [] (layerStarted e r h u) := by
  unfold cmdReplaceLayer
  rw [hr]
  dsimp only
  rw [if_neg (by simp [hs]), loadCommand_starts 0x0305 r.epoch hh hm hpage hroom hsrc, hh]
  cases h with
  | none => rfl
  | some b =>
    simp only [layerStarted, pendCmd, true_and]
    split <;> rfl

theorem cmdReplaceEnd_asked {e : Entry} (io : HostIo) {u : State} {r : Replacement} (hl : isLead u e.part = true)
    (hr : replOf u e.part = some r) (he : r.endOp = none) (hall : flag e 0 = false → r.stage = 2 ∧ allUnits u e.part r = true) :
    cmdReplaceEnd e io u = pendCmd u.kao.nextOp [] (if flag e 0 then
        orderStop e.part 0 0x03A1 0 (setRepl e.part (some { r with endOp := some u.kao.nextOp }) (newOp 0x0306 e e.part u).2)
      else setRepl e.part (some { r with stage := 3, endOp := some u.kao.nextOp }) (newOp 0x0306 e e.part u).2) := by
  unfold cmdReplaceEnd
  dsimp only
  rw [if_neg (by simp [hl]), hr]
  dsimp only
  rw [if_neg (by simp [he])]
  cases hf : flag e 0 with
  | true => rfl
  | false =>
    obtain ⟨hs, hu⟩ := hall hf
    rw [if_neg Bool.false_ne_true, if_neg Bool.false_ne_true, if_neg (by simp [hs, hu])]
    rfl

/-! ### Keys -/

theorem cmdKeyInstall_installs {e : Entry} {io : HostIo} {u : State} {b k : Bytes} (hm : isMgmt e = false)
    (hc : arg e 16 1 = 1 ∨ arg e 16 1 = 2) (hn : arg e 32 4 = 60) (hin : inputOf e io 60 = some b) (hlen : b.length = 60)
    (hs : sessionOn u (arg e 8 4) (srcPort u e.src) = true) (hk : io.crypt = some k)
    (hnew : u.keys.any (fun x => decide (x.cls < 3) && x.owner == e.part && x.keyId == arg e 12 4) = false)
    (hroom : u.keys.length < 256) :
    cmdKeyInstall e io u = doneCmd [] (setKeys (u.keys ++ [⟨arg e 16 1, e.part, arg e 12 4, k⟩]) u) := by
  have h3 : ¬ 3 ≤ arg e 16 1 := by omega
  unfold cmdKeyInstall
  dsimp only
  rw [if_neg (by omega), if_neg (by simp [hm, h3]), if_neg (by omega), if_neg h3, if_neg (by omega), hn, hin]
  dsimp only
  rw [if_neg (by omega), if_neg h3]
  unfold installKey
  rw [if_neg (by simp [hs]), hk]
  dsimp only
  rw [if_neg (by simp only [hnew]; decide), if_neg (by omega)]

theorem cmdKeyInstall_mapKey {e : Entry} {io : HostIo} {u : State} {b : Bytes} (hm : isMgmt e = true)
    (hc : arg e 16 1 = 3 ∨ arg e 16 1 = 4) (hn : arg e 32 4 = 97) (hin : inputOf e io 97 = some b) (hlen : b.length = 97)
    (hform : numAt b 0 1 = 4) (hj : anyJob u = false) (hroom : (u.keys.filter (fun x => x.cls != arg e 16 1)).length < 256) :
    cmdKeyInstall e io u =
      doneCmd [] (setKeys (u.keys.filter (fun x => x.cls != arg e 16 1) ++ [⟨arg e 16 1, 0, 0, b⟩]) u) := by
  have h3 : 3 ≤ arg e 16 1 := by omega
  have h1 : arg e 16 1 ≠ 1 := by omega
  have h2 : arg e 16 1 ≠ 2 := by omega
  unfold cmdKeyInstall
  dsimp only
  rw [if_neg (by omega), if_neg (by simp [hm, h1, h2]), if_neg (by omega), if_pos h3, if_neg (by omega), hn, hin]
  dsimp only
  rw [if_neg (by omega), if_pos h3]
  unfold installMapKey
  dsimp only
  rw [if_neg (by omega), if_neg (by simp [hj]), if_neg (by omega)]

theorem cmdKeyInstall_deletes {e : Entry} (io : HostIo) {u : State} (hc : arg e 16 1 = 0) (hn : arg e 32 4 = 0)
    (hk : u.keys.any (fun x => decide (x.cls < 3) && x.owner == e.part && x.keyId == arg e 12 4) = true) :
    cmdKeyInstall e io u =
      doneCmd [] (setKeys (u.keys.filter (fun x => !(decide (x.cls < 3) && x.owner == e.part && x.keyId == arg e 12 4))) u) := by
  unfold cmdKeyInstall
  dsimp only
  rw [if_neg (by omega), if_neg (by simp [hc]), if_pos hc, if_neg (by omega), if_pos hk]

/-! ### Shards in time (R401, R403) -/

theorem shardIngressDone_noBody {op : Nat} {l : ShardLoad} {s : State} (hl : s.wts.loads.find? (fun l => l.op == op) = some l) :
    exec (.shardIngressDone op none) s = .next (cryEvent Reg.CRY_ERR_IO 3 l.part
      (shardFail op l.part l.dst (numAt l.hdr 40 8) 0x05A1 (numAt l.hdr 28 4)
        (modWts (fun w => { w with loads := w.loads.filter (fun x => x.op != op) }) s))) := by
  show execShardIngressDone op none s = _
  unfold execShardIngressDone
  rw [hl]

theorem shardIngressDone_opens {op : Nat} {l : ShardLoad} {b pt : Bytes} {s : State}
    (hl : s.wts.loads.find? (fun l => l.op == op) = some l) (hlen : b.length = numAt l.hdr 40 8 + 16)
    (hpt : gcmOpen l.key (bytesAt l.hdr 48 12) l.hdr (b.take (numAt l.hdr 40 8)) (b.drop (numAt l.hdr 40 8)) = some pt)
    (hd : bit (numAt l.hdr 5 1) 0 = true → sha256 pt = BitVec.ofNat 256 (numAt l.hdr 64 32)) :
    exec (.shardIngressDone op (some b)) s =
      .next (shardLoaded l pt (modWts (fun w => { w with loads := w.loads.filter (fun x => x.op != op) }) s)) := by
  have hdig : ¬ (bit (numAt l.hdr 5 1) 0 = true ∧ sha256 pt ≠ BitVec.ofNat 256 (numAt l.hdr 64 32)) := fun h => h.2 (hd h.1)
  show execShardIngressDone op (some b) s = _
  unfold execShardIngressDone
  rw [hl]
  dsimp only
  rw [if_neg (by omega), hpt]
  exact if_neg hdig

/-! ### Vexsum and the start of a slice (R406, R407, R430) -/

theorem vexsumWindowEnd_ended {p : Nat} {s : State} (hp : p < 32) (hj : (part s p).job = .running)
    (hw : (vexPart s p).window < windowNo s p) : exec (.vexsumWindowEnd p) s =
      (let v := vexPart s p
       let t := if rdb s (Reg.LOESS_VXS_EN p) then modVex s p (fun x => { x with fills := x.fills ++
         [⟨v.window, windowUnit s p v.window, none, v.stks, List.range 12, frameNo s, v.void || (replOf s p).isSome⟩] }) else s
       let u := match v.cfg with
         | some b => writeVexCfg p b (modVex t p (fun v => { v with cfg := none }))
         | none => t
       .next (modVex u p (fun v => { v with window := windowNo u p, void := (replOf u p).isSome, stks := [] }))) := by
  have hends : ¬ (32 ≤ p ∨ (part s p).job ≠ .running ∨ windowNo s p ≤ (vexPart s p).window) := by
    rintro (h | h | h)
    · omega
    · exact h hj
    · omega
  exact if_neg hends

theorem vexsumCompare_compares {p w : Nat} {ds : List VexDigest} {s : State} (hp : p < 32) (hl : isLead s p = true)
    (hds : packageDigests s p w = some ds) (hvoid : (sliceDigest ds).2 = false)
    (hdue : windowLimit s p w < frameNo s ∨ (vexPeers s p).all (fun k =>
      ((vexPart s p).digests.filter (fun d => d.window == w)).any (fun d => d.who == 256 + k.1)) = true) :
    exec (.vexsumCompare p w) s = .next (modVex (compareDigest p w (windowUnit s p w) ds s) p
      (fun v => { v with digests := v.digests.filter (fun d => d.window != w) })) := by
  have hlead : ¬ (32 ≤ p ∨ (!isLead s p) = true) := by
    simp only [hl, Bool.not_true, Bool.false_eq_true, or_false]; omega
  have hnow : ¬ (!decide (windowLimit s p w < frameNo s) && !(vexPeers s p).all (fun k =>
      ((vexPart s p).digests.filter (fun d => d.window == w)).any (fun d => d.who == 256 + k.1))) = true := by
    obtain h | h := hdue
    · simp [h]
    · simp only [h, Bool.not_true, Bool.and_false]; decide
  show execVexsumCompare p w s = _
  unfold execVexsumCompare
  dsimp only
  rw [if_neg hlead, hds]
  dsimp only
  rw [if_neg hnow, if_neg (by simp [hvoid])]

/-- A start without its GO that has taken too long: the lead abandons it for the slice, a member ends its own. -/
theorem sliceStartTimeout_waiting {p : Nat} {s : State} (hj : (part s p).job = .starting) (hg : (part s p).goFrame = none) :
    exec (.sliceStartTimeout p) s =
      (if isLead s p = true ∧ 65536 ≤ frameNo s - (part s p).startedAt then .next (abandonStart p s)
       else if 131072 ≤ frameNo s - (part s p).startedAt then .next (endStart p s) else .next s) :=
  if_neg (by simp [hj, hg])

end Sys2Proof.Machine

open Sys2Proof Sys2Proof.Machine

/-- Settles O26: the sealed bytes split into cipher text and its tag, the tag holds, and counter mode undoes itself (`gcmCtr_gcmCtr`). The
ciphers are those of the standards (log 8, presumed). -/
theorem sealedOpens : Obligations.SealedOpens := by
  intro key iv aad pt
  have hlen : pt.length = (gcmCtr (aesKeys key) (gcmJ0 iv) pt).length := (length_gcmCtr _ _ _).symm
  rw [gcmSeal_eq, hlen, List.take_left, List.drop_left, gcmOpen_of_tag rfl, gcmCtr_gcmCtr]

/-- Settles O30: each command completes with its handler's outcome. The unwrapped key is an operand (log 10, the model's choice); that a
member's replacement takes its epoch from a shard's header is log 62 (deduced). -/
theorem weightCommandsComplete : Obligations.WeightCommandsComplete := by
  rintro e io s u rfl
  refine ⟨?declare, ?load, fun hf hr hn hu => runRow_done hf (cmdWeightVerify_starts _ hr hn hu), ?begin_, ?layer, ?finish, ?abort,
    ?install, ?mapKey, fun hf hc hn hk => runRow_done hf (cmdKeyInstall_deletes _ hc hn hk)⟩
  case declare =>
    intro d hf hin hlen hmin hdecl hhdr hsec hep hj
    exact runRow_done hf (cmdModelDeclare_accepted hin hlen hmin hdecl hhdr hsec hep hj)
  case load =>
    intro h hh hf hj hm hpage hroom hsrc
    exact runRow_done hf (cmdWeightLoadShard_starts hh hj hm hpage hroom hsrc)
  case begin_ =>
    intro table hf hl hj hr hep hin hk hroom
    exact runRow_done hf (cmdReplaceBegin_starts hl hj hr hep hin hk hroom)
  case layer =>
    intro r h hh hf hr hs hm hpage hroom hsrc
    exact runRow_done hf (cmdReplaceLayer_starts hh hr hs hm hpage hroom hsrc)
  case finish =>
    intro r hf hl hr he hflag hs hu
    have ho := cmdReplaceEnd_asked (granted Row.replaceEnd e io s) hl hr he (fun _ => ⟨hs, hu⟩)
    rw [hflag] at ho
    exact runRow_done hf ho
  case abort =>
    intro r hf hl hr he hflag
    have ho := cmdReplaceEnd_asked (granted Row.replaceEnd e io s) hl hr he (fun h => absurd hflag (by simp [h]))
    rw [hflag] at ho
    exact runRow_done hf ho
  case install =>
    intro b k hf hm hc hn hin hlen hs hk hnew hroom
    exact runRow_done hf (cmdKeyInstall_installs hm hc hn hin hlen hs hk hnew hroom)
  case mapKey =>
    intro b hf hm hc hn hin hlen hform hj hroom
    exact runRow_done hf (cmdKeyInstall_mapKey hm hc hn hin hlen hform hj hroom)

/-- Settles O57, an event's equation for each clause. -/
theorem weightEventsComplete : Obligations.WeightEventsComplete := by
  intro s
  refine ⟨?opens, ?noBody, fun ue hr => if_neg hr, ?window, ?fill, fun p w ds => vexsumCompare_compares, ?lead, ?member⟩
  case opens =>
    rintro op l b pt t hl rfl hlen hpt hd
    exact shardIngressDone_opens hl hlen hpt hd
  case noBody =>
    rintro op l t hl rfl
    exact shardIngressDone_noBody hl
  case window =>
    rintro p v hp hj rfl hw
    exact vexsumWindowEnd_ended hp hj hw
  case fill =>
    intro p k ue f hf
    show execVexsumFillDone p k ue s = _
    unfold execVexsumFillDone
    rw [hf]
  case lead =>
    intro p hj hg hl ha
    rw [sliceStartTimeout_waiting hj hg, if_pos ⟨hl, ha⟩]
  case member =>
    intro p hj hg hl ha
    rw [sliceStartTimeout_waiting hj hg, if_neg (by simp [hl]), if_pos ha]

end

section
/-!
SUPPORT, and the statements on the power, reliability and debug commands: each handler's outcome where its conditions hold.
-/

namespace Sys2Proof.Machine

/-! ### The power commands (R501, R504, R506, R518) -/

theorem cmdPwrSetCap_inRange {e : Entry} (io : HostIo) {u : State} (hlo : 450 ≤ arg e 8 2) (hhi : arg e 8 2 ≤ 1200)
    (h5 : arg e 8 2 % 5 = 0) (hmin : rd u Reg.PWR_MIN_CAP_W ≤ arg e 8 2) :
    cmdPwrSetCap e io u = doneCmd (leBytes 2 (arg e 8 2))
      (let t := wr u Reg.PWR_CAP_W (arg e 8 2)
       if arg e 8 2 = 1200 ∧ rd t Reg.PWR_STRETCH_REQ ≠ 0 then sendStretch (wr t Reg.PWR_STRETCH_REQ 0) else t) := by
  unfold cmdPwrSetCap
  dsimp only
  rw [if_neg (by omega), if_neg (by omega)]

theorem cmdPwrSetMode_fixed {e : Entry} (io : HostIo) (u : State) (hm : arg e 8 1 = 0) :
    cmdPwrSetMode e io u = doneCmd [] (fixedFrequency u) := by
  unfold cmdPwrSetMode
  dsimp only
  rw [if_neg (by omega), if_pos hm]

theorem cmdPwrSetMode_performance {e : Entry} (io : HostIo) {u : State} (hm : arg e 8 1 = 1) (hp : pstate u ≠ 7)
    (hj : anyJob u = false) : cmdPwrSetMode e io u = doneCmd []
      (let t := wr u Reg.PWR_MODE 1
       if rd t Reg.PWR_PERF = 0 then wr t Reg.PWR_PERF 1 else t) := by
  unfold cmdPwrSetMode
  dsimp only
  rw [if_neg (by omega), if_neg (by omega), if_neg hp, if_neg (by simp [hj])]

/-- A domain that may be switched: nothing to do, a ramp under way, or the domain's own conditions. -/
theorem cmdPwrDomain_switchable {e : Entry} (io : HostIo) {u : State} (hd : arg e 8 1 ≤ 71) (ho : arg e 9 1 ≤ 1)
    (h68 : arg e 8 1 ≠ 68) (hp : 2 ≤ pstate u) : cmdPwrDomain e io u =
      (let st := rd u (Reg.PWR_DOMAIN (arg e 8 1))
       if st = (if arg e 9 1 = 1 then 2 else 0) then doneCmd (leBytes 1 st) u
       else if st = 1 ∨ st = 3 then waitCmd (.domain (arg e 8 1)) u
       else match domainRefuses u (arg e 8 1) (arg e 9 1 == 1) with
         | some x => refuseCmd x u
         | none => waitCmd (.domain (arg e 8 1)) (startRamp (arg e 8 1) (arg e 9 1 == 1) u)) := by
  unfold cmdPwrDomain
  dsimp only
  exact (if_neg (by omega)).trans (if_neg (by omega))

theorem cmdPwrDomain_ramps {e : Entry} (io : HostIo) {u : State} (hd : arg e 8 1 ≤ 71) (ho : arg e 9 1 ≤ 1)
    (h68 : arg e 8 1 ≠ 68) (hp : 2 ≤ pstate u) (hst : rd u (Reg.PWR_DOMAIN (arg e 8 1)) = (if arg e 9 1 = 1 then 0 else 2))
    (hr : domainRefuses u (arg e 8 1) (arg e 9 1 == 1) = none) :
    cmdPwrDomain e io u = waitCmd (.domain (arg e 8 1)) (startRamp (arg e 8 1) (arg e 9 1 == 1) u) := by
  have hother : ¬ rd u (Reg.PWR_DOMAIN (arg e 8 1)) = (if arg e 9 1 = 1 then 2 else 0) := by
    rw [hst]; split <;> decide
  have hidle : ¬ (rd u (Reg.PWR_DOMAIN (arg e 8 1)) = 1 ∨ rd u (Reg.PWR_DOMAIN (arg e 8 1)) = 3) := by
    rw [hst]; split <;> decide
  rw [cmdPwrDomain_switchable io hd ho h68 hp]
  dsimp only
  rw [if_neg hother, if_neg hidle, hr]

theorem cmdPwrDomain_ramping {e : Entry} (io : HostIo) {u : State} (hd : arg e 8 1 ≤ 71) (ho : arg e 9 1 ≤ 1)
    (h68 : arg e 8 1 ≠ 68) (hp : 2 ≤ pstate u)
    (hst : rd u (Reg.PWR_DOMAIN (arg e 8 1)) = 1 ∨ rd u (Reg.PWR_DOMAIN (arg e 8 1)) = 3) :
    cmdPwrDomain e io u = waitCmd (.domain (arg e 8 1)) u := by
  have hother : ¬ rd u (Reg.PWR_DOMAIN (arg e 8 1)) = (if arg e 9 1 = 1 then 2 else 0) := by
    split <;> omega
  rw [cmdPwrDomain_switchable io hd ho h68 hp]
  dsimp only
  rw [if_neg hother, if_pos hst]

theorem cmdEnergyRead_package {e : Entry} (io : HostIo) (u : State) (hs : arg e 8 1 = 0) (hv : isVf e = false) :
    cmdEnergyRead e io u = doneCmd (leBytes 8 (rd u Reg.PWR_PKG_ENERGY) ++ leBytes 6 (frameNo u)) u := by
  unfold cmdEnergyRead
  dsimp only
  rw [if_neg (by omega), if_pos hs, if_neg (by simp [hv])]

theorem cmdEnergyRead_partition {e : Entry} (io : HostIo) (u : State) (hs : arg e 8 1 = 1) :
    cmdEnergyRead e io u = doneCmd (leBytes 8 (tget 0 (part u e.part).acct 0xD0) ++ leBytes 6 (frameNo u)) u := by
  unfold cmdEnergyRead
  dsimp only
  rw [if_neg (by omega), if_neg (by omega), if_pos hs]

theorem cmdEnergyRead_queue {e : Entry} (io : HostIo) {u : State} (hs : arg e 8 1 = 2) (hq : arg e 9 1 ≤ 63)
    (ho : queueStatus u e.part (arg e 9 1) = true) :
    cmdEnergyRead e io u = doneCmd (leBytes 8 (tget 0 u.qacct (256 * arg e 9 1 + 0xD0)) ++ leBytes 6 (frameNo u)) u := by
  have howned : ¬ (!rdb u (Reg.SRV_Q_V (arg e 9 1)) || rd u (Reg.SRV_Q_OWNER (arg e 9 1)) != e.part) = true := by
    simp only [queueStatus, Bool.and_eq_true, beq_iff_eq] at ho
    simp [ho.1, ho.2]
  unfold cmdEnergyRead
  dsimp only
  rw [if_neg (by omega), if_neg (by omega), if_neg (by omega), if_neg (by omega), if_neg howned]

/-! ### The reliability commands (R407, R467, R487, R489, R490, R493) -/

theorem cmdFaultLogRead_delivered {e : Entry} {io : HostIo} {s : State} (u : State) (hd : delivered Row.faultLogRead e io s = true)
    (hlo : 1 ≤ arg e 12 2) (hhi : arg e 12 2 ≤ 128) :
    cmdFaultLogRead e (granted Row.faultLogRead e io s) u =
      (let a := max (arg e 8 4) (rd u Reg.CAL_LOG_OLDEST)
       let rs := logRange u a (a + arg e 12 2)
       let b := joinBytes (rs.map recordBytes)
       ⟨0, leBytes 4 rs.length ++ leBytes 4 (if rs.isEmpty then rd u Reg.CAL_LOG_NEXT else a + rs.length),
         inlineOf e b, sentTo e (arg e 16 8) b u, none⟩) := by
  unfold cmdFaultLogRead
  dsimp only
  rw [if_neg (by omega)]
  exact withOutput_delivered hd _ _ _ _

theorem cmdFaultPolicySet_inRange {e : Entry} (io : HostIo) (u : State) (ht : arg e 8 1 ≤ 15) (hlo : 1 ≤ arg e 10 1)
    (hhi : arg e 10 1 ≤ 15) (ha : arg e 9 1 ≤ 2) (h2 : arg e 9 1 = 2 → arg e 8 1 < 13) :
    cmdFaultPolicySet e io u = doneCmd []
      (wr (wr u (Reg.CAL_ACTION (arg e 8 1)) (arg e 9 1)) (Reg.CAL_THRESHOLD (arg e 8 1)) (arg e 10 1)) := by
  unfold cmdFaultPolicySet
  dsimp only
  rw [if_neg (by omega)]

theorem cmdScrubConfig_scratchpads {e : Entry} (io : HostIo) (u : State) (h : arg e 8 1 = 0) (hn : arg e 12 4 ≤ 65535) :
    cmdScrubConfig e io u = doneCmd [] ((List.range 12).foldl
      (fun t k => wr (wrb t (Reg.SPM_SCRUB_EN k) (bit (arg e 9 1) 0)) (Reg.SPM_SCRUB_ROW_US k) (arg e 12 4)) u) :=
  if_pos ⟨h, hn⟩

theorem cmdScrubConfig_tier2 {e : Entry} (io : HostIo) (u : State) (h : arg e 8 1 = 1) (hn : arg e 12 4 ≤ 255) :
    cmdScrubConfig e io u =
      doneCmd [] (wr u Reg.TIER_T2_SCRUB_HOURS (if bit (arg e 9 1) 0 then arg e 12 4 else 0)) := by
  unfold cmdScrubConfig
  dsimp only
  rw [if_neg (by omega), if_pos ⟨h, hn⟩]

theorem cmdReplicaCompareConfig_inRange {e : Entry} (io : HostIo) (u : State) (hlo : 8 ≤ arg e 9 1) (hhi : arg e 9 1 ≤ 16)
    (hf : arg e 10 2 ≤ 4095)
    (hk : (List.range 7).all (fun i => arg e (12 + 2 * i) 1 == 255 ||
      decide (arg e (12 + 2 * i) 1 ≤ 143 ∧ arg e (13 + 2 * i) 1 ≤ 31)) = true) :
    cmdReplicaCompareConfig e io u = doneCmd [] (if (part u e.part).job = .running then
      modVex u e.part (fun v => { v with cfg := some (bytesAt e.args 0 18) })
      else writeVexCfg e.part (bytesAt e.args 0 18) u) := by
  have hpeers : (List.range 7).any (fun i => arg e (12 + 2 * i) 1 != 255 &&
      (decide (143 < arg e (12 + 2 * i) 1) || decide (31 < arg e (13 + 2 * i) 1))) = false := by
    rw [List.any_eq_false]
    intro i hi
    have := List.all_eq_true.1 hk i hi
    simp only [Bool.or_eq_true, beq_iff_eq, decide_eq_true_eq] at this
    simp only [Bool.and_eq_true, bne_iff_ne, Bool.or_eq_true, decide_eq_true_eq, not_and, not_or]
    omega
  have hrange : ¬ (arg e 9 1 < 8 ∨ 16 < arg e 9 1 ∨ 4095 < arg e 10 2 ∨ (List.range 7).any (fun i => arg e (12 + 2 * i) 1 != 255 &&
      (decide (143 < arg e (12 + 2 * i) 1) || decide (31 < arg e (13 + 2 * i) 1))) = true) := by
    rw [hpeers]; simp; omega
  unfold cmdReplicaCompareConfig
  dsimp only
  rw [if_neg hrange]
  exact (apply_ite (doneCmd []) _ _ _).symm

theorem cmdUnitFence_scheduled {e : Entry} (io : HostIo) {u : State} (ht : arg e 8 1 ≤ 12)
    (hu : unitExists (arg e 8 1) (arg e 10 2) = true) (hn : inFenceTable u (arg e 8 1) (arg e 10 2) = false)
    (hr : u.cal.pendFence.contains ⟨arg e 8 1, arg e 10 2, true⟩ = true ∨ fenceRoom u = true) :
    cmdUnitFence e io u = waitCmd .tick (if u.cal.pendFence.contains ⟨arg e 8 1, arg e 10 2, true⟩ then u
      else { u with cal := { u.cal with pendFence := u.cal.pendFence ++ [⟨arg e 8 1, arg e 10 2, true⟩] } }) := by
  have hunit : ¬ (12 < arg e 8 1 ∨ (!unitExists (arg e 8 1) (arg e 10 2)) = true) := by
    simp only [hu, Bool.not_true, Bool.false_eq_true, or_false]; omega
  unfold cmdUnitFence
  dsimp only
  rw [if_neg hunit, if_neg (by simp [hn])]
  split
  next hp => rfl
  next hp => rw [if_neg (by simp [hr.resolve_left hp])]

/-- What the removal of a unit's fence leaves: no entry in the table, a leaky counter of 0, and the return due at the next tick. -/
def unfenced (e : Entry) (u : State) : State :=
  let t := clearFence u (arg e 8 1) (arg e 10 2)
  { t with cal := { t.cal with
    leaky := tput 0 t.cal.leaky (unitKey (arg e 8 1) (arg e 10 2)) 0,
    pendFence := t.cal.pendFence ++ [⟨arg e 8 1, arg e 10 2, false⟩] } }

theorem unitUnfence_fenced {e : Entry} (io : HostIo) {s : State} (hf : fetched Row.unitUnfence e s = true) (ht : arg e 8 1 ≤ 12)
    (hu : unitExists (arg e 8 1) (arg e 10 2) = true) (hn : inFenceTable (startCmd e s) (arg e 8 1) (arg e 10 2) = true) :
    exec (.unitUnfence e io) s = .next (complete e 0 [] [] (unfenced e (startCmd e s))) := by
  have hunit : ¬ (12 < arg e 8 1 ∨ (!unitExists (arg e 8 1) (arg e 10 2)) = true) := by
    simp only [hu, Bool.not_true, Bool.false_eq_true, or_false]; omega
  have ho : cmdUnitUnfence e (granted Row.unitUnfence e io s) (startCmd e s) = doneCmd [] (unfenced e (startCmd e s)) := by
    unfold cmdUnitUnfence
    dsimp only
    rw [if_neg hunit, if_neg (by simp [hn])]
    rfl
  exact runRow_done hf ho

@[simp] theorem clearFence_cal (s : State) (ty n : Nat) : (clearFence s ty n).cal = s.cal := by
  unfold clearFence
  split <;> rfl

/-- A fenced unit's entry frees one place of the table. -/
theorem clearFence_used {s : State} {ty n : Nat} (hr : risesFrom 0 s.regs = true) (hn : inFenceTable s ty n = true) :
    rd (clearFence s ty n) Reg.CAL_FENCE_USED = (rd s Reg.CAL_FENCE_USED - 1) % 2 ^ Reg.CAL_FENCE_USED.width := by
  obtain ⟨i, hi⟩ : ∃ i, (List.range 256).find? (fun i => fenceHit s i ty n) = some i := by
    rw [← Option.isSome_iff_exists, List.find?_isSome]
    simpa [inFenceTable] using hn
  have hkey : Reg.CAL_FENCE_USED.key ≠ (Reg.CAL_FENCE_V i).key ∧ Reg.CAL_FENCE_USED.key ≠ (Reg.CAL_FENCE_TYPE i).key ∧
      Reg.CAL_FENCE_USED.key ≠ (Reg.CAL_FENCE_UNIT i).key := by
    have : i < 256 := by simpa using List.mem_of_find?_eq_some hi
    simp only [Field.key, Reg.CAL_FENCE_USED, Reg.CAL_FENCE_V, Reg.CAL_FENCE_TYPE, Reg.CAL_FENCE_UNIT]
    omega
  obtain ⟨hv, hty, hunit⟩ := hkey
  have hregs : risesFrom 0 (wr (wr (wr s (Reg.CAL_FENCE_V i) 0) (Reg.CAL_FENCE_TYPE i) 0) (Reg.CAL_FENCE_UNIT i) 0).regs = true :=
    tput_rises _ _ (tput_rises _ _ (tput_rises _ _ hr))
  unfold clearFence
  rw [hi]
  dsimp only
  rw [rd_wr_self _ _ hregs, rd_wr_ne _ _ hunit, rd_wr_ne _ _ hty, rd_wr_ne _ _ hv]

/-! ### The debug commands (R467, R556, R558, R560) -/

theorem cmdFreeze_up (e : Entry) (io : HostIo) {u : State} (hp : 2 ≤ pstate u) : cmdFreeze e io u = doneCmd [] (freezeNow u) :=
  if_neg (Nat.not_lt.2 hp)

/-- FREEZE_N is high when the command takes its level as high. -/
theorem cmdClockRelease_high (e : Entry) (io : HostIo) {s : State} (hr : risesFrom 0 s.regs = true)
    (hf : frozen (startCmd e (wrb s Reg.HIF_PIN_FREEZE_N true)) = true) :
    cmdClockRelease e io (startCmd e (wrb s Reg.HIF_PIN_FREEZE_N true)) =
      doneCmd [] (releaseNow (startCmd e (wrb s Reg.HIF_PIN_FREEZE_N true))) := by
  have hpin : rdb (startCmd e (wrb s Reg.HIF_PIN_FREEZE_N true)) Reg.HIF_PIN_FREEZE_N = true := by
    rw [rdb_startCmd, rdb_wrb_self _ _ hr (by decide)]
  exact if_neg (by simp [hf, hpin])

theorem cmdScanRead_frozen {e : Entry} (io : HostIo) {u : State} (hn : arg e 16 2 ≠ 0) (hf : frozen u = true) :
    cmdScanRead e io u =
      (let n := min (arg e 16 2) (chainBits (arg e 8 2) - arg e 12 4)
       ⟨0, leBytes 4 n, packBits (drawBits n u).1, (drawBits n u).2, none⟩) := by
  rw [cmdScanRead, if_neg hn, if_neg (by simp [hf])]

theorem cmdDiagRun_starts {e : Entry} (io : HostIo) {u : State} (ht : arg e 10 1 ≤ 12)
    (hu : unitExists (arg e 10 1) (arg e 12 2) = true) (hj : (jobsOfUnit u (arg e 10 1) (arg e 12 2)).isEmpty = true) :
    cmdDiagRun e io u = pendCmd u.kao.nextOp [] (newOp 0x0904 e 255 u).2 := by
  unfold cmdDiagRun
  dsimp only
  rw [if_neg (by simp [hu, Nat.not_lt.2 ht]), if_neg (by simp only [hj]; decide)]
  rfl

end Sys2Proof.Machine

open Sys2Proof Sys2Proof.Machine

/-- Settles O34: each command completes with its handler's outcome, or waits for the domain's ramp. -/
theorem powerCommandsComplete : Obligations.PowerCommandsComplete := by
  rintro e io s u rfl
  refine ⟨fun hf hlo hhi h5 hmin => runRow_done hf (cmdPwrSetCap_inRange _ hlo hhi h5 hmin),
    fun hf hm => runRow_done hf (cmdPwrSetMode_fixed _ _ hm),
    fun hf hm hp hj => runRow_done hf (cmdPwrSetMode_performance _ hm hp hj), ?reached,
    fun hf hd ho h68 hp hst hr => runRow_wait hf (cmdPwrDomain_ramps _ hd ho h68 hp hst hr),
    fun hf hd ho h68 hp hst => runRow_wait hf (cmdPwrDomain_ramping _ hd ho h68 hp hst),
    fun hf hs hv => runRow_done hf (cmdEnergyRead_package _ _ hs hv), fun hf hs => runRow_done hf (cmdEnergyRead_partition _ _ hs),
    fun hf hs hq ho => runRow_done hf (cmdEnergyRead_queue _ hs hq ho)⟩
  case reached =>
    intro hf hd ho h68 hp hst
    exact runRow_done hf ((cmdPwrDomain_switchable _ hd ho h68 hp).trans (if_pos hst))

/-- Settles O35: each command completes with its handler's outcome; UNIT_FENCE waits for its tick. -/
theorem reliabilityCommandsComplete : Obligations.ReliabilityCommandsComplete := by
  rintro e io s u rfl
  exact ⟨fun hf hd hlo hhi => runRow_done hf (cmdFaultLogRead_delivered _ hd hlo hhi),
    fun hf ht hlo hhi ha h2 => runRow_done hf (cmdFaultPolicySet_inRange _ _ ht hlo hhi ha h2),
    fun hf h hn => runRow_done hf (cmdScrubConfig_scratchpads _ _ h hn), fun hf h hn => runRow_done hf (cmdScrubConfig_tier2 _ _ h hn),
    fun hf hlo hhi hfr hk => runRow_done hf (cmdReplicaCompareConfig_inRange _ _ hlo hhi hfr hk),
    fun hf ht hu hn hr => runRow_wait hf (cmdUnitFence_scheduled _ ht hu hn hr),
    fun hf ht hu hn => unitUnfence_fenced io hf ht hu hn⟩

/-- Settles O25: the command's state is `unfenced`, in which the entry's registers, not Caliche's fields, change with the table. -/
theorem unfenceClearsEntry : Obligations.UnfenceClearsEntry := by
  rintro e io s u hs rfl hf ht hu hn
  have hregs : risesFrom 0 (startCmd e s).regs = true := by rw [startCmd_regs]; exact hs.regs
  exact ⟨unfenced e (startCmd e s), unitUnfence_fenced io hf ht hu hn, by simp only [unfenced, clearFence_cal],
    by simp only [unfenced, clearFence_cal], clearFence_used hregs hn⟩

/-- Settles O36: each command completes with its handler's outcome. The scanned bits are free (log 23), FREEZE acts from HUB_UP on and the
release looks at FREEZE_N (log 26). -/
theorem debugCommandsComplete : Obligations.DebugCommandsComplete := by
  rintro e io s u rfl
  exact ⟨fun hf hp => runRow_done hf (cmdFreeze_up _ _ hp),
    fun hs hf hfr => runRow_done hf (cmdClockRelease_high _ _ hs.regs hfr),
    fun hf hn hfr => runRow_done hf (cmdScanRead_frozen _ hn hfr), fun hf ht hu hj => runRow_done hf (cmdDiagRun_starts _ ht hu hj)⟩

end

section
/-!
SUPPORT, and the statements on errors and Caliche, power control and start-up, the JTAG port, the management commands, and the host ports,
drives and the management link: each event's equation where its conditions hold.
-/

namespace Sys2Proof.Machine

/-! ### Errors and Caliche (R475, R484, R485) -/

theorem calicheLockstepMismatch_counts {s t : State} {rs : List Nat} (hs : s.pwr.calSupply = true) (hl : s.cal.lasting = false)
    (ht : writeRecord (mkRec s 15 0 3 9 0x1300 24 255 0 0 0 []) false s = t)
    (hrs : (t.cal.upNs :: t.cal.restarts).filter (fun x => decide (t.cal.upNs ≤ x + 3600000000000)) = rs) :
    exec .calicheLockstepMismatch s =
      (let u := wr (bump { t with cal := { t.cal with restarts := rs, restarting := true, lasting := decide (3 ≤ rs.length) } }
         Reg.CAL_RESTARTS 1) Reg.CAL_LOCKSTEP_OK 0
       .next (if 3 ≤ rs.length then stopAll (wr u Reg.CAL_RUNNING 0) 0x05E3 else u)) := by
  show execCalicheLockstepMismatch s = _
  unfold execCalicheLockstepMismatch
  rw [if_neg (by simp [hs, hl])]
  dsimp only
  rw [ht, hrs]
  by_cases h : 3 ≤ rs.length <;> simp [h]

theorem calicheRestartDone_restarting {s : State} (hr : s.cal.restarting = true) (hl : s.cal.lasting = false) :
    exec .calicheRestartDone s =
      (let t := wr (wr { s with cal := { s.cal with restarting := false } } Reg.CAL_LOCKSTEP_OK 1) Reg.CAL_RUNNING 1
       .next (collectLatches (calEvent Reg.CAL_EV_LOCKSTEP 0 (rd t Reg.CAL_LOG_NEXT - 1) t))) :=
  if_pos (by simp [hr, hl])

theorem kaolinHeartbeat_up {s : State} (hd : s.kao.down = false) : exec .kaolinHeartbeat s = .next (wr s Reg.CAL_KAOLIN_ALIVE 1) :=
  if_neg (by simp [hd])

theorem kaolinHeartbeatLost_resets {s t : State} {ks : List Nat} (hc : calAlive s = true) (hp : 2 ≤ pstate s)
    (hf : frozen s = false) (hh : rdb s Reg.CAL_HUB_FAILED = false)
    (ht : calEvent Reg.CAL_EV_KAOLIN_RESET 1 (rd s Reg.CAL_LOG_NEXT) (wr (bump (writeRecord
      (mkRec s 14 6 3 9 0x1301 20 255 0 0 0 []) true s) Reg.CAL_KAOLIN_RESET_CNT 1) Reg.CAL_KAOLIN_ALIVE 0) = t)
    (hks : (t.cal.upNs :: t.cal.kaoResets).filter (fun x => decide (t.cal.upNs ≤ x + 60000000000)) = ks) :
    exec .kaolinHeartbeatLost s =
      (let u := wr { t with kao := { t.kao with down := true }, cal := { t.cal with kaoResets := ks } } Reg.KAO_FW_READY 0
       .next (if 3 ≤ ks.length then hubFailed u else u)) := by
  show execKaolinHeartbeatLost s = _
  unfold execKaolinHeartbeatLost
  rw [if_pos (by simp [hc, hp, hf, hh])]
  dsimp only
  rw [ht, hks]
  exact (apply_ite Host.Outcome.next _ _ _).symm

theorem kaolinRecovered_down {s : State} (hd : s.kao.down = true) (hh : rdb s Reg.CAL_HUB_FAILED = false) :
    exec .kaolinRecovered s = .next (interruptAll (wr { s with kao := { s.kao with down := false } } Reg.KAO_FW_READY 1)) :=
  if_pos (by simp [hd, hh])

theorem hubFailTimeout_down {s : State} (hd : s.kao.down = true) (hc : calAlive s = true) :
    exec .hubFailTimeout s = .next (hubFailed s) :=
  if_pos (by simp [hd, hc])

/-! ### Power control (R501, R504, R505, R507) -/

theorem pmbusSample_alive (reads : List RailRead) {s : State} (hc : calAlive s = true) (hp : pstate s ≠ 0) :
    exec (.pmbusSample reads) s =
      (let xs := (reads ++ List.replicate 8 none).take 8
       let t := (xs.zip (List.range 8)).foldl (fun s x => railSample x.2 x.1 s) s
       let t := wr t Reg.PWR_PEAK_MW (max (packageMw xs) (rd t Reg.PWR_PEAK_MW))
       let t := addEnergy (packageMw xs) { t with pwr := { t.pwr with samples := packageMw xs :: t.pwr.samples } }
       .next ((xs.zip (List.range 8)).foldl (fun s x => if x.1.isNone then railFault x.2 s else s) t)) :=
  if_neg (by simp [hc, hp])

/-- The average power of a control period: that of its samples, or what the register shows where there is none. -/
def periodPower (s : State) : Nat :=
  if s.pwr.samples.length = 0 then rd s Reg.PWR_P_MW else s.pwr.samples.foldl (· + ·) 0 / s.pwr.samples.length

/-- The state in which a control period is judged. -/
def periodState (cap : Nat) (s : State) : State :=
  wr (wr { s with pwr := { s.pwr with samples := [] } } Reg.PWR_P_MW (periodPower s)) Reg.PWR_MIN_CAP_W cap

theorem controlPeriodEnd_eq (cap : Nat) (s : State) : exec (.controlPeriodEnd cap) s =
    (let t := periodState cap s
     let p := periodPower s
     if decide (rd t Reg.PWR_CAP_W * 1000 < p) || hotter t throttleAt 0 then .next (overPeriod t)
     else if decide (p + 5000 * rd t Reg.PWR_HYST_STEP ≤ rd t Reg.PWR_CAP_W * 1000) && !hotter t throttleAt 24 then
       .next (underPeriod t)
     else .next { t with pwr := { t.pwr with escCount := 0, underCount := 0 } }) := rfl

theorem controlPeriodEnd_over {cap : Nat} {s : State}
    (h : rd (periodState cap s) Reg.PWR_CAP_W * 1000 < periodPower s ∨ hotter (periodState cap s) throttleAt 0 = true) :
    exec (.controlPeriodEnd cap) s = .next (overPeriod (periodState cap s)) := by
  rw [controlPeriodEnd_eq]
  exact if_pos (by simpa using h)

theorem controlPeriodEnd_under {cap : Nat} {s : State}
    (hp : periodPower s + 5000 * rd (periodState cap s) Reg.PWR_HYST_STEP ≤ rd (periodState cap s) Reg.PWR_CAP_W * 1000)
    (h0 : hotter (periodState cap s) throttleAt 0 = false) (h24 : hotter (periodState cap s) throttleAt 24 = false) :
    exec (.controlPeriodEnd cap) s = .next (underPeriod (periodState cap s)) := by
  have hcap : ¬ rd (periodState cap s) Reg.PWR_CAP_W * 1000 < periodPower s := by omega
  rw [controlPeriodEnd_eq]
  dsimp only
  rw [if_neg (by simp [hcap, h0]), if_pos (by simp [hp, h24])]

theorem controlPeriodEnd_between {cap : Nat} {s : State} (hp : periodPower s ≤ rd (periodState cap s) Reg.PWR_CAP_W * 1000)
    (h0 : hotter (periodState cap s) throttleAt 0 = false)
    (h : rd (periodState cap s) Reg.PWR_CAP_W * 1000 < periodPower s + 5000 * rd (periodState cap s) Reg.PWR_HYST_STEP ∨
      hotter (periodState cap s) throttleAt 24 = true) :
    exec (.controlPeriodEnd cap) s =
      .next { periodState cap s with pwr := { (periodState cap s).pwr with escCount := 0, underCount := 0 } } := by
  have hnot : ¬ (decide (periodPower s + 5000 * rd (periodState cap s) Reg.PWR_HYST_STEP ≤
      rd (periodState cap s) Reg.PWR_CAP_W * 1000) && !hotter (periodState cap s) throttleAt 24) = true := by
    obtain h | h := h
    · simp [Nat.not_le.2 h]
    · simp [h]
  rw [controlPeriodEnd_eq]
  dsimp only
  rw [if_neg (by simp [Nat.not_lt.2 hp, h0]), if_neg hnot]

/-- The boost level after one step: one up, to at most 4, below the cap and cool; one down otherwise. -/
def boostNext (s : State) : Nat :=
  if s.pwr.samples.headD (rd s Reg.PWR_P_MW) < rd s Reg.PWR_CAP_W * 1000 ∧ hotter s throttleAt 0 = false then min 4 (s.pwr.boost + 1)
  else s.pwr.boost - 1

theorem boostStep_performance {s : State} (hp : rd s Reg.PWR_PERF = 1) :
    exec .boostStep s = .next { s with pwr := { s.pwr with boost := boostNext s } } := by
  show execBoostStep s = _
  unfold execBoostStep boostNext
  rw [if_neg (by simp [hp])]
  simp only [Bool.and_eq_true, decide_eq_true_eq, Bool.not_eq_true']
  split <;> rfl

theorem domainRampDone_ramping {d : Nat} {r : Nat × Bool} {s : State} (hr : s.pwr.ramps.find? (·.1 == d) = some r) :
    exec (.domainRampDone d) s = .next (domainServed d (endRamp d r.2 s)) := by
  show execDomainRampDone d s = _
  unfold execDomainRampDone
  rw [hr]

/-! ### Stages up and down (R524, R528, R530) -/

theorem powerStageExit_hub (strap : Nat) (failed : List (Nat × Nat)) (untrained : List Nat) (s : State) (hk : s.pwr.stage = some 2) :
    exec (.powerStageExit strap failed untrained) s = .next (exitHub (strap % 256) s) := by
  show execPowerStageExit strap failed untrained s = _
  unfold execPowerStageExit
  simp only [hk]

theorem powerStageExit_stacks (strap : Nat) (failed : List (Nat × Nat)) (untrained : List Nat) (s : State)
    (hk : s.pwr.stage = some 3) : exec (.powerStageExit strap failed untrained) s = .next (exitStacks failed untrained s) := by
  show execPowerStageExit strap failed untrained s = _
  unfold execPowerStageExit
  simp only [hk]

theorem powerStageExit_trained (strap : Nat) (failed : List (Nat × Nat)) (untrained : List Nat) (s : State)
    (hk : s.pwr.stage = some 4) (hup : (List.range 96).all (isUp s) = true) :
    exec (.powerStageExit strap failed untrained) s = .next (exitTrain s) := by
  show execPowerStageExit strap failed untrained s = _
  unfold execPowerStageExit
  rw [hk]
  exact congrArg _ (if_pos hup)

/-- A down step that the package may take: it goes on below, or has arrived and takes up the request that waited for it. -/
theorem downStepDone_down {s : State} (hd : rdb s Reg.SEQ_DOWN = true) (hj : anyJob s = false) (hf : frozen s = false) :
    exec .downStepDone s =
      (if rd (downStep s) Reg.SEQ_TARGET < pstate (downStep s) then .next (downStart (downStep s))
       else
         let t := mapCheck (downArrives (downStep s))
         match t.pwr.nextTarget with
         | some n =>
           let u := { t with pwr := { t.pwr with nextTarget := none } }
           .next (if pstate u = 0 ∨ !rdb u Reg.HIF_PIN_PWR_EN then u else onRequest n u)
         | none => .next t) :=
  if_neg (by simp [hd, hj, hf])

theorem downStepDone_waits {n : Nat} {s : State} (hd : rdb s Reg.SEQ_DOWN = true) (hj : anyJob s = false) (hf : frozen s = false)
    (hp : pstate (downStep s) ≤ rd (downStep s) Reg.SEQ_TARGET)
    (hn : (mapCheck (downArrives (downStep s))).pwr.nextTarget = some n) :
    exec .downStepDone s =
      (let t := mapCheck (downArrives (downStep s))
       let u := { t with pwr := { t.pwr with nextTarget := none } }
       .next (if pstate u = 0 ∨ !rdb u Reg.HIF_PIN_PWR_EN then u else onRequest n u)) := by
  rw [downStepDone_down hd hj hf, if_neg (Nat.not_lt.2 hp)]
  dsimp only
  rw [hn]

theorem downStepDone_arrived {s : State} (hd : rdb s Reg.SEQ_DOWN = true) (hj : anyJob s = false) (hf : frozen s = false)
    (hp : pstate (downStep s) ≤ rd (downStep s) Reg.SEQ_TARGET)
    (hn : (mapCheck (downArrives (downStep s))).pwr.nextTarget = none) :
    exec .downStepDone s = .next (mapCheck (downArrives (downStep s))) := by
  rw [downStepDone_down hd hj hf, if_neg (Nat.not_lt.2 hp)]
  dsimp only
  rw [hn]

/-! ### The election of a tick master and the lock (R533, R534) -/

theorem electListenExpiry_listens {s : State} (hl : listens s = true) (hc : s.tick.candidate = false) : exec .electListenExpiry s =
    .next (floodCandidate { s with tick := { s.tick with candidate := true, heard := [] } }) :=
  if_pos (by simp [hl, hc])

theorem electionClose_elected {b : Candidate} {s : State} (hl : listens s = true) (hc : s.tick.candidate = true)
    (hb : bestOf (ownCandidate s :: s.tick.heard) = some b) : exec .electionClose s =
      (let t := { s with tick := { s.tick with
         joined := (s.tick.heard.filter (·.eligible)).map (fun c => (c.pkg, c.prio, c.tray)) } }
       .next (if b.pkg = pkgId t then becomeMaster (ownCandidate s :: s.tick.heard) t
         else { t with tick := { t.tick with candidate := false, heard := [] } })) := by
  show execElectionClose s = _
  unfold execElectionClose
  rw [if_neg (by simp [hl, hc])]
  dsimp only
  rw [hb]
  exact (apply_ite Host.Outcome.next _ _ _).symm

theorem electionClose_noneEligible {s : State} (hl : listens s = true) (hc : s.tick.candidate = true)
    (hb : bestOf (ownCandidate s :: s.tick.heard) = none) : exec .electionClose s =
      (let t := pwrEvent Reg.SEQ_EV_NO_ELIGIBLE 0x25 s
       let u := if 6 ≤ rd t Reg.SEQ_TARGET then powerOutcome 0x05C5 t else t
       .next { u with tick := { u.tick with candidate := false, heard := [] } }) := by
  show execElectionClose s = _
  unfold execElectionClose
  rw [if_neg (by simp [hl, hc])]
  dsimp only
  rw [hb]

theorem tickLocked_role {s : State} (hr : rd s Reg.TICK_ROLE ≠ 0) (hf : frozen s = false) : exec .tickLocked s =
    (let t := wr s Reg.TICK_LOCKED 1
     .next (if pstate t = 5 ∧ !rdb t Reg.SEQ_DOWN ∧ 6 ≤ rd t Reg.SEQ_TARGET then enterReady t else t)) :=
  if_neg (by simp [hr, hf])

/-! ### The JTAG port (R559, R560) -/

/-- On the Caliche supply an instruction that the state allows has its effect. -/
theorem jtagRow_allowed {ok : Bool} (tdi : List Bool) (f : State → State) {s : State} (hs : s.pwr.calSupply = true) (hok : ok = true) :
    jtagRow ok tdi f s = .next (f s) := by
  simp [jtagRow, hs, hok]

theorem jtagIdcode_supplied (tdi : List Bool) {s : State} (hs : s.pwr.calSupply = true) : exec (.jtagIdcode tdi) s =
    .next (emit { s with hif := { s.hif with jtagIr := .idcode } } (.tdo ((idcodeBits ++ tdi).take tdi.length))) := by
  show execJtagIdcode tdi s = _
  exact jtagRow_allowed tdi _ hs rfl

theorem jtagBypass_supplied (tdi : List Bool) {s : State} (hs : s.pwr.calSupply = true) : exec (.jtagBypass tdi) s =
    .next (emit { s with hif := { s.hif with jtagIr := .bypass } } (.tdo ((false :: tdi).take tdi.length))) := by
  show jtagRow false tdi id s = _
  simp [jtagRow, hs, jtagBypass]

theorem idcodeBits_eq : idcodeBits = (List.range 32).map (fun i => (0xBC008C77#32).getLsbD i) := rfl

/-- A shift of 32 bits or more gives the whole of a 32-bit register first. -/
theorem take_idcodeBits {tdi : List Bool} (h : 32 ≤ tdi.length) :
    (idcodeBits ++ tdi).take tdi.length = idcodeBits ++ tdi.take (tdi.length - 32) := by
  have hlen : idcodeBits.length = 32 := rfl
  rw [List.take_append, hlen, List.take_of_length_le (by omega)]

/-! ### Management (R495, R496, R550, R551) -/

/-- Caliche answers over MCTP while it runs, from STANDBY on. -/
theorem mcTp_alive (f : State → State) {s : State} (hc : calAlive s = true) (hp : 1 ≤ pstate s) : mcTp s f = .next (f s) := by
  have hoff : ¬ pstate s = 0 := by omega
  simp [mcTp, hc, hoff]

theorem staemCollectorAck_collector {addr port : Nat} (first : Nat) {s : State} (ha : s.cal.collector = some (addr, port))
    (hc : calAlive s = true) : exec (.staemCollectorAck addr first) s = .next (deliverTo first s) := by
  show execStaemCollectorAck addr first s = _
  unfold execStaemCollectorAck
  rw [ha]
  exact if_pos ⟨rfl, hc⟩

theorem pldmFirmwareUpdate_kaolin (img : FwImage) {s : State} (hc : calAlive s = true) : exec (.pldmFirmwareUpdate .kaolin img) s =
    .next (wr { s with hif := { s.hif with slots := tput FwImage.none s.hif.slots (1 - rd s Reg.SEQ_ACTIVE_SLOT) img } }
      Reg.SEQ_ACTIVE_SLOT (1 - rd s Reg.SEQ_ACTIVE_SLOT)) :=
  if_neg (by simp [hc])

theorem pldmFirmwareUpdate_caliche (img : FwImage) {s : State} (hc : calAlive s = true) :
    exec (.pldmFirmwareUpdate .caliche img) s = .next { s with hif := { s.hif with slots := tput FwImage.none s.hif.slots 2 img } } :=
  if_neg (by simp [hc])

theorem pldmRequest_sensor {i : Nat} {b : Bytes} {s : State} (hc : calAlive s = true) (hb : sensorValue s i = some b) :
    exec (.pldmRequest (.sensor i)) s = .next (emit s (.mctp 0 b)) := by
  show execPldmRequest (.sensor i) s = _
  unfold execPldmRequest
  rw [if_neg (by simp [hc])]
  dsimp only
  rw [hb]

theorem mctpControlRequest_setEid {n : Nat} {s : State} (hc : calAlive s = true) (hlo : 8 ≤ n) (hhi : n ≤ 254) :
    exec (.mctpControlRequest (.setEid n)) s =
      .next (emit { s with hif := { s.hif with eid := n } } (.mctp 0 [0, BitVec.ofNat 8 n, 0])) := by
  show execMctpControlRequest (.setEid n) s = _
  unfold execMctpControlRequest
  rw [if_neg (by simp [hc])]
  exact if_neg (by omega)

/-- The ICMPv6 types that a link in service answers. -/
theorem mgmtIcmpv6Packet_up (type : Nat) (slaac : Bool) (body : Bytes) {s : State} (hc : calAlive s = true)
    (hu : rdb s Reg.HIF_MGMT_UP = true) : exec (.mgmtIcmpv6Packet type slaac body) s =
      (if type = 128 then .next (emit s (.mgmtReply (129 :: body)))
       else if type = 135 then .next (emit s (.mgmtReply (136 :: body)))
       else if type = 130 then .next (emit s (.mgmtReply (143 :: body)))
       else if type = 134 ∧ slaac then .next (wr s Reg.HIF_MGMT_ADDR 1)
       else .next s) :=
  if_neg (by simp [hc, hu])

/-! ### Host ports, drives and the management link (R452, R541, R544 to R546, R549) -/

theorem not_beyond_or_not_run {x n : Nat} {s : State} (hx : x < n) (hr : portsRun s = true) : ¬ (n ≤ x ∨ (!portsRun s) = true) := by
  simp [hx, hr]

/-- A port's or a function's event that acts while the ports run. -/
theorem next_of_ports {x n : Nat} {s t : State} (hx : x < n) (hr : portsRun s = true) :
    Host.Outcome.next (if n ≤ x ∨ !portsRun s then s else t) = (.next t : Host.Outcome State Fault Refusal) :=
  congrArg _ (if_neg (not_beyond_or_not_run hx hr))

theorem hostPortL0Change_port {x ltssm : Nat} (rate width : Nat) (flit : Bool) {s : State} (hx : x < 2) (hl : ltssm < 8)
    (hr : portsRun s = true) : exec (.hostPortL0Change x ltssm rate width flit) s =
      .next (setLtssm x ltssm (wrb (wr (wr s (Reg.HIF_RATE x) rate) (Reg.HIF_WIDTH x) width) (Reg.HIF_FLIT x) flit)) :=
  if_neg (by simp [hx, hl, hr])

theorem ideStreamInsecure_keyed {x stream : Nat} {s : State} (hx : x < 2) (hs : stream < 3) (hr : portsRun s = true)
    (hk : s.hif.ideKeyed.contains (x * 4 + stream) = true) (hf : s.hif.ideFailed.contains (x * 4 + stream) = false) :
    exec (.ideStreamInsecure x stream) s = .next (hifEvent Reg.HIF_EV_IDE_FAIL 6 (showIde x (bump { s with hif := { s.hif with
      ideFailed := s.hif.ideFailed ++ [x * 4 + stream] } } (Reg.HIF_N_IDE_FAIL_CNT x) 1))) := by
  have hno : ¬ (2 ≤ x ∨ 3 ≤ stream ∨ (!portsRun s) = true ∨ (!s.hif.ideKeyed.contains (x * 4 + stream)) = true ∨
      s.hif.ideFailed.contains (x * 4 + stream) = true) := by
    simp only [hr, hk, hf, Bool.not_true, Bool.false_eq_true, or_false]; omega
  exact if_neg hno

theorem hostDmaError_port {x : Nat} (k : PortError) (cmd : Option (Nat × Entry)) {s : State} (hx : x < 2) (hr : portsRun s = true) :
    exec (.hostDmaError x k cmd) s = match cmd with
      | some c => .next (if srcPort (portError x k s) c.2.src = x then runEntry c.1 c.2 ⟨none, true, none⟩ (portError x k s)
          else portError x k s)
      | none => .next (portError x k s) := by
  show execHostDmaError x k cmd s = _
  cases cmd with
  | none => exact if_neg (not_beyond_or_not_run hx hr)
  | some c => exact if_neg (not_beyond_or_not_run hx hr)

theorem nvmeDriveReturn_absent {x : Nat} {s : State} (hx : x < 2) (hr : portsRun s = true)
    (hd : rd s (Reg.HIF_LTSSM (2 + x)) ≠ 2 ∨ rdb s (Reg.HIF_DEV_PRESENT (2 + x)) = false) :
    exec (.nvmeDriveReturn x) s = .next (portChange (2 + x) (rebuildPort (x + 1)
      (wr (wr s (Reg.HIF_LTSSM (2 + x)) 2) (Reg.HIF_DEV_PRESENT (2 + x)) 1))) := by
  have hgone : ¬ (rd s (Reg.HIF_LTSSM (2 + x)) = 2 ∧ rdb s (Reg.HIF_DEV_PRESENT (2 + x)) = true) := by
    rintro ⟨h1, h2⟩
    obtain h | h := hd
    · exact h h1
    · simp [h] at h2
  have hno : ¬ (2 ≤ x ∨ (!portsRun s) = true ∨
      (rd s (Reg.HIF_LTSSM (2 + x)) = 2 ∧ rdb s (Reg.HIF_DEV_PRESENT (2 + x)) = true)) := by
    rintro (h | h | h)
    · omega
    · simp [hr] at h
    · exact hgone h
  exact if_neg hno

theorem mgmtLinkChange_changes {up : Bool} {s : State} (hs : s.pwr.calSupply = true) (hu : rdb s Reg.HIF_MGMT_UP = !up) :
    exec (.mgmtLinkChange up) s = .next (hifEvent Reg.HIF_EV_MGMT_LINK 8 (wrb s Reg.HIF_MGMT_UP up)) :=
  if_neg (by simp [hs, hu])

end Sys2Proof.Machine

open Sys2Proof Sys2Proof.Machine

/-- Settles O58, an event's equation for each clause; the latch, the leak and the rate second have no condition and are their meanings
unfolded. -/
theorem reliabilityEventsComplete : Obligations.ReliabilityEventsComplete := by
  intro s
  exact ⟨fun _ => rfl, rfl, rfl, fun t rs => calicheLockstepMismatch_counts, calicheRestartDone_restarting, kaolinHeartbeat_up,
    fun t ks => kaolinHeartbeatLost_resets, kaolinRecovered_down, hubFailTimeout_down⟩

/-- Settles O59, an event's equation for each clause. A stage is one command (log 52), and a package that loses an election keeps its
TICK_ROLE (log 51): both deduced. -/
theorem powerEventsComplete : Obligations.PowerEventsComplete := by
  intro s
  refine ⟨?sample, ?period, ?boost, fun d r => domainRampDone_ramping, fun _ _ _ => powerStageExit_hub _ _ _ s,
    fun _ _ _ => powerStageExit_stacks _ _ _ s, fun _ _ _ => powerStageExit_trained _ _ _ s, fun _ hk => congrArg _ (if_pos hk), ?further, ?arrives,
    fun hk => congrArg _ (if_pos hk), electListenExpiry_listens, fun hl hc he => congrArg _ (if_pos ⟨hl, hc, he⟩),
    fun b => electionClose_elected, electionClose_noneEligible, tickLocked_role⟩
  case sample =>
    rintro reads xs hc hp rfl
    exact pmbusSample_alive reads hc hp
  case period =>
    rintro cap p t rfl rfl
    exact ⟨controlPeriodEnd_over, controlPeriodEnd_under, controlPeriodEnd_between⟩
  case boost =>
    rintro b hp rfl
    exact boostStep_performance hp
  case further =>
    intro hd hj hf ht
    rw [downStepDone_down hd hj hf, if_pos ht]
  case arrives =>
    intro hd hj hf hp
    refine ⟨?waits, fun hn => downStepDone_arrived hd hj hf hp hn⟩
    rintro n hn u rfl
    exact downStepDone_waits hd hj hf hp hn

/-- Settles O24: the register's bits come first, and 32 shifts take them all (`take_idcodeBits`). -/
theorem idcodeReads : Obligations.IdcodeReads := by
  intro tdi s hs h
  refine ⟨_, tdi.take (tdi.length - 32), jtagIdcode_supplied tdi hs, ?_⟩
  rw [take_idcodeBits h, idcodeBits_eq]
  rfl

/-- Settles O42: an instruction that the state allows has its effect (`jtagRow_allowed`). Scanned bits are free (log 23). -/
theorem jtagCommandsComplete : Obligations.JtagCommandsComplete := by
  intro s tdi hs
  refine ⟨jtagBypass_supplied tdi hs, jtagIdcode_supplied tdi hs, fun hp => ?sample, fun hb => ⟨?extest, ?clamp, ?highz⟩,
    fun chain hf => ?select, fun hf => ?shift⟩
  case sample =>
    show execJtagSamplePreload tdi s = _
    exact jtagRow_allowed tdi _ hs (decide_eq_true hp)
  case extest =>
    show execJtagExtest tdi s = _
    exact jtagRow_allowed tdi _ hs hb
  case clamp =>
    show execJtagClamp tdi s = _
    exact jtagRow_allowed tdi _ hs hb
  case highz =>
    show execJtagHighz tdi s = _
    exact jtagRow_allowed tdi _ hs hb
  case select =>
    show execScanSel chain s = _
    exact jtagRow_allowed _ _ hs hf
  case shift =>
    show execScanShift tdi s = _
    exact jtagRow_allowed tdi _ hs hf

/-- Settles O40: Caliche answers while it runs (`mcTp_alive`), a command's equation for each of the others. The endpoint's range, the ICMPv6
types and the sensors are the standards' (log 20, presumed); an update flips ACTIVE_SLOT by log 55 (deduced). -/
theorem managementCommandsComplete : Obligations.ManagementCommandsComplete := by
  intro s
  refine ⟨?get, ?collector, ?ack, ?status, fun addr port first => staemCollectorAck_collector first, fun h => if_pos h, rfl, fun img => pldmFirmwareUpdate_kaolin img,
    fun img => pldmFirmwareUpdate_caliche img, fun i b => pldmRequest_sensor, fun hc => if_neg (by simp [hc]),
    fun n => mctpControlRequest_setEid, fun hc => if_neg (by simp [hc]), fun hc => if_neg (by simp [hc]), ?icmp,
    fun dyn hs => congrArg _ (if_pos hs)⟩
  case get =>
    intro idx hc hp
    show execStaemGet idx s = _
    refine (mcTp_alive _ hc hp).trans ?_
    cases logRange s (max idx (rd s Reg.CAL_LOG_OLDEST)) (rd s Reg.CAL_LOG_NEXT) <;> rfl
  case collector =>
    intro addr port hc hp
    show execStaemSetCollector addr port s = _
    exact mcTp_alive _ hc hp
  case ack =>
    intro idx hc hp
    show execStaemAck idx s = _
    exact mcTp_alive _ hc hp
  case status =>
    intro hc hp
    show execCalicheStatus s = _
    exact mcTp_alive _ hc hp
  case icmp =>
    intro slaac body hc hu
    exact ⟨mgmtIcmpv6Packet_up 128 slaac body hc hu, mgmtIcmpv6Packet_up 135 slaac body hc hu,
      mgmtIcmpv6Packet_up 130 slaac body hc hu, mgmtIcmpv6Packet_up 134 true body hc hu⟩

/-- Settles O60, an event's equation for each clause. A failing read runs its entry with no data (log 65), and PF FLR ends the sessions of its
port (log 25): both deduced. -/
theorem portEventsComplete : Obligations.PortEventsComplete := by
  intro s
  refine ⟨fun x hx hr => next_of_ports hx hr, ?vfFlr,
    fun x hx hr => next_of_ports hx hr, fun x on hx hr => if_neg (not_beyond_or_not_run hx hr),
    ?busMaster, fun x l rate width flit => hostPortL0Change_port rate width flit,
    fun x stream => ideStreamInsecure_keyed, ?dmaCommand, fun x k hx hr => hostDmaError_port k none hx hr, fun x => rfl,
    fun x hx hr => next_of_ports hx hr, fun x hx hr => next_of_ports hx hr,
    fun x => nvmeDriveReturn_absent, fun up => mgmtLinkChange_changes⟩
  case vfFlr =>
    intro p hp hr
    show execVfFlr p s = _
    exact next_of_ports hp hr
  case busMaster =>
    intro fn on hfn hr
    show execBusMasterEnableChange fn on s = _
    exact if_neg (not_beyond_or_not_run hfn hr)
  case dmaCommand =>
    intro x k op e hx hr hsrc
    rw [hostDmaError_port k _ hx hr]
    exact congrArg _ (if_pos hsrc)

end

section
/-!
SUPPORT, and the statements on remote memory, the CTL messages of serving, weights and sessions, and the events of requests and sessions:
each command's equation where its conditions hold.
-/

namespace Sys2Proof.Machine

/-! ### Remote memory (R297, R299, R301, R304, R311) -/

theorem remoteRequestHome_serves {q : RmtReq} (ue : List Nat) {s : State} (hf : frozen s = false) (hw : waitsBehind s q = false) :
    exec (.remoteRequestHome q ue) s = .next (serveReq q (takeUe ue (takePacket false q.src (encodeReq q) s))) :=
  if_neg (by simp [hf, hw])

theorem remoteResponse_received (r : RmtRsp) {s : State} (hf : frozen s = false) : exec (.remoteResponse r) s =
    .next (receiveRsp r.reqid r.tag r.code r.data (takePacket true r.src (encodeRsp r) s)) :=
  if_neg (by simp [hf])

/-- A well-formed access of a ready thread with room to a package that there is. -/
theorem ccRemoteAccess_issued {a : CcAccess} {s t : State} (hr : threadReady s a.thread = true) (ha : a.addr / 2 ^ 56 = 128)
    (hw : wellFormedReq (ccRequest s a) = true) (hp : acceptsPkg s ((ccRequest s a).addr / 2 ^ 48) = true)
    (hroom : hasRoom s a.thread = true) (ht : issueReq (ccRequest s a) s = (t, true)) : exec (.ccRemoteAccess a) s = .next t := by
  have hok : ¬ (a.addr / 2 ^ 56 ≠ 128 ∨ (!wellFormedReq (ccRequest s a)) = true ∨
      (!acceptsPkg s ((ccRequest s a).addr / 2 ^ 48)) = true) := by
    simp only [ha, hw, hp, ne_eq, not_true_eq_false, Bool.not_true, Bool.false_eq_true, or_self, not_false_eq_true]
  show execCcRemoteAccess a s = _
  unfold execCcRemoteAccess
  dsimp only
  rw [if_neg (by simp [hr]), if_neg hok, if_neg (by simp [hroom]), ht]
  rfl

theorem ccFence_ready {t : Nat} {s : State} (hr : threadReady s t = true) : exec (.ccFence t) s =
    (if (outOf s (threadReqid t)).isEmpty then .next (endFence t s)
     else .next { s with rmt := { s.rmt with fences := s.rmt.fences ++ [t] } }) :=
  if_neg (by simp [hr])

/-- A plain access of a ready thread to its package's own space: first the mapped pages, then the scratchpads it may use. -/
theorem ccLocalAccess_plain {a : CcAccess} (ue : List Nat) {s : State} (ht : a.thread < 256) (hr : threadReady s a.thread = true)
    (hp : plainAccess a = true) : exec (.ccLocalAccess a ue) s =
      (let p := threadOwner s a.thread
       let t := takeUe ue s
       if a.addr < rangePages t p * pageBytes then .next (coreTier p a t)
       else if !ownScratch t p a.addr ∨ (a.op = .store ∧ liveLocked t a.addr (2 ^ a.size)) then .next (emit t (.thread a.thread true 1))
       else if holds t a.addr then .next (holdAccess (.core a) a.addr t)
       else .next (coreScratch a t)) := by
  have hready : ¬ (256 ≤ a.thread ∨ (!threadReady s a.thread) = true) := by
    simp only [hr, Bool.not_true, Bool.false_eq_true, or_false]; omega
  show execCcLocalAccess a ue s = _
  unfold execCcLocalAccess
  dsimp only
  rw [if_neg hready, if_neg (by simp [hp])]

/-! ### CTL messages of serving, weights and sessions (R354, R384, R388, R406, R407, R410) -/

theorem applyGrant_target {h : CtlHdr} (slots pages : Nat) {i : Nat} {u : State}
    (hi : peerIndex (admitCfg u h.dstPart).targets h.srcPkg h.srcPart = some i) : applyGrant h slots pages u =
      (ackWith 0, setCredit h.dstPart i ((tget (0, 0) u.srv.credits (4 * h.dstPart + i)).1 + slots,
        (tget (0, 0) u.srv.credits (4 * h.dstPart + i)).2 + pages) u) := by
  unfold applyGrant
  dsimp only
  rw [hi]

theorem applyReturn_source {h : CtlHdr} (slots pages : Nat) {i : Nat} {u : State}
    (hi : peerIndex (admitCfg u h.dstPart).sources h.srcPkg h.srcPart = some i) : applyReturn h slots pages u =
      (ackWith 0, setGrant h.dstPart i ((tget (0, 0) u.srv.granted (4 * h.dstPart + i)).1 - slots,
        (tget (0, 0) u.srv.granted (4 * h.dstPart + i)).2 - pages) u) := by
  unfold applyReturn
  dsimp only
  rw [hi]

/-- A lead of a decoding slice that has granted the source a slot and the pages takes the request into its first free slot. -/
theorem applyAssign_granted {h : CtlHdr} {req ctl : Bytes} (jidx gen : Nat) {i n : Nat} {r : List Nat} {u : State}
    (hi : peerIndex (admitCfg u h.dstPart).sources h.srcPkg h.srcPart = some i) (hl : isLead u h.dstPart = true)
    (h3 : roleOf u h.dstPart ≠ 3) (h0 : roleOf u h.dstPart ≠ 0) (hslot : (tget (0, 0) u.srv.granted (4 * h.dstPart + i)).1 ≠ 0)
    (hpages : (ctlOf ctl).kvResv / 64 ≤ (tget (0, 0) u.srv.granted (4 * h.dstPart + i)).2)
    (hfree : freeSlots u h.dstPart = n :: r) : applyAssign h req ctl jidx gen u =
      (none, setGrant h.dstPart i ((tget (0, 0) u.srv.granted (4 * h.dstPart + i)).1 - 1,
        (tget (0, 0) u.srv.granted (4 * h.dstPart + i)).2 - (ctlOf ctl).kvResv / 64)
        (askSlot n (.install (assignedSlot u h.dstPart n ((admitCfg u h.dstPart).sources.getD i 255) req ctl jidx gen)
          h.srcPkg h.mseq) (modSrv (fun v => { v with order := v.order + 1 }) u))) := by
  unfold applyAssign
  dsimp only
  rw [hi]
  dsimp only
  rw [if_neg (by simp [hl]), if_neg h3, if_neg h0, if_neg (by omega), hfree]

theorem applyInstalled_assigned {h : CtlHdr} {jidx gen : Nat} (tjidx tgen : Nat) {i n : Nat} {u : State}
    (hi : peerIndex (admitCfg u h.dstPart).targets h.srcPkg h.srcPart = some i)
    (hn : assignSlot u h.dstPart (List.replicate 128 0 ++ leBytes 2 jidx ++ leBytes 2 gen) = some n) :
    applyInstalled h jidx gen tjidx tgen u = (ackWith 0, askSlot n (.installed tjidx tgen) u) := by
  unfold applyInstalled
  dsimp only
  rw [hi]
  dsimp only
  rw [hn]

theorem applyPkgDigest_member {h : CtlHdr} (unit w : Nat) (void : Bool) (d : Nat) {k : Nat} {u : State}
    (hk : rankOf u h.dstPart h.srcPkg h.srcPart = some k) : applyPkgDigest h unit w void d u =
      (ackWith 0, shareDigest h.dstPart w unit (addDigest h.dstPart ⟨w, unit, k, d, void⟩ u)) := by
  unfold applyPkgDigest
  rw [hk]

theorem applySliceDigest_peer {h : CtlHdr} {unit w mid epoch : Nat} (void : Bool) (d : Nat) {k : Nat × Nat × Nat} {u : State}
    (hk : (vexPeers u h.dstPart).find? (fun k => k.2.1 == h.srcPkg && k.2.2 == h.srcPart) = some k)
    (hm : mid = (part u h.dstPart).modelId) (he : epoch = (part u h.dstPart).modelEpoch) (hu : unit = windowUnit u h.dstPart w) :
    applySliceDigest h unit w void mid epoch d u = (ackWith 0, addDigest h.dstPart ⟨w, unit, 256 + k.1, d, void⟩ u) := by
  unfold applySliceDigest
  dsimp only
  rw [hk]
  exact if_pos ⟨hm, he, hu⟩

theorem applyUnitDone_new {h : CtlHdr} {unit epoch : Nat} {r : Replacement} {k : Nat} {u : State} (hr : replOf u h.dstPart = some r)
    (hk : rankOf u h.dstPart h.srcPkg h.srcPart = some k) (he : r.epoch = epoch) (hn : r.units.contains (k, unit) = false) :
    applyUnitDone h unit epoch u =
      (ackWith 0, setRepl h.dstPart (some { r with units := r.units ++ [(k, unit)] }) u) := by
  unfold applyUnitDone
  rw [hr, hk]
  exact if_pos ⟨he, by simp only [hn, Bool.not_false]⟩

theorem applySegReport_image {h : CtlHdr} {image : Nat} (last : Bool) (medium bytes units : Nat) (uhs : List (Nat × BitVec 256))
    {u : State} (hi : (imageOf u image).isSome = true) : applySegReport h image last medium bytes units uhs u =
      (ackWith 0, takeReport image h.srcPkg last medium bytes units uhs u) := by
  obtain ⟨g, hg⟩ := Option.isSome_iff_exists.1 hi
  unfold applySegReport
  rw [hg]

theorem applyUnitFetch_held {image i off want : Nat} {b : Bytes} {u : State} (hb : fetchBytes u image i off want = some b) :
    applyUnitFetch image i off want u = (some (0x52, unitBody image i off 0 b), bump u Reg.SESS_BYTES_IN_CNT b.length) := by
  unfold applyUnitFetch
  rw [hb]

theorem applyUnitData_operation {image : Nat} (i off st : Nat) (data : Bytes) {o : SessOp} {u : State}
    (ho : u.srv.sessOps.find? (fun o => opImage o.kind == some image) = some o) :
    applyUnitData image i off st data u = (none, takeUnit o (imageLead image) i off st data u) := by
  unfold applyUnitData
  rw [ho]

theorem applyUnitData_import {image : Nat} (i off : Nat) (data : Bytes) {u : State}
    (ho : u.srv.sessOps.find? (fun o => opImage o.kind == some image) = none) :
    applyUnitData image i off 0 data u = (none, placeUnit image i off data u) := by
  unfold applyUnitData
  rw [ho]
  rfl

theorem applyThawReport_thaw {h : CtlHdr} {image : Nat} (st units : Nat) {o : SessOp} {u : State}
    (ho : u.srv.sessOps.find? (isThawOf image) = some o) : applyThawReport h image st units u =
      (ackWith 0, if st ≠ 0 then endOp o st 0 u else
        setOps (u.srv.sessOps.map (fun x => if x = o then
          { x with reports := x.reports.filter (fun r => r.1 != h.srcPkg) ++ [(h.srcPkg, st, units)] } else x)) u) := by
  unfold applyThawReport
  rw [ho]
  exact (apply_ite (Prod.mk (ackWith 0)) _ _ _).symm

/-! ### Requests in time (R343, R361, R409) -/

theorem requestLingerExpiry_due {p j : Nat} {s : State} (hj : j < slotCount s p) (hs : 8 ≤ (slotOf s (slotBase s p + j)).req.state)
    (hl : (slotOf s (slotBase s p + j)).since + 64 * rd s (Reg.SRV_P_LINGER64 p) ≤ frameNo s) :
    exec (.requestLingerExpiry p j) s = .next (askSlot (slotBase s p + j) .release s) :=
  if_pos ⟨hj, hs, hl⟩

/-- The admission of a slot whose prompt is being fetched. -/
def fetchingAdmit (s : State) (p n : Nat) : Option Admission :=
  (tget none s.srv.pass p).bind (fun x => x.admits.find? (fun a => a.slot == n && !a.fetched && a.fail == 0))

theorem promptFetchDone_noData {p j : Nat} {a : Admission} {s : State} (ha : fetchingAdmit s p (slotBase s p + j) = some a) :
    exec (.promptFetchDone p j none) s = .next (srvEvent Reg.SRV_ERR_PROMPT_READ 2 p
      (modAdmit p (slotBase s p + j) (fun a => { a with fail := 0x0581 }) s)) := by
  unfold fetchingAdmit at ha
  show execPromptFetchDone p j none s = _
  unfold execPromptFetchDone
  dsimp only
  rw [ha]

theorem promptFetchDone_tokens {p j k : Nat} {a : Admission} {b : Bytes} {s t : State}
    (ha : fetchingAdmit s p (slotBase s p + j) = some a) (hk : (slotOf s (slotBase s p + j)).req.promptLen = k) (hb : 4 * k ≤ b.length)
    (ht : account (bump s (Reg.HIF_N_RD_BYTE_CNT (part s p).port) (4 * k)) p 0xC0 (4 * k) = t)
    (hv : (List.range k).any (fun i => decide (numAt (decl t p) 12 4 ≤ numAt b (4 * i) 4)) = false) :
    exec (.promptFetchDone p j (some b)) s = .next (modAdmit p (slotBase s p + j) (fun a => { a with fetched := true })
      (writePrompt p a.addr (b.take (4 * k)) t)) := by
  unfold fetchingAdmit at ha
  show execPromptFetchDone p j (some b) s = _
  unfold execPromptFetchDone
  dsimp only
  rw [ha]
  dsimp only
  rw [hk, if_neg (by omega), ht, hv]
  exact if_neg Bool.false_ne_true

theorem replaceBarrierTimeout_due {p : Nat} {r : Replacement} {s : State} (hr : replOf s p = some r) (hs : r.stage = 1)
    (hf : r.forced = false) (ho : r.beginOp.isSome = true) (hl : r.limit ≤ frameNo s) : exec (.replaceBarrierTimeout p) s =
      .next (setRepl p (some { r with forced := true })
        ((slotsIn s p stPrefill ++ slotsIn s p stShip).foldl (fun s n => askSlot n (.fail 0x03A0) s) s)) := by
  show execReplaceBarrierTimeout p s = _
  unfold execReplaceBarrierTimeout
  rw [hr]
  exact if_pos ⟨hs, by simp [hf], ho, hl⟩

/-! ### Images, thaws and transfers (R380, R381, R384, R387) -/

theorem fallowImageComplete_whole {image : Nat} {g : SessImage} {s : State} (hg : imageOf s image = some g) (hs : g.state = 1)
    (hw : g.written = false) (hh : g.header ≠ []) (ha : imageWhole g = true) : exec (.fallowImageComplete image) s =
      (let t := modImage image (fun y => { y with header := finishHeader y, written := true }) s
       .next (if (part t g.part).job.busy then t else completeImage image t)) := by
  have hno : ¬ (g.state ≠ 1 ∨ g.written = true ∨ g.header.isEmpty = true ∨ (!imageWhole g) = true) := by
    simp [hs, hw, hh, ha]
  show execFallowImageComplete image s = _
  unfold execFallowImageComplete
  rw [hg]
  exact if_neg hno

/-- A lead's slot in FALLOW whose image is open and whose own segment is not yet done or failed. -/
structure SegmentOpen (s : State) (p j : Nat) (g : SessImage) : Prop where
  lead : isLead s p = true
  image : imageOf s (slotOf s (slotBase s p + j)).image = some g
  slot : j < slotCount s p
  fallow : (slotOf s (slotBase s p + j)).req.state = stFallow
  notDone : (slotOf s (slotBase s p + j)).imageState ≠ 2
  notFailed : (slotOf s (slotBase s p + j)).imageState ≠ 3

/-- A written segment of the lead is stored and reported: the size counts the header and the members' list. -/
theorem fallowSegmentDone_written {p j : Nat} (hdr : Bytes) (medium : Nat) {g : SessImage} {us : List (Nat × Bytes × Bytes × Bool)}
    {key : Bytes} {size : Nat} {fs : List Nat} {s t : State} (hs : SegmentOpen s p j g)
    (hus : slotUnits s p (slotBase s p + j) g.header = us) (ht : dropWrite p (slotBase s p + j) s = t)
    (hk : keyOf t 2 p (numAt g.header 92 4) = some key)
    (hsize : (us.map (fun u => 256 + 256 * ceilDiv u.2.2.1.length 256)).sum + (512 + 16 * (membersOf t p).length) = size)
    (hfs : (if g.medium = 0 then storeFrames t (ceilDiv size pageBytes) else some []) = some fs)
    (hall : us.all (fun u => u.2.2.2) = true) (hl : isLead t p = true) :
    exec (.fallowSegmentDone p j hdr medium true) s = .next (reportSegment p (numAt g.header 8 8) g.medium size
      (us.map (fun u => (u.1, unitHash u.2.1 u.2.2.1))) (storeSegment ⟨numAt g.header 8 8, p, g.medium, fs,
        us.map (fun u => (u.1, sealUnit key g.header u.2.1 u.2.2.1))⟩ t)) := by
  have hopen : ¬ (slotCount s p ≤ j ∨ (slotOf s (slotBase s p + j)).req.state ≠ stFallow ∨
      (isLead s p && (some g).isNone) = true ∨ (slotOf s (slotBase s p + j)).imageState = 2 ∨
      (slotOf s (slotBase s p + j)).imageState = 3) := by
    simp [Nat.not_le.2 hs.slot, hs.fallow, hs.notDone, hs.notFailed]
  have hgood : us.any (fun u => !u.2.2.2) = false := by
    simpa [List.any_eq_false] using hall
  show execFallowSegmentDone p j hdr medium true s = _
  unfold execFallowSegmentDone
  dsimp only
  rw [if_pos hs.lead, hs.image]
  dsimp only
  rw [if_neg hopen, ht, hk, hus]
  dsimp only
  rw [if_pos hl, hsize, hfs, hgood]
  rfl

/-- A thaw's units that open under its key and fit are placed, and the operation is ready. -/
theorem thawReadDone_placed {x : ThawIn} {o : SessOp} {key : Bytes} {us : List (Nat × Bytes)} {ps : List KvPage} {s t : State}
    (ho : s.srv.sessOps.find? (isThawInto x.part x.image (slotBase s x.part + x.jidx)) = some o) (hh : o.hdr ≠ []) (hst : x.st = 0)
    (hk : keyOf s 2 x.part (numAt o.hdr 92 4) = some key)
    (hus : openUnits s o key (x.units.foldl (fun m u => tput [] m u.1 u.2) []) (unitsNeeded s o) = .inr us)
    (hd : digestDiffers s o us = false) (hp : placeUnits o us ([], s) = some (ps, t)) :
    exec (.thawReadDone x) s =
      (let v := bump t Reg.SESS_BYTES_IN_CNT ((us.map (fun u => u.2.length)).sum)
       .next (thawEnded o 0 us.length (setOps (v.srv.sessOps.map (fun y =>
         if y.op = o.op ∧ y.part = x.part ∧ y.kind = o.kind then { y with pages := ps, ready := true } else y)) v))) := by
  have hhdr : ¬ o.hdr.isEmpty = true := by simpa using hh
  show execThawReadDone x s = _
  unfold execThawReadDone
  simp only [ho, Option.isNone_some, Option.isSome_some, Bool.false_and, Bool.false_eq_true, if_false, if_true, Option.getD_some]
  rw [if_neg hhdr, if_neg (by simp [hst]), hk]
  dsimp only
  rw [hus]
  dsimp only
  rw [hd, if_neg Bool.false_ne_true, hp]

theorem thawReadDone_failed {x : ThawIn} {o : SessOp} {s : State}
    (ho : s.srv.sessOps.find? (isThawInto x.part x.image (slotBase s x.part + x.jidx)) = some o) (hh : o.hdr ≠ []) (hst : x.st ≠ 0) :
    exec (.thawReadDone x) s = .next (thawEnded o x.st 0 s) := by
  have hhdr : ¬ o.hdr.isEmpty = true := by simpa using hh
  show execThawReadDone x s = _
  unfold execThawReadDone
  simp only [ho, Option.isNone_some, Option.isSome_some, Bool.false_and, Bool.false_eq_true, if_false, if_true, Option.getD_some]
  rw [if_neg hhdr, if_pos hst]

theorem sessionXferDone_export {op image l iova k : Nat} (data : Option Bytes) {o : SessOp} {s : State} (ho : opOf s op = some o)
    (hk : o.kind = .exporting image l iova k) : exec (.sessionXferDone op 0 data) s = .next (finishExport o image iova s) := by
  show execSessionXferDone op 0 data s = _
  unfold execSessionXferDone
  rw [ho]
  dsimp only
  rw [hk]
  rfl

theorem sessionXferDone_import {op k medium : Nat} (b : Bytes) {o : SessOp} {s : State} (ho : opOf s op = some o)
    (hk : o.kind = .import k medium) : exec (.sessionXferDone op 0 (some b)) s = .next (finishImport o medium b s) := by
  show execSessionXferDone op 0 (some b) s = _
  unfold execSessionXferDone
  rw [ho]
  dsimp only
  rw [hk]
  rfl

end Sys2Proof.Machine

open Sys2Proof Sys2Proof.Machine

/-- Settles O45, a command's equation for each clause; COMBINE_WINDOW_EXPIRY and DEFERRED_ATOMIC_RESPONSE have no condition and are their
meanings unfolded. -/
theorem remoteCommandsComplete : Obligations.RemoteCommandsComplete := by
  intro s
  refine ⟨fun q ue => remoteRequestHome_serves ue, fun r => remoteResponse_received r, fun reqid tag ha => if_pos ha, fun i => rfl,
    ?access, ?fenceDone, ?fenceWaits, fun tag code => rfl, ?mapped, ?scratch⟩
  case access =>
    rintro a q t hr ha rfl hw hp hroom ht
    exact ccRemoteAccess_issued hr ha hw hp hroom ht
  case fenceDone =>
    intro t hr he
    rw [ccFence_ready hr, if_pos he]
  case fenceWaits =>
    intro t hr he
    rw [ccFence_ready hr, if_neg (by simp [he])]
  case mapped =>
    intro a ue ht hr hp hm
    rw [ccLocalAccess_plain ue ht hr hp]
    exact if_pos hm
  case scratch =>
    intro a ue ht hr hp hm ho hlive
    have hmay : ¬ ((!ownScratch (takeUe ue s) (threadOwner s a.thread) a.addr) = true ∨
        (a.op = .store ∧ liveLocked (takeUe ue s) a.addr (2 ^ a.size) = true)) := by
      rintro (h | ⟨h1, h2⟩)
      · simp [ho] at h
      · simp [hlive h1] at h2
    rw [ccLocalAccess_plain ue ht hr hp]
    dsimp only
    rw [if_neg (Nat.not_lt.2 hm), if_neg hmay]
    exact (apply_ite Host.Outcome.next _ _ _).symm

/-- Settles O47: an expected message that is new has its row's effect (`applyCtl_heard`), which each clause's conditions determine. That an
ASSIGN is answered by the later INSTALLED is log 59, that a unit without an operation is an import's is log 61 (both deduced). -/
theorem serviceMessagesComplete : Obligations.ServiceMessagesComplete := by
  intro h s u hu hn he
  have heard {f : State → CtlAnswer × State} {a : CtlAnswer} {v : State} (hf : f u = (a, v)) :
      Host.Outcome.next (applyCtl h f s) = (.next (heardCtl h a v) : Host.Outcome State Fault Refusal) :=
    congrArg _ (applyCtl_heard hu hn he hf)
  refine ⟨fun slots pages i hi => heard (applyGrant_target slots pages hi), fun slots pages i hi => heard (applyReturn_source slots pages hi),
    ?assign, fun jidx gen tjidx tgen i n hi hn => heard (applyInstalled_assigned tjidx tgen hi hn),
    fun unit w void d k hk => heard (applyPkgDigest_member unit w void d hk),
    fun unit w void mid epoch d k hk hm he hu => heard (applySliceDigest_peer void d hk hm he hu),
    fun unit epoch r k hr hk he hn => heard (applyUnitDone_new hr hk he hn),
    fun image last medium bytes units uhs hi => heard (applySegReport_image last medium bytes units uhs hi),
    fun image i off want b hb => heard (applyUnitFetch_held hb),
    fun image i off st data o ho => heard (applyUnitData_operation i off st data ho),
    fun image i off data ho => heard (applyUnitData_import i off data ho),
    fun image st units o ho => heard (applyThawReport_thaw st units ho), fun image => heard rfl⟩
  case assign =>
    rintro req ctl jidx gen i g n r hi rfl hl h3 h0 hslot hpages hfree
    exact heard (applyAssign_granted jidx gen hi hl h3 h0 hslot hpages hfree)

/-- Settles O56, an event's equation for each clause. That an image of a partition without a running job is complete at once is log 61
(deduced). -/
theorem sessionEventsComplete : Obligations.SessionEventsComplete := by
  intro s
  refine ⟨fun p j => requestLingerExpiry_due, ?prompt, fun p j a ha => promptFetchDone_noData ha, fun p r => replaceBarrierTimeout_due,
    ?segment, fun image g => fallowImageComplete_whole, fun image st => rfl, fun x o key us ps t => thawReadDone_placed,
    fun x o => thawReadDone_failed, fun op o image l iova k data => sessionXferDone_export data,
    fun op o k medium b => sessionXferDone_import b⟩
  case prompt =>
    rintro p j a b k n t rfl ha hk hb ht hv
    exact promptFetchDone_tokens ha hk hb ht hv
  case segment =>
    rintro p j hdr medium g n us t key size fs rfl hl hg hj hs h2 h3 hus ht hk hsize hfs hall hlt
    exact fallowSegmentDone_written hdr medium ⟨hl, hg, hj, hs, h2, h3⟩ hus ht hk hsize hfs hall hlt

end

section
/-!
SUPPORT, and the statements on the request, queue and session commands: each handler's outcome where its conditions hold, and what a slot in
FALLOW refuses.
-/

namespace Sys2Proof.Machine

/-! ### REQ_SUBMIT (R343, R353, R354) -/

/-- A descriptor that is read whole and has its reserved fields 0 is a turn's or a new request's. -/
theorem cmdReqSubmit_read {e : Entry} {io : HostIo} {u : State} {d : Bytes} (hin : inputOf e io 128 = some d) (hlen : 128 ≤ d.length)
    (hres : descReserved d = true) : cmdReqSubmit e io u =
      (if flag e 0 then submitTurn e d u else if arg e 16 4 ≠ 0 then refuseCmd 0x0101 u else submitNew e d u) := by
  unfold cmdReqSubmit
  rw [hin]
  dsimp only
  rw [if_neg (Nat.not_lt.2 hlen), if_neg (by simp [hres])]

/-- What the lead asks of a new request before it looks for room. -/
structure NewAllowed (e : Entry) (d : Bytes) (u : State) : Prop where
  lead : isLead u e.part = true
  job : (part u e.part).job.busy = true
  range : descRangeOk d = true
  served : unservable u e.part (numAt d 16 3) false = false
  queue : queueStatus u e.part (numAt d 14 1 % 64) = true

theorem submitNew_takes {e : Entry} {d : Bytes} {u : State} {n : Nat} (ha : NewAllowed e d u) (hn : freeSlotOf u e.part = some n)
    (hdepth : rd u (Reg.SRV_Q_DEPTH (numAt d 14 1 % 64)) < rd u (Reg.SRV_Q_DEPTH_MAX (numAt d 14 1 % 64)))
    (hpool : roleOf u e.part = 0 ∨ (newSlot u e.part n d).ctl.kvResv ≤ poolPositions u e.part)
    (hdead : (newSlot u e.part n d).req.deadline = 2 ^ 48 - 1 ∨
      submitFrame u e.part (newSlot u e.part n d).req ≤ (newSlot u e.part n d).req.deadline) :
    submitNew e d u =
      (let t := setSlot e.part n (newSlot u e.part n d) (modSrv (fun v => { v with order := v.order + 1 }) u)
       doneCmd (leBytes 4 (handleOf t n) ++ leBytes 6 (submitFrame u e.part (newSlot u e.part n d).req)) t) := by
  have hfits : ¬ (roleOf u e.part ≠ 0 ∧ poolPositions u e.part < (newSlot u e.part n d).ctl.kvResv) := by omega
  have hintime : ¬ ((newSlot u e.part n d).req.deadline ≠ 2 ^ 48 - 1 ∧
      (newSlot u e.part n d).req.deadline < submitFrame u e.part (newSlot u e.part n d).req) := by omega
  unfold submitNew
  dsimp only
  rw [if_neg (by simp [ha.lead]), if_neg (by simp [ha.job]), if_neg (by simp [ha.range]), if_neg (by simp [ha.served]),
    if_neg (by simp [ha.queue]), hn]
  dsimp only
  rw [if_neg (Nat.not_le.2 hdepth), if_neg hfits, if_neg hintime]

/-- What the lead asks of a turn and of the slot its handle names. -/
structure TurnAllowed (e : Entry) (d : Bytes) (u : State) (n : Nat) : Prop where
  lead : isLead u e.part = true
  job : (part u e.part).job.busy = true
  range : descRangeOk d = true
  slot : handleSlot u e.part (arg e 16 4) = some n

theorem submitTurn_held {e : Entry} {d : Bytes} {u : State} {n : Nat} (ha : TurnAllowed e d u n) (hrole : roleOf u e.part ≠ 0)
    (hst : (slotOf u n).req.state = stHold) (hcause : (slotOf u n).req.cause = 8) (hr : (replOf u e.part).isNone = true)
    (hserved : unservable u e.part (numAt d 16 3) true = false) (hq : queueStatus u e.part (slotOf u n).req.queue = true)
    (hdepth : rd u (Reg.SRV_Q_DEPTH (slotOf u n).req.queue) < rd u (Reg.SRV_Q_DEPTH_MAX (slotOf u n).req.queue))
    (hdead : (turnReq d (slotOf u n).req).deadline = 2 ^ 48 - 1 ∨
      submitFrame u e.part (turnReq d (slotOf u n).req) ≤ (turnReq d (slotOf u n).req).deadline) :
    submitTurn e d u = doneCmd (leBytes 4 (handleOf u n) ++ leBytes 6 (submitFrame u e.part (turnReq d (slotOf u n).req)))
      (askSlot n (.cont d (applTime u)) u) := by
  have hheld : ¬ (roleOf u e.part = 0 ∨ (slotOf u n).req.state ≠ stHold ∨ (slotOf u n).req.cause ≠ 8) := by
    simp [hrole, hst, hcause]
  have hintime : ¬ ((turnReq d (slotOf u n).req).deadline ≠ 2 ^ 48 - 1 ∧
      (turnReq d (slotOf u n).req).deadline < submitFrame u e.part (turnReq d (slotOf u n).req)) := by omega
  unfold submitTurn
  dsimp only
  rw [if_neg (by simp [ha.lead]), if_neg (by simp [ha.job]), if_neg (by simp [ha.range]), ha.slot]
  dsimp only
  rw [if_neg hheld, if_neg (by simp [Option.isNone_iff_eq_none.1 hr]), if_neg (by simp [hserved]), if_neg (by simp [hq]),
    if_neg (Nat.not_le.2 hdepth), if_neg hintime]

/-- A turn of a slot that does not hold is turned away and counted. -/
theorem submitTurn_notHeld {e : Entry} {d : Bytes} {u : State} {n : Nat} (ha : TurnAllowed e d u n)
    (hst : (slotOf u n).req.state ≠ stHold) : submitTurn e d u = rejectReq e.part 0x0300 u := by
  unfold submitTurn
  dsimp only
  rw [if_neg (by simp [ha.lead]), if_neg (by simp [ha.job]), if_neg (by simp [ha.range]), ha.slot]
  exact if_pos (.inr (.inl hst))

/-! ### REQ_CANCEL and REQ_QUERY (R346, R362) -/

theorem cmdReqCancel_found {e : Entry} (io : HostIo) {u : State} {n : Nat} (hl : isLead u e.part = true)
    (hn : handleSlot u e.part (arg e 8 4) = some n) : cmdReqCancel e io u =
      (if (slotOf u n).req.state = stDrain ∨ 8 ≤ (slotOf u n).req.state ∨ (slotOf u n).req.state = stFallow then refuseCmd 0x0300 u
       else doneCmd [] (askSlot n .cancel u)) := by
  unfold cmdReqCancel
  rw [if_neg (by simp [hl]), hn]

/-- The records of a slot as REQ_QUERY gives them out. -/
def slotRecords (x : Slot) : Bytes := reqBytes x.req ++ ctlBytes x.ctl

theorem cmdReqQuery_found {e : Entry} (io : HostIo) {u : State} {n : Nat} (hl : isLead u e.part = true)
    (hn : handleSlot u e.part (arg e 8 4) = some n) (hend : flag e 0 = true → 8 ≤ (slotOf u n).req.state) :
    cmdReqQuery e io u =
      (let t := if flag e 0 then askSlot n .release u else u
       if arg e 16 8 = 0 then doneCmd (queryResult (slotOf u n)) t
       else withOutput e io (arg e 16 8) (slotRecords (slotOf u n)) (queryResult (slotOf u n)) t) := by
  have hends : ¬ (flag e 0 && decide ((slotOf u n).req.state < 8)) = true := by
    simpa using hend
  unfold cmdReqQuery
  rw [if_neg (by simp [hl]), hn]
  dsimp only
  rw [if_neg hends]
  rfl

/-- A query, with the release it may ask for: the result, and the records where a buffer is named. -/
theorem runRow_reqQuery {e : Entry} {io : HostIo} {s t : State} {n : Nat} (hf : fetched Row.reqQuery e s = true)
    (hl : isLead (startCmd e s) e.part = true) (hn : handleSlot (startCmd e s) e.part (arg e 8 4) = some n)
    (hend : flag e 0 = true → 8 ≤ (slotOf (startCmd e s) n).req.state)
    (hd : arg e 16 8 = 0 ∨ delivered Row.reqQuery e io s = true)
    (ht : (if flag e 0 then askSlot n .release (startCmd e s) else startCmd e s) = t) :
    runRow Row.reqQuery cmdReqQuery e io s = .next
      (if arg e 16 8 = 0 then complete e 0 (queryResult (slotOf (startCmd e s) n)) [] t
       else complete e 0 (queryResult (slotOf (startCmd e s) n)) (inlineOf e (slotRecords (slotOf (startCmd e s) n)))
         (sentTo e (arg e 16 8) (slotRecords (slotOf (startCmd e s) n)) t)) := by
  have ho := cmdReqQuery_found (granted Row.reqQuery e io s) hl hn hend
  rw [ht] at ho
  by_cases h0 : arg e 16 8 = 0
  · rw [if_pos h0]
    exact runRow_done hf (ho.trans (if_pos h0))
  · rw [if_neg h0]
    exact runRow_done hf ((ho.trans (if_neg h0)).trans (withOutput_delivered (hd.resolve_left h0) _ _ _ _))

/-! ### Queues, rings and admission (R345, R347, R464) -/

theorem cmdQueueConfig_set {e : Entry} (io : HostIo) {u : State} (hq : arg e 8 1 ≤ 63) (hflag : flag e 0 = false)
    (hw : arg e 9 1 ≠ 0)
    (ho : queueSoon u (arg e 8 1) = none ∧ isVf e = false ∨ ∃ c, queueSoon u (arg e 8 1) = some c ∧ c.1 = e.part) :
    cmdQueueConfig e io u = doneCmd []
      (modSrv (fun v => { v with queueNext := v.queueNext ++ [(arg e 8 1, some (e.part, arg e 9 1, arg e 10 2))] }) u) := by
  have hrange : ¬ (63 < arg e 8 1 ∨ (!flag e 0 && arg e 9 1 == 0) = true) := by
    simp [hw, Nat.not_lt.2 hq]
  have hset : ¬ flag e 0 = true := by simp [hflag]
  unfold cmdQueueConfig
  dsimp only
  rw [if_neg hrange]
  obtain ⟨hnone, hv⟩ | ⟨c, hc, howner⟩ := ho
  · rw [hnone]
    dsimp only
    rw [if_neg (by simp [hv]), if_neg hset]
  · rw [hc]
    dsimp only
    rw [if_neg (fun h => h howner), if_neg hset]

theorem cmdQueueConfig_removes {e : Entry} (io : HostIo) {u : State} {c : Nat × Nat × Nat} (hq : arg e 8 1 ≤ 63)
    (hflag : flag e 0 = true) (hv : isVf e = false) (hc : queueSoon u (arg e 8 1) = some c) (ho : c.1 = e.part)
    (hd : rd u (Reg.SRV_Q_DEPTH (arg e 8 1)) = 0) : cmdQueueConfig e io u =
      doneCmd [] (modSrv (fun v => { v with queueNext := v.queueNext ++ [(arg e 8 1, none)] }) u) := by
  unfold cmdQueueConfig
  dsimp only
  rw [if_neg (by simp [hflag, Nat.not_lt.2 hq]), hc]
  dsimp only
  rw [if_neg (fun h => h ho), if_pos hflag, if_neg (by simp [hv]), if_neg (fun h => h hd)]

theorem cmdQueueConfig_unset {e : Entry} (io : HostIo) {u : State} (hq : arg e 8 1 ≤ 63) (hflag : flag e 0 = true)
    (hv : isVf e = false) (hn : queueSoon u (arg e 8 1) = none) : cmdQueueConfig e io u = doneCmd [] u := by
  unfold cmdQueueConfig
  dsimp only
  rw [if_neg (by simp [hflag, Nat.not_lt.2 hq]), hn]
  dsimp only
  rw [if_neg (by simp [hv]), if_pos hflag]

/-- A ring slot of a serving partition that is not decoding, holding or draining takes a ring, or gives it up. -/
theorem cmdStreamBind_idle {e : Entry} (io : HostIo) {u : State}
    (halign : flag e 0 = false → arg e 16 8 % 4096 = 0 ∧ arg e 24 8 % 8 = 0) (hj : arg e 8 2 < slotCount u e.part)
    (hrole : roleOf u e.part ≠ 0) (hdec : (slotOf u (slotBase u e.part + arg e 8 2)).req.state ≠ stDecode)
    (hhold : (slotOf u (slotBase u e.part + arg e 8 2)).req.state ≠ stHold)
    (hdrain : (slotOf u (slotBase u e.part + arg e 8 2)).req.state ≠ stDrain) :
    cmdStreamBind e io u = doneCmd [] (setRing (slotBase u e.part + arg e 8 2)
      (if flag e 0 then none else some ⟨arg e 16 8, arg e 24 8, 0, 0⟩) u) := by
  have hok : ¬ (!flag e 0 && (arg e 16 8 % 4096 != 0 || arg e 24 8 % 8 != 0)) = true := by
    simpa using halign
  unfold cmdStreamBind
  dsimp only
  rw [if_neg hok, if_neg (Nat.not_le.2 hj), if_neg hrole, if_neg (by simp [hdec, hhold, hdrain])]

/-! ### Sessions (R379, R383, R387, R388) -/

theorem cmdSessionFallow_opens {e : Entry} (io : HostIo) {u : State} {n : Nat} (hl : isLead u e.part = true)
    (hn : handleSlot u e.part (arg e 8 4) = some n) (hst : (slotOf u n).req.state = stDecode ∨ (slotOf u n).req.state = stHold)
    (hp : fallowPending u n = false) (hk : (keyOf u 2 e.part (arg e 16 4)).isSome = true) (hroom : sessRoom u 1 = true)
    (hm : mediumRoom u (arg e 12 1) (segmentSize u e.part (slotOf u n).req.ctxLen) = true) :
    cmdSessionFallow e io u =
      (let m := newImage e.part n (arg e 12 1) (arg e 16 4) (some u.kao.nextOp) (newOp 0x0501 e e.part u).2
       pendCmd u.kao.nextOp (leBytes 8 m.1) (askSlot n (.fallow m.1) m.2)) := by
  have hmay : ¬ (((slotOf u n).req.state ≠ stDecode ∧ (slotOf u n).req.state ≠ stHold) ∨ fallowPending u n = true) := by
    rintro (⟨h1, h2⟩ | h)
    · exact hst.elim h1 h2
    · simp [hp] at h
  unfold cmdSessionFallow
  dsimp only
  rw [if_neg (by simp [hl]), hn]
  dsimp only
  rw [if_neg hmay, if_neg (by simp [Option.isSome_iff_ne_none.1 hk]), if_neg (by simp [hroom]), if_neg (by simp [hm])]
  rfl

theorem cmdSessionFallow_refuses {e : Entry} (io : HostIo) {u : State} {n : Nat} (hl : isLead u e.part = true)
    (hn : handleSlot u e.part (arg e 8 4) = some n) (hdec : (slotOf u n).req.state ≠ stDecode)
    (hhold : (slotOf u n).req.state ≠ stHold) : cmdSessionFallow e io u = refuseCmd 0x0300 u := by
  unfold cmdSessionFallow
  dsimp only
  rw [if_neg (by simp [hl]), hn]
  exact if_pos (.inl ⟨hdec, hhold⟩)

/-- Without flag 0 a thaw is that of the slot the handle names. -/
theorem cmdSessionThaw_named {e : Entry} (io : HostIo) {u : State} (hl : isLead u e.part = true)
    (hj : (part u e.part).job.busy = true) (hrole : roleOf u e.part ≠ 0) (hflag : flag e 0 = false) :
    cmdSessionThaw e io u = thawOwn e u := by
  unfold cmdSessionThaw
  dsimp only
  rw [if_neg (by simp [hl]), if_neg (by simp [hj]), if_neg hrole, if_neg (by simp [hflag])]

/-- With flag 0 it is that of a new slot, by a descriptor read whole with its reserved fields 0. -/
theorem cmdSessionThaw_described {e : Entry} {io : HostIo} {u : State} {d : Bytes} (hl : isLead u e.part = true)
    (hj : (part u e.part).job.busy = true) (hrole : roleOf u e.part ≠ 0) (hflag : flag e 0 = true)
    (hin : inputOf e io 128 = some d) (hlen : 128 ≤ d.length) (hres : descReserved d = true) :
    cmdSessionThaw e io u = thawNew e d u := by
  have hzero : ¬ (numAt d 14 1 / 64 ≠ 0 ∨ numAt d 15 1 / 64 ≠ 0 ∨ numAt d 23 1 ≠ 0 ∨ numAt d 47 1 ≠ 0 ∨ numAt d 80 48 ≠ 0) := by
    simp only [descReserved, Bool.and_eq_true, beq_iff_eq] at hres
    omega
  unfold cmdSessionThaw
  dsimp only
  rw [if_neg (by simp [hl]), if_neg (by simp [hj]), if_neg hrole, if_pos hflag, hin]
  dsimp only
  rw [if_neg (Nat.not_lt.2 hlen), if_neg hzero]

/-- The operation of a thaw before its first unit is read. -/
def thawOp (e : Entry) (u : State) (image lead n : Nat) (new : Bool) (d : Bytes) (resv : Nat) : SessOp :=
  ⟨some u.kao.nextOp, e.part, .thaw image lead n new, [], [], 0, [], [], d, resv, false⟩

theorem thawOwn_starts {e : Entry} {u : State} {n : Nat} (hn : handleSlot u e.part (arg e 8 4) = some n)
    (hst : (slotOf u n).req.state = stFallow) (h1 : (slotOf u n).imageState ≠ 1) (h3 : (slotOf u n).imageState ≠ 3)
    (hr : (replOf u e.part).isNone = true) (hroom : sessRoom u 1 = true)
    (hpool : kvReserved u e.part + (slotOf u n).ctl.kvResv ≤ poolPositions u e.part) :
    thawOwn e u = pendCmd u.kao.nextOp [] (startRead
      (thawOp e u (slotOf u n).image (imageLead (slotOf u n).image) n false [] (slotOf u n).ctl.kvResv)
      (slotOf u n).image (imageLead (slotOf u n).image) (newOp 0x0502 e e.part u).2) := by
  unfold thawOwn
  dsimp only
  rw [hn]
  dsimp only
  rw [if_neg (by simp [hst, h1]), if_neg h3, if_neg (by simp [Option.isNone_iff_eq_none.1 hr]), if_neg (by simp [hroom]),
    if_neg (Nat.not_lt.2 hpool)]
  rfl

theorem thawNew_starts {e : Entry} {d : Bytes} {u : State} {n c : Nat}
    (hhere : arg e 24 1 = pkgId u → (imageOf u (arg e 16 8)).any (fun g => g.state == 2) = true)
    (hc : ((imageOf u (arg e 16 8)).map (fun g => numAt g.header 48 4)).getD 0 = c) (hr : (replOf u e.part).isNone = true)
    (hq : queueStatus u e.part (numAt d 14 1 % 64) = true) (hn : freeSlotOf u e.part = some n) (hroom : sessRoom u 1 = true)
    (hpool : kvReserved u e.part + thawResv u e.part c (numAt d 16 3) ≤ poolPositions u e.part) :
    thawNew e d u = pendCmd u.kao.nextOp [] (startRead
      (thawOp e u (arg e 16 8) (arg e 24 1) n true d (thawResv u e.part c (numAt d 16 3)))
      (arg e 16 8) (arg e 24 1) (newOp 0x0502 e e.part u).2) := by
  have himage : ¬ (arg e 24 1 = pkgId u ∧ (!(imageOf u (arg e 16 8)).any (fun g => g.state == 2)) = true) := by
    rintro ⟨h1, h2⟩
    simp [hhere h1] at h2
  unfold thawNew
  dsimp only
  rw [if_neg himage, if_neg (by simp [Option.isNone_iff_eq_none.1 hr]), if_neg (by simp [hq]), hn]
  dsimp only
  rw [if_neg (by simp [hroom])]
  subst hc
  clear himage hhere
  revert hpool
  cases imageOf u (arg e 16 8) with
  | none => exact fun hpool => if_neg (Nat.not_lt.2 hpool)
  | some g => exact fun hpool => if_neg (Nat.not_lt.2 hpool)

theorem cmdSessionExport_starts {e : Entry} (io : HostIo) {u : State} {g : SessImage} (hlead : arg e 16 1 = pkgId u)
    (hg : imageOf u (arg e 8 8) = some g) (hs : g.state = 2) (hsize : exportSize g.header ≤ arg e 32 8) (hroom : sessRoom u 1 = true) :
    cmdSessionExport e io u = pendCmd u.kao.nextOp (leBytes 8 (exportSize g.header))
      (startRead ⟨some u.kao.nextOp, e.part, .exporting g.id (pkgId u) (arg e 24 8) (arg e 32 8), [], [], 0, [], [], [], 0, false⟩
        g.id (pkgId u) (newOp 0x0503 e e.part u).2) := by
  unfold cmdSessionExport
  rw [if_pos hlead, hg]
  dsimp only
  rw [if_neg (fun h => h hs), if_neg (Nat.not_lt.2 hsize), if_neg (by simp [hroom])]
  rfl

theorem cmdSessionImport_starts {e : Entry} (io : HostIo) {u : State} (hl : isLead u e.part = true)
    (hj : (part u e.part).job.busy = true) (hroom : sessRoom u 1 = true)
    (hm : mediumRoom u (arg e 8 1) (arg e 24 8 / (membersOf u e.part).length) = true) :
    cmdSessionImport e io u = pendCmd u.kao.nextOp []
      (addOp ⟨some u.kao.nextOp, e.part, .import 0 (arg e 8 1), [], [], 0, [], [], [], 0, false⟩ (newOp 0x0504 e e.part u).2) := by
  unfold cmdSessionImport
  dsimp only
  rw [if_neg (by simp [hl]), if_neg (by simp [hj]), if_neg (by simp [hroom]), if_neg (by simp [hm])]
  rfl

/-- A discard that no check stops asks the slot's release; with flag 0 the image itself goes, here or at its lead. -/
theorem cmdSessionDiscard_discards {e : Entry} (io : HostIo) {u : State} {n : Option Nat} {img : Option Nat} {lead : Nat}
    (hl : isLead u e.part = true) (hn : (if flag e 1 then handleSlot u e.part (arg e 8 4) else none) = n)
    (himg : discardImage e u n = img)
    (hlead : (if flag e 2 then arg e 24 1 else (img.map imageLead).getD (pkgId u)) = lead)
    (hnamed : flag e 1 = true ∨ flag e 2 = true) (hslot : flag e 1 = true → n.isSome = true)
    (hst : n.all (fun n => (slotOf u n).req.state == stFallow && (slotOf u n).imageState != 1) = true)
    (hdel : flag e 0 = true → sessRoom u 1 = true ∧
      (lead = pkgId u → flag e 2 = true → (img.bind (imageOf u)).isSome = true) ∧
      (img.bind (imageOf u)).all (fun g => (keyOf u 2 e.part g.keyId).isSome && g.state != 1) = true)
    (huse : img.any (imageInUse u) = false) : cmdSessionDiscard e io u = doneCmd []
      (let t := (n.map (fun n => askSlot n .release u)).getD u
       if flag e 0 then (img.map (fun id => if lead = pkgId t then deleteImage id t
         else sendCtl lead 0x54 kaolinTo 0xFFFFFFFF (leBytes 8 id) true t)).getD t else t) := by
  unfold cmdSessionDiscard
  dsimp only
  rw [hn, himg, hlead]
  have h1 : ¬ (flag e 1 && n.isNone) = true := by
    rintro h
    rw [Bool.and_eq_true, Option.isNone_iff_eq_none] at h
    exact Option.isSome_iff_ne_none.1 (hslot h.1) h.2
  have h2 : ¬ (!flag e 1 && !flag e 2) = true := by
    rcases hnamed with h | h <;> simp [h]
  have h3 : ¬ n.any (fun n => (slotOf u n).req.state != stFallow) = true := by
    cases n <;> simp_all
  have h4 : ¬ n.any (fun n => (slotOf u n).imageState == 1) = true := by
    cases n <;> simp_all
  have h5 : ¬ (flag e 0 && lead == pkgId u && (img.bind (imageOf u)).isNone && flag e 2) = true := by
    simp only [Bool.and_eq_true, beq_iff_eq]
    rintro ⟨⟨⟨h0, hp⟩, hnone⟩, hf⟩
    have := (hdel h0).2.1 hp hf
    rw [Option.isSome_iff_ne_none] at this
    exact this (Option.isNone_iff_eq_none.1 hnone)
  have h6 : ¬ (flag e 0 && (img.bind (imageOf u)).any (fun g => (keyOf u 2 e.part g.keyId).isNone)) = true := by
    cases h : flag e 0
    · simp
    · have := (hdel h).2.2
      cases hg : img.bind (imageOf u) <;> simp_all
      cases hk : keyOf u 2 e.part _ <;> simp_all
  have h7 : ¬ (flag e 0 && (img.bind (imageOf u)).any (fun g => g.state == 1)) = true := by
    cases h : flag e 0
    · simp
    · have := (hdel h).2.2
      cases hg : img.bind (imageOf u) <;> simp_all
  have h8 : ¬ (flag e 0 && !sessRoom u 1) = true := by
    cases h : flag e 0
    · simp
    · simp [(hdel h).1]
  rw [if_neg (by simp [hl]), if_neg h1, if_neg h2, if_neg h3, if_neg h4, if_neg h5, if_neg h6, if_neg h7,
    if_neg (by simp [huse]), if_neg h8]
  clear hn himg hlead hslot hst hdel huse h1 h2 h3 h4 h5 h6 h7 h8
  cases n <;> cases img <;> cases flag e 0 <;> rfl

end Sys2Proof.Machine

open Sys2Proof Sys2Proof.Machine

/-- Settles O31: each command completes with its handler's outcome. That QUEUE_CONFIG REMOVE of a queue that is not configured completes with
OK is the model's reading (log 56, deduced). -/
theorem requestCommandsComplete : Obligations.RequestCommandsComplete := by
  rintro e io s u rfl
  refine ⟨?submit, ?turn, ?cancel, ?query, ?release, ?set, ?remove, ?unset, ?bind, ?unbind, fun hf => runRow_done hf rfl⟩
  case submit =>
    intro d n hf hin hlen hres hflag h16 hl hj hrange hserved hq hn hdepth hpool hdead
    have hread := cmdReqSubmit_read (u := startCmd e s) hin hlen hres
    rw [if_neg (by simp [hflag]), if_neg (by simp [h16])] at hread
    exact runRow_done hf (hread.trans (submitNew_takes ⟨hl, hj, hrange, hserved, hq⟩ hn hdepth hpool hdead))
  case turn =>
    intro d n hf hin hlen hres hflag hl hj hrange hn hrole hst hcause hr hserved hq hdepth hdead
    have hread := (cmdReqSubmit_read (u := startCmd e s) hin hlen hres).trans (if_pos hflag)
    exact runRow_done hf (hread.trans (submitTurn_held ⟨hl, hj, hrange, hn⟩ hrole hst hcause hr hserved hq hdepth hdead))
  case cancel =>
    intro n hf hl hn hdrain hend hfallow
    exact runRow_done hf ((cmdReqCancel_found _ hl hn).trans (if_neg (by simp [hdrain, hfallow, Nat.not_le.2 hend])))
  case query =>
    intro n hf hl hn hflag hd
    exact runRow_reqQuery hf hl hn (by simp [hflag]) hd (if_neg (by simp [hflag]))
  case release =>
    intro n hf hl hn hflag hend hd
    exact runRow_reqQuery hf hl hn (fun _ => hend) hd (if_pos hflag)
  case set =>
    intro hf hq hflag hw ho
    exact runRow_done hf (cmdQueueConfig_set _ hq hflag hw ho)
  case remove =>
    intro c hf hq hflag hv hc ho hd
    exact runRow_done hf (cmdQueueConfig_removes _ hq hflag hv hc ho hd)
  case unset =>
    intro hf hq hflag hv hn
    exact runRow_done hf (cmdQueueConfig_unset _ hq hflag hv hn)
  case bind =>
    intro hf hflag h16 h24 hj hrole hdec hhold hdrain
    have ho := cmdStreamBind_idle (granted Row.streamBind e io s) (fun _ => ⟨h16, h24⟩) hj hrole hdec hhold hdrain
    rw [if_neg (by simp [hflag])] at ho
    exact runRow_done hf ho
  case unbind =>
    intro hf hflag hj hrole hdec hhold hdrain
    have ho := cmdStreamBind_idle (granted Row.streamBind e io s) (by simp [hflag]) hj hrole hdec hhold hdrain
    rw [if_pos hflag] at ho
    exact runRow_done hf ho

/-- Settles O21: FALLOW is neither HOLD nor DECODE. That the refused turn counts one rejection is the model's reading of Table 14-13 (log 56,
deduced). -/
theorem fallowSlotsRefuse : Obligations.FallowSlotsRefuse := by
  rintro e io s u n rfl hl hst
  have hdec : (slotOf (startCmd e s) n).req.state ≠ stDecode := by rw [hst]; decide
  have hhold : (slotOf (startCmd e s) n).req.state ≠ stHold := by rw [hst]; decide
  refine ⟨?cancel, ?fallow, ?turn⟩
  case cancel =>
    intro hf hn
    exact runRow_done hf ((cmdReqCancel_found _ hl hn).trans (if_pos (.inr (.inr hst))))
  case fallow =>
    intro hf hn
    exact runRow_done hf (cmdSessionFallow_refuses _ hl hn hdec hhold)
  case turn =>
    intro d hf hflag hn hin hlen hres hrange hj
    have hread := (cmdReqSubmit_read (u := startCmd e s) hin hlen hres).trans (if_pos hflag)
    exact runRow_done hf (hread.trans (submitTurn_notHeld ⟨hl, hj, hrange, hn⟩ hhold))

/-- Settles O32: each command completes with its handler's outcome; a thaw is that of the slot it names or of a new one. -/
theorem sessionCommandsComplete : Obligations.SessionCommandsComplete := by
  rintro e io s u rfl
  refine ⟨?fallow, ?own, ?new, ?exported, ?imported, ?discard⟩
  case fallow =>
    intro n hf hl hn hst hp hk hroom hm
    exact runRow_done hf (cmdSessionFallow_opens _ hl hn hst hp hk hroom hm)
  case own =>
    intro n hf hl hj hrole hflag hn hst h1 h3 hr hroom hpool
    exact runRow_done hf ((cmdSessionThaw_named _ hl hj hrole hflag).trans (thawOwn_starts hn hst h1 h3 hr hroom hpool))
  case new =>
    intro d n c hf hl hj hrole hflag hin hlen hres hhere hc hr hq hn hroom hpool
    exact runRow_done hf ((cmdSessionThaw_described hl hj hrole hflag hin hlen hres).trans (thawNew_starts hhere hc hr hq hn hroom hpool))
  case exported =>
    intro g hf hlead hg hs hsize hroom
    exact runRow_done hf (cmdSessionExport_starts _ hlead hg hs hsize hroom)
  case imported =>
    intro hf hl hj hroom hm
    exact runRow_done hf (cmdSessionImport_starts _ hl hj hroom hm)
  case discard =>
    intro n img lead hf hl hn himg hlead hnamed hslot hst hdel huse
    exact runRow_done hf (cmdSessionDiscard_discards _ hl hn himg hlead hnamed hslot hst hdel huse)

end
